-- ==== Sys2Proof/Word.lean ====
section
/-! DEFINITION. The 64-bit word, the byte, and the plainest reading of bit fields (00 R1, R2). -/

namespace Sys2Proof

/-- A 64-bit register or address value (00 R2). -/
abbrev Word := BitVec 64

/-- A byte of memory. -/
abbrev Byte := BitVec 8

/-- Bits `lo + n - 1 .. lo` of a natural number. -/
def bitsOf (x lo n : Nat) : Nat := x / 2 ^ lo % 2 ^ n

/-- Bit `i` of a natural number. -/
def bitAt (x i : Nat) : Bool := x / 2 ^ i % 2 == 1

/-- `x` with bits `lo + n - 1 .. lo` replaced by the low `n` bits of `v`. -/
def setBits (x lo n v : Nat) : Nat :=
  x / 2 ^ (lo + n) * 2 ^ (lo + n) + v % 2 ^ n * 2 ^ lo + x % 2 ^ lo

/-- The word whose value is `n` modulo 2^64. -/
def toWord (n : Nat) : Word := BitVec.ofNat 64 n

end Sys2Proof
end

