-- ==== Sys2Proof/Syntax.lean ====
section
/-! DEFINITION. Every step of the part as syntax: one constructor per row of the opcode table. The instructions carry the fields of their form (03 R55), ignored fields included; the events and host commands carry what tells one occurrence from another. -/

namespace Sys2Proof

/-- The instructions (03 R75) and the further steps of the device (95). -/
inductive Instr where
  | nop (a b : BitVec 4)
  | add (a b c : BitVec 4) (imm : BitVec 6)
  | sub (a b c : BitVec 4) (imm : BitVec 6)
  | and (a b c : BitVec 4) (imm : BitVec 6)
  | or (a b c : BitVec 4) (imm : BitVec 6)
  | xor (a b c : BitVec 4) (imm : BitVec 6)
  | andn (a b c : BitVec 4) (imm : BitVec 6)
  | shl (a b c : BitVec 4) (imm : BitVec 6)
  | shr (a b c : BitVec 4) (imm : BitVec 6)
  | sar (a b c : BitVec 4) (imm : BitVec 6)
  | rol (a b c : BitVec 4) (imm : BitVec 6)
  | min (a b c : BitVec 4) (imm : BitVec 6)
  | max (a b c : BitVec 4) (imm : BitVec 6)
  | minN (a b c : BitVec 4) (imm : BitVec 6)
  | maxN (a b c : BitVec 4) (imm : BitVec 6)
  | slt (a b c : BitVec 4) (imm : BitVec 6)
  | sltN (a b c : BitVec 4) (imm : BitVec 6)
  | seq (a b c : BitVec 4) (imm : BitVec 6)
  | mul (a b c : BitVec 4) (imm : BitVec 6)
  | mulh (a b c : BitVec 4) (imm : BitVec 6)
  | mulhN (a b c : BitVec 4) (imm : BitVec 6)
  | div (a b c : BitVec 4) (imm : BitVec 6)
  | divN (a b c : BitVec 4) (imm : BitVec 6)
  | rem (a b c : BitVec 4) (imm : BitVec 6)
  | remN (a b c : BitVec 4) (imm : BitVec 6)
  | addw (a b c : BitVec 4) (imm : BitVec 6)
  | subw (a b c : BitVec 4) (imm : BitVec 6)
  | mulw (a b c : BitVec 4) (imm : BitVec 6)
  | adds (a b c : BitVec 4) (imm : BitVec 6)
  | subs (a b c : BitVec 4) (imm : BitVec 6)
  | clz (a b c : BitVec 4) (imm : BitVec 6)
  | ctz (a b c : BitVec 4) (imm : BitVec 6)
  | popc (a b c : BitVec 4) (imm : BitVec 6)
  | brev (a b c : BitVec 4) (imm : BitVec 6)
  | bswap (a b c : BitVec 4) (imm : BitVec 6)
  | addi (a b c : BitVec 4) (imm : BitVec 22)
  | andi (a b c : BitVec 4) (imm : BitVec 22)
  | ori (a b c : BitVec 4) (imm : BitVec 22)
  | xori (a b c : BitVec 4) (imm : BitVec 22)
  | shli (a b c : BitVec 4) (imm : BitVec 22)
  | shri (a b c : BitVec 4) (imm : BitVec 22)
  | sari (a b c : BitVec 4) (imm : BitVec 22)
  | roli (a b c : BitVec 4) (imm : BitVec 22)
  | muli (a b c : BitVec 4) (imm : BitVec 22)
  | slti (a b c : BitVec 4) (imm : BitVec 22)
  | sltiN (a b c : BitVec 4) (imm : BitVec 22)
  | seqi (a b c : BitVec 4) (imm : BitVec 22)
  | li (a b c : BitVec 4) (imm : BitVec 32)
  | lih (a b c : BitVec 4) (imm : BitVec 32)
  | liz (a b c : BitVec 4) (imm : BitVec 32)
  | la (a b c : BitVec 4) (imm : BitVec 32)
  | mov (a b : BitVec 4)
  | crr (a b c : BitVec 4) (imm : BitVec 22)
  | crw (a b c : BitVec 4) (imm : BitVec 22)
  | crs (a b c : BitVec 4) (imm : BitVec 22)
  | crc (a b c : BitVec 4) (imm : BitVec 22)
  | wpget (a b c : BitVec 4) (imm : BitVec 6)
  | wpset (a b c : BitVec 4) (imm : BitVec 6)
  | yield (a b c : BitVec 4) (imm : BitVec 6)
  | wfld (a b c : BitVec 4) (imm : BitVec 6)
  | sel (a b c : BitVec 4) (imm : BitVec 6)
  | selz (a b c : BitVec 4) (imm : BitVec 6)
  | jr (a b c : BitVec 4) (imm : BitVec 6)
  | callr (a b c : BitVec 4) (imm : BitVec 6)
  | b (a b : BitVec 4) (disp : BitVec 27) (slot : BitVec 5)
  | call (a b : BitVec 4) (disp : BitVec 27) (slot : BitVec 5)
  | bz (a b : BitVec 4) (disp : BitVec 27) (slot : BitVec 5)
  | bnz (a b : BitVec 4) (disp : BitVec 27) (slot : BitVec 5)
  | blt (a b : BitVec 4) (disp : BitVec 27) (slot : BitVec 5)
  | bge (a b : BitVec 4) (disp : BitVec 27) (slot : BitVec 5)
  | bltN (a b : BitVec 4) (disp : BitVec 27) (slot : BitVec 5)
  | bgeN (a b : BitVec 4) (disp : BitVec 27) (slot : BitVec 5)
  | ldB (a b c : BitVec 4) (imm : BitVec 22)
  | ldBn (a b c : BitVec 4) (imm : BitVec 22)
  | ldH (a b c : BitVec 4) (imm : BitVec 22)
  | ldHn (a b c : BitVec 4) (imm : BitVec 22)
  | ldW (a b c : BitVec 4) (imm : BitVec 22)
  | ldWn (a b c : BitVec 4) (imm : BitVec 22)
  | ldD (a b c : BitVec 4) (imm : BitVec 22)
  | ldQ (a b c : BitVec 4) (imm : BitVec 22)
  | stB (a b c : BitVec 4) (imm : BitVec 22)
  | stH (a b c : BitVec 4) (imm : BitVec 22)
  | stW (a b c : BitVec 4) (imm : BitVec 22)
  | stD (a b c : BitVec 4) (imm : BitVec 22)
  | stQ (a b c : BitVec 4) (imm : BitVec 22)
  | ldxB (a b c : BitVec 4) (imm : BitVec 6)
  | ldxBn (a b c : BitVec 4) (imm : BitVec 6)
  | ldxH (a b c : BitVec 4) (imm : BitVec 6)
  | ldxHn (a b c : BitVec 4) (imm : BitVec 6)
  | ldxW (a b c : BitVec 4) (imm : BitVec 6)
  | ldxWn (a b c : BitVec 4) (imm : BitVec 6)
  | ldxD (a b c : BitVec 4) (imm : BitVec 6)
  | ldxQ (a b c : BitVec 4) (imm : BitVec 6)
  | stxB (a b c : BitVec 4) (imm : BitVec 6)
  | stxH (a b c : BitVec 4) (imm : BitVec 6)
  | stxW (a b c : BitVec 4) (imm : BitVec 6)
  | stxD (a b c : BitVec 4) (imm : BitVec 6)
  | stxQ (a b c : BitVec 4) (imm : BitVec 6)
  | amoSwap (a b c : BitVec 4) (imm : BitVec 6)
  | amoAdd (a b c : BitVec 4) (imm : BitVec 6)
  | amoAnd (a b c : BitVec 4) (imm : BitVec 6)
  | amoOr (a b c : BitVec 4) (imm : BitVec 6)
  | amoXor (a b c : BitVec 4) (imm : BitVec 6)
  | amoMin (a b c : BitVec 4) (imm : BitVec 6)
  | amoMax (a b c : BitVec 4) (imm : BitVec 6)
  | amoMinN (a b c : BitVec 4) (imm : BitVec 6)
  | amoMaxN (a b c : BitVec 4) (imm : BitVec 6)
  | amoCas (a b c : BitVec 4) (imm : BitVec 6)
  | amoFadd (a b c : BitVec 4) (imm : BitVec 6)
  | fence (a b c : BitVec 4) (imm : BitVec 6)
  | fenceAcq (a b c : BitVec 4) (imm : BitVec 6)
  | fenceRel (a b c : BitVec 4) (imm : BitVec 6)
  | waitc (a b wl ws wc wm : BitVec 4)
  | redAdd (a b c : BitVec 4) (imm : BitVec 6)
  | redAnd (a b c : BitVec 4) (imm : BitVec 6)
  | redOr (a b c : BitVec 4) (imm : BitVec 6)
  | redXor (a b c : BitVec 4) (imm : BitVec 6)
  | redMin (a b c : BitVec 4) (imm : BitVec 6)
  | redMax (a b c : BitVec 4) (imm : BitVec 6)
  | redFadd (a b c : BitVec 4) (imm : BitVec 6)
  | ldf (a b c : BitVec 4) (imm : BitVec 22)
  | ldfe (a b c : BitVec 4) (imm : BitVec 22)
  | fill (a b c : BitVec 4) (imm : BitVec 22)
  | fillX (a b c : BitVec 4) (imm : BitVec 22)
  | empty (a b c : BitVec 4) (imm : BitVec 22)
  | feq (a b c : BitVec 4) (imm : BitVec 22)
  | pass (a b c : BitVec 4) (imm : BitVec 6)
  | take (a b c : BitVec 4) (imm : BitVec 6)
  | peek (a b c : BitVec 4) (imm : BitVec 6)
  | carm (a b c : BitVec 4) (imm : BitVec 6)
  | cdec (a b c : BitVec 4) (imm : BitVec 6)
  | cready (a b c : BitVec 4) (imm : BitVec 6)
  | cpop (a b c : BitVec 4) (imm : BitVec 6)
  | cdone (a b c : BitVec 4) (imm : BitVec 6)
  | send (a b c : BitVec 4) (imm : BitVec 6)
  | rpoll (a b c : BitVec 4) (imm : BitVec 6)
  | rwait (a b c : BitVec 4) (imm : BitVec 6)
  | radv (a b c : BitVec 4) (imm : BitVec 6)
  | rbind (a b c : BitVec 4) (imm : BitVec 6)
  | rclose (a b c : BitVec 4) (imm : BitVec 6)
  | qrec (a b c : BitVec 4) (imm : BitVec 6)
  | qthaw (a b c : BitVec 4) (imm : BitVec 6)
  | qfreeze (a b c : BitVec 4) (imm : BitVec 6)
  | barSync (a b c : BitVec 4) (imm : BitVec 6)
  | barArrive (a b c : BitVec 4) (imm : BitVec 6)
  | barWait (a b c : BitVec 4) (imm : BitVec 6)
  | dbarSync (a b c : BitVec 4) (imm : BitVec 6)
  | dbarArrive (a b c : BitVec 4) (imm : BitVec 6)
  | dbarWait (a b c : BitVec 4) (imm : BitVec 6)
  | lock (a b c : BitVec 4) (imm : BitVec 6)
  | trylock (a b c : BitVec 4) (imm : BitVec 6)
  | unlock (a b c : BitVec 4) (imm : BitVec 6)
  | heir (a b c : BitVec 4) (imm : BitVec 6)
  | disown (a b c : BitVec 4) (imm : BitVec 6)
  | estq (a b c : BitVec 4) (imm : BitVec 6)
  | ack (a b c : BitVec 4) (imm : BitVec 6)
  | convey (a b c : BitVec 4) (imm : BitVec 6)
  | fork (a b c : BitVec 4) (imm : BitVec 6)
  | rdv (a b c : BitVec 4) (imm : BitVec 6)
  | cpy (a b c : BitVec 4) (imm : BitVec 6)
  | cpyt (a b c : BitVec 4) (imm : BitVec 6)
  | cevq (a b c : BitVec 4) (imm : BitVec 6)
  | vadd (a b : BitVec 4) (vd va vb : BitVec 5) (k : BitVec 3) (md : BitVec 8)
  | vsub (a b : BitVec 4) (vd va vb : BitVec 5) (k : BitVec 3) (md : BitVec 8)
  | vmul (a b : BitVec 4) (vd va vb : BitVec 5) (k : BitVec 3) (md : BitVec 8)
  | vmin (a b : BitVec 4) (vd va vb : BitVec 5) (k : BitVec 3) (md : BitVec 8)
  | vmax (a b : BitVec 4) (vd va vb : BitVec 5) (k : BitVec 3) (md : BitVec 8)
  | vand (a b : BitVec 4) (vd va vb : BitVec 5) (k : BitVec 3) (md : BitVec 8)
  | vor (a b : BitVec 4) (vd va vb : BitVec 5) (k : BitVec 3) (md : BitVec 8)
  | vxor (a b : BitVec 4) (vd va vb : BitVec 5) (k : BitVec 3) (md : BitVec 8)
  | vshl (a b : BitVec 4) (vd va vb : BitVec 5) (k : BitVec 3) (md : BitVec 8)
  | vshr (a b : BitVec 4) (vd va vb : BitVec 5) (k : BitVec 3) (md : BitVec 8)
  | vsar (a b : BitVec 4) (vd va vb : BitVec 5) (k : BitVec 3) (md : BitVec 8)
  | vadds (a b : BitVec 4) (vd va vb : BitVec 5) (k : BitVec 3) (md : BitVec 8)
  | vsubs (a b : BitVec 4) (vd va vb : BitVec 5) (k : BitVec 3) (md : BitVec 8)
  | vabs (a b : BitVec 4) (vd va vb : BitVec 5) (k : BitVec 3) (md : BitVec 8)
  | vfadd (a b : BitVec 4) (vd va vb : BitVec 5) (k : BitVec 3) (md : BitVec 8)
  | vfsub (a b : BitVec 4) (vd va vb : BitVec 5) (k : BitVec 3) (md : BitVec 8)
  | vfmul (a b : BitVec 4) (vd va vb : BitVec 5) (k : BitVec 3) (md : BitVec 8)
  | vfma (a b : BitVec 4) (vd va vb : BitVec 5) (k : BitVec 3) (md : BitVec 8)
  | vfmin (a b : BitVec 4) (vd va vb : BitVec 5) (k : BitVec 3) (md : BitVec 8)
  | vfmax (a b : BitVec 4) (vd va vb : BitVec 5) (k : BitVec 3) (md : BitVec 8)
  | vrcp (a b : BitVec 4) (vd va vb : BitVec 5) (k : BitVec 3) (md : BitVec 8)
  | vrsq (a b : BitVec 4) (vd va vb : BitVec 5) (k : BitVec 3) (md : BitVec 8)
  | vexp2 (a b : BitVec 4) (vd va vb : BitVec 5) (k : BitVec 3) (md : BitVec 8)
  | vlog2 (a b : BitVec 4) (vd va vb : BitVec 5) (k : BitVec 3) (md : BitVec 8)
  | vfneg (a b : BitVec 4) (vd va vb : BitVec 5) (k : BitVec 3) (md : BitVec 8)
  | vfabs (a b : BitVec 4) (vd va vb : BitVec 5) (k : BitVec 3) (md : BitVec 8)
  | vcmpEq (a b : BitVec 4) (vd va vb : BitVec 5) (k : BitVec 3) (md : BitVec 8)
  | vcmpLt (a b : BitVec 4) (vd va vb : BitVec 5) (k : BitVec 3) (md : BitVec 8)
  | vcmpLe (a b : BitVec 4) (vd va vb : BitVec 5) (k : BitVec 3) (md : BitVec 8)
  | vcmpNe (a b : BitVec 4) (vd va vb : BitVec 5) (k : BitVec 3) (md : BitVec 8)
  | vblend (a b : BitVec 4) (vd va vb : BitVec 5) (k : BitVec 3) (md : BitVec 8)
  | kand (a b : BitVec 4) (vd va vb : BitVec 5) (k : BitVec 3) (md : BitVec 8)
  | kor (a b : BitVec 4) (vd va vb : BitVec 5) (k : BitVec 3) (md : BitVec 8)
  | kxor (a b : BitVec 4) (vd va vb : BitVec 5) (k : BitVec 3) (md : BitVec 8)
  | knot (a b : BitVec 4) (vd va vb : BitVec 5) (k : BitVec 3) (md : BitVec 8)
  | kpop (a b : BitVec 4) (vd va vb : BitVec 5) (k : BitVec 3) (md : BitVec 8)
  | vcvt (a b : BitVec 4) (vd va vb : BitVec 5) (k : BitVec 3) (md : BitVec 8)
  | vpack (a b : BitVec 4) (vd va vb : BitVec 5) (k : BitVec 3) (md : BitVec 8)
  | vunpk (a b : BitVec 4) (vd va vb : BitVec 5) (k : BitVec 3) (md : BitVec 8)
  | vrnd (a b : BitVec 4) (vd va vb : BitVec 5) (k : BitVec 3) (md : BitVec 8)
  | vld (a b : BitVec 4) (vd va vb : BitVec 5) (k : BitVec 3) (md : BitVec 8)
  | vst (a b : BitVec 4) (vd va vb : BitVec 5) (k : BitVec 3) (md : BitVec 8)
  | vlds (a b : BitVec 4) (vd va vb : BitVec 5) (k : BitVec 3) (md : BitVec 8)
  | vsts (a b : BitVec 4) (vd va vb : BitVec 5) (k : BitVec 3) (md : BitVec 8)
  | vgath (a b : BitVec 4) (vd va vb : BitVec 5) (k : BitVec 3) (md : BitVec 8)
  | vscat (a b : BitVec 4) (vd va vb : BitVec 5) (k : BitVec 3) (md : BitVec 8)
  | vstk (a b : BitVec 4) (vd va vb : BitVec 5) (k : BitVec 3) (md : BitVec 8)
  | vldb (a b : BitVec 4) (vd va vb : BitVec 5) (k : BitVec 3) (md : BitVec 8)
  | vshuf (a b : BitVec 4) (vd va vb : BitVec 5) (k : BitVec 3) (md : BitVec 8)
  | vbcast (a b : BitVec 4) (vd va vb : BitVec 5) (k : BitVec 3) (md : BitVec 8)
  | vext (a b : BitVec 4) (vd va vb : BitVec 5) (k : BitVec 3) (md : BitVec 8)
  | vrot (a b : BitVec 4) (vd va vb : BitVec 5) (k : BitVec 3) (md : BitVec 8)
  | vins (a b : BitVec 4) (vd va vb : BitVec 5) (k : BitVec 3) (md : BitVec 8)
  | vscanAdd (a b : BitVec 4) (vd va vb : BitVec 5) (k : BitVec 3) (md : BitVec 8)
  | vscanMax (a b : BitVec 4) (vd va vb : BitVec 5) (k : BitVec 3) (md : BitVec 8)
  | vscanLin (a b : BitVec 4) (vd va vb : BitVec 5) (k : BitVec 3) (md : BitVec 8)
  | vredAdd (a b : BitVec 4) (vd va vb : BitVec 5) (k : BitVec 3) (md : BitVec 8)
  | vredMax (a b : BitVec 4) (vd va vb : BitVec 5) (k : BitVec 3) (md : BitVec 8)
  | vcarry (a b : BitVec 4) (vd va vb : BitVec 5) (k : BitVec 3) (md : BitVec 8)
  | rep (a b c : BitVec 4) (imm : BitVec 22)
  | mma (a b : BitVec 4) (vd va vb : BitVec 5) (k : BitVec 3) (md : BitVec 8)
  | mmau (a b : BitVec 4) (vd va vb : BitVec 5) (k : BitVec 3) (md : BitVec 8)
  | mmas (a b : BitVec 4) (vd va vb : BitVec 5) (k : BitVec 3) (md : BitVec 8)
  | mmaus (a b : BitVec 4) (vd va vb : BitVec 5) (k : BitVec 3) (md : BitVec 8)
  | mzero (a b : BitVec 4) (vd va vb : BitVec 5) (k : BitVec 3) (md : BitVec 8)
  | mlda (a b : BitVec 4) (vd va vb : BitVec 5) (k : BitVec 3) (md : BitVec 8)
  | msta (a b : BitVec 4) (vd va vb : BitVec 5) (k : BitVec 3) (md : BitVec 8)
  | mstm (a b : BitVec 4) (vd va vb : BitVec 5) (k : BitVec 3) (md : BitVec 8)
  | mdrain (a b : BitVec 4) (vd va vb : BitVec 5) (k : BitVec 3) (md : BitVec 8)
  | launch (a b c : BitVec 4) (imm : BitVec 6)
  | exit (a b c : BitVec 4) (imm : BitVec 6)
  | kill (a b c : BitVec 4) (imm : BitVec 6)
  | gstat (a b c : BitVec 4) (imm : BitVec 6)
  | fstep (a b c : BitVec 4) (imm : BitVec 6)
  | tick (a b c : BitVec 4) (imm : BitVec 6)
  | rfade (a b c : BitVec 4) (imm : BitVec 6)
  | rinit (a b c : BitVec 4) (imm : BitVec 6)
  | rwgt (a b c : BitVec 4) (imm : BitVec 6)
  | bcast (a b c : BitVec 4) (imm : BitVec 6)
  | bacc (a b c : BitVec 4) (imm : BitVec 6)
  | bwait (a b c : BitVec 4) (imm : BitVec 6)
  | bseq (a b c : BitVec 4) (imm : BitVec 6)
  | ldd (a b c : BitVec 4) (imm : BitVec 6)
  | std (a b c : BitVec 4) (imm : BitVec 6)
  | redx (a b c : BitVec 4) (imm : BitVec 6)
  | lnkctlRnew (a b c : BitVec 4)
  | lnkctlRfree (a b c : BitVec 4)
  | lnkctlPark (a b c : BitVec 4)
  | lnkctlLight (a b c : BitVec 4)
  | lnkctlRetrain (a b c : BitVec 4)
  | pbind (a b c : BitVec 4) (imm : BitVec 6)
  | punbind (a b c : BitVec 4) (imm : BitVec 6)
  | pstat (a b c : BitVec 4) (imm : BitVec 6)
  | lnkstat (a b c : BitVec 4) (imm : BitVec 6)
  | filld (a b c : BitVec 4) (imm : BitVec 6)
  | trap (a b c : BitVec 4) (imm : BitVec 6)
  | tret (a b c : BitVec 4) (imm : BitVec 6)
  | break (a b c : BitVec 4) (imm : BitVec 6)
  | wfm (a b c : BitVec 4) (imm : BitVec 6)
  | time (a b c : BitVec 4) (imm : BitVec 6)
  | capr (a b c : BitVec 4) (imm : BitVec 6)
  | migrate (a b c : BitVec 4) (imm : BitVec 6)
  | probeStop (a b c : BitVec 4)
  | probeResume (a b c : BitVec 4)
  | probeStep (a b c : BitVec 4)
  | probeRarm (a b c : BitVec 4)
  | probeRtrig (a b c : BitVec 4)
  | probeCkpt (a b c : BitVec 4)
  | halt (a b c : BitVec 4) (imm : BitVec 6)
  | qbaseWrite (cid : Nat) (v : Word)
  | portbWrite (cid : Nat) (v : Word)
  | barrierRegisterWrite (cid : Nat) (n : Nat) (v : Word)
  | satcntWrite (cid : Nat) (v : Word)
  | fadeEtaWrite (cid : Nat) (n : Nat) (v : Word)
  | bmodeWrite (cid : Nat) (v : Word)
  | pctlWrite (cid : Nat) (v : Word)
  | fprogvAbandon (cid : Nat)
  | deferredTrap (cid : Nat)
  | resultLands (id : Nat)
  | tileOpTaken (core : Nat)
  | tileOpComplete (core : Nat) (id : Nat)
  | pageWalkComplete (id : Nat)
  | withyPass (plane : Nat) (chan : Nat)
  | requestPerform (id : Nat)
  | responseArrival (id : Nat)
  | wakeArrival (cid : Nat)
  | longWaitExpiry (cid : Nat)
  | cpopParkExpiry (cid : Nat)
  | bcastRequestArrival (id : Nat)
  | bcastAnswerArrival (id : Nat)
  | broadcastReceive (id : Nat)
  | broadcastAccept (cid : Nat)
  | sweepWalk (cid : Nat)
  | retirementReportArrival (id : Nat)
  | messageArrival (id : Nat)
  | ringRefusalRetry (id : Nat)
  | bounceArrival (id : Nat)
  | counterDecrement (id : Nat)
  | stealRound (cid : Nat)
  | portDeposit (id : Nat)
  | portAck (id : Nat)
  | barrierArrivalHop (id : Nat)
  | barrierReleaseHop (id : Nat)
  | dbarTokenArrival (id : Nat)
  | copyCommandStart (core : Nat)
  | copyCommandComplete (core : Nat) (id : Nat)
  | migrationArrival (id : Nat)
  | placementUpdate (id : Nat)
  | placementUpdateAck (id : Nat)
  | requestRedirect (id : Nat)
  | memberMoveInstall (group : Nat) (vcore : Nat)
  | groupPlacement (group : Nat)
  | estateWalkStart (group : Nat)
  | estateWalkHolding
  | watchdogCheck (group : Nat)
  | lddAnswer (id : Nat)
  | lddTimeout (id : Nat)
  | remoteStoreTimeout (id : Nat)
  | remoteAccessPerform (id : Nat)
  | dataFlitReceive (link : Nat) (seq : Nat) (headOk : Bool) (bad : Nat)
  | nackReceive (link : Nat) (seq : Nat)
  | ackReceive (link : Nat) (seq : Nat)
  | widthControlReceive (link : Nat) (mask : Nat)
  | errorWindowEnd (link : Nat) (wl : Nat)
  | lossOfLight (link : Nat) (wl : Nat)
  | lockReached (link : Nat) (wl : Nat)
  | wakeTimeout (link : Nat) (wl : Nat)
  | trainingPass (link : Nat) (wl : Nat)
  | retrainTimeout (link : Nat) (wl : Nat)
  | multicastForward (id : Nat)
  | reductionContribution (id : Nat)
  | reductionTimeout (h : Nat)
  | relayForward (h : Nat) (stage : Nat)
  | sourceItem (h : Nat) (item : List Byte)
  | recorderFreeze (die : Nat)
  | replayInject (core : Nat)
  | grantExpiry (id : Nat)
  | planeDarkEffect (plane : Nat)
  | thermalTrip (die : Nat)
  | supplyLoss
  | deviceReset
  | unsupportedPacket (port : Nat)
  | bulkWrite (pa : Nat) (data : List Byte)
  | bulkRead (pa : Nat) (len : Nat)
  | image (body : List Byte) (sig : List Byte)
  | root (pa : Nat)
  | invalidate (group : Nat) (va : Nat) (len : Nat)
  | routing (table : Nat) (idx : Nat) (v : Nat)
  | handle (part : Nat) (idx : Nat) (v : Nat)
  | linkErrt (v : Nat)
  | wavelengthReset (link : Nat) (wl : Nat)
  | partitionCreate (key : Nat) (pub : List Byte) (clus : List Nat) (root : Nat × List (Nat × Nat))
  | partitionDestroy (part : Nat)
  | policy (part : Nat) (body : List Byte) (sig : List Byte)
  | stream (part : Nat) (port : Nat) (id : Nat)
  | hostLaunch (part : Nat) (hdr : List Byte)
  | hostKill (group : Nat)
  | save (group : Nat)
  | move (group : Nat) (pcore : Nat)
  | resume (group : Nat) (pcore : Nat)
  | powerCluster (clus : Nat) (st : Nat)
  | planeLight (plane : Nat)
  | planeDarken (plane : Nat)
  | powerStack (stack : Nat) (st : Nat)
  | wavelengthPark (link : Nat) (wl : Nat) (hank : Bool)
  | wavelengthLight (link : Nat) (wl : Nat) (hank : Bool)
  | wavelengthRetrain (link : Nat) (wl : Nat) (hank : Bool)
  | powerPort (port : Nat) (up : Bool) (via : Nat)
  | grantIssue (part : Nat) (links : List Nat) (expiry : Nat)
  | grantRevoke (id : Nat)
  | timeAdjust (d : Word)
  | hostProbe (cid : Nat) (op : Nat) (idx : Nat) (v : Word)
  | record (die : Nat) (op : Nat) (arg : Nat)
  | readout (part : Nat) (sel : Nat) (idx : Nat)
  | blackBoxRead
  | estateRead (first : Nat) (count : Nat)
  | quote (part : Nat) (nonce : List Byte)
  | powerTransitionComplete (unit : Nat) (idx : Nat)
  deriving DecidableEq, Repr

end Sys2Proof
end

