-- ==== Sys2Proof/WellFormed.lean ====
section
/-! DEFINITION. Well-formedness: what must hold of the bits of an instruction, or it raises X_ILLEGAL_OP (03 R56, R74, and the rule of each instruction). -/

namespace Sys2Proof

/-- The control register numbers this part assigns (05 R103). -/
def crAssigned (n : Nat) : Bool :=
  n ≤ 0x006 || (0x010 ≤ n && n ≤ 0x014) || (0x020 ≤ n && n ≤ 0x038) || (0x040 ≤ n && n ≤ 0x047) ||
    (0x050 ≤ n && n ≤ 0x06F) || (0x080 ≤ n && n ≤ 0x085) || n == 0x0A0 || (0x0B0 ≤ n && n ≤ 0x0B8) ||
    n == 0x0C0 || n == 0x0E0 || n == 0x0F0 || n == 0x0F1

/-- The bits that must be zero are, and no field holds a value its instruction does not assign. An event or a host command has no encoding and so no condition. -/
def wellFormed (i : Instr) : Bool :=
  match i with
  | .nop _ _ => true
  | .add _ _ _ imm => imm == 0
  | .sub _ _ _ imm => imm == 0
  | .and _ _ _ imm => imm == 0
  | .or _ _ _ imm => imm == 0
  | .xor _ _ _ imm => imm == 0
  | .andn _ _ _ imm => imm == 0
  | .shl _ _ _ imm => imm == 0
  | .shr _ _ _ imm => imm == 0
  | .sar _ _ _ imm => imm == 0
  | .rol _ _ _ imm => imm == 0
  | .min _ _ _ imm => imm == 0
  | .max _ _ _ imm => imm == 0
  | .minN _ _ _ imm => imm == 0
  | .maxN _ _ _ imm => imm == 0
  | .slt _ _ _ imm => imm == 0
  | .sltN _ _ _ imm => imm == 0
  | .seq _ _ _ imm => imm == 0
  | .mul _ _ _ imm => imm == 0
  | .mulh _ _ _ imm => imm == 0
  | .mulhN _ _ _ imm => imm == 0
  | .div _ _ _ imm => imm == 0
  | .divN _ _ _ imm => imm == 0
  | .rem _ _ _ imm => imm == 0
  | .remN _ _ _ imm => imm == 0
  | .addw _ _ _ imm => imm == 0
  | .subw _ _ _ imm => imm == 0
  | .mulw _ _ _ imm => imm == 0
  | .adds _ _ _ imm => imm == 0
  | .subs _ _ _ imm => imm == 0
  | .clz _ _ _ imm => imm == 0
  | .ctz _ _ _ imm => imm == 0
  | .popc _ _ _ imm => imm == 0
  | .brev _ _ _ imm => imm == 0
  | .bswap _ _ _ imm => imm == 0
  | .addi _ _ _ _ => true
  | .andi _ _ _ _ => true
  | .ori _ _ _ _ => true
  | .xori _ _ _ _ => true
  | .shli _ _ _ imm => bitsOf imm.toNat 6 16 == 0
  | .shri _ _ _ imm => bitsOf imm.toNat 6 16 == 0
  | .sari _ _ _ imm => bitsOf imm.toNat 6 16 == 0
  | .roli _ _ _ imm => bitsOf imm.toNat 6 16 == 0
  | .muli _ _ _ _ => true
  | .slti _ _ _ _ => true
  | .sltiN _ _ _ _ => true
  | .seqi _ _ _ _ => true
  | .li _ _ _ _ => true
  | .lih _ _ _ _ => true
  | .liz _ _ _ _ => true
  | .la _ _ _ _ => true
  | .mov _ _ => true
  | .crr _ _ _ imm => bitsOf imm.toNat 12 10 == 0 && crAssigned (bitsOf imm.toNat 0 12)
  | .crw _ _ _ imm => bitsOf imm.toNat 12 10 == 0 && crAssigned (bitsOf imm.toNat 0 12)
  | .crs _ _ _ imm => bitsOf imm.toNat 12 10 == 0 && crAssigned (bitsOf imm.toNat 0 12)
  | .crc _ _ _ imm => bitsOf imm.toNat 12 10 == 0 && crAssigned (bitsOf imm.toNat 0 12)
  | .wpget _ _ _ imm => imm == 0
  | .wpset _ _ _ imm => imm == 0
  | .yield _ _ _ imm => imm == 0
  | .wfld _ _ _ imm => 1 ≤ imm.toNat && imm.toNat ≤ 6
  | .sel _ _ _ imm => bitsOf imm.toNat 4 2 == 0
  | .selz _ _ _ imm => bitsOf imm.toNat 4 2 == 0
  | .jr _ _ _ imm => imm == 0
  | .callr _ _ _ imm => imm == 0
  | .b _ _ _ _ => true
  | .call _ _ _ _ => true
  | .bz _ _ _ _ => true
  | .bnz _ _ _ _ => true
  | .blt _ _ _ _ => true
  | .bge _ _ _ _ => true
  | .bltN _ _ _ _ => true
  | .bgeN _ _ _ _ => true
  | .ldB _ _ _ _ => true
  | .ldBn _ _ _ _ => true
  | .ldH _ _ _ _ => true
  | .ldHn _ _ _ _ => true
  | .ldW _ _ _ _ => true
  | .ldWn _ _ _ _ => true
  | .ldD _ _ _ _ => true
  | .ldQ _ _ _ _ => true
  | .stB _ _ _ _ => true
  | .stH _ _ _ _ => true
  | .stW _ _ _ _ => true
  | .stD _ _ _ _ => true
  | .stQ _ _ _ _ => true
  | .ldxB _ _ _ imm => imm == 0
  | .ldxBn _ _ _ imm => imm == 0
  | .ldxH _ _ _ imm => imm == 0
  | .ldxHn _ _ _ imm => imm == 0
  | .ldxW _ _ _ imm => imm == 0
  | .ldxWn _ _ _ imm => imm == 0
  | .ldxD _ _ _ imm => imm == 0
  | .ldxQ _ _ _ imm => imm == 0
  | .stxB _ _ _ imm => imm == 0
  | .stxH _ _ _ imm => imm == 0
  | .stxW _ _ _ imm => imm == 0
  | .stxD _ _ _ imm => imm == 0
  | .stxQ _ _ _ imm => imm == 0
  | .amoSwap _ _ _ imm => bitsOf imm.toNat 0 1 == 0
  | .amoAdd _ _ _ imm => bitsOf imm.toNat 0 1 == 0
  | .amoAnd _ _ _ imm => bitsOf imm.toNat 0 1 == 0
  | .amoOr _ _ _ imm => bitsOf imm.toNat 0 1 == 0
  | .amoXor _ _ _ imm => bitsOf imm.toNat 0 1 == 0
  | .amoMin _ _ _ imm => bitsOf imm.toNat 0 1 == 0
  | .amoMax _ _ _ imm => bitsOf imm.toNat 0 1 == 0
  | .amoMinN _ _ _ imm => bitsOf imm.toNat 0 1 == 0
  | .amoMaxN _ _ _ imm => bitsOf imm.toNat 0 1 == 0
  | .amoCas _ _ _ imm => bitsOf imm.toNat 0 1 == 0
  | .amoFadd _ _ _ imm => bitsOf imm.toNat 0 1 == 0 && bitsOf imm.toNat 3 1 == 1
  | .fence _ _ _ imm => bitsOf imm.toNat 0 4 == 0
  | .fenceAcq _ _ _ imm => bitsOf imm.toNat 0 4 == 0
  | .fenceRel _ _ _ imm => bitsOf imm.toNat 0 4 == 0
  | .waitc _ _ _ _ _ _ => true
  | .redAdd _ _ _ imm => bitsOf imm.toNat 0 2 == 0
  | .redAnd _ _ _ imm => bitsOf imm.toNat 0 2 == 0
  | .redOr _ _ _ imm => bitsOf imm.toNat 0 2 == 0
  | .redXor _ _ _ imm => bitsOf imm.toNat 0 2 == 0
  | .redMin _ _ _ imm => bitsOf imm.toNat 1 1 == 0
  | .redMax _ _ _ imm => bitsOf imm.toNat 1 1 == 0
  | .redFadd _ _ _ imm => bitsOf imm.toNat 0 2 == 0 && bitsOf imm.toNat 3 1 == 1
  | .ldf _ _ _ _ => true
  | .ldfe _ _ _ _ => true
  | .fill _ _ _ _ => true
  | .fillX _ _ _ _ => true
  | .empty _ _ _ _ => true
  | .feq _ _ _ _ => true
  | .pass _ _ _ imm => bitsOf imm.toNat 2 4 == 0
  | .take _ _ _ imm => bitsOf imm.toNat 2 4 == 0
  | .peek _ _ _ imm => bitsOf imm.toNat 2 4 == 0
  | .carm _ _ _ imm => bitsOf imm.toNat 3 3 == 0
  | .cdec _ _ _ imm => imm == 0
  | .cready _ _ _ imm => imm == 0
  | .cpop _ _ _ imm => bitsOf imm.toNat 2 4 == 0
  | .cdone _ _ _ imm => imm == 0
  | .send _ _ _ imm => imm == 0
  | .rpoll _ _ _ imm => bitsOf imm.toNat 4 2 == 0
  | .rwait _ _ _ imm => bitsOf imm.toNat 4 2 == 0
  | .radv _ _ _ imm => bitsOf imm.toNat 4 2 == 0
  | .rbind _ _ _ imm => bitsOf imm.toNat 4 2 == 0
  | .rclose _ _ _ imm => bitsOf imm.toNat 4 2 == 0
  | .qrec _ _ _ imm => bitsOf imm.toNat 2 4 == 0
  | .qthaw _ _ _ imm => imm == 0
  | .qfreeze _ _ _ imm => imm == 0
  | .barSync _ _ _ imm => bitsOf imm.toNat 3 3 == 0
  | .barArrive _ _ _ imm => bitsOf imm.toNat 3 3 == 0
  | .barWait _ _ _ imm => bitsOf imm.toNat 3 3 == 0
  | .dbarSync _ _ _ imm => imm == 0
  | .dbarArrive _ _ _ imm => imm == 0
  | .dbarWait _ _ _ imm => imm == 0
  | .lock _ _ _ imm => bitsOf imm.toNat 0 4 == 0
  | .trylock _ _ _ imm => bitsOf imm.toNat 0 4 == 0
  | .unlock _ _ _ imm => bitsOf imm.toNat 0 4 == 0
  | .heir _ _ _ imm => bitsOf imm.toNat 3 3 == 0
  | .disown _ _ _ imm => imm == 0
  | .estq _ _ _ imm => imm == 0
  | .ack _ _ _ imm => imm == 0
  | .convey _ _ _ imm => imm == 0
  | .fork _ _ _ imm => imm == 0
  | .rdv _ _ _ imm => imm == 0
  | .cpy _ _ _ imm => imm == 0
  | .cpyt _ _ _ imm => imm == 0
  | .cevq _ _ _ imm => bitsOf imm.toNat 1 5 == 0
  | .vadd _ _ _ _ _ _ md => md.toNat ≤ 5
  | .vsub _ _ _ _ _ _ md => md.toNat ≤ 5
  | .vmul _ _ _ _ _ _ md => md.toNat ≤ 5
  | .vmin _ _ _ _ _ _ md => md.toNat ≤ 5
  | .vmax _ _ _ _ _ _ md => md.toNat ≤ 5
  | .vand _ _ _ _ _ _ md => md.toNat ≤ 5
  | .vor _ _ _ _ _ _ md => md.toNat ≤ 5
  | .vxor _ _ _ _ _ _ md => md.toNat ≤ 5
  | .vshl _ _ _ _ _ _ md => md.toNat ≤ 5
  | .vshr _ _ _ _ _ _ md => md.toNat ≤ 5
  | .vsar _ _ _ _ _ _ md => md.toNat ≤ 5
  | .vadds _ _ _ _ _ _ md => md.toNat ≤ 5
  | .vsubs _ _ _ _ _ _ md => md.toNat ≤ 5
  | .vabs _ _ _ _ _ _ md => md.toNat ≤ 5
  | .vfadd _ _ _ _ _ _ md => md.toNat ≤ 2
  | .vfsub _ _ _ _ _ _ md => md.toNat ≤ 2
  | .vfmul _ _ _ _ _ _ md => md.toNat ≤ 2
  | .vfma _ _ _ _ _ _ md => md.toNat ≤ 2
  | .vfmin _ _ _ _ _ _ md => md.toNat ≤ 2
  | .vfmax _ _ _ _ _ _ md => md.toNat ≤ 2
  | .vrcp _ _ _ _ _ _ md => md.toNat ≤ 2
  | .vrsq _ _ _ _ _ _ md => md.toNat ≤ 2
  | .vexp2 _ _ _ _ _ _ md => md.toNat ≤ 2
  | .vlog2 _ _ _ _ _ _ md => md.toNat ≤ 2
  | .vfneg _ _ _ _ _ _ md => md.toNat ≤ 2
  | .vfabs _ _ _ _ _ _ md => md.toNat ≤ 2
  | .vcmpEq _ _ vd _ _ _ md => bitsOf vd.toNat 3 2 == 0 && md.toNat ≤ 2
  | .vcmpLt _ _ vd _ _ _ md => bitsOf vd.toNat 3 2 == 0 && md.toNat ≤ 2
  | .vcmpLe _ _ vd _ _ _ md => bitsOf vd.toNat 3 2 == 0 && md.toNat ≤ 2
  | .vcmpNe _ _ vd _ _ _ md => bitsOf vd.toNat 3 2 == 0 && md.toNat ≤ 2
  | .vblend _ _ _ _ _ _ md => md == 0
  | .kand _ _ vd va vb k md => bitsOf vd.toNat 3 2 == 0 && bitsOf va.toNat 3 2 == 0 && bitsOf vb.toNat 3 2 == 0 && k == 0 && md == 0
  | .kor _ _ vd va vb k md => bitsOf vd.toNat 3 2 == 0 && bitsOf va.toNat 3 2 == 0 && bitsOf vb.toNat 3 2 == 0 && k == 0 && md == 0
  | .kxor _ _ vd va vb k md => bitsOf vd.toNat 3 2 == 0 && bitsOf va.toNat 3 2 == 0 && bitsOf vb.toNat 3 2 == 0 && k == 0 && md == 0
  | .knot _ _ vd va _ k md => bitsOf vd.toNat 3 2 == 0 && bitsOf va.toNat 3 2 == 0 && k == 0 && md == 0
  | .kpop _ _ _ va _ k md => bitsOf va.toNat 3 2 == 0 && k == 0 && md == 0
  | .vcvt _ _ _ _ _ _ md => bitsOf md.toNat 0 4 ≤ 10 && bitsOf md.toNat 4 4 ≤ 10
  | .vpack _ _ _ _ _ k md => k == 0 && md.toNat ≤ 2
  | .vunpk _ _ _ _ _ k md => k == 0 && (md == 0 || md == 1 || md == 2 || md == 4 || md == 5)
  | .vrnd _ _ vd _ _ _ md => md.toNat ≤ 1 || (md == 2 && bitsOf vd.toNat 3 2 == 0)
  | .vld _ _ _ _ _ _ _ => true
  | .vst _ _ _ _ _ _ _ => true
  | .vlds _ _ _ _ _ _ md => md == 0
  | .vsts _ _ _ _ _ _ md => md == 0
  | .vgath _ _ _ _ _ _ md => md == 0
  | .vscat _ _ _ _ _ _ md => md == 0
  | .vstk _ _ _ va _ k _ => k == 0 && bitsOf va.toNat 3 2 == 0
  | .vldb _ _ vd _ _ k _ => k == 0 && bitsOf vd.toNat 3 2 == 0
  | .vshuf _ _ _ _ _ _ md => md == 0
  | .vbcast _ _ _ _ _ _ md => md == 0
  | .vext _ _ _ _ _ k md => k == 0 && bitsOf md.toNat 4 4 == 0
  | .vrot _ _ _ _ _ _ md => bitsOf md.toNat 4 4 == 0
  | .vins _ _ _ _ _ k md => k == 0 && bitsOf md.toNat 4 4 == 0
  | .vscanAdd _ _ _ _ _ _ md => md.toNat ≤ 1
  | .vscanMax _ _ _ _ _ _ md => md.toNat ≤ 1
  | .vscanLin _ _ _ _ _ _ md => md == 0
  | .vredAdd _ _ _ _ _ _ md => md.toNat ≤ 1
  | .vredMax _ _ _ _ _ _ md => md.toNat ≤ 1
  | .vcarry _ _ _ _ _ _ md => md.toNat ≤ 2
  | .rep _ _ _ imm => bitsOf imm.toNat 13 9 == 0
  | .mma _ _ _ _ _ k md => k == 0 && md == 0
  | .mmau _ _ _ _ _ k md => k == 0 && md == 0
  | .mmas _ _ _ _ _ k md => k == 0 && md == 0
  | .mmaus _ _ _ _ _ k md => k == 0 && md == 0
  | .mzero _ _ _ _ _ _ md => md == 0
  | .mlda _ _ _ _ _ _ md => md == 0x22 || md == 0x20 || md == 0x66 || md == 0x67 || md == 0x68
  | .msta _ _ _ _ _ _ md => md == 0x66 || md == 0x76 || md == 0x86 || md == 0x96 || md == 0xA6 || md == 0x02 || md == 0x12 || md == 0x22
  | .mstm _ _ _ _ _ _ md => md == 0x66 || md == 0x76 || md == 0x86 || md == 0x96 || md == 0xA6 || md == 0x02 || md == 0x12 || md == 0x22
  | .mdrain _ _ vd _ _ _ md => md == 0 || (md == 1 && vd == 0)
  | .launch _ _ _ imm => imm == 0
  | .exit _ _ _ imm => imm == 0
  | .kill _ _ _ imm => imm == 0
  | .gstat _ _ _ imm => imm == 0
  | .fstep _ _ _ imm => imm == 0
  | .tick _ _ _ _ => true
  | .rfade _ _ _ imm => imm == 0
  | .rinit _ _ _ imm => imm == 0
  | .rwgt _ _ _ imm => imm == 0
  | .bcast _ _ _ imm => imm == 0
  | .bacc _ _ _ imm => imm == 0
  | .bwait _ _ _ imm => imm == 0
  | .bseq _ _ _ imm => imm == 0
  | .ldd _ _ _ imm => bitsOf imm.toNat 0 3 == 0 && bitsOf imm.toNat 4 2 == 0
  | .std _ _ _ imm => bitsOf imm.toNat 0 3 == 0 && bitsOf imm.toNat 4 2 == 0
  | .redx _ _ _ imm => imm == 0
  | .lnkctlRnew _ _ _ => true
  | .lnkctlRfree _ _ _ => true
  | .lnkctlPark _ _ _ => true
  | .lnkctlLight _ _ _ => true
  | .lnkctlRetrain _ _ _ => true
  | .pbind _ _ _ imm => imm == 0
  | .punbind _ _ _ imm => imm == 0
  | .pstat _ _ _ imm => bitsOf imm.toNat 2 4 == 0
  | .lnkstat _ _ _ imm => bitsOf imm.toNat 2 4 == 0
  | .filld _ _ _ imm => imm == 0
  | .trap _ _ _ _ => true
  | .tret _ _ _ imm => imm == 0
  | .break _ _ _ _ => true
  | .wfm _ _ _ imm => imm == 0
  | .time _ _ _ imm => imm.toNat ≤ 2
  | .capr _ _ _ imm => imm == 0
  | .migrate _ _ _ imm => imm == 0
  | .probeStop _ _ _ => true
  | .probeResume _ _ _ => true
  | .probeStep _ _ _ => true
  | .probeRarm _ _ _ => true
  | .probeRtrig _ _ _ => true
  | .probeCkpt _ _ _ => true
  | .halt _ _ _ imm => imm == 0
  | .qbaseWrite _ _ => true
  | .portbWrite _ _ => true
  | .barrierRegisterWrite _ _ _ => true
  | .satcntWrite _ _ => true
  | .fadeEtaWrite _ _ _ => true
  | .bmodeWrite _ _ => true
  | .pctlWrite _ _ => true
  | .fprogvAbandon _ => true
  | .deferredTrap _ => true
  | .resultLands _ => true
  | .tileOpTaken _ => true
  | .tileOpComplete _ _ => true
  | .pageWalkComplete _ => true
  | .withyPass _ _ => true
  | .requestPerform _ => true
  | .responseArrival _ => true
  | .wakeArrival _ => true
  | .longWaitExpiry _ => true
  | .cpopParkExpiry _ => true
  | .bcastRequestArrival _ => true
  | .bcastAnswerArrival _ => true
  | .broadcastReceive _ => true
  | .broadcastAccept _ => true
  | .sweepWalk _ => true
  | .retirementReportArrival _ => true
  | .messageArrival _ => true
  | .ringRefusalRetry _ => true
  | .bounceArrival _ => true
  | .counterDecrement _ => true
  | .stealRound _ => true
  | .portDeposit _ => true
  | .portAck _ => true
  | .barrierArrivalHop _ => true
  | .barrierReleaseHop _ => true
  | .dbarTokenArrival _ => true
  | .copyCommandStart _ => true
  | .copyCommandComplete _ _ => true
  | .migrationArrival _ => true
  | .placementUpdate _ => true
  | .placementUpdateAck _ => true
  | .requestRedirect _ => true
  | .memberMoveInstall _ _ => true
  | .groupPlacement _ => true
  | .estateWalkStart _ => true
  | .estateWalkHolding => true
  | .watchdogCheck _ => true
  | .lddAnswer _ => true
  | .lddTimeout _ => true
  | .remoteStoreTimeout _ => true
  | .remoteAccessPerform _ => true
  | .dataFlitReceive _ _ _ _ => true
  | .nackReceive _ _ => true
  | .ackReceive _ _ => true
  | .widthControlReceive _ _ => true
  | .errorWindowEnd _ _ => true
  | .lossOfLight _ _ => true
  | .lockReached _ _ => true
  | .wakeTimeout _ _ => true
  | .trainingPass _ _ => true
  | .retrainTimeout _ _ => true
  | .multicastForward _ => true
  | .reductionContribution _ => true
  | .reductionTimeout _ => true
  | .relayForward _ _ => true
  | .sourceItem _ _ => true
  | .recorderFreeze _ => true
  | .replayInject _ => true
  | .grantExpiry _ => true
  | .planeDarkEffect _ => true
  | .thermalTrip _ => true
  | .supplyLoss => true
  | .deviceReset => true
  | .unsupportedPacket _ => true
  | .bulkWrite _ _ => true
  | .bulkRead _ _ => true
  | .image _ _ => true
  | .root _ => true
  | .invalidate _ _ _ => true
  | .routing _ _ _ => true
  | .handle _ _ _ => true
  | .linkErrt _ => true
  | .wavelengthReset _ _ => true
  | .partitionCreate _ _ _ _ => true
  | .partitionDestroy _ => true
  | .policy _ _ _ => true
  | .stream _ _ _ => true
  | .hostLaunch _ _ => true
  | .hostKill _ => true
  | .save _ => true
  | .move _ _ => true
  | .resume _ _ => true
  | .powerCluster _ _ => true
  | .planeLight _ => true
  | .planeDarken _ => true
  | .powerStack _ _ => true
  | .wavelengthPark _ _ _ => true
  | .wavelengthLight _ _ _ => true
  | .wavelengthRetrain _ _ _ => true
  | .powerPort _ _ _ => true
  | .grantIssue _ _ _ => true
  | .grantRevoke _ => true
  | .timeAdjust _ => true
  | .hostProbe _ _ _ _ => true
  | .record _ _ _ => true
  | .readout _ _ _ => true
  | .blackBoxRead => true
  | .estateRead _ _ => true
  | .quote _ _ => true
  | .powerTransitionComplete _ _ => true

end Sys2Proof
end

