-- ==== Sys2Proof/Decode.lean ====
section
/-! DEFINITION. From bytes to instructions (03): the line, its heads and tails, the opcode map, and the encoder written from the same tables. -/

namespace Sys2Proof

/-- Sign extension of the low `n` bits to 64 bits (03 R57). -/
def sext (n x : Nat) : Word := (BitVec.ofNat n x).signExtend 64

/-- Bytes, least significant first, as a number (00 R1). -/
def leNat : List Byte → Nat
  | [] => 0
  | b :: r => b.toNat + 256 * leNat r

/-- The low `n` bytes of a number, least significant first (00 R1). -/
def leBytes : Nat → Nat → List Byte
  | 0, _ => []
  | n + 1, x => BitVec.ofNat 8 x :: leBytes n (x / 256)

/-- A decoded line: heads and tails in slot order (03 R50). -/
structure LineBits where
  heads : List Nat
  tails : List Nat
  deriving DecidableEq, Repr

/-- The `n` bytes of a line that end just below offset `e`, read little-endian (03 R49). -/
def tailAt (bs : List Byte) (e n : Nat) : Nat := leNat ((bs.drop (e - n)).take n)

/-- The head in slot `i` (03 R48). -/
def headAt (bs : List Byte) (i : Nat) : Nat := leNat ((bs.drop (2 * i)).take 2)

/-- Tails of the heads, from the top of the line down (03 R49). -/
def tailsOf (bs : List Byte) : List Nat → Nat → List Nat
  | [], _ => []
  | h :: r, e =>
    let n := 2 * (h % 4)
    tailAt bs e n :: tailsOf bs r (e - n)

/-- decode_line (03 R50): none when the line is illegal. -/
def decodeLine (bs : List Byte) : Option LineBits :=
  let d := headAt bs 0
  let h := d % 32
  if h = 0 ∨ 32 ≤ d then none
  else
    let hs := (List.range h).map (fun i => headAt bs (i + 1))
    let t := (hs.map (fun x => 2 * (x % 4))).sum
    if 64 < 2 + 2 * h + t then none
    else some ⟨hs, tailsOf bs hs 64⟩

/-- Minors of major 0x01 (03 R75). -/
def decAlu (minor : Nat) (a b c : BitVec 4) (imm : BitVec 6) : Option Instr :=
  match minor with
  | 0 => some (.add a b c imm)
  | 1 => some (.sub a b c imm)
  | 2 => some (.and a b c imm)
  | 3 => some (.or a b c imm)
  | 4 => some (.xor a b c imm)
  | 5 => some (.andn a b c imm)
  | 6 => some (.shl a b c imm)
  | 7 => some (.shr a b c imm)
  | 8 => some (.sar a b c imm)
  | 9 => some (.rol a b c imm)
  | 10 => some (.min a b c imm)
  | 11 => some (.max a b c imm)
  | 12 => some (.minN a b c imm)
  | 13 => some (.maxN a b c imm)
  | 14 => some (.slt a b c imm)
  | 15 => some (.sltN a b c imm)
  | 16 => some (.seq a b c imm)
  | 17 => some (.mul a b c imm)
  | 18 => some (.mulh a b c imm)
  | 19 => some (.mulhN a b c imm)
  | 20 => some (.div a b c imm)
  | 21 => some (.divN a b c imm)
  | 22 => some (.rem a b c imm)
  | 23 => some (.remN a b c imm)
  | 24 => some (.addw a b c imm)
  | 25 => some (.subw a b c imm)
  | 26 => some (.mulw a b c imm)
  | 27 => some (.adds a b c imm)
  | 28 => some (.subs a b c imm)
  | 29 => some (.clz a b c imm)
  | 30 => some (.ctz a b c imm)
  | 31 => some (.popc a b c imm)
  | 32 => some (.brev a b c imm)
  | 33 => some (.bswap a b c imm)
  | _ => none

/-- Minors of major 0x02 (03 R75). -/
def decAlui (minor : Nat) (a b c : BitVec 4) (imm : BitVec 22) : Option Instr :=
  match minor with
  | 0 => some (.addi a b c imm)
  | 1 => some (.andi a b c imm)
  | 2 => some (.ori a b c imm)
  | 3 => some (.xori a b c imm)
  | 4 => some (.shli a b c imm)
  | 5 => some (.shri a b c imm)
  | 6 => some (.sari a b c imm)
  | 7 => some (.roli a b c imm)
  | 8 => some (.muli a b c imm)
  | 9 => some (.slti a b c imm)
  | 10 => some (.sltiN a b c imm)
  | 11 => some (.seqi a b c imm)
  | _ => none

/-- Minors of major 0x03 (03 R75). -/
def decLi (minor : Nat) (a b c : BitVec 4) (imm : BitVec 32) : Option Instr :=
  match minor with
  | 0 => some (.li a b c imm)
  | 1 => some (.lih a b c imm)
  | 2 => some (.liz a b c imm)
  | 3 => some (.la a b c imm)
  | _ => none

/-- Minors of major 0x05 (03 R75). -/
def decCr (minor : Nat) (a b c : BitVec 4) (imm : BitVec 22) : Option Instr :=
  match minor with
  | 0 => some (.crr a b c imm)
  | 1 => some (.crw a b c imm)
  | 2 => some (.crs a b c imm)
  | 3 => some (.crc a b c imm)
  | _ => none

/-- Minors of major 0x06 (03 R75). -/
def decCtx (minor : Nat) (a b c : BitVec 4) (imm : BitVec 6) : Option Instr :=
  match minor with
  | 0 => some (.wpget a b c imm)
  | 1 => some (.wpset a b c imm)
  | 2 => some (.yield a b c imm)
  | 3 => some (.wfld a b c imm)
  | _ => none

/-- Minors of major 0x07 (03 R75). -/
def decSel (minor : Nat) (a b c : BitVec 4) (imm : BitVec 6) : Option Instr :=
  match minor with
  | 0 => some (.sel a b c imm)
  | 1 => some (.selz a b c imm)
  | _ => none

/-- Minors of major 0x0F (03 R75). -/
def decJump (minor : Nat) (a b c : BitVec 4) (imm : BitVec 6) : Option Instr :=
  match minor with
  | 0 => some (.jr a b c imm)
  | 1 => some (.callr a b c imm)
  | _ => none

/-- Minors of major 0x18 (03 R75). -/
def decLd (minor : Nat) (a b c : BitVec 4) (imm : BitVec 22) : Option Instr :=
  match minor with
  | 0 => some (.ldB a b c imm)
  | 1 => some (.ldBn a b c imm)
  | 2 => some (.ldH a b c imm)
  | 3 => some (.ldHn a b c imm)
  | 4 => some (.ldW a b c imm)
  | 5 => some (.ldWn a b c imm)
  | 6 => some (.ldD a b c imm)
  | 7 => some (.ldQ a b c imm)
  | _ => none

/-- Minors of major 0x19 (03 R75). -/
def decSt (minor : Nat) (a b c : BitVec 4) (imm : BitVec 22) : Option Instr :=
  match minor with
  | 0 => some (.stB a b c imm)
  | 1 => some (.stH a b c imm)
  | 2 => some (.stW a b c imm)
  | 3 => some (.stD a b c imm)
  | 4 => some (.stQ a b c imm)
  | _ => none

/-- Minors of major 0x1A (03 R75). -/
def decLdx (minor : Nat) (a b c : BitVec 4) (imm : BitVec 6) : Option Instr :=
  match minor with
  | 0 => some (.ldxB a b c imm)
  | 1 => some (.ldxBn a b c imm)
  | 2 => some (.ldxH a b c imm)
  | 3 => some (.ldxHn a b c imm)
  | 4 => some (.ldxW a b c imm)
  | 5 => some (.ldxWn a b c imm)
  | 6 => some (.ldxD a b c imm)
  | 7 => some (.ldxQ a b c imm)
  | _ => none

/-- Minors of major 0x1B (03 R75). -/
def decStx (minor : Nat) (a b c : BitVec 4) (imm : BitVec 6) : Option Instr :=
  match minor with
  | 0 => some (.stxB a b c imm)
  | 1 => some (.stxH a b c imm)
  | 2 => some (.stxW a b c imm)
  | 3 => some (.stxD a b c imm)
  | 4 => some (.stxQ a b c imm)
  | _ => none

/-- Minors of major 0x20 (03 R75). -/
def decAmo (minor : Nat) (a b c : BitVec 4) (imm : BitVec 6) : Option Instr :=
  match minor with
  | 0 => some (.amoSwap a b c imm)
  | 1 => some (.amoAdd a b c imm)
  | 2 => some (.amoAnd a b c imm)
  | 3 => some (.amoOr a b c imm)
  | 4 => some (.amoXor a b c imm)
  | 5 => some (.amoMin a b c imm)
  | 6 => some (.amoMax a b c imm)
  | 7 => some (.amoMinN a b c imm)
  | 8 => some (.amoMaxN a b c imm)
  | 9 => some (.amoCas a b c imm)
  | 10 => some (.amoFadd a b c imm)
  | _ => none

/-- Minors of major 0x21 (03 R75). -/
def decFence (minor : Nat) (a b c : BitVec 4) (imm : BitVec 6) : Option Instr :=
  match minor with
  | 0 => some (.fence a b c imm)
  | 1 => some (.fenceAcq a b c imm)
  | 2 => some (.fenceRel a b c imm)
  | _ => none

/-- Minors of major 0x23 (03 R75). -/
def decRed (minor : Nat) (a b c : BitVec 4) (imm : BitVec 6) : Option Instr :=
  match minor with
  | 0 => some (.redAdd a b c imm)
  | 1 => some (.redAnd a b c imm)
  | 2 => some (.redOr a b c imm)
  | 3 => some (.redXor a b c imm)
  | 4 => some (.redMin a b c imm)
  | 5 => some (.redMax a b c imm)
  | 6 => some (.redFadd a b c imm)
  | _ => none

/-- Minors of major 0x24 (03 R75). -/
def decFe (minor : Nat) (a b c : BitVec 4) (imm : BitVec 22) : Option Instr :=
  match minor with
  | 0 => some (.ldf a b c imm)
  | 1 => some (.ldfe a b c imm)
  | 2 => some (.fill a b c imm)
  | 3 => some (.fillX a b c imm)
  | 4 => some (.empty a b c imm)
  | 5 => some (.feq a b c imm)
  | _ => none

/-- Minors of major 0x25 (03 R75). -/
def decPort (minor : Nat) (a b c : BitVec 4) (imm : BitVec 6) : Option Instr :=
  match minor with
  | 0 => some (.pass a b c imm)
  | 1 => some (.take a b c imm)
  | 2 => some (.peek a b c imm)
  | _ => none

/-- Minors of major 0x28 (03 R75). -/
def decCodelet (minor : Nat) (a b c : BitVec 4) (imm : BitVec 6) : Option Instr :=
  match minor with
  | 0 => some (.carm a b c imm)
  | 1 => some (.cdec a b c imm)
  | 2 => some (.cready a b c imm)
  | 3 => some (.cpop a b c imm)
  | 4 => some (.cdone a b c imm)
  | _ => none

/-- Minors of major 0x29 (03 R75). -/
def decRing (minor : Nat) (a b c : BitVec 4) (imm : BitVec 6) : Option Instr :=
  match minor with
  | 0 => some (.send a b c imm)
  | 1 => some (.rpoll a b c imm)
  | 2 => some (.rwait a b c imm)
  | 3 => some (.radv a b c imm)
  | 4 => some (.rbind a b c imm)
  | 5 => some (.rclose a b c imm)
  | _ => none

/-- Minors of major 0x2A (03 R75). -/
def decQctl (minor : Nat) (a b c : BitVec 4) (imm : BitVec 6) : Option Instr :=
  match minor with
  | 0 => some (.qrec a b c imm)
  | 1 => some (.qthaw a b c imm)
  | 2 => some (.qfreeze a b c imm)
  | _ => none

/-- Minors of major 0x2C (03 R75). -/
def decBar (minor : Nat) (a b c : BitVec 4) (imm : BitVec 6) : Option Instr :=
  match minor with
  | 0 => some (.barSync a b c imm)
  | 1 => some (.barArrive a b c imm)
  | 2 => some (.barWait a b c imm)
  | 3 => some (.dbarSync a b c imm)
  | 4 => some (.dbarArrive a b c imm)
  | 5 => some (.dbarWait a b c imm)
  | _ => none

/-- Minors of major 0x2D (03 R75). -/
def decLocks (minor : Nat) (a b c : BitVec 4) (imm : BitVec 6) : Option Instr :=
  match minor with
  | 0 => some (.lock a b c imm)
  | 1 => some (.trylock a b c imm)
  | 2 => some (.unlock a b c imm)
  | _ => none

/-- Minors of major 0x2E (03 R75). -/
def decEstate (minor : Nat) (a b c : BitVec 4) (imm : BitVec 6) : Option Instr :=
  match minor with
  | 0 => some (.heir a b c imm)
  | 1 => some (.disown a b c imm)
  | 2 => some (.estq a b c imm)
  | 3 => some (.ack a b c imm)
  | 4 => some (.convey a b c imm)
  | _ => none

/-- Minors of major 0x2F (03 R75). -/
def decCopy (minor : Nat) (a b c : BitVec 4) (imm : BitVec 6) : Option Instr :=
  match minor with
  | 0 => some (.fork a b c imm)
  | 1 => some (.rdv a b c imm)
  | 2 => some (.cpy a b c imm)
  | 3 => some (.cpyt a b c imm)
  | 4 => some (.cevq a b c imm)
  | _ => none

/-- Minors of major 0x30 (03 R75). -/
def decVint (minor : Nat) (a b : BitVec 4) (vd va vb : BitVec 5) (k : BitVec 3) (md : BitVec 8) : Option Instr :=
  match minor with
  | 0 => some (.vadd a b vd va vb k md)
  | 1 => some (.vsub a b vd va vb k md)
  | 2 => some (.vmul a b vd va vb k md)
  | 3 => some (.vmin a b vd va vb k md)
  | 4 => some (.vmax a b vd va vb k md)
  | 5 => some (.vand a b vd va vb k md)
  | 6 => some (.vor a b vd va vb k md)
  | 7 => some (.vxor a b vd va vb k md)
  | 8 => some (.vshl a b vd va vb k md)
  | 9 => some (.vshr a b vd va vb k md)
  | 10 => some (.vsar a b vd va vb k md)
  | 11 => some (.vadds a b vd va vb k md)
  | 12 => some (.vsubs a b vd va vb k md)
  | 13 => some (.vabs a b vd va vb k md)
  | _ => none

/-- Minors of major 0x31 (03 R75). -/
def decVfp (minor : Nat) (a b : BitVec 4) (vd va vb : BitVec 5) (k : BitVec 3) (md : BitVec 8) : Option Instr :=
  match minor with
  | 0 => some (.vfadd a b vd va vb k md)
  | 1 => some (.vfsub a b vd va vb k md)
  | 2 => some (.vfmul a b vd va vb k md)
  | 3 => some (.vfma a b vd va vb k md)
  | 4 => some (.vfmin a b vd va vb k md)
  | 5 => some (.vfmax a b vd va vb k md)
  | 6 => some (.vrcp a b vd va vb k md)
  | 7 => some (.vrsq a b vd va vb k md)
  | 8 => some (.vexp2 a b vd va vb k md)
  | 9 => some (.vlog2 a b vd va vb k md)
  | 10 => some (.vfneg a b vd va vb k md)
  | 11 => some (.vfabs a b vd va vb k md)
  | _ => none

/-- Minors of major 0x32 (03 R75). -/
def decVcmp (minor : Nat) (a b : BitVec 4) (vd va vb : BitVec 5) (k : BitVec 3) (md : BitVec 8) : Option Instr :=
  match minor with
  | 0 => some (.vcmpEq a b vd va vb k md)
  | 1 => some (.vcmpLt a b vd va vb k md)
  | 2 => some (.vcmpLe a b vd va vb k md)
  | 3 => some (.vcmpNe a b vd va vb k md)
  | 4 => some (.vblend a b vd va vb k md)
  | 5 => some (.kand a b vd va vb k md)
  | 6 => some (.kor a b vd va vb k md)
  | 7 => some (.kxor a b vd va vb k md)
  | 8 => some (.knot a b vd va vb k md)
  | 9 => some (.kpop a b vd va vb k md)
  | _ => none

/-- Minors of major 0x33 (03 R75). -/
def decVcvt (minor : Nat) (a b : BitVec 4) (vd va vb : BitVec 5) (k : BitVec 3) (md : BitVec 8) : Option Instr :=
  match minor with
  | 0 => some (.vcvt a b vd va vb k md)
  | 1 => some (.vpack a b vd va vb k md)
  | 2 => some (.vunpk a b vd va vb k md)
  | 3 => some (.vrnd a b vd va vb k md)
  | _ => none

/-- Minors of major 0x34 (03 R75). -/
def decVmem (minor : Nat) (a b : BitVec 4) (vd va vb : BitVec 5) (k : BitVec 3) (md : BitVec 8) : Option Instr :=
  match minor with
  | 0 => some (.vld a b vd va vb k md)
  | 1 => some (.vst a b vd va vb k md)
  | 2 => some (.vlds a b vd va vb k md)
  | 3 => some (.vsts a b vd va vb k md)
  | 4 => some (.vgath a b vd va vb k md)
  | 5 => some (.vscat a b vd va vb k md)
  | 6 => some (.vstk a b vd va vb k md)
  | 7 => some (.vldb a b vd va vb k md)
  | _ => none

/-- Minors of major 0x35 (03 R75). -/
def decVperm (minor : Nat) (a b : BitVec 4) (vd va vb : BitVec 5) (k : BitVec 3) (md : BitVec 8) : Option Instr :=
  match minor with
  | 0 => some (.vshuf a b vd va vb k md)
  | 1 => some (.vbcast a b vd va vb k md)
  | 2 => some (.vext a b vd va vb k md)
  | 3 => some (.vrot a b vd va vb k md)
  | 4 => some (.vins a b vd va vb k md)
  | _ => none

/-- Minors of major 0x36 (03 R75). -/
def decVscan (minor : Nat) (a b : BitVec 4) (vd va vb : BitVec 5) (k : BitVec 3) (md : BitVec 8) : Option Instr :=
  match minor with
  | 0 => some (.vscanAdd a b vd va vb k md)
  | 1 => some (.vscanMax a b vd va vb k md)
  | 2 => some (.vscanLin a b vd va vb k md)
  | 3 => some (.vredAdd a b vd va vb k md)
  | 4 => some (.vredMax a b vd va vb k md)
  | 5 => some (.vcarry a b vd va vb k md)
  | _ => none

/-- Minors of major 0x37 (03 R75). -/
def decRep (minor : Nat) (a b c : BitVec 4) (imm : BitVec 22) : Option Instr :=
  match minor with
  | 0 => some (.rep a b c imm)
  | _ => none

/-- Minors of major 0x38 (03 R75). -/
def decMma (minor : Nat) (a b : BitVec 4) (vd va vb : BitVec 5) (k : BitVec 3) (md : BitVec 8) : Option Instr :=
  match minor with
  | 0 => some (.mma a b vd va vb k md)
  | 1 => some (.mmau a b vd va vb k md)
  | 2 => some (.mmas a b vd va vb k md)
  | 3 => some (.mmaus a b vd va vb k md)
  | _ => none

/-- Minors of major 0x39 (03 R75). -/
def decTile (minor : Nat) (a b : BitVec 4) (vd va vb : BitVec 5) (k : BitVec 3) (md : BitVec 8) : Option Instr :=
  match minor with
  | 0 => some (.mzero a b vd va vb k md)
  | 1 => some (.mlda a b vd va vb k md)
  | 2 => some (.msta a b vd va vb k md)
  | 3 => some (.mstm a b vd va vb k md)
  | 4 => some (.mdrain a b vd va vb k md)
  | _ => none

/-- Minors of major 0x3B (03 R75). -/
def decKernel (minor : Nat) (a b c : BitVec 4) (imm : BitVec 6) : Option Instr :=
  match minor with
  | 0 => some (.launch a b c imm)
  | 1 => some (.exit a b c imm)
  | 2 => some (.kill a b c imm)
  | 3 => some (.gstat a b c imm)
  | _ => none

/-- Minors of major 0x3C (03 R75). -/
def decRow (minor : Nat) (a b c : BitVec 4) (imm : BitVec 6) : Option Instr :=
  match minor with
  | 0 => some (.fstep a b c imm)
  | 1 => some (.tick a b c imm)
  | 2 => some (.rfade a b c imm)
  | 3 => some (.rinit a b c imm)
  | 4 => some (.rwgt a b c imm)
  | _ => none

/-- Minors of major 0x3D (03 R75). -/
def decLearn (minor : Nat) (a b c : BitVec 4) (imm : BitVec 6) : Option Instr :=
  match minor with
  | 0 => some (.bcast a b c imm)
  | 1 => some (.bacc a b c imm)
  | 2 => some (.bwait a b c imm)
  | 3 => some (.bseq a b c imm)
  | _ => none

/-- Minors of major 0x3E (03 R75). -/
noncomputable def decLink (minor : Nat) (a b c : BitVec 4) (imm : BitVec 6) : Option Instr :=
  match minor with
  | 0 => some (.ldd a b c imm)
  | 1 => some (.std a b c imm)
  | 2 => some (.redx a b c imm)
  | 3 =>
    match imm.toNat with
    | 0 => some (.lnkctlRnew a b c)
    | 1 => some (.lnkctlRfree a b c)
    | 2 => some (.lnkctlPark a b c)
    | 3 => some (.lnkctlLight a b c)
    | 4 => some (.lnkctlRetrain a b c)
    | _ => none
  | 4 => some (.pbind a b c imm)
  | 5 => some (.punbind a b c imm)
  | 6 => some (.pstat a b c imm)
  | 7 => some (.lnkstat a b c imm)
  | 8 => some (.filld a b c imm)
  | _ => none

/-- Minors of major 0x3F (03 R75). -/
noncomputable def decSys (minor : Nat) (a b c : BitVec 4) (imm : BitVec 6) : Option Instr :=
  match minor with
  | 0 => some (.trap a b c imm)
  | 1 => some (.tret a b c imm)
  | 2 => some (.break a b c imm)
  | 3 => some (.wfm a b c imm)
  | 4 => some (.time a b c imm)
  | 5 => some (.capr a b c imm)
  | 6 => some (.migrate a b c imm)
  | 7 =>
    match imm.toNat with
    | 0 => some (.probeStop a b c)
    | 1 => some (.probeResume a b c)
    | 2 => some (.probeStep a b c)
    | 3 => some (.probeRarm a b c)
    | 4 => some (.probeRtrig a b c)
    | 5 => some (.probeCkpt a b c)
    | _ => none
  | 8 => some (.halt a b c imm)
  | _ => none

/-- A field of a head or tail. -/
def fieldOf (n x lo : Nat) : BitVec n := BitVec.ofNat n (bitsOf x lo n)

/-- S-form tail (03 R55). -/
def formS (f : Nat → BitVec 4 → BitVec 4 → BitVec 4 → BitVec 6 → Option Instr) (hd tl : Nat) : Option Instr :=
  if hd % 4 = 1 then
    f (bitsOf tl 10 6) (fieldOf 4 hd 12) (fieldOf 4 hd 8) (fieldOf 4 tl 6) (fieldOf 6 tl 0)
  else none

/-- M-form tail (03 R55). -/
def formM (f : Nat → BitVec 4 → BitVec 4 → BitVec 4 → BitVec 22 → Option Instr) (hd tl : Nat) : Option Instr :=
  if hd % 4 = 2 then
    f (bitsOf tl 26 6) (fieldOf 4 hd 12) (fieldOf 4 hd 8) (fieldOf 4 tl 22) (fieldOf 22 tl 0)
  else none

/-- L-form tail, whose bits [37:32] must be 0 (03 R55). -/
def formL (f : Nat → BitVec 4 → BitVec 4 → BitVec 4 → BitVec 32 → Option Instr) (hd tl : Nat) : Option Instr :=
  if hd % 4 = 3 ∧ bitsOf tl 32 6 = 0 then
    f (bitsOf tl 42 6) (fieldOf 4 hd 12) (fieldOf 4 hd 8) (fieldOf 4 tl 38) (fieldOf 32 tl 0)
  else none

/-- V-form tail (03 R55). -/
def formV (f : Nat → BitVec 4 → BitVec 4 → BitVec 5 → BitVec 5 → BitVec 5 → BitVec 3 → BitVec 8 → Option Instr)
    (hd tl : Nat) : Option Instr :=
  if hd % 4 = 2 then
    f (bitsOf tl 26 6) (fieldOf 4 hd 12) (fieldOf 4 hd 8) (fieldOf 5 tl 21) (fieldOf 5 tl 16) (fieldOf 5 tl 11)
      (fieldOf 3 tl 8) (fieldOf 8 tl 0)
  else none

/-- Branch-form tail (03 R55). -/
def formB (f : BitVec 4 → BitVec 4 → BitVec 27 → BitVec 5 → Instr) (hd tl : Nat) : Option Instr :=
  if hd % 4 = 2 then some (f (fieldOf 4 hd 12) (fieldOf 4 hd 8) (fieldOf 27 tl 5) (fieldOf 5 tl 0)) else none

/-- W-form tail (03 R55). -/
def formW (hd tl : Nat) : Option Instr :=
  if hd % 4 = 1 then
    some (.waitc (fieldOf 4 hd 12) (fieldOf 4 hd 8) (fieldOf 4 tl 12) (fieldOf 4 tl 8) (fieldOf 4 tl 4) (fieldOf 4 tl 0))
  else none

/-- A head without a tail (03 R55). -/
def formN (f : BitVec 4 → BitVec 4 → Instr) (hd : Nat) : Option Instr :=
  if hd % 4 = 0 then some (f (fieldOf 4 hd 12) (fieldOf 4 hd 8)) else none

/-- The opcode map up to major 0x3D (03 R75): the fields of a head and its tail, whatever they hold. -/
def decodeNear (hd tl : Nat) : Option Instr :=
  match bitsOf hd 2 6 with
  | 0x00 => formN .nop hd
  | 0x01 => formS decAlu hd tl
  | 0x02 => formM decAlui hd tl
  | 0x03 => formL decLi hd tl
  | 0x04 => formN .mov hd
  | 0x05 => formM decCr hd tl
  | 0x06 => formS decCtx hd tl
  | 0x07 => formS decSel hd tl
  | 0x0F => formS decJump hd tl
  | 0x10 => formB .b hd tl
  | 0x11 => formB .call hd tl
  | 0x12 => formB .bz hd tl
  | 0x13 => formB .bnz hd tl
  | 0x14 => formB .blt hd tl
  | 0x15 => formB .bge hd tl
  | 0x16 => formB .bltN hd tl
  | 0x17 => formB .bgeN hd tl
  | 0x18 => formM decLd hd tl
  | 0x19 => formM decSt hd tl
  | 0x1A => formS decLdx hd tl
  | 0x1B => formS decStx hd tl
  | 0x20 => formS decAmo hd tl
  | 0x21 => formS decFence hd tl
  | 0x22 => formW hd tl
  | 0x23 => formS decRed hd tl
  | 0x24 => formM decFe hd tl
  | 0x25 => formS decPort hd tl
  | 0x28 => formS decCodelet hd tl
  | 0x29 => formS decRing hd tl
  | 0x2A => formS decQctl hd tl
  | 0x2C => formS decBar hd tl
  | 0x2D => formS decLocks hd tl
  | 0x2E => formS decEstate hd tl
  | 0x2F => formS decCopy hd tl
  | 0x30 => formV decVint hd tl
  | 0x31 => formV decVfp hd tl
  | 0x32 => formV decVcmp hd tl
  | 0x33 => formV decVcvt hd tl
  | 0x34 => formV decVmem hd tl
  | 0x35 => formV decVperm hd tl
  | 0x36 => formV decVscan hd tl
  | 0x37 => formM decRep hd tl
  | 0x38 => formV decMma hd tl
  | 0x39 => formV decTile hd tl
  | 0x3B => formS decKernel hd tl
  | 0x3C => formS decRow hd tl
  | 0x3D => formS decLearn hd tl
  | _ => none

/-- The opcode map (03 R75). -/
noncomputable def decodeRaw (hd tl : Nat) : Option Instr :=
  match bitsOf hd 2 6 with
  | 0x3E => formS decLink hd tl
  | 0x3F => formS decSys hd tl
  | _ => decodeNear hd tl

/-- Whether a pair of major 0x3E is an instruction (24 R366, 25 R381). -/
def linkPair (hd tl : Nat) : Bool :=
  let imm := bitsOf tl 0 6
  hd % 4 == 1 &&
    (match bitsOf tl 10 6 with
     | 0 | 1 => imm == 0 || imm == 8
     | 2 | 4 | 5 | 8 => imm == 0
     | 3 => decide (imm ≤ 4)
     | 6 | 7 => decide (imm ≤ 3)
     | _ => false)

/-- Whether a pair below major 0x3F is an instruction, that is, whether `decode` reads one from it. -/
def isPair (hd tl : Nat) : Bool :=
  if bitsOf hd 2 6 = 0x3E then linkPair hd tl
  else
    match decodeNear hd tl with
    | some i => wellFormed i
    | none => false

/-- The instruction of a head and its tail; none where the encoding raises X_ILLEGAL_OP (03 R53 to R56, R74, R77). -/
noncomputable def decode (hd tl : Nat) : Option Instr :=
  match decodeRaw hd tl with
  | some i => if wellFormed i then some i else none
  | none => none

/-! ## The encoder -/

/-- A head (03 R52). -/
def headOf (a b : BitVec 4) (maj tl : Nat) : Nat := a.toNat * 4096 + b.toNat * 256 + maj * 4 + tl

/-- An S-form instruction: head and tail. -/
def encS (maj minor : Nat) (a b c : BitVec 4) (imm : BitVec 6) : Nat × Nat :=
  (headOf a b maj 1, minor * 1024 + c.toNat * 64 + imm.toNat)

/-- An M-form instruction: head and tail. -/
def encM (maj minor : Nat) (a b c : BitVec 4) (imm : BitVec 22) : Nat × Nat :=
  (headOf a b maj 2, minor * 67108864 + c.toNat * 4194304 + imm.toNat)

/-- An L-form instruction: head and tail. -/
def encL (maj minor : Nat) (a b c : BitVec 4) (imm : BitVec 32) : Nat × Nat :=
  (headOf a b maj 3, minor * 4398046511104 + c.toNat * 274877906944 + imm.toNat)

/-- A V-form instruction: head and tail. -/
def encV (maj minor : Nat) (a b : BitVec 4) (vd va vb : BitVec 5) (k : BitVec 3) (md : BitVec 8) : Nat × Nat :=
  (headOf a b maj 2,
    minor * 67108864 + vd.toNat * 2097152 + va.toNat * 65536 + vb.toNat * 2048 + k.toNat * 256 + md.toNat)

/-- A branch: head and tail. -/
def encB (maj : Nat) (a b : BitVec 4) (disp : BitVec 27) (slot : BitVec 5) : Nat × Nat :=
  (headOf a b maj 2, disp.toNat * 32 + slot.toNat)

/-- Head and tail of an instruction; an event or a host command has none. -/
def encode (i : Instr) : Option (Nat × Nat) :=
  match i with
  | .nop a b => some (headOf a b 0x00 0, 0)
  | .add a b c imm => some (encS 0x01 0 a b c imm)
  | .sub a b c imm => some (encS 0x01 1 a b c imm)
  | .and a b c imm => some (encS 0x01 2 a b c imm)
  | .or a b c imm => some (encS 0x01 3 a b c imm)
  | .xor a b c imm => some (encS 0x01 4 a b c imm)
  | .andn a b c imm => some (encS 0x01 5 a b c imm)
  | .shl a b c imm => some (encS 0x01 6 a b c imm)
  | .shr a b c imm => some (encS 0x01 7 a b c imm)
  | .sar a b c imm => some (encS 0x01 8 a b c imm)
  | .rol a b c imm => some (encS 0x01 9 a b c imm)
  | .min a b c imm => some (encS 0x01 10 a b c imm)
  | .max a b c imm => some (encS 0x01 11 a b c imm)
  | .minN a b c imm => some (encS 0x01 12 a b c imm)
  | .maxN a b c imm => some (encS 0x01 13 a b c imm)
  | .slt a b c imm => some (encS 0x01 14 a b c imm)
  | .sltN a b c imm => some (encS 0x01 15 a b c imm)
  | .seq a b c imm => some (encS 0x01 16 a b c imm)
  | .mul a b c imm => some (encS 0x01 17 a b c imm)
  | .mulh a b c imm => some (encS 0x01 18 a b c imm)
  | .mulhN a b c imm => some (encS 0x01 19 a b c imm)
  | .div a b c imm => some (encS 0x01 20 a b c imm)
  | .divN a b c imm => some (encS 0x01 21 a b c imm)
  | .rem a b c imm => some (encS 0x01 22 a b c imm)
  | .remN a b c imm => some (encS 0x01 23 a b c imm)
  | .addw a b c imm => some (encS 0x01 24 a b c imm)
  | .subw a b c imm => some (encS 0x01 25 a b c imm)
  | .mulw a b c imm => some (encS 0x01 26 a b c imm)
  | .adds a b c imm => some (encS 0x01 27 a b c imm)
  | .subs a b c imm => some (encS 0x01 28 a b c imm)
  | .clz a b c imm => some (encS 0x01 29 a b c imm)
  | .ctz a b c imm => some (encS 0x01 30 a b c imm)
  | .popc a b c imm => some (encS 0x01 31 a b c imm)
  | .brev a b c imm => some (encS 0x01 32 a b c imm)
  | .bswap a b c imm => some (encS 0x01 33 a b c imm)
  | .addi a b c imm => some (encM 0x02 0 a b c imm)
  | .andi a b c imm => some (encM 0x02 1 a b c imm)
  | .ori a b c imm => some (encM 0x02 2 a b c imm)
  | .xori a b c imm => some (encM 0x02 3 a b c imm)
  | .shli a b c imm => some (encM 0x02 4 a b c imm)
  | .shri a b c imm => some (encM 0x02 5 a b c imm)
  | .sari a b c imm => some (encM 0x02 6 a b c imm)
  | .roli a b c imm => some (encM 0x02 7 a b c imm)
  | .muli a b c imm => some (encM 0x02 8 a b c imm)
  | .slti a b c imm => some (encM 0x02 9 a b c imm)
  | .sltiN a b c imm => some (encM 0x02 10 a b c imm)
  | .seqi a b c imm => some (encM 0x02 11 a b c imm)
  | .li a b c imm => some (encL 0x03 0 a b c imm)
  | .lih a b c imm => some (encL 0x03 1 a b c imm)
  | .liz a b c imm => some (encL 0x03 2 a b c imm)
  | .la a b c imm => some (encL 0x03 3 a b c imm)
  | .mov a b => some (headOf a b 0x04 0, 0)
  | .crr a b c imm => some (encM 0x05 0 a b c imm)
  | .crw a b c imm => some (encM 0x05 1 a b c imm)
  | .crs a b c imm => some (encM 0x05 2 a b c imm)
  | .crc a b c imm => some (encM 0x05 3 a b c imm)
  | .wpget a b c imm => some (encS 0x06 0 a b c imm)
  | .wpset a b c imm => some (encS 0x06 1 a b c imm)
  | .yield a b c imm => some (encS 0x06 2 a b c imm)
  | .wfld a b c imm => some (encS 0x06 3 a b c imm)
  | .sel a b c imm => some (encS 0x07 0 a b c imm)
  | .selz a b c imm => some (encS 0x07 1 a b c imm)
  | .jr a b c imm => some (encS 0x0F 0 a b c imm)
  | .callr a b c imm => some (encS 0x0F 1 a b c imm)
  | .b a b disp slot => some (encB 0x10 a b disp slot)
  | .call a b disp slot => some (encB 0x11 a b disp slot)
  | .bz a b disp slot => some (encB 0x12 a b disp slot)
  | .bnz a b disp slot => some (encB 0x13 a b disp slot)
  | .blt a b disp slot => some (encB 0x14 a b disp slot)
  | .bge a b disp slot => some (encB 0x15 a b disp slot)
  | .bltN a b disp slot => some (encB 0x16 a b disp slot)
  | .bgeN a b disp slot => some (encB 0x17 a b disp slot)
  | .ldB a b c imm => some (encM 0x18 0 a b c imm)
  | .ldBn a b c imm => some (encM 0x18 1 a b c imm)
  | .ldH a b c imm => some (encM 0x18 2 a b c imm)
  | .ldHn a b c imm => some (encM 0x18 3 a b c imm)
  | .ldW a b c imm => some (encM 0x18 4 a b c imm)
  | .ldWn a b c imm => some (encM 0x18 5 a b c imm)
  | .ldD a b c imm => some (encM 0x18 6 a b c imm)
  | .ldQ a b c imm => some (encM 0x18 7 a b c imm)
  | .stB a b c imm => some (encM 0x19 0 a b c imm)
  | .stH a b c imm => some (encM 0x19 1 a b c imm)
  | .stW a b c imm => some (encM 0x19 2 a b c imm)
  | .stD a b c imm => some (encM 0x19 3 a b c imm)
  | .stQ a b c imm => some (encM 0x19 4 a b c imm)
  | .ldxB a b c imm => some (encS 0x1A 0 a b c imm)
  | .ldxBn a b c imm => some (encS 0x1A 1 a b c imm)
  | .ldxH a b c imm => some (encS 0x1A 2 a b c imm)
  | .ldxHn a b c imm => some (encS 0x1A 3 a b c imm)
  | .ldxW a b c imm => some (encS 0x1A 4 a b c imm)
  | .ldxWn a b c imm => some (encS 0x1A 5 a b c imm)
  | .ldxD a b c imm => some (encS 0x1A 6 a b c imm)
  | .ldxQ a b c imm => some (encS 0x1A 7 a b c imm)
  | .stxB a b c imm => some (encS 0x1B 0 a b c imm)
  | .stxH a b c imm => some (encS 0x1B 1 a b c imm)
  | .stxW a b c imm => some (encS 0x1B 2 a b c imm)
  | .stxD a b c imm => some (encS 0x1B 3 a b c imm)
  | .stxQ a b c imm => some (encS 0x1B 4 a b c imm)
  | .amoSwap a b c imm => some (encS 0x20 0 a b c imm)
  | .amoAdd a b c imm => some (encS 0x20 1 a b c imm)
  | .amoAnd a b c imm => some (encS 0x20 2 a b c imm)
  | .amoOr a b c imm => some (encS 0x20 3 a b c imm)
  | .amoXor a b c imm => some (encS 0x20 4 a b c imm)
  | .amoMin a b c imm => some (encS 0x20 5 a b c imm)
  | .amoMax a b c imm => some (encS 0x20 6 a b c imm)
  | .amoMinN a b c imm => some (encS 0x20 7 a b c imm)
  | .amoMaxN a b c imm => some (encS 0x20 8 a b c imm)
  | .amoCas a b c imm => some (encS 0x20 9 a b c imm)
  | .amoFadd a b c imm => some (encS 0x20 10 a b c imm)
  | .fence a b c imm => some (encS 0x21 0 a b c imm)
  | .fenceAcq a b c imm => some (encS 0x21 1 a b c imm)
  | .fenceRel a b c imm => some (encS 0x21 2 a b c imm)
  | .waitc a b wl ws wc wm =>
    some (headOf a b 0x22 1, wl.toNat * 4096 + ws.toNat * 256 + wc.toNat * 16 + wm.toNat)
  | .redAdd a b c imm => some (encS 0x23 0 a b c imm)
  | .redAnd a b c imm => some (encS 0x23 1 a b c imm)
  | .redOr a b c imm => some (encS 0x23 2 a b c imm)
  | .redXor a b c imm => some (encS 0x23 3 a b c imm)
  | .redMin a b c imm => some (encS 0x23 4 a b c imm)
  | .redMax a b c imm => some (encS 0x23 5 a b c imm)
  | .redFadd a b c imm => some (encS 0x23 6 a b c imm)
  | .ldf a b c imm => some (encM 0x24 0 a b c imm)
  | .ldfe a b c imm => some (encM 0x24 1 a b c imm)
  | .fill a b c imm => some (encM 0x24 2 a b c imm)
  | .fillX a b c imm => some (encM 0x24 3 a b c imm)
  | .empty a b c imm => some (encM 0x24 4 a b c imm)
  | .feq a b c imm => some (encM 0x24 5 a b c imm)
  | .pass a b c imm => some (encS 0x25 0 a b c imm)
  | .take a b c imm => some (encS 0x25 1 a b c imm)
  | .peek a b c imm => some (encS 0x25 2 a b c imm)
  | .carm a b c imm => some (encS 0x28 0 a b c imm)
  | .cdec a b c imm => some (encS 0x28 1 a b c imm)
  | .cready a b c imm => some (encS 0x28 2 a b c imm)
  | .cpop a b c imm => some (encS 0x28 3 a b c imm)
  | .cdone a b c imm => some (encS 0x28 4 a b c imm)
  | .send a b c imm => some (encS 0x29 0 a b c imm)
  | .rpoll a b c imm => some (encS 0x29 1 a b c imm)
  | .rwait a b c imm => some (encS 0x29 2 a b c imm)
  | .radv a b c imm => some (encS 0x29 3 a b c imm)
  | .rbind a b c imm => some (encS 0x29 4 a b c imm)
  | .rclose a b c imm => some (encS 0x29 5 a b c imm)
  | .qrec a b c imm => some (encS 0x2A 0 a b c imm)
  | .qthaw a b c imm => some (encS 0x2A 1 a b c imm)
  | .qfreeze a b c imm => some (encS 0x2A 2 a b c imm)
  | .barSync a b c imm => some (encS 0x2C 0 a b c imm)
  | .barArrive a b c imm => some (encS 0x2C 1 a b c imm)
  | .barWait a b c imm => some (encS 0x2C 2 a b c imm)
  | .dbarSync a b c imm => some (encS 0x2C 3 a b c imm)
  | .dbarArrive a b c imm => some (encS 0x2C 4 a b c imm)
  | .dbarWait a b c imm => some (encS 0x2C 5 a b c imm)
  | .lock a b c imm => some (encS 0x2D 0 a b c imm)
  | .trylock a b c imm => some (encS 0x2D 1 a b c imm)
  | .unlock a b c imm => some (encS 0x2D 2 a b c imm)
  | .heir a b c imm => some (encS 0x2E 0 a b c imm)
  | .disown a b c imm => some (encS 0x2E 1 a b c imm)
  | .estq a b c imm => some (encS 0x2E 2 a b c imm)
  | .ack a b c imm => some (encS 0x2E 3 a b c imm)
  | .convey a b c imm => some (encS 0x2E 4 a b c imm)
  | .fork a b c imm => some (encS 0x2F 0 a b c imm)
  | .rdv a b c imm => some (encS 0x2F 1 a b c imm)
  | .cpy a b c imm => some (encS 0x2F 2 a b c imm)
  | .cpyt a b c imm => some (encS 0x2F 3 a b c imm)
  | .cevq a b c imm => some (encS 0x2F 4 a b c imm)
  | .vadd a b vd va vb k md => some (encV 0x30 0 a b vd va vb k md)
  | .vsub a b vd va vb k md => some (encV 0x30 1 a b vd va vb k md)
  | .vmul a b vd va vb k md => some (encV 0x30 2 a b vd va vb k md)
  | .vmin a b vd va vb k md => some (encV 0x30 3 a b vd va vb k md)
  | .vmax a b vd va vb k md => some (encV 0x30 4 a b vd va vb k md)
  | .vand a b vd va vb k md => some (encV 0x30 5 a b vd va vb k md)
  | .vor a b vd va vb k md => some (encV 0x30 6 a b vd va vb k md)
  | .vxor a b vd va vb k md => some (encV 0x30 7 a b vd va vb k md)
  | .vshl a b vd va vb k md => some (encV 0x30 8 a b vd va vb k md)
  | .vshr a b vd va vb k md => some (encV 0x30 9 a b vd va vb k md)
  | .vsar a b vd va vb k md => some (encV 0x30 10 a b vd va vb k md)
  | .vadds a b vd va vb k md => some (encV 0x30 11 a b vd va vb k md)
  | .vsubs a b vd va vb k md => some (encV 0x30 12 a b vd va vb k md)
  | .vabs a b vd va vb k md => some (encV 0x30 13 a b vd va vb k md)
  | .vfadd a b vd va vb k md => some (encV 0x31 0 a b vd va vb k md)
  | .vfsub a b vd va vb k md => some (encV 0x31 1 a b vd va vb k md)
  | .vfmul a b vd va vb k md => some (encV 0x31 2 a b vd va vb k md)
  | .vfma a b vd va vb k md => some (encV 0x31 3 a b vd va vb k md)
  | .vfmin a b vd va vb k md => some (encV 0x31 4 a b vd va vb k md)
  | .vfmax a b vd va vb k md => some (encV 0x31 5 a b vd va vb k md)
  | .vrcp a b vd va vb k md => some (encV 0x31 6 a b vd va vb k md)
  | .vrsq a b vd va vb k md => some (encV 0x31 7 a b vd va vb k md)
  | .vexp2 a b vd va vb k md => some (encV 0x31 8 a b vd va vb k md)
  | .vlog2 a b vd va vb k md => some (encV 0x31 9 a b vd va vb k md)
  | .vfneg a b vd va vb k md => some (encV 0x31 10 a b vd va vb k md)
  | .vfabs a b vd va vb k md => some (encV 0x31 11 a b vd va vb k md)
  | .vcmpEq a b vd va vb k md => some (encV 0x32 0 a b vd va vb k md)
  | .vcmpLt a b vd va vb k md => some (encV 0x32 1 a b vd va vb k md)
  | .vcmpLe a b vd va vb k md => some (encV 0x32 2 a b vd va vb k md)
  | .vcmpNe a b vd va vb k md => some (encV 0x32 3 a b vd va vb k md)
  | .vblend a b vd va vb k md => some (encV 0x32 4 a b vd va vb k md)
  | .kand a b vd va vb k md => some (encV 0x32 5 a b vd va vb k md)
  | .kor a b vd va vb k md => some (encV 0x32 6 a b vd va vb k md)
  | .kxor a b vd va vb k md => some (encV 0x32 7 a b vd va vb k md)
  | .knot a b vd va vb k md => some (encV 0x32 8 a b vd va vb k md)
  | .kpop a b vd va vb k md => some (encV 0x32 9 a b vd va vb k md)
  | .vcvt a b vd va vb k md => some (encV 0x33 0 a b vd va vb k md)
  | .vpack a b vd va vb k md => some (encV 0x33 1 a b vd va vb k md)
  | .vunpk a b vd va vb k md => some (encV 0x33 2 a b vd va vb k md)
  | .vrnd a b vd va vb k md => some (encV 0x33 3 a b vd va vb k md)
  | .vld a b vd va vb k md => some (encV 0x34 0 a b vd va vb k md)
  | .vst a b vd va vb k md => some (encV 0x34 1 a b vd va vb k md)
  | .vlds a b vd va vb k md => some (encV 0x34 2 a b vd va vb k md)
  | .vsts a b vd va vb k md => some (encV 0x34 3 a b vd va vb k md)
  | .vgath a b vd va vb k md => some (encV 0x34 4 a b vd va vb k md)
  | .vscat a b vd va vb k md => some (encV 0x34 5 a b vd va vb k md)
  | .vstk a b vd va vb k md => some (encV 0x34 6 a b vd va vb k md)
  | .vldb a b vd va vb k md => some (encV 0x34 7 a b vd va vb k md)
  | .vshuf a b vd va vb k md => some (encV 0x35 0 a b vd va vb k md)
  | .vbcast a b vd va vb k md => some (encV 0x35 1 a b vd va vb k md)
  | .vext a b vd va vb k md => some (encV 0x35 2 a b vd va vb k md)
  | .vrot a b vd va vb k md => some (encV 0x35 3 a b vd va vb k md)
  | .vins a b vd va vb k md => some (encV 0x35 4 a b vd va vb k md)
  | .vscanAdd a b vd va vb k md => some (encV 0x36 0 a b vd va vb k md)
  | .vscanMax a b vd va vb k md => some (encV 0x36 1 a b vd va vb k md)
  | .vscanLin a b vd va vb k md => some (encV 0x36 2 a b vd va vb k md)
  | .vredAdd a b vd va vb k md => some (encV 0x36 3 a b vd va vb k md)
  | .vredMax a b vd va vb k md => some (encV 0x36 4 a b vd va vb k md)
  | .vcarry a b vd va vb k md => some (encV 0x36 5 a b vd va vb k md)
  | .rep a b c imm => some (encM 0x37 0 a b c imm)
  | .mma a b vd va vb k md => some (encV 0x38 0 a b vd va vb k md)
  | .mmau a b vd va vb k md => some (encV 0x38 1 a b vd va vb k md)
  | .mmas a b vd va vb k md => some (encV 0x38 2 a b vd va vb k md)
  | .mmaus a b vd va vb k md => some (encV 0x38 3 a b vd va vb k md)
  | .mzero a b vd va vb k md => some (encV 0x39 0 a b vd va vb k md)
  | .mlda a b vd va vb k md => some (encV 0x39 1 a b vd va vb k md)
  | .msta a b vd va vb k md => some (encV 0x39 2 a b vd va vb k md)
  | .mstm a b vd va vb k md => some (encV 0x39 3 a b vd va vb k md)
  | .mdrain a b vd va vb k md => some (encV 0x39 4 a b vd va vb k md)
  | .launch a b c imm => some (encS 0x3B 0 a b c imm)
  | .exit a b c imm => some (encS 0x3B 1 a b c imm)
  | .kill a b c imm => some (encS 0x3B 2 a b c imm)
  | .gstat a b c imm => some (encS 0x3B 3 a b c imm)
  | .fstep a b c imm => some (encS 0x3C 0 a b c imm)
  | .tick a b c imm => some (encS 0x3C 1 a b c imm)
  | .rfade a b c imm => some (encS 0x3C 2 a b c imm)
  | .rinit a b c imm => some (encS 0x3C 3 a b c imm)
  | .rwgt a b c imm => some (encS 0x3C 4 a b c imm)
  | .bcast a b c imm => some (encS 0x3D 0 a b c imm)
  | .bacc a b c imm => some (encS 0x3D 1 a b c imm)
  | .bwait a b c imm => some (encS 0x3D 2 a b c imm)
  | .bseq a b c imm => some (encS 0x3D 3 a b c imm)
  | .ldd a b c imm => some (encS 0x3E 0 a b c imm)
  | .std a b c imm => some (encS 0x3E 1 a b c imm)
  | .redx a b c imm => some (encS 0x3E 2 a b c imm)
  | .lnkctlRnew a b c => some (encS 0x3E 3 a b c 0)
  | .lnkctlRfree a b c => some (encS 0x3E 3 a b c 1)
  | .lnkctlPark a b c => some (encS 0x3E 3 a b c 2)
  | .lnkctlLight a b c => some (encS 0x3E 3 a b c 3)
  | .lnkctlRetrain a b c => some (encS 0x3E 3 a b c 4)
  | .pbind a b c imm => some (encS 0x3E 4 a b c imm)
  | .punbind a b c imm => some (encS 0x3E 5 a b c imm)
  | .pstat a b c imm => some (encS 0x3E 6 a b c imm)
  | .lnkstat a b c imm => some (encS 0x3E 7 a b c imm)
  | .filld a b c imm => some (encS 0x3E 8 a b c imm)
  | .trap a b c imm => some (encS 0x3F 0 a b c imm)
  | .tret a b c imm => some (encS 0x3F 1 a b c imm)
  | .break a b c imm => some (encS 0x3F 2 a b c imm)
  | .wfm a b c imm => some (encS 0x3F 3 a b c imm)
  | .time a b c imm => some (encS 0x3F 4 a b c imm)
  | .capr a b c imm => some (encS 0x3F 5 a b c imm)
  | .migrate a b c imm => some (encS 0x3F 6 a b c imm)
  | .probeStop a b c => some (encS 0x3F 7 a b c 0)
  | .probeResume a b c => some (encS 0x3F 7 a b c 1)
  | .probeStep a b c => some (encS 0x3F 7 a b c 2)
  | .probeRarm a b c => some (encS 0x3F 7 a b c 3)
  | .probeRtrig a b c => some (encS 0x3F 7 a b c 4)
  | .probeCkpt a b c => some (encS 0x3F 7 a b c 5)
  | .halt a b c imm => some (encS 0x3F 8 a b c imm)
  | .qbaseWrite _ _ => none
  | .portbWrite _ _ => none
  | .barrierRegisterWrite _ _ _ => none
  | .satcntWrite _ _ => none
  | .fadeEtaWrite _ _ _ => none
  | .bmodeWrite _ _ => none
  | .pctlWrite _ _ => none
  | .fprogvAbandon _ => none
  | .deferredTrap _ => none
  | .resultLands _ => none
  | .tileOpTaken _ => none
  | .tileOpComplete _ _ => none
  | .pageWalkComplete _ => none
  | .withyPass _ _ => none
  | .requestPerform _ => none
  | .responseArrival _ => none
  | .wakeArrival _ => none
  | .longWaitExpiry _ => none
  | .cpopParkExpiry _ => none
  | .bcastRequestArrival _ => none
  | .bcastAnswerArrival _ => none
  | .broadcastReceive _ => none
  | .broadcastAccept _ => none
  | .sweepWalk _ => none
  | .retirementReportArrival _ => none
  | .messageArrival _ => none
  | .ringRefusalRetry _ => none
  | .bounceArrival _ => none
  | .counterDecrement _ => none
  | .stealRound _ => none
  | .portDeposit _ => none
  | .portAck _ => none
  | .barrierArrivalHop _ => none
  | .barrierReleaseHop _ => none
  | .dbarTokenArrival _ => none
  | .copyCommandStart _ => none
  | .copyCommandComplete _ _ => none
  | .migrationArrival _ => none
  | .placementUpdate _ => none
  | .placementUpdateAck _ => none
  | .requestRedirect _ => none
  | .memberMoveInstall _ _ => none
  | .groupPlacement _ => none
  | .estateWalkStart _ => none
  | .estateWalkHolding => none
  | .watchdogCheck _ => none
  | .lddAnswer _ => none
  | .lddTimeout _ => none
  | .remoteStoreTimeout _ => none
  | .remoteAccessPerform _ => none
  | .dataFlitReceive _ _ _ _ => none
  | .nackReceive _ _ => none
  | .ackReceive _ _ => none
  | .widthControlReceive _ _ => none
  | .errorWindowEnd _ _ => none
  | .lossOfLight _ _ => none
  | .lockReached _ _ => none
  | .wakeTimeout _ _ => none
  | .trainingPass _ _ => none
  | .retrainTimeout _ _ => none
  | .multicastForward _ => none
  | .reductionContribution _ => none
  | .reductionTimeout _ => none
  | .relayForward _ _ => none
  | .sourceItem _ _ => none
  | .recorderFreeze _ => none
  | .replayInject _ => none
  | .grantExpiry _ => none
  | .planeDarkEffect _ => none
  | .thermalTrip _ => none
  | .supplyLoss => none
  | .deviceReset => none
  | .unsupportedPacket _ => none
  | .bulkWrite _ _ => none
  | .bulkRead _ _ => none
  | .image _ _ => none
  | .root _ => none
  | .invalidate _ _ _ => none
  | .routing _ _ _ => none
  | .handle _ _ _ => none
  | .linkErrt _ => none
  | .wavelengthReset _ _ => none
  | .partitionCreate _ _ _ _ => none
  | .partitionDestroy _ => none
  | .policy _ _ _ => none
  | .stream _ _ _ => none
  | .hostLaunch _ _ => none
  | .hostKill _ => none
  | .save _ => none
  | .move _ _ => none
  | .resume _ _ => none
  | .powerCluster _ _ => none
  | .planeLight _ => none
  | .planeDarken _ => none
  | .powerStack _ _ => none
  | .wavelengthPark _ _ _ => none
  | .wavelengthLight _ _ _ => none
  | .wavelengthRetrain _ _ _ => none
  | .powerPort _ _ _ => none
  | .grantIssue _ _ _ => none
  | .grantRevoke _ => none
  | .timeAdjust _ => none
  | .hostProbe _ _ _ _ => none
  | .record _ _ _ => none
  | .readout _ _ _ => none
  | .blackBoxRead => none
  | .estateRead _ _ => none
  | .quote _ _ => none
  | .powerTransitionComplete _ _ => none

/-- head | tail << 16, the TVAL of a refused encoding (03 R74). -/
def encWord (i : Instr) : Nat :=
  match encode i with
  | some (h, t) => h + t * 65536
  | none => 0

/-- The 64 bytes of a line that holds one head and its tail (03 R46 to R49). -/
def oneLine (hd tl : Nat) : List Byte :=
  leBytes 2 1 ++ leBytes 2 hd ++ List.replicate (60 - 2 * (hd % 4)) 0 ++ leBytes (2 * (hd % 4)) tl

/-- The instruction the decoder reads from an instruction whose bits are `w`, head first, laid out in a line as the device stores it. -/
noncomputable def decodeTableWord (nbits w : Nat) : Option Instr :=
  let x := w % 2 ^ nbits
  match decodeLine (oneLine (x % 65536) (x / 65536)) with
  | some l =>
    match l.heads, l.tails with
    | h :: _, t :: _ => decode h t
    | _, _ => none
  | none => none

end Sys2Proof
end

