-- ==== Sys2Proof/Config.lean ====
section
/-! DEFINITION. What the spec leaves open, as constants without a body (free values), and the sizes the part fixes (00, 01). -/

namespace Sys2Proof.Config

/-- Cycles of device time that the step with this number takes; the spec's latencies are figures of an unloaded part (08 R423, R424), and the rest is open. Free value, log entry 6. -/
opaque stepCycles : Nat → Nat

/-- Ethernet port that a command of the host comes through; the spec names none (29 R411, R412). Free value, log entry 73. -/
opaque hostPort : Instr → Nat

/-- A choice the device makes where the spec names no rule for it (the index and generation of a handle, 14 R268). Free value, log entry 9. -/
opaque freeChoice : Nat → Nat

/-- Set of a cluster's translation cache that a page of a group goes to; the spec gives the ways and no index (08 R163). Free value, log entry 104. -/
opaque cacheSet : Nat → Nat → Nat → Nat

/-- Whether the n-th doubleword of a failed copy command was written (20 R337). Free value, log entry 16. -/
opaque copyWrote : Nat → Nat → Bool

/-- A bit of a message or report whose value the spec does not give. Free value, log entry 9. -/
opaque freeWord : Nat → Nat → BitVec 64

/-- SHA-256 of a byte string, as its standard defines it (00). Uninterpreted, log entry 11. -/
opaque sha256 : List (BitVec 8) → BitVec 256

/-- LMS verification (RFC 8554): public key, message, signature. Uninterpreted, log entry 11. -/
opaque lmsVerify : List (BitVec 8) → List (BitVec 8) → List (BitVec 8) → Bool

/-- LMS signing with the device identity key: message, index of the one-time key. Uninterpreted, log entry 11. -/
opaque lmsSign : List (BitVec 8) → Nat → List (BitVec 8)

/-- The vendor's key in the boot ROM (29 R418). Uninterpreted, log entry 11. -/
opaque romKey : List (BitVec 8)

/-- Cores on the mesh (01 R7). -/
def cores : Nat := 6144
/-- Clusters (01 R9). -/
def clusters : Nat := 384
/-- Home slices (01 R11). -/
def slices : Nat := 96
/-- Bytes of scratchpad of one core (01 R9). -/
def spadBytes : Nat := 131072
/-- Bytes of HBM (01 R11). -/
def hbmBytes : Nat := 0xC000000000

end Sys2Proof.Config
end

