-- ==== Sys2Proof/Machine/Flags.lean ====
section
/-! DEFINITION. Number formats and arithmetic (02): exact values, rounding, overflow, saturation, NaN provenance, random bits, fading. The machine has no flag register; the saturation count and the NaN word are what a result leaves beside itself. -/

namespace Sys2Proof.Machine

/-- The four rounding modes (02 R27). -/
inductive Rm where
  | rne | rtz | rup | rdn
  deriving DecidableEq, Repr

/-- RM field to mode (02 R27). -/
def rmOf (n : Nat) : Rm :=
  match n % 4 with
  | 0 => .rne
  | 1 => .rtz
  | 2 => .rup
  | _ => .rdn

/-- A floating-point format (02 R21): exponent bits, fraction bits, bias, and whether it has infinities. -/
structure FFmt where
  ebits : Nat
  fbits : Nat
  bias : Nat
  hasInf : Bool
  deriving DecidableEq, Repr

def f32 : FFmt := ⟨8, 23, 127, true⟩
def bf16 : FFmt := ⟨8, 7, 127, true⟩
def f16 : FFmt := ⟨5, 10, 15, true⟩
def e5m2 : FFmt := ⟨5, 2, 15, true⟩
def e4m3 : FFmt := ⟨4, 3, 7, false⟩

/-- Width in bits. -/
def FFmt.width (f : FFmt) : Nat := 1 + f.ebits + f.fbits

/-- Exponent of the smallest subnormal. -/
def FFmt.qmin (f : FFmt) : Int := 1 - (f.bias : Int) - f.fbits

/-- Largest biased exponent of a finite value (02 R21, R22). -/
def FFmt.emax (f : FFmt) : Nat := if f.hasInf then 2 ^ f.ebits - 2 else 2 ^ f.ebits - 1

/-- Quantum exponent of the largest finite value. -/
def FFmt.qmax (f : FFmt) : Int := (f.emax : Int) - 1 + f.qmin

/-- Significand of the largest finite value; E4M3 loses its top code to NaN (02 R22). -/
def FFmt.mmax (f : FFmt) : Nat := if f.hasInf then 2 ^ (f.fbits + 1) - 1 else 2 ^ (f.fbits + 1) - 2

/-- What a pattern stands for. A NaN is held as the FP32 NaN it widens to (02 R37); `fin s m e` is ±m·2^e and keeps the sign of zero. -/
inductive FVal where
  | nan (w : Nat)
  | inf (s : Bool)
  | fin (s : Bool) (m : Nat) (e : Int)
  deriving DecidableEq, Repr

/-- An FP32 NaN created by the device (02 R34). -/
def mkNan (origin kidx : Nat) : Nat :=
  0x7FC00000 + origin % 8192 * 512 + min kidx 511

/-- A NaN with its quiet bit set (02 R23). -/
def quiet (w : Nat) : Nat := if bitAt w 22 then w else w + 2 ^ 22

/-- ORIGIN and KIDX of an FP32 NaN (02 R34). -/
def nanKey (w : Nat) : Nat × Nat := (bitsOf w 9 13, bitsOf w 0 9)

/-- The NaN that survives when two meet, the first operand first (02 R36). -/
def nanMeet (a b : Nat) : Nat :=
  let (oa, ka) := nanKey a
  let (ob, kb) := nanKey b
  if ob < oa ∨ (ob = oa ∧ kb < ka) then b else a

/-- The first of the operands that is a NaN, combined by R36; none if no operand is. -/
def nanOf : List FVal → Option Nat
  | [] => none
  | .nan w :: r =>
    match nanOf r with
    | none => some (quiet w)
    | some v => some (nanMeet (quiet w) v)
  | _ :: r => nanOf r

/-- Decode a pattern of a floating-point format (02 R21, R22, R37). -/
def decodeF (f : FFmt) (x : Nat) : FVal :=
  let frac := bitsOf x 0 f.fbits
  let ex := bitsOf x f.fbits f.ebits
  let s := bitAt x (f.ebits + f.fbits)
  let sw := if s then 0x80000000 else 0
  if f.hasInf ∧ ex = 2 ^ f.ebits - 1 then
    if frac = 0 then .inf s
    else .nan (quiet (sw + 0x7F800000 + frac * 2 ^ (23 - f.fbits)))
  else if ¬ f.hasInf ∧ ex = 2 ^ f.ebits - 1 ∧ frac = 2 ^ f.fbits - 1 then
    .nan (sw + mkNan 0x1FFF 511)
  else if ex = 0 then .fin s frac f.qmin
  else .fin s (2 ^ f.fbits + frac) ((ex : Int) - 1 + f.qmin)

/-- Narrow an FP32 NaN (02 R37): the top fraction bits stay; E4M3 keeps the sign only. -/
def narrowNan (f : FFmt) (w : Nat) : Nat :=
  let s := bitsOf w 31 1
  if f.hasInf then
    s * 2 ^ (f.ebits + f.fbits) + (2 ^ f.ebits - 1) * 2 ^ f.fbits
      + bitsOf (quiet w) (23 - f.fbits) f.fbits
  else s * 2 ^ (f.ebits + f.fbits) + (2 ^ (f.ebits + f.fbits) - 1)

/-- Integer part of m / 2^d rounded in a mode; `s` is the sign of the value (02 R28). -/
def roundShift (rm : Rm) (s : Bool) (m d : Nat) : Nat :=
  let k := m / 2 ^ d
  let r := m % 2 ^ d
  match rm with
  | .rne =>
    if 2 * r < 2 ^ d then k
    else if 2 ^ d < 2 * r then k + 1
    else if r = 0 then k
    else k + k % 2
  | .rtz => k
  | .rup => if r = 0 ∨ s then k else k + 1
  | .rdn => if r = 0 ∨ ¬ s then k else k + 1

/-- Round ±m·2^e to the format's grid with the exponent range extended upward (02 R28): significand and quantum exponent. -/
def roundGrid (f : FFmt) (rm : Rm) (s : Bool) (m : Nat) (e : Int) : Nat × Int :=
  if m = 0 then (0, f.qmin)
  else
    let q := max (e + (Nat.log2 m : Int) - f.fbits) f.qmin
    if q ≤ e then (m * 2 ^ (e - q).toNat, q)
    else
      let k := roundShift rm s m (q - e).toNat
      if k = 2 ^ (f.fbits + 1) then (2 ^ f.fbits, q + 1) else (k, q)

/-- Whether a rounded grid value lies above the largest finite value. -/
def FFmt.over (f : FFmt) (k : Nat) (q : Int) : Bool :=
  decide (k ≠ 0 ∧ (f.qmax < q ∨ (q = f.qmax ∧ f.mmax < k)))

def signBit (f : FFmt) (s : Bool) : Nat := if s then 2 ^ (f.ebits + f.fbits) else 0

/-- Pattern of a grid value that is not over. -/
def FFmt.pack (f : FFmt) (s : Bool) (k : Nat) (q : Int) : Nat :=
  signBit f s +
    (if k < 2 ^ f.fbits then k
     else (q - f.qmin + 1).toNat * 2 ^ f.fbits + (k - 2 ^ f.fbits))

def FFmt.maxPat (f : FFmt) (s : Bool) : Nat := f.pack s f.mmax f.qmax

/-- Pattern of an infinity. -/
def FFmt.infPat (f : FFmt) (s : Bool) : Nat :=
  signBit f s + (2 ^ f.ebits - 1) * 2 ^ f.fbits

/-- Value of an overflowed arithmetic result (02 R421). -/
def overPat (f : FFmt) (rm : Rm) (s : Bool) : Nat :=
  match rm, s with
  | .rne, _ => f.infPat s
  | .rtz, _ => f.maxPat s
  | .rup, false => f.infPat false
  | .rup, true => f.maxPat true
  | .rdn, false => f.maxPat false
  | .rdn, true => f.infPat true

/-- One rounding of an arithmetic result into a format (02 R28, R39, R421). -/
def roundF (f : FFmt) (rm : Rm) : FVal → Nat
  | .nan w => narrowNan f (quiet w)
  | .inf s => f.infPat s
  | .fin s m e =>
    let (k, q) := roundGrid f rm s m e
    if f.over k q then overPat f rm s else f.pack s k q

/-! ## Exact arithmetic -/

/-- The signed integer ±m. -/
def sgn (s : Bool) (m : Nat) : Int := if s then -(m : Int) else m

/-- The smallest exponent of a list of finite terms. -/
def minExp : List (Bool × Nat × Int) → Int
  | [] => 0
  | [(_, _, e)] => e
  | (_, _, e) :: r => min e (minExp r)

/-- Sum of finite terms at a common exponent. -/
def sumAt (q : Int) : List (Bool × Nat × Int) → Int
  | [] => 0
  | (s, m, e) :: r => sgn s m * 2 ^ (e - q).toNat + sumAt q r

/-- Exact sum of finite terms, with the sign of an exact zero (02 R422). -/
def exactSum (rm : Rm) (ts : List (Bool × Nat × Int)) : FVal :=
  let q := minExp ts
  let t := sumAt q ts
  if t = 0 then
    if ts.all (fun x => x.2.1 == 0) ∧ ts.all (fun x => x.1) ∧ ts ≠ [] then .fin true 0 0
    else if ts.all (fun x => x.2.1 == 0) ∧ ts.all (fun x => !x.1) then .fin false 0 0
    else .fin (decide (rm = .rdn)) 0 0
  else .fin (decide (t < 0)) t.natAbs q

/-- The finite parts of a list of values. -/
def finParts : List FVal → List (Bool × Nat × Int)
  | [] => []
  | .fin s m e :: r => (s, m, e) :: finParts r
  | _ :: r => finParts r

def hasInfOf (s : Bool) (vs : List FVal) : Bool := vs.any (fun v => v == .inf s)

/-- Sum of values with no rounding; `bad` is the NaN of an invalid sum (02 R35, R36, R422). -/
def addVals (rm : Rm) (bad : Nat) (vs : List FVal) : FVal :=
  match nanOf vs with
  | some w => .nan w
  | none =>
    match hasInfOf false vs, hasInfOf true vs with
    | true, true => .nan bad
    | true, false => .inf false
    | false, true => .inf true
    | false, false => exactSum rm (finParts vs)

/-- Exact product (02 R35, R36, R422). -/
def mulVals (bad : Nat) (a b : FVal) : FVal :=
  match nanOf [a, b] with
  | some w => .nan w
  | none =>
    match a, b with
    | .fin s m e, .fin t n g => .fin (xor s t) (m * n) (e + g)
    | .inf s, .inf t => .inf (xor s t)
    | .inf s, .fin t n _ => if n = 0 then .nan bad else .inf (xor s t)
    | .fin s m _, .inf t => if m = 0 then .nan bad else .inf (xor s t)
    | .nan w, _ => .nan w
    | _, .nan w => .nan w

/-- a·b + c, exact, with the operand order of R36: a, b, then c; a NaN operand wins over an invalid product. -/
def fmaVals (rm : Rm) (bad : Nat) (a b c : FVal) : FVal :=
  match nanOf [a, b, c] with
  | some w => .nan w
  | none =>
    match mulVals bad a b with
    | .nan w => .nan w
    | p => addVals rm bad [p, c]

/-- The value with its sign changed. -/
def negVal : FVal → FVal
  | .nan w => .nan w
  | .inf s => .inf (!s)
  | .fin s m e => .fin (!s) m e

/-- Order of two values that are no NaN: -0 below +0 when `zeros` is set (07 R141). -/
def ltVal (zeros : Bool) (a b : FVal) : Bool :=
  match a, b with
  | .inf s, .inf t => s && !t
  | .inf s, _ => s
  | _, .inf t => !t
  | .fin s m e, .fin t n g =>
    let q := min e g
    let x := sgn s m * 2 ^ (e - q).toNat
    let y := sgn t n * 2 ^ (g - q).toNat
    decide (x < y) || (zeros && decide (m = 0 ∧ n = 0) && s && !t)
  | _, _ => false

/-- VFMIN and VFMAX (07 R141). -/
def minVal (a b : FVal) : FVal :=
  match nanOf [a, b] with
  | some w => .nan w
  | none => if ltVal true b a then b else a

def maxVal (a b : FVal) : FVal :=
  match nanOf [a, b] with
  | some w => .nan w
  | none => if ltVal true a b then b else a

/-! ## Reciprocal, root, exponential, logarithm (07 R140) -/

/-- Floor of the square root, one bit at a time from bit `n`. -/
def isqrtGo : Nat → Nat → Nat → Nat
  | 0, _, r => r
  | n + 1, x, r =>
    let t := r + 2 ^ n
    if t * t ≤ x then isqrtGo n x t else isqrtGo n x r

/-- Floor of the square root. -/
def isqrt (x : Nat) : Nat := isqrtGo (Nat.log2 x / 2 + 1) x 0

/-- A quotient as ±k·2^e with a last bit that is set when the division was not exact; it rounds as the quotient does. -/
def quotVal (s : Bool) (n d : Nat) (e : Int) : FVal :=
  let sh := Nat.log2 d + 40
  let k := n * 2 ^ sh / d
  let odd := if n * 2 ^ sh % d = 0 then 0 else 1
  .fin s (2 * k + odd) (e - sh - 1)

/-- VRCP (07 R140, R141). -/
def rcpVal : FVal → FVal
  | .nan w => .nan (quiet w)
  | .inf s => .fin s 0 0
  | .fin s m e => if m = 0 then .inf s else quotVal s 1 m (-e)

/-- VRSQ (07 R140, R141). -/
def rsqVal (bad : Nat) : FVal → FVal
  | .nan w => .nan (quiet w)
  | .inf true => .nan bad
  | .inf false => .fin false 0 0
  | .fin s m e =>
    if m = 0 then .inf s
    else if s then .nan bad
    else
      let m' := if e % 2 = 0 then m else 2 * m
      let e' := if e % 2 = 0 then e else e - 1
      let k := Nat.log2 m' + 40
      let r := isqrt (2 ^ (2 * k) / m')
      let odd := if r * r * m' = 2 ^ (2 * k) then 0 else 1
      .fin false (2 * r + odd) (-(k : Int) - e' / 2 - 1)

/-- Working precision of the exponential and logarithm (log entry 17). -/
def xprec : Nat := 512

/-- Sum over k of 2^P / (k·2^k), the series of ln 2. -/
def ln2Go : Nat → Nat → Nat
  | 0, acc => acc
  | k + 1, acc => ln2Go k (acc + 2 ^ xprec / ((k + 1) * 2 ^ (k + 1)))

def ln2Fix : Nat := ln2Go 520 0

/-- Taylor series of the exponential in fixed point: n terms left, index k, current term. -/
def expGo : Nat → Nat → Nat → Nat → Nat → Nat
  | 0, _, _, _, acc => acc
  | n + 1, x, k, t, acc => expGo n x (k + 1) (t * x / 2 ^ xprec / k) (acc + t)

/-- 2^f for the fixed-point fraction f / 2^P, below 2. -/
def exp2Fix (f : Nat) : Nat := expGo 130 (f * ln2Fix / 2 ^ xprec) 1 (2 ^ xprec) 0

/-- VEXP2 (07 R140, R141). A value that is no power of two with a whole exponent is irrational, so its last bit is set. -/
def exp2Val : FVal → FVal
  | .nan w => .nan (quiet w)
  | .inf true => .fin false 0 0
  | .inf false => .inf false
  | .fin s m e =>
    if m = 0 then .fin false 1 0
    else if 0 ≤ e ∧ 20 < e then (if s then .fin false 1 (-5000) else .fin false 1 5000)
    else
      let sh : Nat := 512
      let x : Int := sgn s m * 2 ^ (e + sh).toNat
      let ip := x / 2 ^ sh
      let fr := (x % 2 ^ sh).toNat
      if fr = 0 then .fin false 1 (max (min ip 5000) (-5000))
      else .fin false (2 * (exp2Fix fr / 2 ^ 128) + 1) (max (min ip 5000) (-5000) - (xprec - 128 : Nat) - 1)

/-- The series of atanh z in fixed point: terms left, z², z^(2k+1), 2k+1. -/
def atanhGo : Nat → Nat → Nat → Nat → Nat → Nat
  | 0, _, _, _, acc => acc
  | n + 1, z2, t, d, acc => atanhGo n z2 (t * z2 / 2 ^ xprec) (d + 2) (acc + t / d)

/-- VLOG2 (07 R140, R141); the logarithm of 1 is +0 in every rounding mode (02 R422). DESIGN CHOICE, log entry 130. -/
def log2Val (bad : Nat) : FVal → FVal
  | .nan w => .nan (quiet w)
  | .inf true => .nan bad
  | .inf false => .inf false
  | .fin s m e =>
    if m = 0 then .inf true
    else if s then .nan bad
    else
      let b := Nat.log2 m
      let ex : Int := e + b
      if m = 2 ^ b then (if ex = 0 then .fin false 0 0 else .fin (decide (ex < 0)) ex.natAbs 0)
      else
        let z := (m - 2 ^ b) * 2 ^ xprec / (m + 2 ^ b)
        let ln := 2 * atanhGo 170 (z * z / 2 ^ xprec) z 1 0
        let v : Int := ex * 2 ^ xprec + ((ln * 2 ^ xprec / ln2Fix : Nat) : Int)
        let w : Int := 2 * (v / 2 ^ 128) + 1
        .fin (decide (w < 0)) w.natAbs (-((xprec - 128 : Nat) : Int) - 1)

/-! ## Conversion (02 R28, R30) -/

/-- Type codes of VCVT (07 R143). -/
inductive Ty where
  | i8 | i16 | i32 | n8 | n16 | n32 | tf32 | tbf16 | tf16 | te5m2 | te4m3
  deriving DecidableEq, Repr

def tyOf (n : Nat) : Option Ty :=
  match n with
  | 0 => some .i8
  | 1 => some .i16
  | 2 => some .i32
  | 3 => some .n8
  | 4 => some .n16
  | 5 => some .n32
  | 6 => some .tf32
  | 7 => some .tbf16
  | 8 => some .tf16
  | 9 => some .te5m2
  | 10 => some .te4m3
  | _ => none

def Ty.fmt : Ty → Option FFmt
  | .tf32 => some f32
  | .tbf16 => some bf16
  | .tf16 => some f16
  | .te5m2 => some e5m2
  | .te4m3 => some e4m3
  | _ => none

def Ty.width : Ty → Nat
  | .i8 | .n8 | .te5m2 | .te4m3 => 8
  | .i16 | .n16 | .tbf16 | .tf16 => 16
  | .i32 | .n32 | .tf32 => 32

def Ty.signed : Ty → Bool
  | .i8 | .i16 | .i32 => true
  | _ => false

/-- Two's complement value of the low `w` bits. -/
def sint (w x : Nat) : Int :=
  let v := x % 2 ^ w
  if 2 * v < 2 ^ w then v else (v : Int) - 2 ^ w

/-- The low `w` bits of an integer. -/
def wrapInt (w : Nat) (i : Int) : Nat := (i % (2 ^ w : Int)).toNat

/-- The exact value of a pattern of a type. -/
def tyVal (t : Ty) (x : Nat) : FVal :=
  match t.fmt with
  | some f => decodeF f (x % 2 ^ f.width)
  | none =>
    if t.signed then
      let i := sint t.width x
      .fin (decide (i < 0)) i.natAbs 0
    else .fin false (x % 2 ^ t.width) 0

/-- An exact value rounded to an integer in a mode (02 R28). -/
def roundInt (rm : Rm) (s : Bool) (m : Nat) (e : Int) : Int :=
  if 0 ≤ e then sgn s (m * 2 ^ e.toNat) else sgn s (roundShift rm s m (-e).toNat)

/-- Clamp an integer to a range; the flag says that it was clamped. -/
def clampInt (lo hi i : Int) : Int × Bool :=
  if hi < i then (hi, true) else if i < lo then (lo, true) else (i, false)

/-- convert() into a floating-point format: pattern and whether it is counted (02 R28, R30, R37). -/
def convF (f : FFmt) (rm : Rm) : FVal → Nat × Bool
  | .nan w => (narrowNan f w, false)
  | .inf s => if f.hasInf then (f.infPat s, false) else (f.maxPat s, true)
  | .fin s m e =>
    let (k, q) := roundGrid f rm s m e
    if f.over k q then (f.maxPat s, true) else (f.pack s k q, false)

/-- convert() into an integer range (02 R28, R30). -/
def convI (lo hi : Int) (rm : Rm) : FVal → Int × Bool
  | .nan _ => (0, true)
  | .inf s => (if s then lo else hi, true)
  | .fin s m e => clampInt lo hi (roundInt rm s m e)

/-- convert() into a type: pattern and count (02 R28, R30). -/
def convTy (t : Ty) (rm : Rm) (v : FVal) : Nat × Bool :=
  match t.fmt with
  | some f => convF f rm v
  | none =>
    let (lo, hi) : Int × Int :=
      if t.signed then (-(2 ^ (t.width - 1) : Int), 2 ^ (t.width - 1) - 1) else (0, 2 ^ t.width - 1)
    let (i, c) := convI lo hi rm v
    (wrapInt t.width i, c)

/-! ## The q4 block family (02 R24 to R26) -/

/-- Magnitudes by index, index 8 the phantom, and the exponent of their unit. -/
def q4Mags (ty : Nat) : List Nat × Int :=
  match ty with
  | 1 => ([0, 1, 2, 3, 4, 6, 8, 12, 16], -1)
  | 2 => ([0, 1, 2, 4, 8, 16, 32, 64, 128], -3)
  | _ => ([0, 1, 2, 3, 4, 6, 8, 12, 16], 0)

/-- v(c) as ±m·2^e, without the scale (02 R25). -/
def q4Val (ty c : Nat) : Bool × Nat × Int :=
  if ty % 4 = 0 then
    let i := sint 4 c
    (decide (i < 0), i.natAbs, 0)
  else
    let (ms, u) := q4Mags (ty % 4)
    (bitAt c 3 && c % 8 != 0, ms.getD (c % 8) 0, u)

/-- Index of a magnitude m·2^e (in units) among the rising list, rounded in a mode; 8 and above is beyond the end. -/
def q4Index (rm : Rm) (s : Bool) (m d : Nat) : List Nat → Nat → Nat
  | a :: b :: r, i =>
    if m < b * 2 ^ d then
      if m = a * 2 ^ d then i
      else
        match rm with
        | .rtz => i
        | .rup => if s then i else i + 1
        | .rdn => if s then i + 1 else i
        | .rne =>
          let lo := m - a * 2 ^ d
          let hi := b * 2 ^ d - m
          if lo < hi then i else if hi < lo then i + 1 else if i % 2 = 0 then i else i + 1
    else q4Index rm s m d (b :: r) (i + 1)
  | _, i => i

/-- convert() into a q4 type under a scale byte: code and count (02 R24 to R30). -/
def convQ4 (scale : Nat) (rm : Rm) (v : FVal) : Nat × Bool :=
  let ty := bitsOf scale 6 2
  let sc : Int := (bitsOf scale 0 6 : Int) - 32
  if ty = 0 then
    let w := match v with
      | .fin s m e => FVal.fin s m (e - sc)
      | x => x
    let (i, c) := convI (-8) 7 rm w
    (wrapInt 4 i, c)
  else
    match v with
    | .nan _ => (0, true)
    | .inf s => (if s then 15 else 7, true)
    | .fin s m e =>
      let (ms, u) := q4Mags ty
      let e' := e - sc - u
      let m' := if 0 ≤ e' then m * 2 ^ e'.toNat else m
      let d := (-e').toNat
      let i := q4Index rm s m' d ms 0
      if 8 ≤ i then (if s then 15 else 7, true)
      else (if i = 0 then 0 else if s then 8 + i else i, false)

/-! ## Random bits, trace fixed point and fading (02 R42 to R45) -/

def rotl32 (x n : Nat) : Nat := (x * 2 ^ n + x / 2 ^ (32 - n)) % 2 ^ 32

/-- The rounds of vrnd (02 R42). -/
def vrndGo : Nat → Nat → Nat → Nat → Nat → Nat
  | 0, x0, x1, _, _ => x1 * 2 ^ 32 + x0
  | n + 1, x0, x1, kl, kh =>
    let p := x0 * 0xB5E36C2D
    vrndGo n (Nat.xor (Nat.xor (bitsOf p 32 32) (rotl32 x1 7)) kl) (Nat.xor (bitsOf p 0 32) kh)
      ((kl + 0x6A3D19E7) % 2 ^ 32) ((kh + 0x2C51B84B) % 2 ^ 32)

def vrnd (key n : Nat) : Nat :=
  vrndGo 8 (bitsOf n 0 32) (bitsOf n 32 32) (bitsOf key 0 32) (bitsOf key 32 32)

/-- rne(a / 2^k) for an integer a (02 R43). -/
def rneShift (a : Int) (k : Nat) : Int :=
  sgn (decide (a < 0)) (roundShift .rne (decide (a < 0)) a.natAbs k)

/-- sat24 and whether it clamped (02 R43). -/
def sat24 (a : Int) : Int × Bool := clampInt (-8388608) 8388607 a

/-- The ladder of the fading factor: fuel, P, B, Δ (02 R44). -/
def fadeGo : Nat → Nat → Nat → Nat → Nat
  | 0, p, _, _ => p
  | n + 1, p, b, d =>
    if d = 0 then p
    else
      let p' := if d % 2 = 1 then roundShift .rne false (p * b) 16 else p
      let b' := if d / 2 = 0 then b else roundShift .rne false (b * b) 16
      fadeGo n p' b' (d / 2)

def fadeFactor (f d : Nat) : Nat := fadeGo 33 0x10000 (if f = 0 then 0x10000 else f) d

/-- fade(t, f, Δ) (02 R44). -/
def fade (t : Int) (f d : Nat) : Int := rneShift (t * fadeFactor f d) 16

end Sys2Proof.Machine
end

