-- ==== Sys2Proof/Machine/State.lean ====
section
/-! DEFINITION. The state of the machine as plain data (INVENTORY.md, State), why a step can stop, and the state after reset. -/

namespace Sys2Proof.Machine

/-- Why the machine stops. -/
inductive Fault where
  /-- Raised by step after the loss of supply (28 R410): a device without supply executes nothing. Safe: the spec gives such a device no step. -/
  | unpowered
  deriving DecidableEq, Repr

/-- Why the model has no meaning for a step. -/
inductive Refusal where
  /-- Raised by exec's refused arms: the instruction has no meaning yet. Safe: nothing is claimed of it. -/
  | notModelled (mnemonic : String)
  deriving DecidableEq, Repr

/-- Sparse data by key, keys strictly rising. -/
abbrev Map (α : Type) := List (Nat × α)

/-! ## Strands -/

/-- A fetched line (03 R63): its base and its heads and tails. -/
structure Line where
  base : Nat
  heads : List Nat
  tails : List Nat
  deriving DecidableEq, Repr

/-- A run of REP (07 R152): its progress register, the body as heads and tails and its PCs, the counts, and the next body instruction. -/
structure RepRun where
  wc : Nat
  stride : Nat
  count : Nat
  body : List (Nat × Nat)
  pcs : List Word
  succ : Word
  p : Nat
  i : Nat
  sat : Nat
  deriving DecidableEq, Repr

/-- What a blocked context waits for (05 R112). -/
inductive Wait where
  | future (core word : Nat)
  | lockAt (hbm : Bool) (addr : Nat)
  | portOut (core word : Nat)
  | portIn (word : Nat)
  | ring (n : Nat)
  | bar (b e : Nat)
  | barFull (b : Nat)
  | dbar (d e : Nat)
  | dbarFull (d : Nat)
  | waitc (l s c m : Nat)
  | wfm (mask : Nat)
  | cpop (nost : Bool)
  | rdv
  | cevq
  | ldd (id : Nat)
  deriving DecidableEq, Repr

/-- States of a resident context (05 R113); a stopped one remembers its block and whether an entry failure stopped it (11 R233). -/
inductive CtxState where
  | ready
  | running
  | blocked (w : Wait)
  | stopped (w : Option Wait) (entryFail : Bool)
  deriving DecidableEq, Repr

/-- A broadcast on a member: sequence number, r, the acceptance tick once it is held (12 R248), and whether an FSTEP that awaits resumption counts it in CU (12 R253). -/
structure Bcast where
  num : Nat
  r : Nat
  atick : Nat
  cu : Bool
  deriving DecidableEq, Repr

/-- Kinds of access (08 R160). -/
inductive Acc where
  | load | store | atomic | fetch
  deriving DecidableEq, Repr

/-- The answers a strand holds for: an instruction that waits without blocking until another agent answers, or a thief's steal round (12 R260, 16 R292, R304, 18 R320). -/
structure Call where
  id : Nat
  answers : List (Nat × Option Nat)
  steal : Bool
  round : Nat
  deriving DecidableEq, Repr

/-- A resident context (05). The scalar, vector and mask registers are scratchpad words at `wp`; `cr` holds the control registers by number, one absent reading 0. `pendSat` lists the crossings to be raised, each with the tile operation whose completion brought it (11 R223), `tileWait` the tile operations that a stalled MDRAIN or WAITC waits for, `walkFault` what the walks of the instruction's pages have said, `repLoad` the load or atomic of a body of REP that has gone out, by its batch, with the PC of REP, the word of wC and the progress that names its instruction (07 R153), `owed` the events that its counters still have to count (28 R397), `noPermit` whether the instruction's stall for a permit or a stack has been counted (08 R166, 29 R413), `stalled` why the strand's last turn only stalled: 0 a result outstanding, 1 a permit, 2 a class full, 6 the tile queue full, 3 other (28 R397, R405). -/
structure Ctx where
  wp : Nat
  pc : Word
  cr : List (Nat × Word)
  state : CtxState
  line : Option Line
  rep : Option RepRun
  pendSat : List (Nat × Option Nat)
  pendBrv : Option Word
  failures : List Word
  pendLoad : List (Nat × Nat × Nat)
  gateLd : List Nat
  gateSt : List Nat
  skipBkp : Bool
  stepping : Bool
  walk : List (Nat × Acc)
  walkFault : List (Nat × Acc × Nat)
  noPermit : Bool
  repLoad : Option (Nat × Nat × Nat × Nat)
  stalled : Option Nat
  pend : List Bcast
  held : List Bcast
  call : Option Call
  parkLong : Bool
  woken : Bool
  parkRun : Nat
  tileWait : List Nat
  owed : List (Nat × Nat)
  fsat : Nat
  lddRes : Option (Nat × Nat)
  srvMsg : Bool
  runCycles : Nat
  instrs : Nat
  outAt : Option Nat
  deriving DecidableEq, Repr

/-- A context no launch has touched: every register 0 but LTMO (24 R365). -/
def Ctx.blank : Ctx :=
  { wp := 0, pc := 0, cr := [(0x0E0, 1300000)], state := .ready, line := none, rep := none, pendSat := [],
    pendBrv := none, failures := [], pendLoad := [], gateLd := [], gateSt := [], skipBkp := false, stepping := false, walk := [],
    walkFault := [], noPermit := false, repLoad := none, stalled := none, pend := [], held := [], call := none, parkLong := false, woken := false, parkRun := 0, tileWait := [], owed := [], fsat := 0, lddRes := none, srvMsg := false,
    runCycles := 0, instrs := 0, outAt := none }

/-! ## Cores -/

/-- An accumulator tile (10 R200, R222): the cells that are not zero, and the address recorded when it is poisoned. -/
structure Tile where
  cells : List (Nat × Nat)
  pois : Option Nat
  deriving DecidableEq, Repr

/-- What a tile operation does when the unit runs it (10 R213, R218): the elements of an unfolded A by row, or the offset of the A group; a store, once the unit has taken it, holds its ranges, the doublewords it has not yet performed, and the saturations it counts. -/
inductive TileWork where
  | zero
  | load (cells : List Nat)
  | mma (af bf : Nat) (a : List (List Nat)) (regsA : Option Nat) (regsB : Nat) (keep : List Bool) (sa sb : List Nat)
  | store (t d : Nat) (addr : Nat) (mask : Option Nat)
  | put (rs : List (Nat × Nat)) (left : List (Nat × List Byte)) (count : Nat)
  deriving DecidableEq, Repr

/-- A tile operation issued and not yet complete (10 R202). -/
structure TileOp where
  id : Nat
  cid : Nat
  tile : Nat
  work : TileWork
  rm : Nat
  sat : Nat
  taken : Bool
  deriving DecidableEq, Repr

/-- A cached translation (08 R163), tagged with the group handle; it covers the leaf's whole page. `leaf` is the entry's address, where the walker sets A (`used`) and D (`dirty`). -/
structure Tlb where
  group : Nat
  va : Nat
  size : Nat
  pa : Nat
  perm : Nat
  leaf : Nat
  used : Bool
  dirty : Bool
  deriving DecidableEq, Repr

/-- A forwarding entry (15 R280): the range covered on the vacated core, the destination core, and for a migration entry its strand and the offset that `lo` has there. -/
structure Fwd where
  group : Nat
  lo : Nat
  hi : Nat
  core : Nat
  off : Nat
  cid : Option Nat
  deriving DecidableEq, Repr

/-- States of the copy sequencer (20 R332). -/
inductive SeqState where
  | idle | running | blocked | ended | faulted
  deriving DecidableEq, Repr

/-- The copy sequencer (20 R331). Its strand's context is kept beside the resident contexts. -/
structure Seq where
  state : SeqState
  holder : Nat
  wc : Nat
  result : Word
  deriving DecidableEq, Repr

/-- A copy command (20 R333): issuer with its core, group, mode and whether it is the copy strand, tag, whether it transposes, the layout record, the doublewords still to be moved once it has started, the pages it waits for, the faults and the translations that walks of its pages have found, the home channels it has been written on, the doubleword whose stall for a permit or a stack has been counted (08 R166), the cycles after which a remote side times out and from the start the cycle (24 R365), its outcome once it has run, and the event queue it reports to where the holder has ended (20 R332). -/
structure Copy where
  id : Nat
  cid : Nat
  core : Nat
  group : Nat
  sup : Bool
  strand : Bool
  slot : Nat
  tag : Nat
  transpose : Bool
  src : Word
  dst : Word
  sstr : Word
  dstr : Word
  dev : Nat
  side : Nat
  ew : Nat
  cols : Nat
  rows : Nat
  left : List Nat
  walk : List (Nat × Acc)
  faults : List (Nat × Acc × Nat)
  xl : List Tlb
  chans : List Nat
  stalled : Option Nat
  due : Nat
  started : Bool
  outcome : Option (Nat × Nat)
  box : Option Nat
  deriving DecidableEq, Repr

/-- The receive log of a core (28 R407): its area in HBM, the 32-byte places used, the events logged, the core cycles since it started, and the overflow mark. -/
structure RxLog where
  on : Bool
  base : Nat
  size : Nat
  used : Nat
  ord : Nat
  cyc : Nat
  ovf : Bool
  deriving DecidableEq, Repr

/-- A core (01, 05, 10, 15, 18, 20, 28). -/
structure Core where
  running : Option Nat
  last : Nat
  satcnt : List (Nat × Nat)
  cerr : Nat
  bovf : Nat
  skew : Nat
  stop : Bool
  tiles : List (Nat × Tile)
  mq : List TileOp
  bereaved : List (Nat × Nat)
  fwd : List Fwd
  tlb : List Tlb
  pcache : List (Nat × Nat × Nat)
  seq : Seq
  copies : List Copy
  log : RxLog
  delays : List (Nat × List Nat)
  slotTimes : List (Nat × List Nat)
  replay : Option Nat
  deriving DecidableEq, Repr

def Core.blank : Core :=
  { running := none, last := 7, satcnt := [], cerr := 0, bovf := 0, skew := 0, stop := false, tiles := [], mq := [],
    bereaved := [], fwd := [], tlb := [], pcache := [], seq := ⟨.idle, 0, 0, 0⟩, copies := [],
    log := ⟨false, 0, 0, 0, 0, 0, false⟩, delays := [], slotTimes := [], replay := none }

/-- Power states (29 R413). -/
inductive Power where
  | on | gated | off
  deriving DecidableEq, Repr

/-- A cluster (08 R166, 18 R313, 29 R413). -/
structure Cluster where
  power : Power
  going : Option Power
  waitOvf : Nat
  permitStall : List (Nat × Nat)
  withyWait : List (Nat × Nat)
  tcache : List Tlb
  deriving DecidableEq, Repr

def Cluster.blank : Cluster := ⟨.on, none, 0, [], [], []⟩

/-! ## Groups and partitions -/

/-- Group states (14 R268). -/
inductive GState where
  | submitted | running | saved | exiting | retired
  deriving DecidableEq, Repr

/-- The fields of a launch header that the group keeps (14 R263). -/
structure Header where
  entry : Word
  wx : Nat
  hy : Nat
  spm : Nat
  vx : Bool
  sup : Bool
  town : Nat
  origin : Nat
  slo : Nat
  slim : Nat
  wp0 : Nat
  wpstep : Nat
  widf : Nat
  widbase : Word
  data : Word
  doff : Nat
  dlen : Nat
  arg : Word
  tvec : Word
  twp : Word
  uroot : Nat
  lg : Bool
  lroot : Nat
  wdog : Nat
  done : Word
  deriving DecidableEq, Repr

/-- A party of a dissemination barrier at the NI (19 R327 to R329): its descriptor's fields, its partners of each round (group, device, member), the episode and round it runs, its bereaved marks, and for a heirless rank the flags and epoch that the NI keeps. -/
structure Party where
  n : Nat
  rank : Nat
  scope : Nat
  table : Word
  partners : List (Nat × Nat × Nat)
  ep : Nat
  round : Nat
  active : Bool
  brv : Bool
  brvTok : Bool
  early : List Nat
  ghost : Bool
  flags : Nat
  epoch : Nat
  deriving DecidableEq, Repr

/-- A member of a group (15 R275, 16 R301, 18 R318, 19 R322): placement, the registers held per member, the fields of its rings as RBIND read them (ring, descriptor, doubleword +0: 16 R296), the rings whose holding was resolved without an heir (21 R346), and what its barriers have received (a barrier number, plus 8 for a bereaved input), and the barriers whose releases are bereaved from here on (19 R325). -/
structure Member where
  pst : Nat
  pcore : Nat
  qbase : Word
  portb : Word
  bars : List (Nat × Word)
  rings : List (Nat × Nat × Nat)
  deadRings : List Nat
  qever : Bool
  passed : List Nat
  eastIn : List Nat
  northIn : List Nat
  parties : List (Nat × Party)
  bereft : List Nat
  retired : Nat
  deriving DecidableEq, Repr

/-- A message (16 R297): destination device (0 this one, else 1 more than its number), group, member and ring, header doublewords and payload bytes, and the sending core and strand. -/
structure Msg where
  ddev : Nat
  dgrp : Nat
  dvc : Nat
  ring : Nat
  h0 : Nat
  h1 : Nat
  h2 : Nat
  h3 : Nat
  payload : List Byte
  core : Nat
  cid : Nat
  deriving DecidableEq, Repr

/-- A saved member (05 R115): the core it stood on; its part of the image as doublewords; what the image does not hold of its contexts, by slot (slot 8 stands for the copy strand); the copy commands that have run and wait for room in an event queue (20 R337); and the bytes of its clean regions, which are their launch contents (05 R117). DEDUCED, log entry 69. DEDUCED, log entry 70. -/
structure Saved where
  vcore : Nat
  core : Nat
  image : List Nat
  extra : List (Nat × Ctx)
  copies : List Copy
  clean : List Host.Cell
  deriving DecidableEq, Repr

/-- A group (14, 15), with its place in launch order and the pre-emptions commanded, the first of which is under way: 0 a save, 1 + origin a streamed move. `wdDue`: a comparison has found the watchdog's counter at WDOG (15 R283). -/
structure Group where
  handle : Nat
  seq : Nat
  pre : List Nat
  parent : Nat
  part : Nat
  state : GState
  cause : Nat
  hdr : Header
  members : List Member
  wdCount : Nat
  wdDue : Bool
  unplaced : List Msg
  images : List Saved
  overflow : List Msg
  overflowFills : List (Nat × Nat × Word)
  overflowBcasts : List (Nat × Bcast)
  lgrp : Nat
  walkKind : Nat
  fromHost : Bool
  deriving DecidableEq, Repr

/-- A learning group (12 R246): its handle, the group and root member, and the next number; each member holds the number it has retired. -/
structure LearnGroup where
  handle : Nat
  group : Nat
  root : Nat
  next : Nat
  deriving DecidableEq, Repr

/-- An entry of the estate table (21 R338); `core` is where a scratchpad object stands, so that it is found after its owning group is gone. -/
structure Holding where
  holder : Nat
  heir : Nat
  stamp : Nat
  former : Nat
  kind : Nat
  brv : Bool
  space : Nat
  loc : Nat
  core : Nat
  deriving DecidableEq, Repr

/-- Partition states (27 R388). -/
inductive PState where
  | live | closing
  deriving DecidableEq, Repr

/-- A record in a partition supervisor's queue (11 R228): cause, TVAL, TPC, and what else the record holds. -/
structure Rec where
  cause : Nat
  tval : Word
  tpc : Word
  more : List Nat
  deriving DecidableEq, Repr

/-- A partition (27 R386): key, public key, clusters, partition root, handle table, policy, state, supervisor queue, ingress streams with their ports, the host's copies of its fault details, and the presence windows recorded under G = 1, as category and window, with a marker of category 7 and the time where a policy took effect (27 R391, R392). -/
structure Part where
  key : Nat
  pub : List Byte
  clus : List Nat
  root : Nat
  handles : List (Nat × Nat)
  policy : Option (List Byte)
  state : PState
  queue : List Rec
  inbox : List Msg
  streams : List (Nat × Nat)
  faults : List (List Nat)
  windows : List (Nat × Nat)
  deriving DecidableEq, Repr

/-- A contribution (24 R372): its elements, its member, the destination, the tag, the issuing strand, whether an owner engine at another device has accepted it, and its partition and device. -/
structure Contrib where
  data : List Nat
  group : Nat
  vc : Nat
  dst : Nat
  tag : Nat
  cid : Nat
  accepted : Bool
  part : Nat
  dev : Nat
  deriving DecidableEq, Repr

/-! ## What is in flight -/

/-- Where an access is performed (09 R179). -/
inductive Loc where
  | spad (core off : Nat)
  | hbm (pa : Nat)
  deriving DecidableEq, Repr

/-- What a request does there (08 R169, R173); `walk` is a walk at the walker of its root table (08 R163, R166). -/
inductive ReqOp where
  | load
  | store (v : Nat)
  | amo (op w c new : Nat)
  | red (op w c : Nat) (nat : Bool)
  | walk
  deriving DecidableEq, Repr

/-- How far a request has come (09 R179, 08 R166); `readDone` is an atomic between its read and its write (08 R175). -/
inductive Phase where
  | issued | readDone | performed | answered | failed
  deriving DecidableEq, Repr

/-- A non-local access in flight: issuer, place, the batch whose results land together, where its value lands, the requests that must be performed before it, and its way over the weave (plane, home channel, written or not, and the cycles that it has waited for the token). `seen` is what an atomic between its read and its write expects there (08 R175), or the order in which a walk arrived; `mark` is 1 for an access that a core-scope release covers, 2 for one that a cluster-scope release covers (09 R183, R184); `slept` says that its wait for a stack in self-refresh has been counted (29 R413); `ni` one that waits at the issuing core's NI for a member that moves (15 R279); `redir` one that was sent on from a vacated core (15 R280); `back` one whose answer has been written on the weave (24 R354). -/
structure Req where
  id : Nat
  batch : Nat
  cid : Nat
  core : Nat
  group : Nat
  vc : Option Nat
  op : ReqOp
  loc : Loc
  size : Nat
  va : Word
  scope : Nat
  sx : Bool
  dst : Nat
  dsize : Nat
  after : List Nat
  sent : Bool
  waited : Nat
  plane : Nat
  chan : Nat
  tpc : Nat
  phase : Phase
  val : Nat
  seen : Nat
  mark : Nat
  slept : Bool
  ni : Bool
  redir : Bool
  back : Bool
  deriving DecidableEq, Repr

/-- Results on their way to register words (06 R121): scratchpad address, size and value of each. -/
structure Landing where
  id : Nat
  cid : Nat
  core : Nat
  writes : List (Nat × Nat × Nat)
  deriving DecidableEq, Repr

/-- What travels between agents besides requests. The device of a token is 0 for this one, else 1 more than its number. A port acknowledgement's result is 0 deposited, 1 the cell was full, 2 the target has exited, 3 its cells are not enabled. The answer of an LDD or STD is none until it has been performed; `remote` is an access by another device (operation 0 a load, 1 a store, 2 a fill). A retirement report of a member at another device numbers it from 8192. `rfree` is an RFREE on its way to a reduction's owner, or the owner's notice that it has freed the reduction. -/
inductive Cargo where
  | msg (m : Msg) (refused : Bool)
  | bounce (m : Msg) (refused : Bool)
  | dec (cid call idx group vc off issuer : Nat) (va tpc : Word)
  | pass (cid call group vc cell : Nat) (v : Word)
  | passAck (cid call group vc res : Nat)
  | barHop (group b vcore : Nat) (north : Bool) (brv : Bool)
  | barRel (group b vcore : Nat) (brv : Bool)
  | dbarTok (dev group vcore desc round ep : Nat) (brv : Bool) (part : Nat)
  | bcastReq (lg cid dst r : Nat)
  | bcastAns (cid dst : Nat) (v : Option Nat)
  | bcast (lg group vcore num r : Nat)
  | retire (lg vcore num : Nat)
  | placeUpd (group vcore core pst pcore : Nat)
  | placeAck (group vcore core : Nat)
  | migrate (core slot : Nat) (c : Ctx) (foot : List Byte) (from_ : Nat)
  | ldd (cid handle group : Nat) (sup : Bool) (va : Word) (size due : Nat) (answer : Option (Option Nat))
  | std (cid handle group : Nat) (sup : Bool) (va : Word) (size v : Nat) (fill : Bool) (due : Nat) (answer : Option Bool)
  | remote (part group op size : Nat) (va : Word) (v : Nat)
  | mcast (tree : Nat) (data : List Nat)
  | contrib (h slot : Nat) (c : Contrib)
  | rfree (h part group cid call : Nat) (answer : Option Nat)
  | hostMsg (v : List Nat)
  deriving DecidableEq, Repr

/-- An item in flight. -/
structure Flight where
  id : Nat
  cargo : Cargo
  deriving DecidableEq, Repr

/-- What waits to be written on the weave besides requests and answers: an item in flight or a copy command, by its identifier, at a writer for a plane's home channel, with the cycles of 32 bytes that it still takes (24 R354). -/
structure Hop where
  id : Nat
  writer : Nat
  plane : Nat
  chan : Nat
  beats : Nat
  deriving DecidableEq, Repr

/-! ## Links and pipelines -/

/-- Wavelength states (24 R360). -/
inductive Wl where
  | parked | waking | lit | retraining | failed
  deriving DecidableEq, Repr

/-- A flit (24 R356): TYPE (0 data, 1 acknowledgement, 2 negative acknowledgement, 3 width control), SEQ and the eight doublewords of its payload. -/
structure Flit where
  kind : Nat
  seq : Nat
  body : List Nat
  deriving DecidableEq, Repr

/-- A flit on the fibre: the mask it travels on, its wavelengths rising, and its nine beats (24 R356, R357). -/
structure Wire where
  mask : List Nat
  beats : List Nat
  deriving DecidableEq, Repr

/-- A link, that is, a fibre with a hank out and a hank in (24 R356 to R361). Wavelengths 0 to 7 are the outbound ones, 8 to 15 the inbound ones; `wl` lists those not PARKED. The mask of the outbound hank is its wavelengths in LIT, `maskIn` the one that the other end has told of the inbound hank. `errs` and `beats` count the errors and the beats of a wavelength's window. `replay` holds the data flits sent and not acknowledged, `ctl` and `waiting` the other flits and the data flits that wait for the hank or for room, `out` what the outbound hank has carried. -/
structure Link where
  wl : List (Nat × Wl)
  errs : List (Nat × Nat)
  beats : List (Nat × Nat)
  rcnt : Nat
  flitsOut : Nat
  flitsIn : Nat
  seqOut : Nat
  seqIn : Nat
  replay : List Flit
  ctl : List Flit
  waiting : List (List Nat)
  out : List Wire
  maskIn : List Nat
  deriving DecidableEq, Repr

def Link.blank : Link := ⟨[], [], [], 0, 0, 0, 0, 0, [], [], [], [], []⟩

/-- Reduction states (24 R373). -/
inductive RState where
  | opened | done | abandoned
  deriving DecidableEq, Repr

/-- An in-network reduction (24 R370): descriptor, slots as group, device and member, the contributions by slot, and the cycles its timer has run. -/
structure Reduction where
  handle : Nat
  part : Nat
  group : Nat
  desc : List Nat
  state : RState
  merged : List (Nat × Contrib)
  slots : List (Nat × Nat × Nat)
  brv : Bool
  ran : Nat
  deriving DecidableEq, Repr

/-- A stage of a pipeline (25 R374 to R380): its record as eight doublewords, the attach list where this pipeline holds it (empty for a standby), the number of the next item its relay outputs, the successors that already have that item, whether the stage has ended, and what a former holder has left: input that waits for the stage's ring, and output that waits to be sent on, oldest first. -/
structure Stage where
  rec_ : List Nat
  attached : List Nat
  nextOut : Nat
  sent : List (Nat × Nat × Nat)
  ended : Bool
  inWait : List Msg
  outWait : List Msg
  deriving DecidableEq, Repr

/-- A pipeline (25 R374 to R382): its place in attach order, its source and sink, its stages, the number of the source's next item, the item that some first stages still lack with the rings that have it, the join number, and the items delivered and repeated. -/
structure Pipeline where
  handle : Nat
  seq : Nat
  part : Nat
  group : Nat
  srck : Nat
  srcid : Nat
  sring : Nat
  svc : Nat
  stages : List Stage
  srcNext : Nat
  srcWait : Option (List Byte × List (Nat × Nat × Nat))
  join : Nat
  delivered : Nat
  repeated : Nat
  deriving DecidableEq, Repr

/-- A power grant (29 R414). -/
structure Grant where
  id : Nat
  part : Nat
  links : List Nat
  expiry : Nat
  deriving DecidableEq, Repr

/-- An issue recorder of a die (28 R405, R406): `cfg` holds the cluster and DELAY; `fresh` says that it was armed in this step, whose cycle it does not record; `open_` is the block of cycles that is under way where the policy lets only counts be written, with the issues of each core (27 R391). -/
structure Recorder where
  armed : Bool
  fresh : Bool
  triggered : Bool
  frozen : Bool
  cfg : List Nat
  rows : List (List Nat)
  left : Nat
  open_ : Option (Nat × List Nat)
  deriving DecidableEq, Repr

def Recorder.blank : Recorder := ⟨false, false, false, false, [0, 0], [], 0, none⟩

/-- Boot states (29 R418). -/
inductive Boot where
  | waiting | up
  deriving DecidableEq, Repr

/-- The machine; `evqs` keeps the EVQ register of a holder that has ended for the commands that still report to it (20 R332), `invals` the accesses that each INVALIDATE under way waits for, with its port (08 R164, 29 R412), `slept` what in flight has had its wait for a stack counted (29 R413), `cycles` the cycles since reset, which timeouts and comparisons count in (15 R283, 24 R365). DESIGN CHOICE, log entry 15. -/
structure State where
  spad : List Host.Cell
  hbm : List Host.Cell
  tags : List Nat
  dirty : List Nat
  badSpad : List Nat
  badHbm : List Nat
  softSpad : List Nat
  softHbm : List Nat
  ctxs : List (Nat × Ctx)
  cores : List (Nat × Core)
  clusters : List (Nat × Cluster)
  groups : List (Nat × Group)
  parts : List (Nat × Part)
  learn : List (Nat × LearnGroup)
  estate : List (Nat × Holding)
  walkQueue : List Nat
  reqs : List Req
  landings : List Landing
  flights : List Flight
  hops : List Hop
  slept : List Nat
  links : List (Nat × Link)
  errt : Nat
  routing : List (Nat × Nat)
  mtrees : List (Nat × Nat)
  reductions : List (Nat × Reduction)
  pipelines : List (Nat × Pipeline)
  planes : List (Nat × Bool)
  darkening : List Nat
  withy : List (Nat × Nat)
  hbmStacks : List (Nat × Bool)
  stackGoing : List (Nat × Bool)
  ports : List (Nat × Bool)
  portGoing : List (Nat × Bool)
  planeGoing : List Nat
  portDrops : List (Nat × Nat)
  grants : List Grant
  recorders : List (Nat × Recorder)
  evqs : List (Nat × Word)
  invals : List (Nat × List Nat)
  blackBox : List (Nat × List Nat)
  bbSeq : Nat
  bbFrozen : Bool
  boot : Boot
  fwDigest : BitVec 256
  sigsLeft : Nat
  powered : Bool
  superRoot : Nat
  time : Nat
  timeAdj : Int
  cycles : Nat
  hostOut : List (List Nat)
  devNum : Nat
  -- the model's own fields: the focus, the environment's agenda, the schedule and the counters
  cur : Nat
  agenda : List Instr
  turn : Nat
  engine : Bool
  rot : Nat
  uid : Nat
  steps : Nat
  deriving DecidableEq, Repr

/-- The machine right after reset (29 R418): the boot ROM waits for an image, no partition, group or context exists, plane 0 is lit, every wavelength is parked. Registers without a reset value hold 0 (log entries 1, 3, 5). -/
def State.reset : State :=
  { spad := [], hbm := [], tags := [], dirty := [], badSpad := [], badHbm := [], softSpad := [], softHbm := [], ctxs := [],
    cores := [], clusters := [], groups := [], parts := [], learn := [], estate := [], walkQueue := [], reqs := [],
    landings := [], flights := [], hops := [], slept := [], links := [], errt := 16, routing := [], mtrees := [], reductions := [],
    pipelines := [], planes := [(0, true)], darkening := [], withy := [], hbmStacks := [], stackGoing := [], ports := [],
    portGoing := [], planeGoing := [], portDrops := [], grants := [], recorders := [], evqs := [], invals := [], blackBox := [], bbSeq := 0,
    bbFrozen := false, boot := .waiting, fwDigest := 0, sigsLeft := 1048576, powered := true, superRoot := 0,
    time := 0, timeAdj := 0, cycles := 0, hostOut := [], devNum := 0, cur := 0, agenda := [], turn := 0, engine := false, rot := 0,
    uid := 0, steps := 0 }

end Sys2Proof.Machine
end

