-- ==== Sys2Proof/Machine/Mem.lean ====
section
/-! DEFINITION. Sparse data, the two memories with tags, dirty bits and error marks, and the focus on one context (01 R10, 05 R93, R97, R115). -/

namespace Sys2Proof.Machine

/-- The outcome of a step. -/
abbrev Out := Host.Outcome State Fault Refusal

/-! ## Sparse data -/

/-- The value stored at a key. -/
def mget {α : Type} : Map α → Nat → Option α
  | [], _ => none
  | (k, v) :: r, i => if k = i then some v else mget r i

/-- The value stored at a key, or a default. -/
def mgetD {α : Type} (m : Map α) (i : Nat) (d : α) : α := (mget m i).getD d

/-- Store a value at a key; keys stay strictly rising. -/
def mput {α : Type} : Map α → Nat → α → Map α
  | [], i, x => [(i, x)]
  | (k, v) :: r, i, x =>
    if i < k then (i, x) :: (k, v) :: r
    else if i = k then (i, x) :: r
    else (k, v) :: mput r i x

/-- Remove a key. -/
def mdel {α : Type} : Map α → Nat → Map α
  | [], _ => []
  | (k, v) :: r, i => if k = i then mdel r i else (k, v) :: mdel r i

/-- A set of numbers, strictly rising. -/
def nins : List Nat → Nat → List Nat
  | [], i => [i]
  | k :: r, i => if i < k then i :: k :: r else if i = k then k :: r else k :: nins r i

def ndel : List Nat → Nat → List Nat
  | [], _ => []
  | k :: r, i => if k = i then ndel r i else k :: ndel r i

def nmem : List Nat → Nat → Bool
  | [], _ => false
  | k :: r, i => if k = i then true else nmem r i

/-- The first element that satisfies a test. -/
def pick {α : Type} (p : α → Bool) : List α → Option α
  | [] => none
  | x :: r => if p x then some x else pick p r

/-- The numbers below `n`, rising. -/
def upTo (n : Nat) : List Nat := List.range n

/-! ## Bytes of memory. An unlisted byte reads 0 (log entry 1). -/

/-- The byte at an address. DESIGN CHOICE, log entry 1. -/
def byteAt (m : List Host.Cell) (a : Nat) : Byte := mgetD m a 0

/-- Memory with one byte written, in canonical form. -/
def putByte (m : List Host.Cell) (a : Nat) (v : Byte) : List Host.Cell :=
  if v = 0 then mdel m a else mput m a v

/-- `n` bytes from an address, little-endian (00 R1). -/
def readN (m : List Host.Cell) (a : Nat) : Nat → Nat
  | 0 => 0
  | n + 1 => (byteAt m a).toNat + 256 * readN m (a + 1) n

/-- Write the low `n` bytes of a number, little-endian (00 R1). -/
def writeN (m : List Host.Cell) (a : Nat) : Nat → Nat → List Host.Cell
  | 0, _ => m
  | n + 1, v => writeN (putByte m a (BitVec.ofNat 8 v)) (a + 1) n (v / 256)

/-- Write a list of bytes from an address. -/
def writeBytes (m : List Host.Cell) (a : Nat) : List Byte → List Host.Cell
  | [] => m
  | b :: r => writeBytes (putByte m a b) (a + 1) r

/-- Read a list of bytes. -/
def readBytes (m : List Host.Cell) (a : Nat) : Nat → List Byte
  | 0 => []
  | n + 1 => byteAt m a :: readBytes m (a + 1) n

/-- Canonical form: addresses strictly rising, above `lo`, no listed byte equal to what an unlisted one reads as. -/
def Memory.wfFrom (lo : Nat) : List Host.Cell → Bool
  | [] => true
  | (a, v) :: r => decide (lo ≤ a) && decide (v ≠ 0) && Memory.wfFrom (a + 1) r

/-- The canonical form of a memory. -/
def Memory.wf (m : List Host.Cell) : Bool := Memory.wfFrom 0 m

/-! ## Scratchpad -/

/-- Key of a scratchpad byte. -/
def spadKey (core off : Nat) : Nat := core * 131072 + off

/-- Key of a scratchpad word. -/
def wordKey (core off : Nat) : Nat := core * 16384 + off / 8

/-- Key of a 512-byte region (05 R115). -/
def regionKey (core off : Nat) : Nat := core * 256 + off / 512

/-- `n` scratchpad bytes of a core. -/
def State.rdS (s : State) (core off n : Nat) : Nat := readN s.spad (spadKey core off) n

/-- Regions that `n` bytes from an offset touch, added to a set. -/
def dirtyAdd (d : List Nat) (core off n : Nat) : List Nat :=
  (upTo ((off + n - 1) / 512 - off / 512 + 1)).foldl (fun d i => nins d (core * 256 + off / 512 + i)) d

/-- Write `n` scratchpad bytes: the dirty bits are set, the tags stay (05 R115, 08 R170). -/
def State.wrS (s : State) (core off n v : Nat) : State :=
  { s with spad := writeN s.spad (spadKey core off) n v, dirty := dirtyAdd s.dirty core off n }

/-- Write bytes to the scratchpad. -/
def State.wrBytesS (s : State) (core off : Nat) (bs : List Byte) : State :=
  if bs.isEmpty then s
  else { s with spad := writeBytes s.spad (spadKey core off) bs, dirty := dirtyAdd s.dirty core off bs.length }

/-- Whether the word's tag is full. -/
def State.full (s : State) (core off : Nat) : Bool := nmem s.tags (wordKey core off)

/-- Set the word's tag. -/
def State.setTag (s : State) (core off : Nat) (f : Bool) : State :=
  { s with tags := if f then nins s.tags (wordKey core off) else ndel s.tags (wordKey core off) }

/-- The first word with an uncorrectable error among those `n` bytes touch, as an offset (01 R10). DESIGN CHOICE, log entry 12. -/
def State.badS (s : State) (core off n : Nat) : Option Nat :=
  (pick (fun i => nmem s.badSpad (core * 16384 + off / 8 + i)) (upTo ((off + n - 1) / 8 - off / 8 + 1))).map
    (fun i => (off / 8 + i) * 8)

/-- Words with a correctable error among those `n` bytes touch (11 R229). -/
def State.softS (s : State) (core off n : Nat) : Nat :=
  ((upTo ((off + n - 1) / 8 - off / 8 + 1)).filter (fun i => nmem s.softSpad (core * 16384 + off / 8 + i))).length

/-! ## HBM -/

def State.rdH (s : State) (pa n : Nat) : Nat := readN s.hbm pa n

def State.wrH (s : State) (pa n v : Nat) : State := { s with hbm := writeN s.hbm pa n v }

/-- The first doubleword of HBM with an uncorrectable error among those `n` bytes touch. -/
def State.badH (s : State) (pa n : Nat) : Option Nat :=
  (pick (fun i => nmem s.badHbm (pa / 8 + i)) (upTo ((pa + n - 1) / 8 - pa / 8 + 1))).map (fun i => (pa / 8 + i) * 8)

/-- Doublewords of HBM with a correctable error among those `n` bytes touch (11 R229). -/
def State.softH (s : State) (pa n : Nat) : Nat :=
  ((upTo ((pa + n - 1) / 8 - pa / 8 + 1)).filter (fun i => nmem s.softHbm (pa / 8 + i))).length

/-! ## Contexts, cores, clusters, groups -/

/-- Number of contexts with a slot; beyond it stand the copy strands, one per core (20 R331). -/
def copyBase : Nat := 49152

/-- Core of a context. -/
def coreOfCid (cid : Nat) : Nat := if cid < copyBase then cid / 8 else cid - copyBase

/-- Slot of a context. -/
def slotOfCid (cid : Nat) : Nat := cid % 8

/-- Whether the context is a copy strand. -/
def isCopy (cid : Nat) : Bool := decide (copyBase ≤ cid)

def State.ctx (s : State) (cid : Nat) : Ctx := mgetD s.ctxs cid Ctx.blank

def State.setCtx (s : State) (cid : Nat) (c : Ctx) : State := { s with ctxs := mput s.ctxs cid c }

/-- Change a context that exists. -/
def State.updCtx (s : State) (cid : Nat) (f : Ctx → Ctx) : State :=
  match mget s.ctxs cid with
  | some c => s.setCtx cid (f c)
  | none => s

/-- The name of no context: what an ended strand leaves in flight bears it. -/
def noCid : Nat := 2 ^ 32

/-- The context that exec acts for. -/
def State.cx (s : State) : Ctx := s.ctx s.cur

def State.setCx (s : State) (c : Ctx) : State := s.setCtx s.cur c

/-- The core that exec acts on. -/
def State.here (s : State) : Nat := coreOfCid s.cur

def State.core (s : State) (n : Nat) : Core := mgetD s.cores n Core.blank

def State.setCore (s : State) (n : Nat) (c : Core) : State := { s with cores := mput s.cores n c }

/-- Cluster of a core (01 R9). -/
def clusterOf (core : Nat) : Nat := core / 96 / 4 * 24 + core % 96 / 4

/-- Die of a core (01 R9). -/
def dieOf (core : Nat) : Nat := core % 96 / 48 + 2 * (core / 96 / 32)

def State.cluster (s : State) (n : Nat) : Cluster := mgetD s.clusters n Cluster.blank

def State.setCluster (s : State) (n : Nat) (c : Cluster) : State := { s with clusters := mput s.clusters n c }

/-- A control register; one that was never written reads 0. DESIGN CHOICE, log entry 2. -/
def Ctx.get (c : Ctx) (n : Nat) : Word := mgetD c.cr n 0

def Ctx.set (c : Ctx) (n : Nat) (v : Word) : Ctx :=
  { c with cr := if v = 0 then mdel c.cr n else mput c.cr n v }

/-- A field of a control register. -/
def Ctx.fld (c : Ctx) (n lo w : Nat) : Nat := bitsOf (c.get n).toNat lo w

/-- A control register with one field replaced. -/
def Ctx.setFld (c : Ctx) (n lo w v : Nat) : Ctx := c.set n (toWord (setBits (c.get n).toNat lo w v))

/-! Fields of ST (05 R101) -/
def Ctx.sup (c : Ctx) : Bool := c.fld 0x000 2 1 == 1
def Ctx.vx (c : Ctx) : Bool := c.fld 0x000 3 1 == 1
def Ctx.bte (c : Ctx) : Bool := c.fld 0x000 5 1 == 1
def Ctx.rm (c : Ctx) : Rm := rmOf (c.fld 0x000 0 2)
def Ctx.depth (c : Ctx) : Nat := c.fld 0x000 12 4

/-- Group handle and member of a context (05 R102). -/
def Ctx.group (c : Ctx) : Nat := (c.get 0x012).toNat
def Ctx.vcore (c : Ctx) : Nat := (c.get 0x010).toNat

/-- The group that a handle names, none if the handle is stale (14 R268). -/
def State.grp (s : State) (h : Nat) : Option Group :=
  match mget s.groups (h % 4096) with
  | some g => if g.handle = h then some g else none
  | none => none

def State.setGrp (s : State) (g : Group) : State := { s with groups := mput s.groups (g.handle % 4096) g }

/-- A member of no group: exited. -/
def Member.blank : Member := ⟨3, 0, 0, 0, [], [], [], false, [], [], [], [], [], 0⟩

def State.member (s : State) (h v : Nat) : Member :=
  match s.grp h with
  | some g => g.members.getD v Member.blank
  | none => Member.blank

/-- A list with one element changed. -/
def modAt {α : Type} (f : α → α) : List α → Nat → List α
  | [], _ => []
  | x :: r, 0 => f x :: r
  | x :: r, n + 1 => x :: modAt f r n

def State.updMember (s : State) (h v : Nat) (f : Member → Member) : State :=
  match s.grp h with
  | some g => s.setGrp { g with members := modAt f g.members v }
  | none => s

/-- The member on which the context stands. -/
def State.mem (s : State) : Member := s.member s.cx.group s.cx.vcore

def State.updMem (s : State) (f : Member → Member) : State := s.updMember s.cx.group s.cx.vcore f

/-- Contexts of a core. -/
def State.cidsOn (s : State) (core : Nat) : List Nat :=
  (upTo 8).filterMap (fun i => if (mget s.ctxs (core * 8 + i)).isSome then some (core * 8 + i) else none)

/-- Every context key in use. -/
def State.cids (s : State) : List Nat := s.ctxs.map (fun p => p.1)

/-- Contexts of a group. -/
def State.groupCids (s : State) (h : Nat) : List Nat :=
  (s.ctxs.filter (fun p => p.2.group = h)).map (fun p => p.1)

/-! ## Registers of the focus (05 R93, R97, R118) -/

/-- Offset of a scalar register. -/
def Ctx.wOff (c : Ctx) (i : Nat) : Nat := c.wp + 8 * i

/-- Offset of a vector register. -/
def Ctx.vOff (c : Ctx) (i : Nat) : Nat := c.wp + 128 + 64 * i

/-- Offset of a mask register. -/
def Ctx.kOff (c : Ctx) (i : Nat) : Nat := c.wp + 2176 + 2 * i

/-- A scalar register. -/
def State.w (s : State) (i : BitVec 4) : Word := toWord (s.rdS s.here (s.cx.wOff i.toNat) 8)

/-- Write a scalar register: one 8-byte store that leaves the tag and sets the dirty bit (06 R118). -/
def State.setW (s : State) (i : BitVec 4) (v : Word) : State := s.wrS s.here (s.cx.wOff i.toNat) 8 v.toNat

/-- The next identifier of an item in flight. -/
def State.fresh (s : State) : State := { s with uid := s.uid + 1 }

/-- Whether a plane is lit (01 R12, 24 R355). -/
def State.lit (s : State) (p : Nat) : Bool := mgetD s.planes p (p == 0)

/-- Plane of a cluster's way to a home channel (08 R167). -/
def State.planeOf (s : State) (cl chan : Nat) : Nat :=
  if (upTo 4).all (fun p => s.lit p && !s.darkening.contains p) then (cl + (if chan < 384 then chan else chan - 384)) % 4 else 0

/-- The placement entry a core uses for a member: its cached copy, or the home's (15 R276). -/
def State.placeOf (s : State) (core h v : Nat) : Nat × Nat :=
  match pick (fun x => x.1 == h * 8192 + v) (s.core core).pcache with
  | some x => x.2
  | none =>
    let m := s.member h v
    (m.pst, m.pcore)

/-- Keep the copy that was used (15 R276). -/
def State.placeFill (s : State) (core h v : Nat) : State :=
  let k := s.core core
  if (k.pcache.map (fun x => x.1)).contains (h * 8192 + v) then s
  else
    let m := s.member h v
    s.setCore core { k with pcache := ((h * 8192 + v, m.pst, m.pcore) :: k.pcache).take 64 }

/-- The core of the root of a learning group of this device. -/
def State.rootCore (s : State) (lg : Nat) : Option Nat :=
  (mget s.learn (lg % 4096)).bind (fun l => if l.handle = lg then some (s.member l.group l.root).pcore else none)

/-- The core that an item in flight leaves, where it says so. -/
def State.originOf (s : State) (c : Cargo) : Option Nat :=
  match c with
  | .msg m _ => some m.core
  | .dec cid _ _ _ _ _ _ _ _ => some (coreOfCid cid)
  | .bcastReq _ cid _ _ => some (coreOfCid cid)
  | .bcast lg _ _ _ _ => s.rootCore lg
  | .retire lg v _ => (mget s.learn (lg % 4096)).map (fun l => (s.member l.group v).pcore)
  | .placeUpd g _ _ _ _ => some (s.member g 0).pcore
  | .placeAck _ _ core => some core
  | .migrate _ _ _ _ from_ => some from_
  | _ => none

/-- The core of this device that an item in flight goes to; what is addressed by VCORE is resolved against the copy of the core that it leaves (15 R276). -/
def State.destOf (s : State) (c : Cargo) : Option Nat :=
  match c with
  | .msg m _ => if m.ddev = 0 then some (s.placeOf m.core m.dgrp m.dvc).2 else none
  | .bounce m _ => if m.ddev = 0 then some (s.member m.dgrp m.dvc).pcore else none
  | .dec cid _ _ g vc _ _ _ _ => some (s.placeOf (coreOfCid cid) g vc).2
  | .dbarTok dev g v _ _ _ _ _ => if dev = 0 then some (s.member g v).pcore else none
  | .bcastReq lg _ _ _ => s.rootCore lg
  | .bcastAns cid _ _ => some (coreOfCid cid)
  | .bcast _ g vc _ _ => some (s.member g vc).pcore
  | .retire lg _ _ => s.rootCore lg
  | .placeUpd _ _ core _ _ => some core
  | .placeAck g _ _ => some (s.member g 0).pcore
  | .migrate core _ _ _ _ => some core
  | _ => none

/-- The cycles of 32 bytes that an item takes on a channel (24 R354). DEDUCED, log entry 29. -/
def Cargo.beats (c : Cargo) : Nat :=
  match c with
  | .msg m _ | .bounce m _ => (32 + m.payload.length + 31) / 32
  | .migrate _ _ _ foot _ => (foot.length + 31) / 32 + 1
  | _ => 1

/-- The hop of an item that leaves a core for another cluster's, over the weave (24 R354). DEDUCED, log entry 29. -/
def State.hopFrom (s : State) (core : Option Nat) (id : Nat) (c : Cargo) : List Hop :=
  match core, s.destOf c with
  | some a, some b =>
    if clusterOf a = clusterOf b ∨ 6144 ≤ a ∨ 6144 ≤ b then []
    else [⟨id, clusterOf a, s.planeOf (clusterOf a) (clusterOf b), clusterOf b, c.beats⟩]
  | _, _ => []

/-- Put an item in flight from a core; one that leaves its cluster waits to be written on the weave. -/
def State.flyFrom (s : State) (core : Option Nat) (c : Cargo) : State :=
  { s with flights := s.flights ++ [⟨s.uid, c⟩], hops := s.hops ++ s.hopFrom core s.uid c, uid := s.uid + 1 }

/-- Put an item in flight that says where it sets out. -/
def State.fly (s : State) (c : Cargo) : State := s.flyFrom (s.originOf c) c

/-- Whether something still waits to be written on the weave. -/
def State.hopping (s : State) (id : Nat) : Bool := s.hops.any (fun h => h.id == id)

/-- The item in flight with an identifier that may arrive: none while it waits to be written on the weave (24 R354). -/
def State.flight (s : State) (id : Nat) : Option Cargo :=
  if s.hopping id then none else (pick (fun f => f.id == id) s.flights).map (fun f => f.cargo)

/-- Take an item out of flight. -/
def State.land (s : State) (id : Nat) : State :=
  { s with flights := s.flights.filter (fun f => f.id != id), slept := s.slept.filter (fun x => x != id) }

/-- Put another cargo in an item's place. -/
def State.refly (s : State) (id : Nat) (c : Cargo) : State :=
  { s with flights := s.flights.map (fun f => if f.id = id then ⟨id, c⟩ else f) }

/-- An item goes on, or back, from the core where it has come. -/
def State.reflyFrom (s : State) (core id : Nat) (c : Cargo) : State :=
  let t := s.refly id c
  { t with hops := t.hops ++ t.hopFrom (some core) id c }

/-- Whether a request's operation writes memory. -/
def ReqOp.writes : ReqOp → Bool
  | .load | .walk => false
  | _ => true

/-- Words with a corrected error among the bytes of a place (11 R229). -/
def State.softAt (s : State) (l : Loc) (n : Nat) : Nat :=
  match l with
  | .spad core off => s.softS core off n
  | .hbm pa => s.softH pa n

/-- Add corrected errors to a core's counter (11 R229). -/
def State.addCerrOn (s : State) (core n : Nat) : State :=
  if n = 0 then s
  else
    let k := s.core core
    s.setCore core { k with cerr := min (k.cerr + n) 0xFFFFFFFF }

/-- A read of `n` bytes at a place by a core has met their corrected errors: they count at the core whose scratchpad holds the bytes, those of HBM at the core that reads (11 R229). -/
def State.softRead (s : State) (core : Nat) (l : Loc) (n : Nat) : State :=
  s.addCerrOn (match l with
    | .spad c _ => c
    | .hbm _ => core) (s.softAt l n)

/-- The NI reads bytes of a core's scratchpad, and meets their corrected errors (11 R229). -/
def State.niRead (s : State) (core off n : Nat) : State := s.softRead core (.spad core off) n

/-- Add `n` to the counters whose EVn selects a code, while the window is open (28 R397). -/
def Ctx.count (c : Ctx) (code n : Nat) : Ctx :=
  if c.fld 0x021 63 1 = 0 then c
  else (upTo 4).foldl (fun c i =>
    if c.fld 0x021 (8 * i) 8 = code then c.set (0x024 + i) (c.get (0x024 + i) + toWord n) else c) c

/-- An event that completes by itself: it is counted now where the context is RUNNING, else at its next selection (28 R397). -/
def Ctx.countLater (c : Ctx) (code n : Nat) : Ctx :=
  if c.state = .running then c.count code n else { c with owed := c.owed ++ [(code, n)] }

end Sys2Proof.Machine
end

