-- ==== Sys2Proof/Machine/Xlate.lean ====
section
/-! DEFINITION. Addresses: the ranges (08 R154 to R156), page tables and translation caches (08 R158 to R165). -/

namespace Sys2Proof.Machine

/-! Causes (11 R228) -/
def xIllegalLine : Nat := 0x01
def xIllegalOp : Nat := 0x02
def xPrivilege : Nat := 0x03
def xOperand : Nat := 0x04
def xNoVector : Nat := 0x05
def xMisalign : Nat := 0x06
def xPage : Nat := 0x07
def xAccess : Nat := 0x08
def xBadReturn : Nat := 0x09
def xBreak : Nat := 0x0A
def xWatch : Nat := 0x0B
def xEcc : Nat := 0x0C
def xHalt : Nat := 0x0D
def xEntry : Nat := 0x0E
def xImage : Nat := 0x0F
def xDoubleFill : Nat := 0x10
def xCounterUnderflow : Nat := 0x11
def xQueueFrozen : Nat := 0x12
def xHeirless : Nat := 0x13
def xBereaved : Nat := 0x14
def xStalePlace : Nat := 0x15
def xSatLimit : Nat := 0x18
def xTraceRange : Nat := 0x19
def xContainment : Nat := 0x20
def xUndelivered : Nat := 0x21
def xLinkTimeout : Nat := 0x22
def xRemote : Nat := 0x23
def xWatchdog : Nat := 0x31

/-! ## Ranges -/

/-- The range an address falls in (08 R154, R155). -/
inductive Rng where
  | loc (off : Nat)
  | hole
  | user
  | win (vc off : Nat)
  | sup
  deriving DecidableEq, Repr

def rngOf (a : Nat) : Rng :=
  if a < 0x20000 then .loc a
  else if a < 0x000100000000 then .hole
  else if a < 0x400000000000 then .user
  else if a < 0x400040000000 then .win ((a - 0x400000000000) / 131072) (a % 131072)
  else if a < 0x800000000000 then .hole
  else if a < 0x1000000000000 then .sup
  else .hole

/-- Whether `n` bytes from an address lie within one range, and in the group window within one member (08 R156). -/
def oneRange (a n : Nat) : Bool :=
  match rngOf a, rngOf (a + n - 1) with
  | .loc _, .loc _ => true
  | .user, .user => true
  | .win v _, .win v' _ => v == v'
  | .sup, .sup => true
  | _, _ => false

/-- Members of a group (08 R155). -/
def State.nMembers (s : State) (h : Nat) : Nat :=
  match s.grp h with
  | some g => g.members.length
  | none => 0

/-! ## Page tables -/

/-- Outcome of a walk (08 R160): physical address of the page, its size, the leaf's permission bits [5:2], its D bit and its address. -/
inductive Walk where
  | ok (pa size perm : Nat) (dirty : Bool) (leaf : Nat)
  | fault (cause : Nat)
  deriving DecidableEq, Repr

/-- Permission of a leaf (08 R160): bit 0 R, 1 W, 2 X, 3 U. -/
def permOk (perm : Nat) (acc : Acc) (sup : Bool) : Bool :=
  (sup || bitAt perm 3) &&
    (match acc with
     | .load => bitAt perm 0
     | .store => bitAt perm 1
     | .atomic => bitAt perm 0 && bitAt perm 1
     | .fetch => bitAt perm 2)

/-- A valid leaf at a level: page size, or none where the level or SZ64 or the alignment forbids it (08 R158, R160). -/
def leafSize (level e : Nat) : Option Nat :=
  let pa := bitsOf e 12 28 * 4096
  let sz := bitAt e 8
  let n := match level with
    | 3 => some 0x40000000
    | 2 => some 0x200000
    | 1 => if sz then some 0x10000 else some 0x1000
    | _ => none
  match n with
  | some n =>
    if sz ∧ level ≠ 1 then none
    else if pa % n ≠ 0 then none
    else if Config.hbmBytes < pa + n then none
    else some n
  | none => none

/-- Walk the levels left from a table (08 R158, R160). -/
def walkFrom (s : State) (va : Nat) (acc : Acc) (sup : Bool) : Nat → Nat → Walk
  | 0, _ => .fault xPage
  | level + 1, table =>
    let idx := bitsOf va (12 + 9 * level) 9
    let pe := table + 8 * idx
    let e := s.rdH pe 8
    if (s.badH pe 8).isSome then .fault xEcc
    else if ¬ bitAt e 0 then .fault xPage
    else if bitsOf e 40 24 ≠ 0 ∨ bitsOf e 9 3 ≠ 0 then .fault xPage
    else if bitAt e 1 then
      match leafSize (level + 1) e with
      | none => .fault xPage
      | some n =>
        if permOk (bitsOf e 2 4) acc sup then .ok (bitsOf e 12 28 * 4096) n (bitsOf e 2 4) (bitAt e 7) pe
        else .fault xAccess
    else if bitsOf e 2 7 ≠ 0 then .fault xPage
    else if level = 0 then .fault xPage
    else if Config.hbmBytes ≤ bitsOf e 12 28 * 4096 then .fault xPage
    else walkFrom s va acc sup level (bitsOf e 12 28 * 4096)

/-- The table entries that a walk of the levels left would read (08 R158). -/
def pathFrom (s : State) (va : Nat) : Nat → Nat → List Nat
  | 0, _ => []
  | level + 1, table =>
    let pe := table + 8 * bitsOf va (12 + 9 * level) 9
    let e := s.rdH pe 8
    pe :: (if (s.badH pe 8).isSome ∨ ¬ bitAt e 0 ∨ bitAt e 1 ∨ Config.hbmBytes ≤ bitsOf e 12 28 * 4096 then []
           else pathFrom s va level (bitsOf e 12 28 * 4096))

/-- Root table of an address for a group (08 R158). -/
def State.rootOf (s : State) (h va : Nat) : Nat :=
  if bitAt va 47 then s.superRoot
  else match s.grp h with
    | some g => g.hdr.uroot
    | none => 0

/-- The whole walk of an address (08 R158 to R160). -/
def State.walk (s : State) (h va : Nat) (acc : Acc) (sup : Bool) : Walk :=
  walkFrom s va acc sup 4 (s.rootOf h va)

/-- The walker's AMO.OR of A, and of D for a write, at the leaf (08 R159). -/
def State.setAD (s : State) (leaf : Nat) (acc : Acc) : State :=
  let d := match acc with
    | .store | .atomic => 0xC0
    | _ => 0x40
  s.wrH leaf 1 (Nat.lor (s.rdH leaf 1) d)

/-! ## Translation caches -/

def tlbHit (h va : Nat) (t : Tlb) : Bool := t.group == h && decide (t.va ≤ va ∧ va < t.va + t.size)

/-- The translation a core has at hand, its own or its cluster's (08 R163). -/
def State.tlbFind (s : State) (core h va : Nat) : Option Tlb :=
  match pick (tlbHit h va) (s.core core).tlb with
  | some t => some t
  | none => pick (tlbHit h va) (s.cluster (clusterOf core)).tcache

/-- Whether two cached translations are of one page of one group. -/
def Tlb.same (a b : Tlb) : Bool := a.group == b.group && a.va == b.va && a.size == b.size

/-- A core's TLB with a translation as its most recent; of more than 64 the least recently used leaves (08 R163). DEDUCED, log entry 56. -/
def tlbPut (l : List Tlb) (t : Tlb) : List Tlb := (t :: l.filter (fun x => !x.same t)).take 64

/-- Set of a cluster's translation cache (08 R163). -/
def Tlb.set (t : Tlb) : Nat := Config.cacheSet t.group t.va t.size % 256

/-- A cluster's translation cache of 256 sets of 8 ways with one more translation; the spec names no way to replace, so a full set loses one that `choice` picks (08 R163). DESIGN CHOICE, log entry 104. -/
def tcachePut (choice : Nat) (l : List Tlb) (t : Tlb) : List Tlb :=
  let l := l.filter (fun x => !x.same t)
  let ways := l.filter (fun x => x.set == t.set)
  if ways.length < 8 then t :: l
  else
    match ways[choice % 8]? with
    | some v => t :: l.filter (fun x => !x.same v)
    | none => t :: l

/-- Outcome of a translation (08 R163 to R165). -/
inductive Xl where
  | hit (pa : Nat)
  | fault (cause : Nat)
  | miss
  deriving DecidableEq, Repr

def isWrite : Acc → Bool
  | .store | .atomic => true
  | _ => false

/-- Translate by the caches: a translation at hand is used as it is until it leaves them (08 R164, R165). -/
def State.xlate (s : State) (core h va : Nat) (acc : Acc) (sup : Bool) : Xl :=
  match s.tlbFind core h va with
  | none => .miss
  | some t => if permOk t.perm acc sup then .hit (t.pa + (va - t.va)) else .fault xAccess

/-- What a walk found goes into a core's TLB and its cluster's cache (08 R163). -/
def State.tlbFill (s : State) (core : Nat) (t : Tlb) : State :=
  let k := s.core core
  let s := s.setCore core { k with tlb := tlbPut k.tlb t }
  let c := s.cluster (clusterOf core)
  { s.setCluster (clusterOf core) { c with tcache := tcachePut (Config.freeChoice s.uid) c.tcache t } with uid := s.uid + 1 }

/-- An access that passed its checks uses the translation at hand: it becomes the most recent of the core's TLB; the walker sets A of its leaf at the first use of the walk, and D at the first write (08 R159, R163, R165). -/
def State.useXl (s : State) (core h va : Nat) (acc : Acc) : State :=
  match s.tlbFind core h va with
  | none => s
  | some t =>
    let t' := { t with used := true, dirty := t.dirty || isWrite acc }
    let bits := (if t.used then 0 else 0x40) + (if isWrite acc ∧ ¬ t.dirty then 0x80 else 0)
    let s := if bits = 0 then s else s.wrH t.leaf 1 (Nat.lor (s.rdH t.leaf 1) bits)
    let k := s.core core
    let s := s.setCore core { k with tlb := tlbPut k.tlb t' }
    if t = t' then s
    else
      let c := s.cluster (clusterOf core)
      s.setCluster (clusterOf core) { c with tcache := c.tcache.map (fun x => if x.same t then t' else x) }

/-- Drop a group's translations everywhere (08 R165). -/
def State.tlbDrop (s : State) (p : Tlb → Bool) : State :=
  { s with
    cores := s.cores.map (fun x => (x.1, { x.2 with
      tlb := x.2.tlb.filter (fun t => !p t),
      copies := x.2.copies.map (fun c => { c with xl := c.xl.filter (fun t => !p t) }) })),
    clusters := s.clusters.map (fun x => (x.1, { x.2 with tcache := x.2.tcache.filter (fun t => !p t) })) }

end Sys2Proof.Machine
end

