-- ==== Sys2Proof/Machine/Pending.lean ====
section
/-! DEFINITION. Accesses on their way: places of execution, the order requests keep among themselves, permits and planes, the fence gates (08 R162, R166, R167, 09 R179 to R188, R197, 24 R362, R363). -/

namespace Sys2Proof.Machine

/-! ## Places -/

/-- Home slice of a physical address (08 R162). -/
def sliceOf (pa : Nat) : Nat := pa / 256 % 96

/-- Home channel of a place: clusters 0 to 383, slice s is 384 + s (24 R354). -/
def chanOf : Loc → Nat
  | .spad core _ => clusterOf core
  | .hbm pa => 384 + sliceOf pa

def isHbm : Loc → Bool
  | .hbm _ => true
  | _ => false

/-- Whether a place is a core's own scratchpad. -/
def Loc.isOn (l : Loc) (core : Nat) : Bool :=
  match l with
  | .spad c _ => c == core
  | .hbm _ => false

/-- Whether a place is a scratchpad of a cluster. -/
def Loc.inCluster (l : Loc) (cl : Nat) : Bool :=
  match l with
  | .spad c _ => clusterOf c == cl
  | .hbm _ => false

/-- Whether two byte ranges overlap. -/
def overlap (a n b m : Nat) : Bool := decide (a < b + m ∧ b < a + n ∧ n ≠ 0 ∧ m ≠ 0)

/-- Whether `n` bytes at one place and `m` at another share a byte. -/
def Loc.meets (a : Loc) (n : Nat) (b : Loc) (m : Nat) : Bool :=
  match a, b with
  | .spad x o, .spad y p => x == y && overlap o n p m
  | .hbm p, .hbm q => overlap p n q m
  | _, _ => false

/-- Whether any range of one list overlaps one of another. -/
def touches (xs ys : List (Nat × Nat)) : Bool := xs.any (fun x => ys.any (fun y => overlap x.1 x.2 y.1 y.2))

/-! ## Requests -/

/-- A walk read takes a permit and a way like a load, and is no access of a strand (08 R163, R166). -/
def Req.isWalk (r : Req) : Bool := r.op == .walk

/-- Whether a request crosses the weave (08 R166); one that still waits at the NI has not set out (15 R279). -/
def Req.crosses (r : Req) : Bool := !r.ni && r.chan != clusterOf r.core

def Req.unperformed (r : Req) : Bool := r.phase == .issued || r.phase == .readDone

/-- The response has not returned. -/
def Req.open_ (r : Req) : Bool := r.phase != .answered

def Req.reads (r : Req) : Bool :=
  match r.op with
  | .load | .amo _ _ _ _ => true
  | _ => false

/-- A load of a lane of VMEM: its result is narrower than a scalar register (07 R147). -/
def Req.ofVec (r : Req) : Bool := r.op == .load && decide (0 < r.dsize ∧ r.dsize < 8)

def Req.writes (r : Req) : Bool :=
  match r.op with
  | .load | .walk => false
  | _ => true

/-- Whether requests of one core share a first-in, first-out way: to one home slice, to one core or one member, or within the own cluster (08 R167, 09 R185 to R187). -/
def Req.sameWay (a b : Req) : Bool :=
  a.core == b.core && !a.isWalk && !b.isWalk &&
    (match a.loc, b.loc with
     | .hbm p, .hbm q => sliceOf p == sliceOf q
     | .spad x _, .spad y _ =>
       x == y || (clusterOf x == clusterOf a.core && clusterOf y == clusterOf a.core) ||
         (a.vc.isSome && a.vc == b.vc && a.group == b.group)
     | _, _ => false)

/-- Whether a request must be performed before a later one: on one way, by one strand at one address, or marked by a cluster-scope release for every core of the cluster (09 R180, R184 to R187). -/
def Req.before (a b : Req) : Bool :=
  a.sameWay b ||
    ((a.cid == b.cid || (a.mark == 2 && clusterOf a.core == clusterOf b.core)) && a.loc.meets a.size b.loc b.size)

/-! ## Accesses through the link engine (24 R362, R363) -/

/-- Device number and group of a handle's entry; handle 0 names this device and the own group (24 R362). -/
def State.handleTarget (s : State) (part group h : Nat) : Nat × Nat :=
  if h = 0 then (s.devNum, group)
  else
    match (mget s.parts part).bind (fun p => mget p.handles h) with
    | some e => (bitsOf e 32 18, bitsOf e 0 32)
    | none => (2 ^ 18, 0)

/-- Where a remote access leads (24 R362): a place, the wait for a member that moves, or a failure. -/
inductive Far where
  | to (l : Loc)
  | wait
  | fail
  deriving DecidableEq, Repr

/-- Key of a group's partition. -/
def State.partKey (s : State) (h : Nat) : Nat :=
  match s.grp h with
  | some g => g.part
  | none => 0

/-! ## Places that members have left (15 R279 to R281) -/

/-- The migration entry of a core that covers a group's request (15 R280). -/
def State.fwdFor (s : State) (core group off n : Nat) : Option Fwd :=
  pick (fun f => f.group == group && f.cid.isSome && overlap off n f.lo (f.hi - f.lo)) (s.core core).fwd

/-- The member of a group that stands on a core: the one placed there, else one that is leaving it (15 R278). -/
def State.vcoreOn (s : State) (h core : Nat) : Option Nat :=
  (s.grp h).bind (fun g =>
    let at_ (st : Nat) := pick (fun v => (g.members.getD v Member.blank).pst == st && (g.members.getD v Member.blank).pcore == core)
      (upTo g.members.length)
    (at_ 0).or (at_ 1))

/-- Whether a migration's footprint is still on its way to some bytes of a core (05 R100). -/
def State.inTransit (s : State) (core group off n : Nat) : Bool :=
  s.flights.any (fun f => match f.cargo with
    | .migrate k _ c foot _ => k == core && c.group == group && overlap off n (c.wp - 64) foot.length
    | _ => false)

/-- Where `n` bytes of a member, asked for by a core, stand now: through a migration entry, or by the home placement table; a member that moves makes other cores wait (05 R100, 15 R279 to R281). -/
def State.homeward (s : State) (asker group : Nat) (l : Loc) (n : Nat) (vc : Option Nat) : Far :=
  match l, vc with
  | .spad core off, some v =>
    let m := s.member group v
    let to_ (c o : Nat) : Far := if s.inTransit c group o n then .wait else .to (.spad c o)
    match s.fwdFor core group off n with
    | some f => to_ f.core (off - f.lo + f.off)
    | none =>
      if (s.grp group).isNone ∨ m.pst = 3 then .fail
      else if m.pst ≠ 0 ∧ ¬ (m.pst = 1 ∧ m.pcore = asker) then .wait
      else to_ m.pcore off
  | l, _ => .to l

/-- Where `n` bytes of a core's scratchpad stand now for a group: through its migration entries, none while a footprint is on its way over them; the last argument bounds the entries in a row (05 R100, 15 R280). -/
def State.chase (s : State) (group core off n : Nat) : Nat → Far
  | 0 => .wait
  | k + 1 =>
    match s.fwdFor core group off n with
    | some f => s.chase group f.core (off - f.lo + f.off) n k
    | none => if s.inTransit core group off n then .wait else .to (.spad core off)

/-- Where a write of the NI to `n` bytes of a member lands now: as a request of another core would (05 R100, 15 R279, R280). -/
def State.niPlace (s : State) (h v off n : Nat) : Far :=
  let m := s.member h v
  if (s.grp h).isNone then .fail
  else if (s.fwdFor m.pcore h off n).isSome ∨ m.pst = 0 then s.chase h m.pcore off n 17
  else if m.pst = 3 then .fail
  else .wait

/-- The user root that a remote access walks from: its group's, or its partition's with handle 0 (24 R362). -/
def State.farRoot (s : State) (part group : Nat) : Option Nat :=
  if group = 0 then (mget s.parts part).map (fun p => p.root) else (s.grp group).map (fun g => g.hdr.uroot)

/-- Where a remote access leads (24 R362): HBM through a user root, a member's scratchpad, where its departed bytes stand now (05 R100), a remote failure, or the wait for a member. DEDUCED, log entry 94. -/
def State.farLoc (s : State) (part group : Nat) (sup : Bool) (va size : Nat) (acc : Acc) : Far :=
  if ¬ oneRange va size then .fail
  else
    match rngOf va with
    | .user =>
      (match (s.farRoot part group).map (fun r => walkFrom s va acc sup 4 r) with
       | some (.ok pa n _ _ _) => .to (.hbm (pa + va % n))
       | _ => .fail)
    | .win v off =>
      if (s.grp group).isNone ∨ s.nMembers group ≤ v then .fail
      else s.homeward 6144 group (.spad (s.member group v).pcore off) size (some v)
    | _ => .fail

/-- Whether the partition key of a remote access does not match its group (24 R362, 16 R298). -/
def State.wrongKey (s : State) (part group : Nat) : Bool :=
  group != 0 &&
    (match s.grp group with
     | some g => g.part != part
     | none => false)

/-- A and D of a leaf that a remote access used (08 R159). -/
def State.remoteMark (s : State) (part group : Nat) (sup : Bool) (va : Nat) (acc : Acc) : State :=
  if rngOf va ≠ .user then s
  else
    let root := if group = 0 then ((mget s.parts part).map (fun p => p.root)).getD 0
      else ((s.grp group).map (fun g => g.hdr.uroot)).getD 0
    match walkFrom s va acc sup 4 root with
    | .ok _ _ _ _ leaf => s.setAD leaf acc
    | .fault _ => s

/-- Whether updates of a member's placement entry are still under way (15 R276). -/
def State.placing (s : State) (h v : Nat) : Bool :=
  s.flights.any (fun f => match f.cargo with
    | .placeUpd g w _ _ _ => g == h && w == v
    | .placeAck g w _ => g == h && w == v
    | _ => false)

/-- Member entries whose change is complete end, once no request sent on to their core is in flight (15 R280). -/
def State.endMemberFwd (s : State) : State :=
  let live (f : Fwd) : Bool := f.cid.isSome ||
    (match s.vcoreOn f.group f.core with
     | some v => s.placing f.group v
     | none => false) ||
    s.reqs.any (fun r => r.redir && r.unperformed && r.group == f.group && r.loc.isOn f.core)
  { s with cores := s.cores.map (fun x => (x.1, { x.2 with fwd := x.2.fwd.filter live })) }

/-- An LDD, STD, FILLD or contribution not yet performed, seen as a request in flight: bytes at this device where it leads there, none elsewhere (24 R363). -/
def State.asReq (s : State) (f : Flight) : Option Req :=
  let mk (c g h size : Nat) (sup : Bool) (va : Word) (op : ReqOp) (acc : Acc) : Req :=
    let part := s.partKey g
    let t := s.handleTarget part g h
    let l := if t.1 = s.devNum then s.farLoc part t.2 (sup && h == 0) va.toNat size acc else .fail
    { id := f.id, batch := f.id, cid := c, core := coreOfCid c, group := g, vc := none, op := op,
      loc := (match l with
        | .to l => l
        | _ => .hbm 0),
      size := (match l with
        | .to _ => size
        | _ => 0),
      va := va, scope := 3, sx := false, dst := 0, dsize := 0, after := [], sent := true, waited := 0, plane := 0, chan := 0,
      tpc := 0, phase := .issued, val := 0, seen := 0, mark := 0, slept := false,
      ni := false, redir := false, back := false }
  match f.cargo with
  | .std c h g sup va n v _ _ none => some (mk c g h n sup va (.store v) .store)
  | .ldd c h g sup va n _ none => some (mk c g h n sup va .load .load)
  | .contrib _ _ k => if k.accepted then none else some (mk k.cid 0 1 0 false 0 (.store 0) .store)
  | _ => none

/-- Accesses of the link engine in flight. -/
def State.linkReqs (s : State) : List Req := s.flights.filterMap s.asReq

/-! ## Order -/

/-- Ids of the strand's accesses not yet performed that satisfy a test: those at this device, at system scope those of the link engine as well (09 R188). -/
def State.mine (s : State) (cid : Nat) (sys : Bool) (p : Req → Bool) : List Nat :=
  ((s.reqs ++ (if sys then s.linkReqs else [])).filter (fun r => r.cid == cid && r.unperformed && p r)).map (fun r => r.id)

/-- Whether a strand's releases cover a request: its own, or one that a release has marked for the strand's core or cluster (09 R183). DEDUCED, log entry 36. -/
def Req.known (r : Req) (cid : Nat) : Bool :=
  r.cid == cid || (decide (1 ≤ r.mark) && r.core == coreOfCid cid) || (r.mark == 2 && clusterOf r.core == clusterOf (coreOfCid cid))

/-- Ids of the accesses not yet performed that a release of the strand covers (09 R183, R184). -/
def State.covered (s : State) (cid : Nat) (sys : Bool) : List Nat :=
  ((s.reqs ++ (if sys then s.linkReqs else [])).filter (fun r => r.known cid && r.unperformed)).map (fun r => r.id)

/-- Whether every access that a release of the strand covers has been performed, at device or at system scope (09 R183). -/
def State.drained (s : State) (cid : Nat) (sys : Bool := false) : Bool := (s.covered cid sys).isEmpty

/-- Those of some ids that are not yet performed. -/
def State.pendingOf (s : State) (ids : List Nat) : List Nat :=
  ((s.reqs ++ s.linkReqs).filter (fun r => r.unperformed && ids.contains r.id)).map (fun r => r.id)

/-- Hold later loads, later stores, for some requests (09 R184, R197). -/
def Ctx.gate (c : Ctx) (ld st : List Nat) : Ctx := { c with gateLd := c.gateLd ++ ld, gateSt := c.gateSt ++ st }

/-- Requests that an access of the strand still waits for. -/
def State.gates (s : State) (cid : Nat) (rd wr : Bool) : List Nat :=
  let c := s.ctx cid
  s.pendingOf ((if rd then c.gateLd else []) ++ (if wr then c.gateSt else []))

/-- Whether an access of the strand must still wait for its fences and acquires. -/
def State.gated (s : State) (cid : Nat) (rd wr : Bool) : Bool := !(s.gates cid rd wr).isEmpty

/-- Whether every request in front of this one on its way has been performed. -/
def State.first (s : State) (r : Req) : Bool :=
  match pick (fun x => x.unperformed && (x.id == r.id || x.before r)) s.reqs with
  | some x => x.id == r.id
  | none => true

/-- Whether an access of the link engine by the same strand stands before a request at one address (09 R180, R188). -/
def State.linkFirst (s : State) (r : Req) : Bool :=
  !s.linkReqs.any (fun x => decide (x.id < r.id) && x.cid == r.cid && x.loc.meets x.size r.loc r.size)

/-- A release of core or cluster scope marks the accesses of its strand, and those that releases before it have marked for the strand, that are still on their way (09 R183 to R186): what the cores of its cluster issue from here on to the same bytes is performed after them, and later releases cover them too. -/
def State.markRel (s : State) (cid scope : Nat) : State :=
  { s with reqs := s.reqs.map (fun r => if r.known cid && r.unperformed then { r with mark := max r.mark (scope + 1) } else r) }

/-- Bytes of a core's scratchpad that a strand's accesses have still to reach. -/
def State.onTheWay (s : State) (cid core : Nat) : List (Nat × Nat) :=
  (s.reqs ++ s.linkReqs).filterMap (fun r => match r.loc with
    | .spad c off => if r.cid = cid ∧ c = core ∧ r.unperformed then some (off, r.size) else none
    | _ => none)

/-- Whether the ways into the own scratchpad are clear for `n` bytes, so that an access through the local window may be performed at issue: nothing of the core is on its way there, nothing of the strand to its cluster's scratchpads, and nothing that a cluster-scope release marked (09 R185 to R187). -/
def State.nearClear (s : State) (cid off n : Nat) : Bool :=
  let core := coreOfCid cid
  !s.reqs.any (fun r => r.unperformed && !r.isWalk &&
    ((r.core == core && r.loc.isOn core) || (r.cid == cid && r.loc.inCluster (clusterOf core)) ||
     (r.mark == 2 && clusterOf r.core == clusterOf core && r.loc.meets r.size (.spad core off) n))) &&
  !s.linkReqs.any (fun r => r.cid == cid && r.loc.meets r.size (.spad core off) n)

/-! ## Permits and planes -/

/-- Plane of a new request: that of an outstanding one to the same destination, else by R167. -/
def State.planeFor (s : State) (cl chan : Nat) : Nat :=
  match pick (fun r => r.crosses && r.open_ && clusterOf r.core == cl && r.chan == chan) s.reqs with
  | some r => r.plane
  | none => s.planeOf cl chan

/-- Requests that hold or wait for the permits of one cluster, plane and destination: those that have gone out, then the others, oldest first (08 R166). -/
def State.permitLine (s : State) (cl plane chan : Nat) : List Req :=
  let l := s.reqs.filter (fun r => r.crosses && r.open_ && clusterOf r.core == cl && r.plane == plane && r.chan == chan)
  l.filter (fun r => r.sent) ++ l.filter (fun r => !r.sent)

/-- Whether a request holds one of the 16 permits (08 R166). -/
def State.hasPermit (s : State) (r : Req) : Bool :=
  !r.crosses || ((s.permitLine (clusterOf r.core) r.plane r.chan).take 16).any (fun x => x.id == r.id)

/-- Whether a core is stalled for a permit (08 R166). -/
def State.permitStalled (s : State) (core : Nat) : Bool :=
  s.reqs.any (fun r => r.core == core && r.open_ && !s.hasPermit r)

/-- Add to a count of 64 bits kept per plane (28 R398). -/
def bump (l : List (Nat × Nat)) (k n : Nat) : List (Nat × Nat) := mput l k ((mgetD l k 0 + n) % 2 ^ 64)

def State.countPermitStall (s : State) (cl plane : Nat) : State :=
  let c := s.cluster cl
  s.setCluster cl { c with permitStall := bump c.permitStall plane 1 }

/-- Whether the stack of a place answers (29 R413). -/
def State.awake (s : State) : Loc → Bool
  | .hbm pa => mgetD s.hbmStacks (sliceOf pa / 8) true
  | .spad _ _ => true

/-- Something on its way for a core waits for a place: its wait is counted once, as a permit stall (08 R166, 29 R413). -/
def State.noteHeld (s : State) (id core : Nat) (l : Loc) : State :=
  if s.slept.contains id then s
  else { s.countPermitStall (clusterOf core) (s.planeFor (clusterOf core) (chanOf l)) with slept := s.slept ++ [id] }

/-- Something in flight for a core waits at a stack in self-refresh (29 R413). -/
def State.noteSlept (s : State) (id core : Nat) (l : Loc) : State := if s.awake l then s else s.noteHeld id core l

/-- Whether an operation of a core that is done in one step finds a permit for its place, and the place awake (08 R166, 29 R413). -/
def State.wayOpen (s : State) (core : Nat) (l : Loc) : Bool :=
  let cl := clusterOf core
  let chan := chanOf l
  (chan == cl || decide ((s.permitLine cl (s.planeFor cl chan) chan).length < 16)) && s.awake l

/-- A strand's instruction stalls for a permit or for a stack in self-refresh: the stall is counted once (08 R166, 28 R397, R398, 29 R413). -/
def State.noteStall (s : State) (cid : Nat) (l : Loc) : State :=
  let cl := clusterOf (coreOfCid cid)
  if (s.ctx cid).noPermit then s
  else (s.countPermitStall cl (s.planeFor cl (chanOf l))).updCtx cid (fun c => { c.count 8 1 with noPermit := true })

end Sys2Proof.Machine
end

