-- ==== Sys2Proof/Machine/Fetch.lean ====
section
/-! DEFINITION. Line fetch (03 R60 to R66, 06 R132), what it waits for, and the bytes that outstanding results and tile operations have still to reach (06 R121, 10 R220). -/

namespace Sys2Proof.Machine

/-! ## What is outstanding -/

/-- Bytes of registers that outstanding results of a strand will write (06 R121). -/
def State.dstBytes (s : State) (cid : Nat) : List (Nat × Nat) :=
  (s.landings.filter (fun l => l.cid == cid)).flatMap (fun l => l.writes.map (fun w => (w.1, w.2.1))) ++
  (s.reqs.filter (fun r => r.cid == cid && r.dsize != 0)).map (fun r => (r.dst, r.dsize)) ++
  s.flights.filterMap (fun f => match f.cargo with
    | .bcastReq _ c d _ => if c = cid then some (d, 8) else none
    | .bcastAns c d _ => if c = cid then some (d, 8) else none
    | _ => none)

/-- Registers that the matrix unit still has to read: their bytes (05 R99, 10 R211). DEDUCED, log entry 26. -/
def State.lockBytes (s : State) (cid : Nat) : List (Nat × Nat) :=
  ((s.core (coreOfCid cid)).mq.filter (fun o => o.cid == cid && !o.taken)).flatMap (fun o =>
    match o.work with
    | .mma _ _ _ ra rb _ _ _ =>
      (match ra with
       | some x => [(x, 256)]
       | none => []) ++ [(rb, 256)]
    | _ => [])

/-- Ranges that some tile operations have still to write (10 R220). -/
def putRanges (ops : List TileOp) : List (Nat × Nat) :=
  ops.flatMap (fun o =>
    match o.work with
    | .store _ d addr mask =>
      (addr, 256 * (if d = 0 ∨ 9 ≤ d then 1 else if d = 1 ∨ 7 ≤ d then 2 else 4)) ::
        (match mask with
         | some m => [(m, 32)]
         | none => [])
    | .put rs _ _ => rs
    | _ => [])

/-- Ranges that MSTA and MSTM of a strand have still to write (10 R220). -/
def State.tileRanges (s : State) (cid : Nat) : List (Nat × Nat) :=
  putRanges ((s.core (coreOfCid cid)).mq.filter (fun o => o.cid == cid))

/-- Whether earlier accesses and tile stores of the strand to the place of a link engine's access have been performed (09 R180, R188, 10 R220). -/
def State.linkRipe (s : State) (id cid : Nat) : Bool :=
  match pick (fun x => x.id == id) s.linkReqs with
  | none => true
  | some r =>
    !(s.reqs ++ s.linkReqs).any (fun x =>
      decide (x.id < id) && x.cid == cid && x.unperformed && x.loc.meets x.size r.loc r.size) &&
    (match r.loc with
     | .spad c off =>
       c != coreOfCid cid ||
         !touches [(off, r.size)] (putRanges ((s.core c).mq.filter (fun o => o.cid == cid && decide (o.id < id))))
     | .hbm _ => true)

/-- Tile operations of a strand not yet complete (10 R202). -/
def State.tileIds (s : State) (cid : Nat) : List Nat :=
  ((s.core (coreOfCid cid)).mq.filter (fun o => o.cid == cid)).map (fun o => o.id)

/-! ## Line fetch -/

/-- Outcome of a fetch: the line with the state that used its translation, the trap, a page to walk, or the wait for an earlier access, a permit or a stack. -/
inductive Fetched where
  | ok (l : Line) (s : State)
  | bad (cause tval : Nat)
  | miss (va : Nat)
  | wait (s : State)

/-- Bytes of a line at a physical place. -/
def lineFrom (bs : List Byte) (base : Nat) : Option Line :=
  (decodeLine bs).map (fun l => ⟨base, l.heads, l.tails⟩)

/-- Where a fetch reads (03 R65, 08 R154). -/
inductive FetchAt where
  | to (l : Loc)
  | bad (cause tval : Nat)
  | miss
  deriving DecidableEq, Repr

/-- What the walk of an instruction's page said when it faulted (08 R160). -/
def Ctx.walkSaid (c : Ctx) (va : Nat) (acc : Acc) : Option Nat :=
  (pick (fun (x : Nat × Acc × Nat) => x.1 == va && x.2.1 == acc) c.walkFault).map (fun x => x.2.2)

/-- Where a line lies: in the own scratchpad or in paged HBM, with the trap of a range or translation that refuses it (03 R65, 06 R132, 08 R154, R160); local-window bytes are read on the core that fetches. DESIGN CHOICE, log entry 138. DESIGN CHOICE, log entry 105. DESIGN CHOICE, log entry 27. -/
def State.fetchAt (s : State) (cid base : Nat) : FetchAt :=
  let c := s.ctx cid
  let core := coreOfCid cid
  match rngOf base with
  | .loc off => .to (.spad core off)
  | .hole => .bad xAccess base
  | .win _ _ => .bad xAccess base
  | r =>
    if r = .sup ∧ ¬ c.sup then .bad xPrivilege base
    else
      match s.xlate core c.group base .fetch c.sup with
      | .hit pa => .to (.hbm pa)
      | .fault k => .bad k base
      | .miss =>
        match c.walkSaid base .fetch with
        | some k => .bad k base
        | none => .miss

/-- Whether a line fetch waits: for a fence or acquire of the strand, or for an earlier write to the line's bytes, of its core or marked by a release in its cluster (03 R64, 05 R97, 09 R180, R185, R186, 10 R220). DEDUCED, log entry 30. -/
def State.fetchHeld (s : State) (cid : Nat) (l : Loc) : Bool :=
  s.gated cid true false ||
    s.reqs.any (fun r => (r.known cid || r.core == coreOfCid cid) && r.writes && r.unperformed && r.loc.meets r.size l 64) ||
    s.linkReqs.any (fun r => r.cid == cid && r.writes && r.loc.meets r.size l 64) ||
    (match l with
     | .spad _ off => touches [(off, 64)] (s.tileRanges cid ++ s.dstBytes cid)
     | .hbm _ => false)

/-- Fetch the line a PC enters, with the checks in the order of R132: the address, the range and translation, the data, the line and its slot. DESIGN CHOICE, log entry 27. -/
def State.fetch (s : State) (cid pc : Nat) : Fetched :=
  if pc % 2 ≠ 0 ∨ pc % 64 = 0 then .bad xIllegalLine pc
  else
    let base := pc / 64 * 64
    let core := coreOfCid cid
    let fin (bs : List Byte) (s : State) : Fetched :=
      match lineFrom bs base with
      | none => .bad xIllegalLine pc
      | some l => if l.heads.length < pc % 64 / 2 then .bad xIllegalLine pc else .ok l s
    match s.fetchAt cid base with
    | .bad k t => .bad k t
    | .miss => .miss base
    | .to l =>
      if s.fetchHeld cid l then .wait s
      else if ¬ s.wayOpen core l then .wait (s.noteStall cid l)
      else
        match l with
        | .spad _ off =>
          if (s.badS core off 64).isSome then .bad xEcc base
          else fin (readBytes s.spad (spadKey core off) 64) (s.softRead core l 64)
        | .hbm pa =>
          if (s.badH pa 64).isSome then .bad xEcc base
          else fin (readBytes s.hbm pa 64) ((s.useXl core (s.ctx cid).group base .fetch).softRead core l 64)

/-- Sequential successor of a PC in its line (03 R60). -/
def succPc (l : Option Line) (pc : Word) : Word :=
  match l with
  | some l => if pc.toNat % 64 / 2 < l.heads.length then pc + 2 else toWord (pc.toNat / 64 * 64 + 66)
  | none => pc + 2

end Sys2Proof.Machine
end

