-- ==== Sys2Proof/Machine/Ops.lean ====
section
/-! DEFINITION. The shared operations: records, the queue area's freeze, headers, switching and blocking, taking a trap and returning from one, stepping to the successor and entering a line (03, 05, 11). -/

namespace Sys2Proof.Machine

/-! ## Disclosure at the source (27 R389 to R393) -/

/-- Byte of an installed policy. -/
def polByte (p : Option (List Byte)) (i : Nat) : Nat :=
  match p with
  | some b => (b.getD i 0).toNat
  | none => 0

/-- Policy of a partition. -/
def State.policyOf (s : State) (part : Nat) : Option (List Byte) := (mget s.parts part).bind (fun p => p.policy)

/-- Granularity of a category; 0 before the first policy (27 R389, R393). -/
def State.gran (s : State) (part cat : Nat) : Nat := polByte (s.policyOf part) (8 + cat) % 4

/-- Time exponent of a category (27 R389). -/
def State.kexp (s : State) (part cat : Nat) : Nat := polByte (s.policyOf part) (8 + cat) / 4

/-- A count under G = 2. -/
def coarseCount (n : Nat) : Nat := if n = 0 then 0 else 2 ^ n.log2

/-- A time under G = 2. -/
def coarseTime (k t : Nat) : Nat := t / 2 ^ k * 2 ^ k

/-- An address under G = 2. -/
def coarseAddr (a : Nat) : Nat := a / 4096 * 4096

/-- The presence window of now for a partition. -/
def State.window (s : State) (part : Nat) : Nat := s.time / 2 ^ (polByte (s.policyOf part) 16 % 64)

/-- The presence windows recorded under the policy in force: those after the last marker (27 R392). -/
def Part.inForce (p : Part) : List (Nat × Nat) := p.windows.reverse.takeWhile (fun w => w.1 != 7)

/-- Whether a category has its presence bit for this window. -/
def State.present (s : State) (part cat : Nat) : Bool :=
  match mget s.parts part with
  | some p => p.inForce.contains (cat, s.window part)
  | none => false

/-- Set the presence bit of this window. -/
def State.markPresent (s : State) (part cat : Nat) : State :=
  match mget s.parts part with
  | some p =>
    if s.present part cat then s
    else { s with parts := mput s.parts part { p with windows := p.windows ++ [(cat, s.window part)] } }
  | none => s

/-- Partition that owns a cluster (27 R386). -/
def State.clusterPart (s : State) (cl : Nat) : Nat :=
  match pick (fun p => p.2.clus.contains cl) s.parts with
  | some p => p.1
  | none => 0

/-- Write one entry of the black box; the ring holds the last 4,096 and takes none while frozen (28 R410). -/
def State.bbPut (s : State) (t kind cause key mid val aux : Nat) : State :=
  if s.bbFrozen then s
  else
    { s with
      blackBox := mput s.blackBox (s.bbSeq % 4096)
        [t % 2 ^ 48 * 2 ^ 16 + s.bbSeq % 2 ^ 16, kind * 2 ^ 56 + cause * 2 ^ 48 + key * 2 ^ 32 + mid, val, aux],
      bbSeq := s.bbSeq + 1 }

/-- First moment of the presence window of now (27 R391). -/
def State.windowStart (s : State) (part : Nat) : Nat := s.window part * 2 ^ (polByte (s.policyOf part) 16 % 64)

/-- An event of the black box: kind, cause, key, the low half of its second doubleword, value and auxiliary word; a tenant's entry in the form its policy permits, under G = 1 one for a window, with its first moment and nothing else (28 R410, 27 R391). DESIGN CHOICE, log entry 135. -/
def State.bbox (s : State) (kind cause key mid val aux : Nat) : State :=
  if key = 0 then s.bbPut s.time kind cause key mid val aux
  else
    match s.gran key 5 with
    | 0 => s
    | 1 => if s.present key 5 then s else (s.markPresent key 5).bbPut (s.windowStart key) 0 0 key 0 0 0
    | 2 => s.bbPut (coarseTime (s.kexp key 5) s.time) kind cause key mid (coarseAddr val) (coarseAddr aux)
    | _ => s.bbPut s.time kind cause key mid val aux

/-- A record to a partition supervisor's queue (11 R228); the host's copy takes the form that the policy permits (27 R391, R393). -/
def State.supRec (s : State) (part : Nat) (r : Rec) : State :=
  let copy : List (List Nat) := match s.gran part 4 with
    | 0 => []
    | 1 => if s.present part 4 then [] else [[s.window part]]
    | 2 => [[coarseTime (s.kexp part 4) s.time, r.cause, coarseAddr r.tval.toNat, coarseAddr r.tpc.toNat]]
    | _ => [[s.time, r.cause, r.tval.toNat, r.tpc.toNat] ++ r.more]
  let s := if s.gran part 4 = 1 then s.markPresent part 4 else s
  match mget s.parts part with
  | some p => { s with parts := mput s.parts part { p with queue := p.queue ++ [r], faults := p.faults ++ copy } }
  | none => s

/-- An event or a response to the host (29 R412). -/
def State.tell (s : State) (v : List Nat) : State := { s with hostOut := s.hostOut ++ [v] }

/-- Partition of a group, by its key (27 R386). -/
def State.partOf (s : State) (h : Nat) : Nat :=
  match s.grp h with
  | some g => g.part
  | none => 0

/-- The group watchdog's counter restarts (15 R283). -/
def State.progress (s : State) (h : Nat) : State :=
  match s.grp h with
  | some g => s.setGrp { g with wdCount := 0 }
  | none => s

/-! ## Events that PC0 to PC3 count (28 R397) -/

def State.countEv (s : State) (code n : Nat) : State := s.setCx (s.cx.count code n)

/-! ## Walks (08 R163, R166) -/

/-- Put a request in flight; one without a permit stalls the core and is counted (08 R166). -/
def State.putReq (s : State) (r : Req) : State :=
  let s := { s with reqs := s.reqs ++ [r], uid := s.uid + 1 }
  if s.hasPermit r then s
  else
    let s := s.countPermitStall (clusterOf r.core) r.plane
    if r.cid = s.cur then s.countEv 8 1 else s

/-- Send a walk of a page to the walker of the home slice of its root table, unless the cluster has one in flight for the 4 KiB page, which the miss joins (08 R163). DESIGN CHOICE, log entry 119. -/
def State.startWalk (s : State) (core h va : Nat) : State :=
  let page := va / 4096 * 4096
  if s.reqs.any (fun r => r.isWalk && clusterOf r.core == clusterOf core && r.group == h && r.va.toNat == page) then s
  else
    let l := Loc.hbm (s.rootOf h va)
    s.putReq { id := s.uid, batch := s.uid, cid := noCid, core := core, group := h, vc := none, op := .walk, loc := l, size := 8,
               va := toWord page, scope := 2, sx := false, dst := 0, dsize := 0, after := [], sent := false, waited := 0,
               plane := s.planeFor (clusterOf core) (chanOf l), chan := chanOf l, tpc := 0, phase := .issued, val := 0,
               seen := s.uid, mark := 0, slept := false, ni := false, redir := false, back := false }

/-- The focus waits for the walks of the pages it misses; what earlier walks said of other pages stays (08 R163, R168). DEDUCED, log entry 28. -/
def State.startWalks (s : State) (ps : List (Nat × Acc)) : State :=
  let old := s.cx.walkFault.filter (fun (x : Nat × Acc × Nat) => !ps.contains (x.1, x.2.1))
  let s := (s.setCx { s.cx with walk := ps, walkFault := old }).countEv 9 ps.length
  let t := ps.foldl (fun s p => s.startWalk s.here s.cx.group p.1) s
  t.countEv 8 (t.reqs.filter (fun r => decide (s.uid ≤ r.id) && !t.hasPermit r)).length

/-- Head of the instruction that issues. -/
def Ctx.curHead (c : Ctx) : Nat :=
  match c.rep with
  | some r => ((r.body[r.i]?).map (fun x => x.1)).getD 0
  | none =>
    match c.line with
    | some l => l.heads.getD (c.pc.toNat % 64 / 2 - 1) 0
    | none => 0

/-- The tile operations that a stalled instruction waits for, with those it has waited for (10 R223). -/
def Ctx.waitTiles (c : Ctx) (ids : List Nat) : Ctx := { c with tileWait := (c.tileWait ++ ids).eraseDups }

/-- An instruction of the context completes: TIME sel 2, and the counters of codes 2 and 6 (28 R395, R397). What held for it alone ends: the exemption of 28 R401, the wait of 10 R223, the count of its stall. -/
def Ctx.completed (c : Ctx) : Ctx :=
  let c := { c.count 2 1 with instrs := c.instrs + 1, skipBkp := false, tileWait := [], noPermit := false }
  let maj := bitsOf c.curHead 2 6
  if 0x30 ≤ maj ∧ maj ≤ 0x36 then c.count 6 1 else c

/-! ## The queue area (16 R285) -/

def qbaseEn (q : Word) : Bool := bitAt q.toNat 63
def qbaseAddr (q : Word) : Nat := bitsOf q.toNat 0 17

/-- Whether `n` bytes from an offset touch the member's queue area; the first touched byte of the area. -/
def inArea (q : Word) (off n : Nat) : Option Nat :=
  let a := qbaseAddr q
  if qbaseEn q ∧ off < a + 2176 ∧ a < off + n then some (max off a) else none

/-- A bookkeeping write of the NI (16 R285): data and dirty bit, no tag. -/
def State.wrQ (s : State) (core off v : Nat) : State := s.wrS core off 8 v

/-- Freeze a deque with its record; the first record stays (16 R294, R295). -/
def State.freeze (s : State) (h v cause entry tval tpc vcore : Nat) : State :=
  let m := s.member h v
  let a := qbaseAddr m.qbase
  if ¬ qbaseEn m.qbase then s
  else
    let s := s.niRead m.pcore (a + 32) 8
    if bitAt (s.rdS m.pcore (a + 32) 8) 0 then s
    else
      ((((s.wrQ m.pcore (a + 32) (1 + cause % 256 * 256 + vcore % 8192 * 65536)).wrQ m.pcore (a + 40) entry).wrQ
        m.pcore (a + 48) tval).wrQ m.pcore (a + 56) tpc)

/-- Entry doubleword of a context that serves (16 R286, R301). -/
def Ctx.srvEntry (c : Ctx) : Nat := c.fld 0x085 0 36 + (if c.srvMsg then 2 ^ 62 else 0)

def Ctx.serving (c : Ctx) : Bool := c.fld 0x085 63 1 == 1

/-- Causes that do not freeze the source deque (16 R294). -/
def noFreeze (cause : Nat) : Bool :=
  decide (0x40 ≤ cause) || cause == xBreak || cause == xWatch || cause == xSatLimit || cause == xBereaved

/-! ## Headers, switching and blocking (05 R94, R95, R112, R113) -/

/-- The header's eight doublewords in address order (05 R94). -/
def Ctx.header (c : Ctx) (pc : Word) : List Word :=
  [pc, c.get 0x000, c.get 0x001, c.get 0x002, c.get 0x003, c.get 0x004, c.get 0x006, c.get 0x005]

/-- Write doublewords from an offset. -/
def State.wrDws (s : State) (core off : Nat) : List Word → State
  | [] => s
  | d :: r => (s.wrS core off 8 d.toNat).wrDws core (off + 8) r

/-- The core writes a doubleword of a strand behind what the strand has on its way there: between two writes the later one wins (05 R97). -/
def State.wrOwn (s : State) (cid off v : Nat) : State :=
  let core := coreOfCid cid
  if touches [(off, 8)] (s.onTheWay cid core) then
    s.putReq { id := s.uid, batch := s.uid, cid := cid, core := core, group := (s.ctx cid).group, vc := none, op := .store v,
               loc := .spad core off, size := 8, va := toWord off, scope := 0, sx := false, dst := 0, dsize := 0, after := [],
               sent := true, waited := 0, plane := 0, chan := clusterOf core, tpc := 0, phase := .issued, val := 0, seen := 0,
               mark := 0, slept := false, ni := false, redir := false, back := false }
  else s.wrS core off 8 v

/-- The core writes a context's header (05 R95). -/
def State.putHeader (s : State) (cid : Nat) (pc : Word) : State :=
  let c := s.ctx cid
  s.wrDws (coreOfCid cid) (c.wp - 64) (c.header pc)

/-- Trap entry stores the header as the nesting record, behind what the strand has on its way there (05 R97, 11 R232). -/
def State.putRecord (s : State) (cid : Nat) (pc : Word) : State :=
  let c := s.ctx cid
  ((c.header pc).zip (upTo 8)).foldl (fun s x => s.wrOwn cid (c.wp - 64 + 8 * x.2) x.1.toNat) s

/-- A doubleword of the header in memory. -/
def State.hdrAt (s : State) (cid i : Nat) : Word :=
  toWord (s.rdS (coreOfCid cid) ((s.ctx cid).wp - 64 + 8 * i) 8)

/-- ST as the core takes it from a header: RM, BTE and DEPTH from memory, SUP and VX from its own record (05 R95). -/
def stFrom (own mem : Word) : Word := (mem &&& 0xF023) ||| (own &&& 0xC)

/-- The core reads a context's header when it selects it, and meets its corrected errors (05 R95, 11 R229). -/
def State.getHeader (s : State) (cid : Nat) : State :=
  let c := s.ctx cid
  let c := { c with pc := s.hdrAt cid 0 }
  let c := c.set 0x000 (stFrom (c.get 0x000) (s.hdrAt cid 1))
  let c := c.set 0x001 (s.hdrAt cid 2)
  let c := c.set 0x002 (s.hdrAt cid 3 &&& 0xFF)
  let c := c.set 0x003 (s.hdrAt cid 4)
  let c := c.set 0x004 (s.hdrAt cid 5)
  let c := c.set 0x006 (s.hdrAt cid 6)
  let c := c.set 0x005 (s.hdrAt cid 7)
  (s.softRead (coreOfCid cid) (.spad (coreOfCid cid) (c.wp - 64)) 64).setCtx cid c

/-- A run of REP is left: the core writes its progress to wC (07 R153). DESIGN CHOICE, log entry 106. -/
def State.leaveRep (s : State) (cid : Nat) : State :=
  let c := s.ctx cid
  match c.rep with
  | some r => (s.wrOwn cid (c.wOff r.wc) (r.p + r.i * 64)).updCtx cid (fun c => { c with rep := none })
  | none => s

/-- The core no longer runs the context of the slot. -/
def State.unrun (s : State) (cid : Nat) : State :=
  if isCopy cid then s
  else
    let k := s.core (coreOfCid cid)
    if k.running = some (slotOfCid cid) then
      s.setCore (coreOfCid cid) { k with running := none, last := slotOfCid cid }
    else s

/-- The running context departs into a state: REP is left, the header written with a PC, the slot's line dropped (05 R95, R113). DEDUCED, log entry 41. -/
def State.depart (s : State) (cid : Nat) (pc : Word) (st : CtxState) : State :=
  let s := (s.leaveRep cid).putHeader cid pc
  (s.setCtx cid { (s.ctx cid) with pc := pc, state := st, line := none, walkFault := [], noPermit := false }).unrun cid

/-- State of the sequencer as its strand changes. -/
def State.setSeq (s : State) (core : Nat) (f : Seq → Seq) : State :=
  s.setCore core { (s.core core) with seq := f (s.core core).seq }

/-- Waits that a wait table holds (18 R313, R320, 21 R342). -/
def tabled : Wait → Bool
  | .future _ _ | .lockAt _ _ | .portOut _ _ => true
  | _ => false

/-- The wait that a context holds, stopped or not (05 R113). -/
def Ctx.waits (c : Ctx) : Option Wait :=
  match c.state with
  | .blocked w => some w
  | .stopped w _ => w
  | _ => none

/-- Contexts parked in a cluster's wait table (18 R313). -/
def State.parked (s : State) (cl : Nat) : Nat :=
  (s.ctxs.filter (fun p => clusterOf (coreOfCid p.1) == cl && !p.2.parkLong && (p.2.waits.any tabled))).length

/-- Block the strand at its own PC; on a stopped core it is STOPPED with its block remembered (05 R112, R113, 28 R402). -/
def State.block (s : State) (w : Wait) : State :=
  let cl := clusterOf s.here
  let long := tabled w && decide (256 ≤ s.parked cl)
  let s := if long then s.setCluster cl { (s.cluster cl) with waitOvf := min ((s.cluster cl).waitOvf + 1) 0xFFFFFFFF } else s
  let s := s.setCx { s.cx.count 4 1 with parkLong := long, woken := false, parkRun := 0 }
  let stop := (s.core s.here).stop && !s.cx.stepping
  let s := s.depart s.cur s.cx.pc (if stop then .stopped (some w) false else .blocked w)
  if isCopy s.cur then s.setSeq s.here (fun q => { q with state := .blocked }) else s

/-! ## Results in flight (06 R121) -/

/-- Whether a result of the strand is still on its way to a register. -/
def State.unlanded (s : State) (cid : Nat) : Bool :=
  s.landings.any (fun l => l.cid == cid) ||
    s.reqs.any (fun r => r.cid == cid && r.dsize != 0) ||
    s.flights.any (fun f => match f.cargo with
      | .bcastReq _ c _ _ => c == cid
      | .bcastAns c _ _ => c == cid
      | _ => false)

/-! ## Traps (11) -/

/-- An entry failure (11 R233): the context stops with every register unchanged, and a record goes to the supervisor and the black box. DEDUCED, log entry 34. -/
def State.entryFailure (s : State) (cause : Nat) (tval tpc : Word) : State :=
  let c := s.cx
  let s := s.depart s.cur tpc (.stopped none true)
  (s.supRec (s.partOf c.group) ⟨xEntry, tval, tpc, [cause, c.depth, s.here, c.group]⟩).bbox
    1 cause (s.partOf c.group) (c.depth * 2 ^ 28 + s.here) tval.toNat tpc.toNat

/-- A trap in the copy strand ends it as FAULTED (20 R331). -/
def State.copyFault (s : State) (cause : Nat) (tval tpc : Word) : State :=
  let s := s.setCx ((s.cx.set 0x002 (toWord cause)).set 0x003 tval)
  let s := s.depart s.cur tpc (.stopped none false)
  s.setSeq s.here (fun q => { q with state := .faulted })

/-- Bytes of the footprint above WP (05 R93). -/
def Ctx.foot (c : Ctx) : Nat := if c.vx then 2192 else 128

/-- Whether a workspace pointer is legal for a footprint (05 R93, R109). -/
def wpOk (w foot : Nat) : Bool := decide (w % 128 = 0 ∧ 128 ≤ w ∧ w + foot ≤ 0x20000)

/-- The workspace a handler takes (11 R231). -/
def Ctx.handlerWp (c : Ctx) : Nat :=
  let step := if c.vx then 2304 else 256
  if c.depth = 0 then (c.get 0x006).toNat
  else if step ≤ c.wp then c.wp - step else 1

/-- Whether a workspace pointer is one that trap entry and TRET accept for the context (11 R232, R235). The queue area is no part of it (16 R285). DESIGN CHOICE, log entry 125. -/
def State.footOk (s : State) (w : Nat) : Bool := wpOk w s.cx.foot

/-- An uncorrectable error goes to the black box (28 R410). -/
def State.boxEcc (s : State) (cause : Nat) (tval : Word) : State :=
  if cause = xEcc then s.bbox 6 xEcc (s.partOf s.cx.group) s.here tval.toNat 0 else s

/-- What keeps a trap from being taken now: the wait for the handler's line or for register writes in flight (11 R232); none where it can be taken, or where entry fails. -/
def State.trapWait (s : State) : Option State :=
  let c := s.cx
  if isCopy s.cur ∨ c.depth = 15 ∨ ¬ s.footOk c.handlerWp then none
  else
    match s.fetch s.cur (c.get 0x005).toNat with
    | .bad _ _ => none
    | .miss va => some (s.startWalks [(va, .fetch)])
    | .wait s => some s
    | .ok _ _ => if s.unlanded s.cur then some s else none

/-- Freeze the deque that a context serves for, at a trap it takes (16 R294). -/
def State.freezeFor (s : State) (cause : Nat) (tval tpc : Word) : State :=
  let c := s.cx
  if c.serving && !noFreeze cause then
    s.freeze c.group (c.fld 0x085 36 13) cause c.srvEntry tval.toNat tpc.toNat c.vcore
  else s

/-- trap_entry (11 R232): the one way into a handler. Where the handler's line or a register write is still on its way the trap is not yet taken, and the instruction issues again. DESIGN CHOICE, log entry 32. -/
def State.takeTrap (s : State) (cause : Nat) (tval tpc : Word) : State :=
  if isCopy s.cur then (s.boxEcc cause tval).copyFault cause tval tpc
  else
    match s.trapWait with
    | some s => s
    | none =>
      let s := (s.freezeFor cause tval tpc).boxEcc cause tval
      let c := s.cx
      let h := c.handlerWp
      if c.depth = 15 ∨ ¬ s.footOk h then s.entryFailure cause tval tpc
      else
        match s.fetch s.cur (c.get 0x005).toNat with
        | .ok l s' =>
          let s := (s'.leaveRep s.cur).putRecord s.cur tpc
          let c := s.cx
          let c := { c with wp := h, pc := c.get 0x005, line := some l, walk := [], walkFault := [], noPermit := false, call := none,
                            skipBkp := false, tileWait := [] }
          let c := (c.set 0x004 (c.get 0x000)).set 0x001 tpc
          let c := (c.set 0x002 (toWord cause)).set 0x003 tval
          let c := c.set 0x006 (toWord s.cx.wp)
          s.setCx ((c.setFld 0x000 12 4 (c.depth + 1)).count 11 1)
        | _ => s.entryFailure cause tval tpc

/-- A trap of the instruction at the PC. -/
def trap (s : State) (cause : Nat) (tval : Word) : Out := .next (s.takeTrap cause tval s.cx.pc)

/-- PC of the instruction that issues: in a run of REP that of the body instruction (07 R152). -/
def Ctx.issuePc (c : Ctx) : Word :=
  match c.rep with
  | some r => r.pcs.getD r.i c.pc
  | none => c.pc

/-- head | tail << 16 of an instruction with a head and a tail as it is written; in a run of REP, of the body instruction (03 R74, 07 R152). -/
def State.asWritten (s : State) (w : Nat) : Word :=
  match s.cx.rep with
  | some r =>
    match r.body[r.i]? with
    | some (h, t) => toWord (h + t * 65536)
    | none => toWord w
  | none => toWord w

/-- X_OPERAND (03 R74). -/
def operandTrap (s : State) (i : Instr) : Out := trap s xOperand (s.asWritten (encWord i))

/-- X_OPERAND of an instruction given by its head and tail. -/
def operandTrapOf (s : State) (x : Nat × Nat) : Out := trap s xOperand (s.asWritten (x.1 + x.2 * 65536))

/-! ## Going on -/

/-- The PC moves to the sequential successor; a line that is left is fetched again at its next entry (03 R60, R63). In a run of REP the progress moves instead, and after the last body instruction wC is 0 and the run is complete (07 R152, R153). -/
def State.advance (s : State) : State :=
  let c := s.cx.completed
  match c.rep with
  | some r =>
    if r.i + 1 < r.body.length then s.setCx { c with rep := some { r with i := r.i + 1 } }
    else if r.p < r.count then s.setCx { c with rep := some { r with p := r.p + 1, i := 0 } }
    else
      let stay := decide (r.succ.toNat / 64 = c.pc.toNat / 64)
      let c := { c.count 2 1 with instrs := c.instrs + 1 }
      (s.setCx { c with rep := none, pc := r.succ, line := if stay then c.line else none }).wrOwn s.cur (c.wOff r.wc) 0
  | none =>
    let p := succPc c.line c.pc
    let stay := decide (p.toNat / 64 = c.pc.toNat / 64)
    s.setCx { c with pc := p, line := if stay then c.line else none }

/-- Finish an instruction: go to the successor. -/
def done (s : State) : Out := .next s.advance

/-- The strand waits without blocking: nothing changes and the instruction issues again (05 R109, 09 R198). -/
def stall (s : State) : Out := .next s

/-- Block the strand (05 R112). -/
def blocked (s : State) (w : Wait) : Out := .next (s.block w)

/-- enter_and_link (06 R132): nothing is written before entry succeeds. -/
def enterAndLink (s : State) (t : Word) (link : Bool) : Out :=
  match s.fetch s.cur t.toNat with
  | .bad k v => trap s k (toWord v)
  | .miss va => .next (s.startWalks [(va, .fetch)])
  | .wait s => stall s
  | .ok l s' =>
    let s' := if link then s'.setW 15 (succPc s.cx.line s.cx.pc) else s'
    .next (s'.setCx { s'.cx.completed with pc := t, line := some l, walkFault := [] })

/-- TRET (11 R235). It waits for what the strand has on its way to the record (05 R97). DEDUCED, log entry 42. DESIGN CHOICE, log entry 120. -/
def trapReturn (s : State) : Out :=
  let c := s.cx
  let tst := (c.get 0x004).toNat
  let w := (c.get 0x006).toNat
  if c.depth = 0 then trap s xBadReturn 0
  else if bitsOf tst 16 48 ≠ 0 ∨ bitsOf tst 6 6 ≠ 0 ∨ bitAt tst 4 then trap s xBadReturn (c.get 0x004)
  else if ¬ c.sup ∧ bitAt tst 2 then trap s xPrivilege (c.get 0x004)
  else if ¬ s.footOk w then trap s xBadReturn (c.get 0x006)
  else if touches [(w - 64, 64)] (s.onTheWay s.cur s.here ++ s.dstBytes s.cur ++ s.tileRanges s.cur) then stall s
  else
    let target := c.get 0x001
    let rec_ (i : Nat) : Word := toWord (s.rdS s.here (w - 64 + 8 * i) 8)
    let st := setBits (setBits tst 12 4 (c.depth - 1)) 3 1 (c.fld 0x000 3 1)
    let c := { c.completed with wp := w, pc := target, line := none, skipBkp := true }
    let c := (c.set 0x000 (toWord st)).set 0x001 (rec_ 2)
    let c := (c.set 0x002 (rec_ 3 &&& 0xFF)).set 0x003 (rec_ 4)
    let c := ((c.set 0x004 (rec_ 5)).set 0x006 (rec_ 6)).set 0x005 (rec_ 7)
    .next ((s.softRead s.here (.spad s.here (w - 64)) 64).setCx c)

/-! ## Counting saturations (02 R31 to R33) -/

/-- The counter the instruction counts in: SATID, or the one REP sampled (02 R31, 07 R152). -/
def State.satOf (s : State) : Nat :=
  match s.cx.rep with
  | some r => r.sat
  | none => s.cx.fld 0x035 0 6

/-- Add to a saturation counter of a core for a context; a crossing of its SATLIM is pending, behind those already pending, with the tile operation that brought it (02 R31, R33, 10 R223). -/
def State.countSatOf (s : State) (cid idx n : Nat) (op : Option Nat) : State :=
  let k := s.core (coreOfCid cid)
  let old := mgetD k.satcnt idx 0
  let new := min (old + n) 0xFFFFFFFF
  let c := s.ctx cid
  let lim := c.fld 0x036 0 32
  let s := if n = 0 then s else
    (s.setCore (coreOfCid cid) { k with satcnt := mput k.satcnt idx new }).updCtx cid (fun c => c.countLater 10 n)
  if lim ≠ 0 ∧ old < lim ∧ lim ≤ new then s.updCtx cid (fun c => { c with pendSat := c.pendSat ++ [(idx, op)] }) else s

/-- Add to a saturation counter for an instruction of a context (02 R31, R33). -/
def State.countSat (s : State) (cid idx n : Nat) : State := s.countSatOf cid idx n none

/-! ## Register reads (06 R118, R119) -/

/-- The first of some scalar registers, in the order of the operands, whose word has an uncorrectable error, as its address (06 R119). DESIGN CHOICE, log entry 121. -/
def State.regBad (s : State) : List (BitVec 4) → Option Nat
  | [] => none
  | i :: r =>
    match s.badS s.here (s.cx.wOff i.toNat) 8 with
    | some _ => some (s.cx.wOff i.toNat)
    | none => s.regBad r

/-- Whether an instruction of the focus is over in the second state: it completed, trapped, blocked or left (06 R118). -/
def State.over (s t : State) : Bool :=
  match mget t.ctxs s.cur with
  | some c => c.instrs != s.cx.instrs || c.state != s.cx.state || c.get 0x000 != s.cx.get 0x000
  | none => true

/-- Count the corrected errors that an instruction's reads met, once, when it is over: what only waits and issues again has not read yet (06 R118, R119, 11 R229). -/
def counting (n : Nat) (s : State) (o : Out) : Out :=
  if n = 0 then o
  else
    match o with
    | .next t => .next (if s.over t then t.addCerrOn s.here n else t)
    | o => o

/-- Corrected errors in the scalar registers read (06 R119, 11 R229). -/
def State.softRegs (s : State) (rs : List (BitVec 4)) : Nat :=
  (rs.eraseDups.map (fun i => s.softS s.here (s.cx.wOff i.toNat) 8)).sum

/-- Read scalar registers and go on: X_ECC for an uncorrectable error, and then no corrected one of the others is counted, else the rest runs (06 R118, R119). DESIGN CHOICE, log entry 121. -/
def reading (rs : List (BitVec 4)) (s : State) (k : State → Out) : Out :=
  match s.regBad rs with
  | some a => trap s xEcc (toWord a)
  | none => counting (s.softRegs rs) s (k s)

end Sys2Proof.Machine
end

