-- ==== Sys2Proof/Machine/Log.lean ====
section
/-! DEFINITION. The receive log of a core (28 R407) and the delay accounts (28 R409). -/

namespace Sys2Proof.Machine

/-- Kinds of logged events, in the order of R407. -/
def rxDeposit : Nat := 1
def rxWrite : Nat := 2
def rxAnswer : Nat := 3
def rxWake : Nat := 4
def rxPort : Nat := 5
def rxBcast : Nat := 6
def rxSteal : Nat := 7
def rxAccess : Nat := 8

/-- Where an event comes from: group, device, VCORE (28 R407). -/
structure Origin where
  group : Nat
  dev : Nat
  vcore : Nat
  deriving DecidableEq, Repr

/-- An event of the device's own member. -/
def State.byMember (s : State) (h v : Nat) : Origin := ⟨h, s.devNum, v⟩

/-- An event of the member of a group that stands on a core (28 R407). -/
def State.byCore (s : State) (core h : Nat) : Origin := s.byMember h ((s.vcoreOn h core).getD 0)

/-- An event of another device, of which this one is told no sender: free values. DESIGN CHOICE, log entry 10. -/
def byFar (id : Nat) : Origin :=
  let w (i : Nat) : Nat := (Config.freeWord id i).toNat
  ⟨w 2, w 3, w 4⟩

/-- Log one inbound event of a core in its log area, in the form its tenant's policy permits; a full area stops the log, sets the overflow mark and tells the host (28 R407, 27 R391). Data beyond 8 bytes follow in extension entries. -/
def State.logRx (s : State) (core kind : Nat) (o : Origin) (val : Nat) (ext : List Byte) : State :=
  let k := s.core core
  let l := k.log
  let part := s.clusterPart (clusterOf core)
  let g := s.gran part 3
  let ext := if g = 3 then ext else []
  let n := 1 + (ext.length + 31) / 32
  if ¬ l.on ∨ l.ovf ∨ g = 0 then s
  else if g = 1 then s.markPresent part 3
  else if l.size < (l.used + n) * 32 then
    (s.setCore core { k with log := { l with ovf := true } }).tell [2, core]
  else
    let a := l.base + 32 * l.used
    let s := s.wrH a 8 (if g = 3 then l.cyc else coarseTime (s.kexp part 3) l.cyc)
    let s := s.wrH (a + 8) 8 (if g = 3 then kind * 2 ^ 56 + (ext.length % 2 ^ 24) * 2 ^ 32 + l.ord % 2 ^ 32 else 0)
    let s := s.wrH (a + 16) 8 (o.group % 2 ^ 32 * 2 ^ 32 + o.dev % 2 ^ 18 * 2 ^ 13 + o.vcore % 2 ^ 13)
    let s := s.wrH (a + 24) 8 (if g = 3 then val else 0)
    let s := { s with hbm := writeBytes s.hbm (a + 32) ext }
    s.setCore core { k with log := { l with used := l.used + n, ord := l.ord + 1 } }

/-- Doubleword `i` of some bytes. -/
def dwOf (bs : List Byte) (i : Nat) : Nat :=
  ((upTo 8).map (fun k => ((bs.getD (8 * i + k) 0).toNat) * 256 ^ k)).sum

/-- Log bytes written to the scratchpad by an engine or another core: the offset, with bit 63 where the words' tags are set full, and the bytes. DESIGN CHOICE, log entry 78. -/
def State.logWrite (s : State) (core kind : Nat) (o : Origin) (off : Nat) (full : Bool) (bs : List Byte) : State :=
  s.logRx core kind o (off + (if full then 2 ^ 63 else 0)) bs

/-- The words of a core's scratchpad whose bytes or tag two states tell apart. -/
def State.changedWords (s t : State) (core : Nat) : List Nat :=
  let cells (l : List Host.Cell) : List Nat := l.filterMap (fun c => if c.1 / 131072 = core then some (c.1 % 131072 / 8 * 8) else none)
  let tags (l : List Nat) : List Nat := l.filterMap (fun w => if w / 16384 = core then some (w % 16384 * 8) else none)
  (cells s.spad ++ cells t.spad ++ tags s.tags ++ tags t.tags).eraseDups.filter (fun off =>
    s.rdS core off 8 != t.rdS core off 8 || s.full core off != t.full core off)

/-- Log what has changed in a core's scratchpad from one state to the next, one entry for each word: bit 63 of VAL where its tag has become full, bit 62 where it has become empty (28 R407). DESIGN CHOICE, log entry 78. -/
def State.logDiff (s t : State) (core kind : Nat) (o : Origin) : State :=
  if ¬ (t.core core).log.on then t
  else
    (s.changedWords t core).foldl (fun u off =>
      let tag := if s.full core off = t.full core off then 0 else if t.full core off then 2 ^ 63 else 2 ^ 62
      u.logRx core kind o (off + tag) (leBytes 8 (t.rdS core off 8))) t

/-- Key of a sender in the delay accounts: SGRP, SDEV, SVC (28 R409). -/
def senderKey (sgrp sdev svc : Nat) : Nat := (sgrp * 2 ^ 18 + sdev) * 2 ^ 13 + svc

/-- The account kept for every sender beyond the first 256. -/
def overflowKey : Nat := 2 ^ 80

/-- Whether a core's table has, or has room for, the account of a sender (28 R409). -/
def Core.hasAccount (k : Core) (sender : Nat) : Bool := (mget k.delays sender).isSome || decide (k.delays.length < 256)

/-- The account of a sender is allocated when its first message arrives, as the tenant's policy permits (28 R409, 27 R391). -/
def State.openAccount (s : State) (core sender : Nat) : State :=
  let k := s.core core
  if s.gran (s.clusterPart (clusterOf core)) 1 < 2 ∨ (mget k.delays sender).isSome ∨ ¬ k.hasAccount sender then s
  else s.setCore core { k with delays := mput k.delays sender [0, 0, 0, 0, 0, 0] }

/-- Note a message's deposit: its sender, its transit and the time of deposit (28 R409). -/
def State.noteDeposit (s : State) (core slot sender sts : Nat) : State :=
  let s := s.openAccount core sender
  let k := s.core core
  let t := (s.time + 2 ^ 32 - sts % 2 ^ 32) % 2 ^ 32
  let k := if 2 ^ 31 ≤ t then { k with skew := min (k.skew + 1) 0xFFFFFFFF } else k
  s.setCore core { k with slotTimes := mput k.slotTimes slot [sender, if 2 ^ 31 ≤ t then 0 else t, s.time, 0, 0] }

/-- Note that a slot is taken: an RWAIT that returns it or a CPOP of its entry (28 R409). -/
def State.noteTaken (s : State) (core slot : Nat) : State :=
  let k := s.core core
  match mget k.slotTimes slot with
  | some [snd, tr, dep, 0, _] => s.setCore core { k with slotTimes := mput k.slotTimes slot [snd, tr, dep, 1, s.time] }
  | _ => s

/-- Note that a slot is given back: its three times go to the sender's account, as the tenant's policy permits: a coarse account holds rounded times, and a count that is rounded down to a power of two, beside the count itself, which no command reads (28 R409, 27 R391). DESIGN CHOICE, log entry 134. -/
def State.noteGiven (s : State) (core slot : Nat) : State :=
  let k := s.core core
  match mget k.slotTimes slot with
  | some [snd, tr, dep, tk, at_] =>
    let t := if tk = 1 then at_ else s.time
    let w := (t + 2 ^ 32 - dep % 2 ^ 32) % 2 ^ 32
    let r := (s.time + 2 ^ 32 - t % 2 ^ 32) % 2 ^ 32
    let key := if k.hasAccount snd then snd else overflowKey
    let old := mgetD k.delays key [0, 0, 0, 0, 0, 0]
    let sums (c : Nat → Nat) : List Nat :=
      [old.getD 1 0 + c tr, old.getD 2 0 + c w, old.getD 3 0 + c r, max (old.getD 4 0) (c tr + c w + c r)]
    let k := { k with slotTimes := mdel k.slotTimes slot }
    let s := s.setCore core k
    let part := s.clusterPart (clusterOf core)
    match s.gran part 1 with
    | 0 => s
    | 1 => s.markPresent part 1
    | 2 =>
      let n := old.getD 5 0 + 1
      s.setCore core { k with delays := mput k.delays key ([coarseCount n] ++ sums (coarseTime (s.kexp part 1)) ++ [n]) }
    | _ =>
      let n := old.getD 0 0 + 1
      s.setCore core { k with delays := mput k.delays key ([n] ++ sums id ++ [n]) }
  | _ => s

end Sys2Proof.Machine
end

