-- ==== Sys2Proof/Machine/Weave.lean ====
section
/-! DEFINITION. The outstanding counts of a context (09 R198). -/

namespace Sys2Proof.Machine

/-! ## Outstanding counts (09 R198) -/

/-- Number of different batches in a list of requests. DEDUCED, log entry 25. -/
def batches (l : List Req) : Nat := ((l.map (fun r => r.batch)).eraseDups).length

/-- Operations of class L: loads and atomics that do not go through the local window, LDD, BCAST (09 R198, 12 R260). -/
def State.classL (s : State) (cid : Nat) : Nat :=
  batches (s.reqs.filter (fun r => r.cid == cid && r.reads && r.open_ && decide (0x20000 ≤ r.va.toNat))) +
    (s.flights.filter (fun f => match f.cargo with
      | .ldd c _ _ _ _ _ _ _ => c == cid
      | .bcastReq _ c _ _ => c == cid
      | .bcastAns c _ _ => c == cid
      | _ => false)).length

/-- Whether a request is in class S: a store until its acknowledgement (08 R170), a reduction until it is performed, or until its failure is reported (08 R171, R176). DEDUCED, log entry 24. -/
def Req.inS (r : Req) : Bool :=
  match r.op with
  | .store _ => r.open_ && decide (0x20000 ≤ r.va.toNat)
  | .red _ _ _ _ => r.unperformed || r.phase == .failed
  | _ => false

/-- Operations of class S: stores that do not go through the local window, every RED, STD and FILLD, REDX, SEND (09 R198, 16 R298). DEDUCED, log entry 24. -/
def State.classS (s : State) (cid : Nat) : Nat :=
  batches (s.reqs.filter (fun r => r.cid == cid && r.inS)) +
    (s.flights.filter (fun f => match f.cargo with
      | .std c _ _ _ _ _ _ _ _ _ => c == cid
      | .contrib _ _ c => c.cid == cid && !c.accepted
      | .msg m _ => m.cid == cid
      | _ => false)).length

def State.classC (s : State) (cid : Nat) : Nat :=
  ((s.core (coreOfCid cid)).copies.filter (fun c => c.cid == cid)).length

def State.classM (s : State) (cid : Nat) : Nat :=
  ((s.core (coreOfCid cid)).mq.filter (fun o => o.cid == cid)).length

end Sys2Proof.Machine
end

