-- ==== Sys2Proof/Machine/Operands.lean ====
section
/-! DEFINITION. Operand checks and operand reads: the checks of the decode order that need the state (03 R69 to R74), and vector, mask and pair registers (05 R93, 07 R135, R136). -/

namespace Sys2Proof.Machine

/-- A pair field must be even (03 R69). -/
def odd (x : BitVec 4) : Bool := bitAt x.toNat 0

/-- A group field must be a multiple of the group size (03 R70). -/
def misgroup (x : BitVec 5) (n : Nat) : Bool := decide (x.toNat % n ≠ 0)

/-- Whether the context owns the tile that VD names (03 R71, 10 R201). -/
def ownsTile (c : Ctx) (vd : BitVec 5) : Bool := decide (vd.toNat < 4) && bitAt (c.fld 0x038 0 4) vd.toNat

/-- X_OPERAND where a condition holds. -/
def opIf (bad : Bool) : Option Nat := if bad then some xOperand else none

/-- X_NO_VECTOR in a context without the vector extension, before X_OPERAND (03 R72, R74). -/
def vecThen (s : State) (bad : Bool) : Option Nat := if ¬ s.cx.vx then some xNoVector else opIf bad

/-- X_PRIVILEGE of a read of a register that user mode may not read (05 R102, 28 R396). -/
def crPriv (s : State) (n : Nat) : Option Nat := if (n = 0x011 ∨ n = 0x023) ∧ ¬ s.cx.sup then some xPrivilege else none

/-- The checks of the decode order after X_ILLEGAL_OP, those that need no operand value: the cause that decides the trap (03 R69 to R74). -/
def decodeCause (s : State) (i : Instr) : Option Nat :=
  match i with
  | .nop _ _ => none
  | .add _ _ _ _ => none
  | .sub _ _ _ _ => none
  | .and _ _ _ _ => none
  | .or _ _ _ _ => none
  | .xor _ _ _ _ => none
  | .andn _ _ _ _ => none
  | .shl _ _ _ _ => none
  | .shr _ _ _ _ => none
  | .sar _ _ _ _ => none
  | .rol _ _ _ _ => none
  | .min _ _ _ _ => none
  | .max _ _ _ _ => none
  | .minN _ _ _ _ => none
  | .maxN _ _ _ _ => none
  | .slt _ _ _ _ => none
  | .sltN _ _ _ _ => none
  | .seq _ _ _ _ => none
  | .mul _ _ _ _ => none
  | .mulh _ _ _ _ => none
  | .mulhN _ _ _ _ => none
  | .div _ _ _ _ => none
  | .divN _ _ _ _ => none
  | .rem _ _ _ _ => none
  | .remN _ _ _ _ => none
  | .addw a b c _ => opIf (odd a || odd b || odd c)
  | .subw a b c _ => opIf (odd a || odd b || odd c)
  | .mulw a _ _ _ => opIf (odd a)
  | .adds _ _ _ _ => none
  | .subs _ _ _ _ => none
  | .clz _ _ _ _ => none
  | .ctz _ _ _ _ => none
  | .popc _ _ _ _ => none
  | .brev _ _ _ _ => none
  | .bswap _ _ _ _ => none
  | .addi _ _ _ _ => none
  | .andi _ _ _ _ => none
  | .ori _ _ _ _ => none
  | .xori _ _ _ _ => none
  | .shli _ _ _ _ => none
  | .shri _ _ _ _ => none
  | .sari _ _ _ _ => none
  | .roli _ _ _ _ => none
  | .muli _ _ _ _ => none
  | .slti _ _ _ _ => none
  | .sltiN _ _ _ _ => none
  | .seqi _ _ _ _ => none
  | .li _ _ _ _ => none
  | .lih _ _ _ _ => none
  | .liz _ _ _ _ => none
  | .la _ _ _ _ => none
  | .mov _ _ => none
  | .crr _ _ _ imm => crPriv s (bitsOf imm.toNat 0 12)
  | .crw _ _ _ imm => crPriv s (bitsOf imm.toNat 0 12)
  | .crs _ _ _ imm => crPriv s (bitsOf imm.toNat 0 12)
  | .crc _ _ _ imm => crPriv s (bitsOf imm.toNat 0 12)
  | .wpget _ _ _ _ => none
  | .wpset _ _ _ _ => none
  | .yield _ _ _ _ => none
  | .wfld _ _ _ _ => none
  | .sel _ _ _ _ => none
  | .selz _ _ _ _ => none
  | .jr _ _ _ _ => none
  | .callr _ _ _ _ => none
  | .b _ _ _ _ => none
  | .call _ _ _ _ => none
  | .bz _ _ _ _ => none
  | .bnz _ _ _ _ => none
  | .blt _ _ _ _ => none
  | .bge _ _ _ _ => none
  | .bltN _ _ _ _ => none
  | .bgeN _ _ _ _ => none
  | .ldB _ _ _ _ => none
  | .ldBn _ _ _ _ => none
  | .ldH _ _ _ _ => none
  | .ldHn _ _ _ _ => none
  | .ldW _ _ _ _ => none
  | .ldWn _ _ _ _ => none
  | .ldD _ _ _ _ => none
  | .ldQ a _ _ _ => opIf (odd a)
  | .stB _ _ _ _ => none
  | .stH _ _ _ _ => none
  | .stW _ _ _ _ => none
  | .stD _ _ _ _ => none
  | .stQ a _ _ _ => opIf (odd a)
  | .ldxB _ _ _ _ => none
  | .ldxBn _ _ _ _ => none
  | .ldxH _ _ _ _ => none
  | .ldxHn _ _ _ _ => none
  | .ldxW _ _ _ _ => none
  | .ldxWn _ _ _ _ => none
  | .ldxD _ _ _ _ => none
  | .ldxQ a _ _ _ => opIf (odd a)
  | .stxB _ _ _ _ => none
  | .stxH _ _ _ _ => none
  | .stxW _ _ _ _ => none
  | .stxD _ _ _ _ => none
  | .stxQ a _ _ _ => opIf (odd a)
  | .amoSwap _ _ _ _ => none
  | .amoAdd _ _ _ _ => none
  | .amoAnd _ _ _ _ => none
  | .amoOr _ _ _ _ => none
  | .amoXor _ _ _ _ => none
  | .amoMin _ _ _ _ => none
  | .amoMax _ _ _ _ => none
  | .amoMinN _ _ _ _ => none
  | .amoMaxN _ _ _ _ => none
  | .amoCas _ _ _ _ => none
  | .amoFadd _ _ _ _ => none
  | .fence _ _ _ _ => none
  | .fenceAcq _ _ _ _ => none
  | .fenceRel _ _ _ _ => none
  | .waitc _ _ _ _ _ _ => none
  | .redAdd _ _ _ _ => none
  | .redAnd _ _ _ _ => none
  | .redOr _ _ _ _ => none
  | .redXor _ _ _ _ => none
  | .redMin _ _ _ _ => none
  | .redMax _ _ _ _ => none
  | .redFadd _ _ _ _ => none
  | .ldf _ _ _ _ => none
  | .ldfe _ _ _ _ => none
  | .fill _ _ _ _ => none
  | .fillX _ _ _ _ => none
  | .empty _ _ _ _ => none
  | .feq _ _ _ _ => none
  | .pass _ _ _ _ => none
  | .take _ _ _ _ => none
  | .peek _ _ _ _ => none
  | .carm _ _ _ _ => none
  | .cdec _ _ _ _ => none
  | .cready _ _ _ _ => none
  | .cpop _ _ _ _ => none
  | .cdone _ _ _ _ => none
  | .send _ _ _ _ => none
  | .rpoll _ _ _ _ => none
  | .rwait _ _ _ _ => none
  | .radv _ _ _ _ => none
  | .rbind _ _ _ _ => none
  | .rclose _ _ _ _ => none
  | .qrec _ _ _ _ => none
  | .qthaw _ _ _ _ => none
  | .qfreeze _ _ _ _ => none
  | .barSync _ _ _ _ => none
  | .barArrive _ _ _ _ => none
  | .barWait _ _ _ _ => none
  | .dbarSync _ _ _ _ => none
  | .dbarArrive _ _ _ _ => none
  | .dbarWait _ _ _ _ => none
  | .lock _ _ _ _ => none
  | .trylock _ _ _ _ => none
  | .unlock _ _ _ _ => none
  | .heir _ _ _ _ => none
  | .disown _ _ _ _ => none
  | .estq _ _ _ _ => none
  | .ack _ _ _ _ => none
  | .convey _ _ _ _ => none
  | .fork _ _ _ _ => none
  | .rdv _ _ _ _ => none
  | .cpy _ _ _ _ => none
  | .cpyt _ _ _ _ => none
  | .cevq a _ _ _ => opIf (odd a)
  | .vadd _ _ _ _ _ _ _ => vecThen s false
  | .vsub _ _ _ _ _ _ _ => vecThen s false
  | .vmul _ _ _ _ _ _ _ => vecThen s false
  | .vmin _ _ _ _ _ _ _ => vecThen s false
  | .vmax _ _ _ _ _ _ _ => vecThen s false
  | .vand _ _ _ _ _ _ _ => vecThen s false
  | .vor _ _ _ _ _ _ _ => vecThen s false
  | .vxor _ _ _ _ _ _ _ => vecThen s false
  | .vshl _ _ _ _ _ _ _ => vecThen s false
  | .vshr _ _ _ _ _ _ _ => vecThen s false
  | .vsar _ _ _ _ _ _ _ => vecThen s false
  | .vadds _ _ _ _ _ _ _ => vecThen s false
  | .vsubs _ _ _ _ _ _ _ => vecThen s false
  | .vabs _ _ _ _ _ _ _ => vecThen s false
  | .vfadd _ _ _ _ _ _ _ => vecThen s false
  | .vfsub _ _ _ _ _ _ _ => vecThen s false
  | .vfmul _ _ _ _ _ _ _ => vecThen s false
  | .vfma _ _ _ _ _ _ _ => vecThen s false
  | .vfmin _ _ _ _ _ _ _ => vecThen s false
  | .vfmax _ _ _ _ _ _ _ => vecThen s false
  | .vrcp _ _ _ _ _ _ _ => vecThen s false
  | .vrsq _ _ _ _ _ _ _ => vecThen s false
  | .vexp2 _ _ _ _ _ _ _ => vecThen s false
  | .vlog2 _ _ _ _ _ _ _ => vecThen s false
  | .vfneg _ _ _ _ _ _ _ => vecThen s false
  | .vfabs _ _ _ _ _ _ _ => vecThen s false
  | .vcmpEq _ _ _ _ _ _ _ => vecThen s false
  | .vcmpLt _ _ _ _ _ _ _ => vecThen s false
  | .vcmpLe _ _ _ _ _ _ _ => vecThen s false
  | .vcmpNe _ _ _ _ _ _ _ => vecThen s false
  | .vblend _ _ _ _ _ _ _ => vecThen s false
  | .kand _ _ _ _ _ _ _ => vecThen s false
  | .kor _ _ _ _ _ _ _ => vecThen s false
  | .kxor _ _ _ _ _ _ _ => vecThen s false
  | .knot _ _ _ _ _ _ _ => vecThen s false
  | .kpop _ _ _ _ _ _ _ => vecThen s false
  | .vcvt _ _ _ _ _ _ _ => vecThen s false
  | .vpack _ _ _ va _ _ md => vecThen s (misgroup va (if md = 0 then 4 else 2))
  | .vunpk _ _ vd _ _ _ md => vecThen s (misgroup vd (if bitsOf md.toNat 0 2 = 0 then 4 else 2))
  | .vrnd _ _ _ _ _ _ _ => vecThen s false
  | .vld _ _ _ _ _ _ _ => vecThen s false
  | .vst _ _ _ _ _ _ _ => vecThen s false
  | .vlds _ _ _ _ _ _ _ => vecThen s false
  | .vsts _ _ _ _ _ _ _ => vecThen s false
  | .vgath _ _ _ _ _ _ _ => vecThen s false
  | .vscat _ _ _ _ _ _ _ => vecThen s false
  | .vstk _ _ _ _ _ _ _ => vecThen s false
  | .vldb _ _ _ _ _ _ _ => vecThen s false
  | .vshuf _ _ _ _ _ _ _ => vecThen s false
  | .vbcast _ _ _ _ _ _ _ => vecThen s false
  | .vext _ _ _ _ _ _ _ => vecThen s false
  | .vrot _ _ _ _ _ _ _ => vecThen s false
  | .vins _ _ _ _ _ _ _ => vecThen s false
  | .vscanAdd _ _ _ _ _ _ _ => vecThen s false
  | .vscanMax _ _ _ _ _ _ _ => vecThen s false
  | .vscanLin _ _ vd va _ _ _ => vecThen s (misgroup vd 2 || misgroup va 2)
  | .vredAdd _ _ _ _ _ _ _ => vecThen s false
  | .vredMax _ _ _ _ _ _ _ => vecThen s false
  | .vcarry _ _ _ va _ _ md => vecThen s (md == 2 && misgroup va 2)
  | .rep _ _ _ _ => vecThen s false
  | .mma _ _ vd va vb _ _ => vecThen s (!ownsTile s.cx vd || misgroup va 4 || misgroup vb 4)
  | .mmau _ _ vd _ vb _ _ => vecThen s (!ownsTile s.cx vd || misgroup vb 4)
  | .mmas _ _ vd va vb _ _ => vecThen s (!ownsTile s.cx vd || misgroup va 4 || misgroup vb 4)
  | .mmaus _ _ vd _ vb _ _ => vecThen s (!ownsTile s.cx vd || misgroup vb 4)
  | .mzero _ _ vd _ _ _ _ => vecThen s (!ownsTile s.cx vd)
  | .mlda _ _ vd _ _ _ _ => vecThen s (!ownsTile s.cx vd)
  | .msta _ _ vd _ _ _ _ => vecThen s (!ownsTile s.cx vd)
  | .mstm _ _ vd _ _ _ _ => vecThen s (!ownsTile s.cx vd)
  | .mdrain _ _ vd _ _ _ md => vecThen s (md == 0 && !ownsTile s.cx vd)
  | .launch _ _ _ _ => none
  | .exit _ _ _ _ => none
  | .kill _ _ _ _ => none
  | .gstat _ _ _ _ => none
  | .fstep _ _ _ _ => none
  | .tick _ _ _ _ => none
  | .rfade _ _ _ _ => none
  | .rinit _ _ _ _ => none
  | .rwgt _ _ _ _ => none
  | .bcast _ _ _ _ => none
  | .bacc _ _ _ _ => none
  | .bwait _ _ _ _ => none
  | .bseq _ _ _ _ => none
  | .ldd _ _ _ _ => none
  | .std _ _ _ _ => none
  | .redx _ _ _ _ => none
  | .lnkctlRnew _ _ _ => none
  | .lnkctlRfree _ _ _ => none
  | .lnkctlPark _ _ _ => none
  | .lnkctlLight _ _ _ => none
  | .lnkctlRetrain _ _ _ => none
  | .pbind _ _ _ _ => none
  | .punbind _ _ _ _ => none
  | .pstat _ _ _ _ => none
  | .lnkstat _ _ _ _ => none
  | .filld _ _ _ _ => none
  | .trap _ _ _ _ => none
  | .tret _ _ _ _ => none
  | .break _ _ _ _ => none
  | .wfm _ _ _ _ => none
  | .time _ _ _ _ => none
  | .capr _ _ _ _ => none
  | .migrate _ _ _ _ => none
  | .probeStop _ _ _ => none
  | .probeResume _ _ _ => none
  | .probeStep _ _ _ => none
  | .probeRarm _ _ _ => none
  | .probeRtrig _ _ _ => none
  | .probeCkpt _ _ _ => none
  | .halt _ _ _ _ => none
  | .qbaseWrite _ _ => none
  | .portbWrite _ _ => none
  | .barrierRegisterWrite _ _ _ => none
  | .satcntWrite _ _ => none
  | .fadeEtaWrite _ _ _ => none
  | .bmodeWrite _ _ => none
  | .pctlWrite _ _ => none
  | .fprogvAbandon _ => none
  | .deferredTrap _ => none
  | .resultLands _ => none
  | .tileOpTaken _ => none
  | .tileOpComplete _ _ => none
  | .pageWalkComplete _ => none
  | .withyPass _ _ => none
  | .requestPerform _ => none
  | .responseArrival _ => none
  | .wakeArrival _ => none
  | .longWaitExpiry _ => none
  | .cpopParkExpiry _ => none
  | .bcastRequestArrival _ => none
  | .bcastAnswerArrival _ => none
  | .broadcastReceive _ => none
  | .broadcastAccept _ => none
  | .sweepWalk _ => none
  | .retirementReportArrival _ => none
  | .messageArrival _ => none
  | .ringRefusalRetry _ => none
  | .bounceArrival _ => none
  | .counterDecrement _ => none
  | .stealRound _ => none
  | .portDeposit _ => none
  | .portAck _ => none
  | .barrierArrivalHop _ => none
  | .barrierReleaseHop _ => none
  | .dbarTokenArrival _ => none
  | .copyCommandStart _ => none
  | .copyCommandComplete _ _ => none
  | .migrationArrival _ => none
  | .placementUpdate _ => none
  | .placementUpdateAck _ => none
  | .requestRedirect _ => none
  | .memberMoveInstall _ _ => none
  | .groupPlacement _ => none
  | .estateWalkStart _ => none
  | .estateWalkHolding => none
  | .watchdogCheck _ => none
  | .lddAnswer _ => none
  | .lddTimeout _ => none
  | .remoteStoreTimeout _ => none
  | .remoteAccessPerform _ => none
  | .dataFlitReceive _ _ _ _ => none
  | .nackReceive _ _ => none
  | .ackReceive _ _ => none
  | .widthControlReceive _ _ => none
  | .errorWindowEnd _ _ => none
  | .lossOfLight _ _ => none
  | .lockReached _ _ => none
  | .wakeTimeout _ _ => none
  | .trainingPass _ _ => none
  | .retrainTimeout _ _ => none
  | .multicastForward _ => none
  | .reductionContribution _ => none
  | .reductionTimeout _ => none
  | .relayForward _ _ => none
  | .sourceItem _ _ => none
  | .recorderFreeze _ => none
  | .replayInject _ => none
  | .grantExpiry _ => none
  | .planeDarkEffect _ => none
  | .thermalTrip _ => none
  | .supplyLoss => none
  | .deviceReset => none
  | .unsupportedPacket _ => none
  | .bulkWrite _ _ => none
  | .bulkRead _ _ => none
  | .image _ _ => none
  | .root _ => none
  | .invalidate _ _ _ => none
  | .routing _ _ _ => none
  | .handle _ _ _ => none
  | .linkErrt _ => none
  | .wavelengthReset _ _ => none
  | .partitionCreate _ _ _ _ => none
  | .partitionDestroy _ => none
  | .policy _ _ _ => none
  | .stream _ _ _ => none
  | .hostLaunch _ _ => none
  | .hostKill _ => none
  | .save _ => none
  | .move _ _ => none
  | .resume _ _ => none
  | .powerCluster _ _ => none
  | .planeLight _ => none
  | .planeDarken _ => none
  | .powerStack _ _ => none
  | .wavelengthPark _ _ _ => none
  | .wavelengthLight _ _ _ => none
  | .wavelengthRetrain _ _ _ => none
  | .powerPort _ _ _ => none
  | .grantIssue _ _ _ => none
  | .grantRevoke _ => none
  | .timeAdjust _ => none
  | .hostProbe _ _ _ _ => none
  | .record _ _ _ => none
  | .readout _ _ _ => none
  | .blackBoxRead => none
  | .estateRead _ _ => none
  | .quote _ _ => none
  | .powerTransitionComplete _ _ => none

/-- Make those checks, then go on: X_PRIVILEGE carries the register's number, the others head | tail << 16 (03 R74, 05 R103). -/
def checked (i : Instr) (s : State) (k : Out) : Out :=
  match decodeCause s i with
  | some c =>
    if c = xPrivilege then
      match encode i with
      | some (_, t) => trap s c (toWord (bitsOf t 0 12))
      | none => trap s c 0
    else trap s c (s.asWritten (encWord i))
  | none => k

/-! ## Which vector registers an instruction names -/

/-- Group sizes of VD, VA and VB by major, minor and MOD; 0 where the field names no vector register or is ignored (03 R70, 07, 10 R212). -/
def vecUse (maj minor md : Nat) : Nat × Nat × Nat :=
  match maj with
  | 0x30 => (1, 1, if minor = 13 then 0 else 1)
  | 0x31 => (1, 1, if minor ≤ 5 then 1 else 0)
  | 0x32 => if minor ≤ 3 then (0, 1, 1) else if minor = 4 then (1, 1, 1) else (0, 0, 0)
  | 0x33 =>
    match minor with
    | 0 => (1, 1, 0)
    | 1 => (1, if md % 4 = 0 then 4 else 2, 0)
    | 2 => (if md % 4 = 0 then 4 else 2, 1, 0)
    | _ => if md % 4 = 2 then (0, 0, 1) else (1, 0, 0)
  | 0x34 => if minor ≤ 3 then (1, 0, 0) else if minor ≤ 5 then (1, 0, 1) else (0, 0, 0)
  | 0x35 =>
    match minor with
    | 0 => (1, 1, 1)
    | 1 => (1, 0, 0)
    | 2 => (0, 1, 0)
    | 3 => (1, 1, 0)
    | _ => (1, 0, 0)
  | 0x36 =>
    match minor with
    | 0 | 1 => (1, 1, 0)
    | 2 => (2, 2, 0)
    | 3 | 4 => (0, 1, 0)
    | _ => (1, if md % 4 = 2 then 2 else 1, 0)
  | 0x38 => (0, if minor % 2 = 0 then 4 else 0, 4)
  | _ => (0, 0, 0)

/-- Whether VD is written (the stores of VMEM read it). -/
def vdWritten (maj minor : Nat) : Bool := !(maj == 0x34 && (minor == 1 || minor == 3 || minor == 5))

/-! ## Which scalar and mask registers it names -/

/-- The scalar registers that an instruction writes, by its fields (06 R121, 07 R152). -/
def scalarDst (h t : Nat) : List Nat :=
  let maj := bitsOf h 2 6
  let minor := if h % 4 = 2 then bitsOf t 26 6 else bitsOf t 10 6
  let a := bitsOf h 12 4
  let b := bitsOf h 8 4
  let one (p : Bool) : List Nat := if p then [a] else []
  let pair := [a / 2 * 2, a / 2 * 2 + 1]
  match maj with
  | 0x0F => if minor = 1 then [15] else []
  | 0x11 => [15]
  | 0x01 => if 24 ≤ minor ∧ minor ≤ 26 then pair else [a]
  | 0x02 | 0x03 | 0x04 | 0x07 | 0x20 | 0x2C => [a]
  | 0x05 => one (minor == 0 || minor == 2 || minor == 3)
  | 0x06 => one (minor == 0 || minor == 3)
  | 0x18 | 0x1A => if minor = 7 then pair else [a]
  | 0x24 => one (minor == 0 || minor == 1 || minor == 5)
  | 0x25 => if minor = 1 then [a] else if minor = 2 then [a, b] else []
  | 0x28 => if minor = 3 then [a, b] else one (minor == 1 || minor == 2)
  | 0x29 => one (minor == 1 || minor == 2)
  | 0x2A => one (minor == 0)
  | 0x2D => one (minor ≤ 1)
  | 0x2E => one (minor == 0 || minor == 2)
  | 0x2F => if minor = 4 then pair else one (minor ≤ 1)
  | 0x32 => one (minor == 9)
  | 0x35 => one (minor == 2)
  | 0x36 => one (minor == 3 || minor == 4)
  | 0x3B => one (minor == 0 || minor == 2 || minor == 3)
  | 0x3C => one (minor == 1 || minor == 4)
  | 0x3D => one (minor == 0 || minor == 1 || minor == 3)
  | 0x3E => one (minor == 0 || (2 ≤ minor && minor ≤ 7))
  | 0x3F => one (3 ≤ minor && minor ≤ 7)
  | _ => []

/-- The scalar registers that an instruction reads, by its fields (06 R121). -/
def scalarSrc (h t : Nat) : List Nat :=
  let maj := bitsOf h 2 6
  let minor := if h % 4 = 2 then bitsOf t 26 6 else bitsOf t 10 6
  let a := bitsOf h 12 4
  let b := bitsOf h 8 4
  let c := if h % 4 = 2 then bitsOf t 22 4 else bitsOf t 6 4
  let pair (x : Nat) : List Nat := [x / 2 * 2, x / 2 * 2 + 1]
  match maj with
  | 0x01 => if minor = 24 ∨ minor = 25 then pair b ++ pair c else if 29 ≤ minor then [b] else [b, c]
  | 0x02 | 0x04 | 0x18 => [b]
  | 0x03 => if bitsOf t 42 6 = 1 then [a] else []
  | 0x05 => if minor = 0 then [] else if minor = 1 then [a] else [b]
  | 0x06 => if minor = 1 then [a] else if minor = 3 then [b] else []
  | 0x07 => [b, c, bitsOf t 0 4]
  | 0x0F | 0x12 | 0x13 => [a]
  | 0x14 | 0x15 | 0x16 | 0x17 => [a, b]
  | 0x19 => if minor = 4 then b :: pair a else [a, b]
  | 0x1A | 0x23 => [b, c]
  | 0x1B => if minor = 4 then b :: c :: pair a else [a, b, c]
  | 0x20 => if minor = 9 then [a, b, c] else [b, c]
  | 0x24 => if minor = 2 ∨ minor = 3 then [a, b] else [b]
  | 0x25 => if minor = 0 then [a] else []
  | 0x28 => if minor = 0 then [a, b] else if minor = 3 then [] else if minor = 4 then [a] else [b]
  | 0x29 => if minor = 0 then [b, c] else if minor = 3 then [a] else if minor = 4 then [b] else []
  | 0x2A => if minor = 2 then [a] else []
  | 0x2C => if minor = 2 then [a] else if minor = 3 ∨ minor = 4 then [b] else if minor = 5 then [a, b] else []
  | 0x2D | 0x3B => if maj = 0x3B ∧ minor = 1 then [] else [b]
  | 0x2E => if minor = 0 then [b, c] else [b]
  | 0x2F => if minor = 0 then [b, c] else if minor = 1 then [a] else if minor = 4 then [] else [a, b]
  | 0x33 =>
    let md := bitsOf t 0 8
    if minor = 3 then [a, b] else if (minor = 1 ∨ minor = 2) ∧ md % 4 = 2 then [a] else []
  | 0x34 => if minor = 2 ∨ minor = 3 then [a, b] else [a]
  | 0x35 => if minor = 1 ∨ minor = 4 then [a] else []
  | 0x36 => if minor = 5 then [a] else []
  | 0x37 => [c]
  | 0x39 => if minor = 3 then [a, b] else if minor = 1 ∨ minor = 2 then [a] else []
  | 0x3C => if minor = 0 ∨ minor = 3 then [a, b] else if minor = 1 then [] else if minor = 4 then [b, c] else [b]
  | 0x3D => if minor = 0 then [b] else []
  | 0x3E => if minor = 0 then [b, c] else if minor = 1 ∨ minor = 8 then [a, b, c] else [b]
  | 0x3F => if minor = 0 then [a] else if minor = 3 ∨ (5 ≤ minor ∧ minor ≤ 7) then [b] else []
  | _ => []

/-- The mask registers that an instruction reads or writes, by its fields: the governing one, and those in VD, VA and VB (07 R136, R137). -/
def maskUse (h t : Nat) : List Nat :=
  let maj := bitsOf h 2 6
  let minor := bitsOf t 26 6
  let k := bitsOf t 8 3
  let d := bitsOf t 21 5
  let a := bitsOf t 16 5
  let b := bitsOf t 11 5
  (if 0x30 ≤ maj ∧ maj ≤ 0x36 ∧ k ≠ 0 then [k] else []) ++
    (match maj with
     | 0x32 => if minor ≤ 3 then [d] else if minor = 4 then [] else if minor ≤ 7 then [d, a, b] else if minor = 8 then [d, a] else [a]
     | 0x33 => if minor = 3 ∧ bitsOf t 0 8 % 4 = 2 then [d] else []
     | 0x34 => if minor = 6 then [a] else if minor = 7 then [d] else []
     | _ => [])

/-- A body instruction's tail with each vector field advanced by `n` registers (07 R152). -/
def staggerTail (h t n : Nat) : Nat :=
  let (d, a, b) := vecUse (bitsOf h 2 6) (bitsOf t 26 6) (bitsOf t 0 8)
  t + (if d = 0 then 0 else n * 2097152) + (if a = 0 then 0 else n * 65536) + (if b = 0 then 0 else n * 2048)

/-- Whether a staggered field stays below v32 and on its group (03 R70, R73). -/
def fieldFits (g x n : Nat) : Bool := g == 0 || decide (x + n + g ≤ 32 ∧ (x + n) % g = 0)

/-- Whether every register a body instruction names in a pass is a register (03 R73). -/
def staggerFits (h t n : Nat) : Bool :=
  let (d, a, b) := vecUse (bitsOf h 2 6) (bitsOf t 26 6) (bitsOf t 0 8)
  fieldFits d (bitsOf t 21 5) n && fieldFits a (bitsOf t 16 5) n && fieldFits b (bitsOf t 11 5) n

/-! ## Vector and mask registers -/

/-- The sixteen lanes of a vector register (07 R135). -/
def State.v (s : State) (r : Nat) : List Nat := (upTo 16).map (fun j => s.rdS s.here (s.cx.vOff r + 4 * j) 4)

/-- A mask register (07 R136). -/
def State.k (s : State) (r : Nat) : Nat := s.rdS s.here (s.cx.kOff r) 2

/-- Write some lanes of a vector register: those that hold a value (07 R136, R137). -/
def State.setV (s : State) (r : Nat) (vals : List (Option Nat)) : State :=
  (vals.zip (upTo 16)).foldl (fun s x =>
    match x.1 with
    | some v => s.wrS s.here (s.cx.vOff r + 4 * x.2) 4 v
    | none => s) s

/-- Write a mask register. -/
def State.setK (s : State) (r v : Nat) : State := s.wrS s.here (s.cx.kOff r) 2 v

/-- Whether a lane is active under the K field (07 R136). -/
def State.active (s : State) (k : BitVec 3) (j : Nat) : Bool := k == 0 || bitAt (s.k k.toNat) j

/-- Read vector and mask words and go on: X_ECC for an uncorrectable error, corrected ones are counted (06 R119 applied to vector words, 07 R139). -/
def readingV (offs : List (Nat × Nat)) (s : State) (k : State → Out) : Out :=
  match pick (fun o => (s.badS s.here o.1 o.2).isSome) offs with
  | some o => trap s xEcc (toWord ((s.badS s.here o.1 o.2).getD 0))
  | none => counting ((offs.eraseDups.map (fun o => s.softS s.here o.1 o.2)).sum) s (k s)

/-- The bytes of the vector group and the governing mask that an instruction reads. -/
def Ctx.vBytes (c : Ctx) (r n : Nat) : Nat × Nat := (c.vOff r, 64 * n)
def Ctx.kBytes (c : Ctx) (r : Nat) : Nat × Nat := (c.kOff r, 2)

end Sys2Proof.Machine
end

