-- ==== Sys2Proof/Machine/Scalar.lean ====
section
/-! DEFINITION. The scalar instructions (06): majors 0x00 to 0x04, 0x07, 0x0F and 0x10 to 0x17. -/

namespace Sys2Proof.Machine

/-! ## Results of the ALU (06 R123 to R125) -/

def minS (x y : Word) : Word := if x.slt y then x else y
def maxS (x y : Word) : Word := if x.slt y then y else x
def minN (x y : Word) : Word := if x.toNat < y.toNat then x else y
def maxN (x y : Word) : Word := if x.toNat < y.toNat then y else x

/-- 1 or 0. -/
def flag (p : Bool) : Word := if p then 1 else 0

/-- High half of the signed 128-bit product. -/
def mulHigh (x y : Word) : Word := BitVec.ofInt 64 (x.toInt * y.toInt / 2 ^ 64)

/-- High half of the natural 128-bit product. -/
def mulHighN (x y : Word) : Word := toWord (x.toNat * y.toNat / 2 ^ 64)

/-- Signed quotient: all ones for a zero divisor; -2^63 by -1 gives the dividend (06 R124). -/
def divS (x y : Word) : Word := if y = 0 then -1 else BitVec.ofInt 64 (x.toInt.tdiv y.toInt)

/-- Natural quotient (06 R124). -/
def divN (x y : Word) : Word := if y = 0 then -1 else toWord (x.toNat / y.toNat)

/-- Signed remainder: the dividend for a zero divisor (06 R124). -/
def remS (x y : Word) : Word := if y = 0 then x else BitVec.ofInt 64 (x.toInt.tmod y.toInt)

/-- Natural remainder (06 R124). -/
def remN (x y : Word) : Word := if y = 0 then x else toWord (x.toNat % y.toNat)

/-- A signed result clamped to 64 bits; not counted (06 R123, 02 R20). -/
def clamp64 (i : Int) : Word := BitVec.ofInt 64 (clampInt (-(2 ^ 63)) (2 ^ 63 - 1) i).1

def addSat (x y : Word) : Word := clamp64 (x.toInt + y.toInt)
def subSat (x y : Word) : Word := clamp64 (x.toInt - y.toInt)

/-- Leading zero bits among the low `n`. -/
def clzGo : Nat → Nat → Nat
  | 0, _ => 0
  | n + 1, x => if bitAt x n then 0 else 1 + clzGo n x

/-- Trailing zero bits of the `n` bits from bit 64 - n. -/
def ctzGo : Nat → Nat → Nat
  | 0, _ => 0
  | n + 1, x => if x % 2 = 1 then 0 else 1 + ctzGo n (x / 2)

/-- Number of 1 bits among the low `n`. -/
def popGo : Nat → Nat → Nat
  | 0, _ => 0
  | n + 1, x => x % 2 + popGo n (x / 2)

/-- The low `n` bits in reverse order. -/
def revGo : Nat → Nat → Nat
  | 0, _ => 0
  | n + 1, x => x % 2 * 2 ^ n + revGo n (x / 2)

/-- The low `n` bytes in reverse order. -/
def swapGo : Nat → Nat → Nat
  | 0, _ => 0
  | n + 1, x => x % 256 * 256 ^ n + swapGo n (x / 256)

def clz (x : Word) : Word := toWord (clzGo 64 x.toNat)
def ctz (x : Word) : Word := toWord (ctzGo 64 x.toNat)
def popc (x : Word) : Word := toWord (popGo 64 x.toNat)
def brev (x : Word) : Word := toWord (revGo 64 x.toNat)
def bswap (x : Word) : Word := toWord (swapGo 8 x.toNat)

/-- Shift amounts use the low six bits only (06 R123). -/
def sh6 (y : Word) : Nat := y.toNat % 64

/-! ## The forms -/

/-- wA = f wB wC (06 R118, R123). -/
def alu2 (f : Word → Word → Word) (a b c : BitVec 4) (s : State) : Out :=
  reading [b, c] s fun s => done (s.setW a (f (s.w b) (s.w c)))

/-- wA = f wB (06 R123). -/
def alu1 (f : Word → Word) (a b : BitVec 4) (s : State) : Out :=
  reading [b] s fun s => done (s.setW a (f (s.w b)))

/-- wA = f wB imm, the immediate sign-extended (06 R127). -/
def aluI (f : Word → Word → Word) (a b : BitVec 4) (imm : BitVec 22) (s : State) : Out :=
  reading [b] s fun s => done (s.setW a (f (s.w b) (imm.signExtend 64)))

/-- The register after an even one (03 R69). -/
def pairHi (a : BitVec 4) : BitVec 4 := a + 1

/-- A 128-bit register pair (03 R69). -/
def State.wPair (s : State) (a : BitVec 4) : Nat := (s.w (pairHi a)).toNat * 2 ^ 64 + (s.w a).toNat

/-- Write a 128-bit result to a pair (03 R69). -/
def State.setPair (s : State) (a : BitVec 4) (v : Nat) : State :=
  (s.setW a (toWord v)).setW (pairHi a) (toWord (v / 2 ^ 64))

/-- 128-bit sum or difference of pairs (06 R125). -/
def aluPair (f : Nat → Nat → Nat) (a b c : BitVec 4) (s : State) : Out :=
  reading [b, pairHi b, c, pairHi c] s fun s => done (s.setPair a (f (s.wPair b) (s.wPair c) % 2 ^ 128))

/-! ## ALU -/
/-- ADD (06 R123). -/
def execAdd (a b c : BitVec 4) (_imm : BitVec 6) (s : State) : Out := alu2 (fun x y => x + y) a b c s

/-- SUB (06 R123). -/
def execSub (a b c : BitVec 4) (_imm : BitVec 6) (s : State) : Out := alu2 (fun x y => x - y) a b c s

/-- AND (06 R123). -/
def execAnd (a b c : BitVec 4) (_imm : BitVec 6) (s : State) : Out := alu2 (fun x y => x &&& y) a b c s

/-- OR (06 R123). -/
def execOr (a b c : BitVec 4) (_imm : BitVec 6) (s : State) : Out := alu2 (fun x y => x ||| y) a b c s

/-- XOR (06 R123). -/
def execXor (a b c : BitVec 4) (_imm : BitVec 6) (s : State) : Out := alu2 (fun x y => x ^^^ y) a b c s

/-- ANDN (06 R123). -/
def execAndn (a b c : BitVec 4) (_imm : BitVec 6) (s : State) : Out := alu2 (fun x y => x &&& ~~~y) a b c s

/-- SHL (06 R123). -/
def execShl (a b c : BitVec 4) (_imm : BitVec 6) (s : State) : Out := alu2 (fun x y => x <<< sh6 y) a b c s

/-- SHR (06 R123). -/
def execShr (a b c : BitVec 4) (_imm : BitVec 6) (s : State) : Out := alu2 (fun x y => x >>> sh6 y) a b c s

/-- SAR (06 R123). -/
def execSar (a b c : BitVec 4) (_imm : BitVec 6) (s : State) : Out := alu2 (fun x y => x.sshiftRight (sh6 y)) a b c s

/-- ROL (06 R123). -/
def execRol (a b c : BitVec 4) (_imm : BitVec 6) (s : State) : Out := alu2 (fun x y => x.rotateLeft (sh6 y)) a b c s

/-- MIN (06 R123). -/
def execMin (a b c : BitVec 4) (_imm : BitVec 6) (s : State) : Out := alu2 (minS) a b c s

/-- MAX (06 R123). -/
def execMax (a b c : BitVec 4) (_imm : BitVec 6) (s : State) : Out := alu2 (maxS) a b c s

/-- MIN.n (06 R123). -/
def execMinN (a b c : BitVec 4) (_imm : BitVec 6) (s : State) : Out := alu2 (minN) a b c s

/-- MAX.n (06 R123). -/
def execMaxN (a b c : BitVec 4) (_imm : BitVec 6) (s : State) : Out := alu2 (maxN) a b c s

/-- SLT (06 R123). -/
def execSlt (a b c : BitVec 4) (_imm : BitVec 6) (s : State) : Out := alu2 (fun x y => flag (x.slt y)) a b c s

/-- SLT.n (06 R123). -/
def execSltN (a b c : BitVec 4) (_imm : BitVec 6) (s : State) : Out := alu2 (fun x y => flag (x.ult y)) a b c s

/-- SEQ (06 R123). -/
def execSeq (a b c : BitVec 4) (_imm : BitVec 6) (s : State) : Out := alu2 (fun x y => flag (x == y)) a b c s

/-- MUL (06 R123). -/
def execMul (a b c : BitVec 4) (_imm : BitVec 6) (s : State) : Out := alu2 (fun x y => x * y) a b c s

/-- MULH (06 R123). -/
def execMulh (a b c : BitVec 4) (_imm : BitVec 6) (s : State) : Out := alu2 (mulHigh) a b c s

/-- MULH.n (06 R123). -/
def execMulhN (a b c : BitVec 4) (_imm : BitVec 6) (s : State) : Out := alu2 (mulHighN) a b c s

/-- DIV (06 R123). -/
def execDiv (a b c : BitVec 4) (_imm : BitVec 6) (s : State) : Out := alu2 (divS) a b c s

/-- DIV.n (06 R123). -/
def execDivN (a b c : BitVec 4) (_imm : BitVec 6) (s : State) : Out := alu2 (divN) a b c s

/-- REM (06 R123). -/
def execRem (a b c : BitVec 4) (_imm : BitVec 6) (s : State) : Out := alu2 (remS) a b c s

/-- REM.n (06 R123). -/
def execRemN (a b c : BitVec 4) (_imm : BitVec 6) (s : State) : Out := alu2 (remN) a b c s

/-- ADDS (06 R123). -/
def execAdds (a b c : BitVec 4) (_imm : BitVec 6) (s : State) : Out := alu2 (addSat) a b c s

/-- SUBS (06 R123). -/
def execSubs (a b c : BitVec 4) (_imm : BitVec 6) (s : State) : Out := alu2 (subSat) a b c s

/-- CLZ (06 R123). -/
def execClz (a b _c : BitVec 4) (_imm : BitVec 6) (s : State) : Out := alu1 clz a b s

/-- CTZ (06 R123). -/
def execCtz (a b _c : BitVec 4) (_imm : BitVec 6) (s : State) : Out := alu1 ctz a b s

/-- POPC (06 R123). -/
def execPopc (a b _c : BitVec 4) (_imm : BitVec 6) (s : State) : Out := alu1 popc a b s

/-- BREV (06 R123). -/
def execBrev (a b _c : BitVec 4) (_imm : BitVec 6) (s : State) : Out := alu1 brev a b s

/-- BSWAP (06 R123). -/
def execBswap (a b _c : BitVec 4) (_imm : BitVec 6) (s : State) : Out := alu1 bswap a b s

/-- ADDW (06 R125). -/
def execAddw (a b c : BitVec 4) (imm : BitVec 6) (s : State) : Out :=
  checked (.addw a b c imm) s (aluPair (fun x y => x + y) a b c s)

/-- SUBW (06 R125). -/
def execSubw (a b c : BitVec 4) (imm : BitVec 6) (s : State) : Out :=
  checked (.subw a b c imm) s (aluPair (fun x y => x + 2 ^ 128 - y) a b c s)

/-- MULW (06 R125). -/
def execMulw (a b c : BitVec 4) (imm : BitVec 6) (s : State) : Out :=
  checked (.mulw a b c imm) s (reading [b, c] s fun s => done (s.setPair a ((s.w b).toNat * (s.w c).toNat)))

/-! ## ALUI (06 R127) -/

/-- ADDI (06 R127). -/
def execAddi (a b _c : BitVec 4) (imm : BitVec 22) (s : State) : Out := aluI (fun x y => x + y) a b imm s

/-- ANDI (06 R127). -/
def execAndi (a b _c : BitVec 4) (imm : BitVec 22) (s : State) : Out := aluI (fun x y => x &&& y) a b imm s

/-- ORI (06 R127). -/
def execOri (a b _c : BitVec 4) (imm : BitVec 22) (s : State) : Out := aluI (fun x y => x ||| y) a b imm s

/-- XORI (06 R127). -/
def execXori (a b _c : BitVec 4) (imm : BitVec 22) (s : State) : Out := aluI (fun x y => x ^^^ y) a b imm s

/-- SHLI (06 R127). -/
def execShli (a b _c : BitVec 4) (imm : BitVec 22) (s : State) : Out := aluI (fun x y => x <<< sh6 y) a b imm s

/-- SHRI (06 R127). -/
def execShri (a b _c : BitVec 4) (imm : BitVec 22) (s : State) : Out := aluI (fun x y => x >>> sh6 y) a b imm s

/-- SARI (06 R127). -/
def execSari (a b _c : BitVec 4) (imm : BitVec 22) (s : State) : Out := aluI (fun x y => x.sshiftRight (sh6 y)) a b imm s

/-- ROLI (06 R127). -/
def execRoli (a b _c : BitVec 4) (imm : BitVec 22) (s : State) : Out := aluI (fun x y => x.rotateLeft (sh6 y)) a b imm s

/-- MULI (06 R127). -/
def execMuli (a b _c : BitVec 4) (imm : BitVec 22) (s : State) : Out := aluI (fun x y => x * y) a b imm s

/-- SLTI (06 R127). -/
def execSlti (a b _c : BitVec 4) (imm : BitVec 22) (s : State) : Out := aluI (fun x y => flag (x.slt y)) a b imm s

/-- SLTI.n (06 R127). -/
def execSltiN (a b _c : BitVec 4) (imm : BitVec 22) (s : State) : Out := aluI (fun x y => flag (x.ult y)) a b imm s

/-- SEQI (06 R127). -/
def execSeqi (a b _c : BitVec 4) (imm : BitVec 22) (s : State) : Out := aluI (fun x y => flag (x == y)) a b imm s

/-! ## Constants, moves, selection -/

/-- NOP (03 R54). -/
def execNop (_a _b : BitVec 4) (s : State) : Out := done s

/-- LI (06 R129). -/
def execLi (a _b _c : BitVec 4) (imm : BitVec 32) (s : State) : Out := done (s.setW a (imm.signExtend 64))

/-- LIH (06 R129): the upper half only. -/
def execLih (a _b _c : BitVec 4) (imm : BitVec 32) (s : State) : Out :=
  reading [a] s fun s => done (s.setW a (toWord (imm.toNat * 2 ^ 32 + (s.w a).toNat % 2 ^ 32)))

/-- LIZ (06 R129). -/
def execLiz (a _b _c : BitVec 4) (imm : BitVec 32) (s : State) : Out := done (s.setW a (imm.setWidth 64))

/-- LA (06 R129): its own PC, in a run of REP that of the body instruction. -/
def execLa (a _b _c : BitVec 4) (imm : BitVec 32) (s : State) : Out := done (s.setW a (s.cx.issuePc + imm.signExtend 64))

/-- MOV (06 R130). -/
def execMov (a b : BitVec 4) (s : State) : Out := reading [b] s fun s => done (s.setW a (s.w b))

/-- SEL (06 R131). -/
def execSel (a b c : BitVec 4) (imm : BitVec 6) (s : State) : Out :=
  let d : BitVec 4 := imm.setWidth 4
  reading [b, c, d] s fun s => done (s.setW a (if s.w d ≠ 0 then s.w b else s.w c))

/-- SELZ (06 R131). -/
def execSelz (a b c : BitVec 4) (imm : BitVec 6) (s : State) : Out :=
  let d : BitVec 4 := imm.setWidth 4
  reading [b, c, d] s fun s => done (s.setW a (if s.w d = 0 then s.w b else s.w c))

/-! ## Transfers of control (06 R132 to R134) -/

/-- JR (06 R133). -/
def execJr (a _b _c : BitVec 4) (_imm : BitVec 6) (s : State) : Out :=
  reading [a] s fun s => enterAndLink s (s.w a) false

/-- CALLR (06 R133). -/
def execCallr (a _b _c : BitVec 4) (_imm : BitVec 6) (s : State) : Out :=
  reading [a] s fun s => enterAndLink s (s.w a) true

/-- Target of a branch (03 R61). -/
def target (pc : Word) (disp : BitVec 27) (slot : BitVec 5) : Word :=
  toWord (pc.toNat / 64 * 64) + disp.signExtend 64 * 64 + toWord (2 * slot.toNat)

/-- B (06 R134). -/
def execB (_a _b : BitVec 4) (disp : BitVec 27) (slot : BitVec 5) (s : State) : Out :=
  enterAndLink s (target s.cx.pc disp slot) false

/-- CALL (06 R134). -/
def execCall (_a _b : BitVec 4) (disp : BitVec 27) (slot : BitVec 5) (s : State) : Out :=
  enterAndLink s (target s.cx.pc disp slot) true

/-- A conditional branch: the condition read at issue; not taken, it checks nothing at the target (03 R61, R76, 06 R134). -/
def branch (p : Word → Word → Bool) (rs : List (BitVec 4)) (a b : BitVec 4) (disp : BitVec 27) (slot : BitVec 5)
    (s : State) : Out :=
  reading rs s fun s => if p (s.w a) (s.w b) then enterAndLink s (target s.cx.pc disp slot) false else done s

/-- BZ (03 R76). -/
def execBz (a b : BitVec 4) (disp : BitVec 27) (slot : BitVec 5) (s : State) : Out :=
  branch (fun x _ => x == 0) [a] a b disp slot s

/-- BNZ (03 R76). -/
def execBnz (a b : BitVec 4) (disp : BitVec 27) (slot : BitVec 5) (s : State) : Out :=
  branch (fun x _ => x != 0) [a] a b disp slot s

/-- BLT (03 R76). -/
def execBlt (a b : BitVec 4) (disp : BitVec 27) (slot : BitVec 5) (s : State) : Out :=
  branch (fun x y => x.slt y) [a, b] a b disp slot s

/-- BGE (03 R76). -/
def execBge (a b : BitVec 4) (disp : BitVec 27) (slot : BitVec 5) (s : State) : Out :=
  branch (fun x y => !x.slt y) [a, b] a b disp slot s

/-- BLT.n (03 R76). -/
def execBltN (a b : BitVec 4) (disp : BitVec 27) (slot : BitVec 5) (s : State) : Out :=
  branch (fun x y => x.ult y) [a, b] a b disp slot s

/-- BGE.n (03 R76). -/
def execBgeN (a b : BitVec 4) (disp : BitVec 27) (slot : BitVec 5) (s : State) : Out :=
  branch (fun x y => !x.ult y) [a, b] a b disp slot s

end Sys2Proof.Machine
end

