-- ==== Sys2Proof/Machine/Issue.lean ====
section
/-! DEFINITION. From a context to the instruction it issues: the boundary's deferred work, the line, decoding, breakpoints, held registers and locks (03 R63, 05 R99, R112, 06 R121, 11 R226, 28 R401). -/

namespace Sys2Proof.Machine

/-! ## Acceptance of broadcasts (12 R248) -/

/-- Accept the oldest pending broadcast: SEQ, ATICK, PEND and HELD move, and the broadcast keeps its tick. -/
def Ctx.acceptOne (c : Ctx) : Ctx :=
  match c.pend with
  | [] => c
  | b :: r =>
    let tick := c.fld 0x040 0 32
    let c := { c with pend := r, held := c.held ++ [{ b with atick := tick }] }
    let c := c.setFld 0x044 0 8 (c.fld 0x044 0 8 + 1)
    let c := c.setFld 0x044 32 32 tick
    (c.setFld 0x044 8 3 r.length).setFld 0x044 16 3 c.held.length

/-- Accept every pending broadcast at one boundary. -/
def Ctx.acceptAll (c : Ctx) : Ctx := (upTo 4).foldl (fun c _ => c.acceptOne) c

/-- Whether the context accepts by itself: automatic mode, something pending, and not stopped (12 R248). -/
def Ctx.accepts (c : Ctx) : Bool :=
  c.fld 0x045 0 1 == 0 && !c.pend.isEmpty &&
    (match c.state with
     | .stopped _ _ => false
     | _ => true)

/-! ## Held registers and locks -/

/-- Bytes of the workspace that an instruction reads or writes as registers: its scalar, vector and mask registers (06 R121). DEDUCED, log entry 31. -/
def Ctx.named (c : Ctx) (h t : Nat) : List (Nat × Nat) :=
  let maj := bitsOf h 2 6
  (scalarDst h t ++ scalarSrc h t).map (fun r => (c.wOff r, 8)) ++
    (if h % 4 = 2 ∧ 0x30 ≤ maj ∧ maj ≠ 0x37 ∧ c.vx then
      let (d, a, b) := vecUse maj (bitsOf t 26 6) (bitsOf t 0 8)
      [(c.vOff (bitsOf t 21 5), 64 * d), (c.vOff (bitsOf t 16 5), 64 * a), (c.vOff (bitsOf t 11 5), 64 * b)] ++
        (maskUse h t).map (fun k => (c.kOff k, 2))
    else [])

/-- Whether an instruction waits: a register it names has a result outstanding or an earlier access or tile store of the strand on its way to it, it writes a locked register, or the core is stalled for a permit (05 R97, R99, 06 R121, 08 R166, 10 R220). -/
def State.held (s : State) (h t : Nat) : Bool :=
  let c := s.cx
  let maj := bitsOf h 2 6
  let (d, _, _) := vecUse maj (bitsOf t 26 6) (bitsOf t 0 8)
  s.permitStalled s.here ||
    touches (c.named h t) (s.dstBytes s.cur ++ s.onTheWay s.cur s.here ++ s.tileRanges s.cur) ||
    (decide (h % 4 = 2 ∧ 0x30 ≤ maj ∧ maj ≤ 0x36) && vdWritten maj (bitsOf t 26 6) &&
      touches [(c.vOff (bitsOf t 21 5), 64 * d)] (s.lockBytes s.cur))

/-! ## Breakpoints (28 R399 to R401) -/

/-- Trigger a die's issue recorder, for a match on a core where it records that core's cluster (28 R401, R406). -/
def State.trigger (s : State) (die : Nat) (cl : Option Nat) : State :=
  match mget s.recorders die with
  | some r =>
    if r.armed ∧ ¬ r.triggered ∧ (cl = none ∨ cl = r.cfg.head?) then
      { s with recorders := mput s.recorders die { r with triggered := true, left := r.cfg.getD 1 0 } }
    else s
  | none => s

/-- A debug stop of the focus before its next instruction, with a probe event to the host (28 R401). -/
def State.debugStop (s : State) (tell : Bool) : State :=
  let s := s.depart s.cur s.cx.pc (.stopped none false)
  if tell then s.tell [1, s.cur] else s

/-- The action of a matching register: trap, stop, trigger, or both; none when the instruction proceeds (28 R401). -/
def State.act (s : State) (a cause tval : Nat) : State × Bool :=
  match a with
  | 0 => (s.takeTrap cause (toWord tval) s.cx.pc, true)
  | 1 => (s.debugStop true, true)
  | 2 => (s.trigger (dieOf s.here) (some (clusterOf s.here)), false)
  | _ => ((s.trigger (dieOf s.here) (some (clusterOf s.here))).debugStop true, true)

/-- The lowest breakpoint that matches the PC of the instruction that issues; the first instruction that completes after a TRET, a resume or the start of a step meets none (28 R399 to R401). DEDUCED, log entry 122. -/
def Ctx.bkpHit (c : Ctx) : Option Nat :=
  if c.skipBkp then none
  else pick (fun n => c.fld (0x028 + n) 63 1 == 1 && c.fld (0x028 + n) 1 47 == bitsOf c.issuePc.toNat 1 47) (upTo 4)

/-! ## The copy strand's instructions (20 R331) -/

/-- Whether the copy strand may execute it. -/
def copyMay (h t : Nat) : Bool :=
  let maj := bitsOf h 2 6
  decide (maj ≤ 0x04) || maj == 0x07 || maj == 0x0F || decide (0x10 ≤ maj ∧ maj ≤ 0x17) || maj == 0x22 || maj == 0x29 ||
    (maj == 0x2F && decide (1 ≤ bitsOf t 10 6))

/-! ## Issue -/

/-- What a turn of a strand comes to: an instruction that issues, or a state in which none does. -/
inductive Prep where
  | go (i : Instr) (s : State)
  | halt (s : State)

/-- The crossings that may be raised now: an MDRAIN or WAITC that is stalled on a tile operation completes before the X_SAT_LIMIT of that operation (10 R223). DEDUCED, log entry 33. -/
def Ctx.satReady (c : Ctx) : List (Nat × Option Nat) :=
  c.pendSat.filter (fun x => match x.2 with
    | some o => !c.tileWait.contains o
    | none => true)

/-- Whether a run of REP waits for a load or atomic of its body that has gone out: one that fails is the body instruction that the run then names (07 R153). DEDUCED, log entry 20. -/
def State.repWaits (s : State) : Bool :=
  match s.cx.repLoad with
  | some x => s.reqs.any (fun r => r.batch == x.1)
  | none => false

/-- Where the load that failed at a PC stood in a body of REP, wC names it and no later body instruction (07 R153). DEDUCED, log entry 20. -/
def State.backTo (s : State) (pc : Nat) : State :=
  match s.cx.repLoad with
  | some (_, at_, w, p) =>
    if at_ = pc then (s.setCx { s.cx with rep := none, repLoad := none, line := none }).wrOwn s.cur w p else s
  | none => s

/-- The deferred trap that a boundary takes: a failed load's, then X_SAT_LIMIT, then X_BEREAVED (11 R226, R227); none where none is pending. DEDUCED, log entry 33. -/
def State.dueTrap (s : State) : Option State :=
  let c := s.cx
  let sat := c.satReady
  if c.pendLoad.isEmpty && sat.isEmpty && c.pendBrv.isNone then none
  else
    match s.trapWait with
    | some s => some s
    | none =>
      match c.pendLoad, sat, c.pendBrv with
      | (k, v, p) :: r, _, _ => some (((s.setCx { c with pendLoad := r }).backTo p).takeTrap k (toWord v) (toWord p))
      | [], x :: _, _ => some ((s.setCx { c with pendSat := c.pendSat.erase x }).takeTrap xSatLimit (toWord x.1) c.pc)
      | [], [], some a => some ((s.setCx { c with pendBrv := none }).takeTrap xBereaved a c.pc)
      | [], [], none => none

/-- The deferred work of an instruction boundary (there is none inside an instruction that holds for an answer), one item at a time: a core stop, a deferred trap, acceptance (11 R226, R227, 12 R248, 28 R402). DEDUCED, log entry 33. -/
def State.boundary (s : State) : Option State :=
  let c := s.cx
  if c.call.isSome then none
  else if (s.core s.here).stop && !c.stepping then some (s.debugStop false)
  else
    match s.dueTrap with
    | some s => some s
    | none => if c.accepts then some (s.setCx c.acceptAll) else none

/-- Head and tail at the PC, or the body instruction of a run of REP with its vector fields advanced (03 R50, 07 R152). DEDUCED, log entry 101. -/
def State.bits (s : State) : Option (Nat × Nat) :=
  let c := s.cx
  match c.rep with
  | some r => (r.body[r.i]?).map (fun x => (x.1, staggerTail x.1 x.2 (r.p * r.stride)))
  | none =>
    match c.line with
    | none => none
    | some l =>
      let i := c.pc.toNat % 64 / 2 - 1
      match l.heads[i]?, l.tails[i]? with
      | some h, some t => some (h, t)
      | _, _ => none

/-- head | tail << 16 as it stands in the line. -/
def State.rawWord (s : State) : Word :=
  match s.cx.rep with
  | some r =>
    match r.body[r.i]? with
    | some (h, t) => toWord (h + t * 65536)
    | none => 0
  | none =>
    match s.bits with
    | some (h, t) => toWord (h + t * 65536)
    | none => 0

/-- With the line at hand: decode, breakpoints, held registers, then the instruction (03 R74, 28 R400). -/
noncomputable def State.issueAt (s : State) : Prep :=
  match s.bits with
  | none => .halt s
  | some (h, t) =>
    match decode h t with
    | none => .halt (s.takeTrap xIllegalOp s.rawWord s.cx.pc)
    | some i =>
      if isCopy s.cur ∧ ¬ copyMay h t then .halt (s.takeTrap xIllegalOp s.rawWord s.cx.pc)
      else
        let go (s : State) : Prep := if s.held h t then .halt s else .go i s
        match (if decodeCause s i = none then s.cx.bkpHit else none) with
        | some n =>
          match s.act (s.cx.fld (0x028 + n) 61 2) xBreak (0x100 + n) with
          | (s, true) => .halt s
          | (s, false) => go (s.setCx { s.cx with skipBkp := true })
        | none => go s

/-- A turn of the focus: a walk it waits for, the boundary, the line it enters, then the instruction (03 R63, R66, 11 R226). -/
noncomputable def State.issue (s : State) : Prep :=
  if ¬ s.cx.walk.isEmpty then .halt s
  else
    match s.boundary with
    | some s => .halt s
    | none =>
      if s.repWaits then .halt s
      else match s.cx.line with
      | some _ => s.issueAt
      | none =>
        match s.fetch s.cur s.cx.pc.toNat with
        | .bad k v => .halt (s.takeTrap k (toWord v) s.cx.pc)
        | .miss va => .halt (s.startWalks [(va, .fetch)])
        | .wait s => .halt s
        | .ok l s' => (s'.setCx { s'.cx with line := some l, walkFault := [] }).issueAt

end Sys2Proof.Machine
end

