-- ==== Sys2Proof/Machine/EstateOps.lean ====
section
/-! DEFINITION. The estate table as data (21 R338 to R340) and what names an object: its owning range, its location, the entry of a group for it. -/

namespace Sys2Proof.Machine

/-- Members of some groups that stand on a core with a range that holds an offset. -/
def rangesAt (gs : List Group) (core off : Nat) (p : Member → Bool) : List (Nat × Nat) :=
  gs.flatMap (fun g =>
    if g.hdr.slo ≤ off ∧ off < g.hdr.slim then
      (g.members.zip (upTo g.members.length)).filterMap (fun m =>
        if m.1.pcore = core ∧ p m.1 then some (g.handle, m.2) else none)
    else [])

/-- The placed member whose range on a core holds an offset. -/
def State.placedAt (s : State) (core off : Nat) : Option (Nat × Nat) :=
  (rangesAt (s.groups.map (fun g => g.2)) core off (fun m => m.pst != 3 && m.pst != 2)).head?

/-- The group whose range on a core holds an offset, and its member there (21 R338); objects outlive their group, so where no member stands it is the one that exited there, of the latest such group (21 R345, R348). DEDUCED, log entry 61. -/
def State.ownerOf (s : State) (core off : Nat) : Option (Nat × Nat) :=
  match s.placedAt core off with
  | some x => some x
  | none =>
    let gone := (s.groups.map (fun g => g.2)).filter (fun g => !(rangesAt [g] core off (fun m => m.pst == 3)).isEmpty)
    match pick (fun g => gone.all (fun x => decide (x.seq ≤ g.seq))) gone with
    | some g => (rangesAt [g] core off (fun m => m.pst == 3)).head?
    | none => none

/-- Whether a byte of a scratchpad is TAIL, HEAD, BOUNCED or REFUSED of a bound ring, which software's writes leave as they are (00 R5, 16 R296). DEDUCED, log entry 114. -/
def State.ringHw (s : State) (core off : Nat) : Bool :=
  match s.ownerOf core off with
  | some (h, v) => (s.member h v).rings.any (fun r => decide (r.2.1 + 8 ≤ off ∧ off < r.2.1 + 24))
  | none => false

/-- What software's write of bytes leaves at an offset. -/
def State.keepHw (s : State) (core off : Nat) (bs : List Byte) : List Byte :=
  (bs.zip (upTo bs.length)).map (fun x => if s.ringHw core (off + x.2) then byteAt s.spad (spadKey core (off + x.2)) else x.1)

/-- What software's write of an aligned doubleword leaves there. -/
def State.keepW (s : State) (core off v : Nat) : Nat := if s.ringHw core off then s.rdS core off 8 else v

/-- Software's write of bytes to a scratchpad. -/
def State.storeS (s : State) (core off : Nat) (bs : List Byte) : State := s.wrBytesS core off (s.keepHw core off bs)

/-- LOC of a scratchpad object (21 R338). -/
def spadLoc (h v off : Nat) : Nat := h * 2 ^ 32 + v * 131072 + off

/-- SPACE and LOC of the object at a place; none where no range owns it (21 R338, R342). -/
def State.objOf (s : State) (l : Loc) : Option (Nat × Nat) :=
  match l with
  | .spad core off => (s.ownerOf core off).map (fun x => (0, spadLoc x.1 x.2 off))
  | .hbm pa => some (1, pa)

/-- Owning group, member and offset of a scratchpad object. -/
def locParts (loc : Nat) : Nat × Nat × Nat := (loc / 2 ^ 32, bitsOf loc 17 13, bitsOf loc 0 17)

/-- Where the object of an entry stands; none where its owning range is another's by now. DEDUCED, log entry 61. -/
def State.holdAt (s : State) (e : Holding) : Option Loc :=
  match e.space with
  | 0 =>
    let (h, v, off) := locParts e.loc
    if 6144 ≤ e.core ∨ (s.placedAt e.core off).any (fun x => x != (h, v)) then none else some (.spad e.core off)
  | 1 => some (.hbm e.loc)
  | _ => none

/-- Index and entry of a group's holding, of a kind where one is named, for the object at a place (21 R338). -/
def State.heldAt (s : State) (h : Nat) (kind : Option Nat) (l : Loc) : Option (Nat × Holding) :=
  pick (fun e => e.2.holder == h && kind.all (fun k => k == e.2.kind) && s.holdAt e.2 == some l) s.estate

/-- The objects of a member stand on a core (15 R277, 21 R348). -/
def State.holdingsOn (s : State) (h v core : Nat) : State :=
  { s with estate := s.estate.map (fun e =>
      if e.2.space = 0 ∧ (locParts e.2.loc).1 = h ∧ (locParts e.2.loc).2.1 = v then (e.1, { e.2 with core := core }) else e) }

/-- Index and entry of whoever holds an object, by kind. -/
def State.holderOf (s : State) (kind : Nat) (o : Nat × Nat) : Option (Nat × Holding) :=
  pick (fun e => e.2.kind == kind && e.2.space == o.1 && e.2.loc == o.2) s.estate

/-- The lowest index not in use (log entry 18). -/
def freeIndex (m : List (Nat × Holding)) : Nat → Nat → Nat
  | 0, i => i
  | n + 1, i => if (mget m i).isSome then freeIndex m n (i + 1) else i

/-- Holdings of a group. -/
def State.holdings (s : State) (h : Nat) : List (Nat × Holding) := s.estate.filter (fun e => e.2.holder = h)

/-- register (21 R338, R339, R342): the new state, or refusal 2 when the table or the group's share is full. DEDUCED, log entry 44. -/
def State.register (s : State) (h kind heir : Nat) (o : Nat × Nat) : State × Nat :=
  if 1048576 ≤ s.estate.length ∨ 65536 ≤ (s.holdings h).length then (s, 2)
  else
    let i := freeIndex s.estate s.estate.length 0
    let at_ := locParts o.2
    ({ s with estate := mput s.estate i ⟨h, heir, s.time, 0, kind, false, o.1, o.2, (s.member at_.1 at_.2.1).pcore⟩ }, 0)

/-- Remove an entry. -/
def State.unregister (s : State) (i : Nat) : State := { s with estate := mdel s.estate i }

/-- Whether a handle is a valid heir for a partition at this moment (21 R340). -/
def State.validHeir (s : State) (heir part : Nat) : Bool :=
  match s.grp heir with
  | some g => heir != 0 && g.part == part && (g.state == .submitted || g.state == .running || g.state == .saved)
  | none => false

/-- Whether a holding can be conveyed to a handle: it is a valid heir whose share of the table has room (21 R338, R340). DESIGN CHOICE, log entry 112. -/
def State.canConvey (s : State) (heir part : Nat) : Bool := s.validHeir heir part && decide ((s.holdings heir).length < 65536)

/-- X_BEREAVED after an instruction that names an object whose holding of the group is marked (21 R344). -/
def State.noteBrv (s : State) (o : Option (Nat × Nat)) (a : Word) : State :=
  match o with
  | none => s
  | some o =>
    if s.cx.bte ∧ (s.estate.any (fun e => e.2.holder == s.cx.group && e.2.space == o.1 && e.2.loc == o.2 && e.2.brv)) then
      s.setCx { s.cx with pendBrv := some a }
    else s

/-- X_BEREAVED after an instruction that names the object at a place (21 R344). -/
def State.noteBrvAt (s : State) (l : Loc) (a : Word) : State :=
  if s.cx.bte ∧ (s.estate.any (fun e => e.2.holder == s.cx.group && e.2.brv && s.holdAt e.2 == some l)) then
    s.setCx { s.cx with pendBrv := some a }
  else s

/-- The doubleword of a place that stands `i` doublewords after its first. -/
def Loc.dword (l : Loc) (i : Nat) : Loc :=
  match l with
  | .spad core off => .spad core (off / 8 * 8 + 8 * i)
  | .hbm pa => .hbm (pa / 8 * 8 + 8 * i)

/-- Cores of the rectangle at an origin, in the order of VCORE (14 R264). -/
def Header.coresAt (h : Header) (o : Nat) : List Nat :=
  (upTo (h.wx * h.hy)).map (fun v => o + v % h.wx + 96 * (v / h.wx))

/-- Where the move under way takes a member (15 R278). -/
def moveTarget (g : Group) (v : Nat) : Option Nat :=
  match g.pre with
  | (o + 1) :: _ => (g.hdr.coresAt o)[v]?
  | _ => none

/-- Contexts of the members that are MOVING to a core (15 R278, R284). -/
def State.comingTo (s : State) (core : Nat) : List Nat :=
  s.groups.flatMap (fun g => ((g.2.members.zip (upTo g.2.members.length)).filter (fun m =>
      m.1.pst == 1 && moveTarget g.2 m.2 == some core)).flatMap (fun m =>
    (s.cidsOn m.1.pcore).filter (fun i => (s.ctx i).group == g.2.handle)))

/-- Whether a member that is MOVING brings a copy sequencer to a core, which is kept for it (15 R284). DESIGN CHOICE, log entry 74. -/
def State.seqReserved (s : State) (core : Nat) : Bool :=
  s.groups.any (fun g => (g.2.members.zip (upTo g.2.members.length)).any (fun m =>
    m.1.pst == 1 && moveTarget g.2 m.2 == some core &&
      (let q := (s.core m.1.pcore).seq
       q.state != .idle && (s.ctx q.holder).group == g.2.handle)))

/-- ESTN (21 R349). -/
def State.estn (s : State) (h : Nat) : Nat :=
  let es := s.holdings h
  (es.filter (fun e => e.2.brv)).length * 2 ^ 32 + es.length

end Sys2Proof.Machine
end

