-- ==== Sys2Proof/Machine/Access.lean ====
section
/-! DEFINITION. Accesses to memory: where an address leads, the checks in the order of R168, watchpoints, what an access does at its place, and putting requests in flight (08 R154 to R177, 09 R179, R180, 28 R400, R401). -/

namespace Sys2Proof.Machine

/-! ## Where an address leads -/

/-- One element of an access: its address and size, what it does, and for a result the offset and size of the register bytes it lands in and whether it is sign-extended. -/
structure Elem where
  va : Nat
  size : Nat
  op : ReqOp
  dst : Nat
  dsize : Nat
  sx : Bool
  deriving DecidableEq, Repr

/-- The place of an element: through the local window, through the group window to a member's core, a member that has exited, or HBM. -/
inductive At where
  | loc (off : Nat)
  | far (core off vc : Nat)
  | gone (vc off : Nat)
  | hbm (pa : Nat)
  deriving DecidableEq, Repr

/-- What the range and translation checks give. -/
inductive Res where
  | to (a : At)
  | bad (cause tval : Nat)
  | miss
  deriving DecidableEq, Repr

/-- Access of an operation (08 R160). -/
def accOf : ReqOp → Acc
  | .load => .load
  | .store _ => .store
  | .amo _ _ _ _ => .atomic
  | .red _ _ _ _ => .store
  | .walk => .load

def ReqOp.reads : ReqOp → Bool
  | .store _ | .walk => false
  | _ => true

/-- Whether it is an atomic or a reduction, read and write in one (08 R173). -/
def ReqOp.atomic : ReqOp → Bool
  | .amo _ _ _ _ | .red _ _ _ _ => true
  | _ => false

/-- Whether an atomic of a scope accepts the address, before translation (08 R174). DEDUCED, log entry 22. -/
def State.inScope (s : State) (scope : Nat) : Rng → Bool
  | .loc _ => true
  | .win v _ =>
    match scope with
    | 0 => v == s.cx.vcore
    | 1 => clusterOf (s.placeOf s.here s.cx.group v).2 == clusterOf s.here
    | _ => true
  | _ => decide (2 ≤ scope)

/-- Range, scope and translation of one element (08 R154 to R156, R163, R174); bytes of the own core that a migration entry covers are asked for as through the group window, so that the entry redirects the access (15 R280). -/
def State.locate (s : State) (scope : Nat) (e : Elem) : Res :=
  let c := s.cx
  let paged : Res :=
    match s.xlate s.here c.group e.va (accOf e.op) c.sup with
    | .hit pa => .to (.hbm pa)
    | .fault k => .bad k e.va
    | .miss => .miss
  if ¬ oneRange e.va e.size then .bad xAccess e.va
  else
    match rngOf e.va with
    | .hole => .bad xAccess e.va
    | .loc off => .to (if (s.fwdFor s.here c.group off e.size).isSome then .far s.here off c.vcore else .loc off)
    | .win v off =>
      if s.nMembers c.group ≤ v then .bad xAccess e.va
      else if ¬ s.inScope scope (.win v off) then .bad xAccess e.va
      else if v = c.vcore then .to (.far s.here off v)
      else
        match s.placeOf s.here c.group v with
        | (3, _) => .to (.gone v off)
        | (_, core) => .to (.far core off v)
    | .user => if ¬ s.inScope scope .user then .bad xAccess e.va else paged
    | .sup =>
      if ¬ c.sup then .bad xPrivilege e.va
      else if ¬ s.inScope scope .sup then .bad xAccess e.va
      else paged

/-- What the checks of all elements give. -/
inductive Located where
  | ok (at_ : List At)
  | trap (cause tval : Nat)
  | walk (pages : List (Nat × Acc))
  deriving DecidableEq, Repr

/-- What the walk of an element's page said when it faulted (08 R160). -/
def State.walkSaid (s : State) (e : Elem) : Option Nat :=
  s.cx.walkSaid e.va (accOf e.op)

/-- The checks of range and translation over the elements in order, the pages to walk and the places found so far (07 R147, 08 R168). -/
def State.locateGo (s : State) (scope : Nat) : List Elem → List (Nat × Acc) → List At → Located
  | [], [], as => .ok as
  | [], p :: ps, _ => .walk (p :: ps)
  | e :: es, ps, as =>
    match s.locate scope e with
    | .to a => s.locateGo scope es ps (as ++ [a])
    | .bad k t => if ps.isEmpty then .trap k t else .walk ps
    | .miss =>
      match s.walkSaid e with
      | some k => if ps.isEmpty then .trap k e.va else .walk ps
      | none => s.locateGo scope es (ps ++ [(e.va, accOf e.op)]) as

/-- The checks of range and translation over the elements in order: the first that fails decides, and a page that an element in front of it misses is walked first, without a trace (07 R147, 08 R168). DESIGN CHOICE, log entry 107. -/
def State.locateAll (s : State) (scope : Nat) (es : List Elem) : Located := s.locateGo scope es [] []

/-! ## What an access does at its place -/

def State.rd (s : State) (l : Loc) (n : Nat) : Nat :=
  match l with
  | .spad core off => s.rdS core off n
  | .hbm pa => s.rdH pa n

def State.wr (s : State) (l : Loc) (n v : Nat) : State :=
  match l with
  | .spad core off => s.wrS core off n v
  | .hbm pa => s.wrH pa n v

/-- Software's write at a place. -/
def State.store (s : State) (l : Loc) (n v : Nat) : State :=
  match l with
  | .spad core off => s.storeS core off (leBytes n v)
  | .hbm pa => s.wrH pa n v

/-- The ORIGIN of a NaN that an addition creates (08 R173). -/
def originAt (l : Loc) (issuer scope : Nat) : Nat :=
  if scope = 1 then issuer
  else match l with
    | .spad core _ => core
    | .hbm pa => 6144 + sliceOf pa

/-- FADD of an atomic: RNE whatever ST.RM holds, an overflow gives infinity (08 R173, 02 R41, R421). DESIGN CHOICE, log entry 115. -/
def fadd32 (origin m c : Nat) : Nat :=
  roundF f32 .rne (addVals .rne (mkNan origin 0) [decodeF f32 m, decodeF f32 c])

/-- The new value of an atomic (08 R173): operation by AMO's minor, width in bits, memory, operand, CAS's new value. -/
def amoNew (op w origin m c new : Nat) : Nat :=
  match op with
  | 0 => c
  | 1 => (m + c) % 2 ^ w
  | 2 => Nat.land m c
  | 3 => Nat.lor m c
  | 4 => Nat.xor m c
  | 5 => if sint w c < sint w m then c else m
  | 6 => if sint w m < sint w c then c else m
  | 7 => min m c
  | 8 => max m c
  | 9 => if m = c then new else m
  | _ => fadd32 origin m c

/-- Operation of AMO that a reduction's minor stands for (08 R172, R173). -/
def redOp (minor : Nat) (nat : Bool) : Nat :=
  match minor with
  | 0 => 1
  | 1 => 2
  | 2 => 3
  | 3 => 4
  | 4 => if nat then 7 else 5
  | 5 => if nat then 8 else 6
  | _ => 10

/-- The write of an operation that found a value, and its result; a CAS that fails writes nothing (08 R173). -/
def ReqOp.act (op : ReqOp) (origin m : Nat) : Option Nat × Nat :=
  match op with
  | .load | .walk => (none, m)
  | .store v => (some v, 0)
  | .amo o w c new => (if o = 9 ∧ m ≠ c then none else some (amoNew o w origin m c new), m)
  | .red o w c nat => (some (amoNew (redOp o nat) w origin m c 0), 0)

/-- Perform an operation at a place in one indivisible step (08 R173, 09 R179). -/
def State.performAt (s : State) (op : ReqOp) (l : Loc) (size origin : Nat) : State × Nat :=
  match op.act origin (s.rd l size) with
  | (some v, x) => (s.store l size v, x)
  | (none, x) => (s, x)

/-- What an operation reads at a place has met its corrected errors (11 R229). -/
def State.opRead (s : State) (op : ReqOp) (core : Nat) (l : Loc) (n : Nat) : State := if op.reads then s.softRead core l n else s

/-- A loaded value as it lands: extended to the register's bytes (08 R169). -/
def extendTo (sx : Bool) (size dsize v : Nat) : Nat :=
  if sx then wrapInt (8 * dsize) (sint (8 * size) v) else v

/-! ## Watchpoints (28 R399 to R401) -/

/-- Size of a watched range. -/
def watchLog (n : Nat) : Nat := if n < 3 then 3 else if 47 < n then 47 else n

/-- The lowest watched byte among some bytes: read and write say what the access does. -/
def Ctx.watchByte (c : Ctx) (n : Nat) (rd wr : Bool) (bs : List (Nat × Nat)) : Option Nat :=
  let w := 0x02C + n
  let k := c.fld w 59 2
  let l := watchLog (c.fld w 53 6)
  let lo := c.fld w 0 48 / 2 ^ l * 2 ^ l
  if c.fld w 63 1 = 0 ∨ ¬ ((rd && bitAt k 0) || (wr && bitAt k 1)) then none
  else
    let hits := bs.filterMap (fun b => if overlap b.1 b.2 lo (2 ^ l) then some (max b.1 lo) else none)
    hits.min?

/-- Test the watchpoints of an instruction's accesses and go on, or take what the lowest match says (28 R400, R401). -/
def watched (rd wr : Bool) (bs : List (Nat × Nat)) (s : State) (k : State → Out) : Out :=
  let c := s.cx
  if c.skipBkp then k s
  else
    match pick (fun n => (c.watchByte n rd wr bs).isSome) (upTo 4) with
    | none => k s
    | some n =>
      match s.act (c.fld (0x02C + n) 61 2) xWatch ((c.watchByte n rd wr bs).getD 0) with
      | (s, true) => .next s
      | (s, false) => k s

/-! ## Refused and failing places -/

/-- Whether an element writes a byte of the member's own queue area: the first such address (16 R285). -/
def State.ownArea (s : State) (e : Elem) (a : At) : Option Nat :=
  if ¬ e.op.writes then none
  else
    match a with
    | .loc off => (inArea s.mem.qbase off e.size).map (fun x => e.va + (x - off))
    | .far _ off vc =>
      if vc = s.cx.vcore then (inArea s.mem.qbase off e.size).map (fun x => e.va + (x - off)) else none
    | _ => none

/-- Whether bytes on a core touch the queue area of a group's member there (16 R285). -/
def State.areaOn (s : State) (h core off size : Nat) : Bool :=
  match s.vcoreOn h core with
  | some v => (inArea (s.member h v).qbase off size).isSome
  | none => false

/-- Whether a place refuses an operation by a core: another member's queue area, or a word with an uncorrectable error (08 R171, 16 R285). -/
def State.refuses (s : State) (h core off size : Nat) (op : ReqOp) (by_ : Nat) : Bool :=
  (op.writes && by_ != core && s.areaOn h core off size) || (s.badS core off size).isSome

/-- Whether an element answers with X_REMOTE precisely: a load or atomic whose member has exited or refuses it; a bad word under a lane of VMEM raises X_ECC (07 R147, 08 R171, 16 R285). -/
def State.remoteBad (s : State) (vec : Bool) (e : Elem) (a : At) : Bool :=
  let waits := match e.op with
    | .load | .amo _ _ _ _ => true
    | _ => false
  waits &&
    (match a with
     | .gone _ _ => true
     | .far core off vc =>
       (match s.homeward s.here s.cx.group (.spad core off) e.size (some vc) with
        | .to (.spad k o) => !vec && s.refuses s.cx.group k o e.size e.op s.here
        | .fail => true
        | _ => false)
     | _ => false)

/-- The doubleword with an uncorrectable error that an element would read, as an address: through the local window or in HBM, for a lane of VMEM through the group window too (07 R147, 08 R168). -/
def State.eccOf (s : State) (vec : Bool) (e : Elem) (a : At) : Option Nat :=
  if ¬ e.op.reads then none
  else
    match a with
    | .loc off => (s.badS s.here off e.size).map (fun x => e.va / 8 * 8 + (x - off / 8 * 8))
    | .hbm pa => (s.badH pa e.size).map (fun x => e.va / 8 * 8 + (x - pa / 8 * 8))
    | .far core off vc =>
      if ¬ vec then none
      else
        (match s.homeward s.here s.cx.group (.spad core off) e.size (some vc) with
         | .to (.spad k o) => (s.badS k o e.size).map (fun x => e.va / 8 * 8 + (x - o / 8 * 8))
         | _ => none)
    | .gone _ _ => none

/-- The trap that the place of one element gives: X_REMOTE, or X_ECC. -/
def State.elemBad (s : State) (vec : Bool) (e : Elem) (a : At) : Option (Nat × Nat) :=
  if s.remoteBad vec e a then some (xRemote, e.va) else (s.eccOf vec e a).map (fun t => (xEcc, t))

/-- The trap of the checks that follow translation: the own queue area, then the first element in order that its place refuses (07 R147). DESIGN CHOICE, log entry 123. -/
def State.dataBad (s : State) (xs : List (Elem × At)) (vec : Bool := false) : Option (Nat × Nat) :=
  match (xs.filterMap (fun x => s.ownArea x.1 x.2)).head? with
  | some t => some (xAccess, t)
  | none => (xs.filterMap (fun x => s.elemBad vec x.1 x.2)).head?

/-- An uncorrectable error at another core that a load or atomic meets at issue goes to the black box (28 R410); one that raises X_ECC does so with its trap. -/
def State.boxFar (s : State) (vec : Bool) (k t : Nat) (xs : List (Elem × At)) : State :=
  if k ≠ xRemote then s
  else
    match pick (fun x => s.remoteBad vec x.1 x.2 && x.1.va == t) xs with
    | some (e, .far core off vc) =>
      (match s.homeward s.here s.cx.group (.spad core off) e.size (some vc) with
       | .to (.spad k o) =>
         (match s.badS k o e.size with
          | some a => s.bbox 6 0 (s.partOf s.cx.group) k a 0
          | none => s)
       | _ => s)
    | _ => s

/-! ## Issue of an access -/

/-- Offset in the issuing core's scratchpad, where the element stands there. -/
def State.hereOff (s : State) (a : At) : Option Nat :=
  match a with
  | .loc off => some off
  | .far core off _ => if core = s.here then some off else none
  | _ => none

/-- Whether an element waits: bytes with a result outstanding or a tile store on its way, locked bytes that it stores to (05 R99, 06 R121, 10 R220). -/
def State.elemHeld (s : State) (e : Elem) (a : At) : Bool :=
  match s.hereOff a with
  | none => false
  | some off =>
    touches [(off, e.size)] (s.dstBytes s.cur ++ s.tileRanges s.cur) ||
    (match e.op with
     | .store _ => touches [(off, e.size)] (s.lockBytes s.cur)
     | _ => false)

/-- Whether a read or write of local bytes at issue waits for earlier accesses that stand in front of it, as an access through the local window would (06 R121, 09 R180, R184 to R187, 10 R220). -/
def State.localHeld (s : State) (rd wr : Bool) (rs : List (Nat × Nat)) : Bool :=
  touches rs (s.dstBytes s.cur ++ s.tileRanges s.cur) || rs.any (fun r => !s.nearClear s.cur r.1 r.2) || s.gated s.cur rd wr

/-- Whether an element is performed at issue: a load or store through the local window that no earlier access of its way, fence or acquire keeps back (09 R184 to R186). DESIGN CHOICE, log entry 8. -/
def State.atOnce (s : State) (e : Elem) (a : At) : Bool :=
  match a with
  | .loc off => !e.op.atomic && s.nearClear s.cur off e.size && !s.gated s.cur e.op.reads e.op.writes
  | _ => false

/-- Place of an element. -/
def State.locOf (s : State) (a : At) : Loc :=
  match a with
  | .loc off => .spad s.here off
  | .far core off _ => .spad core off
  | .gone _ off => .spad s.here off
  | .hbm pa => .hbm pa

/-- Where an element stands now: a copy of the placement table may be behind, and a member may have left (15 R276, R279 to R281). -/
def State.placeNow (s : State) (e : Elem) (a : At) : Far :=
  match a with
  | .far core off v => s.homeward s.here s.cx.group (.spad core off) e.size (some v)
  | .gone _ _ => .fail
  | a => .to (s.locOf a)

/-- A new request of the focus; one for a member that the placement copy shows MOVING waits at the NI (15 R279). DESIGN CHOICE, log entry 21. -/
def State.newReq (s : State) (batch scope : Nat) (after : List Nat) (e : Elem) (a : At) : Req :=
  let l := s.locOf a
  let chan := chanOf l
  let cl := clusterOf s.here
  let ni := match a with
    | .far _ _ v => v != s.cx.vcore && (s.placeOf s.here s.cx.group v).1 != 0
    | _ => false
  { id := s.uid, batch := batch, cid := s.cur, core := s.here, group := s.cx.group,
    vc := match a with
      | .far _ _ v => some v
      | .gone v _ => some v
      | _ => none,
    op := e.op, loc := l, size := e.size, va := toWord e.va, scope := scope, sx := e.sx, dst := e.dst, dsize := e.dsize,
    after := after, sent := chan == cl, waited := 0, plane := s.planeFor cl chan, chan := chan, tpc := s.cx.pc.toNat,
    phase := (match a with
      | .gone _ _ => .failed
      | _ => .issued), val := 0, seen := 0, mark := 0, slept := false, ni := ni, redir := false, back := false }

/-- Keep the placement copy that a group-window element used (15 R276). -/
def State.usePlace (s : State) (a : At) : State :=
  match a with
  | .far _ _ v => if v = s.cx.vcore then s else s.placeFill s.here s.cx.group v
  | _ => s

/-- The translation that a paged element used stays at hand, with A and D set (08 R159, R163, R165). -/
def State.useTlb (s : State) (e : Elem) (a : At) : State :=
  match a with
  | .hbm _ => s.useXl s.here s.cx.group e.va (accOf e.op)
  | _ => s

/-- One element goes out: a request in flight, or one performed at issue that waits with its value for the rest of its batch. DEDUCED, log entry 7. -/
def State.sendElem (s : State) (batch scope : Nat) (after : List Nat) (x : Elem × At) : State :=
  let s := (s.usePlace x.2).useTlb x.1 x.2
  let q := s.newReq batch scope after x.1 x.2
  if s.atOnce x.1 x.2 then
    let p := (s.opRead x.1.op s.here q.loc x.1.size).performAt x.1.op q.loc x.1.size (originAt q.loc s.here scope)
    if x.1.dsize = 0 then p.1
    else { p.1 with reqs := p.1.reqs ++ [{ q with phase := .answered, val := p.2 }], uid := p.1.uid + 1 }
  else s.putReq q

/-- Put the elements of an access in flight as one batch. -/
def State.sendAll (s : State) (scope : Nat) (after : List Nat) (xs : List (Elem × At)) : State :=
  xs.foldl (fun t x => t.sendElem s.uid scope after x) s

/-- Write results to register bytes. -/
def State.landAll (s : State) (core : Nat) (ws : List (Nat × Nat × Nat)) : State :=
  ws.foldl (fun s w => s.wrS core w.1 w.2.1 w.2.2) s

/-- Perform elements at issue, in order; their results land once all have been read. -/
def State.nearAll (s : State) (scope : Nat) (xs : List (Elem × At)) : State :=
  let p := xs.foldl (fun (p : State × List (Nat × Nat × Nat)) x =>
    let l := p.1.locOf x.2
    let q := (p.1.opRead x.1.op s.here l x.1.size).performAt x.1.op l x.1.size (originAt l s.here scope)
    (q.1, if x.1.dsize = 0 then p.2
          else p.2 ++ [(x.1.dst, x.1.dsize, extendTo x.1.sx x.1.size x.1.dsize q.2)])) (s, [])
  p.1.landAll s.here p.2

/-- Whether an element stores outside the strand's own footprint (15 R283). -/
def State.outside (s : State) (x : Elem × At) : Bool :=
  match x.1.op with
  | .store _ | .red _ _ _ _ =>
    (match s.hereOff x.2 with
     | some off => !(decide (s.cx.wp - 64 ≤ off ∧ off + x.1.size ≤ s.cx.wp + s.cx.foot))
     | none => true)
  | _ => false

/-- A release of the strand, or a fence that counts as one, ends its migration entry (15 R280). -/
def State.endFwd (s : State) (cid : Nat) : State :=
  { s with cores := s.cores.map (fun x => (x.1, { x.2 with fwd := x.2.fwd.filter (fun f => f.cid != some cid) })) }

/-- What an access in flight must wait for: the strand's fences and acquires, and for a release of device or system scope every access that it covers (08 R176, 09 R183, R184). -/
def State.afterOf (s : State) (scope : Nat) (rel rd wr : Bool) : List Nat :=
  s.gates s.cur rd wr ++ (if rel ∧ 2 ≤ scope then s.covered s.cur (scope == 3) else [])

/-- A release by an access, at its scope: within the core or the cluster it marks what is on its way, and from device scope it ends the migration entry (09 R184, 15 R280). DEDUCED, log entry 36. -/
def State.releaseAt (s : State) (scope : Nat) : State :=
  if scope ≤ 1 then s.markRel s.cur scope else s.endFwd s.cur

/-- The load or atomic of a body of REP that has gone out, as the run keeps it (07 R153): `uid` is the next identifier after it. -/
def State.repGoes (s : State) (rd : Bool) (uid : Nat) : Option (Nat × Nat × Nat × Nat) :=
  match s.cx.rep with
  | some r => if rd ∧ s.uid < uid then some (s.uid, s.cx.pc.toNat, s.cx.wOff r.wc, r.p + r.i * 64) else none
  | none => none

/-- The doublewords that an access names: X_BEREAVED is noted for the first one that is the object of a marked holding (21 R344). DEDUCED, log entry 54. -/
def State.namesWords (s : State) (xs : List (Elem × At)) : State :=
  if ¬ s.cx.bte then s
  else
    (xs.reverse.flatMap (fun x =>
      match s.placeNow x.1 x.2 with
      | .to l => (upTo ((x.1.va % 8 + x.1.size + 7) / 8)).reverse.map (fun i => (l.dword i, x.1.va / 8 * 8 + 8 * i))
      | _ => [])).foldl (fun s w => s.noteBrvAt w.1 (toWord w.2)) s

/-- An access that passed its checks: it is performed at issue, or goes out; an acquire of cluster scope or wider gates what follows (08 R176, 09 R184). -/
def State.commit (s : State) (scope : Nat) (acq rel : Bool) (xs : List (Elem × At)) : State :=
  let rd := xs.any (fun x => x.1.op.reads)
  let wr := xs.any (fun x => x.1.op.writes)
  let after := s.afterOf scope rel rd wr
  let u := if rel then s.releaseAt scope else s
  let t := if xs.all (fun x => u.atOnce x.1 x.2) then u.nearAll scope xs else u.sendAll scope after xs
  let t := if acq ∧ 1 ≤ scope then
      let ids := (t.reqs.filter (fun r => decide (s.uid ≤ r.id) && r.unperformed && r.cid == s.cur)).map (fun r => r.id)
      t.setCx (t.cx.gate ids ids)
    else t
  let t := t.setCx { t.cx with walkFault := [], repLoad := s.repGoes rd t.uid }
  (if xs.any (fun x => s.outside x) then t.progress t.cx.group else t).namesWords xs

/-- Whether the class that an access enters is full (09 R198). -/
def State.classFull (s : State) (xs : List (Elem × At)) : Bool :=
  (xs.any (fun x => match x.1.op with
     | .load | .amo _ _ _ _ => decide (0x20000 ≤ x.1.va)
     | _ => false) && decide (64 ≤ s.classL s.cur)) ||
    (xs.any (fun x => match x.1.op with
     | .store _ => decide (0x20000 ≤ x.1.va)
     | .red _ _ _ _ => true
     | _ => false) && decide (64 ≤ s.classS s.cur))

/-- An access by an instruction: the checks, the waits (for what the strand's fences and acquires hold it: 09 R184, R197), the watchpoints, then the effect (08 R168, R169). -/
def access (scope : Nat) (acq rel : Bool) (es : List Elem) (fin : State → State) (s : State) (vec : Bool := false) : Out :=
  match s.locateAll scope es with
  | .trap k t => trap s k (toWord t)
  | .walk ps => .next (s.startWalks ps)
  | .ok as =>
    let xs := es.zip as
    match s.dataBad xs vec with
    | some (k, t) =>
      (match s.trapWait with
       | some s => .next s
       | none => trap (s.boxFar vec k t xs) k (toWord t))
    | none =>
      let rd := es.any (fun e => e.op.reads)
      let wr := es.any (fun e => e.op.writes)
      if xs.any (fun x => s.elemHeld x.1 x.2) ∨ s.gated s.cur true false then stall s
      else if s.classFull xs then stall s
      else watched rd wr (es.map (fun e => (e.va, e.size))) s fun s => done (fin (s.commit scope acq rel xs))

end Sys2Proof.Machine
end

