-- ==== Sys2Proof/Machine/CtrlReg.lean ====
section
/-! DEFINITION. The control registers: reads, writes and what a write brings about (05 R101 to R106, and the chapters that own each block). -/

namespace Sys2Proof.Machine

/-- Bits of a register that a write may change; the rest are RO or HW and keep their value (05 R103). DEDUCED, log entry 37. -/
def crMask (n : Nat) : Nat :=
  match n with
  | 0x000 => 0x27
  | 0x001 | 0x003 | 0x004 | 0x005 | 0x006 => 0xFFFFFFFFFFFFFFFF
  | 0x002 => 0xFF
  | 0x021 => 0x80000000FFFFFFFF
  | 0x024 | 0x025 | 0x026 | 0x027 => 0xFFFFFFFFFFFFFFFF
  | 0x028 | 0x029 | 0x02A | 0x02B => 0xE000FFFFFFFFFFFE
  | 0x02C | 0x02D | 0x02E | 0x02F => 0xFFE0FFFFFFFFFFFF
  | 0x030 => 0xFF
  | 0x031 | 0x032 => 0x800000000001FFFF
  | 0x033 => 0xFFFFFFFF0001FFFF
  | 0x034 => 0x7FFFFFFFF
  | 0x035 => 0x3F
  | 0x036 | 0x037 => 0xFFFFFFFF
  | 0x041 => 0xFFFFFFFF0001FFFF
  | 0x042 => 0xFFFF0001FFFF
  | 0x043 => 0xFFFFFFFF
  | 0x045 => 0x1
  | 0x080 => 0xFFF0FFF00FF
  | 0x081 => 0xF001FFFF
  | 0x082 | 0x0A0 => 0x800000000001FFFF
  | 0x083 | 0x084 => 0xFFFFFFFFFFFFFFFF
  | 0x0E0 => 0xFFFFFFFF
  | n =>
    if 0x050 ≤ n ∧ n ≤ 0x05F then 0xFFFF
    else if 0x060 ≤ n ∧ n ≤ 0x06F then 0xFFFFFFFF
    else if 0x0B0 ≤ n ∧ n ≤ 0x0B7 then 0x87000000FFFFFFFF
    else 0

/-- Bits that user mode may not change (05 R101, 12 R241, 28 R396). -/
def crRs (n : Nat) : Nat :=
  match n with
  | 0x000 => 0x4
  | 0x028 | 0x029 | 0x02A | 0x02B => 0xE000FFFFFFFFFFFE
  | 0x02C | 0x02D | 0x02E | 0x02F => 0xFFE0FFFFFFFFFFFF
  | 0x043 => 0xFFFFFFFF
  | _ => 0

/-- PART (27 R387): POL, SEQ[15:0] of the installed policy, KEY. -/
def State.partReg (s : State) (h : Nat) : Nat :=
  let p := s.policyOf (s.partOf h)
  (if p.isSome then 2 ^ 48 else 0) + (polByte p 4 + 256 * polByte p 5) * 2 ^ 32 + s.partOf h

/-- POIS of the tiles a context owns (10 R209). -/
def State.poisBits (s : State) (cid : Nat) : Nat :=
  ((upTo 4).map (fun t =>
    if bitAt ((s.ctx cid).fld 0x038 0 4) t ∧ ((mget (s.core (coreOfCid cid)).tiles t).bind (fun x => x.pois)).isSome
    then 2 ^ (4 + t) else 0)).sum

/-- read_cr: the live value (05 R95, R103). -/
def State.readCr (s : State) (n : Nat) : Word :=
  let c := s.cx
  if n = 0x011 then toWord s.here
  else if n = 0x020 then toWord s.time
  else if n = 0x023 then toWord (s.core s.here).cerr
  else if n = 0x037 then toWord (mgetD (s.core s.here).satcnt (c.fld 0x035 0 6) 0)
  else if n = 0x038 then toWord (c.fld 0x038 0 4 + s.poisBits s.cur)
  else if n = 0x082 then s.mem.qbase
  else if n = 0x0A0 then s.mem.portb
  else if 0x0B0 ≤ n ∧ n ≤ 0x0B7 then mgetD s.mem.bars (n - 0x0B0) 0
  else if n = 0x0C0 then toWord (s.estn c.group)
  else if n = 0x0F0 then toWord (s.partReg c.group)
  else if n = 0x0F1 then 0x000018000001000A
  else c.get n

/-- What a register write comes to. -/
inductive CrOut where
  | ok (s : State)
  | bad
  | wait

/-! ## The queue area's ring table (16 R285, R296) -/

/-- Ring-table word n of an area. -/
def State.ringWord (s : State) (core a n : Nat) : Nat := s.rdS core (a + 64 + 4 * n) 4

/-- Whether a ring of the area is bound. -/
def State.anyBound (s : State) (core a : Nat) : Bool := (upTo 16).any (fun n => bitAt (s.ringWord core a n) 31)

/-- COUNT of a level (16 R285). -/
def State.lvlCount (s : State) (core a l : Nat) : Nat := bitsOf (s.rdS core (a + 8 * l) 8) 8 7

/-- HEAD of a level (16 R285). -/
def State.lvlHead (s : State) (core a l : Nat) : Nat := bitsOf (s.rdS core (a + 8 * l) 8) 0 6

/-- Whether any entry is queued. -/
def State.anyQueued (s : State) (core a : Nat) : Bool := (upTo 4).any (fun l => s.lvlCount core a l != 0)

/-- Footprints on a core: those of its resident contexts and of its copy strand (05 R93, 20 R331). -/
def State.footprints (s : State) (core : Nat) : List (Nat × Nat) :=
  (s.cidsOn core).map (fun i => ((s.ctx i).wp - 64, 64 + (s.ctx i).foot)) ++
    (if (s.core core).seq.state ≠ .idle then [((s.core core).seq.wc - 64, 192)] else [])

/-- Footprints on a core, those under way to it included. -/
def State.footsTo (s : State) (core : Nat) : List (Nat × Nat) :=
  s.footprints core ++ s.flights.filterMap (fun f => match f.cargo with
    | .migrate k _ c _ _ => if k = core then some (c.wp - 64, 64 + c.foot) else none
    | _ => none)

/-- Descriptor and slots of each bound ring of a member (16 R296). -/
def State.ringBytes (s : State) (m : Member) : List (Nat × Nat) :=
  m.rings.flatMap (fun r =>
    if bitAt (s.ringWord m.pcore (qbaseAddr m.qbase) r.1) 31 then
      [(r.2.1, 64), (bitsOf r.2.2 0 17, 256 * 2 ^ bitsOf r.2.2 20 4)]
    else [])

/-- Whether stores, atomics, reductions or tile stores that a core issued have still to reach a range of its scratchpad. -/
def State.areaAwaits (s : State) (core off n : Nat) : Bool :=
  s.reqs.any (fun r => r.core == core && r.unperformed && r.op.writes && r.loc.meets r.size (.spad core off) n) ||
    touches [(off, n)] (putRanges (s.core core).mq)

/-- A write of QBASE (16 R285, R301, 21 R339). Enabling waits for what the core issued into the area before. DESIGN CHOICE, log entry 146. -/
def State.writeQbase (s : State) (v : Word) : CrOut :=
  let c := s.cx
  let m := s.mem
  let core := s.here
  let a := qbaseAddr v
  let old := qbaseAddr m.qbase
  if qbaseEn m.qbase ∧ (s.anyBound core old ∨ s.anyQueued core old) then .bad
  else
    let drop (s : State) : State :=
      if qbaseEn m.qbase then
        match s.holderOf 6 (0, spadLoc c.group c.vcore old) with
        | some e => s.unregister e.1
        | none => s
      else s
    if ¬ qbaseEn v then .ok ((drop s).updMem (fun m => { m with qbase := v }))
    else if a % 128 ≠ 0 ∨ 0x20000 < a + 2176 then .bad
    else if touches [(a, 2176)] (s.footsTo core ++ (if bitAt m.portb.toNat 63 then [(bitsOf m.portb.toNat 0 17, 32)] else []))
    then .bad
    else if s.areaAwaits core a 2176 then .wait
    else
      let s := drop s
      let s := s.wrBytesS core a (List.replicate 2176 0)
      let s := (upTo 272).foldl (fun s i => s.setTag core (a + 8 * i) false) s
      let s := s.updMem (fun m => { m with qbase := v, qever := true })
      .ok (s.register c.group 6 0 (0, spadLoc c.group c.vcore a)).1

/-- A write of PORTB (16 R285, 18 R318). -/
def State.writePortb (s : State) (v : Word) : CrOut :=
  let a := bitsOf v.toNat 0 17
  match s.grp s.cx.group with
  | none => .ok s
  | some g =>
    if bitAt v.toNat 63 ∧ (a % 32 ≠ 0 ∨ a < g.hdr.slo ∨ g.hdr.slim < a + 32 ∨ (inArea s.mem.qbase a 32).isSome) then .bad
    else .ok (s.updMem (fun m => { m with portb := v }))

/-! Fields of a barrier register (19 R322) -/
def bEn (b : Word) : Bool := bitAt b.toNat 63
def bBrv (b : Word) : Bool := bitAt b.toNat 62
def bCnt (b : Word) : Nat := bitsOf b.toNat 56 3
def bEpoch (b : Word) : Nat := bitsOf b.toNat 48 8
def bNxt (b : Word) : Nat := bitsOf b.toNat 44 4
def bArr (b : Word) : Nat := bitsOf b.toNat 40 4
def bH (b : Word) : Nat := bitsOf b.toNat 24 8
def bW (b : Word) : Nat := bitsOf b.toNat 16 8
def bY0 (b : Word) : Nat := bitsOf b.toNat 8 8
def bX0 (b : Word) : Nat := bitsOf b.toNat 0 8

/-- Position of a member in its group's rectangle (14 R264). -/
def posOf (g : Group) (v : Nat) : Nat × Nat := (v % g.hdr.wx, v / g.hdr.wx)

/-- Whether a position lies in the barrier's rectangle. -/
def bHas (b : Word) (p : Nat × Nat) : Bool :=
  decide (bX0 b ≤ p.1 ∧ p.1 < bX0 b + bW b ∧ bY0 b ≤ p.2 ∧ p.2 < bY0 b + bH b)

/-- A write of Bb (19 R322). -/
def State.writeBar (s : State) (n : Nat) (v : Word) : CrOut :=
  match s.grp s.cx.group with
  | none => .ok s
  | some g =>
    let old := mgetD s.mem.bars n 0
    if bArr old ≠ 0 ∨ bNxt old ≠ 0 then .bad
    else if bEn v ∧ (bW v = 0 ∨ bH v = 0 ∨ g.hdr.wx < bX0 v + bW v ∨ g.hdr.hy < bY0 v + bH v ∨ g.hdr.spm < bCnt v ∨
        ¬ bHas v (posOf g s.cx.vcore)) then .bad
    else .ok (s.updMem (fun m => { m with bars := mput m.bars n v }))

/-- A write of SATCNT sets the counter that SATID names (10 R204). -/
def State.writeSatcnt (s : State) (v : Word) : State :=
  let k := s.core s.here
  s.setCore s.here { k with satcnt := mput k.satcnt (s.cx.fld 0x035 0 6) (v.toNat % 2 ^ 32) }

/-- A write of PCTL; one that opens a window clears INTR and POUT (28 R397). -/
def Ctx.writePctl (c : Ctx) (v : Word) : Ctx :=
  if bitAt v.toNat 63 ∧ c.fld 0x021 63 1 = 0 then (c.set 0x021 (v &&& 0x80000000FFFFFFFF)).set 0x022 0
  else c.set 0x021 ((v &&& 0x80000000FFFFFFFF) ||| (c.get 0x021 &&& 0x4000000000000000))

/-- A write of FADE or ETA waits while a broadcast is held (12 R244). -/
def State.writeRate (s : State) (n : Nat) (v : Word) : CrOut :=
  if s.cx.held.isEmpty then .ok (s.setCx (s.cx.set n (v &&& toWord (crMask n)))) else .wait

/-- A write of BMODE (12 R244). -/
def State.writeBmode (s : State) (v : Word) : State := s.setCx (s.cx.set 0x045 (v &&& 1))

/-- Writing 1 to FPROGV.VALID abandons the FSTEP (12 R245). -/
def State.abandonFstep (s : State) : State := s.setCx (s.cx.setFld 0x047 0 1 0)

/-- write_cr (05 R103): RO and HW fields keep their value, W1C fields clear. -/
def State.writeCr (s : State) (n : Nat) (new : Word) : CrOut :=
  let old := s.readCr n
  let m := toWord (crMask n)
  let v := (new &&& m) ||| (old &&& ~~~m)
  if n = 0x021 then .ok (s.setCx (s.cx.writePctl new))
  else if n = 0x037 then .ok (s.writeSatcnt v)
  else if n = 0x045 then .ok (s.writeBmode v)
  else if n = 0x047 then .ok (if bitAt new.toNat 0 then s.abandonFstep else s)
  else if 0x050 ≤ n ∧ n ≤ 0x06F then s.writeRate n v
  else if n = 0x082 then s.writeQbase v
  else if n = 0x0A0 then s.writePortb v
  else if 0x0B0 ≤ n ∧ n ≤ 0x0B7 then s.writeBar (n - 0x0B0) v
  else if crMask n = 0 then .ok s
  else .ok (s.setCx (s.cx.set n v))

/-! ## The instructions (05 R103) -/

/-- CR number of an instruction. -/
def crNo (imm : BitVec 22) : Nat := bitsOf imm.toNat 0 12

/-- Write a control register, then finish; X_PRIVILEGE for a user-mode change of an RS field, X_OPERAND where the register refuses the value (05 R103). DESIGN CHOICE, log entry 39. -/
def crWrite (i : Instr) (n : Nat) (new : Word) (after : State → State) (s : State) : Out :=
  if ¬ s.cx.sup ∧ ((s.readCr n ^^^ new) &&& toWord (crRs n)) ≠ 0 then trap s xPrivilege (toWord n)
  else
    match s.writeCr n new with
    | .ok s' => done (after s')
    | .bad => operandTrap s i
    | .wait => stall s

/-- CRR (05 R103). -/
def execCrr (a b c : BitVec 4) (imm : BitVec 22) (s : State) : Out :=
  checked (.crr a b c imm) s (done (s.setW a (s.readCr (crNo imm))))

/-- CRW (05 R103). -/
def execCrw (a b c : BitVec 4) (imm : BitVec 22) (s : State) : Out :=
  checked (.crw a b c imm) s (reading [a] s fun s => crWrite (.crw a b c imm) (crNo imm) (s.w a) id s)

/-- CRS (05 R103). DEDUCED, log entry 38. -/
def execCrs (a b c : BitVec 4) (imm : BitVec 22) (s : State) : Out :=
  checked (.crs a b c imm) s (reading [b] s fun s =>
    let old := s.readCr (crNo imm)
    crWrite (.crs a b c imm) (crNo imm) (old ||| s.w b) (fun s => s.setW a old) s)

/-- CRC (05 R103). -/
def execCrc (a b c : BitVec 4) (imm : BitVec 22) (s : State) : Out :=
  checked (.crc a b c imm) s (reading [b] s fun s =>
    let old := s.readCr (crNo imm)
    crWrite (.crc a b c imm) (crNo imm) (old &&& ~~~(s.w b)) (fun s => s.setW a old) s)

/-! ## The same writes as steps of their own (95) -/

/-- Act for a context. -/
def State.asCid (s : State) (cid : Nat) : State := { s with cur := cid }

/-- The state after a register write, unchanged where the register refuses it or has to wait. -/
def CrOut.orElse (o : CrOut) (s : State) : State :=
  match o with
  | .ok s' => s'
  | _ => s

/-- A step for a context that exists; the focus returns to where it was. -/
def forCid (cid : Nat) (s : State) (f : State → State) : Out :=
  if (mget s.ctxs cid).isSome then .next { f (s.asCid cid) with cur := s.cur } else .next s

/-- QBASE_WRITE (16 R301). -/
def execQbaseWrite (cid : Nat) (v : Word) (s : State) : Out :=
  forCid cid s fun s => (s.writeCr 0x082 v).orElse s

/-- PORTB_WRITE (18 R318). -/
def execPortbWrite (cid : Nat) (v : Word) (s : State) : Out :=
  forCid cid s fun s => (s.writeCr 0x0A0 v).orElse s

/-- BARRIER_REGISTER_WRITE (19 R322). -/
def execBarrierRegisterWrite (cid n : Nat) (v : Word) (s : State) : Out :=
  forCid cid s fun s => (s.writeCr (0x0B0 + n % 8) v).orElse s

/-- SATCNT_WRITE (10 R204). -/
def execSatcntWrite (cid : Nat) (v : Word) (s : State) : Out := forCid cid s fun s => s.writeSatcnt v

/-- FADE_ETA_WRITE (12 R244). -/
def execFadeEtaWrite (cid n : Nat) (v : Word) (s : State) : Out :=
  forCid cid s fun s => (s.writeRate (0x050 + n % 32) v).orElse s

/-- BMODE_WRITE (12 R244). -/
def execBmodeWrite (cid : Nat) (v : Word) (s : State) : Out := forCid cid s fun s => s.writeBmode v

/-- PCTL_WRITE (28 R397). -/
def execPctlWrite (cid : Nat) (v : Word) (s : State) : Out := forCid cid s fun s => s.setCx (s.cx.writePctl v)

/-- FPROGV_ABANDON (12 R245). -/
def execFprogvAbandon (cid : Nat) (s : State) : Out := forCid cid s fun s => s.abandonFstep

end Sys2Proof.Machine
end

