-- ==== Sys2Proof/Machine/Traffic.lean ====
section
/-! DEFINITION. Steps of the memory system: walks, requests on the weave, their performance, their answers, and results landing (06 R121, 08 R158 to R167, 09 R179, 15 R279 to R281, 24 R354). -/

namespace Sys2Proof.Machine

/-! ## Walks (08 R158 to R163) -/

/-- Whether a walk has its turn: its read holds a permit and has been written, and fewer than 16 walks came to its walker before it; of walks written together the one issued first came first (08 R163, R166). -/
def State.walkTurn (s : State) (r : Req) : Bool :=
  r.isWalk && r.sent && s.hasPermit r &&
    decide ((s.reqs.filter (fun x => x.isWalk && x.sent && x.chan == r.chan &&
      decide (x.seen < r.seen ∨ (x.seen = r.seen ∧ x.id < r.id)))).length < 16)

/-- The table entries that the walk of a page reads (08 R158). -/
def State.walkPath (s : State) (r : Req) : List Nat := pathFrom s r.va.toNat 4 (s.rootOf r.group r.va.toNat)

/-- Whether a walk meets a stack in self-refresh (29 R413). -/
def State.walkSleeps (s : State) (r : Req) : Bool := (s.walkPath r).any (fun pe => !s.awake (.hbm pe))

/-- A wait at a stack in self-refresh is counted once, as a permit stall (29 R413). -/
def State.sleepReq (s : State) (r : Req) : State :=
  if r.slept then s
  else
    let s := { s with reqs := s.reqs.map (fun (x : Req) => if x.id = r.id then { x with slept := true } else x) }
    (s.countPermitStall (clusterOf r.core) r.plane).updCtx r.cid (fun c => c.countLater 8 1)

/-- A walk ends for one context that waits for its page: the access that missed has its translation, or its fault; once no page is missing the instruction issues again (08 R160, R163, R168). -/
def State.walkEnds (s : State) (cid page : Nat) : State :=
  let c := s.ctx cid
  let mine := c.walk.filter (fun x => x.1 / 4096 * 4096 == page)
  let s := mine.foldl (fun s x =>
    match s.walk c.group x.1 x.2 c.sup with
    | .ok pa size perm d leaf =>
      s.tlbFill (coreOfCid cid) ⟨c.group, x.1 / size * size, size, pa, perm, leaf, false, d⟩
    | .fault k => s.updCtx cid (fun c => { c with walkFault := c.walkFault ++ [(x.1, x.2, k)] })) s
  s.updCtx cid (fun c => { c with walk := c.walk.filter (fun x => x.1 / 4096 * 4096 != page) })

def State.setCopy (s : State) (core : Nat) (c : Copy) : State :=
  let k := s.core core
  s.setCore core { k with copies := k.copies.map (fun x => if x.id = c.id then c else x) }

/-- A walk ends for one copy command that waits for its page (08 R163, 20 R337). -/
def State.walkCopy (s : State) (core page : Nat) (c : Copy) : State :=
  let (mine, rest) := c.walk.partition (fun x => x.1 == page)
  let p := mine.foldl (fun (p : State × Copy) x =>
    match s.walk c.group x.1 x.2 c.sup with
    | .ok pa size perm d leaf =>
      let t : Tlb := ⟨c.group, x.1 / size * size, size, pa, perm, leaf, false, d⟩
      (p.1.tlbFill core t, { p.2 with xl := p.2.xl ++ [t] })
    | .fault k => (p.1, { p.2 with faults := p.2.faults ++ [(x.1, x.2, k)] })) (s, { c with walk := rest })
  if mine.isEmpty then s else p.1.setCopy core p.2

/-- A walk ends for the copy engines of a cluster. -/
def State.walkCopies (s : State) (cl group page : Nat) : State :=
  s.cores.foldl (fun s k =>
    if clusterOf k.1 = cl then (k.2.copies.filter (fun c => c.group == group)).foldl (fun s c => s.walkCopy k.1 page c) s else s) s

/-- PAGE_WALK_COMPLETE: the walker has read the table entries, and every context or copy command of the cluster that waits for the page goes on (08 R158 to R164). The walk's permit returns; a corrected error that it met counts at the core that missed (11 R229). -/
def execPageWalkComplete (id : Nat) (s : State) : Out :=
  match pick (fun r => r.id == id) s.reqs with
  | none => .next s
  | some r =>
    if ¬ s.walkTurn r then .next s
    else if s.walkSleeps r then .next (s.sleepReq r)
    else
      let s := (s.walkPath r).foldl (fun s pe => s.softRead r.core (.hbm pe) 8) s
      let t := { s with reqs := s.reqs.filter (fun x => x.id != id) }
      let who := (s.ctxs.filter (fun p => clusterOf (coreOfCid p.1) == clusterOf r.core && p.2.group == r.group &&
        p.2.walk.any (fun x => x.1 / 4096 * 4096 == r.va.toNat))).map (fun p => p.1)
      .next ((who.foldl (fun s cid => s.walkEnds cid r.va.toNat) t).walkCopies (clusterOf r.core) r.group r.va.toNat)

/-! ## Requests -/

/-- The request with an identifier. -/
def State.req (s : State) (id : Nat) : Option Req := pick (fun r => r.id == id) s.reqs

def State.setReq (s : State) (r : Req) : State := { s with reqs := s.reqs.map (fun x => if x.id = r.id then r else x) }

/-- Whether a request waits to be written on a channel: it holds a permit and has not been written. -/
def State.wantsOut (s : State) (plane chan : Nat) (r : Req) : Bool :=
  r.crosses && !r.sent && r.phase == .issued && r.plane == plane && r.chan == chan && s.hasPermit r

/-- Whether an answer waits to be written on its cluster's channel. -/
def Req.wantsBack (plane chan : Nat) (r : Req) : Bool :=
  r.crosses && !r.back && (r.phase == .performed || r.phase == .failed) && r.plane == plane && clusterOf r.core == chan

/-- Writer that a request or an answer waits at: its cluster, or the cluster or home slice that has performed it (24 R354). -/
def Req.writer (r : Req) : Nat := if r.unperformed then clusterOf r.core else r.chan

/-- Writers that want a home channel: clusters with requests or other items, home slices and clusters with answers (24 R354). -/
def State.writers (s : State) (plane chan : Nat) : List Nat :=
  (s.reqs.filter (fun r => s.wantsOut plane chan r || r.wantsBack plane chan)).map (fun r => r.writer) ++
    (s.hops.filter (fun h => h.plane == plane && h.chan == chan)).map (fun h => h.writer)

/-- Key of a channel's token. -/
def withyKey (plane chan : Nat) : Nat := plane * 480 + chan

/-- The next writer after the holder in ascending order, wrapping (24 R354). -/
def nextWriter (holder : Nat) (ws : List Nat) : Option Nat :=
  match (ws.filter (fun w => holder < w)).min? with
  | some w => some w
  | none => ws.min?

/-- The first `n` elements that satisfy a test are changed. -/
def mapFirst {α : Type} (p : α → Bool) (f : α → α) : Nat → List α → List α
  | _, [] => []
  | 0, l => l
  | n + 1, x :: r => if p x then f x :: mapFirst p f n r else x :: mapFirst p f (n + 1) r

/-- What is left to be written once a holder has written `n` cycles of those that satisfy a test, in their order (24 R354). -/
def writeHops (p : Hop → Bool) : Nat → List Hop → List Hop
  | _, [] => []
  | n, x :: r =>
    if ¬ p x then x :: writeHops p n r
    else if x.beats ≤ n then writeHops p (n - x.beats) r
    else { x with beats := x.beats - n } :: r

/-- A request or an answer is written on a channel. -/
def Req.written (uid : Nat) (r : Req) : Req :=
  if r.unperformed then { r with sent := true, seen := if r.isWalk then uid else r.seen } else { r with back := true }

/-- WITHY_PASS: the token goes to the next writer with something to write, which writes at most eight cycles of 32 bytes, one for each request or answer; the cycles that its requests have waited for the token count (24 R354, R355, 28 R398). DEDUCED, log entry 29. -/
def execWithyPass (plane chan : Nat) (s : State) : Out :=
  match nextWriter (mgetD s.withy (withyKey plane chan) 0) (s.writers plane chan) with
  | none => .next s
  | some w =>
    let want (r : Req) : Bool := (s.wantsOut plane chan r || r.wantsBack plane chan) && r.writer == w
    let waited := (((s.reqs.filter want).take 8).map (fun r => if r.unperformed then r.waited else 0)).sum
    let hop (h : Hop) : Bool := h.plane == plane && h.chan == chan && h.writer == w
    let s := if w < 384 then
        let c := s.cluster w
        s.setCluster w { c with withyWait := bump c.withyWait plane waited }
      else s
    .next { s with
      withy := mput s.withy (withyKey plane chan) w
      reqs := mapFirst want (Req.written s.uid) 8 s.reqs
      hops := writeHops hop (8 - (s.reqs.filter want).length) s.hops
      uid := s.uid + 1 }

/-! ## Performing (09 R179) -/

/-- What the place of a request says: it serves it, refuses it, sends it on, or makes it wait. -/
inductive Serve where
  | here
  | fail
  | onward (core off : Nat)
  | wait
  deriving DecidableEq, Repr

/-- What the place of a request says (08 R171, 15 R278 to R281, 16 R285, 29 R413). DESIGN CHOICE, log entry 21. -/
def State.serve (s : State) (r : Req) : Serve :=
  match r.loc with
  | .hbm pa =>
    if ¬ s.awake (.hbm pa) then .wait
    else if r.op.reads ∧ (s.badH pa r.size).isSome ∧ r.op ≠ .load then .fail
    else .here
  | .spad core off =>
    if r.vc.isNone then
      match s.fwdFor core r.group off r.size with
      | some f => .onward f.core (off - f.lo + f.off)
      | none =>
        if ¬ r.redir then .here
        else if s.inTransit core r.group off r.size then .wait
        else if s.refuses r.group core off r.size r.op r.core then .fail
        else .here
    else
      match s.homeward r.core r.group r.loc r.size r.vc with
      | .wait => .wait
      | .fail => .fail
      | .to (.spad k o) =>
        if k ≠ core ∨ o ≠ off then .onward k o
        else if s.refuses r.group core off r.size r.op r.core then .fail
        else .here
      | .to _ => .here

/-- A request that may be performed now: it has arrived, nothing in front of it is unperformed, and what its strand ordered before it is performed; a replayed core's requests leave it only to its own scratchpad (28 R408). -/
def State.ripe (s : State) (r : Req) : Bool :=
  r.unperformed && !r.isWalk && !r.ni && (r.sent || !r.crosses) && s.first r && s.linkFirst r && (s.pendingOf r.after).isEmpty &&
    ((s.core r.core).replay.isNone || r.loc.isOn r.core)

/-- Whether two atomics on one location execute at one place: one cluster's unit, or else the bank or home slice (08 R174, R175). -/
def Req.samePlace (a b : Req) : Bool :=
  if a.scope = 1 ∨ b.scope = 1 then a.scope == b.scope && clusterOf a.core == clusterOf b.core else true

/-- Whether another atomic of the same place is between its read and its write of the same bytes (08 R175). -/
def State.atomBusy (s : State) (r : Req) : Bool :=
  s.reqs.any (fun x => x.id != r.id && x.phase == .readDone && x.samePlace r && x.loc.meets x.size r.loc r.size)

/-- Log what a core's bank performs for another core (28 R407). -/
def State.logServed (s : State) (r : Req) : State :=
  match r.loc with
  | .spad core off =>
    if core = r.core then s
    else s.logWrite core rxAccess (s.byCore r.core r.group) off false (if r.op.writes then leBytes r.size (s.rdS core off r.size) else [])
  | .hbm _ => s

/-- Another place's atomics between their read and their write expect what this one has just written in place of what they saw; `none` of them expects a plain store's value any more (08 R175). -/
def State.overtake (s t : State) (r : Req) : State :=
  { t with reqs := t.reqs.map (fun x =>
      if x.id ≠ r.id ∧ x.phase = .readDone ∧ x.loc.meets x.size r.loc r.size then
        { x with seen := if s.rd x.loc x.size = x.seen then t.rd x.loc x.size else 2 ^ 64 }
      else x) }

/-- Perform a request at its place. An atomic reads, then writes; another place's atomic may fall between, and its update is lost, but no other store does: what such a store changed is read anew (08 R173, R175, 09 R196). DEDUCED, log entry 23. -/
def State.perform (s : State) (r : Req) : State :=
  let m := s.rd r.loc r.size
  let note (t : State) : State := (t.opRead r.op r.core r.loc r.size).logServed r
  if r.op.atomic then
    if r.phase = .issued then
      if s.atomBusy r then s else s.setReq { r with phase := .readDone, val := m, seen := m }
    else
      let x := r.op.act (originAt r.loc r.core r.scope) (if m = r.seen then r.val else m)
      let t := match x.1 with
        | some v => s.overtake (s.store r.loc r.size v) r
        | none => s
      note (t.setReq { r with phase := .performed, val := x.2 })
  else
    let p := s.performAt r.op r.loc r.size (originAt r.loc r.core r.scope)
    note (p.1.setReq { r with phase := .performed, val := p.2 })

/-- An uncorrectable error met at a place of execution goes to the black box (28 R410); that of a lane of VMEM goes there with its trap. -/
def State.noteEcc (s : State) (r : Req) : State :=
  if ¬ r.op.reads ∨ r.ofVec then s
  else
    match r.loc with
    | .spad core off =>
      (match s.badS core off r.size with
       | some a => s.bbox 6 0 (s.partOf r.group) core a 0
       | none => s)
    | .hbm pa =>
      (match s.badH pa r.size with
       | some a => s.bbox 6 0 (s.partOf r.group) 0 a 0
       | none => s)

/-- REQUEST_PERFORM (09 R179): the request is served at its place, or fails there; a forwarding entry that waited for it ends (15 R280). -/
def execRequestPerform (id : Nat) (s : State) : Out :=
  match s.req id with
  | none => .next s
  | some r =>
    if ¬ s.ripe r then .next s
    else
      match s.serve r with
      | .here => .next (if r.redir then (s.perform r).endMemberFwd else s.perform r)
      | .fail => .next ((s.noteEcc r).setReq { r with phase := .failed })
      | _ => .next (if s.awake r.loc then s else s.sleepReq r)

/-- A request takes the way from its core to another, over the weave with a permit, whose lack is a stall (08 R166). -/
def State.setWay (s : State) (r : Req) (core : Nat) : State :=
  let chan := clusterOf core
  let cl := clusterOf r.core
  let q := { r with chan := chan, sent := chan == cl, waited := 0, plane := s.planeFor cl chan }
  let s := s.setReq q
  if s.hasPermit q then s else (s.countPermitStall cl q.plane).updCtx q.cid (fun c => c.countLater 8 1)

/-- A request that waited at the NI sets out to its member's core (15 R279). -/
def State.setOut (s : State) (r : Req) (core : Nat) : State :=
  let loc := match r.loc with
    | .spad _ off => Loc.spad core off
    | l => l
  s.setWay { r with loc := loc, ni := false } core

/-- What the placement copy says of a request that waits at the NI (15 R276, R279). -/
def State.leaveNi (s : State) (r : Req) : State :=
  match r.vc with
  | none => s
  | some v =>
    match s.placeOf r.core r.group v with
    | (0, core) => s.setOut r core
    | (3, _) => s.setReq { r with ni := false, phase := .failed }
    | _ => s

/-- REQUEST_REDIRECT (15 R279 to R281): a request that waited at its NI sets out; one that met a vacated core goes on to the new place, through a forwarding entry or the home placement table, behind what stands in front of it (09 R180, R187), with its scope widened to enclose both cores (15 R280). -/
def execRequestRedirect (id : Nat) (s : State) : Out :=
  match s.req id with
  | none => .next s
  | some r =>
    if ¬ r.unperformed ∨ r.isWalk then .next s
    else if r.ni then .next (s.leaveNi r)
    else if ¬ (r.sent || !r.crosses) ∨ ¬ s.first r ∨ ¬ s.linkFirst r then .next s
    else
      match s.serve r with
      | .onward core off =>
        let q := { r with
          loc := .spad core off
          vc := s.vcoreOn r.group core
          scope := max r.scope (if core = r.core then 0 else if clusterOf core = clusterOf r.core then 1 else 2)
          redir := true
          phase := .issued }
        .next (if r.chan = clusterOf r.core then s.setWay q core else s.setReq q)
      | _ => .next s

/-! ## Answers -/

/-- The results of a batch all of whose requests are answered, as they land (06 R121). -/
def State.landBatch (s : State) (b : Nat) : State :=
  let rs := s.reqs.filter (fun r => r.batch == b)
  if rs.any (fun r => r.phase != .answered) then s
  else
    let ws := (rs.filter (fun r => r.dsize != 0)).map (fun r => (r.dst, r.dsize, extendTo r.sx r.size r.dsize r.val))
    let s' := { s with reqs := s.reqs.filter (fun r => r.batch != b) }
    match rs.head?, ws with
    | some r, _ :: _ => { s' with landings := s'.landings ++ [⟨s'.uid, r.cid, r.core, ws⟩], uid := s'.uid + 1 }
    | _, _ => s'

/-- What a load or atomic that failed raises: X_ECC for an uncorrectable error under a lane of VMEM, with the doubleword's address, else X_REMOTE (07 R147, 08 R171). -/
def State.failCause (s : State) (r : Req) : Nat × Nat :=
  match r.loc with
  | .spad core off =>
    (match (if r.ofVec then s.badS core off r.size else none) with
     | some x => (xEcc, r.va.toNat / 8 * 8 + (x - off / 8 * 8))
     | none => (xRemote, r.va.toNat))
  | .hbm _ => (xRemote, r.va.toNat)

/-- A request has failed: a load or atomic traps at its own PC, for the first of its batch that has failed, and the batch leaves its register; a store or reduction is a remote failure pending (08 R171). DEDUCED, log entry 20. -/
def State.failReq (s : State) (r : Req) : State :=
  if r.reads then
    let bad := s.reqs.filter (fun (x : Req) => x.batch == r.batch && x.phase == Phase.failed)
    let k := s.failCause (bad.headD r)
    let s := { s with reqs := (s.reqs.filter (fun (x : Req) => x.batch != r.batch || x.phase != Phase.failed)).map (fun (x : Req) =>
      if x.batch = r.batch then { x with dsize := 0 } else x) }
    s.updCtx r.cid (fun c => { c with pendLoad := c.pendLoad ++ [(k.1, k.2, r.tpc)] })
  else
    { s with reqs := s.reqs.filter (fun x => x.id != r.id) }.updCtx r.cid (fun c => { c with failures := c.failures ++ [r.va] })

/-- The answer of an access through a handle reaches its core, from the device and group that the handle names (28 R407, 24 R362). -/
def State.logLink (s : State) (cid group h va val : Nat) : State :=
  let t := s.handleTarget (s.partOf group) group h
  let v := match rngOf va with
    | .win v _ => v
    | _ => 0
  s.logRx (coreOfCid cid) rxAnswer ⟨t.2, t.1, v⟩ val []

/-- The acknowledgement of an STD or FILLD returns; a remote failure becomes pending, and what comes after the timeout is discarded (24 R365, R367). -/
def State.stdAnswer (s : State) (id : Nat) : State :=
  match s.flight id with
  | some (.std cid h g _ va _ _ _ due (some ok)) =>
    if due ≤ s.cycles then s
    else
      let t := (s.land id).logLink cid g h va.toNat (if ok then 0 else va.toNat)
      if ok then t else t.updCtx cid (fun c => { c with failures := c.failures ++ [va] })
  | _ => s

/-- An answer reaches the core that asked; VAL of a failed one is the address (28 R407). -/
def State.logAnswer (s : State) (r : Req) (val : Nat) : State :=
  if r.reads then s.logRx r.core rxAnswer (s.byMember r.group (r.vc.getD 0)) val [] else s

/-- RESPONSE_ARRIVAL (08 R166, 09 R198): the permit returns, and a batch whose answers are all in goes to its registers; or the acknowledgement of a remote store. DEDUCED, log entry 24. -/
def execResponseArrival (id : Nat) (s : State) : Out :=
  match s.req id with
  | none => .next (s.stdAnswer id)
  | some r =>
    if r.crosses ∧ ¬ r.back then .next s
    else match r.phase with
    | .performed =>
      let s := s.setReq { r with phase := .answered }
      .next ((s.logAnswer r r.val).landBatch r.batch)
    | .failed =>
      if r.reads ∧ s.reqs.any (fun x => x.batch == r.batch && x.unperformed) then .next s
      else .next (((s.logAnswer r r.va.toNat).failReq r).landBatch r.batch)
    | _ => .next s

/-- RESULT_LANDS (06 R121, 07 R138): a result reaches its register bytes. -/
def execResultLands (id : Nat) (s : State) : Out :=
  match pick (fun l => l.id == id) s.landings with
  | none => .next s
  | some l => .next (({ s with landings := s.landings.filter (fun x => x.id != id) }).landAll l.core l.writes)

end Sys2Proof.Machine
end

