-- ==== Sys2Proof/Machine/Order.lean ====
section
/-! DEFINITION. FENCE and WAITC (09 R184, R197 to R199): majors 0x21 and 0x22. -/

namespace Sys2Proof.Machine

/-- A fence of a scope: earlier loads gate later accesses; earlier accesses are performed at the scope before later stores, and earlier stores before later loads (09 R184, R197). At core scope it holds nothing; at core and cluster scope what is on its way is marked; at device and system scope it gates. DEDUCED, log entry 36. -/
def State.fenceAt (s : State) (acq rel full : Bool) (scope : Nat) : State :=
  let sys := scope == 3
  let far := decide (2 ≤ scope)
  let lds := if acq ∧ 1 ≤ scope then s.mine s.cur sys (fun r => r.reads) else []
  let all := if rel && far then s.covered s.cur sys else []
  let sts := if full && far then s.mine s.cur sys (fun r => r.writes) else []
  let s := s.setCx (s.cx.gate (lds ++ sts) (lds ++ all))
  if rel then s.releaseAt scope else s

/-- Scope of a fence (09 R197). -/
def fenceScope (imm : BitVec 6) : Nat := bitsOf imm.toNat 4 2

/-- FENCE (09 R197). -/
def execFence (_a _b _c : BitVec 4) (imm : BitVec 6) (s : State) : Out :=
  done (s.fenceAt true true true (fenceScope imm))

/-- FENCE.acq (09 R197). -/
def execFenceAcq (_a _b _c : BitVec 4) (imm : BitVec 6) (s : State) : Out :=
  done (s.fenceAt true false false (fenceScope imm))

/-- FENCE.rel (09 R197). -/
def execFenceRel (_a _b _c : BitVec 4) (imm : BitVec 6) (s : State) : Out :=
  done (s.fenceAt false true false (fenceScope imm))

/-- met(x, n): 15 stands for any number (09 R199). -/
def met (count : Nat) (n : BitVec 4) : Bool := n == 15 || decide (count ≤ n.toNat)

/-- Whether the four counts meet their fields (09 R199). -/
def State.waitcMet (s : State) (l st c m : BitVec 4) : Bool :=
  met (s.classL s.cur) l && met (s.classS s.cur) st && met (s.classC s.cur) c && met (s.classM s.cur) m

/-- Take the oldest remote failure: X_REMOTE with TPC = `tpc`; none pending, go on (08 R171, 09 R199). -/
def remoteOr (tpc : Word) (s : State) (k : Out) : Out :=
  match s.cx.failures with
  | a :: r =>
    match s.trapWait with
    | some s => .next s
    | none => .next ((s.setCx { s.cx with failures := r }).takeTrap xRemote a tpc)
  | [] => k

/-- WAITC (09 R199). A class whose field is 0 has left the strand, so nothing later can pass it; a remote failure is reported once S is met, after WAITC has completed. -/
def execWaitc (_a _b wl ws wc wm : BitVec 4) (s : State) : Out :=
  if ¬ s.waitcMet wl ws wc wm then
    blocked (if met (s.classM s.cur) wm then s else s.setCx (s.cx.waitTiles (s.tileIds s.cur))) (.waitc wl.toNat ws.toNat wc.toNat wm.toNat)
  else
    match s.cx.failures with
    | a :: r =>
      match s.trapWait with
      | some s => .next s
      | none =>
        let t := (s.setCx { s.cx with failures := r }).advance
        .next (t.takeTrap xRemote a t.cx.pc)
    | [] => done s

end Sys2Proof.Machine
end

