-- ==== Sys2Proof/Machine/Sync.lean ====
section
/-! DEFINITION. Operations on one word that hold their strand until the place of execution answers: the checks and waits they share (16 R285, 18 R316, R317, 21 R342). The request, its performance and its answer are one step (log entry 19). -/

namespace Sys2Proof.Machine

/-- Whether nothing is left in front of an access of the focus at a place: on its way, at its address, or marked for the cluster (08 R167, 09 R180, R184 to R187). DEDUCED, log entry 19. -/
def State.wayClear (s : State) (l : Loc) (n : Nat) (vc : Option Nat) : Bool :=
  let me : Req := { id := s.uid, batch := 0, cid := s.cur, core := s.here, group := s.cx.group, vc := vc, op := .load, loc := l,
                    size := n, va := 0, scope := 2, sx := false, dst := 0, dsize := 0, after := [], sent := true, waited := 0,
                    plane := 0, chan := chanOf l, tpc := 0, phase := .issued, val := 0, seen := 0, mark := 0, slept := false, ni := false,
                    redir := false, back := false }
  !s.reqs.any (fun r => r.unperformed && r.before me) && s.linkFirst me

/-- Member that an element goes to. -/
def At.vc : At → Option Nat
  | .far _ _ v => some v
  | .gone v _ => some v
  | _ => none

/-- The trap of a word operation at its place, after range and translation: the own queue area, another member's queue area, an uncorrectable error (16 R285, 18 R317). DEDUCED, log entry 48. -/
def State.wordBad (s : State) (e : Elem) (a : At) (l : Loc) : Option (Nat × Nat) :=
  match s.ownArea e a with
  | some t => some (xAccess, t)
  | none =>
    match l with
    | .spad core off =>
      if e.op.writes ∧ core ≠ s.here ∧ (s.areaOn s.cx.group core off e.size) then some (xRemote, e.va)
      else if (s.badS core off e.size).isSome then some (xEcc, e.va)
      else none
    | .hbm pa => if (s.badH pa e.size).isSome then some (xEcc, e.va) else none

/-- The operation whose rights and effects the checks use. -/
def probeOp (wr : Bool) : ReqOp := if wr then .amo 0 64 0 0 else .load

/-- An element that is read here and now uses its placement copy and its translation, and meets corrected errors (08 R163, R165, 11 R229, 15 R276). -/
def State.useNow (s : State) (e : Elem) (a : At) : State :=
  let t := (s.usePlace a).useTlb e a
  match s.placeNow e a with
  | .to l => t.softRead s.here l e.size
  | _ => t

/-- A word operation at its place. -/
def State.atUse (s : State) (e : Elem) (a : At) : State := (s.useNow e a).setCx { s.cx with walkFault := [] }

/-- Check an address of `n` bytes as R168 says and then its scope, wait as the order of accesses says, test the watchpoints, then act at the place. `counts`: it is in class L while it waits, which may be full (09 R198); `rel`: it is a release, which from device scope on waits for what its strand issued (09 R184). -/
def atWord (scope n : Nat) (counts wr rel : Bool) (watch : Bool × Bool) (addr : Nat) (s : State) (k : Loc → State → Out) : Out :=
  let e : Elem := ⟨addr, n, probeOp wr, 0, 0, false⟩
  if addr % n ≠ 0 then trap s xMisalign (toWord addr)
  else
    match s.locateAll 2 [e] with
    | .trap c t => trap s c (toWord t)
    | .walk ps => .next (s.startWalks ps)
    | .ok [a] =>
      if ¬ s.inScope scope (rngOf addr) then trap s xAccess (toWord addr)
      else
        match s.placeNow e a with
        | .wait => stall s
        | .fail => trap s xRemote (toWord addr)
        | .to l =>
          match s.wordBad e a l with
          | some (c, t) => trap s c (toWord t)
          | none =>
            if s.elemHeld e a then stall s
            else if counts ∧ 64 ≤ s.classL s.cur then stall s
            else if s.gated s.cur true wr then stall s
            else if ¬ s.wayClear l n a.vc then stall s
            else if ¬ s.wayOpen s.here l then .next (s.noteStall s.cur l)
            else if rel ∧ 2 ≤ scope ∧ ¬ s.drained s.cur (scope == 3) then stall s
            else watched watch.1 watch.2 [(addr, n)] s fun s => k l (s.atUse e a)
    | .ok _ => stall s

/-- An aligned address must be in the local or group window; one in HBM is refused before translation (18 R316). -/
def windowOnly (addr : Nat) (s : State) (k : Out) : Out :=
  match rngOf addr with
  | .user => if addr % 8 ≠ 0 then k else trap s xAccess (toWord addr)
  | .sup => if addr % 8 ≠ 0 ∨ ¬ s.cx.sup then k else trap s xAccess (toWord addr)
  | _ => k

/-- A doubleword where it stands now. -/
def State.rdNow (s : State) (e : Elem) (a : At) : Nat :=
  match s.placeNow e a with
  | .to l => s.rd l 8
  | _ => 0

/-- Whether nothing is left in front of a read of an element where it stands now (09 R180, R185 to R188). -/
def State.elemClear (s : State) (e : Elem) (a : At) : Bool :=
  match s.placeNow e a with
  | .to l => s.wayClear l e.size a.vc
  | _ => true

/-- The first place of some elements that has no permit or sleeps (08 R166, 29 R413). -/
def State.shutAt (s : State) (xs : List (Elem × At)) : Option Loc :=
  (xs.filterMap (fun x => match s.placeNow x.1 x.2 with
    | .to l => if s.wayOpen s.here l then none else some l
    | _ => none)).head?

/-- Read doublewords as the strand's own loads, once nothing is on its way in front of them, and go on with their values (08 R168, 09 R180, R185 to R188). -/
def loadingAt (es : List Elem) (s : State) (k : List Nat → State → Out) : Out :=
  match s.locateAll 2 es with
  | .trap c t => trap s c (toWord t)
  | .walk ps => .next (s.startWalks ps)
  | .ok as =>
    let xs := es.zip as
    match s.dataBad xs with
    | some (c, t) => trap s c (toWord t)
    | none =>
      if xs.any (fun x => s.placeNow x.1 x.2 == .wait) then stall s
      else if xs.any (fun x => s.elemHeld x.1 x.2) ∨ s.gated s.cur true false then stall s
      else if xs.any (fun x => !s.elemClear x.1 x.2) then stall s
      else
        match s.shutAt xs with
        | some l => .next (s.noteStall s.cur l)
        | none =>
        watched true false (es.map (fun e => (e.va, e.size))) s fun s =>
          let t := xs.foldl (fun t x => t.useNow x.1 x.2) s
          k (xs.map (fun x => s.rdNow x.1 x.2)) (t.setCx { t.cx with walkFault := [] })

/-- Read `n` doublewords at an address, each an access of its own. DESIGN CHOICE, log entry 145. -/
def loading (addr n : Nat) (s : State) (k : List Nat → State → Out) : Out :=
  loadingAt ((upTo n).map (fun i => ⟨addr + 8 * i, 8, .load, 0, 0, false⟩)) s k

/-- An answer that may trap is taken once the handler can be entered (11 R232). -/
def whenLanded (s : State) (k : Out) : Out :=
  match s.trapWait with
  | some s => .next s
  | none => k

/-- Put the answer of a call in its context (16 R304, 18 R320). -/
def State.answer (s : State) (cid call idx v : Nat) : State :=
  let c := s.ctx cid
  match c.call with
  | some k =>
    if k.id = call then
      s.setCtx cid { c with call := some { k with answers := k.answers.map (fun x => if x.1 = idx then (idx, some v) else x) } }
    else s
  | none => s

end Sys2Proof.Machine
end

