-- ==== Sys2Proof/Machine/QueueOps.lean ====
section
/-! DEFINITION. The NI's operations on a member's queue area: counters, the ready deque and stealing, serving, and rings (16 R285 to R300). -/

namespace Sys2Proof.Machine

/-! ## Engine writes (08 R170, 18 R312) -/

/-- Whether a word is on its core's bereaved list (18 R311, R312). -/
def State.bereavedAt (s : State) (core off : Nat) : Bool := (s.core core).bereaved.any (fun x => x.1 == off)

/-- End a word's entry in the bereaved list (18 R312). -/
def State.endBereaved (s : State) (core off : Nat) : State :=
  let k := s.core core
  s.setCore core { k with bereaved := k.bereaved.filter (fun x => x.1 != off) }

/-- An engine write of a doubleword: data, tag full, dirty bit, and the word is no longer bereaved (08 R170, 18 R315). -/
def State.engineW (s : State) (core off v : Nat) : State := ((s.wrS core off 8 v).setTag core off true).endBereaved core off

/-- Bytes as an engine writes them, every word they touch set full (08 R170, 16 R298). -/
def State.engineBytes (s : State) (core off : Nat) (bs : List Byte) : State :=
  let s := s.wrBytesS core off bs
  if bs.isEmpty then s
  else (upTo ((off + bs.length - 1) / 8 - off / 8 + 1)).foldl (fun s i =>
    (s.setTag core ((off / 8 + i) * 8) true).endBereaved core ((off / 8 + i) * 8)) s

/-- Whether bytes on a core touch the queue area of the member whose range holds them (16 R285). -/
def State.areaAt (s : State) (core off n : Nat) : Bool :=
  match s.placedAt core off with
  | some (h, v) => (inArea (s.member h v).qbase off n).isSome
  | none => false

/-- An engine write that a queue area refuses, where nothing is written (16 R285); the core logs it with its source (28 R407). -/
def State.depositW (s : State) (o : Origin) (core off v : Nat) : State :=
  if s.areaAt core off 8 then s else (s.engineW core off v).logWrite core rxWrite o off true (leBytes 8 v)

/-! ## Counter words (16 R287, R288) -/

def cwCnt (w : Nat) : Nat := bitsOf w 0 32
def cwPrio (w : Nat) : Nat := bitsOf w 32 2
def cwStl (w : Nat) : Bool := bitAt w 34
def cwArm (w : Nat) : Bool := bitAt w 35
def cwQueued (w : Nat) : Bool := bitAt w 36

/-- One bit of a counter word set or cleared. -/
def cwBit (w i : Nat) (b : Bool) : Nat := setBits w i 1 (if b then 1 else 0)

/-- The deque entry of a block (16 R286): KIND 0. -/
def blockEntry (w off : Nat) : Nat := (if cwStl w then 2 ^ 35 else 0) + off

/-- Address of entry `i` of a level in an area (16 R285). -/
def entryAddr (a l i : Nat) : Nat := a + 128 + 512 * l + 8 * (i % 64)

/-- Write HEAD and COUNT of a level (16 R285). -/
def State.setLvl (s : State) (core a l head count : Nat) : State := s.wrQ core (a + 8 * l) (head % 64 + count * 256)

/-- A push wakes the CPOPs that are parked on the member's deque, and that of a stealable entry every one of the group that may steal (16 R305). -/
def State.wakePops (s : State) (h v : Nat) (stl : Bool) : State :=
  { s with ctxs := s.ctxs.map (fun p =>
      match p.2.waits with
      | some (.cpop nost) =>
        if p.2.group = h ∧ (p.2.vcore = v ∨ (stl ∧ ¬ nost)) then (p.1, { p.2 with woken := true }) else p
      | _ => p) }

/-- Push an entry at the head of a level; none where the level is full or the member has no queue area (16 R290, R291). -/
def State.pushAt (s : State) (h v l entry : Nat) : Option State :=
  let m := s.member h v
  let a := qbaseAddr m.qbase
  let n := s.lvlCount m.pcore a l
  if ¬ qbaseEn m.qbase ∨ 64 ≤ n then none
  else
    let hd := (s.lvlHead m.pcore a l + 63) % 64
    let s := s.niRead m.pcore (a + 8 * l) 8
    some (((s.wrQ m.pcore (entryAddr a l hd) entry).setLvl m.pcore a l hd (n + 1)).wakePops h v (bitAt entry 35))

/-- A push that is not made: the deque freezes with CAUSE 0xF0, or without a queue area one record goes to the black box (16 R291). -/
def State.lostPush (s : State) (h v entry tval tpc vcore : Nat) : State :=
  let m := s.member h v
  if qbaseEn m.qbase then s.freeze h v 0xF0 entry tval tpc vcore
  else s.bbox 3 0 (s.partOf h) m.pcore tval 0

/-- push(block): the entry goes on its level and QUEUED is set, or LOST is set (16 R289 to R291). The address, PC and member are those of the instruction that made the push. -/
def State.pushBlock (s : State) (h v off tval tpc vcore : Nat) : State :=
  let core := (s.member h v).pcore
  let w := s.rdS core off 8
  match s.pushAt h v (cwPrio w) (blockEntry w off) with
  | some t => t.wrS core off 8 (cwBit w 36 true)
  | none => (s.wrS core off 8 (cwBit w 37 true)).lostPush h v (blockEntry w off) tval tpc vcore

/-- dec(block): the new count, or none for an underflow, which freezes the owner's deque (16 R288). Its word's corrected error counts where the address is checked, once (11 R229). -/
def State.decAt (s : State) (h v off tval tpc issuer : Nat) : State × Option Nat :=
  let core := (s.member h v).pcore
  let w := s.rdS core off 8
  if cwCnt w = 0 then (s.freeze h v xCounterUnderflow (blockEntry w off) tval tpc issuer, none)
  else
    let w' := setBits w 0 32 (cwCnt w - 1)
    if cwCnt w = 1 ∧ cwArm w then
      ((s.wrS core off 8 (cwBit w' 35 false)).pushBlock h v off tval tpc issuer, some 0)
    else (s.wrS core off 8 w', some (cwCnt w - 1))

/-! ## Popping and stealing (16 R290, R292) -/

/-- Entry j of a level, counted from its head. -/
def State.entryAt' (s : State) (core a l j : Nat) : Nat := s.rdS core (entryAddr a l (s.lvlHead core a l + j)) 8

/-- QUEUED of the block of a taken KIND 0 entry is cleared (16 R289, R303). -/
def State.unqueue (s : State) (core entry : Nat) : State :=
  if bitsOf entry 62 2 = 0 then
    let off := bitsOf entry 0 17
    (s.niRead core off 8).wrS core off 8 (cwBit (s.rdS core off 8) 36 false)
  else s

/-- Pop from the head of the highest level that is not empty (16 R290). -/
def State.popOwn (s : State) (h v : Nat) : Option (State × Nat) :=
  let m := s.member h v
  let a := qbaseAddr m.qbase
  match pick (fun l => s.lvlCount m.pcore a l != 0) [3, 2, 1, 0] with
  | none => none
  | some l =>
    let e := s.entryAt' m.pcore a l 0
    let s := (s.niRead m.pcore (a + 8 * l) 8).niRead m.pcore (entryAddr a l (s.lvlHead m.pcore a l)) 8
    some ((s.setLvl m.pcore a l (s.lvlHead m.pcore a l + 1) (s.lvlCount m.pcore a l - 1)).unqueue m.pcore e, e)

/-- The stealable entry of a level nearest the tail, by its place from the head (16 R290). -/
def State.stealPlace (s : State) (core a l : Nat) : Option Nat :=
  pick (fun j => bitAt (s.entryAt' core a l j) 35) (upTo (s.lvlCount core a l)).reverse

/-- The lowest level of a member that holds a stealable entry, unless its deque is frozen (16 R292). -/
def State.stealLevel (s : State) (h v : Nat) : Option Nat :=
  let m := s.member h v
  let a := qbaseAddr m.qbase
  if m.pst ≠ 0 ∨ ¬ qbaseEn m.qbase ∨ bitAt (s.rdS m.pcore (a + 32) 8) 0 then none
  else pick (fun l => (s.stealPlace m.pcore a l).isSome) (upTo 4)

/-- Take entry `j` of a level: the entries behind it move up (16 R290). DEDUCED, log entry 68. -/
def State.takeAt (s : State) (core a l j : Nat) : State :=
  let n := s.lvlCount core a l
  let hd := s.lvlHead core a l
  let t := (upTo (n - 1 - j)).foldl (fun t i =>
    (t.niRead core (entryAddr a l (hd + j + i + 1)) 8).wrQ core (entryAddr a l (hd + j + i)) (s.entryAt' core a l (j + i + 1))) s
  t.setLvl core a l hd (n - 1)

/-- What a hub reads of each member that it looks at: FRZ and the words of the levels (11 R229, 16 R292). DESIGN CHOICE, log entry 147. -/
def State.hubReads (s : State) (h : Nat) (vs : List Nat) : State :=
  vs.foldl (fun s v =>
    let m := s.member h v
    if m.pst ≠ 0 ∨ ¬ qbaseEn m.qbase then s
    else (s.niRead m.pcore (qbaseAddr m.qbase) 32).niRead m.pcore (qbaseAddr m.qbase + 32) 8) s

/-- Take one entry of a member by R290. -/
def State.stealFrom (s : State) (h v : Nat) : Option (State × Nat) :=
  let m := s.member h v
  let a := qbaseAddr m.qbase
  match s.stealLevel h v with
  | none => none
  | some l =>
    match s.stealPlace m.pcore a l with
    | none => none
    | some j =>
      let e := s.entryAt' m.pcore a l j
      let s := s.niRead m.pcore (entryAddr a l (s.lvlHead m.pcore a l + j)) 8
      some ((s.takeAt m.pcore a l j).unqueue m.pcore e, e)

/-- Clusters that a group occupies, rising. -/
def State.groupClusters (s : State) (h : Nat) : List Nat :=
  match s.grp h with
  | some g => g.members.foldl (fun l m => nins l (clusterOf m.pcore)) []
  | none => []

/-- Members of a group whose cores stand in a cluster. -/
def State.membersIn (s : State) (h cl : Nat) : List Nat :=
  (upTo (s.nMembers h)).filter (fun v => clusterOf (s.member h v).pcore == cl)

/-- The member that a hub picks: the lowest stealable level, then the lowest VCORE (16 R292). -/
def State.hubPick (s : State) (h cl : Nat) : Option Nat :=
  match pick (fun l => (s.membersIn h cl).any (fun v => s.stealLevel h v == some l)) (upTo 4) with
  | none => none
  | some l => pick (fun v => s.stealLevel h v == some l) (s.membersIn h cl)

/-- The cluster that round `k` of a thief asks: its own, then ascending, wrapping (16 R292). -/
def roundCluster (own k : Nat) (cls : List Nat) : Nat :=
  let up := cls.filter (fun c => own < c)
  let dn := cls.filter (fun c => c < own)
  (own :: (up ++ dn)).getD k own

/-! ## Rings (16 R296 to R299) -/

/-- Descriptor and fields of a member's ring. -/
def Member.ring (m : Member) (n : Nat) : Option (Nat × Nat) := mget m.rings n

def ringSlots (f : Nat) : Nat := bitsOf f 0 17
def ringLogn (f : Nat) : Nat := bitsOf f 20 4
def ringPrio (f : Nat) : Nat := bitsOf f 24 2
def ringStl (f : Nat) : Bool := bitAt f 26
def ringDisp (f : Nat) : Bool := bitAt f 27
def ringCap (f : Nat) : Nat := bitsOf f 32 16

/-- Slot `i` of a ring (16 R296). -/
def slotAddr (f i : Nat) : Nat := ringSlots f + 256 * (i % 2 ^ ringLogn f)

def State.ringHead (s : State) (core d : Nat) : Nat := s.rdS core (d + 8) 4
def State.ringTail (s : State) (core d : Nat) : Nat := s.rdS core (d + 12) 4

/-- Slots deposited and not given back. -/
def State.ringCount (s : State) (core d : Nat) : Nat := (s.ringTail core d + 2 ^ 32 - s.ringHead core d) % 2 ^ 32

/-- A 4-byte write of the NI: data and dirty bit. -/
def State.wrQ4 (s : State) (core off v : Nat) : State := s.wrS core off 4 v

/-- Add 1 to a 4-byte field. -/
def State.bumpQ (s : State) (core off : Nat) : State := s.wrQ4 core off (s.rdS core off 4 + 1)

/-- Whether ring n of a member is BOUND, USED. -/
def State.bound (s : State) (m : Member) (n : Nat) : Bool :=
  qbaseEn m.qbase && bitAt (s.ringWord m.pcore (qbaseAddr m.qbase) n) 31
def State.used (s : State) (m : Member) (n : Nat) : Bool :=
  qbaseEn m.qbase && bitAt (s.ringWord m.pcore (qbaseAddr m.qbase) n) 30

/-- In dispatch mode HEAD advances over leading slots whose first doubleword is empty (16 R299). -/
def State.giveBack (s : State) (core d f : Nat) : Nat → State
  | 0 => s
  | n + 1 =>
    if s.ringCount core d = 0 ∨ s.full core (slotAddr f (s.ringHead core d)) then s
    else (((s.niRead core (d + 8) 8).bumpQ core (d + 8)).noteGiven core (slotAddr f (s.ringHead core d))).giveBack core d f n

/-- The tag of a word has become empty: a dispatch ring whose slot starts there may give slots back (16 R299). -/
def State.slotEmptied (s : State) (core off : Nat) : State :=
  match s.placedAt core off with
  | none => s
  | some (h, v) =>
    let m := s.member h v
    m.rings.foldl (fun s r =>
      if ringDisp r.2.2 ∧ s.bound m r.1 ∧ ringSlots r.2.2 ≤ off ∧ off < ringSlots r.2.2 + 256 * 2 ^ ringLogn r.2.2 ∧
          off % 256 = 0 then
        s.giveBack core r.2.1 r.2.2 256
      else s) s

/-- Empty a word's tag (18 R316), with what follows for a dispatch ring (16 R299). -/
def State.emptyTag (s : State) (core off : Nat) : State := (s.setTag core off false).slotEmptied core off

/-- Serving ends: VALID clears, what CSRC holds of the entry is left open; for a KIND 1 entry the tag of the slot's first doubleword is emptied (16 R293, R299). DESIGN CHOICE, log entry 43. -/
def State.endServing (s : State) (cid : Nat) : State :=
  let c := s.ctx cid
  if ¬ c.serving then s
  else
    let e := c.srvEntry
    let v := c.fld 0x085 36 13
    let left := toWord (bitsOf (Config.freeWord s.uid 0).toNat 0 49)
    let s := { s.setCtx cid { c.set 0x085 left with srvMsg := false } with uid := s.uid + 1 }
    if bitsOf e 62 2 = 1 then s.emptyTag (s.member c.group v).pcore (bitsOf e 0 17) else s

/-! ## Messages (16 R297, R298) -/

/-- The slot's bytes: header and payload, rounded up to whole doublewords with bytes the spec does not give (16 R298). DESIGN CHOICE, log entry 46. -/
def Msg.bytes (m : Msg) (tag : Nat) : List Byte :=
  let pad := (8 - m.payload.length % 8) % 8
  leBytes 8 m.h0 ++ leBytes 8 m.h1 ++ leBytes 8 m.h2 ++ leBytes 8 m.h3 ++ m.payload ++
    (upTo pad).map (fun i => (Config.freeWord tag i).setWidth 8)

/-- STAT of a header. -/
def Msg.stat (m : Msg) : Nat := bitsOf m.h1 56 8
def Msg.withStat (m : Msg) (k : Nat) : Msg := { m with h1 := setBits m.h1 56 8 k }

/-- Deposit a message in a bound ring with room: the slot, then TAIL, then in dispatch mode the push (16 R291, R298). -/
def State.deposit (s : State) (h v d f : Nat) (m : Msg) : State :=
  let core := (s.member h v).pcore
  let s := (s.niRead core (qbaseAddr (s.member h v).qbase + 64 + 4 * m.ring) 4).niRead core (d + 8) 8
  let slot := slotAddr f (s.ringTail core d)
  let s := s.engineBytes core slot (m.bytes s.uid)
  let s := { s with uid := s.uid + 1 }
  let s := (s.bumpQ core (d + 12)).noteDeposit core slot
    (senderKey (bitsOf m.h2 32 32) (bitsOf m.h2 0 18) (bitsOf m.h1 32 13)) (bitsOf m.h1 0 32)
  let s := s.logRx core rxDeposit ⟨bitsOf m.h2 32 32, bitsOf m.h2 0 18, bitsOf m.h1 32 13⟩ slot (m.bytes (s.uid - 1))
  if ringDisp f then
    let e := 2 ^ 62 + (if ringStl f then 2 ^ 35 else 0) + bitsOf m.h3 0 17 * 2 ^ 17 + slot
    match s.pushAt h v (ringPrio f) e with
    | some t => t
    | none => (s.wrS core (slot + 15) 1 4).lostPush h v e slot 0 v
  else s

end Sys2Proof.Machine
end

