-- ==== Sys2Proof/Machine/Hank.lean ====
section
/-! DEFINITION. The sending side of a link: masks, beats, flits, the replay buffer, and what the link engine puts on a fibre (24 R356 to R361). -/

namespace Sys2Proof.Machine

/-! ## Wavelengths and masks (24 R356, R357, R360) -/

/-- Fibres, and so links (24 R356). -/
def linkCount : Nat := 128

def State.link (s : State) (l : Nat) : Link := mgetD s.links l Link.blank

def State.setLink (s : State) (l : Nat) (x : Link) : State := { s with links := mput s.links l x }

/-- State of a wavelength: 0 to 7 outbound, 8 to 15 inbound; PARKED at reset (29 R413). -/
def Link.st (x : Link) (i : Nat) : Wl := mgetD x.wl i .parked

def Link.setSt (x : Link) (i : Nat) (w : Wl) : Link :=
  { x with wl := if w = .parked then mdel x.wl i else mput x.wl i w }

/-- Wavelengths of a hank in LIT, rising (24 R357). -/
def Link.lit (x : Link) (inbound : Bool) : List Nat :=
  (upTo 8).filter (fun i => x.st (i + if inbound then 8 else 0) == .lit)

/-- Width of the outbound hank (24 R357, R361). -/
def Link.width (x : Link) : Nat := (x.lit false).length

/-- The inbound mask of a hank that was down is what joins first, which both ends see; from then on only control flits change it (24 R358). DEDUCED, log entry 89. -/
def Link.takeMask (old new : Link) : Link := if (old.lit true).isEmpty ∧ ¬ (new.lit true).isEmpty then { new with maskIn := new.lit true } else new

/-- A mask as bits. -/
def maskBits (mask : List Nat) : Nat := (mask.map (fun i => 2 ^ i)).sum

/-- Wavelength of beat j on a mask (24 R357). -/
def beatOn (mask : List Nat) (j : Nat) : Nat := mask.getD (j % mask.length) 0

/-! ## Beats and flits (24 R356, R359, R360) -/

/-- The nine beats of a flit: the header, then the payload (24 R356). -/
def Flit.beats (f : Flit) : List Nat := (f.kind * 2 ^ 60 + f.seq % 2 ^ 32) :: (upTo 8).map (fun i => f.body.getD i 0)

/-- Beats of a wavelength's error window (24 R360). -/
def windowBeats : Nat := 2 ^ 24

/-- A wavelength's window begins anew (24 R360). -/
def Link.endWindow (x : Link) (i : Nat) : Link :=
  { x with
    errs := mdel x.errs i
    beats := mdel x.beats i }

/-- A wavelength carries a beat; a window that is full has ended. -/
def Link.countBeat (x : Link) (i : Nat) : Link :=
  let x := if windowBeats ≤ mgetD x.beats i 0 then x.endWindow i else x
  { x with beats := mput x.beats i (mgetD x.beats i 0 + 1) }

/-- The wavelengths of a mask carry the beats of a flit; `base` is 0 outbound, 8 inbound. -/
def Link.countBeats (x : Link) (mask : List Nat) (base : Nat) : Link :=
  (upTo 9).foldl (fun x j => x.countBeat (base + beatOn mask j)) x

/-- A flit has come in on the inbound mask: its beats count. -/
def Link.countIn (x : Link) : Link := x.countBeats x.maskIn 8

/-- The outbound hank carries a flit on a mask. -/
def Link.carry (x : Link) (mask : List Nat) (f : Flit) : Link :=
  let x := x.countBeats mask 0
  { x with
    out := x.out ++ [⟨mask, f.beats⟩]
    flitsOut := if f.kind = 0 then (x.flitsOut + 1) % 2 ^ 64 else x.flitsOut }

/-- Send what waits, while the hank is up: answers and flits to be sent again first, new data while the replay buffer has room (24 R359, R361). -/
def Link.pump (x : Link) : Nat → Link
  | 0 => x
  | n + 1 =>
    let mask := x.lit false
    if mask.isEmpty then x
    else
      match x.ctl, x.waiting with
      | f :: r, _ => ({ x with ctl := r }.carry mask f).pump n
      | [], b :: r =>
        if 256 ≤ x.replay.length then x
        else
          let f : Flit := ⟨0, x.seqOut, b⟩
          ({ x with
            waiting := r
            replay := x.replay ++ [f]
            seqOut := (x.seqOut + 1) % 2 ^ 32 }.carry mask f).pump n
      | [], [] => x

def Link.go (x : Link) : Link := x.pump (x.ctl.length + x.waiting.length)

/-- A change of wavelength states: where the outbound mask changes, a width-control flit tells the new one on the old one, and what follows travels on the new one (24 R358). A hank that was down has no old mask to tell it on. DEDUCED, log entry 89. -/
def Link.change (x : Link) (f : Link → Link) : Link :=
  let old := x.lit false
  let y := x.takeMask (f x)
  (if y.lit false = old ∨ old = [] then y else y.carry old ⟨3, 0, [maskBits (y.lit false)]⟩).go

/-- A wavelength begins to retrain and its window begins anew; a retraining of the outbound hank counts (24 R360, R369). -/
def Link.retrain (x : Link) (i : Nat) (counted : Bool) : Link :=
  let x := (x.setSt i .retraining).endWindow i
  { x with rcnt := if counted && decide (i < 8) then min (x.rcnt + 1) 255 else x.rcnt }

/-- An error of a lit wavelength; at ERRT it retrains (24 R359, R360). -/
def Link.error (x : Link) (errt i : Nat) : Link :=
  if x.st i ≠ .lit then x
  else if errt ≤ mgetD x.errs i 0 + 1 then x.retrain i true
  else { x with errs := mput x.errs i (mgetD x.errs i 0 + 1) }

/-! ## What leaves for another device (24 R361, R363) -/

/-- A list of doublewords in pieces of seven: a payload holds the identifier of what it belongs to and seven more. -/
def sevens : Nat → List Nat → List (List Nat)
  | 0, _ => []
  | n + 1, ws => if ws.isEmpty then [] else ws.take 7 :: sevens n (ws.drop 7)

/-- Put the data flits of an item on a link; the spec does not lay their payload out. DESIGN CHOICE, log entry 10. -/
def State.sendFlits (s : State) (l id : Nat) (ws : List Nat) : State :=
  let x := s.link l
  s.setLink l { x with waiting := x.waiting ++ (sevens ws.length ws).map (fun b => id :: b) }.go

/-- Whether a flit of an item still waits at its link (24 R361). -/
def State.unsent (s : State) (id : Nat) : Bool :=
  s.links.any (fun x => x.2.waiting.any (fun b => b.head? == some id) || x.2.ctl.any (fun f => f.kind == 0 && f.body.head? == some id))

/-- Link of the route to a device: what the host wrote in the routing table (01 R13, 24 R361). -/
def State.routeTo (s : State) (dev : Nat) : Nat := mgetD s.routing dev 0 % linkCount

/-- A device as messages and tokens name it: 0 this one, else 1 more than its number. -/
def State.devCode (s : State) (dev : Nat) : Nat := if dev = s.devNum then 0 else dev + 1

/-- What goes to another device leaves on its route. -/
def State.sendTo (s : State) (code id : Nat) (ws : List Nat) : State :=
  match code with
  | 0 => s
  | d + 1 => s.sendFlits (s.routeTo d) id ws

/-- Put an item in flight, on a link where it goes to another device. -/
def State.flyTo (s : State) (code : Nat) (ws : List Nat) (c : Cargo) : State := (s.fly c).sendTo code s.uid ws

/-- The name of a strand of another device. -/
def farCid : Nat := 2 ^ 33

/-- An answer to another device goes back as a flit; which device that was, the model leaves free. DESIGN CHOICE, log entry 10. -/
def State.answerAway (s : State) (ws : List Nat) : State :=
  { s.sendFlits (s.routeTo (Config.freeChoice s.uid)) s.uid (5 :: ws) with uid := s.uid + 1 }

/-- A message as doublewords. -/
def Msg.words (m : Msg) : List Nat :=
  [3, m.dgrp, m.dvc * 16 + m.ring, m.h0, m.h1, m.h2, m.h3] ++
    (upTo ((m.payload.length + 7) / 8)).map (dwOf m.payload)

/-- Whether a message is a bounce (16 R300). -/
def Msg.isBounce (m : Msg) : Bool := m.stat == 1 || m.stat == 3

/-- A message under way, refused or not; one that bears a bounce's STAT travels as a bounce (16 R297, R300). -/
def Msg.cargo (m : Msg) (refused : Bool) : Cargo := if m.isBounce then .bounce m refused else .msg m refused

/-- Kept messages set out in order, in front of everything else, so that each sender's order to a ring is kept (16 R298). -/
def State.flyAgain (s : State) (ms : List Msg) : State :=
  let fs := (ms.zip (upTo ms.length)).map (fun x => (⟨s.uid + x.2, { x.1 with cid := max noCid x.1.cid }.cargo false⟩ : Flight))
  { s with flights := fs ++ s.flights, uid := s.uid + ms.length }

end Sys2Proof.Machine
end

