-- ==== Sys2Proof/Machine/Future.lean ====
section
/-! DEFINITION. Futures and ports (18 R311 to R321): majors 0x24 and 0x25, and the steps of a port deposit. -/

namespace Sys2Proof.Machine

/-! ## Futures -/

/-- A word operation on a future: `act` is done at the owning bank (18 R316, R317). DEDUCED, log entry 49. -/
def fe (wr rel : Bool) (watch : Bool × Bool) (b : BitVec 4) (imm : BitVec 22) (s : State)
    (act : Nat → Nat → Word → State → Out) : Out :=
  let addr := (s.w b + imm.signExtend 64).toNat
  windowOnly addr s
    (atWord 2 8 (decide (0x20000 ≤ addr)) wr rel watch addr s fun l s =>
      match l with
      | .spad core off => act core off (toWord addr) s
      | .hbm _ => stall s)

/-- The holding that FILL.x or EMPTY by its group removes (21 R339). -/
def State.dropFuture (s : State) (core off : Nat) : State :=
  match s.heldAt s.cx.group (some 2) (.spad core off) with
  | some (i, _) => s.unregister i
  | none => s

/-- X_BEREAVED is noted for an instruction that names a marked object (21 R344). DEDUCED, log entry 54. -/
def State.named (s : State) (l : Loc) (a : Word) : State := s.noteBrvAt l a

/-- LDF (18 R316). -/
def execLdf (a b _c : BitVec 4) (imm : BitVec 22) (s : State) : Out :=
  reading [b] s fun s => fe false false (true, false) b imm s fun core off addr s =>
    if s.bereavedAt core off then trap s xHeirless addr
    else if ¬ s.full core off then blocked s (.future core off)
    else done ((s.setW a (toWord (s.rdS core off 8))).named (.spad core off) addr)

/-- LDFE (18 R316). -/
def execLdfe (a b _c : BitVec 4) (imm : BitVec 22) (s : State) : Out :=
  reading [b] s fun s => fe true false (true, true) b imm s fun core off addr s =>
    if s.bereavedAt core off then trap s xHeirless addr
    else if ¬ s.full core off then blocked s (.future core off)
    else
      let v := toWord (s.rdS core off 8)
      done (((s.emptyTag core off).setW a v).named (.spad core off) addr)

/-- FILL (18 R316). -/
def execFill (a b _c : BitVec 4) (imm : BitVec 22) (s : State) : Out :=
  reading [a, b] s fun s => fe true true (true, true) b imm s fun core off addr s =>
    if s.bereavedAt core off then trap s xHeirless addr
    else if s.full core off then trap s xDoubleFill addr
    else
      done (((((s.wrS core off 8 (s.keepW core off (s.w a).toNat)).setTag core off true).endFwd s.cur).named (.spad core off) addr).progress
        s.cx.group)

/-- FILL.x (18 R316). -/
def execFillX (a b _c : BitVec 4) (imm : BitVec 22) (s : State) : Out :=
  reading [a, b] s fun s => fe true true (true, true) b imm s fun core off addr s =>
    let t := ((s.engineW core off (s.keepW core off (s.w a).toNat)).endFwd s.cur).named (.spad core off) addr
    done ((t.dropFuture core off).progress s.cx.group)

/-- EMPTY (18 R316). -/
def execEmpty (_a b _c : BitVec 4) (imm : BitVec 22) (s : State) : Out :=
  reading [b] s fun s => fe true false (false, true) b imm s fun core off addr s =>
    let t := ((s.emptyTag core off).endBereaved core off).named (.spad core off) addr
    done (t.dropFuture core off)

/-- FEQ (18 R316). -/
def execFeq (a b _c : BitVec 4) (imm : BitVec 22) (s : State) : Out :=
  reading [b] s fun s => fe false false (true, false) b imm s fun core off addr s =>
    let v := if s.full core off then 1 else if s.bereavedAt core off then 2 else 0
    done ((s.setW a (toWord v)).named (.spad core off) addr)

/-! ## Ports -/

/-- Whether the receiving cells of a member are enabled (18 R318). -/
def Member.portEn (m : Member) : Bool := bitAt m.portb.toNat 63

/-- Offset of a member's cell d (18 R318). -/
def Member.cell (m : Member) (d : Nat) : Nat := bitsOf m.portb.toNat 0 17 + 8 * d

/-- Member beside a member in a direction within the rectangle: north, east, south, west (18 R319). -/
def neighbour (g : Group) (v d : Nat) : Option Nat :=
  let (x, y) := posOf g v
  match d with
  | 0 => if y + 1 < g.hdr.hy then some (v + g.hdr.wx) else none
  | 1 => if x + 1 < g.hdr.wx then some (v + 1) else none
  | 2 => if 0 < y then some (v - g.hdr.wx) else none
  | _ => if 0 < x then some (v - 1) else none

/-- The neighbour a port instruction names, with both members' cells enabled; X_ACCESS otherwise (18 R319). DEDUCED, log entry 133. -/
def withPort (d : Nat) (s : State) (k : Nat → Out) : Out :=
  match (s.grp s.cx.group).bind (fun g => neighbour g s.cx.vcore d) with
  | none => trap s xAccess (toWord d)
  | some n => if s.mem.portEn ∧ (s.member s.cx.group n).portEn then k n else trap s xAccess (toWord d)

/-- Direction of a port instruction (18 R320). -/
def portDir (imm : BitVec 6) : Nat := bitsOf imm.toNat 0 2

/-- The address of a cell through the group window. -/
def cellAddr (v off : Nat) : Word := toWord (0x400000000000 + v * 131072 + off)

/-- PASS (18 R320): it blocks while the target's cell is full, then sends the value by the core's copy of the placement and holds until the target acknowledges (15 R276, R279). -/
def execPass (a _b _c : BitVec 4) (imm : BitVec 6) (s : State) : Out :=
  let d := portDir imm
  let cell := (d + 2) % 4
  match s.cx.call with
  | some k =>
    (match k.answers with
     | (_, some 0) :: _ => done (s.setCx { s.cx with call := none })
     | (_, some 1) :: _ => .next (s.setCx { s.cx with call := none })
     | (_, some 3) :: _ => whenLanded s (trap (s.setCx { s.cx with call := none }) xAccess (toWord d))
     | (_, some _) :: _ =>
       match (s.grp s.cx.group).bind (fun g => neighbour g s.cx.vcore d) with
       | some n =>
         let t := s.setCx { s.cx with call := none }
         whenLanded s (trap t xRemote (cellAddr n ((s.member s.cx.group n).cell cell)))
       | none => stall s
     | _ => stall s)
  | none =>
    reading [a] s fun s =>
      withPort d s fun n =>
        let m := s.member s.cx.group n
        if m.pst = 3 then trap s xRemote (cellAddr n (m.cell cell))
        else if m.pst ≠ 0 ∨ (s.placeOf s.here s.cx.group n).1 ≠ 0 then stall s
        else if s.gated s.cur false true then stall s
        else if s.full m.pcore (m.cell cell) then blocked s (.portOut m.pcore (m.cell cell))
        else
          let c := s.cx
          let s := s.placeFill s.here c.group n
          .next ((s.setCx { c with call := some ⟨s.uid, [(0, none)], false, 0⟩ }).fly (.pass s.cur s.uid c.group n cell (s.w a)))

/-- Read the own cell of a direction: behind what the strand has on its way there and behind its fences; X_ECC for an uncorrectable error (18 R320, R321, 09 R184). -/
def ownCell (d : Nat) (wr : Bool) (s : State) (k : Nat → Out) : Out :=
  withPort d s fun _ =>
    let off := s.mem.cell d
    if s.localHeld true wr [(off, 8)] then stall s
    else if (s.badS s.here off 8).isSome then trap s xEcc (toWord off)
    else counting (s.softS s.here off 8) s (k off)

/-- TAKE (18 R320). -/
def execTake (a _b _c : BitVec 4) (imm : BitVec 6) (s : State) : Out :=
  ownCell (portDir imm) true s fun off =>
    if ¬ s.full s.here off then blocked s (.portIn off)
    else
      let v := toWord (s.rdS s.here off 8)
      done ((s.emptyTag s.here off).setW a v)

/-- PEEK (18 R320). -/
def execPeek (a b _c : BitVec 4) (imm : BitVec 6) (s : State) : Out :=
  ownCell (portDir imm) false s fun off =>
    if s.full s.here off then done ((s.setW a (toWord (s.rdS s.here off 8))).setW b 1)
    else done (s.setW b 0)

/-- PORT_DEPOSIT (18 R320, R321): the value reaches the target's cell, if its cells are still enabled (18 R319), and the tag is set full; the target answers. One that a member's move finds in flight lands before its snapshot (09 R192). -/
def execPortDeposit (id : Nat) (s : State) : Out :=
  match s.flight id with
  | some (.pass cid call group vc cell v) =>
    let m := s.member group vc
    let core := m.pcore
    let off := m.cell cell
    if (s.grp group).isNone ∨ m.pst = 3 then .next (s.refly id (.passAck cid call group vc 2))
    else if m.pst = 2 then .next s
    else if ¬ m.portEn then .next (s.refly id (.passAck cid call group vc 3))
    else if s.full core off then .next (s.refly id (.passAck cid call group vc 1))
    else .next (((s.engineW core off v.toNat).logWrite core rxPort (s.byMember group (s.ctx cid).vcore) off true (leBytes 8 v.toNat)).refly id (.passAck cid call group vc 0))
  | _ => .next s

/-- PORT_ACK (18 R320): the acknowledgement reaches the issuing strand. -/
def execPortAck (id : Nat) (s : State) : Out :=
  match s.flight id with
  | some (.passAck cid call group vc res) =>
    .next (((s.land id).answer cid call 0 res).logRx (coreOfCid cid) rxAnswer (s.byMember group vc) res [])
  | _ => .next s

end Sys2Proof.Machine
end

