-- ==== Sys2Proof/Machine/Barrier.lean ====
section
/-! DEFINITION. Barriers (19): major 0x2C, and the steps of arrivals, releases and tokens. -/

namespace Sys2Proof.Machine

/-! ## Rectangle barriers (19 R322 to R325) -/

/-- Barrier register of a member. -/
def State.bar (s : State) (h v b : Nat) : Word := mgetD (s.member h v).bars b 0

/-- A barrier register with one field replaced. -/
def State.setBarFld (s : State) (h v b lo w x : Nat) : State :=
  s.updMember h v (fun m => { m with bars := mput m.bars b (toWord (setBits (mgetD m.bars b 0).toNat lo w x)) })

/-- Live contexts of the group on a member; a copy strand is none. -/
def State.liveOn (s : State) (h v : Nat) : Nat :=
  ((s.groupCids h).filter (fun i => !isCopy i && (s.ctx i).vcore == v)).length

/-- Whether a member is short of contexts: it has exited, or its live ones are fewer than CNT + 1 (19 R325). -/
def State.lacks (s : State) (h v b : Nat) : Bool :=
  (s.member h v).pst == 3 || decide (s.liveOn h v < bCnt (s.bar h v b) + 1)

/-- Whether a list of inputs has barrier b, bereaved or not. -/
def hasIn (l : List Nat) (b : Nat) : Bool := l.contains b || l.contains (b + 8)

/-- Whether a member may pass its combined arrival on (19 R323). -/
def State.mayPass (s : State) (g : Group) (v b : Nat) : Bool :=
  let r := s.bar g.handle v b
  let m := s.member g.handle v
  let (x, y) := posOf g v
  bEn r && !m.passed.contains b && decide (bArr r = bCnt r + 1) &&
    (!bHas r (x + 1, y) || hasIn m.eastIn b) &&
    (x != bX0 r || !bHas r (x, y + 1) || hasIn m.northIn b)

/-- Pass the combined arrival west, or south on column X0; at the corner it turns into the release (19 R323). -/
def State.passOn (s : State) (g : Group) (v b : Nat) : State :=
  let r := s.bar g.handle v b
  let m := s.member g.handle v
  let (x, y) := posOf g v
  let brv := m.bereft.contains b || m.eastIn.contains (b + 8) || m.northIn.contains (b + 8)
  let out (l : List Nat) : List Nat := l.filter (fun i => i != b && i != b + 8)
  let s := s.updMember g.handle v (fun m =>
    { m with
      passed := m.passed ++ [b]
      eastIn := out m.eastIn
      northIn := out m.northIn })
  if x ≠ bX0 r then s.fly (.barHop g.handle b (v - 1) false brv)
  else if y ≠ bY0 r then s.fly (.barHop g.handle b (v - g.hdr.wx) true brv)
  else s.fly (.barRel g.handle b v brv)

/-- Pass on if the conditions hold. -/
def State.tryPass (s : State) (h v b : Nat) : State :=
  match s.grp h with
  | some g => if s.mayPass g v b then s.passOn g v b else s
  | none => s

/-- Where a member is short of contexts, the missing arrivals of its open episode count as arrived, and that release and every later one are bereaved; one that has passed its arrival on fills its next episode (19 R325). -/
def State.fillBar (s : State) (h v b : Nat) : State :=
  let r := s.bar h v b
  if bEn r ∧ s.lacks h v b then
    (s.setBarFld h v b (if (s.member h v).passed.contains b then 44 else 40) 4 (bCnt r + 1)).updMember h v
      (fun m => { m with bereft := nins m.bereft b })
  else s

/-- An exit on a member may complete its barriers' open episodes (19 R325). -/
def State.exitBars (s : State) (h v : Nat) : State := (upTo 8).foldl (fun s b => (s.fillBar h v b).tryPass h v b) s

/-- BARRIER_ARRIVAL_HOP (19 R323): a neighbour's combined arrival reaches a member. -/
def execBarrierArrivalHop (id : Nat) (s : State) : Out :=
  match s.flight id with
  | some (.barHop h b v north brv) =>
    let x := if brv then b + 8 else b
    let s := (s.land id).updMember h v (fun m =>
      if north then { m with northIn := m.northIn ++ [x] } else { m with eastIn := m.eastIn ++ [x] })
    .next (s.tryPass h v b)
  | _ => .next s

/-- The release at a member (19 R323, R325): EPOCH, ARR, NXT and BRV move, and the release goes on north along column X0 and east. -/
def State.release (s : State) (g : Group) (v b : Nat) (brv : Bool) : State :=
  let r := s.bar g.handle v b
  let (x, y) := posOf g v
  let r' := setBits r.toNat 48 8 (bEpoch r + 1)
  let r' := setBits (setBits r' 40 4 (bNxt r)) 44 4 0
  let r' := setBits r' 62 1 (if brv then 1 else 0)
  let s := s.updMember g.handle v (fun m =>
    { m with
      bars := mput m.bars b (toWord r')
      passed := m.passed.filter (fun i => i != b) })
  let s := if x = bX0 r ∧ bHas r (x, y + 1) then s.fly (.barRel g.handle b (v + g.hdr.wx) brv) else s
  let s := if bHas r (x + 1, y) then s.fly (.barRel g.handle b (v + 1) brv) else s
  (s.fillBar g.handle v b).tryPass g.handle v b

/-- BARRIER_RELEASE_HOP (19 R323). -/
def execBarrierReleaseHop (id : Nat) (s : State) : Out :=
  match s.flight id with
  | some (.barRel h b v brv) =>
    (match (s.land id).grp h with
     | some g => .next ((s.land id).release g v b brv)
     | none => .next (s.land id))
  | _ => .next s

/-! ## Dissemination barriers (19 R327 to R329) -/

/-- Rounds: the least k with N ≤ 2^k (19 R328). -/
def rounds (n : Nat) : Nat := if n ≤ 1 then 0 else (n - 1).log2 + 1

/-- Rank that round k sends to (19 R328). -/
def partner (n rank k : Nat) : Nat := (rank + 2 ^ k) % n

def State.party (s : State) (h v d : Nat) : Option Party := mget (s.member h v).parties d

def State.setParty (s : State) (h v d : Nat) (p : Party) : State :=
  s.updMember h v (fun m => { m with parties := mput m.parties d p })

/-- A party known only by tokens that came before its arrival. -/
def Party.blank : Party := ⟨0, 0, 0, 0, [], 0, 0, false, false, false, [], false, 0, 0⟩

/-- FLAGS and EPOCH of a party: in its descriptor, or at the NI for a heirless rank (19 R327, R329). -/
def State.dFlags (s : State) (h v d : Nat) (p : Party) : Nat :=
  if p.ghost then p.flags else s.rdS (s.member h v).pcore (d + 24) 4

def State.dEpoch (s : State) (h v d : Nat) (p : Party) : Nat :=
  if p.ghost then p.epoch else s.rdS (s.member h v).pcore (d + 16) 1

/-- Bit of round k in episode e (19 R327). -/
def flagBit (k e : Nat) : Nat := k + 16 * (e % 2)

/-- Send the token of the party's round, with its partition key and its bereaved mark (19 R328, R329). -/
def State.sendToken (s : State) (h w d : Nat) (p : Party) : State :=
  match p.partners[p.round]? with
  | some (g, dev, v) =>
    let brv := p.brvTok || p.ghost
    (s.flyFrom (some (s.member h w).pcore) (.dbarTok (s.devCode dev) g v d p.round p.ep brv (s.partOf h))).sendTo (s.devCode dev) s.uid
      [4, g, v, d, p.round, p.ep, s.partOf h + (if brv then 2 ^ 16 else 0)]
  | none => s

/-- The rounds are done: the episode's flags are cleared and EPOCH moves (19 R328). -/
def State.dRelease (s : State) (h v d : Nat) (p : Party) : State :=
  let f := s.dFlags h v d p
  let f' := setBits f (16 * (p.ep % 2)) 16 0
  let early := p.early.filter (fun e => e != p.ep % 2)
  if p.ghost then
    s.setParty h v d { p with active := false, flags := f', epoch := p.ep % 256, early := early }
  else
    let core := (s.member h v).pcore
    let s := s.wrS core (d + 24) 4 f'
    let s := s.wrS core (d + 16) 2 (setBits (setBits (s.rdS core (d + 16) 2) 0 8 p.ep) 8 1 (if p.brv then 1 else 0))
    s.setParty h v d { p with active := false, brvTok := false, early := early }

/-- A heirless rank's next episode opens once a token of it has come (19 R329). -/
def Party.reopens (p : Party) : Bool := p.ghost && !p.active && bitsOf p.flags (16 * ((p.epoch + 1) % 2)) 16 != 0

def Party.reopened (p : Party) : Party :=
  { p with
    active := true
    ep := (p.epoch + 1) % 256
    round := 0
    brv := false }

/-- Run the rounds as far as the tokens received allow (19 R328, R329). -/
def State.runParty (s : State) (h v d : Nat) : Nat → State
  | 0 => s
  | n + 1 =>
    match s.party h v d with
    | none => s
    | some p =>
      let p := { p with brv := p.brv || p.early.contains (p.ep % 2) || p.brvTok }
      if p.reopens then ((s.setParty h v d p.reopened).sendToken h v d p.reopened).runParty h v d n
      else if ¬ p.active then s
      else if p.round = rounds p.n then (s.dRelease h v d p).runParty h v d n
      else if bitAt (s.dFlags h v d p) (flagBit p.round p.ep) then
        let q := { p with round := p.round + 1 }
        ((s.setParty h v d q).sendToken h v d q).runParty h v d n
      else s.setParty h v d p

/-- Steps that suffice for the rounds of the episodes whose tokens a party can hold. -/
def runFuel : Nat := 64

/-- An arrival of a party: it opens its episode and sends its first token (19 R328). -/
def State.dArrive (s : State) (h v d : Nat) (p : Party) : State :=
  ((s.setParty h v d p).sendToken h v d p).runParty h v d runFuel

/-- A token is received: the flag is set as an engine write, or at the NI for a heirless rank, which runs its rounds as its tokens arrive (19 R328, R329). DEDUCED, log entry 51. -/
def State.takeToken (s : State) (h v d k e : Nat) (brv : Bool) : State :=
  let p := (s.party h v d).getD Party.blank
  let p := { p with early := if brv then p.early ++ [e % 2] else p.early }
  if p.ghost then
    let p := { p with flags := setBits p.flags (flagBit k e) 1 1 }
    (s.setParty h v d p).runParty h v d runFuel
  else
    let core := (s.member h v).pcore
    let s := (s.niRead core (d + 24) 8).depositW (s.byMember h v) core (d + 24) (setBits (s.rdS core (d + 24) 8) (flagBit k e) 1 1)
    (s.setParty h v d p).runParty h v d runFuel

/-- The heir of a party: the group that its membership was conveyed to, or for a member that has exited the heir it names (16 R300, 19 R328, 21 R346). -/
def State.partyHeir (s : State) (h v d : Nat) : Option Nat :=
  match s.holderOf 1 (0, spadLoc h v d) with
  | some (_, e) =>
    if e.holder ≠ h then some e.holder
    else if (s.member h v).pst = 3 ∧ s.validHeir e.heir (s.partOf h) then some e.heir
    else none
  | none => none

/-- A token that nobody can take: it has no ring to go back to, so its supervisor hears of it (16 R300). DESIGN CHOICE, log entry 110. -/
def State.lostToken (s : State) (id part h v : Nat) : State :=
  let s := (s.land id).supRec part ⟨xUndelivered, Config.freeWord s.uid 0, 0, [h, v]⟩
  { s with uid := s.uid + 1 }

/-- DBAR_TOKEN_ARRIVAL (19 R328): the key is matched; an absent destination follows 16 R300, the party's heir in the ring's place. A token for another device leaves once its flit has gone out. -/
def execDbarTokenArrival (id : Nat) (s : State) : Out :=
  match s.flight id with
  | some (.dbarTok dev h v d k e brv part) =>
    if dev ≠ 0 then .next (if s.unsent id then s else s.land id)
    else
      match s.grp h with
      | none => .next (s.lostToken id part h v)
      | some g =>
        if g.part ≠ part then .next ((s.land id).supRec g.part ⟨xContainment, 0, 0, [h, v]⟩)
        else
          match s.partyHeir h v d with
          | some h' => .next (s.reflyFrom (s.member h v).pcore id (.dbarTok 0 h' 0 d k e brv part))
          | none =>
            let ghost := match s.party h v d with
              | some p => p.ghost
              | none => false
            let pst := (s.member h v).pst
            if g.state = .submitted ∨ pst = 1 ∨ pst = 2 then .next s
            else if pst == 3 && !ghost && g.state != .exiting then .next (s.lostToken id part h v)
            else .next ((s.land id).takeToken h v d k e brv)
  | _ => .next s

/-! ## The BAR instructions (19 R330) -/

/-- Whether BARW shows a barrier pending (19 R326). -/
def Ctx.barwNames (c : Ctx) (kind who : Nat) : Bool :=
  c.fld 0x0B8 63 1 == 1 && c.fld 0x0B8 62 1 == kind && c.fld 0x0B8 0 17 == who

/-- BARW after an arrival of a sync (19 R326). -/
def Ctx.setBarw (c : Ctx) (kind who e : Nat) : Ctx := c.set 0x0B8 (toWord (2 ^ 63 + kind * 2 ^ 62 + e * 2 ^ 32 + who))

/-- Barrier number of a BAR instruction. -/
def barNo (imm : BitVec 6) : Nat := bitsOf imm.toNat 0 3

/-- Before an arrival: S drains as WAITC does, a remote failure traps, and every earlier access is performed at the barrier's scope (09 R195, 19 R330). -/
def arriving (sys : Bool) (s : State) (k : State → Out) : Out :=
  if s.classS s.cur ≠ 0 then blocked s (.waitc 15 0 15 15)
  else remoteOr s.cx.pc s (if ¬ s.drained s.cur sys then stall s else k s)

/-- An arrival is made: it is a release, and the group's watchdog begins anew (09 R195, 15 R280, R283). -/
def State.arrived (s : State) : State := (s.endFwd s.cur).progress s.cx.group

/-- Whether episode e is not yet released (19 R330). -/
def notYet (epoch e : Nat) : Bool := decide (128 ≤ (epoch + 256 - e) % 256)

/-- The end of a wait: BARW.PEND is cleared and the result written (19 R330). -/
def waited (a : BitVec 4) (brv : Bool) (e : Nat) (s : State) : Out :=
  done ((s.setCx (s.cx.setFld 0x0B8 63 1 0)).setW a (toWord ((if brv then 2 ^ 63 else 0) + e)))

/-- The wait of a rectangle barrier (19 R330). -/
def barWaitFor (a : BitVec 4) (b e : Nat) (s : State) : Out :=
  let r := mgetD s.mem.bars b 0
  if notYet (bEpoch r) e then blocked s (.bar b e) else waited a (bBrv r) e s

/-- The arrival of a rectangle barrier: the episode joined (19 R324). -/
def barArriveAt (b : Nat) (s : State) (k : Nat → State → Out) : Out :=
  arriving false s fun s =>
    let c := s.cx
    let r := mgetD s.mem.bars b 0
    if bArr r < bCnt r + 1 then
      k ((bEpoch r + 1) % 256) ((s.arrived.setBarFld c.group c.vcore b 40 4 (bArr r + 1)).tryPass c.group c.vcore b)
    else if bNxt r < bCnt r + 1 then k ((bEpoch r + 2) % 256) (s.arrived.setBarFld c.group c.vcore b 44 4 (bNxt r + 1))
    else blocked s (.barFull b)

/-- The target of minors 0 to 2 (19 R330). -/
def withBar (i : Instr) (b : Nat) (s : State) (k : Out) : Out :=
  let r := mgetD s.mem.bars b 0
  match s.grp s.cx.group with
  | some g => if bEn r ∧ bHas r (posOf g s.cx.vcore) then k else operandTrap s i
  | none => operandTrap s i

/-- BAR.sync (19 R330). -/
def execBarSync (a b c : BitVec 4) (imm : BitVec 6) (s : State) : Out :=
  let n := barNo imm
  withBar (.barSync a b c imm) n s
    (if s.cx.barwNames 0 n then barWaitFor a n (s.cx.fld 0x0B8 32 8) s
     else barArriveAt n s fun e s => barWaitFor a n e (s.setCx (s.cx.setBarw 0 n e)))

/-- BAR.arrive (19 R330). -/
def execBarArrive (a b c : BitVec 4) (imm : BitVec 6) (s : State) : Out :=
  let n := barNo imm
  withBar (.barArrive a b c imm) n s (barArriveAt n s fun e s => done (s.setW a (toWord e)))

/-- BAR.wait (19 R330). -/
def execBarWait (a b c : BitVec 4) (imm : BitVec 6) (s : State) : Out :=
  let n := barNo imm
  reading [a] s fun s =>
    withBar (.barWait a b c imm) n s (barWaitFor a n ((s.w a).toNat % 256) s)

/-- The descriptor of minors 3 to 5, with the watchpoints on it (19 R327, R330, 28 R400). -/
def withDesc (i : Instr) (b : BitVec 4) (s : State) (k : Nat → State → Out) : Out :=
  reading [b] s fun s =>
    let d := (s.w b).toNat
    if d % 32 ≠ 0 then trap s xMisalign (toWord d)
    else if 0x20000 ≤ d then trap s xAccess (toWord d)
    else
      match s.badS s.here d 32 with
      | some x => trap s xEcc (toWord x)
      | none =>
        let w := s.rdS s.here d 8
        if s.localHeld true false [(d, 32)] then stall s
        else
          counting (s.softS s.here d 32) s
            (if bitsOf w 34 30 ≠ 0 ∨ bitsOf w 0 16 = 0 ∨ bitsOf w 0 16 ≤ bitsOf w 16 16 then operandTrap s i
             else watched true false [(d, 32)] s fun s => k d s)

/-- The wait of a dissemination barrier (19 R330). -/
def dbarWaitFor (a : BitVec 4) (d e : Nat) (s : State) : Out :=
  let w := s.rdS s.here (d + 16) 2
  if notYet (w % 256) e then blocked s (.dbar d e)
  else waited a (bitAt w 8) e (s.named (.spad s.here d) (toWord d))

/-- Addresses of the table entries of a party's partners (19 R327, R328). -/
def partnerElems (table : Word) (n rank : Nat) : List Elem :=
  (upTo (rounds n)).map (fun k => ⟨(table + toWord (8 * partner n rank k)).toNat, 8, .load, 0, 0, false⟩)

/-- A rank table entry: group, device, member (19 R327). -/
def rankEntry (x : Nat) : Nat × Nat × Nat := (bitsOf x 32 32, bitsOf x 13 18, bitsOf x 0 13)

/-- The partners' entries of a descriptor are read as loads (19 R327, R330): every minor checks them. -/
def withPartners (i : Instr) (d : Nat) (s : State) (k : List (Nat × Nat × Nat) → State → Out) : Out :=
  let w := s.rdS s.here d 8
  let es := partnerElems (toWord (s.rdS s.here (d + 8) 8)) (bitsOf w 0 16) (bitsOf w 16 16)
  match pick (fun (e : Elem) => e.va % 8 != 0) es with
  | some e => trap s xMisalign (toWord e.va)
  | none =>
    loadingAt es s fun xs s => if xs.any (fun x => bitAt x 31) then operandTrap s i else k (xs.map rankEntry) s

/-- The party that a descriptor and its partners' entries describe, at its arrival for episode e. -/
def State.partyOf (s : State) (d e : Nat) (partners : List (Nat × Nat × Nat)) : Party :=
  let w := s.rdS s.here d 8
  { (s.party s.cx.group s.cx.vcore d).getD Party.blank with
    n := bitsOf w 0 16
    rank := bitsOf w 16 16
    scope := bitsOf w 32 2
    table := toWord (s.rdS s.here (d + 8) 8)
    partners := partners
    ep := e
    round := 0
    active := true
    brv := false
    ghost := false }

/-- The group and member where a barrier party stands now: the range that owns the descriptor, or since a conveyance the holder's VCORE 0 (21 R346). -/
def Holding.partyAt (e : Holding) : Nat × Nat :=
  let (h, v, _) := locParts e.loc
  if e.holder = h then (h, v) else (e.holder, 0)

/-- Whether a party has its membership already, its own or one conveyed to it (21 R339, R346). -/
def State.isMember (s : State) (h v d : Nat) : Bool :=
  (s.holderOf 1 (0, spadLoc h v d)).isSome ||
    s.estate.any (fun e => e.2.kind == 1 && e.2.space == 0 && e.2.holder == h && e.2.partyAt == (h, v) && (locParts e.2.loc).2.2 == d)

/-- The arrival of a dissemination barrier: it waits for the party's previous one, and the membership is registered at the first (19 R328, R330, 21 R339). -/
def dbarArriveAt (d : Nat) (partners : List (Nat × Nat × Nat)) (s : State) (k : Nat → State → Out) : Out :=
  arriving (bitsOf (s.rdS s.here d 8) 32 2 == 3) s fun s =>
    let c := s.cx
    if ((s.party c.group c.vcore d).map (fun p => p.active)).getD false then blocked s (.dbarFull d)
    else
      let e := (s.rdS s.here (d + 16) 1 + 1) % 256
      let p := s.partyOf d e partners
      let s := if s.isMember c.group c.vcore d then s else (s.register c.group 1 0 (0, spadLoc c.group c.vcore d)).1
      k e (s.arrived.dArrive c.group c.vcore d p)

/-- DBAR.sync (19 R330). -/
def execDbarSync (a b c : BitVec 4) (imm : BitVec 6) (s : State) : Out :=
  withDesc (.dbarSync a b c imm) b s fun d s => withPartners (.dbarSync a b c imm) d s fun ps s =>
    if s.cx.barwNames 1 d then dbarWaitFor a d (s.cx.fld 0x0B8 32 8) s
    else dbarArriveAt d ps s fun e s => dbarWaitFor a d e (s.setCx (s.cx.setBarw 1 d e))

/-- DBAR.arrive (19 R330). -/
def execDbarArrive (a b c : BitVec 4) (imm : BitVec 6) (s : State) : Out :=
  withDesc (.dbarArrive a b c imm) b s fun d s => withPartners (.dbarArrive a b c imm) d s fun ps s =>
    dbarArriveAt d ps s fun e s => done ((s.setW a (toWord e)).named (.spad s.here d) (toWord d))

/-- DBAR.wait (19 R330). -/
def execDbarWait (a b c : BitVec 4) (imm : BitVec 6) (s : State) : Out :=
  reading [a] s fun s => withDesc (.dbarWait a b c imm) b s fun d s => withPartners (.dbarWait a b c imm) d s fun _ s =>
    dbarWaitFor a d ((s.w a).toNat % 256) s

end Sys2Proof.Machine
end

