-- ==== Sys2Proof/Machine/Codelet.lean ====
section
/-! DEFINITION. Codelets (16 R287 to R295, R302 to R305): major 0x28, and the steps of a remote decrement and of a steal round. -/

namespace Sys2Proof.Machine

/-- Answers of a decrement that are no count: underflow, a member that is gone, an address whose checks fail with a cause. -/
def decFail : Nat := 2 ^ 32
def decGone : Nat := 2 ^ 33
def decBad (cause : Nat) : Nat := 2 ^ 34 + cause

/-- The trap that an answer means. -/
def decCause (v : Nat) : Option Nat :=
  if v = decFail then some xCounterUnderflow else if v = decGone then some xRemote else if 2 ^ 34 ≤ v then some (v - 2 ^ 34) else none

/-- Answer of a thief's last round that took nothing. -/
def noEntry : Nat := 2 ^ 80

/-- The member of the focus' group whose scratchpad holds a place. -/
def State.vcoreAt (s : State) (core : Nat) : Nat := (s.vcoreOn s.cx.group core).getD s.cx.vcore

/-- The member that an aligned window address names. -/
def State.ownerVcore (s : State) (addr : Nat) : Nat :=
  match rngOf addr with
  | .win v _ => v
  | _ => s.cx.vcore

/-- CARM (16 R303). -/
def execCarm (a b c : BitVec 4) (imm : BitVec 6) (s : State) : Out :=
  reading [a, b] s fun s =>
    let addr := (s.w b).toNat
    if addr % 16 ≠ 0 then trap s xMisalign (toWord addr)
    else if 0x20000 ≤ addr then trap s xAccess (toWord addr)
    else if ¬ qbaseEn s.mem.qbase then operandTrap s (.carm a b c imm)
    else
      atWord 2 8 false true true (true, true) addr s fun l s =>
        match l with
        | .spad core off =>
          let n := (s.w a).toNat % 2 ^ 32
          let w := setBits (s.rdS core off 8) 0 32 n
          let w := setBits w 32 2 (bitsOf imm.toNat 0 2)
          let w := cwBit (cwBit (cwBit w 34 (bitAt imm.toNat 2)) 37 false) 35 (n != 0)
          let t := (s.wrS core off 8 w).endFwd s.cur
          done (if n = 0 then t.pushBlock s.cx.group (s.vcoreAt core) off addr s.cx.pc.toNat s.cx.vcore else t)
        | .hbm _ => stall s

/-- What becomes of a decrement's answer (16 R288, R303). -/
def cdecAnswer (a b : BitVec 4) (r : Nat) (s : State) : Out :=
  let t := s.setCx { s.cx with call := none }
  match decCause r with
  | some k => whenLanded s (trap t k (t.w b))
  | none => done ((t.setW a (toWord r)).progress t.cx.group)

/-- CDEC (16 R303, R304): at the own bank at once; elsewhere it holds the strand until the bank answers. -/
def execCdec (a b _c : BitVec 4) (_imm : BitVec 6) (s : State) : Out :=
  match s.cx.call with
  | some k =>
    (match k.answers with
     | (_, some r) :: _ => cdecAnswer a b r s
     | _ => stall s)
  | none =>
    reading [b] s fun s =>
      let addr := (s.w b).toNat
      if addr % 16 ≠ 0 then trap s xMisalign (toWord addr)
      else
        windowOnly addr s
          (atWord 2 8 true true true (true, true) addr s fun l s =>
            let s := s.endFwd s.cur
            let c := s.cx
            match l with
            | .spad core off =>
              if core = s.here then
                match s.decAt c.group (s.vcoreAt core) off addr c.pc.toNat c.vcore with
                | (t, some n) => cdecAnswer a b n t
                | (t, none) => whenLanded s (cdecAnswer a b decFail t)
              else
                .next (((s.placeFill s.here c.group (s.vcoreAt core)).setCx { c with call := some ⟨s.uid, [(0, none)], false, 0⟩ }).fly
                  (.dec s.cur s.uid 0 c.group (s.vcoreAt core) off c.vcore (toWord addr) c.pc))
            | .hbm _ => stall s)

/-- CREADY (16 R303). -/
def execCready (a b _c : BitVec 4) (_imm : BitVec 6) (s : State) : Out :=
  reading [b] s fun s =>
    let addr := (s.w b).toNat
    if addr % 16 ≠ 0 then trap s xMisalign (toWord addr)
    else
      windowOnly addr s
        (atWord 2 8 true true true (true, true) addr s fun l s =>
          let c := s.cx
          match l with
          | .spad core off =>
            let s := s.endFwd s.cur
            let w := s.rdS core off 8
            if cwQueued w then done ((s.setW a 0).progress c.group)
            else
              let t := (s.wrS core off 8 (cwBit w 35 false)).pushBlock c.group (s.vcoreAt core) off addr c.pc.toNat
                c.vcore
              done ((t.setW a 1).progress c.group)
          | .hbm _ => stall s)

/-! ## CPOP (16 R293, R303, R305) -/

/-- The context serves a taken entry: its group-window address and its entry point (16 R293, R303). -/
def State.serveEntry (s : State) (a b : BitVec 4) (v e : Nat) : State :=
  let core := (s.member s.cx.group v).pcore
  let msg := bitsOf e 62 2 == 1
  let addr := bitsOf e 0 17
  let blk := if msg then bitsOf e 17 17 else addr
  let entry := s.rdS core (blk + 8) 8
  let s := s.niRead core (blk + 8) 8
  let c := s.cx
  let s := s.setCx { c.set 0x085 (toWord (2 ^ 63 + v * 2 ^ 36 + bitsOf e 0 36)) with srvMsg := msg, call := none }
  let s := if msg then s.noteTaken core addr else s
  (s.setW a (toWord (0x400000000000 + v * 131072 + addr))).setW b (toWord entry)

/-- No entry was taken: CPOP blocks, or answers 0 (16 R303). -/
def cpopNone (a b : BitVec 4) (imm : BitVec 6) (s : State) : Out :=
  let s := s.setCx { s.cx with call := none }
  if bitAt imm.toNat 0 then blocked s (.cpop (bitAt imm.toNat 1)) else done ((s.setW a 0).setW b 0)

/-- CPOP (16 R303); it is an acquire, behind the strand's fences and acquires (09 R184, R193). -/
def execCpop (a b c : BitVec 4) (imm : BitVec 6) (s : State) : Out :=
  match s.cx.call with
  | some k =>
    (match k.answers with
     | (_, some x) :: _ => if x = noEntry then cpopNone a b imm s else done (s.serveEntry a b (x / 2 ^ 64) (x % 2 ^ 64))
     | _ => stall s)
  | none =>
    let m := s.mem
    let area := qbaseAddr m.qbase
    if ¬ qbaseEn m.qbase then operandTrap s (.cpop a b c imm)
    else if bitAt (s.rdS s.here (area + 32) 8) 0 then counting (s.softS s.here (area + 32) 8) s (trap s xQueueFrozen (toWord area))
    else if s.gated s.cur true false then stall s
    else
      let s := (s.niRead s.here (area + 32) 8).endServing s.cur
      let cx := s.cx
      match s.popOwn cx.group cx.vcore with
      | some (t, e) => done (t.serveEntry a b cx.vcore e)
      | none =>
        if bitAt imm.toNat 1 then cpopNone a b imm s
        else .next { s.setCx { cx with call := some ⟨s.uid, [(0, none)], true, 0⟩ } with uid := s.uid + 1 }

/-- STEAL_ROUND (16 R292): the hub of one cluster picks a member and takes one entry, or the thief goes on to the next cluster. DESIGN CHOICE, log entry 99. -/
def execStealRound (cid : Nat) (s : State) : Out :=
  match mget s.ctxs cid with
  | none => .next s
  | some c =>
    match c.call with
    | some k =>
      (match k.steal, k.answers with
       | true, [(_, none)] =>
         let cls := s.groupClusters c.group
         let cl := roundCluster (clusterOf (coreOfCid cid)) k.round cls
         let s := s.hubReads c.group (s.membersIn c.group cl)
         match (s.hubPick c.group cl).bind (fun v => (s.stealFrom c.group v).map (fun x => (v, x))) with
         | some (v, t, e) =>
           let t := s.logDiff t (s.member c.group v).pcore rxAccess (s.byMember c.group c.vcore)
           .next ((t.logRx (coreOfCid cid) rxSteal (s.byMember c.group v) e []).answer cid k.id 0 (v * 2 ^ 64 + e))
         | none =>
           if k.round + 1 < cls.length then .next (s.setCtx cid { c with call := some { k with round := k.round + 1 } })
           else .next (s.answer cid k.id 0 noEntry)
       | _, _ => .next s)
    | none => .next s

/-! ## CDONE (16 R302, R303) -/

/-- Offset of a MASK bit (16 R302). -/
def stencil : Nat → Int × Int
  | 0 => (1, 0)
  | 1 => (0, 1)
  | 2 => (1, 1)
  | 3 => (-1, 1)
  | 4 => (1, -1)
  | 5 => (2, 0)
  | 6 => (0, 2)
  | _ => (-1, 0)

/-- Addresses of the successors of tile (x, y), in ascending order of the mask bits (16 R302, R303). -/
def Ctx.successors (c : Ctx) (x y : Nat) : List Nat :=
  (upTo 8).filterMap (fun m =>
    let nx := (x : Int) + (stencil m).1
    let ny := (y : Int) + (stencil m).2
    if bitAt (c.fld 0x080 0 8) m ∧ 0 ≤ nx ∧ nx < (c.fld 0x080 16 12 : Int) ∧ 0 ≤ ny ∧ ny < (c.fld 0x080 32 12 : Int) then
      some (wrapInt 64 ((c.get 0x083).toNat + nx * sint 32 (c.fld 0x084 0 32) + ny * sint 32 (c.fld 0x084 32 32)))
    else none)

/-- The checks of one counter's address: alignment, windows, range, then the place (08 R168, 16 R285, R303). DEDUCED, log entry 45. -/
def State.counterBad (s : State) (addr : Nat) : Option Nat :=
  if addr % 16 ≠ 0 then some xMisalign
  else
    let e : Elem := ⟨addr, 8, probeOp true, 0, 0, false⟩
    match rngOf addr, s.locate 2 e with
    | .user, _ => some xAccess
    | _, .bad k _ => some k
    | .sup, _ => some xAccess
    | _, .to a =>
      (match s.placeNow e a with
       | .to l => (s.wordBad e a l).map (fun x => x.1)
       | .fail => some xRemote
       | .wait => none)
    | _, .miss => none

/-- The answers a CDONE waits for: those of addresses whose checks fail are there at once. -/
def State.cdoneAnswers (s : State) (as : List Nat) : List (Nat × Option Nat) :=
  (as.zip (upTo as.length)).map (fun x => (x.2, (s.counterBad x.1).map decBad))

/-- The read of a counter's word, whose corrected error counts (11 R229). -/
def State.counterRead (s : State) (addr : Nat) : State :=
  let e : Elem := ⟨addr, 8, probeOp true, 0, 0, false⟩
  match s.locate 2 e with
  | .to a =>
    (match s.placeNow e a with
     | .to l => s.softRead s.here l 8
     | _ => s)
  | _ => s

/-- Send the decrements of a CDONE in order (16 R304). -/
def State.sendDecs (s : State) (call : Nat) (as : List Nat) (rs : List (Nat × Option Nat)) : State :=
  (as.zip rs).foldl (fun s x =>
    let c := s.cx
    if x.2.2.isSome then s
    else ((s.counterRead x.1).placeFill s.here c.group (s.ownerVcore x.1)).fly (.dec s.cur call x.2.1 c.group (s.ownerVcore x.1) (x.1 % 131072) c.vcore (toWord x.1) c.pc)) s

/-- The end of a CDONE whose decrements are all answered: serving ends, then the failure at the lowest mask bit traps (16 R303, R304). DEDUCED, log entry 45. -/
def cdoneEnd (as : List Nat) (rs : List (Nat × Option Nat)) (s : State) : Out :=
  let t := (s.setCx { s.cx with call := none }).endServing s.cur
  match rs.findSome? (fun r => (r.2.bind decCause).map (fun k => (r.1, k))) with
  | some (i, k) => whenLanded s (trap t k (toWord (as.getD i 0)))
  | none => done (t.progress t.cx.group)

/-- CDONE (16 R303, R304). -/
def execCdone (a _b _c : BitVec 4) (_imm : BitVec 6) (s : State) : Out :=
  reading [a] s fun s =>
    let w := (s.w a).toNat
    let as := s.cx.successors (bitsOf w 0 16) (bitsOf w 16 16)
    match s.cx.call with
    | some k => if k.answers.all (fun r => r.2.isSome) then cdoneEnd as k.answers s else stall s
    | none =>
      if ¬ s.drained s.cur then stall s
      else
        let s := s.endFwd s.cur
        let rs := s.cdoneAnswers as
        if rs.all (fun r => r.2.isSome) then cdoneEnd as rs s
        else
          let id := s.uid
          let s := { s with uid := s.uid + 1 }
          .next ((s.setCx { s.cx with call := some ⟨id, rs, false, 0⟩ }).sendDecs id as rs)

/-- The answer of a decrement reaches its strand. -/
def State.decAnswer (s : State) (id cid call idx v : Nat) : State :=
  let o := match s.flight id with
    | some (.dec _ _ _ g vc _ _ _ _) => s.byMember g vc
    | _ => s.byMember 0 0
  ((s.land id).answer cid call idx v).logRx (coreOfCid cid) rxAnswer o v []

/-- COUNTER_DECREMENT (16 R288, R304): a decrement is applied at the owning bank, those of one CDONE to one member in their order, and answered; one for a member that its core's copy shows MOVING waits (15 R276, R279). -/
def execCounterDecrement (id : Nat) (s : State) : Out :=
  match s.flight id with
  | some (.dec cid call idx group v off issuer va tpc) =>
    let early := s.flights.any (fun f => match f.cargo with
      | .dec _ call' idx' _ v' _ _ _ _ => call' == call && v' == v && decide (idx' < idx)
      | _ => false)
    if early ∨ (s.placeOf (coreOfCid cid) group v).1 = 1 then .next s
    else
      match s.homeward (coreOfCid cid) group (.spad (s.member group v).pcore off) 8 (some v) with
      | .to (.spad core o) =>
        (match s.decAt group ((s.vcoreOn group core).getD v) o va.toNat tpc.toNat issuer with
         | (t, n) => .next ((s.logDiff t core rxAccess (s.byMember group issuer)).decAnswer id cid call idx (n.getD decFail)))
      | .fail => .next (s.decAnswer id cid call idx decGone)
      | _ => .next s
  | _ => .next s

end Sys2Proof.Machine
end

