-- ==== Sys2Proof/Machine/Context.lean ====
section
/-! DEFINITION. WPGET, WPSET, YIELD and WFLD (05 R107 to R110, 14 R267): major 0x06. -/

namespace Sys2Proof.Machine

/-- WPGET (05 R108). -/
def execWpget (a _b _c : BitVec 4) (_imm : BitVec 6) (s : State) : Out := done (s.setW a (toWord s.cx.wp))

/-- WPSET (05 R109); a footprint over the member's queue area is refused (16 R285). As the last body instruction of a run of REP it ends the run in the new workspace (log entry 106). -/
def execWpset (a _b _c : BitVec 4) (_imm : BitVec 6) (s : State) : Out :=
  reading [a] s fun s =>
    let n := (s.w a).toNat
    let ext := if s.cx.vx then 2192 else 128
    if n % 128 ≠ 0 then trap s xMisalign (toWord n)
    else if n < 128 ∨ 0x20000 < n + ext then trap s xAccess (toWord n)
    else
      match inArea s.mem.qbase (n - 64) (64 + ext) with
      | some x => trap s xAccess (toWord x)
      | none =>
        if ¬ (s.lockBytes s.cur).isEmpty ∨ s.unlanded s.cur then stall s
        else done (s.setCx { s.cx with wp := n })

/-- Whether another resident context of the core is READY (05 R110). -/
def State.otherReady (s : State) (cid : Nat) : Bool :=
  (s.cidsOn (coreOfCid cid)).any (fun i => i != cid && (s.ctx i).state == .ready)

/-- YIELD (05 R110). -/
def execYield (_a _b _c : BitVec 4) (_imm : BitVec 6) (s : State) : Out :=
  let t := s.advance
  if s.otherReady s.cur then .next (t.depart t.cur t.cx.pc .ready) else .next t

/-- Width of field i + 1 of a work identifier (14 R266). -/
def widW (widf i : Nat) : Nat := bitsOf widf (7 * i) 7

/-- First bit of field n (14 R266). -/
def widLo (widf n : Nat) : Nat := ((upTo (n - 1)).map (widW widf)).sum

/-- WFLD (14 R267). -/
def execWfld (a b _c : BitVec 4) (imm : BitVec 6) (s : State) : Out :=
  reading [b] s fun s =>
    let f := (s.cx.get 0x014).toNat
    let n := imm.toNat
    let wd := widW f (n - 1)
    done (s.setW a (toWord (if wd = 0 then 0 else bitsOf (s.w b).toNat (widLo f n) wd)))

end Sys2Proof.Machine
end

