-- ==== Sys2Proof/Machine/Ring.lean ====
section
/-! DEFINITION. Rings, queue control and WFM (16 R296 to R308): majors 0x29, 0x2A and 0x3F minor 3, and the steps of a message. -/

namespace Sys2Proof.Machine

/-! ## The pipeline table (25 R374, R382) -/

/-- The pipeline that a handle names. -/
def State.pipe (s : State) (h : Nat) : Option Pipeline :=
  match mget s.pipelines (h % 1024) with
  | some p => if p.handle = h then some p else none
  | none => none

def State.setPipe (s : State) (p : Pipeline) : State := { s with pipelines := mput s.pipelines (p.handle % 1024) p }

def State.updPipe (s : State) (h : Nat) (f : Pipeline → Pipeline) : State :=
  match s.pipe h with
  | some p => s.setPipe (f p)
  | none => s

/-- Change a stage of a pipeline. -/
def State.updStage (s : State) (h i : Nat) (f : Stage → Stage) : State :=
  s.updPipe h (fun p => { p with stages := modAt f p.stages i })

def Stage.blank : Stage := ⟨[], [], 0, [], true, [], []⟩
def Pipeline.stage (p : Pipeline) (i : Nat) : Stage := p.stages.getD i Stage.blank

/-- Items delivered to those of a stage's sinks that stand among some rings are counted (25 R382). -/
def State.countSinks (s : State) (g : Stage) (i : Nat) (there : List (Nat × Nat × Nat)) (n : Nat) : State :=
  g.attached.foldl (fun s h => s.updPipe h (fun p =>
    if i + 1 = p.stages.length ∧ there.contains (p.group, p.svc, p.sring) then { p with delivered := (p.delivered + n) % 2 ^ 64 } else p)) s

/-- The name of the copies that a stage's relay sends on, by which they count at a sink once they are delivered (25 R382). -/
def relayCid (h i : Nat) : Nat := 2 ^ 34 + h * 16 + i

/-- A copy of a relay's item that waited for its sink's group has been deposited (16 R300, 25 R382). -/
def State.copyArrived (s : State) (m : Msg) : State :=
  if m.cid < 2 ^ 34 then s
  else
    let h := (m.cid - 2 ^ 34) / 16
    let i := m.cid % 16
    match s.pipe h with
    | some p => s.countSinks (p.stage i) i [(m.dgrp, m.dvc, m.ring)] 1
    | none => s

/-! ## Where a message goes (16 R298, R300) -/

/-- The fate of a message (16 R298, R300): deposited in a member's ring, contained, refused, bounced with a STAT, sent on to an heir, kept for a group or an image, or waiting. -/
inductive Fate where
  | deposit (d f : Nat)
  | contain
  | refuse
  | bounce (stat : Nat)
  | heir (h : Nat)
  | unplaced
  | overflow
  | wait
  deriving DecidableEq, Repr

/-- The holding of a member's ring, whoever holds it now (21 R338). -/
def State.ringHolding (s : State) (h v : Nat) (m : Member) (n : Nat) : Option (Nat × Holding) :=
  (m.ring n).bind (fun r => s.holderOf 3 (0, spadLoc h v r.1))

/-- Who takes what comes for a ring that was conveyed: its holder, or while that one is EXITING and the walker has not come to it the heir that it names (21 R346, R348). -/
def State.ringHeir (s : State) (dgrp part : Nat) (e : Holding) : Option Nat :=
  if e.holder ≠ dgrp ∧ s.validHeir e.holder part then some e.holder
  else if s.validHeir e.heir part then some e.heir
  else none

/-- Whether a group has ended. -/
def ended (g : Group) : Bool := g.state == .exiting || g.state == .retired

/-- At a bound ring: the keys, the room, then the deposit (16 R298). -/
def State.fateAtRing (s : State) (part : Nat) (mem : Member) (n : Nat) (m : Msg) : Fate :=
  match mem.ring n with
  | none => .contain
  | some (d, f) =>
    if bitsOf m.h0 16 16 ≠ part ∨ bitsOf m.h0 0 16 ≠ ringCap f then .contain
    else if s.ringCount mem.pcore d = 2 ^ ringLogn f then .refuse
    else .deposit d f

/-- Fate of a message at its destination, or at its sender's NI while the copy there shows a member MOVING (15 R276, R279, 16 R298, R300, 21 R346, R348). DEDUCED, log entry 65. -/
def State.fate (s : State) (m : Msg) : Fate :=
  match s.grp m.dgrp with
  | none => .bounce 1
  | some g =>
    match g.members[m.dvc]? with
    | none => if g.state = .submitted then (if g.unplaced.length < 4096 then .unplaced else .refuse) else .bounce 1
    | some mem =>
      let park : Fate := if m.isBounce then .bounce 1 else if g.unplaced.length < 4096 then .unplaced else .refuse
      let hold := s.ringHolding m.dgrp m.dvc mem m.ring
      let unwalked := match hold with
        | some (_, e) => e.holder == m.dgrp
        | none => false
      if g.state = .submitted then park
      else if mem.pst = 3 ∨ ended g then
        if g.state == .exiting && unwalked && s.bound mem m.ring then s.fateAtRing g.part mem m.ring m
        else
          match hold.bind (fun x => s.ringHeir m.dgrp g.part x.2), m.isBounce with
          | some h, false => .heir h
          | _, _ => .bounce 1
      else if hold.any (fun x => x.2.holder != m.dgrp) ∧ ¬ m.isBounce then
        match hold.bind (fun x => s.ringHeir m.dgrp g.part x.2) with
        | some h => .heir h
        | none => .bounce 1
      else if mem.pst = 1 ∨ (s.placeOf m.core m.dgrp m.dvc).1 = 1 then .wait
      else if mem.pst = 2 then (if g.overflow.length < 65536 then .overflow else .refuse)
      else if mem.deadRings.contains m.ring then .bounce 1
      else if ¬ qbaseEn mem.qbase then (if mem.qever then .bounce 3 else park)
      else if s.bound mem m.ring then s.fateAtRing g.part mem m.ring m
      else if s.used mem m.ring then .bounce 3
      else park

/-- The message as it goes back to its sender, whose device it names (16 R297, R300). -/
def State.back (s : State) (m : Msg) (stat : Nat) : Msg :=
  { (m.withStat stat) with
    ddev := s.devCode (bitsOf m.h2 0 18)
    dgrp := bitsOf m.h2 32 32
    dvc := bitsOf m.h1 32 13
    ring := bitsOf m.h2 28 4 }

/-- BOUNCED of the ring that turned a message away, where its descriptor is known (16 R296). -/
def State.countBounce (s : State) (m : Msg) : State :=
  let mem := s.member m.dgrp m.dvc
  match mem.ring m.ring with
  | some (d, _) => if mem.pst = 0 then (s.niRead mem.pcore (d + 20) 4).bumpQ mem.pcore (d + 20) else s
  | none => s

/-- REFUSED of a full ring (16 R296). -/
def State.countRefusal (s : State) (m : Msg) : State :=
  let mem := s.member m.dgrp m.dvc
  match mem.ring m.ring with
  | some (d, _) =>
    if mem.pst = 0 then
      let s := s.niRead mem.pcore (qbaseAddr mem.qbase + 64 + 4 * m.ring) 4
      ((s.niRead mem.pcore (d + 8) 8).niRead mem.pcore (d + 16) 4).bumpQ mem.pcore (d + 16)
    else s
  | none => s

/-- A message that its partition's supervisor receives, with its record (16 R298, R300). -/
def State.toSupervisor (s : State) (part cause : Nat) (m : Msg) : State :=
  let s := match mget s.parts part with
    | some p => { s with parts := mput s.parts part { p with inbox := p.inbox ++ [m] } }
    | none => s
  s.supRec part ⟨cause, toWord m.h0, 0, [m.dgrp, m.dvc]⟩

/-- Partition that a message's destination group, or else its key, names. -/
def State.msgPart (s : State) (m : Msg) : Nat :=
  match s.grp m.dgrp with
  | some g => g.part
  | none => bitsOf m.h0 16 16

/-- A message is turned away: its bounce sets out, on a link where its sender stands at another device (16 R300). -/
def State.bounceBack (s : State) (id : Nat) (m : Msg) (stat : Nat) : State :=
  let b := s.back m stat
  ((s.countBounce m).reflyFrom (s.member m.dgrp m.dvc).pcore id (.bounce b false)).sendTo b.ddev id b.words

/-- An arrival (16 R298, R300): `id` is the flight it came in. A bounce that cannot be deposited goes to the supervisor. -/
def State.arrive (s : State) (id : Nat) (m : Msg) : State :=
  let undelivered := (s.land id).toSupervisor (s.msgPart m) xUndelivered m
  match s.fate m with
  | .deposit d f => ((s.land id).deposit m.dgrp m.dvc d f m).copyArrived m
  | .contain => (s.land id).toSupervisor (s.msgPart m) xContainment m
  | .refuse => (s.countRefusal m).refly id (m.cargo true)
  | .bounce k => if m.isBounce then undelivered else s.bounceBack id m k
  | .heir h => s.reflyFrom (s.member m.dgrp m.dvc).pcore id (.msg { (m.withStat 2) with dgrp := h, dvc := 0 } false)
  | .unplaced =>
    if m.isBounce then undelivered
    else
      match s.grp m.dgrp with
      | some g => (s.land id).setGrp { g with unplaced := g.unplaced ++ [m] }
      | none => s
  | .overflow =>
    match s.grp m.dgrp with
    | some g => (s.land id).setGrp { g with overflow := g.overflow ++ [m] }
    | none => s
  | .wait => s

/-- Whether an earlier message of the same sender to the same ring is still under way (16 R298). -/
def State.behind (s : State) (id : Nat) (m : Msg) : Bool :=
  match pick (fun f => match f.cargo with
      | .msg x _ => x.ddev == m.ddev && x.dgrp == m.dgrp && x.dvc == m.dvc && x.ring == m.ring &&
          bitsOf x.h2 32 32 == bitsOf m.h2 32 32 && bitsOf x.h1 32 13 == bitsOf m.h1 32 13
      | _ => false) s.flights with
  | some f => f.id != id
  | none => false

/-- What becomes of a message at another device, once its flits have gone out: it is taken there, it bounces, or it is refused and tried again (16 R298, R300). DESIGN CHOICE, log entry 10. -/
def State.arriveAway (s : State) (id : Nat) (m : Msg) : State :=
  if s.unsent id then s
  else
    let t := { s with uid := s.uid + 1 }
    match Config.freeChoice s.uid % 4 with
    | 0 => t.land id
    | 1 => if m.isBounce then t.land id else t.refly id (.bounce (s.back m 1) false)
    | 2 => if m.isBounce then t.land id else t.refly id (.bounce (s.back m 3) false)
    | _ => t.refly id (m.cargo true)

/-- A message or a bounce at its destination's NI. -/
def State.atNi (s : State) (id : Nat) (m : Msg) : State := if m.ddev ≠ 0 then s.arriveAway id m else s.arrive id m

/-- MESSAGE_ARRIVAL (16 R298). -/
def execMessageArrival (id : Nat) (s : State) : Out :=
  match s.flight id with
  | some (.msg m false) => if s.behind id m then .next s else .next (s.atNi id m)
  | _ => .next s

/-- RING_REFUSAL_RETRY (16 R298, R300): the NI of a refused message or bounce tries again. -/
def execRingRefusalRetry (id : Nat) (s : State) : Out :=
  match s.flight id with
  | some (.msg m true) => if s.behind id m then .next s else .next (s.atNi id m)
  | some (.bounce m true) => .next (s.atNi id m)
  | _ => .next s

/-- BOUNCE_ARRIVAL (16 R300). -/
def execBounceArrival (id : Nat) (s : State) : Out :=
  match s.flight id with
  | some (.bounce m false) => .next (s.atNi id m)
  | _ => .next s

/-! ## The RING instructions (16 R306) -/

/-- Ring index. -/
def ringNo (imm : BitVec 6) : Nat := bitsOf imm.toNat 0 4

/-- Whether a must-be-zero bit of a send buffer's header is set (16 R297). -/
def badHeader (h0 h1 h2 h3 : Nat) : Bool :=
  bitsOf h0 49 15 != 0 || bitsOf h1 45 3 != 0 || bitsOf h2 18 10 != 0 || bitsOf h3 17 15 != 0

/-- A device handle's entry (24 R362): none where it raises X_ACCESS. -/
def State.handleOf (s : State) (h : Nat) : Option Nat :=
  if 4095 < h then none
  else
    match mget s.parts (s.partOf s.cx.group) with
    | some p =>
      match mget p.handles h with
      | some e => if bitAt e 63 then some e else none
      | none => none
    | none => none

/-- The message that SEND makes of a buffer (16 R297, R306). -/
def State.message (s : State) (buf dev : Nat) (wc : Nat) : Msg :=
  let c := s.cx
  let h0 := s.rdS s.here buf 8
  let h1 := s.rdS s.here (buf + 8) 8
  let h2 := s.rdS s.here (buf + 16) 8
  let h3 := s.rdS s.here (buf + 24) 8
  let len := bitsOf h1 48 8
  let e := (s.handleOf dev).getD 0
  { ddev := if dev = 0 then 0 else s.devCode (bitsOf e 32 18), dgrp := if dev = 0 then c.group else bitsOf e 0 32, dvc := bitsOf wc 0 13, ring := bitsOf wc 16 4,
    h0 := bitsOf h0 0 16 + s.partOf c.group % 2 ^ 16 * 2 ^ 16 + bitsOf wc 16 4 * 2 ^ 32 + bitsOf wc 0 13 * 2 ^ 36,
    h1 := s.time % 2 ^ 32 + c.vcore % 2 ^ 13 * 2 ^ 32 + len * 2 ^ 48,
    h2 := s.devNum % 2 ^ 18 + bitsOf h2 28 4 * 2 ^ 28 + c.group % 2 ^ 32 * 2 ^ 32,
    h3 := h3,
    payload := readBytes s.spad (spadKey s.here (buf + 32)) len, core := s.here, cid := s.cur }

/-- X_BEREAVED is noted for an instruction that names a ring of a member by its descriptor (21 R344). -/
def State.namedRing (s : State) (h v d : Nat) : State := s.noteBrv (some (0, spadLoc h v d)) (toWord d)

/-- SEND names its destination's ring (21 R344). -/
def State.namedMsg (s : State) (m : Msg) : State :=
  if m.ddev ≠ 0 then s
  else
    match (s.member m.dgrp m.dvc).ring m.ring with
    | some (d, _) => s.namedRing m.dgrp m.dvc d
    | none => s

/-- SEND (16 R297, R298, R306). -/
def execSend (a b c : BitVec 4) (imm : BitVec 6) (s : State) : Out :=
  reading [b, c] s fun s =>
    let buf := (s.w b).toNat
    let wc := (s.w c).toNat
    let dev := wc / 2 ^ 32
    let len := bitsOf (s.rdS s.here (buf + 8) 8) 48 8
    let n := 32 + (if len ≤ 224 then len else 0)
    if buf % 64 ≠ 0 then trap s xMisalign (toWord buf)
    else if 0x20000 ≤ buf then trap s xAccess (toWord buf)
    else if s.localHeld true false [(buf, 32)] then stall s
    else if 0x20000 < buf + n then trap s xAccess (toWord buf)
    else if s.localHeld true false [(buf, n)] then stall s
    else
      match s.badS s.here buf n with
      | some x => trap s xEcc (toWord x)
      | none =>
        if ¬ s.drained s.cur (dev != 0) then stall s
        else if 224 < len ∨ badHeader (s.rdS s.here buf 8) (s.rdS s.here (buf + 8) 8) (s.rdS s.here (buf + 16) 8)
            (s.rdS s.here (buf + 24) 8) ∨ bitsOf wc 20 12 ≠ 0 then operandTrap s (.send a b c imm)
        else if dev = 0 ∧ s.nMembers s.cx.group ≤ bitsOf wc 0 13 then trap s xAccess (toWord wc)
        else if dev ≠ 0 ∧ (s.handleOf dev).isNone then trap s xAccess (toWord dev)
        else if 64 ≤ s.classS s.cur then stall s
        else
          watched true false [(buf, n)] s fun s =>
            let m := s.message buf dev wc
            let s := if m.ddev = 0 then s.placeFill s.here m.dgrp m.dvc else s
            counting (s.softS s.here buf n) s <| done ((((s.flyTo m.ddev m.words (.msg m false)).endFwd s.cur).countEv 12 1).namedMsg m |>.progress s.cx.group)

/-- Corrected errors in a ring's word of the ring table and in its HEAD and TAIL (11 R229). -/
def State.softRing (s : State) (n d : Nat) : Nat := s.softS s.here (qbaseAddr s.mem.qbase + 64 + 4 * n) 4 + s.softS s.here (d + 8) 8

/-- A bound ring of the member where the strand stands, or X_OPERAND (16 R306). -/
def withRing (i : Instr) (n : Nat) (s : State) (k : Nat → Nat → Out) : Out :=
  match s.mem.ring n with
  | some (d, f) => if s.bound s.mem n then counting (s.softRing n d) s (k d f) else operandTrap s i
  | none => operandTrap s i

/-- RPOLL (16 R306). -/
def execRpoll (a b c : BitVec 4) (imm : BitVec 6) (s : State) : Out :=
  withRing (.rpoll a b c imm) (ringNo imm) s fun d _ =>
    if ¬ (s.gates s.cur true false).isEmpty then stall s
    else done ((s.setW a (toWord (s.ringCount s.here d))).namedRing s.cx.group s.cx.vcore d)

/-- RWAIT (16 R306). -/
def execRwait (a b c : BitVec 4) (imm : BitVec 6) (s : State) : Out :=
  withRing (.rwait a b c imm) (ringNo imm) s fun d f =>
    if ¬ (s.gates s.cur true false).isEmpty then stall s
    else if s.ringCount s.here d = 0 then blocked s (.ring (ringNo imm))
    else
      let slot := slotAddr f (s.ringHead s.here d)
      done (((s.noteTaken s.here slot).setW a (toWord slot)).namedRing s.cx.group s.cx.vcore d)

/-- Slots given back by RADV, for the delay accounts (28 R409). -/
def State.giveSlots (s : State) (core f head : Nat) (n : Nat) : State :=
  (upTo (min n 256)).foldl (fun s i => s.noteGiven core (slotAddr f (head + i))) s

def Stage.vc (g : Stage) : Nat := bitsOf (g.rec_.getD 4 0) 0 13
def Stage.inRing (g : Stage) : Nat := bitsOf (g.rec_.getD 4 0) 16 4
def Stage.outRing (g : Stage) : Nat := bitsOf (g.rec_.getD 4 0) 20 4

/-- Whether a ring of a member is the relay of a stage (25 R376). -/
def State.isRelay (s : State) (h v n : Nat) : Bool :=
  s.pipelines.any (fun p => p.2.group == h && p.2.stages.any (fun g =>
    !g.attached.isEmpty && !g.ended && g.vc == v && g.outRing == n))

/-- RADV (16 R306); a relay ring refuses it (25 R376). -/
def execRadv (a b c : BitVec 4) (imm : BitVec 6) (s : State) : Out :=
  reading [a] s fun s =>
    withRing (.radv a b c imm) (ringNo imm) s fun d f =>
      let n := (s.w a).toNat
      if ringDisp f ∨ n = 0 ∨ s.ringCount s.here d < n ∨ s.isRelay s.cx.group s.cx.vcore (ringNo imm) then operandTrap s (.radv a b c imm)
      else if ¬ s.drained s.cur then stall s
      else
        let h := s.ringHead s.here d
        done ((((s.wrQ4 s.here (d + 8) (h + n)).giveSlots s.here f h n).endFwd s.cur).namedRing s.cx.group s.cx.vcore d)

/-- Messages of a group's unplaced queue for a ring set out in arrival order, in front of everything else (16 R300, R306). DESIGN CHOICE, log entry 67. -/
def State.sendUnplaced (s : State) (h v n : Nat) : State :=
  match s.grp h with
  | none => s
  | some g =>
    let mine (m : Msg) : Bool := m.dvc == v && m.ring == n
    let ms := g.unplaced.filter mine
    let s := s.setGrp { g with unplaced := g.unplaced.filter (fun m => !mine m) }
    s.flyAgain ms

/-- RBIND (16 R285, R296, R306). -/
def execRbind (a b c : BitVec 4) (imm : BitVec 6) (s : State) : Out :=
  reading [b] s fun s =>
    let n := ringNo imm
    let m := s.mem
    let d := (s.w b).toNat
    let area := qbaseAddr m.qbase
    if ¬ qbaseEn m.qbase ∨ s.bound m n then operandTrap s (.rbind a b c imm)
    else if d % 64 ≠ 0 then trap s xMisalign (toWord d)
    else if 0x20000 ≤ d then trap s xAccess (toWord d)
    else if s.localHeld true true [(d, 64)] then stall s
    else
      match s.badS s.here d 8 with
      | some x => trap s xEcc (toWord x)
      | none =>
        let f := s.rdS s.here d 8
        let size := 256 * 2 ^ ringLogn f
        if bitsOf f 48 16 ≠ 0 ∨ bitsOf f 28 4 ≠ 0 ∨ bitsOf f 17 3 ≠ 0 ∨ ringLogn f < 1 ∨ 8 < ringLogn f ∨
            ringSlots f % 256 ≠ 0 ∨ 0x20000 < ringSlots f + size ∨
            touches [(area, 2176)] [(d, 64), (ringSlots f, size)] then operandTrap s (.rbind a b c imm)
        else
          watched true true [(d, 24)] s fun s =>
            let s := s.softRead s.here (.spad s.here d) 8
            let s := (s.wrQ s.here (d + 8) 0).wrQ s.here (d + 16) 0
            let s := s.wrQ4 s.here (area + 64 + 4 * n) (d + 2 ^ 30 + 2 ^ 31)
            let s := s.updMem (fun m => { m with rings := mput m.rings n (d, f), deadRings := ndel m.deadRings n })
            let cx := s.cx
            let s := (s.register cx.group 3 0 (0, spadLoc cx.group cx.vcore d)).1
            done ((s.sendUnplaced cx.group cx.vcore n).namedRing cx.group cx.vcore d)

/-- RCLOSE (16 R306): the slots stay readable; the holding is removed (21 R339). -/
def execRclose (a b c : BitVec 4) (imm : BitVec 6) (s : State) : Out :=
  let n := ringNo imm
  withRing (.rclose a b c imm) n s fun d _ =>
    let at_ := qbaseAddr s.mem.qbase + 64 + 4 * n
    let t := (s.namedRing s.cx.group s.cx.vcore d).wrQ4 s.here at_ (setBits (s.rdS s.here at_ 4) 31 1 0)
    done (match t.holderOf 3 (0, spadLoc s.cx.group s.cx.vcore d) with
      | some e => t.unregister e.1
      | none => t)

/-! ## QCTL (16 R307) -/

/-- A queue-control instruction needs the member's queue area (16 R307). -/
def withArea (i : Instr) (s : State) (k : Nat → Out) : Out :=
  if qbaseEn s.mem.qbase then k (qbaseAddr s.mem.qbase) else operandTrap s i

/-- QREC (16 R307). -/
def execQrec (a b c : BitVec 4) (imm : BitVec 6) (s : State) : Out :=
  withArea (.qrec a b c imm) s fun area =>
    if ¬ (s.gates s.cur true false).isEmpty then stall s
    else
      let at_ := area + 32 + 8 * bitsOf imm.toNat 0 2
      done ((s.niRead s.here at_ 8).setW a (toWord (s.rdS s.here at_ 8)))

/-- QTHAW (16 R295, R307). -/
def execQthaw (a b c : BitVec 4) (imm : BitVec 6) (s : State) : Out :=
  withArea (.qthaw a b c imm) s fun area =>
    done ((((s.wrQ s.here (area + 32) 0).wrQ s.here (area + 40) 0).wrQ s.here (area + 48) 0).wrQ s.here (area + 56) 0)

/-- QFREEZE (16 R307). -/
def execQfreeze (a b c : BitVec 4) (imm : BitVec 6) (s : State) : Out :=
  reading [a] s fun s =>
    withArea (.qfreeze a b c imm) s fun _ =>
      done (s.freeze s.cx.group s.cx.vcore 0xFF (s.w a).toNat 0 s.cx.pc.toNat s.cx.vcore)

/-! ## WFM (16 R308) -/

/-- The conditions that hold now (16 R308). -/
def State.wfmBits (s : State) (cid : Nat) : Nat :=
  let c := s.ctx cid
  let m := s.member c.group c.vcore
  let core := coreOfCid cid
  let rings := ((upTo 16).map (fun n =>
    match m.ring n with
    | some (d, _) => if s.bound m n ∧ s.ringCount core d ≠ 0 then 2 ^ n else 0
    | none => 0)).sum
  let evq := if c.fld 0x081 48 16 ≠ c.fld 0x081 32 16 then 2 ^ 16 else 0
  let pend := if c.pend.isEmpty then 0 else 2 ^ 17
  let area := qbaseAddr m.qbase
  let dq := if qbaseEn m.qbase ∧ s.anyQueued core area ∧ ¬ bitAt (s.rdS core (area + 32) 8) 0 then 2 ^ 18 else 0
  rings + evq + pend + dq

/-- Corrected errors in what a WFM of a mask reads in the scratchpad (11 R229, 16 R308). -/
def State.softWfm (s : State) (m : Nat) : Nat :=
  ((upTo 16).map (fun n => match bitAt m n, s.mem.ring n with
    | true, some (d, _) => s.softRing n d
    | _, _ => 0)).sum +
    (if bitAt m 18 then s.softS s.here (qbaseAddr s.mem.qbase) 40 else 0)

/-- WFM (16 R308). -/
def execWfm (a b _c : BitVec 4) (_imm : BitVec 6) (s : State) : Out :=
  reading [b] s fun s =>
    let m := (s.w b).toNat % 2 ^ 19
    let c := Nat.land (s.wfmBits s.cur) m
    if c = 0 then blocked s (.wfm m) else counting (s.softWfm m) s (done (s.setW a (toWord c)))

end Sys2Proof.Machine
end

