-- ==== Sys2Proof/Machine/CopyStream.lean ====
section
/-! DEFINITION. The copy stream (20): major 0x2F, and the start and completion of a copy command. -/

namespace Sys2Proof.Machine

/-! ## Geometry of a command (20 R333) -/

/-- Element width in bits. -/
def Copy.width (c : Copy) : Nat := 4 * 2 ^ c.ew

/-- Doublewords of a destination row, and destination rows. -/
def Copy.rowDws (c : Copy) : Nat := (if c.transpose then c.rows else c.cols) * c.width / 64
def Copy.dstRows (c : Copy) : Nat := if c.transpose then c.cols else c.rows

/-- Number of destination doublewords. -/
def Copy.count (c : Copy) : Nat := c.dstRows * c.rowDws

/-- Address of destination doubleword `i`. -/
def Copy.dstAt (c : Copy) (i : Nat) : Nat :=
  (c.dst + c.dstr * toWord (i / c.rowDws) + toWord (8 * (i % c.rowDws))).toNat

/-- Address of the byte that holds source element (i, j), and its first bit there. -/
def Copy.srcAt (c : Copy) (i j : Nat) : Nat × Nat :=
  ((c.src + c.sstr * toWord i + toWord (j * c.width / 8)).toNat, if c.ew = 0 then 4 * (j % 2) else 0)

/-- The pieces of the source that make destination doubleword `i`: address, bytes, first bit, bits. -/
def Copy.pieces (c : Copy) (i : Nat) : List (Nat × Nat × Nat × Nat) :=
  if c.transpose then
    let per := 64 / c.width
    (upTo per).map (fun t =>
      let p := c.srcAt (i % c.rowDws * per + t) (i / c.rowDws)
      (p.1, max 1 (c.width / 8), p.2, c.width))
  else [((c.src + c.sstr * toWord (i / c.rowDws) + toWord (8 * (i % c.rowDws))).toNat, 8, 0, 64)]

/-- Whether the source, the destination stands at another device. -/
def Copy.srcAway (c : Copy) : Bool := c.dev != 0 && c.side == 0
def Copy.dstAway (c : Copy) : Bool := c.dev != 0 && c.side == 1

/-- Elements of a granule's side (20 R333). -/
def granule (ew : Nat) : Nat := if ew = 0 then 16 else if ew ≤ 2 then 8 else 4

/-- What the engine moves at one moment, so that no store to a source doubleword is seen torn: a doubleword, or a granule of a transposing copy (20 R333, R336). -/
def Copy.unit (c : Copy) (i : Nat) : Nat :=
  if c.transpose then
    let g := granule c.ew
    i / c.rowDws / g * c.rowDws + i % c.rowDws / (g * c.width / 64)
  else i

/-- The engine's accesses for destination doubleword `i`: address, bytes, kind. -/
def Copy.accs (c : Copy) (i : Nat) : List (Nat × Nat × Acc) :=
  (c.pieces i).map (fun p => (p.1, p.2.1, Acc.load)) ++ [(c.dstAt i, 8, .store)]

/-! ## The engine's accesses (20 R336, R337) -/

/-- Where a side of a command stands: here, at this device through a handle that names it, for a group of the handle's entry, or at another device (20 R333, 24 R362). -/
inductive Side where
  | here
  | loop (group : Nat)
  | away (dev : Nat)
  deriving DecidableEq, Repr

def State.sideOf (s : State) (c : Copy) (acc : Acc) : Side :=
  if (if acc = .load then c.srcAway else c.dstAway) then
    let t := s.handleTarget (s.partOf c.group) c.group c.dev
    if t.1 = s.devNum then .loop t.2 else .away t.1
  else .here

/-- Where the engine finds an address, or the status that ends the command: 1 translation, 2 refused, 4 source error, 5 remote failure, 6 timeout; a page to walk, a member that moves, or another device. -/
inductive EngLoc where
  | at (l : Loc)
  | bad (status : Nat)
  | wait
  | miss
  | away
  deriving DecidableEq, Repr

/-- Status of a trap cause. -/
def engStatus (cause : Nat) : Nat := if cause = xPage then 1 else if cause = xEcc then 4 else 2

/-- The 4 KiB page of an address. -/
def pageOf (va : Nat) : Nat := va / 4096 * 4096

/-- The page of an address as the engine finds it: a translation at hand, or what a walk of it has said (08 R163, 20 R337). DEDUCED, log entry 52. -/
def State.engPage (s : State) (c : Copy) (va : Nat) (acc : Acc) : Option Tlb × Xl :=
  match (s.tlbFind c.core c.group va).or (pick (tlbHit c.group va) c.xl) with
  | some t => (some t, if permOk t.perm acc c.sup then .hit (t.pa + (va - t.va)) else .fault xAccess)
  | none =>
    match pick (fun x => x.1 == pageOf va && x.2.1 == acc) c.faults with
    | some f => (none, .fault f.2.2)
    | none => (none, .miss)

/-- Where the engine finds `n` bytes for a command (15 R279 to R281, 20 R336, R337, 24 R362); one that has started ends where a member that moves stood, since its snapshot waits (09 R192). A side that another partition's group contains times out (16 R298). -/
def State.engAt (s : State) (c : Copy) (va n : Nat) (acc : Acc) : EngLoc :=
  let paged : EngLoc :=
    match (s.engPage c va acc).2 with
    | .hit pa => .at (.hbm pa)
    | .fault k => .bad (engStatus k)
    | .miss => .miss
  let far (l : Far) : EngLoc :=
    match l with
    | .to l => .at l
    | .fail => .bad 5
    | .wait => .wait
  match s.sideOf c acc with
  | .away _ => .away
  | .loop g =>
    if s.wrongKey (s.partOf c.group) g then (if c.due ≤ s.cycles then .bad 6 else .wait)
    else far (s.farLoc (s.partOf c.group) g false va n acc)
  | .here =>
    if ¬ oneRange va n then .bad 2
    else
      match rngOf va with
      | .loc off => if (s.fwdFor c.core c.group off n).isSome then far (s.homeward c.core c.group (.spad c.core off) n (some 0)) else .at (.spad c.core off)
      | .hole => .bad 2
      | .user => paged
      | .sup => if c.sup then paged else .bad 2
      | .win v off =>
        if s.nMembers c.group ≤ v then .bad 2
        else if c.started ∧ (s.member c.group v).pst = 1 then .at (.spad (s.member c.group v).pcore off)
        else far (s.homeward c.core c.group (.spad (s.member c.group v).pcore off) n (some v))

/-- A and D of the page that the engine used, and its translation kept (08 R159, R163). -/
def State.engMark (s : State) (c : Copy) (va : Nat) (acc : Acc) : State :=
  match s.sideOf c acc, rngOf va with
  | .loop g, _ => s.remoteMark (s.partOf c.group) g false va acc
  | .here, .user | .here, .sup =>
    (match (s.engPage c va acc).1 with
     | some t => if (s.tlbFind c.core c.group va).isSome then s else s.tlbFill c.core t
     | none => s).useXl c.core c.group va acc
  | _, _ => s

/-- Whether a place has an uncorrectable error. -/
def State.badAt (s : State) (l : Loc) (n : Nat) : Bool :=
  match l with
  | .spad core off => (s.badS core off n).isSome
  | .hbm pa => (s.badH pa n).isSome

/-- Whether a queue area refuses a write of a place (16 R285). -/
def State.areaHit (s : State) (l : Loc) (n : Nat) : Bool :=
  match l with
  | .spad core off => s.areaAt core off n
  | .hbm _ => false

/-- What stops an access: a status with the failing address; on the remote side it is a remote failure (20 R337, 24 R363). -/
def State.accBad (s : State) (c : Copy) (a : Nat × Nat × Acc) : Option (Nat × Nat) :=
  let remote := s.sideOf c a.2.2 != .here
  match s.engAt c a.1 a.2.1 a.2.2 with
  | .bad k => some (k, a.1)
  | .at l =>
    if a.2.2 = .load then (if s.badAt l a.2.1 then some (if remote then 5 else 4, a.1) else none)
    else if s.areaHit l 8 ∨ (remote ∧ s.badAt l 8) then some (if remote then 5 else 2, a.1)
    else none
  | _ => none

/-- What stops destination doubleword `i`. -/
def State.dwBad (s : State) (c : Copy) (i : Nat) : Option (Nat × Nat) := (c.accs i).findSome? (s.accBad c)

/-- Whether a command has been written on the way to a place, and a permit and the place are free (08 R166, 24 R354, 29 R413). -/
def State.wayOf (s : State) (c : Copy) (l : Loc) : Bool :=
  (chanOf l == clusterOf c.core || (c.chans.contains (chanOf l) && !s.hops.any (fun h => h.id == c.id && h.chan == chanOf l))) &&
    s.wayOpen c.core l

/-- Whether an access can be done now: the place is known and the way to it free; what another device reads comes once its request has gone out (24 R361). -/
def State.accReady (s : State) (c : Copy) (a : Nat × Nat × Acc) : Bool :=
  match s.engAt c a.1 a.2.1 a.2.2, s.sideOf c a.2.2 with
  | .at l, .here => s.wayOf c l
  | .at l, _ => s.awake l
  | .away, _ => a.2.2 == .store || !s.unsent c.id
  | _, _ => false

/-- Whether everything that is moved at one moment with destination doubleword `i` is ready. -/
def State.unitReady (s : State) (c : Copy) (i : Nat) : Bool :=
  (c.left.filter (fun j => c.unit j == c.unit i)).all (fun j => (c.accs j).all (s.accReady c))

/-- Value of destination doubleword `i`; one from another device is a value the model does not hold (log entry 10). -/
def State.dwValue (s : State) (c : Copy) (i : Nat) : Nat :=
  match s.sideOf c .load with
  | .away _ => (Config.freeWord c.id i).toNat
  | _ =>
    ((c.pieces i).zip (upTo (c.pieces i).length)).foldl (fun v p =>
      match s.engAt c p.1.1 p.1.2.1 .load with
      | .at l => v + bitsOf (s.rd l p.1.2.1) p.1.2.2.1 p.1.2.2.2 * 2 ^ (p.2 * c.width)
      | _ => v) 0

/-- An engine write of one doubleword at its place (08 R170). -/
def State.engPut (s : State) (o : Origin) (l : Loc) (v : Nat) : State :=
  match l with
  | .spad core off =>
    let v := s.keepW core off v
    (s.engineW core off v).logWrite core rxWrite o off true (leBytes 8 v)
  | .hbm pa => s.wrH pa 8 v

/-- Move destination doubleword `i`; to another device it leaves on the route (24 R361). -/
def State.moveDw (s : State) (c : Copy) (i : Nat) : State :=
  let v := s.dwValue c i
  let s := (c.pieces i).foldl (fun s p =>
    match s.engAt c p.1 p.2.1 .load with
    | .at l => (s.engMark c p.1 .load).softRead c.core l p.2.1
    | _ => s) s
  match s.engAt c (c.dstAt i) 8 .store, s.sideOf c .store with
  | .at l, _ => (s.engMark c (c.dstAt i) .store).engPut (s.byCore c.core c.group) l v
  | .away, .away dev => s.sendTo (s.devCode dev) c.id [11, c.dev, c.dstAt i, v]
  | _, _ => s

/-- The first doubleword left that something stops. -/
def State.copyBad (s : State) (c : Copy) : Option (Nat × Nat) := c.left.findSome? (fun i => s.dwBad c i)

/-- A place that doubleword `i` of a command needs and that has no permit or sleeps (08 R166, 29 R413). -/
def State.shutOf (s : State) (c : Copy) (i : Nat) : Option Loc :=
  (c.accs i).findSome? (fun a => match s.sideOf c a.2.2, s.engAt c a.1 a.2.1 a.2.2 with
    | .here, .at l => if s.wayOpen c.core l then none else some l
    | _, _ => none)

/-- What keeps a command from its places: it starts the walks of its pages, keeps the translations at hand, waits to be written on the channels it needs, and counts a stall for each doubleword whose turn it is and that finds no permit or its stack asleep (08 R163, R166, 24 R354, 29 R413). -/
def State.engSeek (s : State) (c : Copy) : State × Copy :=
  let as := (c.left.flatMap c.accs).filter (fun a => s.sideOf c a.2.2 == .here)
  let pages := ((as.filter (fun a => s.engAt c a.1 a.2.1 a.2.2 == .miss)).map (fun a => (pageOf a.1, a.2.2))).eraseDups
  let found := (as.filterMap (fun a => (s.engPage c a.1 a.2.2).1)).eraseDups
  let places := as.filterMap (fun a => match s.engAt c a.1 a.2.1 a.2.2 with
    | .at l => some l
    | _ => none)
  let cl := clusterOf c.core
  let new := ((places.map chanOf).filter (fun ch => ch != cl && !c.chans.contains ch)).eraseDups
  let t := pages.foldl (fun s p => s.startWalk c.core c.group p.1) s
  let t := { t with hops := t.hops ++ new.map (fun ch => (⟨c.id, cl, t.planeOf cl ch, ch, max 1 ((8 * c.left.length + 31) / 32)⟩ : Hop)) }
  let stall := c.left.findSome? (fun i => (s.shutOf c i).map (fun l => (i, l)))
  let t := match stall with
    | some (i, l) => if c.stalled = some i then t else t.countPermitStall cl (t.planeFor cl (chanOf l))
    | none => t
  (t, { c with walk := pages, xl := (found ++ c.xl).eraseDups, chans := c.chans ++ new, stalled := (stall.map (fun x => x.1)).or c.stalled })

/-- The engine moves those units that are ready, that nothing stops and that satisfy a test. -/
def State.engMove (s : State) (c : Copy) (p : Nat → Bool) : State × Copy :=
  let go := c.left.filter (fun i => p (c.unit i) && s.unitReady c i && (s.dwBad c i).isNone)
  (go.foldl (fun s i => s.moveDw c i) s, { c with left := c.left.filter (fun i => !go.contains i) })

/-- What a command sends out as it starts: its request to another device, or the record of a side that is contained (24 R361, 16 R298). -/
def State.engOut (s : State) (c : Copy) : State :=
  match s.sideOf c .load, s.sideOf c .store with
  | .away dev, _ => s.sendTo (s.devCode dev) c.id [12, c.dev, c.src.toNat, c.sstr.toNat, c.cols, c.rows, c.ew]
  | .loop g, _ | _, .loop g =>
    if s.wrongKey (s.partOf c.group) g then s.supRec (s.partOf g) ⟨xContainment, 0, 0, [g]⟩ else s
  | _, _ => s

/-- Lowest byte and the byte after the highest of `n` rows of `len` bytes (20 R336). DEDUCED, log entry 52. -/
def extent (base stride : Word) (n len : Nat) : Int × Int :=
  let last := (base.toNat : Int) + stride.toInt * ((n : Int) - 1)
  (min (base.toNat : Int) last, max (base.toNat : Int) last + len)

/-- Whether two addresses lie in one window: the local window, the group window, or one half of HBM (08 R154). -/
def sameWindow (a b : Nat) : Bool :=
  match rngOf a, rngOf b with
  | .loc _, .loc _ => true
  | .user, .user => true
  | .sup, .sup => true
  | .win _ _, .win _ _ => true
  | _, _ => false

/-- Whether source and destination ranges overlap within one window (20 R336). -/
def Copy.overlaps (c : Copy) : Bool :=
  let a := extent c.src c.sstr c.rows (c.cols * c.width / 8)
  let b := extent c.dst c.dstr c.dstRows (8 * c.rowDws)
  c.dev == 0 && sameWindow c.src.toNat c.dst.toNat && decide (a.1 < b.2 ∧ b.1 < a.2)

/-- A command has run: its outcome, with an entry in the black box for an uncorrectable error (20 R337, 28 R410). -/
def State.copyOut (s : State) (core : Nat) (c : Copy) (o : Nat × Nat) : State × Copy :=
  (if o.1 = 4 then s.bbox 6 0 (s.partOf c.group) core o.2 0 else s, { c with left := [], walk := [], outcome := some o })

/-- COPY_COMMAND_START (20 R336): the oldest command that has not started; it waits while a member that it reaches moves (15 R279). Those of its units that the engine happens to reach first are moved now. -/
def execCopyCommandStart (core : Nat) (s : State) : Out :=
  match pick (fun c => !c.started && c.outcome.isNone) (s.core core).copies with
  | none => .next s
  | some c =>
    let c := { c with left := upTo c.count, due := s.cycles + c.due }
    if c.left.any (fun i => (c.accs i).any (fun a => s.sideOf c a.2.2 == .here && s.engAt c a.1 a.2.1 a.2.2 == .wait)) then .next s
    else
      let c := { c with started := true }
      if c.overlaps then
        let (s, c) := s.copyOut core c (3, c.dst.toNat)
        .next (s.setCopy core c)
      else
        let s := s.engOut c
        let (s, c) := s.engSeek c
        let (s, c) := s.engMove c (Config.copyWrote c.id)
        .next (s.setCopy core c)

/-- The event queue that a command reports to: that of the holder context. -/
def Copy.evq (c : Copy) (core : Nat) : Nat := core * 8 + c.slot

/-- The completion record (20 R337). -/
def Copy.record (c : Copy) (o : Nat × Nat) : Nat × Nat :=
  (c.tag % 2 ^ 32 * 2 ^ 32 + ((if c.strand then 128 else 0) + c.slot) * 256 + o.1, o.2)

/-- Address of record `i` of an event queue; past the end of the window it goes on from its start. DESIGN CHOICE, log entry 109. -/
def evqAt (q : Word) (i : Nat) : Nat := (bitsOf q.toNat 0 17 + 16 * (i % 2 ^ bitsOf q.toNat 28 4)) % 0x20000

/-- Write a record at TAIL of an event queue and move TAIL: the state and the register, none where the queue is full (20 R337). -/
def State.evqWrite (s : State) (core : Nat) (q : Word) (rec_ : Nat × Nat) : Option (State × Word) :=
  let tail := bitsOf q.toNat 48 16
  if bitsOf q.toNat 0 17 = 0 then some (s, q)
  else if (tail + 2 ^ 16 - bitsOf q.toNat 32 16) % 2 ^ 16 = 2 ^ bitsOf q.toNat 28 4 then none
  else
    let at_ := evqAt q tail
    let o := s.byMember 0 0
    some ((s.depositW o core at_ rec_.1).depositW o core (at_ + 8) rec_.2, toWord (setBits q.toNat 48 16 (tail + 1)))

/-- Report to a context's event queue; none where the queue is full or the context is on its way to another core, nothing where it is gone (20 R337). -/
def State.evqPut (s : State) (h : Nat) (rec_ : Nat × Nat) : Option State :=
  match mget s.ctxs h with
  | none =>
    if s.flights.any (fun f => match f.cargo with
      | .migrate core slot _ _ _ => core * 8 + slot == h
      | _ => false) then none else some s
  | some x => (s.evqWrite (coreOfCid h) (x.get 0x081) rec_).map (fun p => p.1.setCtx h ((p.1.ctx h).set 0x081 p.2))

/-- Report a command's outcome to its event queue, that of an ended holder included, where a full queue takes no more; none where a queue is full that may yet have room (20 R332, R337). DEDUCED, log entry 63. -/
def State.report (s : State) (core : Nat) (c : Copy) (o : Nat × Nat) : Option State :=
  match c.box with
  | none => s.evqPut (c.evq core) (c.record o)
  | some k =>
    match s.evqWrite core (mgetD s.evqs k 0) (c.record o) with
    | some p => some { p.1 with evqs := mput p.1.evqs k p.2 }
    | none => some s

/-- A command leaves its class once its record is written (09 R198). -/
def State.endCopy (s : State) (core : Nat) (c : Copy) : State :=
  let k := s.core core
  ({ s.setCore core { k with copies := k.copies.filter (fun x => x.id != c.id) } with
    hops := s.hops.filter (fun h => h.id != c.id) }).progress c.group

/-- Outcome of a command with a side at another device: done, remote failure or timeout (20 R337, log entry 10). -/
def awayStatus (id : Nat) : Nat :=
  match Config.freeChoice id % 3 with
  | 0 => 0
  | 1 => 5
  | _ => 6

/-- Outcome of a command that nothing has stopped, once it has one: every doubleword is moved, or the remote side at another device fails or times out; while flits wait for a hank that is down it can only time out (20 R336, R337, 24 R361). -/
def State.copyEnd (s : State) (c : Copy) : Option (Nat × Nat) :=
  let away (x : Side) : Bool := match x with
    | .away _ => true
    | _ => false
  let i := Config.freeChoice (c.id + 1) % max 1 c.count
  let at_ := if away (s.sideOf c .load) then ((c.pieces i).headD (0, 0, 0, 0)).1 else c.dstAt i
  let late := if c.due ≤ s.cycles then some (6, at_) else none
  let all := if c.left.isEmpty then some (0, c.count) else none
  if away (s.sideOf c .load) || away (s.sideOf c .store) then
    if s.unsent c.id then late
    else
      match awayStatus c.id with
      | 0 => all
      | 5 => some (5, at_)
      | _ => late
  else all

/-- COPY_COMMAND_COMPLETE (20 R336, R337): the engine goes on with a command; one that has its outcome reports it. -/
def execCopyCommandComplete (core id : Nat) (s : State) : Out :=
  let tell (s : State) (c : Copy) (o : Nat × Nat) : Out :=
    match s.report core c o with
    | some t => .next (t.endCopy core c)
    | none => .next (s.setCopy core c)
  match pick (fun c => c.id == id) (s.core core).copies with
  | none => .next s
  | some c =>
    match c.outcome with
    | some o => tell s c o
    | none =>
      if ¬ c.started then .next s
      else
        match s.copyBad c with
        | some o =>
          let (s, c) := s.copyOut core c o
          tell s c o
        | none =>
          let (s, c) := s.engSeek c
          let (s, c) := s.engMove c (fun _ => true)
          match s.copyEnd c with
          | some o =>
            let (s, c) := s.copyOut core c o
            tell s c o
          | none => .next (s.setCopy core c)

/-- Commands that have run and wait to report to a context's event queue (20 R337). -/
def State.unreported (s : State) (cid : Nat) : List Copy :=
  (s.core (coreOfCid cid)).copies.filter (fun c => c.box.isNone && c.evq (coreOfCid cid) == cid && c.outcome.isSome)

/-- Whether a command is a strand's own, or one that a copy strand of its has left behind and that still reports to it (20 R332). -/
def Copy.ofStrand (c : Copy) (cid : Nat) : Bool :=
  c.cid == cid || (c.cid == noCid && c.box.isNone && c.evq (coreOfCid cid) == cid)

/-- Whether every command of a strand has run (09 R192). -/
def State.copiesRan (s : State) (cid : Nat) : Bool :=
  (s.core (coreOfCid cid)).copies.all (fun c => !c.ofStrand cid || c.outcome.isSome)

/-- A command that has run, as it goes with its event queue to another context; `strand` is what its copy strand is called there. -/
def Copy.goWith (c : Copy) (old new strand : Nat) : Copy :=
  { c with
    core := coreOfCid new
    slot := slotOfCid new
    cid := if c.cid = old then new else if c.strand ∧ c.cid ≠ noCid then strand else c.cid }

/-- The commands that a context's event queue still awaits go with it to another core; `strand` is the name of its copy strand there (20 R332, R337). -/
def State.carryCopies (s : State) (old new strand : Nat) : State :=
  let go := s.unreported old
  let k := s.core (coreOfCid old)
  let s := s.setCore (coreOfCid old) { k with copies := k.copies.filter (fun c => !go.any (fun x => x.id == c.id)) }
  let k := s.core (coreOfCid new)
  s.setCore (coreOfCid new) { k with copies := k.copies ++ go.map (fun c => c.goWith old new strand) }

/-! ## The instructions (20 R335) -/

/-- The copy strand's context as FORK starts it (20 R331). -/
def Ctx.forked (c : Ctx) (wc : Nat) (pc : Word) : Ctx :=
  let x := { Ctx.blank with wp := wc, pc := pc, state := .running }
  ((x.set 0x000 (c.get 0x000 &&& 0x7)).set 0x010 (c.get 0x010)).set 0x012 (c.get 0x012)

/-- FORK (20 R335, 16 R285): a release, so the strand's accesses are performed before the copy strand starts (09 R190). -/
def execFork (a b c : BitVec 4) (imm : BitVec 6) (s : State) : Out :=
  reading [b, c] s fun s =>
    let wc := (s.w c).toNat
    let core := s.here
    if wc % 128 ≠ 0 then trap s xMisalign (toWord wc)
    else if wc < 128 ∨ 0x20000 < wc + 128 ∨ touches [(wc - 64, 192)] ((s.cidsOn core).map (fun i =>
        ((s.ctx i).wp - 64, 64 + (s.ctx i).foot))) then operandTrap s (.fork a b c imm)
    else
      match inArea s.mem.qbase (wc - 64) 192 with
      | some x => trap s xAccess (toWord x)
      | none =>
        if (s.core core).seq.state ≠ .idle ∨ s.seqReserved core then done (s.setW a (toWord (2 ^ 63 + 1)))
        else
          if ¬ s.drained s.cur then stall s
          else
            let x := s.cx.forked wc (s.w b)
            let s := ((s.setW a 0).setCtx (copyBase + core) x).endFwd s.cur
            done (s.setSeq core (fun _ => ⟨.running, s.cur, wc, 0⟩))

/-- RDV by the copy strand (20 R335): once nothing of it is outstanding it ends with its result. -/
def rdvCopy (a : BitVec 4) (s : State) : Out :=
  if ¬ s.waitcMet 0 0 0 0 then blocked s (.waitc 0 0 0 0)
  else
    let r := s.w a
    let t := s.depart s.cur s.cx.pc (.stopped none false)
    .next (t.setSeq t.here (fun q => { q with state := .ended, result := r }))

/-- A flight of a strand that is no more: its result goes nowhere. -/
def Cargo.orphan (cid : Nat) (x : Cargo) : Cargo :=
  let w (c : Nat) : Nat := if c = cid then noCid else c
  match x with
  | .msg m r => .msg { m with cid := w m.cid } r
  | .dec c k i g v o is va t => .dec (w c) k i g v o is va t
  | .pass c k g v ce x => .pass (w c) k g v ce x
  | .passAck c k g v r => .passAck (w c) k g v r
  | .bcastReq lg c d r => .bcastReq lg (w c) d r
  | .bcastAns c d v => .bcastAns (w c) d v
  | .ldd c h g su va n du a => .ldd (w c) h g su va n du a
  | .std c h g su va n v f du a => .std (w c) h g su va n v f du a
  | .contrib h k c => .contrib h k { c with cid := w c.cid }
  | .rfree h p g c k a => .rfree h p g (w c) k a
  | x => x

/-- What a strand that is no more has left in flight: requests go on without it and bring no result, results on their way are dropped, its copy commands go on (05 R113, 20 R332, 21 R345). DEDUCED, log entry 63. -/
def State.orphan (s : State) (cid : Nat) : State :=
  let core := coreOfCid cid
  let k := s.core core
  let s := s.setCore core { k with copies := k.copies.map (fun (c : Copy) => if c.cid = cid then { c with cid := noCid } else c) }
  { s with
    reqs := s.reqs.map (fun (r : Req) => if r.cid = cid then { r with cid := noCid, dsize := 0 } else r)
    landings := s.landings.filter (fun l => l.cid != cid)
    flights := s.flights.map (fun (f : Flight) => { f with cargo := f.cargo.orphan cid }) }

/-- A context ends: the commands that report to it keep its event queue (20 R332). -/
def State.boxEvq (s : State) (cid : Nat) : State :=
  let core := coreOfCid cid
  let k := s.core core
  let mine (c : Copy) : Bool := c.box.isNone && c.evq core == cid
  if ¬ k.copies.any mine then s
  else
    let s := s.setCore core { k with copies := k.copies.map (fun c => if mine c then { c with box := some s.uid } else c) }
    { s with
      evqs := mput s.evqs s.uid ((s.ctx cid).get 0x081)
      uid := s.uid + 1 }

/-- The sequencer is idle again and its strand's context is gone (20 R332). -/
def State.freeSeq (s : State) (core : Nat) : State :=
  let s := s.orphan (copyBase + core)
  { s.setSeq core (fun _ => ⟨.idle, 0, 0, 0⟩) with ctxs := mdel s.ctxs (copyBase + core) }

/-- RDV by a context (20 R332, R335). DEDUCED, log entry 53. -/
def rdvHolder (a : BitVec 4) (s : State) : Out :=
  let core := s.here
  let q := (s.core core).seq
  if q.state = .idle ∨ q.holder ≠ s.cur then done (s.setW a 0x4000000000000000)
  else
    match q.state with
    | .ended => done ((s.freeSeq core).setW a q.result)
    | .faulted => done ((s.freeSeq core).setW a (toWord (2 ^ 63 + ((s.ctx (copyBase + core)).get 0x002).toNat)))
    | _ => blocked s .rdv

/-- RDV (20 R335). -/
def execRdv (a _b _c : BitVec 4) (_imm : BitVec 6) (s : State) : Out :=
  if isCopy s.cur then reading [a] s fun s => rdvCopy a s else rdvHolder a s

/-- The context whose event queue a strand's commands report to: the holder's for the copy strand (20 R331). -/
def State.evqCid (s : State) : Nat := if isCopy s.cur then (s.core s.here).seq.holder else s.cur

/-- Cycles after which a remote operation of a context times out (24 R365). -/
def Ctx.tmo (c : Ctx) : Nat := if c.fld 0x0E0 0 32 = 0 then 1300000 else c.fld 0x0E0 0 32

/-- The command that a layout record describes (20 R333). -/
def State.command (s : State) (transpose : Bool) (tag : Nat) (r : List Nat) : Copy :=
  let w (i : Nat) : Nat := r.getD i 0
  { id := s.uid, cid := s.cur, core := s.here, group := s.cx.group, sup := s.cx.sup, strand := isCopy s.cur, slot := slotOfCid s.evqCid, tag := tag, transpose := transpose, src := toWord (w 0),
    dst := toWord (w 1), sstr := toWord (wrapInt 64 (sint 32 (bitsOf (w 2) 0 32))),
    dstr := toWord (wrapInt 64 (sint 32 (bitsOf (w 2) 32 32))), dev := bitsOf (w 3) 48 16, side := bitsOf (w 3) 35 1,
    ew := bitsOf (w 3) 32 3, cols := bitsOf (w 3) 16 16, rows := bitsOf (w 3) 0 16,
    left := [], walk := [], faults := [], xl := [], chans := [], stalled := none, due := s.cx.tmo, started := false, outcome := none, box := none }

/-- Whether a layout record raises X_OPERAND (20 R335). -/
def Copy.illegal (c : Copy) (w3 : Nat) : Bool :=
  decide (4 < c.ew) || c.rows == 0 || c.cols == 0 || bitsOf w3 36 12 != 0 || (c.dev == 0 && c.side == 1) ||
    (c.transpose && (c.ew == 4 || c.rows % granule c.ew != 0 || c.cols % granule c.ew != 0))

/-- The first value that must be a multiple of 8 and is not (20 R335): addresses and strides of the sides on this device, then the rows' lengths in bytes; a length that is no whole number of bytes counts too. -/
def Copy.crooked (c : Copy) : Option Word :=
  let side (away : Bool) (x : Word) : List Word := if away then [] else [x]
  let bits := [c.cols * c.width, (if c.transpose then c.rows else c.cols) * c.width]
  match pick (fun x : Word => x.toNat % 8 != 0)
      (side c.srcAway c.src ++ side c.dstAway c.dst ++ side c.srcAway c.sstr ++ side c.dstAway c.dstr) with
  | some x => some x
  | none => (pick (fun n => n % 64 != 0) bits).map (fun n => toWord (n / 8))

/-- CPY and CPYT (20 R333, R335): the record is read as loads; the command is queued as a release, at system scope where a side is remote (09 R190). -/
def copyIssue (i : Instr) (transpose : Bool) (a b : BitVec 4) (s : State) : Out :=
  reading [a, b] s fun s =>
    let addr := (s.w b).toNat
    if addr % 32 ≠ 0 then trap s xMisalign (toWord addr)
    else
      loading addr 4 s fun r s =>
        let c := s.command transpose ((s.w a).toNat % 2 ^ 32) r
        if c.illegal (r.getD 3 0) then operandTrap s i
        else
          match c.crooked with
          | some v => trap s xMisalign v
          | none =>
            if c.dev ≠ 0 ∧ (s.handleOf c.dev).isNone then trap s xAccess (toWord c.dev)
            else if ¬ s.drained s.cur (c.dev != 0) ∨ 16 ≤ s.classC s.cur then stall s
            else
              let s := s.endFwd s.cur
              let k := s.core s.here
              done { s.setCore s.here { k with copies := k.copies ++ [c] } with uid := s.uid + 1 }

/-- CPY (20 R335). -/
def execCpy (a b c : BitVec 4) (imm : BitVec 6) (s : State) : Out := copyIssue (.cpy a b c imm) false a b s

/-- CPYT (20 R335). -/
def execCpyt (a b c : BitVec 4) (imm : BitVec 6) (s : State) : Out := copyIssue (.cpyt a b c imm) true a b s

/-- CEVQ (20 R335): the oldest record of the event queue. -/
def execCevq (a b c : BitVec 4) (imm : BitVec 6) (s : State) : Out :=
  checked (.cevq a b c imm) s <| if s.gated s.cur true true then stall s else
    (let h := s.evqCid
     let x := s.ctx h
     let head := x.fld 0x081 32 16
     if head ≠ x.fld 0x081 48 16 then
       let at_ := evqAt (x.get 0x081) head
       match s.badS s.here at_ 16 with
       | some e => trap s xEcc (toWord e)
       | none =>
         let s' := s.setCtx h (x.setFld 0x081 32 16 (head + 1))
         counting (s.softS s.here at_ 16) s (done (s'.setPair a (s.rdS s.here at_ 16)))
     else if bitAt imm.toNat 0 then blocked s .cevq
     else done (s.setPair a (2 ^ 64 - 1)))

end Sys2Proof.Machine
end

