-- ==== Sys2Proof/Machine/Lock.lean ====
section
/-! DEFINITION. Locks and the estate instructions but CONVEY (21 R341 to R344): majors 0x2D and 0x2E. -/

namespace Sys2Proof.Machine

/-! ## Lock words (21 R341) -/

def lkHeld (w : Nat) : Bool := bitAt w 30
def lkCnv (w : Nat) : Bool := bitAt w 29
def lkBrv (w : Nat) : Bool := bitAt w 31
def lkOwner (w : Nat) : Nat := bitsOf w 32 32

/-- A lock word with its hardware fields replaced; bits [28:13] stay. -/
def lkWord (w owner : Nat) (brv held cnv : Bool) (vcore : Nat) : Nat :=
  owner % 2 ^ 32 * 2 ^ 32 + (if brv then 2 ^ 31 else 0) + (if held then 2 ^ 30 else 0) + (if cnv then 2 ^ 29 else 0) +
    bitsOf w 13 16 * 2 ^ 13 + vcore % 2 ^ 13

/-- What a LOCK waits on. -/
def lockWait : Loc → Wait
  | .spad core off => .lockAt false (spadKey core off)
  | .hbm pa => .lockAt true pa

/-- The waiters on a lock that satisfy a test are woken (21 R342). -/
def State.wakeLock (s : State) (l : Loc) (p : Ctx → Bool) : State :=
  { s with ctxs := s.ctxs.map (fun x =>
      if x.2.waits = some (lockWait l) ∧ ¬ x.2.parkLong ∧ p x.2 then (x.1, { x.2 with woken := true }) else x) }

/-- Scope of a lock instruction (21 R342). -/
def lockScope (imm : BitVec 6) : Nat := bitsOf imm.toNat 4 2

/-- Take or claim the lock at a place, or find it busy (21 R342). -/
def takeLock (try_ : Bool) (a : BitVec 4) (addr : Word) (l : Loc) (s : State) : Out :=
  let w := s.rd l 8
  let c := s.cx
  let mineCnv := lkCnv w && lkOwner w == c.group
  if lkHeld w ∧ ¬ mineCnv then
    if try_ then done ((s.setW a (toWord (2 ^ 63 + 1))).named l addr) else blocked s (lockWait l)
  else if lkHeld w then
    let former := match s.heldAt c.group (some 0) l with
      | some e => e.2.former
      | none => 0
    let t := s.wr l 8 (lkWord w (lkOwner w) (lkBrv w) true false c.vcore)
    done ((t.setW a (toWord (2 ^ 62 + former))).named l addr)
  else
    match s.objOf l with
    | none => done ((s.setW a (toWord (2 ^ 63 + 4))).named l addr)
    | some o =>
      match s.register c.group 0 0 o with
      | (t, 0) =>
        let t := t.wr l 8 (lkWord w c.group false true false c.vcore)
        done ((t.setW a (toWord (if lkBrv w then 2 ^ 62 + lkOwner w else 0))).named l addr)
      | (_, r) => done ((s.setW a (toWord (2 ^ 63 + r))).named l addr)

/-- LOCK (21 R342). -/
def execLock (a b _c : BitVec 4) (imm : BitVec 6) (s : State) : Out :=
  reading [b] s fun s =>
    atWord (lockScope imm) 8 true true false (true, true) (s.w b).toNat s fun l t => takeLock false a (s.w b) l t

/-- TRYLOCK (21 R342). -/
def execTrylock (a b _c : BitVec 4) (imm : BitVec 6) (s : State) : Out :=
  reading [b] s fun s =>
    atWord (lockScope imm) 8 true true false (true, true) (s.w b).toNat s fun l t => takeLock true a (s.w b) l t

/-- Remove the holding of a lock (21 R339). -/
def State.dropLock (s : State) (l : Loc) : State :=
  match s.heldAt s.cx.group (some 0) l with
  | some (i, _) => s.unregister i
  | none => s

/-- UNLOCK (21 R342). -/
def execUnlock (_a b _c : BitVec 4) (imm : BitVec 6) (s : State) : Out :=
  reading [b] s fun s =>
    atWord (lockScope imm) 8 false true true (true, true) (s.w b).toNat s fun l t =>
      let w := t.rd l 8
      if ¬ lkHeld w ∨ lkOwner w ≠ t.cx.group then trap t xAccess (s.w b)
      else
        let u := (t.named l (s.w b)).wr l 8 (lkWord w (lkOwner w) (lkBrv w) false false w)
        done (((u.dropLock l).wakeLock l (fun _ => true)).releaseAt (lockScope imm))

/-! ## The estate instructions (21 R343) -/

/-- The calling group's entry for the object at a place. -/
def State.entryAt (s : State) (l : Loc) : Option (Nat × Holding) := s.heldAt s.cx.group none l

/-- The calling group's entry that a handle names: a reduction slot or a pipeline stage, whose object address is its LOC (21 R338, R339). DESIGN CHOICE, log entry 113. -/
def State.handleEntry (s : State) (a : Word) : Option (Nat × Holding) :=
  pick (fun e => e.2.holder == s.cx.group && decide (2 ≤ e.2.space) && e.2.loc == a.toNat) s.estate

/-- X_BEREAVED is noted for an instruction that names a handle's object (21 R344). -/
def State.namedEntry (s : State) (e : Holding) : State := s.noteBrv (some (e.space, e.loc)) (toWord e.loc)

/-- The object that an ESTATE instruction names: a handle's, or else the one at an address, checked as for an 8-byte load (21 R343). -/
def withObject (a : Word) (s : State) (far : Nat → Holding → Out) (near : Loc → State → Out) : Out :=
  match s.handleEntry a with
  | some (i, e) => far i e
  | none => atWord 2 8 false false false (false, false) a.toNat s near

/-- Refusal code of HEIR for a handle: it is stale, the own group, or of another partition (21 R343). -/
def State.badHeir (s : State) (h : Nat) : Bool :=
  h != 0 &&
    (match s.grp h with
     | some g => h == s.cx.group || g.part != s.partOf s.cx.group
     | none => true)

/-- HEIR at the object's place (21 R343). DEDUCED, log entry 47. -/
def heirAt (a : BitVec 4) (k h : Nat) (addr : Word) (l : Loc) (s : State) : Out :=
  let refuse (n : Nat) : Out := done ((s.setW a (toWord (2 ^ 63 + n))).named l addr)
  if s.badHeir h then refuse 1
  else if k = 5 ∨ k = 6 then refuse 3
  else
    match s.entryAt l with
    | none =>
      if k ≠ 2 then refuse 3
      else if isHbm l then trap s xAccess addr
      else
        match s.objOf l with
        | none => refuse 4
        | some o =>
          match s.register s.cx.group 2 h o with
          | (t, 0) => done (t.setW a 0)
          | (_, r) => refuse r
    | some (i', e) =>
      if e.kind ≠ k then refuse 3
      else done ((({ s with estate := mput s.estate i' { e with heir := h } }).setW a 0).named l addr)

/-- Every entry of a group for an object that a handle names is changed: a group may hold several slots of one reduction (24 R370). -/
def State.updHandle (s : State) (e : Holding) (f : Holding → Holding) : State :=
  { s with estate := s.estate.map (fun x =>
      if x.2.holder = e.holder ∧ x.2.space = e.space ∧ x.2.loc = e.loc then (x.1, f x.2) else x) }

/-- HEIR for a handle's object (21 R343): all that the group holds of it. -/
def heirFar (a : BitVec 4) (k h : Nat) (e : Holding) (s : State) : Out :=
  let answer (n : Nat) (s : State) : Out := done ((s.setW a (toWord n)).namedEntry e)
  if s.badHeir h then answer (2 ^ 63 + 1) s
  else if k = 5 ∨ k = 6 ∨ e.kind ≠ k then answer (2 ^ 63 + 3) s
  else answer 0 (s.updHandle e (fun x => { x with heir := h }))

/-- HEIR (21 R343). -/
def execHeir (a b c : BitVec 4) (imm : BitVec 6) (s : State) : Out :=
  let k := bitsOf imm.toNat 0 3
  reading [b, c] s fun s =>
    if k = 7 then operandTrap s (.heir a b c imm)
    else
      let h := (s.w c).toNat % 2 ^ 32
      withObject (s.w b) s (fun _ e => heirFar a k h e s) (fun l t => heirAt a k h (s.w b) l t)

/-- DISOWN (21 R343). -/
def execDisown (a b c : BitVec 4) (imm : BitVec 6) (s : State) : Out :=
  reading [b] s fun s =>
    withObject (s.w b) s (fun _ _ => operandTrap s (.disown a b c imm)) fun l t =>
      match t.entryAt l with
      | none => done t
      | some (i, e) =>
        if e.kind = 2 ∨ e.kind = 3 then done ((t.named l (s.w b)).unregister i)
        else operandTrap t (.disown a b c imm)

/-- ESTQ's answer (21 R343). -/
def estqWord (e : Option (Nat × Holding)) : Word :=
  match e with
  | none => 0
  | some (_, e) => toWord (2 ^ 63 + (if e.brv then 2 ^ 62 else 0) + e.kind * 2 ^ 59 + e.former)

/-- ESTQ (21 R343). -/
def execEstq (a b _c : BitVec 4) (_imm : BitVec 6) (s : State) : Out :=
  reading [b] s fun s =>
    withObject (s.w b) s (fun i e => done (s.setW a (estqWord (some (i, e))))) fun l t => done (t.setW a (estqWord (t.entryAt l)))

/-- The mark of a holding is cleared (21 R343). -/
def State.ackEntry (s : State) (i : Nat) (e : Holding) : State :=
  { s with estate := mput s.estate i { e with brv := false, former := 0 } }

/-- ACK (21 R343). -/
def execAck (_a b _c : BitVec 4) (_imm : BitVec 6) (s : State) : Out :=
  reading [b] s fun s =>
    withObject (s.w b) s (fun _ e => done (s.updHandle e (fun x => { x with brv := false, former := 0 }))) fun l t =>
      match t.entryAt l with
      | none => done t
      | some (i, e) => done (t.ackEntry i e)

end Sys2Proof.Machine
end

