-- ==== Sys2Proof/Machine/Memory.lean ====
section
/-! DEFINITION. Loads, stores, atomics and reductions (08 R168 to R177): majors 0x18 to 0x1B, 0x20 and 0x23. -/

namespace Sys2Proof.Machine

/-- The elements of an access of `n` bytes to a register: a quadword that is not 16-byte aligned is two halves (08 R170). DESIGN CHOICE, log entry 118. -/
def elems (n addr dst : Nat) (sx : Bool) (op : Nat → ReqOp) (ld : Bool) : List Elem :=
  if n = 16 ∧ addr % 16 ≠ 0 then
    [⟨addr, 8, op 0, dst, if ld then 8 else 0, false⟩, ⟨addr + 8, 8, op 1, dst + 8, if ld then 8 else 0, false⟩]
  else [⟨addr, n, op 2, dst, if ld then max n 8 else 0, sx⟩]

/-- Alignment, then a quadword's single range, then the access (08 R156, R168, R169). -/
def aligned (n addr : Nat) (s : State) (k : Out) : Out :=
  if addr % min n 8 ≠ 0 then trap s xMisalign (toWord addr)
  else if ¬ oneRange addr n ∧ n = 16 then trap s xAccess (toWord addr)
  else k

/-- A load of `n` bytes into wA, or into its pair (08 R169). -/
def load (n : Nat) (sx : Bool) (a : BitVec 4) (addr : Word) (s : State) : Out :=
  aligned n addr.toNat s
    (access 2 false false (elems n addr.toNat (s.cx.wOff a.toNat) sx (fun _ => .load) true) id s)

/-- A store of the low `n` bytes of wA, or of its pair (08 R169). -/
def store (n : Nat) (a : BitVec 4) (addr : Word) (s : State) : Out :=
  let v := s.rdS s.here (s.cx.wOff a.toNat) (max n 8) % 256 ^ n
  let part (i : Nat) : ReqOp := match i with
    | 0 => .store (v % 2 ^ 64)
    | 1 => .store (v / 2 ^ 64)
    | _ => .store v
  aligned n addr.toNat s (access 2 false false (elems n addr.toNat 0 false part false) id s)

/-- Address of LD and ST (08 R169). -/
def State.offAddr (s : State) (b : BitVec 4) (imm : BitVec 22) : Word := s.w b + imm.signExtend 64

/-- Address of LDX and STX (08 R169). -/
def State.idxAddr (s : State) (b c : BitVec 4) (n : Nat) : Word := s.w b + s.w c * toWord n

/-- Registers that a store reads besides its address: wA, or its pair. -/
def storeRegs (n : Nat) (a : BitVec 4) : List (BitVec 4) := if n = 16 then [a, pairHi a] else [a]

def ldM (n : Nat) (sx : Bool) (a b : BitVec 4) (imm : BitVec 22) (s : State) : Out :=
  reading [b] s fun s => load n sx a (s.offAddr b imm) s

def stM (n : Nat) (a b : BitVec 4) (imm : BitVec 22) (s : State) : Out :=
  reading (b :: storeRegs n a) s fun s => store n a (s.offAddr b imm) s

def ldS (n : Nat) (sx : Bool) (a b c : BitVec 4) (s : State) : Out :=
  reading [b, c] s fun s => load n sx a (s.idxAddr b c n) s

def stS (n : Nat) (a b c : BitVec 4) (s : State) : Out :=
  reading (b :: c :: storeRegs n a) s fun s => store n a (s.idxAddr b c n) s

/-- LD.b (08 R169). -/
def execLdB (a b _c : BitVec 4) (imm : BitVec 22) (s : State) : Out := ldM 1 true a b imm s

/-- LD.bn (08 R169). -/
def execLdBn (a b _c : BitVec 4) (imm : BitVec 22) (s : State) : Out := ldM 1 false a b imm s

/-- LD.h (08 R169). -/
def execLdH (a b _c : BitVec 4) (imm : BitVec 22) (s : State) : Out := ldM 2 true a b imm s

/-- LD.hn (08 R169). -/
def execLdHn (a b _c : BitVec 4) (imm : BitVec 22) (s : State) : Out := ldM 2 false a b imm s

/-- LD.w (08 R169). -/
def execLdW (a b _c : BitVec 4) (imm : BitVec 22) (s : State) : Out := ldM 4 true a b imm s

/-- LD.wn (08 R169). -/
def execLdWn (a b _c : BitVec 4) (imm : BitVec 22) (s : State) : Out := ldM 4 false a b imm s

/-- LD.d (08 R169). -/
def execLdD (a b _c : BitVec 4) (imm : BitVec 22) (s : State) : Out := ldM 8 false a b imm s

/-- LD.q (08 R169). -/
def execLdQ (a b c : BitVec 4) (imm : BitVec 22) (s : State) : Out :=
  checked (.ldQ a b c imm) s (ldM 16 false a b imm s)

/-- ST.b (08 R169). -/
def execStB (a b _c : BitVec 4) (imm : BitVec 22) (s : State) : Out := stM 1 a b imm s

/-- ST.h (08 R169). -/
def execStH (a b _c : BitVec 4) (imm : BitVec 22) (s : State) : Out := stM 2 a b imm s

/-- ST.w (08 R169). -/
def execStW (a b _c : BitVec 4) (imm : BitVec 22) (s : State) : Out := stM 4 a b imm s

/-- ST.d (08 R169). -/
def execStD (a b _c : BitVec 4) (imm : BitVec 22) (s : State) : Out := stM 8 a b imm s

/-- ST.q (08 R169). -/
def execStQ (a b c : BitVec 4) (imm : BitVec 22) (s : State) : Out :=
  checked (.stQ a b c imm) s (stM 16 a b imm s)

/-- LDX.b (08 R169). -/
def execLdxB (a b c : BitVec 4) (_imm : BitVec 6) (s : State) : Out := ldS 1 true a b c s

/-- LDX.bn (08 R169). -/
def execLdxBn (a b c : BitVec 4) (_imm : BitVec 6) (s : State) : Out := ldS 1 false a b c s

/-- LDX.h (08 R169). -/
def execLdxH (a b c : BitVec 4) (_imm : BitVec 6) (s : State) : Out := ldS 2 true a b c s

/-- LDX.hn (08 R169). -/
def execLdxHn (a b c : BitVec 4) (_imm : BitVec 6) (s : State) : Out := ldS 2 false a b c s

/-- LDX.w (08 R169). -/
def execLdxW (a b c : BitVec 4) (_imm : BitVec 6) (s : State) : Out := ldS 4 true a b c s

/-- LDX.wn (08 R169). -/
def execLdxWn (a b c : BitVec 4) (_imm : BitVec 6) (s : State) : Out := ldS 4 false a b c s

/-- LDX.d (08 R169). -/
def execLdxD (a b c : BitVec 4) (_imm : BitVec 6) (s : State) : Out := ldS 8 false a b c s

/-- LDX.q (08 R169). -/
def execLdxQ (a b c : BitVec 4) (imm : BitVec 6) (s : State) : Out :=
  checked (.ldxQ a b c imm) s (ldS 16 false a b c s)

/-- STX.b (08 R169). -/
def execStxB (a b c : BitVec 4) (_imm : BitVec 6) (s : State) : Out := stS 1 a b c s

/-- STX.h (08 R169). -/
def execStxH (a b c : BitVec 4) (_imm : BitVec 6) (s : State) : Out := stS 2 a b c s

/-- STX.w (08 R169). -/
def execStxW (a b c : BitVec 4) (_imm : BitVec 6) (s : State) : Out := stS 4 a b c s

/-- STX.d (08 R169). -/
def execStxD (a b c : BitVec 4) (_imm : BitVec 6) (s : State) : Out := stS 8 a b c s

/-- STX.q (08 R169). -/
def execStxQ (a b c : BitVec 4) (imm : BitVec 6) (s : State) : Out :=
  checked (.stxQ a b c imm) s (stS 16 a b c s)

/-! ## Atomics and reductions (08 R172 to R177) -/

/-- Bytes of an atomic: width 1 is 32 bits (08 R172). -/
def amoSize (imm : BitVec 6) : Nat := if bitAt imm.toNat 3 then 4 else 8

/-- Scope (08 R172). -/
def amoScope (imm : BitVec 6) : Nat := bitsOf imm.toNat 4 2

/-- AMO: the old value, zero-extended, lands in wA (08 R173, R176). -/
def amo (op : Nat) (a b c : BitVec 4) (imm : BitVec 6) (s : State) : Out :=
  let n := amoSize imm
  reading (if op = 9 then [a, b, c] else [b, c]) s fun s =>
    let addr := (s.w b).toNat
    if addr % n ≠ 0 then trap s xMisalign (toWord addr)
    else
      access (amoScope imm) (bitAt imm.toNat 1) (bitAt imm.toNat 2)
        [⟨addr, n, .amo op (8 * n) ((s.w c).toNat % 256 ^ n) ((s.w a).toNat % 256 ^ n), s.cx.wOff a.toNat, 8, false⟩] id s

/-- RED: no value returns (08 R173, R176). -/
def red (op : Nat) (b c : BitVec 4) (imm : BitVec 6) (s : State) : Out :=
  let n := amoSize imm
  reading [b, c] s fun s =>
    let addr := (s.w b).toNat
    if addr % n ≠ 0 then trap s xMisalign (toWord addr)
    else
      access (amoScope imm) false (bitAt imm.toNat 2)
        [⟨addr, n, .red op (8 * n) ((s.w c).toNat % 256 ^ n) (bitAt imm.toNat 0), 0, 0, false⟩] id s

/-- AMO.swap (08 R173). -/
def execAmoSwap (a b c : BitVec 4) (imm : BitVec 6) (s : State) : Out := amo 0 a b c imm s

/-- AMO.add (08 R173). -/
def execAmoAdd (a b c : BitVec 4) (imm : BitVec 6) (s : State) : Out := amo 1 a b c imm s

/-- AMO.and (08 R173). -/
def execAmoAnd (a b c : BitVec 4) (imm : BitVec 6) (s : State) : Out := amo 2 a b c imm s

/-- AMO.or (08 R173). -/
def execAmoOr (a b c : BitVec 4) (imm : BitVec 6) (s : State) : Out := amo 3 a b c imm s

/-- AMO.xor (08 R173). -/
def execAmoXor (a b c : BitVec 4) (imm : BitVec 6) (s : State) : Out := amo 4 a b c imm s

/-- AMO.min (08 R173). -/
def execAmoMin (a b c : BitVec 4) (imm : BitVec 6) (s : State) : Out := amo 5 a b c imm s

/-- AMO.max (08 R173). -/
def execAmoMax (a b c : BitVec 4) (imm : BitVec 6) (s : State) : Out := amo 6 a b c imm s

/-- AMO.min.n (08 R173). -/
def execAmoMinN (a b c : BitVec 4) (imm : BitVec 6) (s : State) : Out := amo 7 a b c imm s

/-- AMO.max.n (08 R173). -/
def execAmoMaxN (a b c : BitVec 4) (imm : BitVec 6) (s : State) : Out := amo 8 a b c imm s

/-- AMO.cas (08 R173). -/
def execAmoCas (a b c : BitVec 4) (imm : BitVec 6) (s : State) : Out := amo 9 a b c imm s

/-- AMO.fadd (08 R173). -/
def execAmoFadd (a b c : BitVec 4) (imm : BitVec 6) (s : State) : Out := amo 10 a b c imm s

/-- RED.add (08 R173). -/
def execRedAdd (_a b c : BitVec 4) (imm : BitVec 6) (s : State) : Out := red 0 b c imm s

/-- RED.and (08 R173). -/
def execRedAnd (_a b c : BitVec 4) (imm : BitVec 6) (s : State) : Out := red 1 b c imm s

/-- RED.or (08 R173). -/
def execRedOr (_a b c : BitVec 4) (imm : BitVec 6) (s : State) : Out := red 2 b c imm s

/-- RED.xor (08 R173). -/
def execRedXor (_a b c : BitVec 4) (imm : BitVec 6) (s : State) : Out := red 3 b c imm s

/-- RED.min (08 R173). -/
def execRedMin (_a b c : BitVec 4) (imm : BitVec 6) (s : State) : Out := red 4 b c imm s

/-- RED.max (08 R173). -/
def execRedMax (_a b c : BitVec 4) (imm : BitVec 6) (s : State) : Out := red 5 b c imm s

/-- RED.fadd (08 R173). -/
def execRedFadd (_a b c : BitVec 4) (imm : BitVec 6) (s : State) : Out := red 6 b c imm s

end Sys2Proof.Machine
end

