-- ==== Sys2Proof/Machine/Vector.lean ====
section
/-! DEFINITION. The vector instructions (07 R135 to R150): majors 0x30 to 0x36. -/

namespace Sys2Proof.Machine

/-! ## Forms -/

/-- Bytes of the governing mask that the K field names (07 R136). -/
def Ctx.govern (c : Ctx) (k : BitVec 3) : List (Nat × Nat) := if k = 0 then [] else [c.kBytes k.toNat]

/-- Read source registers, then go on (07 R137, R139). DESIGN CHOICE, log entry 117. -/
def vreading (k : BitVec 3) (srcs : List (BitVec 5)) (s : State) (f : State → Out) : Out :=
  readingV (srcs.map (fun r => s.cx.vBytes r.toNat 1) ++ s.cx.govern k) s f

/-- Every active lane of vd gets a value, with the saturations it counts (07 R136, R137, 02 R31). -/
def State.setLanes (s : State) (k : BitVec 3) (vd : BitVec 5) (f : Nat → Nat × Nat) : State :=
  let rs := (upTo 16).map (fun j => if s.active k j then some (f j) else none)
  (s.setV vd.toNat (rs.map (fun r => r.map (fun x => x.1)))).countSat s.cur s.satOf
    ((rs.filterMap (fun r => r.map (fun x => x.2))).sum)

/-- An instruction whose lanes depend on the same lanes of its sources (07 R137). -/
def lanewise (i : Instr) (k : BitVec 3) (vd : BitVec 5) (srcs : List (BitVec 5)) (f : State → Nat → List Nat → Nat × Nat)
    (s : State) : Out :=
  checked i s (vreading k srcs s fun s =>
    let vs := srcs.map (fun r => s.v r.toNat)
    done (s.setLanes k vd (fun j => f s j (vs.map (fun v => v.getD j 0)))))

/-- An instruction on the elements of width `w` of each lane (07 R135). -/
def perElem (w : Nat) (f : List Nat → Nat) (xs : List Nat) : Nat :=
  ((upTo (32 / w)).map (fun e => f (xs.map (fun x => bitsOf x (w * e) w)) % 2 ^ w * 2 ^ (w * e))).sum

/-! ## Integer lanes (07 R139) -/

/-- Width and sign of type t (07 R139). -/
def intW (md : BitVec 8) : Nat := 8 * 2 ^ (md.toNat % 3)
def intS (md : BitVec 8) : Bool := decide (md.toNat < 3)

/-- An operation on signed or natural elements. -/
def vint (i : Instr) (k : BitVec 3) (vd : BitVec 5) (srcs : List (BitVec 5)) (md : BitVec 8)
    (f : Bool → Nat → Nat → Nat → Nat) (s : State) : Out :=
  lanewise i k vd srcs (fun _ _ xs =>
    (perElem (intW md) (fun ys => f (intS md) (intW md) (ys.getD 0 0) (ys.getD 1 0)) xs, 0)) s

def minI (sg : Bool) (w x y : Nat) : Nat := if sg then (if sint w y < sint w x then y else x) else min x y
def maxI (sg : Bool) (w x y : Nat) : Nat := if sg then (if sint w x < sint w y then y else x) else max x y

/-- Value of an element (07 R139). -/
def elemInt (sg : Bool) (w x : Nat) : Int := if sg then sint w x else (x : Int)

/-- Clamp to the range of the type; not counted (02 R20, 07 R139). -/
def clampElem (sg : Bool) (w : Nat) (i : Int) : Nat :=
  wrapInt w (if sg then (clampInt (-(2 ^ (w - 1))) (2 ^ (w - 1) - 1) i).1 else (clampInt 0 (2 ^ w - 1) i).1)


/-- VADD (07 R139). -/
def execVadd (a b : BitVec 4) (vd va vb : BitVec 5) (k : BitVec 3) (md : BitVec 8) (s : State) : Out :=
  vint (.vadd a b vd va vb k md) k vd [va, vb] md (fun _ _ x y => x + y) s

/-- VSUB (07 R139). -/
def execVsub (a b : BitVec 4) (vd va vb : BitVec 5) (k : BitVec 3) (md : BitVec 8) (s : State) : Out :=
  vint (.vsub a b vd va vb k md) k vd [va, vb] md (fun _ w x y => x + 2 ^ w - y) s

/-- VMUL (07 R139). -/
def execVmul (a b : BitVec 4) (vd va vb : BitVec 5) (k : BitVec 3) (md : BitVec 8) (s : State) : Out :=
  vint (.vmul a b vd va vb k md) k vd [va, vb] md (fun _ _ x y => x * y) s

/-- VMIN (07 R139). -/
def execVmin (a b : BitVec 4) (vd va vb : BitVec 5) (k : BitVec 3) (md : BitVec 8) (s : State) : Out :=
  vint (.vmin a b vd va vb k md) k vd [va, vb] md (minI) s

/-- VMAX (07 R139). -/
def execVmax (a b : BitVec 4) (vd va vb : BitVec 5) (k : BitVec 3) (md : BitVec 8) (s : State) : Out :=
  vint (.vmax a b vd va vb k md) k vd [va, vb] md (maxI) s

/-- VAND (07 R139). -/
def execVand (a b : BitVec 4) (vd va vb : BitVec 5) (k : BitVec 3) (md : BitVec 8) (s : State) : Out :=
  vint (.vand a b vd va vb k md) k vd [va, vb] md (fun _ _ x y => Nat.land x y) s

/-- VOR (07 R139). -/
def execVor (a b : BitVec 4) (vd va vb : BitVec 5) (k : BitVec 3) (md : BitVec 8) (s : State) : Out :=
  vint (.vor a b vd va vb k md) k vd [va, vb] md (fun _ _ x y => Nat.lor x y) s

/-- VXOR (07 R139). -/
def execVxor (a b : BitVec 4) (vd va vb : BitVec 5) (k : BitVec 3) (md : BitVec 8) (s : State) : Out :=
  vint (.vxor a b vd va vb k md) k vd [va, vb] md (fun _ _ x y => Nat.xor x y) s

/-- VSHL (07 R139). -/
def execVshl (a b : BitVec 4) (vd va vb : BitVec 5) (k : BitVec 3) (md : BitVec 8) (s : State) : Out :=
  vint (.vshl a b vd va vb k md) k vd [va, vb] md (fun _ w x y => x * 2 ^ (y % w)) s

/-- VSHR (07 R139). -/
def execVshr (a b : BitVec 4) (vd va vb : BitVec 5) (k : BitVec 3) (md : BitVec 8) (s : State) : Out :=
  vint (.vshr a b vd va vb k md) k vd [va, vb] md (fun _ w x y => x / 2 ^ (y % w)) s

/-- VSAR (07 R139). -/
def execVsar (a b : BitVec 4) (vd va vb : BitVec 5) (k : BitVec 3) (md : BitVec 8) (s : State) : Out :=
  vint (.vsar a b vd va vb k md) k vd [va, vb] md (fun _ w x y => wrapInt w (sint w x / 2 ^ (y % w))) s

/-- VADDS (07 R139). -/
def execVadds (a b : BitVec 4) (vd va vb : BitVec 5) (k : BitVec 3) (md : BitVec 8) (s : State) : Out :=
  vint (.vadds a b vd va vb k md) k vd [va, vb] md (fun sg w x y => clampElem sg w (elemInt sg w x + elemInt sg w y)) s

/-- VSUBS (07 R139). -/
def execVsubs (a b : BitVec 4) (vd va vb : BitVec 5) (k : BitVec 3) (md : BitVec 8) (s : State) : Out :=
  vint (.vsubs a b vd va vb k md) k vd [va, vb] md (fun sg w x y => clampElem sg w (elemInt sg w x - elemInt sg w y)) s

/-- VABS (07 R139). -/
def execVabs (a b : BitVec 4) (vd va vb : BitVec 5) (k : BitVec 3) (md : BitVec 8) (s : State) : Out :=
  vint (.vabs a b vd va vb k md) k vd [va] md (fun sg w x _ => if sg then (sint w x).natAbs else x) s

/-! ## Floating-point lanes (07 R140, R141) -/

/-- The format of VFP (07 R140). -/
def vfmt (md : BitVec 8) : FFmt := if md = 0 then f32 else if md = 1 then bf16 else f16

/-- An operation whose exact result is rounded once into the format; the function gets the mode, the NaN it may create, and the operands (07 R140). -/
def vfp (i : Instr) (k : BitVec 3) (vd : BitVec 5) (srcs : List (BitVec 5)) (md : BitVec 8)
    (f : Rm → Nat → List FVal → FVal) (s : State) : Out :=
  lanewise i k vd srcs (fun s j xs =>
    let m := vfmt md
    (perElem m.width (fun ys => roundF m s.cx.rm (f s.cx.rm (mkNan s.here j) (ys.map (decodeF m)))) xs, 0)) s

/-- The n-th operand. -/
def opd (xs : List FVal) (n : Nat) : FVal := xs.getD n (.fin false 0 0)

/-- VFNEG and VFABS: a pattern with its sign bit set as given, and a NaN made quiet (07 R141). -/
def withSign (m : FFmt) (sg : Bool) (x : Nat) : Nat :=
  let y := x % 2 ^ (m.width - 1) + signBit m sg
  match decodeF m y with
  | .nan _ => if bitAt y (m.fbits - 1) then y else y + 2 ^ (m.fbits - 1)
  | _ => y

/-- A change of the sign bit alone. -/
def vfsign (i : Instr) (k : BitVec 3) (vd va : BitVec 5) (md : BitVec 8) (f : Bool → Bool) (s : State) : Out :=
  lanewise i k vd [va] (fun _ _ xs =>
    let m := vfmt md
    (perElem m.width (fun ys => withSign m (f (bitAt (ys.getD 0 0) (m.width - 1))) (ys.getD 0 0)) xs, 0)) s

/-- VFADD (07 R140). -/
def execVfadd (a b : BitVec 4) (vd va vb : BitVec 5) (k : BitVec 3) (md : BitVec 8) (s : State) : Out :=
  vfp (.vfadd a b vd va vb k md) k vd [va, vb] md (fun rm bad xs => addVals rm bad xs) s

/-- VFSUB (07 R140). -/
def execVfsub (a b : BitVec 4) (vd va vb : BitVec 5) (k : BitVec 3) (md : BitVec 8) (s : State) : Out :=
  vfp (.vfsub a b vd va vb k md) k vd [va, vb] md (fun rm bad xs => match nanOf xs with
    | some w => .nan w
    | none => addVals rm bad [opd xs 0, negVal (opd xs 1)]) s

/-- VFMUL (07 R140). -/
def execVfmul (a b : BitVec 4) (vd va vb : BitVec 5) (k : BitVec 3) (md : BitVec 8) (s : State) : Out :=
  vfp (.vfmul a b vd va vb k md) k vd [va, vb] md (fun _ bad xs => mulVals bad (opd xs 0) (opd xs 1)) s

/-- VFMA (07 R140). -/
def execVfma (a b : BitVec 4) (vd va vb : BitVec 5) (k : BitVec 3) (md : BitVec 8) (s : State) : Out :=
  vfp (.vfma a b vd va vb k md) k vd [va, vb, vd] md (fun rm bad xs => fmaVals rm bad (opd xs 0) (opd xs 1) (opd xs 2)) s

/-- VFMIN (07 R141). -/
def execVfmin (a b : BitVec 4) (vd va vb : BitVec 5) (k : BitVec 3) (md : BitVec 8) (s : State) : Out :=
  vfp (.vfmin a b vd va vb k md) k vd [va, vb] md (fun _ _ xs => minVal (opd xs 0) (opd xs 1)) s

/-- VFMAX (07 R141). -/
def execVfmax (a b : BitVec 4) (vd va vb : BitVec 5) (k : BitVec 3) (md : BitVec 8) (s : State) : Out :=
  vfp (.vfmax a b vd va vb k md) k vd [va, vb] md (fun _ _ xs => maxVal (opd xs 0) (opd xs 1)) s

/-- VRCP (07 R140, R141). -/
def execVrcp (a b : BitVec 4) (vd va vb : BitVec 5) (k : BitVec 3) (md : BitVec 8) (s : State) : Out :=
  vfp (.vrcp a b vd va vb k md) k vd [va] md (fun _ _ xs => rcpVal (opd xs 0)) s

/-- VRSQ (07 R140, R141). -/
def execVrsq (a b : BitVec 4) (vd va vb : BitVec 5) (k : BitVec 3) (md : BitVec 8) (s : State) : Out :=
  vfp (.vrsq a b vd va vb k md) k vd [va] md (fun _ bad xs => rsqVal bad (opd xs 0)) s

/-- VEXP2 (07 R140, R141). -/
def execVexp2 (a b : BitVec 4) (vd va vb : BitVec 5) (k : BitVec 3) (md : BitVec 8) (s : State) : Out :=
  vfp (.vexp2 a b vd va vb k md) k vd [va] md (fun _ _ xs => exp2Val (opd xs 0)) s

/-- VLOG2 (07 R140, R141). -/
def execVlog2 (a b : BitVec 4) (vd va vb : BitVec 5) (k : BitVec 3) (md : BitVec 8) (s : State) : Out :=
  vfp (.vlog2 a b vd va vb k md) k vd [va] md (fun _ bad xs => log2Val bad (opd xs 0)) s

/-- VFNEG (07 R141). -/
def execVfneg (a b : BitVec 4) (vd va vb : BitVec 5) (k : BitVec 3) (md : BitVec 8) (s : State) : Out :=
  vfsign (.vfneg a b vd va vb k md) k vd va md (fun x => !x) s

/-- VFABS (07 R141). -/
def execVfabs (a b : BitVec 4) (vd va vb : BitVec 5) (k : BitVec 3) (md : BitVec 8) (s : State) : Out :=
  vfsign (.vfabs a b vd va vb k md) k vd va md (fun _ => false) s

/-! ## Comparisons and masks (07 R142) -/

/-- Equality and order of two lanes: i32, n32 or f32, where a NaN is neither (07 R142). -/
def laneEq (md : BitVec 8) (x y : Nat) : Bool :=
  if md = 2 then
    match decodeF f32 x, decodeF f32 y with
    | .nan _, _ => false
    | _, .nan _ => false
    | u, v => !ltVal false u v && !ltVal false v u
  else x == y

def laneLt (md : BitVec 8) (x y : Nat) : Bool :=
  if md = 0 then decide (sint 32 x < sint 32 y)
  else if md = 1 then decide (x < y)
  else
    match decodeF f32 x, decodeF f32 y with
    | .nan _, _ => false
    | _, .nan _ => false
    | u, v => ltVal false u v

/-- A mask from a test of each lane. -/
def maskOf (f : Nat → Bool) : Nat := ((upTo 16).map (fun j => if f j then 2 ^ j else 0)).sum

/-- A comparison: every bit of kd is written, 0 for an inactive lane (07 R142). -/
def vcmp (i : Instr) (k : BitVec 3) (kd va vb : BitVec 5) (f : Nat → Nat → Bool) (s : State) : Out :=
  checked i s (vreading k [va, vb] s fun s =>
    let x := s.v va.toNat
    let y := s.v vb.toNat
    done (s.setK kd.toNat (maskOf (fun j => s.active k j && f (x.getD j 0) (y.getD j 0)))))

/-- An operation on masks (07 R142). -/
def kop (i : Instr) (kd : BitVec 5) (ks : List (BitVec 5)) (f : Nat → Nat → Nat) (s : State) : Out :=
  checked i s (readingV (ks.map (fun r => s.cx.kBytes r.toNat)) s fun s =>
    let vs := ks.map (fun r => s.k r.toNat)
    done (s.setK kd.toNat (f (vs.getD 0 0) (vs.getD 1 0))))

/-- VCMP.eq (07 R142). -/
def execVcmpEq (a b : BitVec 4) (vd va vb : BitVec 5) (k : BitVec 3) (md : BitVec 8) (s : State) : Out :=
  vcmp (.vcmpEq a b vd va vb k md) k vd va vb (laneEq md) s

/-- VCMP.lt (07 R142). -/
def execVcmpLt (a b : BitVec 4) (vd va vb : BitVec 5) (k : BitVec 3) (md : BitVec 8) (s : State) : Out :=
  vcmp (.vcmpLt a b vd va vb k md) k vd va vb (laneLt md) s

/-- VCMP.le (07 R142). -/
def execVcmpLe (a b : BitVec 4) (vd va vb : BitVec 5) (k : BitVec 3) (md : BitVec 8) (s : State) : Out :=
  vcmp (.vcmpLe a b vd va vb k md) k vd va vb (fun x y => laneLt md x y || laneEq md x y) s

/-- VCMP.ne (07 R142). -/
def execVcmpNe (a b : BitVec 4) (vd va vb : BitVec 5) (k : BitVec 3) (md : BitVec 8) (s : State) : Out :=
  vcmp (.vcmpNe a b vd va vb k md) k vd va vb (fun x y => !laneEq md x y) s

/-- VBLEND (07 R142). -/
def execVblend (a b : BitVec 4) (vd va vb : BitVec 5) (k : BitVec 3) (md : BitVec 8) (s : State) : Out :=
  checked (.vblend a b vd va vb k md) s (vreading k [va, vb] s fun s =>
    let x := s.v va.toNat
    let y := s.v vb.toNat
    done (s.setLanes 0 vd (fun j => (if s.active k j then y.getD j 0 else x.getD j 0, 0))))

/-- KAND (07 R142). -/
def execKand (a b : BitVec 4) (vd va vb : BitVec 5) (k : BitVec 3) (md : BitVec 8) (s : State) : Out :=
  kop (.kand a b vd va vb k md) vd [va, vb] (fun x y => Nat.land x y) s

/-- KOR (07 R142). -/
def execKor (a b : BitVec 4) (vd va vb : BitVec 5) (k : BitVec 3) (md : BitVec 8) (s : State) : Out :=
  kop (.kor a b vd va vb k md) vd [va, vb] (fun x y => Nat.lor x y) s

/-- KXOR (07 R142). -/
def execKxor (a b : BitVec 4) (vd va vb : BitVec 5) (k : BitVec 3) (md : BitVec 8) (s : State) : Out :=
  kop (.kxor a b vd va vb k md) vd [va, vb] (fun x y => Nat.xor x y) s

/-- KNOT (07 R142). -/
def execKnot (a b : BitVec 4) (vd va vb : BitVec 5) (k : BitVec 3) (md : BitVec 8) (s : State) : Out :=
  kop (.knot a b vd va vb k md) vd [va] (fun x _ => 65535 - x) s

/-- KPOP (07 R142). -/
def execKpop (a b : BitVec 4) (vd va vb : BitVec 5) (k : BitVec 3) (md : BitVec 8) (s : State) : Out :=
  checked (.kpop a b vd va vb k md) s (readingV [s.cx.kBytes va.toNat] s fun s => done (s.setW a (toWord (popGo 16 (s.k va.toNat)))))

/-! ## Conversion, packing, random bits (07 R143 to R145) -/

/-- Conversion of the low bits of a lane; the bits above the result are 0 (07 R143). -/
def vcvtLane (rm : Rm) (md x : Nat) : Nat × Nat :=
  match tyOf (md % 16), tyOf (md / 16) with
  | some t, some d =>
    let r := convTy d rm (tyVal t x)
    (r.1, if r.2 then 1 else 0)
  | _, _ => (0, 0)

/-- Registers of a group from a base (03 R70). -/
def State.vGroup (s : State) (r : BitVec 5) (n : Nat) : List Nat := (upTo n).flatMap (fun i => s.v (r.toNat + i))

/-- Bytes of an unpacked group, as 16 lanes. -/
def lanesOf (w : Nat) (xs : List Nat) : List Nat :=
  (upTo 16).map (fun j => ((upTo (32 / w)).map (fun e => xs.getD (32 / w * j + e) 0 % 2 ^ w * 2 ^ (w * e))).sum)

/-- Elements of 16 lanes in memory order. -/
def elemsOf (w : Nat) (v : List Nat) : List Nat :=
  (upTo (512 / w)).map (fun i => bitsOf (v.getD (i / (32 / w)) 0) (w * (i % (32 / w))) w)

/-- Write a group of registers from a list of lanes. -/
def State.setGroup (s : State) (r : BitVec 5) (n : Nat) (xs : List Nat) : State :=
  (upTo n).foldl (fun s i => s.setV (r.toNat + i) ((upTo 16).map (fun j => some (xs.getD (16 * i + j) 0)))) s

/-- Value of a q4 code under a scale byte, exact in FP32 (02 R24, R25, 07 R144). -/
def q4Pat (scale c : Nat) : Nat :=
  let (sg, m, e) := q4Val (bitsOf scale 6 2) c
  roundF f32 .rne (.fin (sg && m != 0) m (e + ((bitsOf scale 0 6 : Int) - 32)))

/-- Key and index of VRND (07 R145). -/
def State.draw (s : State) (a b : BitVec 4) (j : Nat) : Nat := vrnd (s.w a).toNat (s.w b + toWord j).toNat

/-- VCVT (07 R143). -/
def execVcvt (a b : BitVec 4) (vd va vb : BitVec 5) (k : BitVec 3) (md : BitVec 8) (s : State) : Out :=
  lanewise (.vcvt a b vd va vb k md) k vd [va] (fun s _ xs => vcvtLane s.cx.rm md.toNat (xs.getD 0 0)) s

/-- VPACK (07 R144). -/
def execVpack (a b : BitVec 4) (vd va vb : BitVec 5) (k : BitVec 3) (md : BitVec 8) (s : State) : Out :=
  checked (.vpack a b vd va vb k md) s
    (if md = 0 then
      readingV [s.cx.vBytes va.toNat 4] s fun s => done (s.setGroup vd 1 (lanesOf 8 (s.vGroup va 4)))
    else if md = 1 then
      readingV [s.cx.vBytes va.toNat 2] s fun s => done (s.setGroup vd 1 (lanesOf 16 (s.vGroup va 2)))
    else
      reading [a] s (readingV [s.cx.vBytes va.toNat 2] · fun s =>
        let cs := (s.vGroup va 2).map (fun x => convQ4 (bitsOf (s.w a).toNat 0 8) s.cx.rm (decodeF f32 x))
        done ((s.setGroup vd 1 (lanesOf 4 (cs.map (fun c => c.1)))).countSat s.cur s.satOf
          (cs.filter (fun c => c.2)).length)))

/-- VUNPK (07 R144). -/
def execVunpk (a b : BitVec 4) (vd va vb : BitVec 5) (k : BitVec 3) (md : BitVec 8) (s : State) : Out :=
  checked (.vunpk a b vd va vb k md) s
    (if bitsOf md.toNat 0 2 = 2 then
      reading [a] s (readingV [s.cx.vBytes va.toNat 1] · fun s =>
        done (s.setGroup vd 2 (((elemsOf 4 (s.v va.toNat)).take 32).map (q4Pat (bitsOf (s.w a).toNat 0 8)))))
    else
      let w := if bitsOf md.toNat 0 2 = 0 then 8 else 16
      readingV [s.cx.vBytes va.toNat 1] s fun s =>
        done (s.setGroup vd (32 / w) ((elemsOf w (s.v va.toNat)).map
          (fun x => if bitAt md.toNat 2 then wrapInt 32 (sint w x) else x))))

/-- VRND (07 R145). With `keep` its mask register is a source, whose word is checked. DESIGN CHOICE, log entry 131. -/
def execVrnd (a b : BitVec 4) (vd va vb : BitVec 5) (k : BitVec 3) (md : BitVec 8) (s : State) : Out :=
  checked (.vrnd a b vd va vb k md) s (reading [a, b] s fun s =>
    if md = 2 then
      vreading k [vb] s fun s =>
        let y := s.v vb.toNat
        readingV [s.cx.kBytes vd.toNat] s fun s =>
          done (s.setK vd.toNat (maskOf (fun j =>
            if s.active k j then decide (y.getD j 0 ≤ bitsOf (s.draw a b j) 0 32) else bitAt (s.k vd.toNat) j)))
    else
      vreading k [] s fun s =>
        done (s.setLanes k vd (fun j =>
          let r := s.draw a b j
          (if md = 0 then bitsOf r 0 32 else roundF f32 .rne (.fin false (bitsOf r 8 24) (-24)), 0))))

/-! ## Memory (07 R146, R147) -/

/-- The active lanes of a VMEM access, in order, with the address of each. -/
def State.laneElems (s : State) (k : BitVec 3) (addr : Nat → Word) (ld : Bool) (vd : Nat) : List Elem :=
  let v := s.v vd
  ((upTo 16).filter (s.active k)).map (fun j =>
    if ld then ⟨(addr j).toNat, 4, .load, s.cx.vOff vd + 4 * j, 4, false⟩
    else ⟨(addr j).toNat, 4, .store (v.getD j 0), 0, 0, false⟩)

/-- Alignment of every active lane first, then the access (07 R147). -/
def vaccess (n : Nat) (es : List Elem) (s : State) : Out :=
  match pick (fun e => e.va % n != 0) es with
  | some e => trap s xMisalign (toWord e.va)
  | none => access 2 false false es id s (vec := true)

/-- Lanes to or from a vector register (07 R146). -/
def vmem (i : Instr) (rs : List (BitVec 4)) (k : BitVec 3) (vd : BitVec 5) (idx : List (BitVec 5)) (ld : Bool)
    (addr : State → Nat → Word) (s : State) : Out :=
  checked i s (reading rs s fun s =>
    vreading k (if ld then idx else vd :: idx) s fun s => vaccess 4 (s.laneElems k (addr s) ld vd.toNat) s)

/-- wA + sign_extend(MOD)·n + 4j (07 R146). -/
def State.rowAddr (s : State) (a : BitVec 4) (md : BitVec 8) (n j : Nat) : Word :=
  s.w a + md.signExtend 64 * toWord n + toWord (4 * j)

/-- wA + j·wB. -/
def State.strideAddr (s : State) (a b : BitVec 4) (j : Nat) : Word := s.w a + toWord j * s.w b

/-- wA + lane j of vb. -/
def State.gathAddr (s : State) (a : BitVec 4) (vb : BitVec 5) (j : Nat) : Word := s.w a + toWord ((s.v vb.toNat).getD j 0)

/-- VLD (07 R146). -/
def execVld (a b : BitVec 4) (vd va vb : BitVec 5) (k : BitVec 3) (md : BitVec 8) (s : State) : Out :=
  vmem (.vld a b vd va vb k md) [a] k vd [] true (fun s j => s.rowAddr a md 64 j) s

/-- VST (07 R146). -/
def execVst (a b : BitVec 4) (vd va vb : BitVec 5) (k : BitVec 3) (md : BitVec 8) (s : State) : Out :=
  vmem (.vst a b vd va vb k md) [a] k vd [] false (fun s j => s.rowAddr a md 64 j) s

/-- VLDS (07 R146). -/
def execVlds (a b : BitVec 4) (vd va vb : BitVec 5) (k : BitVec 3) (md : BitVec 8) (s : State) : Out :=
  vmem (.vlds a b vd va vb k md) [a, b] k vd [] true (fun s j => s.strideAddr a b j) s

/-- VSTS (07 R146). -/
def execVsts (a b : BitVec 4) (vd va vb : BitVec 5) (k : BitVec 3) (md : BitVec 8) (s : State) : Out :=
  vmem (.vsts a b vd va vb k md) [a, b] k vd [] false (fun s j => s.strideAddr a b j) s

/-- VGATH (07 R146). -/
def execVgath (a b : BitVec 4) (vd va vb : BitVec 5) (k : BitVec 3) (md : BitVec 8) (s : State) : Out :=
  vmem (.vgath a b vd va vb k md) [a] k vd [vb] true (fun s j => s.gathAddr a vb j) s

/-- VSCAT (07 R146). -/
def execVscat (a b : BitVec 4) (vd va vb : BitVec 5) (k : BitVec 3) (md : BitVec 8) (s : State) : Out :=
  vmem (.vscat a b vd va vb k md) [a] k vd [vb] false (fun s j => s.gathAddr a vb j) s

/-- VSTK (07 R146). DEDUCED, log entry 35. -/
def execVstk (a b : BitVec 4) (vd va vb : BitVec 5) (k : BitVec 3) (md : BitVec 8) (s : State) : Out :=
  checked (.vstk a b vd va vb k md) s (reading [a] s (readingV [s.cx.kBytes va.toNat] · fun s =>
    vaccess 2 [⟨(s.rowAddr a md 2 0).toNat, 2, .store (s.k va.toNat), 0, 0, false⟩] s))

/-- VLDB (07 R146). -/
def execVldb (a b : BitVec 4) (vd va vb : BitVec 5) (k : BitVec 3) (md : BitVec 8) (s : State) : Out :=
  checked (.vldb a b vd va vb k md) s (reading [a] s fun s =>
    vaccess 2 [⟨(s.rowAddr a md 2 0).toNat, 2, .load, s.cx.kOff vd.toNat, 2, false⟩] s)

/-! ## Permutation (07 R148) -/

/-- Every active lane from the lane number and two whole sources (07 R148). -/
def vperm (i : Instr) (k : BitVec 3) (vd : BitVec 5) (srcs : List (BitVec 5)) (f : Nat → List Nat → List Nat → Nat)
    (s : State) : Out :=
  checked i s (vreading k srcs s fun s =>
    let vs := srcs.map (fun r => s.v r.toNat)
    done (s.setLanes k vd (fun j => (f j (vs.getD 0 []) (vs.getD 1 []), 0))))

/-- VSHUF (07 R148). -/
def execVshuf (a b : BitVec 4) (vd va vb : BitVec 5) (k : BitVec 3) (md : BitVec 8) (s : State) : Out :=
  vperm (.vshuf a b vd va vb k md) k vd [va, vb] (fun j x y => x.getD (y.getD j 0 % 16) 0) s

/-- VBCAST (07 R148). -/
def execVbcast (a b : BitVec 4) (vd va vb : BitVec 5) (k : BitVec 3) (md : BitVec 8) (s : State) : Out :=
  checked (.vbcast a b vd va vb k md) s (reading [a] s (vreading k [] · fun s => done (s.setLanes k vd (fun _ => (bitsOf (s.w a).toNat 0 32, 0)))))

/-- VEXT (07 R148). -/
def execVext (a b : BitVec 4) (vd va vb : BitVec 5) (k : BitVec 3) (md : BitVec 8) (s : State) : Out :=
  checked (.vext a b vd va vb k md) s (vreading 0 [va] s fun s => done (s.setW a (toWord ((s.v va.toNat).getD (md.toNat % 16) 0))))

/-- VROT (07 R148). -/
def execVrot (a b : BitVec 4) (vd va vb : BitVec 5) (k : BitVec 3) (md : BitVec 8) (s : State) : Out :=
  vperm (.vrot a b vd va vb k md) k vd [va] (fun j x _ => x.getD ((j + 16 - md.toNat % 16) % 16) 0) s

/-- VINS (07 R148). -/
def execVins (a b : BitVec 4) (vd va vb : BitVec 5) (k : BitVec 3) (md : BitVec 8) (s : State) : Out :=
  checked (.vins a b vd va vb k md) s (reading [a] s fun s =>
    done (s.setV vd.toNat ((upTo 16).map (fun j => if j = md.toNat % 16 then some (bitsOf (s.w a).toNat 0 32) else none))))

/-! ## Scans (07 R149, R150, 02 R39) -/

/-- One side an identity returns the other side unchanged and unrounded (07 R150). DESIGN CHOICE, log entry 116. -/
def combine {α : Type} (f : α → α → α) (x y : Option α) : Option α :=
  match x, y with
  | none, y => y
  | x, none => x
  | some x, some y => some (f x y)

/-- One step of the scan at distance d: the function also gets the lane; a lane that meets nothing keeps its value as it is, a signalling NaN too (02 R23, R39). DESIGN CHOICE, log entry 129. -/
def scanStep {α : Type} (f : Nat → α → α → α) (xs : List (Option α)) (d : Nat) : List (Option α) :=
  (upTo 16).map (fun i =>
    if d ≤ i then combine (f i) ((xs[i - d]?).join) ((xs[i]?).join) else (xs[i]?).join)

/-- The inclusive prefix (02 R39). -/
def scan {α : Type} (f : Nat → α → α → α) (xs : List (Option α)) : List (Option α) := [1, 2, 4, 8].foldl (scanStep f) xs

/-- Sum and maximum of two lanes by type: f32 or i32 (07 R149). -/
def scanAdd (rm : Rm) (core : Nat) (md : BitVec 8) (j x y : Nat) : Nat :=
  if md = 0 then roundF f32 rm (addVals rm (mkNan core j) [decodeF f32 x, decodeF f32 y]) else (x + y) % 2 ^ 32

def scanMax (md : BitVec 8) (x y : Nat) : Nat :=
  if md = 0 then roundF f32 .rne (maxVal (decodeF f32 x) (decodeF f32 y)) else maxI true 32 x y

/-- The identities (07 R150). -/
def addId (md : BitVec 8) : Nat := if md = 0 then 0x80000000 else 0
def maxId (md : BitVec 8) : Nat := if md = 0 then 0xFF800000 else 0x80000000

/-- Products of FP32 patterns and their fused sum, each rounded once. -/
def mulPat (rm : Rm) (core j x y : Nat) : Nat := roundF f32 rm (mulVals (mkNan core j) (decodeF f32 x) (decodeF f32 y))
def fmaPat (rm : Rm) (core j x y z : Nat) : Nat :=
  roundF f32 rm (fmaVals rm (mkNan core j) (decodeF f32 x) (decodeF f32 y) (decodeF f32 z))

/-- Lanes of a source, the inactive ones as the identity (07 R150). -/
def State.scanIn (s : State) (k : BitVec 3) (va : BitVec 5) : List (Option Nat) :=
  (upTo 16).map (fun j => if s.active k j then (s.v va.toNat)[j]? else none)

/-- A scan, then what is done with its sixteen values. -/
def vscan (i : Instr) (k : BitVec 3) (va : BitVec 5) (f : State → Nat → Nat → Nat → Nat) (e : Nat)
    (fin : State → List Nat → State) (s : State) : Out :=
  checked i s (vreading k [va] s fun s => done (fin s ((scan (f s) (s.scanIn k va)).map (fun x => x.getD e))))

/-- The scan of pairs (07 R149, 02 R39); where NaNs meet, the lane below is the earlier operand (07 R149, log entry 17). -/
def State.scanLin (s : State) (k : BitVec 3) (va : BitVec 5) : List (Option (Nat × Nat)) :=
  let x := s.v va.toNat
  let y := s.v (va.toNat + 1)
  let rm := s.cx.rm
  scan (fun j p q => (mulPat rm s.here j p.1 q.1, fmaPat rm s.here j p.2 q.1 q.2))
    ((upTo 16).map (fun j => if s.active k j then some (x.getD j 0, y.getD j 0) else none))

/-- VSCAN.add (07 R149). -/
def execVscanAdd (a b : BitVec 4) (vd va vb : BitVec 5) (k : BitVec 3) (md : BitVec 8) (s : State) : Out :=
  vscan (.vscanAdd a b vd va vb k md) k va (fun s => scanAdd s.cx.rm s.here md) (addId md) (fun s xs => s.setGroup vd 1 xs) s

/-- VSCAN.max (07 R149). -/
def execVscanMax (a b : BitVec 4) (vd va vb : BitVec 5) (k : BitVec 3) (md : BitVec 8) (s : State) : Out :=
  vscan (.vscanMax a b vd va vb k md) k va (fun _ _ => scanMax md) (maxId md) (fun s xs => s.setGroup vd 1 xs) s

/-- VSCAN.lin (07 R149). -/
def execVscanLin (a b : BitVec 4) (vd va vb : BitVec 5) (k : BitVec 3) (md : BitVec 8) (s : State) : Out :=
  checked (.vscanLin a b vd va vb k md) s (readingV (s.cx.vBytes va.toNat 2 :: s.cx.govern k) s fun s =>
    let xs := (s.scanLin k va).map (fun x => x.getD (0x3F800000, 0))
    done (s.setGroup vd 2 (xs.map (fun x => x.1) ++ xs.map (fun x => x.2))))

/-- VRED.add (07 R149). -/
def execVredAdd (a b : BitVec 4) (vd va vb : BitVec 5) (k : BitVec 3) (md : BitVec 8) (s : State) : Out :=
  vscan (.vredAdd a b vd va vb k md) k va (fun s => scanAdd s.cx.rm s.here md) (addId md) (fun s xs => s.setW a (toWord (xs.getD 15 0))) s

/-- VRED.max (07 R149). -/
def execVredMax (a b : BitVec 4) (vd va vb : BitVec 5) (k : BitVec 3) (md : BitVec 8) (s : State) : Out :=
  vscan (.vredMax a b vd va vb k md) k va (fun _ _ => scanMax md) (maxId md) (fun s xs => s.setW a (toWord (xs.getD 15 0))) s

/-- VCARRY (07 R149, R150). -/
def execVcarry (a b : BitVec 4) (vd va vb : BitVec 5) (k : BitVec 3) (md : BitVec 8) (s : State) : Out :=
  checked (.vcarry a b vd va vb k md) s (reading [a] s (readingV (s.cx.vBytes va.toNat (if md = 2 then 2 else 1) :: s.cx.govern k) · fun s =>
    let c := bitsOf (s.w a).toNat 0 32
    let x := s.v va.toNat
    let y := s.v (va.toNat + 1)
    done (s.setLanes k vd (fun j =>
      (if md = 0 then scanAdd .rne s.here 0 j c (x.getD j 0)
       else if md = 1 then scanMax 0 c (x.getD j 0)
       else fmaPat .rne s.here j (x.getD j 0) c (y.getD j 0), 0)))))

end Sys2Proof.Machine
end

