-- ==== Sys2Proof/Machine/Tile.lean ====
section
/-! DEFINITION. The matrix unit and its tiles (10): majors 0x38 and 0x39, and the steps by which the unit takes and completes an operation. -/

namespace Sys2Proof.Machine

/-! ## Formats (10 R205, R210) -/

/-- Whether a pair of format codes is valid (10 R205). -/
def mfmtOk (af bf : Nat) : Bool := decide ((af = bf ∧ (af ≤ 1 ∨ af = 4 ∨ af = 5)) ∨ (2 ≤ af ∧ af ≤ 3 ∧ 2 ≤ bf ∧ bf ≤ 3))

/-- Bits of an element of a format code. -/
def mWidth (f : Nat) : Nat := if f ≤ 1 then 16 else if f ≤ 4 then 8 else 4

/-- Format of a floating-point code. -/
def mFmt (f : Nat) : FFmt :=
  match f with
  | 0 => bf16
  | 1 => f16
  | 2 => e5m2
  | _ => e4m3

/-- The K elements of a row of 16 bytes (10 R210). -/
def rowElems (f x : Nat) : List Nat := (upTo (128 / mWidth f)).map (fun k => bitsOf x (mWidth f * k) (mWidth f))

/-- Bytes of a memory type (07 R143). -/
def tySize (n : Nat) : Nat :=
  match tyOf n with
  | some t => t.width / 8
  | none => 0

/-! ## The product of a k-group (10 R213, 02 R35, R36, R38, R422) -/

def isInfV (sg : Bool) (v : FVal) : Bool := v == .inf sg

/-- Whether a product is 0 × ∞. -/
def zeroTimesInf (x y : FVal) : Bool :=
  match x, y with
  | .fin _ m _, .inf _ => m == 0
  | .inf _, .fin _ m _ => m == 0
  | _, _ => false

/-- The first kk at which the products so far hold infinities of both signs (02 R35). -/
def clash : List (Nat × FVal) → Bool → Bool → Option Nat
  | [], _, _ => none
  | (k, v) :: r, p, n =>
    let p := p || isInfV false v
    let n := n || isInfV true v
    if p && n then some k else clash r p n

/-- A cell after a k-group of a floating-point format: kk, A and B of each product. -/
def groupF (rm : Rm) (core : Nat) (fa fb : FFmt) (acc : Nat) (xs : List (Nat × Nat × Nat)) : Nat :=
  let a := decodeF f32 acc
  let vs := xs.map (fun x => (x.1, decodeF fa x.2.1, decodeF fb x.2.2))
  match nanOf (a :: vs.flatMap (fun v => [v.2.1, v.2.2])) with
  | some w => w
  | none =>
    match pick (fun v => zeroTimesInf v.2.1 v.2.2) vs with
    | some v => mkNan core v.1
    | none =>
      let ps := vs.map (fun v => (v.1, mulVals 0 v.2.1 v.2.2))
      match clash ps false false with
      | some k => mkNan core k
      | none =>
        let sum := addVals rm 0 (ps.map (fun p => p.2))
        match a, sum with
        | .inf s, .inf t =>
          if s = t then f32.infPat s
          else match pick (fun p => isInfV t p.2) ps with
            | some p => mkNan core p.1
            | none => f32.infPat s
        | _, _ => roundF f32 rm (addVals rm 0 [a, sum])

/-- A cell after a k-group of i8 (10 R213). -/
def groupI (acc : Nat) (xs : List (Nat × Nat × Nat)) : Nat :=
  wrapInt 32 ((acc : Int) + (xs.map (fun x => sint 8 x.2.1 * sint 8 x.2.2)).sum)

/-- A cell after the kept k-groups of a q4 block (10 R213, 02 R38): A's and B's scale bytes. -/
def blockQ (rm : Rm) (acc sa sb : Nat) (xs : List (Nat × Nat × Nat)) : Nat :=
  let v (sc c : Nat) : FVal :=
    let (sg, m, e) := q4Val (bitsOf sc 6 2) c
    .fin sg m e
  let part := addVals rm 0 (xs.map (fun x => mulVals 0 (v sa x.2.1) (v sb x.2.2)))
  let scaled := match part with
    | .fin s m e => FVal.fin s m (e + ((bitsOf sa 0 6 + bitsOf sb 0 6 : Nat) : Int) - 64)
    | w => w
  roundF f32 rm (addVals rm 0 [decodeF f32 acc, scaled])

/-- The products of one k-group of row `a` and column `b`. -/
def groupOf (k n : Nat) (a b : List Nat) : List (Nat × Nat × Nat) :=
  (upTo (k / 4)).map (fun t => (n * (k / 4) + t, a.getD (n * (k / 4) + t) 0, b.getD (n * (k / 4) + t) 0))

/-- A cell after an operation (10 R213). -/
def mmaCell (rm : Rm) (core af bf acc sa sb : Nat) (keep : List Bool) (a b : List Nat) : Nat :=
  let k := 128 / mWidth af
  let ns := (upTo 4).filter (fun n => keep.getD n false)
  if af = 5 then
    if ns.isEmpty then acc else blockQ rm acc sa sb (ns.flatMap (fun n => groupOf k n a b))
  else if af = 4 then ns.foldl (fun x n => groupI x (groupOf k n a b)) acc
  else ns.foldl (fun x n => groupF rm core (mFmt af) (mFmt bf) x (groupOf k n a b)) acc

/-! ## Tiles -/

def State.tile (s : State) (core t : Nat) : Tile := mgetD (s.core core).tiles t ⟨[], none⟩

def State.setTile (s : State) (core t : Nat) (x : Tile) : State :=
  s.setCore core { (s.core core) with tiles := mput (s.core core).tiles t x }

/-- Cell 16i + j. -/
def Tile.cell (x : Tile) (n : Nat) : Nat := mgetD x.cells n 0

/-- Cells from a list of 256. -/
def cellsOf (xs : List Nat) : List (Nat × Nat) := ((upTo 256).zip xs).filter (fun x => x.2 != 0)

/-- Take an operation out of the core's list. -/
def State.dropOp (s : State) (core id : Nat) : State :=
  s.setCore core { (s.core core) with mq := (s.core core).mq.filter (fun o => o.id != id) }

/-! ## Issue -/

/-- Places of the matrix queue in use (10 R202). -/
def State.queued (s : State) : Nat := ((s.core s.here).mq.filter (fun o => !o.taken)).length

/-- A place in the queue and room in the M class, or a stall (09 R198, 10 R202). MZERO counts as the other tile operations do. DEDUCED, log entry 108. -/
def placed (s : State) (k : Out) : Out := if 8 ≤ s.queued ∨ 4 ≤ s.classM s.cur then stall s else k

/-- The recorded address of a poisoned tile raises X_ECC (10 R222). -/
def unpoisoned (t : Nat) (s : State) (k : Out) : Out :=
  match (s.tile s.here t).pois with
  | some a => trap s xEcc (toWord a)
  | none => k

/-- Queue an operation with what it samples (10 R202). -/
def State.queueOp (s : State) (t : Nat) (w : TileWork) : State :=
  let o : TileOp := { id := s.uid, cid := s.cur, tile := t, work := w, rm := s.cx.fld 0x000 0 2, sat := s.satOf, taken := false }
  { s.setCore s.here { (s.core s.here) with mq := (s.core s.here).mq ++ [o] } with uid := s.uid + 1 }

/-- The first uncorrectable error among some local bytes. -/
def State.eccTrap (s : State) (off n : Nat) : Option (Nat × Nat) := (s.badS s.here off n).map (fun a => (xEcc, a))

/-- MSKIP while skip4 runs (10 R208, R215): ADDR, LOADED, ZLEFT, KLEFT, the entries read and the groups kept. -/
structure Skip where
  addr : Nat
  loaded : Bool
  z : Nat
  n : Nat
  reads : List Nat
  keep : List Bool
  deriving DecidableEq, Repr

/-- One k-group from the stream (10 R215). -/
def State.skip1 (s : State) (k : Skip) : Skip :=
  let k := if k.loaded && k.z == 0 && k.n == 0 then { k with loaded := false } else k
  let k := if k.loaded then k
    else
      let e := s.rdS s.here k.addr 2
      { k with
        addr := (k.addr + 2) % 131072
        loaded := true
        z := e / 16
        n := if e % 16 = 0 then 16 else e % 16
        reads := k.reads ++ [k.addr] }
  let k := if 0 < k.z then { k with z := k.z - 1, keep := k.keep ++ [false] }
    else { k with n := k.n - 1, keep := k.keep ++ [true] }
  if k.z = 0 ∧ k.n = 0 then { k with loaded := false } else k

/-- Four k-groups (10 R215). -/
def State.skip4 (s : State) (r : Nat) : Skip :=
  (upTo 4).foldl (fun k _ => s.skip1 k) ⟨bitsOf r 0 17, bitAt r 17, bitsOf r 18 12, bitsOf r 30 5, [], []⟩

def Skip.reg (k : Skip) : Nat := k.addr + (if k.loaded then 131072 else 0) + k.z * 2 ^ 18 + k.n * 2 ^ 30

/-- The unfold descriptor's four doublewords (10 R207). -/
structure Unfold where
  d0 : Nat
  d1 : Nat
  d2 : Nat
  d3 : Nat
  deriving DecidableEq, Repr

def State.unfoldAt (s : State) (a : Nat) : Unfold :=
  ⟨s.rdS s.here a 8, s.rdS s.here (a + 8) 8, s.rdS s.here (a + 16) 8, s.rdS s.here (a + 24) 8⟩

/-- C, OW, KH, KW, SY, SX, DY and DX are not 0, and the must-be-zero bits are (10 R207). -/
def Unfold.ok (d : Unfold) : Bool :=
  decide (bitsOf d.d0 51 13 = 0 ∧ bitsOf d.d2 48 16 = 0 ∧ bitsOf d.d3 32 32 = 0 ∧ bitsOf d.d1 32 16 ≠ 0 ∧
    bitsOf d.d1 48 16 ≠ 0 ∧ bitsOf d.d2 0 8 ≠ 0 ∧ bitsOf d.d2 8 8 ≠ 0 ∧ bitsOf d.d2 16 4 ≠ 0 ∧ bitsOf d.d2 20 4 ≠ 0 ∧
    bitsOf d.d2 24 4 ≠ 0 ∧ bitsOf d.d2 28 4 ≠ 0)

/-- Address of element A[i][kk], none where it is +0 (10 R214). -/
def Unfold.addr (d : Unfold) (e kcur i kk : Nat) : Option Nat :=
  let c := bitsOf d.d1 32 16
  let ow := bitsOf d.d1 48 16
  let kw := bitsOf d.d2 8 8
  let q := bitsOf d.d3 0 32 + i
  let k := kcur + kk
  let tap := k / c
  let iy : Int := ((q / ow * bitsOf d.d2 16 4 + tap / kw * bitsOf d.d2 24 4 : Nat) : Int) - (bitsOf d.d2 32 8 : Nat)
  let ix : Int := ((q % ow * bitsOf d.d2 20 4 + tap % kw * bitsOf d.d2 28 4 : Nat) : Int) - (bitsOf d.d2 40 8 : Nat)
  if bitsOf d.d2 0 8 * kw ≤ tap ∨ iy < 0 ∨ (bitsOf d.d1 0 16 : Int) ≤ iy ∨ ix < 0 ∨ (bitsOf d.d1 16 16 : Int) ≤ ix then none
  else some (bitsOf d.d0 0 17 + iy.toNat * bitsOf d.d0 34 17 + ix.toNat * bitsOf d.d0 17 17 + k % c * e)

/-- The trap of the unfolded reads, in ascending kk and then ascending row (10 R214, R216). -/
def State.unfoldBad (s : State) (d : Unfold) (e kcur k : Nat) (keep : List Bool) : Option (Nat × Nat) :=
  ((upTo k).flatMap (fun kk => if keep.getD (kk / (k / 4)) false
    then (upTo 16).filterMap (fun i =>
      match d.addr e kcur i kk with
      | none => none
      | some a =>
        if a % e ≠ 0 then some (xMisalign, a)
        else if 0x1FFFF < a then some (xAccess, a)
        else s.eccTrap a e)
    else [])).head?

/-- The unfolded A, row by row; elements of skipped groups are not read (10 R214). -/
def State.unfolded (s : State) (d : Unfold) (e kcur k : Nat) (keep : List Bool) : List (List Nat) :=
  (upTo 16).map (fun i => (upTo k).map (fun kk =>
    if keep.getD (kk / (k / 4)) false then
      match d.addr e kcur i kk with
      | none => 0
      | some a => s.rdS s.here a e
    else 0))

/-- The checks 3 to 6 of R216 in their order; the second half of a pair (trap) is the cause and TVAL. -/
def State.mmaBad (s : State) (q4 skips unf : Bool) (i : Instr) (af : Nat) (sk : Skip) (d : Unfold) : Option (Nat × Nat) :=
  let c := s.cx
  let at_ (n : Nat) : Nat := c.fld n 0 17
  let scale := if ¬ q4 then none
    else if at_ 0x031 % 16 ≠ 0 then some (xMisalign, at_ 0x031)
    else if at_ 0x032 % 16 ≠ 0 then some (xMisalign, at_ 0x032)
    else (s.eccTrap (at_ 0x031) 16).or (s.eccTrap (at_ 0x032) 16)
  let skip := if ¬ skips then none
    else if at_ 0x034 % 2 ≠ 0 then some (xMisalign, at_ 0x034)
    else (sk.reads.filterMap (fun a => s.eccTrap a 2)).head?
  let desc := if ¬ unf then none
    else if at_ 0x033 % 32 ≠ 0 then some (xMisalign, at_ 0x033)
    else if (s.eccTrap (at_ 0x033) 32).isSome then s.eccTrap (at_ 0x033) 32
    else if ¬ d.ok then some (xOperand, (s.asWritten (encWord i)).toNat)
    else s.unfoldBad d (mWidth af / 8) (c.fld 0x033 32 32) (128 / mWidth af) sk.keep
  (scale.or skip).or desc

/-- Local bytes that the issue reads before the elements: the scales, the entries that skip4 reads, which wrap at the end of the window (10 R215), and the descriptor. -/
def State.mmaReads (s : State) (q4 unf : Bool) (sk : Skip) : List (Nat × Nat) :=
  let c := s.cx
  (if q4 then [(c.fld 0x031 0 17, 16), (c.fld 0x032 0 17, 16)] else []) ++
    sk.reads.map (fun a => (a, 2)) ++ (if unf then [(c.fld 0x033 0 17, 32)] else [])

/-- Local bytes of the unfolded elements. -/
def State.unfoldReads (s : State) (unf : Bool) (af : Nat) (d : Unfold) (keep : List Bool) : List (Nat × Nat) :=
  let k := 128 / mWidth af
  if ¬ unf then []
  else (upTo 16).flatMap (fun i => (upTo k).filterMap (fun kk =>
    if keep.getD (kk / (k / 4)) false then (d.addr (mWidth af / 8) (s.cx.fld 0x033 32 32) i kk).map (fun a => (a, mWidth af / 8))
    else none))

/-- ADV moves a scale address on (10 R206). -/
def Ctx.advScale (c : Ctx) (n : Nat) : Ctx :=
  if c.fld n 63 1 = 1 then c.setFld n 0 17 (c.fld n 0 17 + 16) else c

/-- The MMA family: minor bit 0 unfolds, bit 1 takes the skip stream (10 R212, R213); what it reads from memory at issue is watched (28 R400). DEDUCED, log entry 57. -/
def mmaForm (i : Instr) (minor : Nat) (vd va vb : BitVec 5) (s : State) : Out :=
  checked i s <| unpoisoned vd.toNat s <| placed s <|
    let c := s.cx
    let af := c.fld 0x030 0 4
    let bf := c.fld 0x030 4 4
    let unf := bitAt minor 0
    let skips := bitAt minor 1
    let q4 := af == 5
    if ¬ mfmtOk af bf ∨ (q4 ∧ unf) then operandTrap s i
    else
      let sk := if skips then s.skip4 (c.get 0x034).toNat else ⟨0, false, 0, 0, [], [true, true, true, true]⟩
      let first := s.mmaReads q4 unf sk
      if s.localHeld (q4 || skips || unf) false first then stall s else
      let d := s.unfoldAt (c.fld 0x033 0 17)
      match s.mmaBad q4 skips unf i af sk d with
      | some (k, t) => trap s k (toWord t)
      | none =>
        let reads := first ++ s.unfoldReads unf af d sk.keep
        if s.localHeld false false (s.unfoldReads unf af d sk.keep) then stall s
        else watched true false reads s fun s =>
          let c := s.cx
          let bytes (n : Nat) : List Nat := if q4 then (upTo 16).map (fun j => s.rdS s.here (c.fld n 0 17 + j) 1) else []
          let k := 128 / mWidth af
          let a := if unf then s.unfolded d (mWidth af / 8) (c.fld 0x033 32 32) k sk.keep else []
          let w := TileWork.mma af bf a (if unf then none else some (c.vOff va.toNat)) (c.vOff vb.toNat) sk.keep
            (bytes 0x031) (bytes 0x032)
          let c := if q4 then (c.advScale 0x031).advScale 0x032 else c
          let c := if unf then c.setFld 0x033 32 32 (c.fld 0x033 32 32 + k) else c
          let c := if skips then c.set 0x034 (toWord sk.reg) else c
          let soft := (reads.map (fun (r : Nat × Nat) => s.softS s.here r.1 r.2)).sum
          done (((s.setCx c).queueOp vd.toNat w).addCerrOn s.here soft)

/-- MMA (10 R212, R213). -/
def execMma (a b : BitVec 4) (vd va vb : BitVec 5) (k : BitVec 3) (md : BitVec 8) (s : State) : Out :=
  mmaForm (.mma a b vd va vb k md) 0 vd va vb s

/-- MMAU (10 R212 to R214). -/
def execMmau (a b : BitVec 4) (vd va vb : BitVec 5) (k : BitVec 3) (md : BitVec 8) (s : State) : Out :=
  mmaForm (.mmau a b vd va vb k md) 1 vd va vb s

/-- MMAS (10 R212, R213, R215). -/
def execMmas (a b : BitVec 4) (vd va vb : BitVec 5) (k : BitVec 3) (md : BitVec 8) (s : State) : Out :=
  mmaForm (.mmas a b vd va vb k md) 2 vd va vb s

/-- MMAUS (10 R212 to R215). -/
def execMmaus (a b : BitVec 4) (vd va vb : BitVec 5) (k : BitVec 3) (md : BitVec 8) (s : State) : Out :=
  mmaForm (.mmaus a b vd va vb k md) 3 vd va vb s

/-- A tile named by MZERO or MLDA is no longer poisoned (10 R222). -/
def State.unpoison (s : State) (t : Nat) : State := s.setTile s.here t { (s.tile s.here t) with pois := none }

/-- MZERO (10 R217, R218). -/
def execMzero (a b : BitVec 4) (vd va vb : BitVec 5) (k : BitVec 3) (md : BitVec 8) (s : State) : Out :=
  checked (.mzero a b vd va vb k md) s <| placed s <| done ((s.unpoison vd.toNat).queueOp vd.toNat .zero)

/-- The alignment and range of a local address (10 R218). -/
def tileAddr (align n addr : Nat) : Option (Nat × Nat) :=
  if addr % align ≠ 0 then some (xMisalign, addr) else if 131072 < addr + n then some (xAccess, addr) else none

/-- A memory cell widened exactly to the tile's type (10 R218). -/
def widen (d x : Nat) : Nat :=
  match d with
  | 0 => wrapInt 32 (sint 8 x)
  | 7 => roundF f32 .rne (decodeF bf16 x)
  | 8 => roundF f32 .rne (decodeF f16 x)
  | _ => x

/-- MLDA (10 R217, R218, R221). -/
def execMlda (a b : BitVec 4) (vd va vb : BitVec 5) (k : BitVec 3) (md : BitVec 8) (s : State) : Out :=
  checked (.mlda a b vd va vb k md) s <| reading [a] s fun s => placed s <|
    let addr := (s.w a).toNat
    let e := tySize (md.toNat % 16)
    match tileAddr 64 (256 * e) addr with
    | some (c, t) => trap s c (toWord t)
    | none =>
      match s.eccTrap addr (256 * e) with
      | some (c, t) => trap s c (toWord t)
      | none =>
        if s.localHeld true false [(addr, 256 * e)] then stall s
        else watched true false [(addr, 256 * e)] s fun s =>
          let cells := (upTo 256).map (fun n => widen (md.toNat % 16) (s.rdS s.here (addr + n * e) e))
          done (((s.unpoison vd.toNat).queueOp vd.toNat (.load cells)).addCerrOn s.here (s.softS s.here addr (256 * e)))

/-- MSTA and MSTM (10 R217, R218, R221). All checks of wA come before those of wB. DESIGN CHOICE, log entry 124. -/
def tileStore (i : Instr) (a : BitVec 4) (b : Option (BitVec 4)) (vd : BitVec 5) (md : BitVec 8) (s : State) : Out :=
  checked i s <| reading (a :: b.toList) s fun s => unpoisoned vd.toNat s <| placed s <|
    let addr := (s.w a).toNat
    let n := 256 * tySize (md.toNat / 16)
    let m := b.map (fun r => (s.w r).toNat)
    let rs := (addr, n) :: (m.toList.map (fun x => (x, 32)))
    match ((tileAddr 64 n addr).or (m.bind (tileAddr 32 32))).or
        ((rs.filterMap (fun r => inArea s.mem.qbase r.1 r.2)).head?.map (fun t => (xAccess, t))) with
    | some (c, t) => trap s c (toWord t)
    | none =>
      if s.localHeld false true rs then stall s
      else watched false true rs s fun s =>
        let s := s.queueOp vd.toNat (.store (md.toNat % 16) (md.toNat / 16) addr m)
        done (if rs.all (fun r => decide (s.cx.wp - 64 ≤ r.1 ∧ r.1 + r.2 ≤ s.cx.wp + s.cx.foot)) then s
          else s.progress s.cx.group)

/-- MSTA (10 R218). -/
def execMsta (a b : BitVec 4) (vd va vb : BitVec 5) (k : BitVec 3) (md : BitVec 8) (s : State) : Out :=
  tileStore (.msta a b vd va vb k md) a none vd md s

/-- MSTM (10 R218). -/
def execMstm (a b : BitVec 4) (vd va vb : BitVec 5) (k : BitVec 3) (md : BitVec 8) (s : State) : Out :=
  tileStore (.mstm a b vd va vb k md) a (some b) vd md s

/-- MDRAIN (10 R219, R222); while it is stalled, an X_SAT_LIMIT of a tile operation that it has waited for waits for it (10 R223). With ALL the poisoned tile of the lowest number gives TVAL. DESIGN CHOICE, log entry 140. -/
def execMdrain (a b : BitVec 4) (vd va vb : BitVec 5) (k : BitVec 3) (md : BitVec 8) (s : State) : Out :=
  checked (.mdrain a b vd va vb k md) s <|
    let own := s.cx.fld 0x038 0 4
    let ts := if md = 0 then [vd.toNat] else (upTo 4).filter (fun t => bitAt own t)
    match (ts.filterMap (fun t => (s.tile s.here t).pois)).head? with
    | some x => trap s xEcc (toWord x)
    | none =>
      if (s.core s.here).mq.any (fun o => o.cid == s.cur && (md == 1 || o.tile == vd.toNat)) then
        stall (s.setCx (s.cx.waitTiles
          (((s.core s.here).mq.filter (fun o => o.cid == s.cur && (md == 1 || o.tile == vd.toNat))).map (fun o => o.id))))
      else done s

/-! ## The unit (10 R202, R211, R213, R218, R222, R223) -/

/-- Poison a tile: its later queued operations are discarded (10 R222). -/
def State.poison (s : State) (core t addr : Nat) : State :=
  let s := s.setTile core t { (s.tile core t) with pois := some addr }
  s.setCore core { (s.core core) with mq := (s.core core).mq.filter (fun o => o.taken || o.tile != t) }

/-- The cells after an operation of the MMA family. -/
def State.mmaRun (s : State) (core : Nat) (o : TileOp) (af bf : Nat) (a : List (List Nat)) (ra : Option Nat) (rb : Nat)
    (keep : List Bool) (sa sb : List Nat) : List (Nat × Nat) :=
  let x := s.tile core o.tile
  let row (i : Nat) : List Nat :=
    match ra with
    | some off => rowElems af (s.rdS core (off + 16 * i) 16)
    | none => a.getD i []
  let rows := (upTo 16).map row
  let cols := (upTo 16).map (fun j => rowElems bf (s.rdS core (rb + 16 * j) 16))
  cellsOf ((upTo 256).map (fun n =>
    mmaCell (rmOf o.rm) core af bf (x.cell n) (sa.getD (n / 16) 0) (sb.getD (n % 16) 0) keep (rows.getD (n / 16) [])
      (cols.getD (n % 16) [])))

/-- A cell as MSTM replaces it, and its mask bit (10 R218). -/
def reluCell (t x : Nat) : Nat × Bool :=
  if t = 6 then
    match decodeF f32 x with
    | .nan _ => (x, true)
    | v => if ltVal false (.fin false 0 0) v then (x, true) else (0, false)
  else if 0 < sint 32 x then (x, true) else (0, false)

/-- A cell as it is stored, and whether it saturates (10 R218). -/
def storeCell (rm : Rm) (t d x : Nat) : Nat × Bool :=
  if t = d then (x, false)
  else
    match tyOf t, tyOf d with
    | some a, some b => convTy b rm (tyVal a x)
    | _, _ => (x, false)

/-- Cut bytes into doublewords from an address. -/
def dwords (addr : Nat) : Nat → List Byte → List (Nat × List Byte)
  | 0, _ => []
  | n + 1, bs => if bs.isEmpty then [] else (addr, bs.take 8) :: dwords (addr + 8) n (bs.drop 8)

/-- What MSTA or MSTM stores: its ranges, the doublewords of the cells and for MSTM of the mask, and the saturations (10 R218). -/
def storeWork (rm : Rm) (t d addr : Nat) (mask : Option Nat) (x : Tile) : TileWork :=
  let rs := (upTo 256).map (fun n => if mask.isSome then reluCell t (x.cell n) else (x.cell n, false))
  let cs := rs.map (fun r => storeCell rm t d r.1)
  let bits (i : Nat) : Nat := ((upTo 8).map (fun b => if (rs.getD (8 * i + b) (0, false)).2 then 2 ^ b else 0)).sum
  let cells := cs.flatMap (fun c => leBytes (tySize d) c.1)
  let masks := mask.toList.map (fun m => (m, (upTo 32).map (fun i => BitVec.ofNat 8 (bits i))))
  .put ((addr, cells.length) :: masks.map (fun m => (m.1, 32)))
    (dwords addr 256 cells ++ masks.flatMap (fun m => dwords m.1 4 m.2)) (cs.filter (fun c => c.2)).length

/-- Perform some of the doublewords a tile store has left, which ones the spec leaves open; the rest follow when the operation completes (10 R220). Free value, log entry 58. -/
def State.putSome (s : State) (core : Nat) (rs : List (Nat × Nat)) (left : List (Nat × List Byte)) (n : Nat) : State × TileWork :=
  let now (w : Nat × List Byte) : Bool := (Config.freeWord s.uid w.1).getLsbD 0
  ({ (left.filter now).foldl (fun s w => s.storeS core w.1 w.2) s with uid := s.uid + 1 },
    .put rs (left.filter (fun w => !now w)) n)

/-- The operation the unit would take next on a core, where it may (10 R202). -/
def State.nextOp (s : State) (core : Nat) : Option TileOp :=
  let mq := (s.core core).mq
  match pick (fun o => !o.taken) mq with
  | none => none
  | some o =>
    match o.work with
    | .mma _ _ _ _ _ _ _ _ => some o
    | _ => if mq.any (fun p => p.taken && p.tile == o.tile) then none else some o

/-- The parts of the source groups at some offsets that the kept k-groups hold: four bytes of each row or column (10 R210, R213). -/
def keptParts (keep : List Bool) (groups : List Nat) : List (Nat × Nat) :=
  groups.flatMap (fun g => (upTo 16).flatMap (fun i => (upTo 4).filterMap (fun n =>
    if keep.getD n false then some (g + 16 * i + 4 * n, 4) else none)))

/-- TILE_OP_TAKEN: the unit takes the next queued operation and runs it; the source registers' locks clear with it, and an uncorrectable error that it meets has its entry in the black box (10 R202, R211, R213, R222, 28 R410); of several it records the first, A before B, k-group by k-group. DESIGN CHOICE, log entry 139. -/
def execTileOpTaken (core : Nat) (s : State) : Out :=
  match s.nextOp core with
  | none => .next s
  | some o =>
    let put (s : State) (w : TileWork) : State :=
      s.setCore core { (s.core core) with mq := (s.core core).mq.map (fun p => if p.id = o.id then { p with taken := true, work := w } else p) }
    let x := s.tile core o.tile
    match o.work with
    | .zero => .next (put (s.setTile core o.tile { x with cells := [] }) .zero)
    | .load cells => .next (put (s.setTile core o.tile { x with cells := cellsOf cells }) .zero)
    | .store t d addr mask =>
      (match storeWork (rmOf o.rm) t d addr mask x with
       | .put rs left n =>
         let (s, w) := s.putSome core rs left n
         .next (put s w)
       | w => .next (put s w))
    | .put rs left n => .next (put s (.put rs left n))
    | .mma af bf a ra rb keep sa sb =>
      let parts := keptParts keep (ra.toList ++ [rb])
      match (parts.filterMap (fun p => s.badS core p.1 p.2)).head? with
      | some addr => .next (((s.dropOp core o.id).poison core o.tile addr).bbox 6 0 (s.partOf (s.ctx o.cid).group) core addr 0)
      | none =>
        let soft := ((parts.map (fun p => p.1 / 8)).eraseDups.map (fun w => s.softS core (8 * w) 8)).sum
        let s := s.addCerrOn core soft
        .next (put (s.setTile core o.tile { x with cells := s.mmaRun core o af bf a ra rb keep sa sb }) .zero)

/-- TILE_OP_COMPLETE: the memory of MSTA and MSTM is performed, saturations are counted, and the operation leaves the M class (10 R220, R223, 28 R397). DEDUCED, log entry 58. -/
def execTileOpComplete (core id : Nat) (s : State) : Out :=
  match pick (fun o => o.id == id && o.taken) (s.core core).mq with
  | none => .next s
  | some o =>
    let s := (s.dropOp core id).updCtx o.cid (fun c => c.countLater 7 1)
    match o.work with
    | .put _ left n => .next ((left.foldl (fun s w => s.storeS core w.1 w.2) s).countSatOf o.cid o.sat n (some o.id))
    | _ => .next s

end Sys2Proof.Machine
end

