-- ==== Sys2Proof/Machine/Row.lean ====
section
/-! DEFINITION. Synapse rows, broadcasts and the sweep (12): majors 0x3C and 0x3D, and the steps of the learning group. -/

namespace Sys2Proof.Machine

/-! ## Rows (12 R238, R239) -/

/-- A row header as it is read: address, STAMP, ET, APPLIED, N, POST, FROZEN, LAG. -/
structure Row where
  addr : Nat
  stamp : Nat
  et : Int
  applied : Nat
  n : Nat
  post : Nat
  frozen : Bool
  lag : Bool
  deriving DecidableEq, Repr

def State.rowAt (s : State) (core a : Nat) : Row :=
  let x := s.rdS core a 8
  let y := s.rdS core (a + 8) 8
  ⟨a, bitsOf x 32 32, sint 8 (bitsOf x 24 8), bitsOf x 16 8, bitsOf x 0 16, bitsOf y 32 32, bitAt y 0, bitAt y 1⟩

/-- Address of synapse j. -/
def Row.syn (r : Row) (j : Nat) : Nat := r.addr + 16 + 8 * j

/-- Bytes of the row. -/
def Row.size (r : Row) : Nat := 16 + 8 * r.n

/-- Broadcasts missing from the row: (SEQ - APPLIED) mod 256 (12 R250). -/
def Row.missing (r : Row) (c : Ctx) : Nat := (c.fld 0x044 0 8 + 256 - r.applied) % 256

/-- Distance from a stamp to a tick (12 R245). -/
def ticks (a b : Nat) : Nat := (b + 2 ^ 32 - a % 2 ^ 32) % 2 ^ 32

/-- The held broadcasts after the row's APPLIED, in sequence order (12 R250). -/
def Ctx.lastHeld (c : Ctx) (r : Row) : List Bcast :=
  c.held.filter (fun b =>
    let d := (b.num + 256 - r.applied) % 256
    decide (1 ≤ d ∧ d ≤ r.missing c))

/-! ## One synapse (12 R250, R253, 02 R43 to R45) -/

/-- Bring a synapse word up to date: the trace and weight after some broadcasts, and the last tick used. -/
def synCatch (c : Ctx) (core j : Nat) (frozen : Bool) (et : Int) (prev x : Nat) (bs : List Bcast) : Nat × Nat × Nat :=
  let cls := bitsOf x 28 4
  bs.foldl (fun (p : Nat × Nat × Nat) b =>
    let t := fade (sint 24 p.1) (c.fld (0x050 + cls) 0 16) (ticks p.2.2 b.atick)
    let sc := roundF f32 .rne (mulVals (mkNan core j) (decodeF f32 (c.fld (0x060 + cls) 0 32)) (decodeF f32 b.r))
    let e := FVal.fin (decide (t < 0)) t.natAbs (et - 23)
    let w := if frozen then p.2.1
      else roundF f32 .rne (fmaVals .rne (mkNan core j) (decodeF f32 sc) e (decodeF f32 p.2.1))
    (wrapInt 24 t, w, b.atick)) (bitsOf x 0 24, bitsOf x 32 32, prev)

/-- A synapse word with a new trace and weight; the class and the reserved bits stay (12 R238). -/
def synWord (x t w : Nat) : Nat := w * 2 ^ 32 + bitsOf x 24 8 * 2 ^ 24 + t

/-- Catch a synapse word up and fade it to a tick (12 R253, R258). -/
def synFade (c : Ctx) (core j : Nat) (r : Row) (prev x : Nat) (bs : List Bcast) (tick : Nat) : Nat :=
  let p := synCatch c core j r.frozen r.et prev x bs
  synWord x (wrapInt 24 (fade (sint 24 p.1) (c.fld (0x050 + bitsOf x 28 4) 0 16) (ticks p.2.2 tick))) p.2.1

/-- The trace after an increment, and its saturations (02 R45). -/
def accumulate (core j : Nat) (et : Int) (x p : Nat) (t : Int) : Int × Nat :=
  match mulVals (mkNan core j) (decodeF f32 x) (decodeF f32 p) with
  | .nan _ => (t, 1)
  | .inf sg => (if sg then -8388608 else 8388607, 1)
  | .fin sg m e =>
    let r := sat24 (t + roundInt .rne sg m (e + 23 - et))
    (r.1, if r.2 then 1 else 0)

/-! ## Checks (12 R252) -/

/-- Header with a new stamp and the current sequence number. -/
def State.stampRow (s : State) (core : Nat) (c : Ctx) (r : Row) (stamp : Nat) : State :=
  (s.wrS core (r.addr + 4) 4 stamp).wrS core (r.addr + 2) 1 (c.fld 0x044 0 8)

/-- Item 3 of R252 but for the post entries: the tick `now` is TCLK, or none in the sweep. -/
def rangeBad (c : Ctx) (r : Row) (now : Option Nat) : Bool :=
  let far (t : Nat) : Bool := decide (2 ^ 31 < ticks r.stamp t)
  decide (r.et < -64 ∨ 63 < r.et ∨ r.n = 0) || r.lag || decide (c.fld 0x044 16 3 < r.missing c) ||
    (match now with
     | some t => far t
     | none => false) || (c.lastHeld r).any (fun b => far b.atick)

/-- The checks of R252 in order: FSTEP has the post entries too, RWGT an index. -/
def State.rowBad (s : State) (a : Nat) (fstep : Bool) (idx : Nat) : Option (Nat × Nat) :=
  let c := s.cx
  let r := s.rowAt s.here a
  let pb := c.fld 0x041 0 17
  let p0 := pb + 8 * r.post
  let area (off n : Nat) : Option (Nat × Nat) := (inArea s.mem.qbase off n).map (fun t => (xAccess, t))
  if a % 16 ≠ 0 then some (xMisalign, a)
  else if fstep ∧ pb % 8 ≠ 0 then some (xMisalign, pb)
  else if 0x20000 ≤ a then some (xAccess, a)
  else if 0x20000 < a + r.size then some (xAccess, 0x20000)
  else if fstep ∧ 0 < r.n ∧ 0x20000 < p0 + 8 * r.n then some (xAccess, max p0 0x20000)
  else if (area a r.size).isSome then area a r.size
  else if fstep ∧ 0 < r.n ∧ (area p0 (8 * r.n)).isSome then area p0 (8 * r.n)
  else if rangeBad c r (some (c.fld 0x040 0 32)) ∨ (fstep ∧ c.fld 0x041 32 32 < r.post + r.n) ∨ r.n ≤ idx then
    some (xTraceRange, a)
  else s.eccTrap a 16

/-! ## ROW (12 R258) -/

/-- FSTEP's work from synapse j0: the state, the saturations counted, and the synapse with the failing address where one stopped it (12 R253). DEDUCED, log entry 59. DESIGN CHOICE, log entry 142. -/
def State.fstepFrom (s : State) (core : Nat) (c : Ctx) (r : Row) (x old tick j0 : Nat) (bs : List Bcast) :
    State × Nat × Option (Nat × Nat) :=
  ((upTo (r.n - j0)).map (fun i => j0 + i)).foldl (fun (p : State × Nat × Option (Nat × Nat)) j =>
    match p.2.2 with
    | some _ => p
    | none =>
      let s := p.1
      let y := (c.fld 0x041 0 17 + 8 * (r.post + j)) % 131072
      let a := r.syn j % 131072
      match (s.badS core a 8).or (s.badS core y 8) with
      | some bad => (s, p.2.1, some (j, bad))
      | none =>
        let w := synFade c core j r old (s.rdS core a 8) bs tick
        let acc := fmaVals .rne (mkNan core j) (decodeF f32 (bitsOf w 32 32)) (decodeF f32 x) (decodeF f32 (s.rdS core y 4))
        let t := accumulate core j r.et x (s.rdS core (y + 4) 4) (sint 24 (bitsOf w 0 24))
        ((s.wrS core y 4 (roundF f32 .rne acc)).wrS core a 8 (synWord w (wrapInt 24 t.1) (bitsOf w 32 32)),
          p.2.1 + t.2, none)) (s, 0, none)

/-- Corrected errors in the synapse words and post entries from `j0` to below `j1` (11 R229). -/
def State.rowSoft (s : State) (core : Nat) (c : Ctx) (r : Row) (post : Bool) (j0 j1 : Nat) : Nat :=
  ((upTo (j1 - j0)).map (fun i =>
    s.softS core (r.syn (j0 + i) % 131072) 8 +
      (if post then s.softS core ((c.fld 0x041 0 17 + 8 * (r.post + j0 + i)) % 131072) 8 else 0))).sum

/-- The held broadcasts that an FSTEP awaiting resumption counts in CU (12 R253). -/
def Ctx.cuHeld (c : Ctx) : List Bcast := c.held.filter (fun b => b.cu)

/-- The FSTEP loop and its end (12 R253): an uncorrectable error leaves FPROG, FPROGV and the saturations so far for the resumption, which counts them when FSTEP completes (11 R227), under the SATID that it then has. DEDUCED, log entry 59. DESIGN CHOICE, log entry 128. -/
def fstepRun (r : Row) (x old tick j0 : Nat) (bs : List Bcast) (s : State) : Out :=
  let c0 := s.cx
  let (t, n, stop) := s.fstepFrom s.here c0 r x old tick j0 bs
  let t := t.addCerrOn t.here (s.rowSoft s.here c0 r true j0 (match stop with
    | some (j, _) => j
    | none => r.n))
  let n := n + c0.fsat
  match stop with
  | some (j, bad) =>
    let c := t.cx.set 0x046 (toWord (old * 2 ^ 32 + j * 65536 + r.addr / 16 * 8))
    let c := c.set 0x047 (toWord (tick * 2 ^ 32 + bs.length * 16 + 1))
    trap (t.setCx { c with fsat := n, held := c.held.map (fun b => { b with cu := bs.contains b }) }) xEcc (toWord bad)
  | none =>
    let t := t.countSat t.cur t.satOf n
    done (t.setCx { t.cx.setFld 0x047 0 1 0 with fsat := 0 })

/-- The row's and the post entries' bytes. -/
def Row.bytes (r : Row) (post : Option Nat) : List (Nat × Nat) :=
  (r.addr, r.size) ::
    (match post with
     | some pb => [(pb + 8 * r.post, 8 * r.n)]
     | none => [])

/-- What a resumed FSTEP still reads and writes: the synapses and post entries from `j` on (12 R253). -/
def Row.rest (r : Row) (pb j : Nat) : List (Nat × Nat) :=
  if r.n ≤ j then [] else [(r.syn j, 8 * (r.n - j)), (pb + 8 * (r.post + j), 8 * (r.n - j))]

/-- Whether the read of a row's header waits for the strand's earlier accesses (12 R255). -/
def State.headHeld (s : State) (row : Nat) : Bool :=
  decide (row % 16 = 0 ∧ row + 16 ≤ 0x20000) && s.localHeld true false [(row, 16)]

/-- FSTEP (12 R252, R253, R255); its bytes are watched, those of a resumption too (28 R400). -/
def execFstep (a b c : BitVec 4) (imm : BitVec 6) (s : State) : Out :=
  reading [a, b] s fun s =>
    let row := (s.w b).toNat
    let x := bitsOf (s.w a).toNat 0 32
    let v := s.cx
    if v.fld 0x047 0 1 = 1 then
      if v.fld 0x046 3 13 ≠ bitsOf row 4 13 then operandTrap s (.fstep a b c imm)
      else if s.headHeld (v.fld 0x046 3 13 * 16) then stall s
      else
        let r := s.rowAt s.here (v.fld 0x046 3 13 * 16)
        let rest := r.rest (v.fld 0x041 0 17) (v.fld 0x046 16 16)
        match (rest.filterMap (fun b => inArea s.mem.qbase b.1 b.2)).head? with
        | some t => trap s xAccess (toWord t)
        | none =>
        if s.localHeld true true (r.bytes (some (v.fld 0x041 0 17))) then stall s
        else watched true true rest s fun s =>
          fstepRun r x (v.fld 0x046 32 32) (v.fld 0x047 32 32) (v.fld 0x046 16 16) v.cuHeld s
    else if s.headHeld row then stall s
    else
      match s.rowBad row true 0 with
      | some (k, t) => trap s k (toWord t)
      | none =>
        let r := s.rowAt s.here row
        let bs := r.bytes (some (v.fld 0x041 0 17))
        if s.localHeld true true bs then stall s
        else watched true true bs s fun s =>
          let tick := v.fld 0x040 0 32
          let s := (s.stampRow s.here v r tick).addCerrOn s.here (s.softS s.here row 16)
          fstepRun r x r.stamp tick 0 (v.lastHeld r) (s.setCx { s.cx with fsat := 0 })

/-- TICK (12 R258). -/
def execTick (a _b _c : BitVec 4) (imm : BitVec 6) (s : State) : Out :=
  let t := (s.cx.fld 0x040 0 32 + imm.toNat) % 2 ^ 32
  done ((s.setCx (s.cx.set 0x040 (toWord t))).setW a (toWord t))

/-- The first synapse word with an uncorrectable error. -/
def State.synBad (s : State) (core : Nat) (r : Row) : Option Nat := s.badS core (r.addr + 16) (8 * r.n)

/-- Catch up a whole row and fade it to TCLK (12 R250, R258). -/
def State.fadeRow (s : State) (core : Nat) (c : Ctx) (r : Row) : State :=
  let bs := c.lastHeld r
  let tick := c.fld 0x040 0 32
  ((upTo r.n).foldl (fun s j => s.wrS core (r.syn j) 8 (synFade c core j r r.stamp (s.rdS core (r.syn j) 8) bs tick)) s).stampRow
    core c r tick

/-- RFADE and RWGT (12 R252, R258). -/
def rowFade (row idx : Nat) (fin : Row → State → State) (s : State) : Out :=
  if s.headHeld row then stall s
  else
    match s.rowBad row false idx with
    | some (k, t) => trap s k (toWord t)
    | none =>
      let r := s.rowAt s.here row
      if s.localHeld true true (r.bytes none) then stall s
      else
        match s.synBad s.here r with
        | some bad => trap s xEcc (toWord bad)
        | none =>
          let soft := s.softS s.here row 16 + s.rowSoft s.here s.cx r false 0 r.n
          watched true true (r.bytes none) s fun s => done ((fin r (s.fadeRow s.here s.cx r)).addCerrOn s.here soft)

/-- RFADE (12 R258). -/
def execRfade (_a b _c : BitVec 4) (_imm : BitVec 6) (s : State) : Out :=
  reading [b] s fun s => rowFade (s.w b).toNat 0 (fun _ s => s) s

/-- RINIT (12 R259). -/
def execRinit (a b _c : BitVec 4) (_imm : BitVec 6) (s : State) : Out :=
  reading [a, b] s fun s =>
    let row := (s.w b).toNat
    let v := (s.w a).toNat
    let n := bitsOf v 0 16
    let et := sint 8 (bitsOf v 16 8)
    let size := 16 + 8 * n
    let c := s.cx
    if row % 16 ≠ 0 then trap s xMisalign (toWord row)
    else if 0x20000 < row + size then trap s xAccess 0x20000
    else
      match inArea s.mem.qbase row size with
      | some t => trap s xAccess (toWord t)
      | none =>
        if n = 0 ∨ et < -64 ∨ 63 < et then trap s xTraceRange (toWord row)
        else
          match s.badS s.here (row + 16) (8 * n) with
          | some bad => trap s xEcc (toWord bad)
          | none =>
            if s.localHeld true true [(row, size)] then stall s
            else watched true true [(row, size)] s fun s =>
              let s := s.wrS s.here row 8
                (c.fld 0x040 0 32 * 2 ^ 32 + bitsOf v 16 8 * 2 ^ 24 + c.fld 0x044 0 8 * 65536 + n)
              let s := s.wrS s.here (row + 8) 8 (bitsOf v 32 32 * 2 ^ 32)
              let s := (upTo n).foldl (fun s j => s.wrS s.here (row + 16 + 8 * j) 3 0) s
              done (if c.fld 0x047 0 1 = 1 ∧ c.fld 0x046 3 13 = row / 16 then s.setCx (s.cx.setFld 0x047 0 1 0) else s)

/-- RWGT (12 R258). -/
def execRwgt (a b c : BitVec 4) (_imm : BitVec 6) (s : State) : Out :=
  reading [b, c] s fun s =>
    let i := (s.w c).toNat
    rowFade (s.w b).toNat i (fun r s => s.setW a (toWord (s.rdS s.here (r.syn i) 8))) s

/-! ## LEARN (12 R246, R248, R260) -/

/-- The learning group that LGRP names, none if the handle is stale. -/
def State.lgroup (s : State) (h : Nat) : Option LearnGroup :=
  match mget s.learn (h % 4096) with
  | some g => if g.handle = h then some g else none
  | none => none

/-- X_OPERAND where LGRP is 0 (12 R260). -/
def learning (i : Instr) (s : State) (k : Out) : Out := if s.cx.get 0x043 = 0 then operandTrap s i else k

/-- BCAST (12 R246, R260). A handle that names no learning group here, for which the host wrote a multicast tree, is that of a root at another device. DESIGN CHOICE, log entry 10. -/
def execBcast (a b c : BitVec 4) (imm : BitVec 6) (s : State) : Out :=
  learning (.bcast a b c imm) s <| reading [b] s fun s =>
    let lg := (s.cx.get 0x043).toNat
    if s.flights.any (fun f => match f.cargo with
        | .bcastReq _ x _ _ => x == s.cur
        | .bcastAns x _ _ => x == s.cur
        | _ => false) then stall s
    else
      let here := (s.lgroup lg).isSome
      let r := bitsOf (s.w b).toNat 0 32
      if ¬ here ∧ (mget s.mtrees lg).isNone then done (s.setW a (toWord (2 ^ 63)))
      else if 64 ≤ s.classL s.cur then stall s
      else
        let u := s.fly (.bcastReq lg s.cur (s.cx.wOff a.toNat) r)
        done ((if here then u else u.sendFlits (u.routeTo (Config.freeChoice s.uid)) s.uid [9, lg, r]).progress s.cx.group)

/-- BACC (12 R248, R260). -/
def execBacc (a b c : BitVec 4) (imm : BitVec 6) (s : State) : Out :=
  learning (.bacc a b c imm) s <|
    if s.cx.fld 0x045 0 1 = 0 ∨ s.cx.pend.isEmpty then done (s.setW a 0)
    else done ((s.setCx s.cx.acceptOne).setW a 1)

/-- BWAIT (12 R260). -/
def execBwait (a b c : BitVec 4) (imm : BitVec 6) (s : State) : Out :=
  learning (.bwait a b c imm) s <| if s.cx.fld 0x044 16 3 = 0 then done s else stall s

/-- BSEQ (12 R243, R260). -/
def execBseq (a _b _c : BitVec 4) (_imm : BitVec 6) (s : State) : Out :=
  done (s.setW a (if s.cx.get 0x043 = 0 then 0 else s.cx.get 0x044))

/-! ## The learning group's steps (12 R246 to R249, R256) -/

/-- A member that has not exited and whose group has not ended. -/
def State.liveMember (s : State) (h v : Nat) : Bool :=
  match s.grp h with
  | some g => g.state != .exiting && g.state != .retired && (g.members.getD v Member.blank).pst != 3
  | none => false

/-- What a member whose learning context has ended has retired: it is out of the window (12 R246, R256). -/
def leftWindow : Nat := 2 ^ 40

/-- Whether the root may assign number n: every live member has retired n - 4 (12 R246). -/
def State.windowOpen (s : State) (lg : LearnGroup) : Bool :=
  (upTo (s.nMembers lg.group)).all (fun v =>
    !s.liveMember lg.group v || decide (lg.next < (s.member lg.group v).retired + 5))

/-- What members on other devices have retired is not known here: where the group has a tree, whether they let the root go on is left free (12 R246). DESIGN CHOICE, log entry 10. -/
def State.farWindow (s : State) (lg : Nat) : Bool := (mget s.mtrees lg).isNone || Config.freeChoice s.uid % 2 == 0

/-- The root's multicast to the members on other devices, along the tree that the host wrote for the group (12 R246, 24 R364). -/
def State.mcastAway (s : State) (lg num r : Nat) : State :=
  if (mget s.mtrees lg).isNone then s else s.fly (.mcast lg [lg, num % 2 ^ 32, r])

/-- BCAST_REQUEST_ARRIVAL: the root refuses, or assigns the next number and multicasts (12 R246, R247); a root at another device answers as it will (log entry 10). -/
def execBcastRequestArrival (id : Nat) (s : State) : Out :=
  match s.flight id with
  | some (.bcastReq lg cid dst r) =>
    let no := s.reflyFrom ((s.rootCore lg).getD 6144) id (.bcastAns cid dst none)
    match s.lgroup lg with
    | none =>
      if cid = farCid ∨ (mget s.mtrees lg).isNone then .next no
      else if s.unsent id then .next s
      else .next { s.refly id (.bcastAns cid dst (if Config.freeChoice s.uid % 2 = 0 then none else some (Config.freeChoice (s.uid + 1) % 2 ^ 32)))
        with uid := s.uid + 2 }
    | some g =>
      if ¬ s.liveMember g.group g.root ∨ ¬ s.windowOpen g ∨ ¬ s.farWindow lg then .next { no with uid := s.uid + 1 }
      else
        let n := g.next % 2 ^ 32
        let s := { s.reflyFrom ((s.rootCore lg).getD 6144) id (.bcastAns cid dst (some n)) with learn := mput s.learn (lg % 4096) { g with next := g.next + 1 } }
        .next (((upTo (s.nMembers g.group)).foldl (fun s v =>
          if s.liveMember g.group v ∧ (s.member g.group v).retired ≠ leftWindow then s.fly (.bcast lg g.group v g.next r) else s) s).mcastAway
            lg g.next r)
  | _ => .next s

/-- An event of the root of a learning group, which may stand at another device (28 R407, 12 R246). -/
def State.byRoot (s : State) (id lg : Nat) : Origin :=
  match s.lgroup lg with
  | some l => s.byMember l.group l.root
  | none => byFar id

/-- BCAST_ANSWER_ARRIVAL (12 R260): the answer reaches its strand, or leaves for another device. -/
def execBcastAnswerArrival (id : Nat) (s : State) : Out :=
  match s.flight id with
  | some (.bcastAns cid dst v) =>
    let x := match v with
      | some n => n
      | none => 2 ^ 63
    if cid = noCid then .next (s.land id)
    else if cid = farCid then .next ((s.land id).answerAway [x])
    else .next (((s.land id).wrS (coreOfCid cid) dst 8 x).logRx (coreOfCid cid) rxAnswer (s.byRoot id ((s.ctx cid).get 0x043).toNat) x [])
  | _ => .next s

/-- The context of a member that a learning group serves (12 R257). -/
def State.lgCid (s : State) (lg h v : Nat) : Option Nat :=
  (pick (fun p => p.2.group == h && p.2.vcore == v && p.2.get 0x043 == toWord lg) s.ctxs).map (fun p => p.1)

/-- The context of a member that learns (12 R257). -/
def State.learnCid (s : State) (h v : Nat) : Option Nat :=
  (pick (fun p => p.2.group == h && p.2.vcore == v && p.2.get 0x043 != 0) s.ctxs).map (fun p => p.1)

/-- BROADCAST_RECEIVE: in sequence order at the member; a saved member's broadcasts join its overflow, an exited one's are dropped (12 R246, R256). -/
def execBroadcastReceive (id : Nat) (s : State) : Out :=
  match s.flight id with
  | some (.bcast lg h v num r) =>
    match s.grp h with
    | none => .next (s.land id)
    | some g =>
      if ¬ s.liveMember h v ∨ (s.member h v).retired = leftWindow then .next (s.land id)
      else if g.state = .saved then
        .next ((s.land id).setGrp { g with overflowBcasts := g.overflowBcasts ++ [((v, ⟨num, r, 0, false⟩) : Nat × Bcast)] })
      else
        match s.lgCid lg h v with
        | none => .next s
        | some cid =>
          let c := s.ctx cid
          let due := (c.fld 0x044 0 8 + c.pend.length + 1) % 256
          if num % 256 ≠ due ∨ 4 ≤ c.pend.length + c.held.length then .next s
          else
            let c := { c with pend := c.pend ++ [(⟨num, r, 0, false⟩ : Bcast)] }
            let s := (s.land id).setCtx cid (c.setFld 0x044 8 3 c.pend.length)
            .next (s.logRx (coreOfCid cid) rxBcast (s.byRoot id lg) (num % 2 ^ 32 * 2 ^ 32 + r) [])
  | _ => .next s

/-- BROADCAST_ACCEPT: a context that does not run stands at a boundary (12 R248). -/
def execBroadcastAccept (cid : Nat) (s : State) : Out :=
  if (mget s.ctxs cid).isSome ∧ (s.ctx cid).accepts ∧ (s.ctx cid).state ≠ .running then
    .next (s.setCtx cid (s.ctx cid).acceptAll)
  else .next s

/-- LAG = 1 and APPLIED = SEQ, with a record in the black box (12 R254). -/
def State.lagRow (s : State) (core : Nat) (c : Ctx) (r : Row) : State :=
  ((s.wrS core (r.addr + 8) 1 (Nat.lor (s.rdS core (r.addr + 8) 1) 2)).wrS core (r.addr + 2) 1 (c.fld 0x044 0 8)).bbox
    2 0 (s.partOf c.group) core r.addr 0

/-- Catch up some of a row's synapses (12 R250). -/
def State.catchUp (s : State) (core : Nat) (c : Ctx) (r : Row) (n : Nat) : State :=
  let bs := c.lastHeld r
  (upTo n).foldl (fun s j =>
    let x := s.rdS core (r.syn j) 8
    let p := synCatch c core j r.frozen r.et r.stamp x bs
    s.wrS core (r.syn j) 8 (synWord x p.1 p.2.1)) s

/-- The sweep visits one row (12 R249, R254). -/
def State.sweepRow (s : State) (cid a : Nat) : State :=
  let c := s.ctx cid
  let core := coreOfCid cid
  let q := (s.member c.group c.vcore).qbase
  if a % 16 ≠ 0 ∨ 0x20000 < a + 16 then s
  else
    let r := s.rowAt core a
    if (inArea q a r.size).isSome then s
    else if c.fld 0x047 0 1 = 1 ∧ c.fld 0x046 3 13 = a / 16 then s
    else if r.applied = c.fld 0x044 0 8 then s
    else if 0x20000 < a + r.size ∨ rangeBad c r none ∨ (s.badS core a 16).isSome then s.lagRow core c r
    else
      match s.synBad core r with
      | some bad => ((s.catchUp core c r ((bad - (a + 16)) / 8)).lagRow core c r)
      | none =>
        let tick := ((c.lastHeld r).getLast?.map (fun b => b.atick)).getD r.stamp
        ((s.catchUp core c r r.n).stampRow core c r tick).addCerrOn core (s.softS core a 16 + s.rowSoft core c r false 0 r.n)

/-- Broadcasts that retire, in sequence order up to the first that stays, and those that stay (12 R249). -/
def retiring (stays : Bcast → Bool) : List Bcast → List Bcast × List Bcast
  | [] => ([], [])
  | b :: r => if stays b then ([], b :: r) else (b :: (retiring stays r).1, (retiring stays r).2)

/-- A retirement report to the root; a group that is not of this device has its root elsewhere (12 R246). DESIGN CHOICE, log entry 10. -/
def State.reportRetired (s : State) (lg v num : Nat) : State :=
  if (s.lgroup lg).isNone ∧ (mget s.mtrees lg).isSome then s.answerAway [10, lg, v, num] else s.fly (.retire lg v num)

/-- SWEEP_WALK: one walk of the directory, then the held broadcasts retire in sequence order, but for those an FSTEP awaiting resumption counts in CU and what follows them (12 R249). DEDUCED, log entry 127. DESIGN CHOICE, log entry 141. -/
def execSweepWalk (cid : Nat) (s : State) : Out :=
  let c := s.ctx cid
  let core := coreOfCid cid
  if c.held.isEmpty then .next s
  else
    let base := c.fld 0x042 0 17
    let s := (upTo (c.fld 0x042 32 16)).foldl (fun s i =>
      let a := (base + 4 * i) % 131072
      (s.niRead core a 4).sweepRow cid (bitsOf (s.rdS core a 4) 0 17)) s
    let stays (b : Bcast) : Bool := c.fld 0x047 0 1 == 1 && b.cu
    let (out, left) := retiring stays c.held
    let c := { c with held := left }
    let s := s.setCtx cid (c.setFld 0x044 16 3 c.held.length)
    .next (out.foldl (fun s b => s.reportRetired (c.get 0x043).toNat c.vcore b.num) s)

/-- RETIREMENT_REPORT_ARRIVAL at the root (12 R246); what a member at another device has retired is the environment's to keep (log entry 10). -/
def execRetirementReportArrival (id : Nat) (s : State) : Out :=
  match s.flight id with
  | some (.retire lg v num) =>
    match s.lgroup lg with
    | some g => .next ((s.land id).updMember g.group v (fun m => { m with retired := max m.retired num }))
    | none => .next (s.land id)
  | _ => .next s

end Sys2Proof.Machine
end

