-- ==== Sys2Proof/Machine/Wake.lean ====
section
/-! DEFINITION. Wakes (05 R112, R113, 16 R305, R308, 18 R313, R314, 19 R330, 20 R332, 21 R342): when a wait is over, and the steps that make a context READY again. -/

namespace Sys2Proof.Machine

/-- Whether the wait of a context is over: its instruction, issued again, would find what it waits for (05 R112). A LOCK and a CPOP wait for an event, not for what they test (16 R305, 21 R341). -/
def State.waitOver (s : State) (cid : Nat) (w : Wait) : Bool :=
  let c := s.ctx cid
  let core := coreOfCid cid
  let m := s.member c.group c.vcore
  match w with
  | .future k off => s.full k off || s.bereavedAt k off
  | .lockAt _ _ => c.woken
  | .portOut k off => !s.full k off
  | .portIn off => s.full core off
  | .ring n =>
    (match m.ring n with
     | some (d, _) => !s.bound m n || s.ringCount core d != 0
     | none => true)
  | .bar b e => !notYet (bEpoch (mgetD m.bars b 0)) e
  | .barFull b =>
    let r := mgetD m.bars b 0
    decide (bArr r < bCnt r + 1 ∨ bNxt r < bCnt r + 1)
  | .dbar d e => !notYet (s.rdS core (d + 16) 1) e
  | .dbarFull d => !((s.party c.group c.vcore d).map (fun p => p.active)).getD false
  | .waitc l st cc mm =>
    (s.asCid cid).waitcMet (BitVec.ofNat 4 l) (BitVec.ofNat 4 st) (BitVec.ofNat 4 cc) (BitVec.ofNat 4 mm)
  | .wfm mask => Nat.land (s.wfmBits cid) mask != 0
  | .cpop _ => c.woken
  | .rdv =>
    let q := (s.core core).seq
    q.holder != cid || !(q.state == .running || q.state == .blocked)
  | .cevq =>
    let x := if isCopy cid then s.ctx (s.core core).seq.holder else c
    x.fld 0x081 32 16 != x.fld 0x081 48 16
  | .ldd _ => c.lddRes.isSome

/-- What a step brings about wakes the contexts that wait for it, whatever becomes of it before the wake reaches them; those on a long-wait list it does not reach (05 R112, 18 R313, R314). -/
def State.latch (s : State) : State :=
  { s with ctxs := s.ctxs.map (fun p =>
      match p.2.waits with
      | some w => if !p.2.woken && !p.2.parkLong && s.waitOver p.1 w then (p.1, { p.2 with woken := true }) else p
      | none => p) }

/-- A blocked context becomes READY; the copy strand runs again; a stopped context forgets its block (05 R113, 20 R332). -/
def State.wake (s : State) (cid : Nat) : State :=
  let c := { s.ctx cid with parkLong := false, woken := false }
  match c.state with
  | .blocked _ =>
    if isCopy cid then
      (s.setCtx cid { c with state := .running }).setSeq (coreOfCid cid) (fun q => { q with state := .running })
    else s.setCtx cid { c with state := .ready }
  | .stopped (some _) e => s.setCtx cid { c with state := .stopped none e }
  | _ => s

/-- WAKE_ARRIVAL (05 R113, 18 R313): a wake reaches its context. -/
def execWakeArrival (cid : Nat) (s : State) : Out :=
  let c := s.ctx cid
  if c.waits.isNone ∨ c.parkLong ∨ ¬ c.woken then .next s
  else .next ((s.wake cid).logRx (coreOfCid cid) rxWake (s.byMember c.group c.vcore) (slotOfCid cid) [])

/-- Cycles that a long wait and a parked CPOP last (16 R305, 18 R314). -/
def parkCycles : Nat := 4096

/-- LONG_WAIT_EXPIRY (18 R314): 4,096 cycles after it parked a context on a long-wait list becomes READY and issues again. -/
def execLongWaitExpiry (cid : Nat) (s : State) : Out :=
  let c := s.ctx cid
  if c.parkLong ∧ c.waits.isSome ∧ parkCycles ≤ c.parkRun then .next (s.wake cid) else .next s

/-- CPOP_PARK_EXPIRY (16 R305): 4,096 cycles after it parked a CPOP becomes READY and tries again. DEDUCED, log entry 100. -/
def execCpopParkExpiry (cid : Nat) (s : State) : Out :=
  match (s.ctx cid).waits with
  | some (.cpop _) => if parkCycles ≤ (s.ctx cid).parkRun then .next (s.wake cid) else .next s
  | _ => .next s

end Sys2Proof.Machine
end

