-- ==== Sys2Proof/Machine/GroupOps.lean ====
section
/-! DEFINITION. The end of strands, members and groups (05 R113, 14 R268, R269, R272, 15 R278, 21 R345), and the start of an estate walk. -/

namespace Sys2Proof.Machine

/-! ## Strands -/

/-- Member where the strand of a work identifier was placed at launch (14 R264). -/
def birthMember (g : Group) (wid : Word) : Nat := (wid - g.hdr.widbase).toNat / (g.hdr.spm + 1)

/-- Contexts of a group under migration, with the member each goes to. -/
def State.flying (s : State) (h : Nat) : List Ctx :=
  s.flights.filterMap (fun f => match f.cargo with
    | .migrate _ _ c _ _ => if c.group = h then some c else none
    | _ => none)

/-- Strands of a group on the device: resident or migrating, copy strands apart. -/
def State.strands (s : State) (h : Nat) : List Ctx :=
  (s.ctxs.filter (fun p => p.2.group == h && !isCopy p.1)).map (fun p => p.2) ++ s.flying h

/-- Copy commands of a core's copy strand that have not started are discarded with status 7; one whose event queue is full keeps its record until a slot frees (20 R332, R337). -/
def State.dropUnstarted (s : State) (core : Nat) : State :=
  ((s.core core).copies.filter (fun c => c.cid == copyBase + core && !c.started && c.outcome.isNone)).foldl (fun s c =>
    match s.report core c (7, 0) with
    | some t => t.endCopy core c
    | none => s.setCopy core { c with started := true, outcome := some (7, 0) }) s

/-- Whether a started command of a core's copy strand still runs. -/
def State.strandBusy (s : State) (core : Nat) : Bool :=
  (s.core core).copies.any (fun c => c.cid == copyBase + core && c.started && c.outcome.isNone)

/-- A holder's end, or its MIGRATE, ends its copy strand (20 R332). -/
def State.endSeq (s : State) (cid : Nat) : State :=
  let core := coreOfCid cid
  let q := (s.core core).seq
  if q.state = .idle ∨ q.holder ≠ cid then s else (s.dropUnstarted core).freeSeq core

/-- Tile operations of a strand, and the tiles it owns, are gone (10 R224). -/
def State.dropTiles (s : State) (cid : Nat) : State :=
  let core := coreOfCid cid
  let k := s.core core
  let own := (s.ctx cid).fld 0x038 0 4
  s.setCore core { k with mq := k.mq.filter (fun o => o.cid != cid), tiles := k.tiles.filter (fun t => !bitAt own t.1) }

/-- A member whose learning context ends leaves the root's window (12 R256). -/
def State.leaveLearning (s : State) (c : Ctx) : State :=
  if c.get 0x043 = 0 then s else s.updMember c.group c.vcore (fun m => { m with retired := leftWindow })

/-- A context ends: serving ends, its copy strand ends, what it has in flight goes on without it, its tiles and its slot are free, and its member's barriers take note (05 R113, 14 R272, 12 R256, 15 R280, 19 R325). -/
def State.endCtx (s : State) (cid : Nat) : State :=
  let c := s.ctx cid
  let s := (((((s.endServing cid).endSeq cid).boxEvq cid).dropTiles cid).endFwd cid).orphan cid
  let s := (s.leaveLearning c).unrun cid
  ({ s with ctxs := mdel s.ctxs cid }).exitBars c.group c.vcore

/-! ## Messages of a group that ends -/

/-! ## Members -/

/-- A member's entry has changed: every core with a copy of it is sent an update (15 R276). -/
def State.placeChanged (s : State) (h v : Nat) : State :=
  let m := s.member h v
  (s.cores.filter (fun k => (k.2.pcache.map (fun x => x.1)).contains (h * 8192 + v))).foldl (fun s k =>
    s.fly (.placeUpd h v k.1 m.pst m.pcore)) s

/-- Members' entries have changed. -/
def State.placesChanged (s : State) (h : Nat) (vs : List Nat) : State := vs.foldl (fun s v => s.placeChanged h v) s

/-- A PASS parked on a cell of a core is woken: its target has exited, and it issues again (18 R320, R321). -/
def State.wakePassers (s : State) (core : Nat) : State :=
  { s with ctxs := s.ctxs.map (fun p =>
      match p.2.waits with
      | some (.portOut k _) => if k = core ∧ ¬ p.2.parkLong then (p.1, { p.2 with woken := true }) else p
      | _ => p) }

/-- A PLACED member becomes EXITED once the last strand that launch placed there has exited and no strand of the group is resident; one that is MOVING waits for its install (15 R278). -/
def State.tryExitMember (s : State) (h v : Nat) : State :=
  match s.grp h with
  | none => s
  | some g =>
    let live := s.strands h
    if live.any (fun c => c.vcore == v || birthMember g (c.get 0x013) == v) ∨ (s.member h v).pst ≠ 0 then s
    else ((s.updMember h v (fun m => { m with pst := 3 })).placeChanged h v).wakePassers (s.member h v).pcore

/-! ## The end of a group -/

/-- The value of DONE: the end cause and the handle (14 R269). -/
def doneValue (g : Group) : Nat := g.handle * 2 ^ 32 + g.cause

/-- DONE is filled through the launching group's placement at that moment (14 R269). -/
def State.fillDone (s : State) (g : Group) : State :=
  let a := g.hdr.done.toNat
  if a = 0 then s
  else
    match s.grp g.parent, rngOf a with
    | some p, .win v off =>
      (match s.niPlace p.handle v off 8 with
       | .to (.spad k o) => s.depositW (s.byMember g.handle 0) k o (doneValue g)
       | .wait => s.setGrp { p with overflowFills := p.overflowFills ++ [((v, off, toWord (doneValue g)) : Nat × Nat × Word)] }
       | _ => s)
    | _, _ => s

/-- Fills that waited for a member, or for a footprint on its way, and find their place now (14 R269, 05 R100). -/
def State.performFills (s : State) (h : Nat) : State :=
  match s.grp h with
  | none => s
  | some g =>
    let waits (f : Nat × Nat × Word) : Bool := s.niPlace h f.1 f.2.1 8 == .wait
    (g.overflowFills.filter (fun f => !waits f)).foldl (fun t f =>
      match s.niPlace h f.1 f.2.1 8 with
      | .to (.spad k o) => t.depositW (t.byMember (f.2.2.toNat / 2 ^ 32) 0) k o f.2.2.toNat
      | _ => t) (s.setGrp { g with overflowFills := g.overflowFills.filter waits })

/-- Cores of a partition's clusters. -/
def State.partHas (s : State) (part core : Nat) : Bool :=
  match mget s.parts part with
  | some p => p.clus.contains (clusterOf core)
  | none => false

/-- A CLOSING partition whose last group has retired is gone: its scratchpads are zero with tags empty, its clusters free (27 R388). -/
def State.tryClose (s : State) (part : Nat) : State :=
  match mget s.parts part with
  | none => s
  | some p =>
    if p.state ≠ .closing ∨ s.groups.any (fun g => g.2.part == part && g.2.state != .retired) then s
    else
      { s with
        spad := s.spad.filter (fun c => !s.partHas part (c.1 / 131072))
        tags := s.tags.filter (fun w => !s.partHas part (w / 16384))
        parts := mdel s.parts part }

/-- RETIRED (14 R268, R269): DONE is filled, the host hears of a launch of its own, and what was cached for the group is dropped (08 R165). -/
def State.retire (s : State) (h : Nat) : State :=
  match s.grp h with
  | none => s
  | some g =>
    let s := (s.setGrp { g with state := .retired }).fillDone g
    let s := if g.fromHost then s.tell [3, h, g.cause] else s
    let s := s.tlbDrop (fun t => t.group == h)
    let s := { s with
      cores := s.cores.map (fun (x : Nat × Core) => (x.1, { x.2 with fwd := x.2.fwd.filter (fun f => f.group != h) }))
      learn := s.learn.filter (fun l => l.2.group != h) }
    s.tryClose g.part

/-- A group becomes EXITING with an end cause: every context has ended or ends now, members are EXITED but for one under way, a saved image is discarded, the pre-emptions commanded are answered but for the move that a member is under, and the walk is queued (14 R268, 15 R278, 21 R345, 29 R412). DEDUCED, log entry 55. DEDUCED, log entry 103. -/
def State.endGroup (s : State) (h cause : Nat) : State :=
  match s.grp h with
  | none => s
  | some g =>
    if g.state = .exiting ∨ g.state = .retired then s
    else
      let s := ((s.groupCids h).filter (fun c => !isCopy c)).foldl (fun s c => s.endCtx c) s
      match s.grp h with
      | none => s
      | some g' =>
        let moving := g'.members.any (fun m => m.pst == 1)
        let ms := g'.members.map (fun m => if m.pst = 1 then m else { m with pst := 3 })
        let g'' := { g' with
          state := .exiting
          cause := cause
          members := ms
          pre := if moving then g'.pre.take 1 else []
          images := []
          overflow := []
          overflowFills := []
          overflowBcasts := []
          unplaced := [] }
        let out := (upTo g'.members.length).filter (fun v => let p := (g'.members.getD v Member.blank).pst; p != 1 && p != 3)
        let s := ((s.setGrp g'').placesChanged h out).flyAgain (g'.unplaced ++ g'.overflow)
        let s := (if moving then g'.pre.drop 1 else g'.pre).foldl (fun s _ => s.tell [0, 1]) s
        if g.state = .submitted then s.retire h else { s with walkQueue := s.walkQueue ++ [h] }

/-- After a strand has ended: its members, then its group (14 R272, 15 R278). -/
def State.afterExit (s : State) (h v wid : Nat) : State :=
  match s.grp h with
  | none => s
  | some g =>
    let s := (s.tryExitMember h v).tryExitMember h (birthMember g (toWord wid))
    if (s.strands h).isEmpty then s.endGroup h 1 else s

end Sys2Proof.Machine
end

