-- ==== Sys2Proof/Machine/Kernel.lean ====
section
/-! DEFINITION. Kernels (14): LAUNCH, EXIT, KILL and GSTAT (major 0x3B), placement, and the host's launch and kill. -/

namespace Sys2Proof.Machine

/-! ## The launch header (14 R263) -/

/-- The fields of a header given as its sixteen doublewords (14 R263; SLIM has the 18 bits that 0x2_0000 needs, log entry 13). -/
def parseHeader (d : List Nat) : Header :=
  let w (i : Nat) : Nat := d.getD i 0
  { entry := toWord (w 0), wx := bitsOf (w 1) 0 8, hy := bitsOf (w 1) 8 8, spm := bitsOf (w 1) 16 3,
    vx := bitAt (w 1) 24, sup := bitAt (w 1) 25, town := bitsOf (w 1) 28 4, origin := bitsOf (w 1) 32 16,
    slo := bitsOf (w 2) 0 17, slim := bitsOf (w 2) 32 18, wp0 := bitsOf (w 3) 0 17, wpstep := bitsOf (w 3) 32 17,
    widf := bitsOf (w 4) 0 42, widbase := toWord (w 5), data := toWord (w 6), doff := bitsOf (w 7) 0 17,
    dlen := bitsOf (w 7) 32 32, arg := toWord (w 8), tvec := toWord (w 9), twp := toWord (w 10),
    uroot := bitsOf (w 11) 12 28 * 4096, lg := bitAt (w 12) 0, lroot := bitsOf (w 12) 16 13, wdog := w 13,
    done := toWord (w 14) }

/-- Whether a reserved bit of a header is set (14 R263). -/
def headerReserved (d : List Nat) : Bool :=
  let f (i lo n : Nat) : Bool := bitsOf (d.getD i 0) lo n != 0
  f 1 19 5 || f 1 26 2 || f 1 48 16 || f 2 17 15 || f 2 50 14 || f 3 17 15 || f 3 49 15 || f 4 42 22 || f 7 17 15 ||
    f 11 0 12 || f 11 40 24 || f 12 1 15 || f 12 29 35 || f 15 0 64

/-- Footprint of slot s of the header, from WP - 64 (05 R93). -/
def Header.footAt (h : Header) (i : Nat) : Nat × Nat := (h.wp0 + i * h.wpstep, if h.vx then 2192 else 128)

/-- Whether some bytes leave the range SLO to SLIM - 1. -/
def Header.leaves (h : Header) (lo n : Nat) : Bool := n != 0 && !decide (h.slo ≤ lo ∧ lo + n ≤ h.slim)

/-- Whether the footprints, the data image or TWP leave the range, or footprints overlap (14 R271). -/
def Header.badLayout (h : Header) : Bool :=
  let fs := (upTo (h.spm + 1)).map (fun i => h.footAt i)
  fs.any (fun f => decide (f.1 < 64) || h.leaves (f.1 - 64) (64 + f.2)) || h.leaves h.doff h.dlen ||
    h.leaves h.twp.toNat 1 ||
    (upTo (h.spm + 1)).any (fun i => (upTo i).any (fun j =>
      overlap (h.footAt i).1 (64 + (h.footAt i).2) (h.footAt j).1 (64 + (h.footAt j).2)))

/-- Whether the rectangle at an origin lies on the mesh. -/
def Header.onMesh (h : Header) (o : Nat) : Bool := decide (o < 6144 ∧ o % 96 + h.wx ≤ 96 ∧ o / 96 + h.hy ≤ 64)

/-- Origins that a placement may take, rising (14 R268). -/
def Header.origins (h : Header) : List Nat := if h.origin = 0xFFFF then upTo 6144 else [h.origin]

/-- Whether the rectangle at an origin lies in a partition. -/
def State.rectIn (s : State) (part : Nat) (h : Header) (o : Nat) : Bool :=
  h.onMesh o && (h.coresAt o).all (fun c => s.partHas part c)

/-- Whether DONE names no future of the launching group (14 R269). -/
def State.badDone (s : State) (group : Nat) (d : Word) : Bool :=
  d != 0 && (d.toNat % 8 != 0 ||
    (match rngOf d.toNat with
     | .loc _ => false
     | .win v _ => decide (s.nMembers group ≤ v)
     | _ => true))

/-- Groups that are not RETIRED. -/
def State.liveGroups (s : State) : Nat := (s.groups.filter (fun g => g.2.state != .retired)).length

/-- The refusal code of a launch, 0 for none, in the order of R271; a host launch has no launching group and may set no DONE. -/
def State.launchCode (s : State) (d : List Nat) (part : Nat) (sup : Bool) (group : Option Nat) : Nat :=
  let h := parseHeader d
  if headerReserved d ∨ h.wx = 0 ∨ 96 < h.wx ∨ h.hy = 0 ∨ 64 < h.hy ∨ (h.origin ≠ 0xFFFF ∧ ¬ h.onMesh h.origin) ∨
      (h.lg ∧ h.wx * h.hy ≤ h.lroot) ∨ h.slo % 512 ≠ 0 ∨ h.slim % 512 ≠ 0 ∨ h.slim ≤ h.slo ∨ 0x20000 < h.slim ∨
      h.wp0 % 128 ≠ 0 ∨ h.wpstep % 128 ≠ 0 ∨ h.doff % 8 ≠ 0 ∨ h.dlen % 8 ≠ 0 then 1
  else if 64 < ((upTo 6).map (widW h.widf)).sum then 2
  else if h.badLayout then 3
  else if h.sup ∧ ¬ sup then 4
  else if (match group with
      | some g => s.badDone g h.done
      | none => h.done != 0) then 1
  else if ¬ h.origins.any (fun o => s.rectIn part h o) then 6
  else if 4096 ≤ s.liveGroups then 5
  else 0

/-- Whether a group index is free: never used, or its group RETIRED (14 R268). -/
def State.indexFree (s : State) (i : Nat) : Bool :=
  match mget s.groups i with
  | some g => g.state == .retired
  | none => true

/-- The generation after one; 0 is never issued (21 R338). -/
def nextGen (g : Nat) : Nat := if (g + 1) % 2 ^ 20 = 0 then 1 else (g + 1) % 2 ^ 20

/-- A handle for a new group (14 R268, log entry 9). -/
def State.newHandle (s : State) : Nat :=
  let w := Config.freeChoice s.uid % 4096
  let i := if s.indexFree w then w else (pick (fun i => s.indexFree i) (upTo 4096)).getD 0
  let old := match mget s.groups i with
    | some g => g.handle / 4096
    | none => Config.freeChoice i
  nextGen old * 4096 + i

/-- Create a group in SUBMITTED (14 R271); its members stand nowhere yet, but may be conveyed the parties of a barrier (21 R340, R346). -/
def State.submit (s : State) (hdr : Header) (parent part : Nat) (fromHost : Bool) : State × Nat :=
  let h := s.newHandle
  let g : Group :=
    { handle := h, seq := s.uid, pre := [], parent := parent, part := part, state := .submitted, cause := 0, hdr := hdr,
      members := (upTo (hdr.wx * hdr.hy)).map (fun _ => Member.blank), wdCount := 0, wdDue := false, unplaced := [], images := [],
      overflow := [], overflowFills := [], overflowBcasts := [],
      lgrp := 0, walkKind := 0, fromHost := fromHost }
  ({ s.setGrp g with uid := s.uid + 1 }, h)

/-- LAUNCH (14 R271); it is a release (09 R194). -/
def execLaunch (a b _c : BitVec 4) (_imm : BitVec 6) (s : State) : Out :=
  reading [b] s fun s =>
    let addr := (s.w b).toNat
    if addr % 64 ≠ 0 then trap s xMisalign (toWord addr)
    else
      loading addr 16 s fun d s =>
        let c := s.cx
        let part := s.partOf c.group
        match s.launchCode d part c.sup (some c.group) with
        | 0 =>
          if ¬ s.drained s.cur then stall s
          else
          let h := parseHeader d
          let local_ := match rngOf h.done.toNat with
            | .loc _ => decide (h.done ≠ 0)
            | _ => false
          let own := match s.grp c.group with
            | some g => g.hdr.uroot
            | none => 0
          let h' :=
            { h with
              uroot := own
              done := if local_ then toWord (0x400000000000 + c.vcore * 131072 + h.done.toNat) else h.done }
          let (t, n) := (s.endFwd s.cur).submit h' c.group part false
          done ((t.progress c.group).setW a (toWord n))
        | k => done ((s.progress c.group).setW a (toWord (2 ^ 63 + k)))

/-- EXIT (14 R272): it waits as WAITC with four zeros; then the strand ends, and started commands of its copy strand go on without it (20 R332). DESIGN CHOICE, log entry 137. -/
def execExit (_a _b _c : BitVec 4) (_imm : BitVec 6) (s : State) : Out :=
  if ¬ s.waitcMet 0 0 0 0 then blocked s (.waitc 0 0 0 0)
  else
    remoteOr s.cx.pc s
      (if s.unlanded s.cur then stall s
       else
         let c := s.cx
         .next (((s.progress c.group).endCtx s.cur).afterExit c.group c.vcore (c.get 0x013).toNat))

/-- Whether a group's chain of parents reaches another (14 R273). -/
def State.descends (s : State) (h anc : Nat) : Nat → Bool
  | 0 => false
  | n + 1 =>
    match s.grp h with
    | some g => g.parent == anc || s.descends g.parent anc n
    | none => false

/-- KILL (14 R273). -/
def execKill (a b _c : BitVec 4) (_imm : BitVec 6) (s : State) : Out :=
  reading [b] s fun s =>
    let h := (s.w b).toNat % 2 ^ 32
    let c := s.cx
    match s.grp h with
    | none => done (s.setW a (toWord (2 ^ 63)))
    | some g =>
      if h = c.group then .next (s.endGroup h 2)
      else if s.descends h c.group 4096 ∨ (c.sup ∧ g.part = s.partOf c.group) then done ((s.endGroup h 2).setW a 0)
      else trap s xAccess (s.w b)

/-- Code of a group's state (14 R274). -/
def gstateCode : GState → Nat
  | .submitted => 0
  | .running => 1
  | .saved => 2
  | .exiting => 3
  | .retired => 4

/-- Strands not yet EXITED: those on the device and those in images. -/
def State.liveStrands (s : State) (g : Group) : Nat :=
  (s.strands g.handle).length + (g.images.map (fun i => (i.extra.filter (fun x => decide (x.1 < 8))).length)).sum

/-- GSTAT (14 R274). DEDUCED, log entry 62. -/
def execGstat (a b _c : BitVec 4) (_imm : BitVec 6) (s : State) : Out :=
  reading [b] s fun s =>
    let x := match s.grp ((s.w b).toNat % 2 ^ 32) with
      | none => 2 ^ 63
      | some g => gstateCode g.state * 2 ^ 48 + g.cause * 2 ^ 40 + s.liveStrands g
    done (s.setW a (toWord x))

/-! ## Placement (14 R265, R268) -/

/-- Whether a slot of a core holds no context and awaits no migration. -/
def State.slotFree (s : State) (core i : Nat) : Bool :=
  (mget s.ctxs (core * 8 + i)).isNone &&
    !s.flights.any (fun f => match f.cargo with
      | .migrate k sl _ _ _ => k == core && sl == i
      | _ => false)

/-- Slots of a core that hold no context and await none. -/
def State.freeSlots (s : State) (core : Nat) : List Nat :=
  let taken := (s.comingTo core).map slotOfCid
  (upTo 8).filter (fun i => s.slotFree core i && !taken.contains i)

/-- Tiles that some contexts own. -/
def State.tilesOf (s : State) (cids : List Nat) : Nat := cids.foldl (fun x i => Nat.lor x ((s.ctx i).fld 0x038 0 4)) 0

/-- Tiles of a core that a context there, or one that is coming there, owns. -/
def State.tilesUsed (s : State) (core : Nat) : Nat := Nat.lor (s.tilesOf (s.cidsOn core)) (s.tilesOf (s.comingTo core))

/-- Cores whose range a group uses: its members', and those it is moving to. -/
def groupCores (g : Group) : List Nat :=
  (if g.state = .submitted ∨ g.state = .retired then [] else (g.members.filter (fun m => m.pst != 2)).map (fun m => m.pcore)) ++
    (match g.pre with
     | (o + 1) :: _ => g.hdr.coresAt o
     | _ => [])

/-- Whether another group uses part of a range on a core. -/
def State.rangeUsed (s : State) (h core lo hi : Nat) : Bool :=
  s.groups.any (fun g => g.2.handle != h && decide (lo < g.2.hdr.slim ∧ g.2.hdr.slo < hi) && (groupCores g.2).contains core)

/-- Whether a core can take a member with a number of contexts and some tiles (14 R268). DESIGN CHOICE, log entry 144. -/
def State.coreFree (s : State) (h : Nat) (hdr : Header) (n town core : Nat) : Bool :=
  decide (n ≤ (s.freeSlots core).length) && Nat.land (s.tilesUsed core) town == 0 && !s.rangeUsed h core hdr.slo hdr.slim

/-- The origin a placement takes: the first that lies in the partition and is free (14 R268). -/
def State.findOrigin (s : State) (g : Group) : Option Nat :=
  pick (fun o => s.rectIn g.part g.hdr o && (g.hdr.coresAt o).all (fun c => s.coreFree g.handle g.hdr (g.hdr.spm + 1) g.hdr.town c))
    g.hdr.origins

/-- Physical address of a byte of a data image for the group, none where it is unreadable (14 R265). DESIGN CHOICE, log entry 143. -/
def State.imageAt (s : State) (g : Group) (va : Nat) : Option Nat :=
  let r := rngOf va
  if r = .user ∨ (r = .sup ∧ g.hdr.sup) then
    match s.walk g.handle va .load g.hdr.sup with
    | .ok pa size _ _ _ => if (s.badH (pa + va % size) 1).isSome then none else some (pa + va % size)
    | .fault _ => none
  else none

/-- Addresses of a data image. DESIGN CHOICE, log entry 143. -/
def imageAddrs (h : Header) : List Nat := (upTo h.dlen).map (fun i => (h.data + toWord i).toNat)

/-- The lowest address of a data image that cannot be read (14 R265). -/
def State.imageBad (s : State) (g : Group) : Option Nat := ((imageAddrs g.hdr).filter (fun va => (s.imageAt g va).isNone)).min?

/-- What the read of a data image asks of HBM: the table entries of its pages and its bytes, each block of one home slice once (08 R158, R162). -/
def State.imagePlaces (s : State) (g : Group) : List Nat :=
  ((imageAddrs g.hdr).flatMap (fun va =>
    (if rngOf va = .user ∨ (rngOf va = .sup ∧ g.hdr.sup) then pathFrom s va 4 (s.rootOf g.handle va) else []) ++
      (s.imageAt g va).toList)).foldl (fun ps pa => nins ps (pa / 256 * 256)) []

/-- A member's core and a place that its read of the data image waits for: for a permit, or for a stack in self-refresh (08 R166, 29 R413). DEDUCED, log entry 71. -/
def State.imageStall (s : State) (g : Group) (o : Nat) : Option (Nat × Nat) :=
  pick (fun x => !s.wayOpen x.1 (.hbm x.2)) ((s.imagePlaces g).flatMap (fun pa => (g.hdr.coresAt o).map (fun c => (c, pa))))

/-- A of the pages that a data image was read from (08 R159). -/
def State.markImage (s : State) (g : Group) : State :=
  (imageAddrs g.hdr).foldl (fun s va =>
    match s.walk g.handle va .load g.hdr.sup with
    | .ok _ _ _ _ leaf => s.setAD leaf .load
    | .fault _ => s) s

/-- Range SLO to SLIM - 1 of a core zero with tags empty and dirty bits clear (14 R265). -/
def State.zeroRange (s : State) (core lo hi : Nat) : State :=
  { s with
    spad := s.spad.filter (fun c => !decide (spadKey core lo ≤ c.1 ∧ c.1 < spadKey core hi))
    tags := s.tags.filter (fun w => !decide (wordKey core lo ≤ w ∧ w < wordKey core hi))
    dirty := s.dirty.filter (fun d => !decide (regionKey core lo ≤ d ∧ d < regionKey core hi)) }

/-- Dirty bits of a range clear. -/
def State.cleanRange (s : State) (core lo hi : Nat) : State :=
  { s with dirty := s.dirty.filter (fun d => !decide (regionKey core lo ≤ d ∧ d < regionKey core hi)) }

/-- The context of strand `i` of member `v` as launch makes it (14 R265, 05 R101, R102). -/
def launchCtx (g : Group) (v i lgrp : Nat) : Ctx :=
  let h := g.hdr
  let x := { Ctx.blank with wp := h.wp0 + i * h.wpstep, pc := h.entry }
  let x := x.set 0x000 (toWord ((if h.vx then 8 else 0) + (if h.sup then 4 else 0)))
  let x := ((x.set 0x005 h.tvec).set 0x006 h.twp).set 0x010 (toWord v)
  let x := (x.set 0x012 (toWord g.handle)).set 0x013 (h.widbase + toWord (v * (h.spm + 1) + i))
  let x := x.set 0x014 (toWord h.widf)
  if i = 0 then (x.set 0x038 (toWord h.town)).set 0x043 (toWord lgrp) else x

/-- The launch contents of a member's range: zero, then the data image (14 R265, 05 R117). -/
def State.launchRange (s : State) (g : Group) (core : Nat) (img : List Byte) : State :=
  let s := s.zeroRange core g.hdr.slo g.hdr.slim
  { s with spad := writeBytes s.spad (spadKey core g.hdr.doff) img }

/-- The register area of a footprint is zero, whatever the data image put there (14 R265). -/
def State.zeroRegs (s : State) (core : Nat) (c : Ctx) : State :=
  { s with spad := s.spad.filter (fun x => !decide (spadKey core c.wp ≤ x.1 ∧ x.1 < spadKey core (c.wp + c.foot))) }

/-- Strand `i` of a member gets its context, its header and w1; every other register is 0 (14 R265). On a stopped core it is STOPPED (28 R402). -/
def State.launchStrand (s : State) (g : Group) (core slot v i lgrp : Nat) : State :=
  let cid := core * 8 + slot
  let c := { launchCtx g v i lgrp with state := if (s.core core).stop then .stopped none false else .ready }
  let s := ((s.zeroRegs core c).setCtx cid c).putHeader cid c.pc
  s.wrS core (c.wOff 1) 8 g.hdr.arg.toNat

/-- A member core is prepared (14 R265). DEDUCED, log entry 71. -/
def State.launchMember (s : State) (g : Group) (core v lgrp : Nat) (img : List Byte) : State :=
  let slots := s.freeSlots core
  let k := s.core core
  let s := s.setCore core { k with tiles := k.tiles.filter (fun t => !bitAt g.hdr.town t.1) }
  let s := s.launchRange g core img
  let s := (upTo (g.hdr.spm + 1)).foldl (fun s i => s.launchStrand g core (slots.getD i 0) v i lgrp) s
  s.cleanRange core g.hdr.slo g.hdr.slim

/-- A handle for a new learning group. -/
def State.newLearn (s : State) : Nat :=
  let i := (pick (fun i => (mget s.learn i).isNone) (upTo 4096)).getD 0
  nextGen (Config.freeChoice 0 + s.uid) * 4096 + i

/-- An uncorrectable error that the read of a data image met, of HBM or of a table entry, has its entry in the black box (28 R410). -/
def State.boxImage (s : State) (g : Group) (va core : Nat) : State :=
  match s.walk g.handle va .load g.hdr.sup with
  | .ok pa size _ _ _ => if (s.badH (pa + va % size) 1).isSome then s.bbox 6 0 g.part core (pa + va % size) 0 else s
  | .fault k => if k = xEcc then s.bbox 6 0 g.part core va 0 else s

/-- Place a group at an origin, or end it where its image cannot be read (14 R265, R268); a party that an ended group left to it stays with its member. -/
def State.placeGroup (s : State) (g : Group) (o : Nat) : State :=
  let cores := g.hdr.coresAt o
  let s := { s with slept := s.slept.filter (fun x => x != g.seq) }
  let vs := cores.zip (upTo cores.length)
  let mem (pst : Nat) (x : Nat × Nat) : Member :=
    { Member.blank with pst := pst, pcore := x.1, parties := (g.members.getD x.2 Member.blank).parties }
  match s.imageBad g with
  | some va =>
    let s := cores.foldl (fun s c => s.zeroRange c g.hdr.slo g.hdr.slim) s
    let s := s.setGrp { g with
      state := .exiting
      cause := 4
      members := vs.map (mem 3)
      unplaced := [] }
    let s := s.boxImage g va (cores.headD 0)
    let s := (s.flyAgain g.unplaced).supRec g.part ⟨xImage, toWord va, 0, [g.handle]⟩
    { s with walkQueue := s.walkQueue ++ [g.handle] }
  | none =>
    let img := (imageAddrs g.hdr).filterMap (fun va => (s.imageAt g va).map (fun pa => byteAt s.hbm pa))
    let lgrp := if g.hdr.lg then s.newLearn else 0
    let s := (s.markImage g).setGrp { g with
      state := .running
      members := vs.map (mem 0)
      lgrp := lgrp }
    let s := if g.hdr.lg then
        { s with
          learn := mput s.learn (lgrp % 4096) ⟨lgrp, g.handle, g.hdr.lroot, 1⟩
          uid := s.uid + 1 }
      else s
    vs.foldl (fun s x => s.launchMember g x.1 x.2 lgrp img) s

/-- GROUP_PLACEMENT (14 R268): the earliest SUBMITTED group of its partition is placed once a rectangle is free and its image's reads go out; none before the device is ready (29 R418). -/
def execGroupPlacement (h : Nat) (s : State) : Out :=
  match s.grp h with
  | none => .next s
  | some g =>
    if s.boot ≠ .up ∨ g.state ≠ .submitted ∨ s.groups.any (fun x => x.2.part == g.part && x.2.state == .submitted && decide (x.2.seq < g.seq))
    then .next s
    else
      match s.findOrigin g with
      | some o =>
        match s.imageStall g o with
        | some (core, pa) => .next (s.noteHeld g.seq core (.hbm pa))
        | none => .next (s.placeGroup g o)
      | none => .next s

/-! ## The host's launch and kill (29 R412) -/

/-- HOST_LAUNCH (14 R271): the checks of LAUNCH with the host as supervisor; a CLOSING partition launches nothing (27 R388), and before the device is ready there is none to launch in (29 R418). -/
def execHostLaunch (part : Nat) (hdr : List Byte) (s : State) : Out :=
  let d := (upTo 16).map (dwOf hdr)
  if s.boot ≠ .up then .next s
  else match mget s.parts part with
  | none => .next (s.tell [0, 1])
  | some p =>
    if p.state = .closing then .next (s.tell [0, 1])
    else
      match s.launchCode d part true none with
      | 0 =>
        let (t, n) := s.submit (parseHeader d) 0 part true
        .next (t.tell [0, 0, n])
      | k => .next (s.tell [0, k])

/-- HOST_KILL (14 R268). -/
def execHostKill (h : Nat) (s : State) : Out :=
  match s.grp h with
  | none => .next (s.tell [0, 1])
  | some _ => .next ((s.endGroup h 2).tell [0, 0])

end Sys2Proof.Machine
end

