-- ==== Sys2Proof/Machine/Link.lean ====
section
/-! DEFINITION. The link engine (24 R356 to R369): remote access, wavelengths, flits, and what of LINK concerns them (major 0x3E minors 0, 1, 3, 7, 8). Other devices are the environment (log entry 10). -/

namespace Sys2Proof.Machine

/-! ## Wavelengths (24 R360) -/

/-- What happens on a fibre that exists (24 R356). -/
def onLink (l i : Nat) (s : State) (t : State) : Out := .next (if l < linkCount ∧ i < 16 then t else s)

/-- A wavelength fails, with its entry in the black box (24 R360, 28 R410). -/
def State.wlFail (s : State) (l i : Nat) : State :=
  (s.setLink l ((s.link l).change (fun x => x.setSt i .failed))).bbox 5 0 0
    ((if 8 ≤ i then 2 ^ 27 else 0) + i % 8 * 2 ^ 24 + l * 2 ^ 16) 0 0

/-- A state change of one wavelength, if it is in the state that the event asks for. -/
def wlStep (l i : Nat) (from_ : Wl) (f : Link → Link) (s : State) : State :=
  if (s.link l).st i = from_ then s.setLink l ((s.link l).change f) else s

/-- LOSS_OF_LIGHT (24 R360). -/
def execLossOfLight (l i : Nat) (s : State) : Out :=
  let w := (s.link l).st i
  onLink l i s (if w = .lit ∨ w = .parked then s.wlFail l i else s)

/-- LOCK_REACHED (24 R360). -/
def execLockReached (l i : Nat) (s : State) : Out := onLink l i s (wlStep l i .waking (fun x => x.setSt i .lit) s)

/-- WAKE_TIMEOUT (24 R360). -/
def execWakeTimeout (l i : Nat) (s : State) : Out := onLink l i s (wlStep l i .waking (fun x => x.retrain i false) s)

/-- TRAINING_PASS (24 R360). -/
def execTrainingPass (l i : Nat) (s : State) : Out := onLink l i s (wlStep l i .retraining (fun x => x.setSt i .lit) s)

/-- RETRAIN_TIMEOUT (24 R360): the host hears of it. -/
def execRetrainTimeout (l i : Nat) (s : State) : Out :=
  onLink l i s (if (s.link l).st i = .retraining then (s.wlFail l i).tell [4, l, i] else s)

/-- ERROR_WINDOW_END (24 R360): the window of a wavelength that has carried its beats begins anew. -/
def execErrorWindowEnd (l i : Nat) (s : State) : Out :=
  let x := s.link l
  onLink l i s (if windowBeats ≤ mgetD x.beats i 0 then s.setLink l (x.endWindow i) else s)

/-! Commands on wavelengths (24 R360, R368, 29 R412) -/

/-- A park, light or retrain command, or the host's reset: the state it asks for and what it brings about. -/
inductive WlCmd where
  | park | light | retrain | reset
  deriving DecidableEq, Repr

def WlCmd.wants : WlCmd → Wl
  | .park => .lit
  | .light => .parked
  | .retrain => .lit
  | .reset => .failed

def WlCmd.act (c : WlCmd) (i : Nat) (x : Link) : Link :=
  match c with
  | .park => x.setSt i .parked
  | .light => x.setSt i .waking
  | .retrain => x.retrain i true
  | .reset => x.setSt i .waking

/-- A command on one wavelength, or on those of its hank that it can act on; code 2 where there is none (24 R368). DESIGN CHOICE, log entry 87. -/
def State.wlCommand (s : State) (c : WlCmd) (l i : Nat) (hank : Bool) : State × Nat :=
  let is := if hank then (upTo 8).map (fun k => i / 8 * 8 + k) else [i]
  let ok := is.filter (fun k => (s.link l).st k == c.wants)
  if ok.isEmpty ∨ linkCount ≤ l ∨ 16 ≤ i then (s, 2)
  else (s.setLink l ((s.link l).change (fun x => ok.foldl (fun x k => c.act k x) x)), 0)

/-- The host's command on a wavelength, with its response. -/
def hostWl (c : WlCmd) (l i : Nat) (hank : Bool) (s : State) : Out :=
  let (t, k) := s.wlCommand c l i hank
  .next (t.tell [0, k])

/-- WAVELENGTH_PARK (24 R360). -/
def execWavelengthPark (l i : Nat) (hank : Bool) (s : State) : Out := hostWl .park l i hank s

/-- WAVELENGTH_LIGHT (24 R360). -/
def execWavelengthLight (l i : Nat) (hank : Bool) (s : State) : Out := hostWl .light l i hank s

/-- WAVELENGTH_RETRAIN (24 R360). -/
def execWavelengthRetrain (l i : Nat) (hank : Bool) (s : State) : Out := hostWl .retrain l i hank s

/-- WAVELENGTH_RESET (24 R360). -/
def execWavelengthReset (l i : Nat) (s : State) : Out := hostWl .reset l i false s

/-- LINK_ERRT (24 R360). -/
def execLinkErrt (v : Nat) (s : State) : Out := .next ({ s with errt := v }.tell [0, 0])

/-- ROUTING (24 R361, R364): table 0 gives the link for a device, table 1 the outgoing links of a multicast tree. -/
def execRouting (table idx v : Nat) (s : State) : Out :=
  .next ((if table = 0 then { s with routing := mput s.routing idx v } else { s with mtrees := mput s.mtrees idx v }).tell [0, 0])

/-- Whether a grant in force covers a link for a partition (29 R414). -/
def State.granted (s : State) (part l : Nat) : Bool :=
  s.grants.any (fun g => g.part == part && g.links.contains l && decide (s.time < g.expiry))

/-- LNKCTL ops 2 to 4 (24 R368, 29 R414). -/
def lnkctlWl (cmd : WlCmd) (op : Nat) (a b c : BitVec 4) (s : State) : Out :=
  reading [b] s fun s =>
    let w := (s.w b).toNat
    let l := bitsOf w 0 7
    if ¬ s.cx.sup ∨ ¬ s.granted (s.partOf s.cx.group) l then trap s xPrivilege (s.w b)
    else if bitAt w 7 ∨ bitsOf w 11 4 ≠ 0 ∨ bitsOf w 16 48 ≠ 0 then
      operandTrapOf s (encS 0x3E 3 a b c (BitVec.ofNat 6 op))
    else
      let (t, k) := s.wlCommand cmd l (bitsOf w 8 3) (bitAt w 15)
      done (t.setW a (toWord (if k = 0 then 0 else 2 ^ 63 + k)))

/-- LNKCTL PARK (24 R368). -/
def execLnkctlPark (a b c : BitVec 4) (s : State) : Out := lnkctlWl .park 2 a b c s

/-- LNKCTL LIGHT (24 R368). -/
def execLnkctlLight (a b c : BitVec 4) (s : State) : Out := lnkctlWl .light 3 a b c s

/-- LNKCTL RETRAIN (24 R368). -/
def execLnkctlRetrain (a b c : BitVec 4) (s : State) : Out := lnkctlWl .retrain 4 a b c s

/-- A count as the counters category of a partition lets it be read (27 R391, R393). -/
def State.shown (s : State) (part v : Nat) : Nat :=
  match s.gran part 0 with
  | 0 => 0
  | 1 => if v = 0 then 0 else 1
  | 2 => coarseCount v
  | _ => v

/-- Code of a wavelength state (24 R369). -/
def wlCode : Wl → Nat
  | .lit => 0
  | .parked => 1
  | .waking => 2
  | .retraining => 3
  | .failed => 4

/-- LNKSTAT's states of the sixteen wavelengths (24 R369). -/
def Link.states (x : Link) : Nat := ((upTo 16).map (fun i => wlCode (x.st i) * 2 ^ (3 * i))).sum

/-- LNKSTAT (24 R369). -/
def execLnkstat (a b c : BitVec 4) (imm : BitVec 6) (s : State) : Out :=
  reading [b] s fun s =>
    let w := (s.w b).toNat
    if bitAt w 7 ∨ bitsOf w 11 53 ≠ 0 then operandTrapOf s (encS 0x3E 7 a b c imm)
    else
      let x := s.link (bitsOf w 0 7)
      let part := s.partOf s.cx.group
      let v := match bitsOf imm.toNat 0 2 with
        | 0 =>
          (match s.gran part 0 with
           | 0 => 0
           | 1 => s.shown part (x.rcnt * 2 ^ 56 + x.states)
           | _ => s.shown part x.rcnt * 2 ^ 56 + x.states)
        | 1 => s.shown part (mgetD x.errs (8 + bitsOf w 8 3) 0)
        | 2 => s.shown part x.flitsOut
        | _ => s.shown part x.flitsIn
      done (s.setW a (toWord v))

/-! ## Remote access (24 R362 to R367) -/

/-- The group window (08 R155). -/
def isWin : Rng → Bool
  | .win _ _ => true
  | _ => false

/-- The checks of a remote access (24 R367): the handle, the address. -/
def remoteChecked (x : Nat × Nat) (b c : BitVec 4) (size : Nat) (fill : Bool) (s : State) (k : Nat → Word → Out) : Out :=
  let h := bitsOf (s.w c).toNat 0 16
  let va := s.w b
  if bitsOf (s.w c).toNat 16 48 ≠ 0 then operandTrapOf s x
  else if h ≠ 0 ∧ (s.handleOf h).isNone then trap s xAccess (toWord h)
  else if va.toNat % size ≠ 0 then trap s xMisalign va
  else if 2 ^ 48 ≤ va.toNat then trap s xAccess va
  else if fill ∧ ¬ isWin (rngOf va.toNat) then trap s xAccess va
  else k h va

/-- The cycle at which a remote operation issued now times out (24 R365). -/
def State.remoteDue (s : State) : Nat := s.cycles + s.cx.tmo

/-- An access sets out; to another device it goes as one flit on the route that the host's table gives (24 R361, R363). -/
def State.flyRemote (s : State) (h : Nat) (ws : List Nat) (c : Cargo) : State :=
  let x := s.cx
  s.flyTo (s.devCode (s.handleTarget (s.partOf x.group) x.group h).1) ws c

/-- LDD (24 R367): the request goes out once and the context blocks; selected again, it completes with the outcome. -/
def execLdd (a b c : BitVec 4) (imm : BitVec 6) (s : State) : Out :=
  let clear := s.setCx { s.cx with lddRes := none }
  match s.cx.lddRes with
  | some (0, v) => done (clear.setW a (toWord v))
  | some (1, h) => whenLanded s (trap clear xLinkTimeout (toWord h))
  | some (_, va) => whenLanded s (trap clear xRemote (toWord va))
  | none =>
    reading [b, c] s fun s =>
      let size := if bitAt imm.toNat 3 then 4 else 8
      remoteChecked (encS 0x3E 0 a b c imm) b c size false s fun h va =>
        if ¬ (s.gates s.cur true false).isEmpty ∨ 64 ≤ s.classL s.cur then stall s
        else
          watched true false [(va.toNat, size)] s fun s =>
            let x := s.cx
            let id := s.uid
            blocked (s.flyRemote h [0, h, va.toNat, size] (.ldd s.cur h x.group x.sup va size s.remoteDue none)) (.ldd id)

/-- STD and FILLD (24 R367): posted. -/
def remoteStore (x : Nat × Nat) (a b c : BitVec 4) (size : Nat) (fill : Bool) (s : State) : Out :=
  reading [a, b, c] s fun s =>
    remoteChecked x b c size fill s fun h va =>
      if ¬ (s.gates s.cur false true).isEmpty ∨ 64 ≤ s.classS s.cur ∨ (fill ∧ ¬ s.drained s.cur true) then stall s
      else
        watched fill true [(va.toNat, size)] s fun s =>
          let cx := s.cx
          let v := (s.w a).toNat % 256 ^ size
          let s := if fill then s.endFwd s.cur else s
          done ((s.flyRemote h [if fill then 2 else 1, h, va.toNat, size, v]
            (.std s.cur h cx.group cx.sup va size v fill s.remoteDue none)).progress cx.group)

/-- STD (24 R367). -/
def execStd (a b c : BitVec 4) (imm : BitVec 6) (s : State) : Out :=
  remoteStore (encS 0x3E 1 a b c imm) a b c (if bitAt imm.toNat 3 then 4 else 8) false s

/-- FILLD (24 R367). -/
def execFilld (a b c : BitVec 4) (imm : BitVec 6) (s : State) : Out := remoteStore (encS 0x3E 8 a b c imm) a b c 8 true s

/-- A remote load's value; none is a remote failure (24 R363). -/
def State.remoteLoad (s : State) (l : Far) (size : Nat) : Option Nat :=
  match l with
  | .to l => if s.badAt l size then none else some (s.rd l size)
  | _ => none

/-- Corrected errors that a remote load met (11 R229): those of HBM count at the core that loads, where it is one of this device. -/
def State.remoteSoft (s : State) (asker : Option Nat) (l : Far) (size : Nat) : State :=
  match l, asker with
  | .to (.spad core off), _ => s.softRead core (.spad core off) size
  | .to (.hbm pa), some core => s.softRead core (.hbm pa) size
  | _, _ => s

/-- A remote store or fill at its place: the state, and whether it succeeded; in a scratchpad it is a deposit, which sets the tags of its words full (08 R170, R171, 24 R363, R367). DEDUCED, log entry 111. -/
def State.remoteWrite (s : State) (o : Origin) (l : Far) (size v : Nat) (fill : Bool) : State × Bool :=
  match l with
  | .to (.spad core off) =>
    if s.areaAt core off size ∨ (s.badS core off size).isSome ∨ (fill ∧ (s.full core off ∨ s.bereavedAt core off)) then (s, false)
    else
      let bs := s.keepHw core off (leBytes size v)
      ((s.engineBytes core off bs).logWrite core rxWrite o off true bs, true)
  | .to (.hbm pa) => if (s.badH pa size).isSome then (s, false) else (s.wrH pa size v, true)
  | _ => (s, false)

/-- A contained request: a record, and no answer; size 0 marks it in flight (24 R362, 16 R298). It has no header, so TVAL is 0. DESIGN CHOICE, log entry 136. -/
def State.containRemote (s : State) (group : Nat) (id : Nat) (c : Cargo) : State :=
  (s.refly id c).supRec (s.partOf group) ⟨xContainment, 0, 0, [group]⟩

/-- An uncorrectable error that an access at this device meets, of the data or of a table entry of its walk, goes to the black box (28 R410). -/
def State.remoteBox (s : State) (part group : Nat) (sup : Bool) (va : Nat) (acc : Acc) (l : Far) (size : Nat) : State :=
  match l with
  | .to (.spad core off) =>
    (match (if acc ≠ .load ∧ s.areaAt core off size then none else s.badS core off size) with
     | some a => s.bbox 6 0 part core a 0
     | none => s)
  | .to (.hbm pa) =>
    (match s.badH pa size with
     | some a => s.bbox 6 0 part 0 a 0
     | none => s)
  | _ =>
    if rngOf va = .user ∧ oneRange va size ∧ (s.farRoot part group).map (fun r => walkFrom s va acc sup 4 r) = some (.fault xEcc) then
      s.bbox 6 0 part 0 va 0
    else s

/-- An access at this device, for one of its cores or for another device: what comes of it and the state, none while it waits for a member or for a stack in self-refresh (24 R362, R363, 29 R413). -/
def State.remoteHere (s : State) (asker : Option Nat) (o : Origin) (part group : Nat) (sup : Bool) (op size : Nat) (va : Word) (v : Nat) :
    Option (State × Option Nat) :=
  let acc := if op = 0 then Acc.load else Acc.store
  let l := s.farLoc part group sup va.toNat size acc
  let shut : Bool := match l with
    | .wait => true
    | .to l => !s.awake l
    | .fail => false
  if shut then none
  else
    let s := (s.remoteMark part group sup va.toNat acc).remoteBox part group sup va.toNat acc l size
    if op = 0 then some (s.remoteSoft asker l size, s.remoteLoad l size)
    else
      let (t, ok) := s.remoteWrite o l size v (op == 2)
      some (t, if ok then some 0 else none)

/-- An access of a core waits at this device; what it waits at a stack is counted once (29 R413). -/
def State.remoteWaits (s : State) (id core : Nat) (l : Far) : State :=
  match l with
  | .to l => s.noteSlept id core l
  | _ => s

/-- REMOTE_ACCESS_PERFORM (24 R363): an LDD, STD or FILLD is performed, once its flit has gone out, at its device with an outcome the model leaves free, or at this one behind the strand's earlier accesses to that address (09 R188); or another device's access is performed here. DESIGN CHOICE, log entry 10. -/
def execRemoteAccessPerform (id : Nat) (s : State) : Out :=
  match s.flight id with
  | some (.ldd cid h g sup va size due none) =>
    let part := s.partOf g
    let (dev, tg) := s.handleTarget part g h
    let put (r : Option Nat) (s : State) : Out := .next (s.refly id (.ldd cid h g sup va size due (some r)))
    if size = 0 ∨ s.unsent id then .next s
    else if dev ≠ s.devNum then
      put (if Config.freeChoice id % 2 = 0 then none else some ((Config.freeWord id 0).toNat % 256 ^ size)) s
    else if ¬ s.linkRipe id cid then .next s
    else if s.wrongKey part tg then .next (s.containRemote tg id (.ldd cid h g sup va 0 due none))
    else
      match s.remoteHere (some (coreOfCid cid)) (s.byCore (coreOfCid cid) g) part tg (sup && h == 0) 0 size va 0 with
      | some (t, r) => put r t
      | none => .next (s.remoteWaits id (coreOfCid cid) (s.farLoc part tg (sup && h == 0) va.toNat size .load))
  | some (.std cid h g sup va size v fill due none) =>
    let part := s.partOf g
    let (dev, tg) := s.handleTarget part g h
    let put (ok : Bool) (s : State) : Out := .next (s.refly id (.std cid h g sup va size v fill due (some ok)))
    if size = 0 ∨ s.unsent id then .next s
    else if dev ≠ s.devNum then put (Config.freeChoice id % 2 == 1) s
    else if ¬ s.linkRipe id cid then .next s
    else if s.wrongKey part tg then .next (s.containRemote tg id (.std cid h g sup va 0 v fill due none))
    else
      match s.remoteHere (some (coreOfCid cid)) (s.byCore (coreOfCid cid) g) part tg (sup && h == 0) (if fill then 2 else 1) size va v with
      | some (t, r) => put r.isSome t
      | none => .next (s.remoteWaits id (coreOfCid cid) (s.farLoc part tg (sup && h == 0) va.toNat size .store))
  | some (.remote part g op size va v) =>
    if s.wrongKey part g then .next ((s.land id).supRec (s.partOf g) ⟨xContainment, 0, 0, [g]⟩)
    else
      match s.remoteHere none (byFar id) part g false op size va v with
      | some (t, r) => .next ((t.land id).answerAway [r.getD 0, if r.isSome then 1 else 0])
      | none => .next s
  | _ => .next s

/-- The outcome of an LDD reaches its context: it becomes READY, or a stopped one forgets its block; it does not issue again (05 R112, R113, 24 R367). -/
def State.lddEnd (s : State) (cid : Nat) (r : Nat × Nat) : State :=
  (s.updCtx cid (fun c => { c with lddRes := some r, skipBkp := true })).wake cid

/-- LDD_ANSWER (24 R367). -/
def execLddAnswer (id : Nat) (s : State) : Out :=
  match s.flight id with
  | some (.ldd cid h g _ va _ due (some r)) =>
    let x := match r with
      | some v => (0, v)
      | none => (2, va.toNat)
    if (mget s.ctxs cid).isNone then .next (s.land id)
    else if due ≤ s.cycles then .next s
    else .next (((s.land id).lddEnd cid x).logLink cid g h va.toNat x.2)
  | _ => .next s

/-- LDD_TIMEOUT (24 R365): an answer that comes later is discarded. -/
def execLddTimeout (id : Nat) (s : State) : Out :=
  match s.flight id with
  | some (.ldd cid h _ _ _ _ due _) =>
    if s.cycles < due then .next s else .next ((s.land id).lddEnd cid (1, h))
  | _ => .next s

/-- REMOTE_STORE_TIMEOUT (24 R365): the store is a remote failure pending. -/
def execRemoteStoreTimeout (id : Nat) (s : State) : Out :=
  match s.flight id with
  | some (.std cid _ _ _ va _ _ _ due _) =>
    if s.cycles < due then .next s
    else .next ((s.land id).updCtx cid (fun c => { c with failures := c.failures ++ [va] }))
  | _ => .next s

/-! ## Flits (24 R356 to R359, R364) -/

/-- What an accepted flit brings for this device: an access, a contribution, a multicast item, a message or a bounce, a token, a request or a retirement of a learning group, an RFREE or the notice of one, with content that the spec leaves to the sender (log entry 10). -/
def State.inbound (s : State) : Cargo :=
  let f (i : Nat) : Nat := (Config.freeWord s.uid i).toNat
  match Config.freeChoice s.uid % 9 with
  | 0 => .remote (f 0 % 2 ^ 16) (f 1 % 2 ^ 32) (f 2 % 3) (if f 2 % 3 = 2 then 8 else if f 3 % 2 = 0 then 4 else 8) (toWord (f 4)) (f 5)
  | 1 => .contrib (s.devNum * 2 ^ 32 + f 0 % 2 ^ 32) (f 1 % 4096)
    { data := (upTo 2048).map (fun i => f (8 + i)), group := f 2 % 2 ^ 32, vc := f 3 % 2 ^ 13, dst := f 4 % 2 ^ 17,
      tag := f 5 % 2 ^ 32, cid := farCid, accepted := false, part := f 6 % 2 ^ 16, dev := f 7 % 2 ^ 18 }
  | 2 => .mcast (f 0) ((upTo 32).map (fun i => f (1 + i)))
  | 3 => .dbarTok 0 (f 0 % 2 ^ 32) (f 1 % 2 ^ 13) (f 2 % 2 ^ 12 * 32) (f 3 % 16) (f 4 % 256) (f 5 % 2 == 1) (f 6 % 2 ^ 16)
  | 4 => .bcastReq (f 0 % 2 ^ 32) farCid 0 (f 1 % 2 ^ 32)
  | 5 => .retire (f 0 % 2 ^ 32) (8192 + f 1 % 2 ^ 13) (f 2 % 2 ^ 32)
  | 6 => .rfree (f 0 % 2 ^ 50) (f 1 % 2 ^ 16) 0 farCid 0 none
  | _ =>
    let m : Msg :=
      { ddev := 0, dgrp := f 0 % 2 ^ 32, dvc := f 1 % 2 ^ 13, ring := f 2 % 16, h0 := f 3, h1 := f 4, h2 := f 5, h3 := f 6,
        payload := (upTo (f 4 / 2 ^ 48 % 2 ^ 8 % 225)).map (fun i => (Config.freeWord s.uid (16 + i)).setWidth 8),
        core := 0, cid := noCid }
    m.cargo false

/-- An accepted flit: what it brings arrives, or it is for another device and goes on by the routing table (01 R13). -/
def State.accept (s : State) : State :=
  let dev := Config.freeChoice (s.uid + 1) % 2 ^ 18
  if Config.freeChoice s.uid / 9 % 2 = 1 ∧ dev ≠ s.devNum then
    { s.sendFlits (s.routeTo dev) s.uid ((upTo 7).map (fun i => (Config.freeWord s.uid i).toNat)) with uid := s.uid + 2 }
  else s.fly s.inbound

/-- An answer to a data flit joins what waits for the outbound hank (24 R359). -/
def Link.respond (x : Link) (kind seq : Nat) : Link := { x with ctl := x.ctl ++ [⟨kind, seq, []⟩] }

/-- Wavelengths of a mask that carry the beats marked as failing, each once (24 R357, R359). -/
def failing (mask : List Nat) (bad : Nat) : List Nat := (((upTo 9).filter (fun j => bitAt bad j)).map (beatOn mask)).eraseDups

/-- DATA_FLIT_RECEIVE (24 R357, R359): `headOk` says that the header beat passes its check and `bad` marks the payload beats that fail theirs, beat 1 in bit 0; a flit with a failing beat is answered with a negative acknowledgement, and its failing wavelengths count an error each. One that passes is accepted in SEQ order and once. -/
def execDataFlitReceive (l seq : Nat) (headOk : Bool) (bad : Nat) (s : State) : Out :=
  let x := s.link l
  let mask := x.maskIn
  if linkCount ≤ l ∨ mask.isEmpty then .next s
  else
    let x := x.countIn
    let fs := failing mask ((if headOk then 0 else 1) + 2 * bitsOf bad 0 8)
    if ¬ fs.isEmpty then
      .next (s.setLink l ((fs.foldl (fun x i => x.error s.errt (8 + i)) x).respond 2 seq).go)
    else if seq ≠ x.seqIn then .next (s.setLink l x)
    else
      let x := { x with
        seqIn := (x.seqIn + 1) % 2 ^ 32
        flitsIn := (x.flitsIn + 1) % 2 ^ 64 }
      .next (s.setLink l (x.respond 1 seq).go).accept

/-- Flits of a replay buffer from a SEQ on. -/
def fromSeq (seq : Nat) : List Flit → List Flit
  | [] => []
  | x :: r => if x.seq = seq then x :: r else fromSeq seq r

/-- NACK_RECEIVE (24 R359): that flit and every later one are sent again, on the mask in force once the hank is up (24 R361); which wavelengths reached the other end's threshold, and retrain at both ends, the model leaves free. DEDUCED, log entry 88. -/
def execNackReceive (l seq : Nat) (s : State) : Out :=
  let x := s.link l
  let hit (i : Nat) : Bool := Config.freeChoice (s.uid + i) % 2 == 1
  if linkCount ≤ l ∨ x.maskIn.isEmpty then .next s
  else
    let x := x.countIn.change (fun x => (x.lit false).foldl (fun x i => if hit i then x.retrain i true else x) x)
    let x := { x with ctl := x.ctl ++ fromSeq seq x.replay }.go
    .next { s.setLink l x with uid := s.uid + 8 }

/-- ACK_RECEIVE (24 R359): the flits up to a SEQ leave the replay buffer. -/
def execAckReceive (l seq : Nat) (s : State) : Out :=
  let x := s.link l
  if linkCount ≤ l ∨ x.maskIn.isEmpty then .next s
  else
    let x := x.countIn
    match fromSeq seq x.replay with
    | [] => .next (s.setLink l x)
    | _ :: r => .next (s.setLink l { x with replay := r }.go)

/-- WIDTH_CONTROL_RECEIVE (24 R358, R360): the receiver takes the new mask. A wavelength that joins has reached lock or passed its training at both ends, so it is LIT; one that leaves is PARKED or RETRAINING, as the sender has it. DEDUCED, log entry 89. -/
def execWidthControlReceive (l mask : Nat) (s : State) : Out :=
  let y := s.link l
  let x := (upTo 8).foldl (fun (x : Link) i =>
    let w := x.st (8 + i)
    if bitAt mask i then (if w = .waking ∨ w = .retraining then x.setSt (8 + i) .lit else x)
    else if w = .lit then
      (if Config.freeChoice (s.uid + i) % 2 = 0 then x.setSt (8 + i) .parked else x.retrain (8 + i) true)
    else x) y.countIn
  .next (if l < linkCount ∧ ¬ y.maskIn.isEmpty then
      { s.setLink l { x with maskIn := (upTo 8).filter (fun i => bitAt mask i) } with uid := s.uid + 8 }
    else s)

end Sys2Proof.Machine
end

