-- ==== Sys2Proof/Machine/Reduce.lean ====
section
/-! DEFINITION. In-network reductions (24 R370 to R373): LNKCTL RNEW and RFREE, REDX (major 0x3E), and their steps. -/

namespace Sys2Proof.Machine

/-! ## Descriptors and handles (24 R370) -/

def Reduction.count (r : Reduction) : Nat := bitsOf (r.desc.getD 0 0) 32 16
def Reduction.n (r : Reduction) : Nat := bitsOf (r.desc.getD 0 0) 16 12
def Reduction.fan (r : Reduction) : Nat := 2 ^ (bitsOf (r.desc.getD 0 0) 4 2 + 1)
def Reduction.op (r : Reduction) : Nat := bitsOf (r.desc.getD 0 0) 0 4
def Reduction.rtmo (r : Reduction) : Nat := bitsOf (r.desc.getD 1 0) 0 32

/-- Bytes of an element. -/
def opBytes (op : Nat) : Nat := if op = 0 ∨ op = 2 ∨ op = 3 then 8 else 4

/-- Whether a descriptor is invalid (24 R370). -/
def badDesc (d : List Nat) : Bool :=
  let a := d.getD 0 0
  bitsOf a 48 16 != 0 || bitsOf a 28 4 != 0 || bitsOf a 6 10 != 0 || decide (5 < bitsOf a 0 4) ||
    decide (bitsOf a 32 16 < 1 ∨ 2048 < bitsOf a 32 16 ∨ bitsOf a 16 12 < 1) || bitsOf (d.getD 1 0) 32 32 != 0 ||
    (d.drop 3).any (fun x => x != 0)

/-- The reduction that a handle names at this device. -/
def State.reduction (s : State) (h : Nat) : Option Reduction :=
  match mget s.reductions (h % 1024) with
  | some r => if r.handle = h then some r else none
  | none => none

def State.setReduction (s : State) (r : Reduction) : State :=
  { s with reductions := mput s.reductions (r.handle % 1024) r }

/-- Holdings of a reduction are removed (21 R339). -/
def State.dropSlots (s : State) (h : Nat) : State :=
  { s with estate := s.estate.filter (fun e => !(e.2.kind == 4 && e.2.space == 2 && e.2.loc == h)) }

/-! ## Combining (24 R371) -/

/-- One combine. A NaN it creates has ORIGIN 0x1FFF. -/
def combine1 (op x y : Nat) : Nat :=
  let fx := decodeF f32 x
  let fy := decodeF f32 y
  match op with
  | 0 => (x + y) % 2 ^ 64
  | 1 => roundF f32 .rne (addVals .rne (mkNan 0x1FFF 0) [fx, fy])
  | 2 => if sint 64 y < sint 64 x then y else x
  | 3 => if sint 64 x < sint 64 y then y else x
  | 4 => roundF f32 .rne (minVal fx fy)
  | _ => roundF f32 .rne (maxVal fx fy)

/-- Elementwise combine. -/
def combineAll (op : Nat) (x y : List Nat) : List Nat := (x.zip y).map (fun p => combine1 op p.1 p.2)

/-- One level: runs of `f` values combined left to right; `k` values of the open run are already in `acc`. -/
def levelUp (op f : Nat) : List Nat → Nat → List (List Nat) → List (List Nat)
  | acc, _, [] => [acc]
  | acc, k, x :: r => if k = f then acc :: levelUp op f x 1 r else levelUp op f (combineAll op acc x) (k + 1) r

/-- Go up level by level until one value remains; a reduction of one slot makes no combine and returns its contribution unchanged. DESIGN CHOICE, log entry 129. -/
def reduceTree (op f : Nat) : Nat → List (List Nat) → List Nat
  | _, [] => []
  | _, [x] => x
  | 0, x :: _ => x
  | n + 1, x :: y :: r => reduceTree op f n (levelUp op f x 1 (y :: r))

/-- The result of a reduction whose slots have all contributed. -/
def Reduction.result (r : Reduction) : List Nat :=
  reduceTree r.op r.fan 12 (r.merged.map (fun m => m.2.data))

/-! ## Completion (24 R373) -/

/-- Little-endian bytes of elements. -/
def elemBytes (n : Nat) (xs : List Nat) : List Byte :=
  xs.flatMap (leBytes n)

/-- Contributions of strands of this device. -/
def Reduction.own (s : State) (r : Reduction) : List Contrib :=
  (r.merged.filter (fun m => ((r.slots.getD m.1 (0, 0, 0)).2.1) == s.devNum)).map (fun m => m.2)

/-- Other devices that have a slot, each once. -/
def Reduction.away (s : State) (r : Reduction) : List Nat := ((r.slots.map (fun x => x.2.1)).filter (fun d => d != s.devNum)).eraseDups

/-- Contributions of this device to a reduction that are still on their way. -/
def State.underWay (s : State) (r : Reduction) : List Contrib :=
  s.flights.filterMap (fun f => match f.cargo with
    | .contrib h _ c => if h = r.handle ∧ c.cid ≠ farCid then some c else none
    | _ => none)

/-- Where the doublewords of `n` bytes of result land for a contributor (05 R100, 24 R373). -/
def State.resultAt (s : State) (c : Contrib) (n : Nat) : List Far :=
  (upTo ((n + 7) / 8)).map (fun i => s.niPlace c.group c.vc (c.dst + 8 * i) (min 8 (n - 8 * i)))

/-- Whether every contributor here stands where its result and record can be delivered: placed, no footprint on its way over its DST, with room in its event queue. -/
def State.canDeliver (s : State) (r : Reduction) : Bool :=
  (r.own s ++ s.underWay r).all (fun c =>
    (s.member c.group c.vc).pst != 1 && (s.member c.group c.vc).pst != 2 && (s.evqPut c.cid (0, 0)).isSome &&
      !(s.resultAt c (r.count * opBytes r.op)).contains .wait)

/-- A completion record with a status and the number merged (20 R337, 24 R373). -/
def Contrib.record (c : Contrib) (status n : Nat) : Nat × Nat :=
  (c.tag * 2 ^ 32 + slotOfCid c.cid * 256 + status, n)

/-- A contributor's record, where its context is still there. -/
def State.tellContrib (s : State) (c : Contrib) (status n : Nat) : State :=
  match mget s.ctxs c.cid with
  | some x => if x.group = c.group then (s.evqPut c.cid (c.record status n)).getD s else s
  | none => s

/-- The result at a contributor's DST, as engine writes, unless it has gone or its queue area refuses them; bytes that have left with a strand go after it (05 R100, 08 R170, 16 R285, 24 R373). -/
def State.putResult (s : State) (c : Contrib) (bs : List Byte) : State :=
  let m := s.member c.group c.vc
  if m.pst ≠ 0 ∨ s.areaAt m.pcore c.dst bs.length then s
  else
    let at_ := s.resultAt c bs.length
    (at_.zip (upTo at_.length)).foldl (fun t x =>
      match x.1 with
      | .to (.spad k o) =>
        let b := (bs.drop (8 * x.2)).take 8
        (t.engineBytes k o b).logWrite k rxWrite (t.byMember 0 0) o true b
      | _ => t) s

/-- The last contribution: each slot's DST is written, then its record; the holdings go, and the result for contributors elsewhere leaves on the multicast tree that the host wrote for the reduction, or on the links to their devices (24 R364, R373, 21 R339). DESIGN CHOICE, log entry 149. -/
def State.finishReduction (s : State) (r : Reduction) : State :=
  let bs := elemBytes (opBytes r.op) r.result
  let st := if r.brv then 8 else 0
  let s := (r.own s).foldl (fun s c => (s.putResult c bs).tellContrib c st r.merged.length) s
  let body := [8, r.handle, st, r.merged.length] ++ r.result
  let s := if (r.away s).isEmpty ∨ (mget s.mtrees r.handle).isNone then (r.away s).foldl (fun s d => s.sendTo (s.devCode d) s.uid body) s
    else s.fly (.mcast r.handle body)
  ({ s with uid := s.uid + 1 }.setReduction { r with state := .done }).dropSlots r.handle

/-- Abandoned: every DST is untouched, the surviving contributors' records say so with the number merged, those of contributions still on their way too (24 R373, 21 R347). -/
def State.abandon (s : State) (r : Reduction) : State :=
  let s := (r.own s ++ s.underWay r).foldl (fun s c => s.tellContrib c 9 r.merged.length) s
  let s := { s with flights := s.flights.filter (fun f => match f.cargo with
    | .contrib h _ c => h != r.handle || c.cid == farCid
    | _ => true) }
  let s := (r.away s).foldl (fun s d => s.sendTo (s.devCode d) s.uid [8, r.handle, 9, r.merged.length]) s
  { s with uid := s.uid + 1 }.setReduction { r with
    state := .abandoned
    merged := [] }

/-! ## LNKCTL RNEW and RFREE (24 R368) -/

/-- A slot table entry: group, device, member (24 R370). -/
def slotEntry (x : Nat) : Nat × Nat × Nat := (bitsOf x 32 32, bitsOf x 13 18, bitsOf x 0 13)

/-- Refusal of LNKCTL and REDX. -/
def refusal (a : BitVec 4) (k : Nat) (s : State) : Out := done (s.setW a (toWord (2 ^ 63 + k)))

/-- RNEW (24 R368, R370). DEDUCED, log entry 90. -/
def execLnkctlRnew (a b _c : BitVec 4) (s : State) : Out :=
  reading [b] s fun s =>
    let addr := (s.w b).toNat
    let ok : Bool := match rngOf addr with
      | .loc _ | .user => true
      | _ => false
    if addr % 64 ≠ 0 then trap s xMisalign (toWord addr)
    else
      loading addr 8 s fun d s =>
        let slots := d.getD 2 0
        if ¬ ok ∨ badDesc d ∨ slots % 8 ≠ 0 ∨ rngOf slots ≠ .user then refusal a 1 s
        else
          loading slots (bitsOf (d.getD 0 0) 16 12) s fun t s =>
            if t.any (fun x => bitAt x 31) then refusal a 1 s
            else
              match pick (fun i => (mget s.reductions i).isNone) (upTo 1024) with
              | none => refusal a 2 s
              | some i =>
                let gen := (Config.freeChoice 0 + s.uid) % (2 ^ 22 - 1) + 1
                let h := s.devNum % 2 ^ 18 * 2 ^ 32 + gen * 1024 + i
                let g := s.cx.group
                let r : Reduction :=
                  { handle := h, part := s.partOf g, group := g, desc := d, state := .opened, merged := [],
                    slots := t.map slotEntry, brv := false, ran := 0 }
                done ({ s.setReduction r with uid := s.uid + 1 }.setW a (toWord h))

/-- A reduction's entry is free and its holdings go, those at other devices once they hear of it (24 R373). -/
def State.freeReduction (s : State) (r : Reduction) : State :=
  let s := (r.away s).foldl (fun s d => s.sendTo (s.devCode d) s.uid [14, r.handle]) s
  { s with
    uid := s.uid + 1
    reductions := mdel s.reductions (r.handle % 1024) }.dropSlots r.handle

/-- What the owner engine does with RFREE: the state and the refusal's code, 0 for none; nothing yet while an abandonment cannot be delivered (24 R368, R373). -/
def State.rfreeAt (s : State) (part h : Nat) : Option (State × Nat) :=
  match s.reduction h with
  | none => some (s, 1)
  | some r =>
    if r.part ≠ part then some (s, 1)
    else if r.state = .opened then (if s.canDeliver r then some (s.abandon r, 0) else none)
    else some (s.freeReduction r, 0)

/-- RFREE (24 R368, R373); it names the reduction, so a marked holding of it raises X_BEREAVED (21 R344). For a handle of another device the strand holds until that device answers (24 R361). DESIGN CHOICE, log entry 10. -/
def execLnkctlRfree (a b c : BitVec 4) (s : State) : Out :=
  match s.cx.call with
  | some k =>
    let t := s.setCx { s.cx with call := none }
    (match k.answers with
     | (_, some 0) :: _ => done ((t.noteBrv (some (2, (s.w b).toNat)) (s.w b)).setW a 0)
     | (_, some x) :: _ => refusal a x t
     | _ => stall s)
  | none =>
    reading [b] s fun s =>
      let h := (s.w b).toNat
      let part := s.partOf s.cx.group
      if bitsOf h 50 14 ≠ 0 then operandTrapOf s (encS 0x3E 3 a b c 1)
      else if h / 2 ^ 32 ≠ s.devNum then
        .next ((s.setCx { s.cx with call := some ⟨s.uid, [(0, none)], false, 0⟩ }).flyTo (s.devCode (h / 2 ^ 32)) [13, h, part]
          (.rfree h part s.cx.group s.cur s.uid none))
      else
        match (s.noteBrv (some (2, h)) (toWord h)).rfreeAt part h with
        | none => stall s
        | some (t, 0) => done (t.setW a 0)
        | some (_, k) => refusal a k s

/-! ## REDX (24 R372) -/

/-- Whether a slot has contributed: merged, or its contribution set out before the item `upto`. -/
def State.contributed (s : State) (r : Reduction) (slot upto : Nat) : Bool :=
  (mget r.merged slot).isSome || s.flights.any (fun f => decide (f.id < upto) && (match f.cargo with
    | .contrib h k _ => h == r.handle && k == slot
    | _ => false))

/-- Refusal of a contribution by its owner engine, 0 for none (24 R372). -/
def State.redxCode (s : State) (h slot upto : Nat) (c : Contrib) : Nat :=
  match s.reduction h with
  | none => 1
  | some r =>
    if r.part ≠ c.part then 1
    else if r.state ≠ .opened then 2
    else if r.slots[slot]? ≠ some (c.group, c.dev, c.vc) then 3
    else if s.contributed r slot upto then 4
    else 0

/-- An accepted contribution: its holding, and the data on their way (24 R372, 21 R339). -/
def State.contribute (s : State) (h slot : Nat) (c : Contrib) : State :=
  let u := ((s.register c.group 4 0 (2, h)).1).endFwd s.cur
  (u.flyTo (s.devCode (h / 2 ^ 32)) ([7, h, slot, c.group, c.vc] ++ c.data) (.contrib h slot c)).noteBrv (some (2, h)) (toWord h)

/-- COUNT and the element size of a reduction; of one at another device this engine knows them, the model does not (24 R372). DESIGN CHOICE, log entry 10. -/
def State.shape (s : State) (h : Nat) (away : Bool) : Nat × Nat :=
  match s.reduction h with
  | some r => (r.count, opBytes r.op)
  | none => if away then (1 + Config.freeChoice s.uid % 2048, if Config.freeChoice (s.uid + 1) % 2 = 0 then 4 else 8) else (0, 8)

/-- REDX (24 R372). A reduction of another device is that device's to judge (log entry 10). -/
def execRedx (a b c : BitVec 4) (imm : BitVec 6) (s : State) : Out :=
  reading [b] s fun s =>
    let p := (s.w b).toNat
    if p % 32 ≠ 0 then trap s xMisalign (toWord p)
    else if 0x20000 ≤ p then trap s xAccess (toWord p)
    else if s.localHeld true false [(p, 32)] ∨ ¬ s.drained s.cur true then stall s
    else
      match s.badS s.here p 32 with
      | some x => trap s xEcc (toWord x)
      | none =>
        let h := s.rdS s.here p 8
        let src := bitsOf (s.rdS s.here (p + 8) 8) 0 17
        let dst := bitsOf (s.rdS s.here (p + 8) 8) 32 17
        let slot := bitsOf (s.rdS s.here (p + 16) 8) 0 12
        let away := decide (h < 2 ^ 50 ∧ h / 2 ^ 32 ≠ s.devNum)
        let (count, size) := s.shape h away
        let n := count * size
        if bitsOf (s.rdS s.here (p + 16) 8) 12 52 ≠ 0 then operandTrapOf s (encS 0x3E 2 a b c imm)
        else if src % 8 ≠ 0 then trap s xMisalign (toWord src)
        else if dst % 8 ≠ 0 then trap s xMisalign (toWord dst)
        else if 0x20000 < src + n then trap s xAccess (toWord src)
        else if 0x20000 < dst + n then trap s xAccess (toWord dst)
        else if (inArea s.mem.qbase dst n).isSome then trap s xAccess (toWord ((inArea s.mem.qbase dst n).getD 0))
        else
          match (if n = 0 then none else s.badS s.here src n) with
          | some x => trap s xEcc (toWord x)
          | none =>
            if s.localHeld true false [(src, n)] ∨ 64 ≤ s.classS s.cur then stall s
            else
              watched true false [(p, 32), (src, n)] s fun s =>
                let s := s.softRead s.here (.spad s.here p) 32
                let s := if n = 0 then s else s.softRead s.here (.spad s.here src) n
                let x := s.cx
                let tag := bitsOf (s.rdS s.here (p + 24) 8) 0 32
                let data := (upTo count).map (fun i => s.rdS s.here (src + size * i) size)
                let k : Contrib :=
                  { data := data, group := x.group, vc := x.vcore, dst := dst, tag := tag, cid := s.cur, accepted := false,
                    part := s.partOf x.group, dev := s.devNum }
                if away then
                  let q := Config.freeChoice s.uid % 5
                  let u := { s with uid := s.uid + 2 }
                  if q = 0 then done ((u.contribute h slot k).setW a 0) else refusal a q u
                else
                  match s.redxCode h slot s.uid k with
                  | 0 => done ((s.contribute h slot k).setW a 0)
                  | q => refusal a q s

/-- A contribution to a reduction at another device: once its flits have gone out the owner engine accepts it, which ends its class S; then the outcome comes back: a result, with which the holding goes, or the abandonment, after which it stays until RFREE (24 R372, R373, 21 R339). DESIGN CHOICE, log entry 10. -/
def State.contribAway (s : State) (id h slot : Nat) (c : Contrib) : State :=
  if s.unsent id then s
  else if ¬ c.accepted then s.refly id (.contrib h slot { c with accepted := true })
  else if (s.evqPut c.cid (0, 0)).isNone ∨ (s.member c.group c.vc).pst = 1 ∨ (s.member c.group c.vc).pst = 2 then s
  else
    let f (i : Nat) : Nat := (Config.freeWord s.uid i).toNat
    let st := [0, 8, 9].getD (Config.freeChoice s.uid % 3) 9
    let s := { s.land id with uid := s.uid + 1 }
    let t := if st = 9 then s else s.putResult c (elemBytes (if f 0 % 2 = 0 then 4 else 8) ((upTo c.data.length).map (fun i => f (2 + i))))
    let t := t.tellContrib c st (f 1 % 4096)
    if st = 9 then t
    else
      { t with
        estate := t.estate.filter (fun e => !(e.2.kind == 4 && e.2.space == 2 && e.2.loc == h && (e.2.holder == c.group || e.2.former == c.group))) }

/-- What the owner engine answers another device's contribution; the strands here had their answer when they contributed (24 R372). DESIGN CHOICE, log entry 10. -/
def State.redAnswer (s : State) (c : Contrib) (code : Nat) : State :=
  if c.cid ≠ farCid then s else s.answerAway [if code = 0 then 0 else 2 ^ 63 + code]

/-- An RFREE under way: the answer reaches its strand; the owner engine here acts and answers; a handle of another device goes there, where the model leaves the outcome free, and a notice from there takes the holdings away (24 R361, R368, R373). DESIGN CHOICE, log entry 10. -/
def State.rfreeGoes (s : State) (id h part group cid call : Nat) (answer : Option Nat) : State :=
  match answer with
  | some x => ((s.land id).answer cid call 0 x).logRx (coreOfCid cid) rxAnswer (byFar id) x []
  | none =>
    if h / 2 ^ 32 = s.devNum then
      match s.rfreeAt part h with
      | some (t, k) => (t.land id).answerAway [if k = 0 then 0 else 2 ^ 63 + k]
      | none => s
    else if cid = farCid then (s.land id).dropSlots h
    else if s.unsent id then s
    else
      let q := Config.freeChoice s.uid % 3
      let t := if q = 2 then s.dropSlots h else s
      { t.refly id (.rfree h part group cid call (some (if q = 0 then 1 else 0))) with uid := s.uid + 1 }

/-- REDUCTION_CONTRIBUTION (24 R372, R373): the owner engine merges a contribution that it does not refuse, and the last one completes the reduction; or an RFREE goes on. -/
def execReductionContribution (id : Nat) (s : State) : Out :=
  match s.flight id with
  | some (.contrib h slot c) =>
    if h / 2 ^ 32 ≠ s.devNum then .next (s.contribAway id h slot c)
    else
      match s.redxCode h slot id c, s.reduction h with
      | 0, some r =>
        let r := { r with merged := mput r.merged slot { c with data := c.data.take r.count } }
        if r.merged.length < r.n then .next (((s.land id).redAnswer c 0).setReduction r)
        else if ¬ s.canDeliver r then .next s
        else .next (((s.land id).redAnswer c 0).finishReduction r)
      | k, _ => .next ((s.land id).redAnswer c k)
  | some (.rfree h part g cid call ans) => .next (s.rfreeGoes id h part g cid call ans)
  | _ => .next s

/-- Whether a slot's device has failed, or a contributor there has been killed without a valid heir: other devices are the environment, which may find so of any slot of theirs (21 R347, 24 R373). DESIGN CHOICE, log entry 10. -/
def State.deviceFailed (s : State) (r : Reduction) : Bool :=
  r.slots.any (fun x => x.2.1 != s.devNum) && Config.freeChoice s.uid % 2 == 1

/-- A contributor at another device may have been killed, and its slot passes to a valid heir there; that the environment says (24 R373, 21 R347). DESIGN CHOICE, log entry 10. -/
def State.passFar (s : State) (r : Reduction) : State :=
  let i := Config.freeChoice (s.uid + 1) % max 1 r.slots.length
  match r.slots[i]? with
  | some (_, d, _) =>
    if d ≠ s.devNum ∧ Config.freeChoice (s.uid + 2) % 2 = 1 then
      { s.setReduction { r with
          brv := true
          slots := modAt (fun _ => ((Config.freeChoice (s.uid + 3) % 2 ^ 32, d, 0) : Nat × Nat × Nat)) r.slots i } with uid := s.uid + 4 }
    else { s with uid := s.uid + 4 }
  | none => s

/-- REDUCTION_TIMEOUT (24 R373): the timeout from the first contribution has run, or a slot's device has failed; a slot of another device may pass to an heir. -/
def execReductionTimeout (h : Nat) (s : State) : Out :=
  match s.reduction h with
  | none => .next s
  | some r =>
    let late := decide (r.merged ≠ [] ∧ r.rtmo ≠ 0 ∧ r.rtmo ≤ r.ran)
    if r.state ≠ .opened then .next s
    else if ¬ (late ∨ s.deviceFailed r) then .next (s.passFar r)
    else if ¬ s.canDeliver r then .next { s with uid := s.uid + 1 }
    else .next (s.abandon r)

/-! ## The end of a contributor's group (21 R346, R347) -/

/-- Change the contributions to a reduction that have not come to their end, merged or on their way. -/
def State.mapContribs (s : State) (f : Nat → Contrib → Contrib) : State :=
  { s with
    reductions := s.reductions.map (fun (r : Nat × Reduction) =>
      (r.1, { r.2 with merged := r.2.merged.map (fun (m : Nat × Contrib) => (m.1, f r.2.handle m.2)) }))
    flights := s.flights.map (fun x => match x.cargo with
      | .contrib h k c => ⟨x.id, .contrib h k (f h c)⟩
      | _ => x) }

/-- A strand is known by another name from here on: its contributions follow it (24 R373). -/
def State.renameContribs (s : State) (old new : Nat) : State :=
  s.mapContribs (fun _ c => if c.cid = old then { c with cid := new } else c)

/-- The slots of a group pass to its heir, with what it has contributed: the result and the record then go to the heir's VCORE 0 (24 R373). DEDUCED, log entry 91. -/
def State.passSlots (s : State) (h old heir : Nat) (brv : Bool) : State :=
  let s := s.mapContribs (fun k c => if k = h ∧ c.group = old ∧ c.cid ≠ farCid then
    { c with
      group := heir
      vc := 0
      cid := ((s.ctxs.filter (fun p => p.2.group == heir && p.2.vcore == 0 && !isCopy p.1)).map (fun p => p.1)).headD noCid }
    else c)
  match s.reduction h with
  | none => s
  | some r =>
    if r.state ≠ .opened then s
    else
      s.setReduction { r with
        brv := r.brv || brv
        slots := r.slots.map (fun x => if x.1 = old ∧ x.2.1 = s.devNum then (heir, x.2.1, 0) else x) }

/-- Reductions that still wait for a contribution of a group: they are abandoned when it ends (24 R373). -/
def State.awaiting (s : State) (g : Group) : List Reduction :=
  (s.reductions.map (fun r => r.2)).filter (fun r => r.state == .opened &&
    (r.slots.zip (upTo r.slots.length)).any (fun x =>
      x.1.1 == g.handle && x.1.2.1 == s.devNum && !s.contributed r x.2 s.uid))

end Sys2Proof.Machine
end

