-- ==== Sys2Proof/Machine/Pipe.lean ====
section
/-! DEFINITION. Pipelines (25 R374 to R382): PBIND, PUNBIND, PSTAT (major 0x3E minors 4 to 6), relays, sources and the conveyance of stages. -/

namespace Sys2Proof.Machine

/-! ## The pipeline table -/

/-- The pipeline that holds stage `i` for a pipeline: the one whose attach list has it (25 R380). -/
def State.holderPipe (s : State) (h i : Nat) : Option Pipeline :=
  (pick (fun p => (p.2.stage i).attached.contains h && !(p.2.stage i).ended) s.pipelines).map (fun p => p.2)

/-- Whether two records are the same stage of one partition (25 R375). DEDUCED, log entry 92. -/
def sameStage (a b : Stage) : Bool := a.rec_.take 4 == b.rec_.take 4 && bitAt (a.rec_.getD 4 0) 31 && bitAt (b.rec_.getD 4 0) 31

/-- Length of the common prefix of two stage lists (25 R378). -/
def prefixLen (s : State) (q : Pipeline) : List Stage → Nat → Nat
  | [], _ => 0
  | a :: r, i =>
    if i < q.stages.length ∧ sameStage a (q.stage i) ∧ (s.holderPipe q.handle i).isSome then 1 + prefixLen s q r (i + 1) else 0

/-- Whether two pipelines have one source and partition (25 R375, R378). -/
def sameSource (p q : Pipeline) : Bool := p.part == q.part && p.srck == q.srck && p.srcid == q.srcid

/-- Pipelines of a source. -/
def State.sharers (s : State) (p : Pipeline) : List Pipeline :=
  (s.pipelines.map (fun x => x.2)).filter (fun q => sameSource p q)

/-- The pipeline of the longest common prefix, the earliest attached among equals, with that length (25 R378). -/
def State.bestPrefix (s : State) (p : Pipeline) : Option (Pipeline × Nat) :=
  (s.sharers p).foldl (fun b q =>
    let n := prefixLen s q p.stages 0
    match b with
    | none => some (q, n)
    | some (x, m) => if m < n ∨ (m = n ∧ q.seq < x.seq) then some (q, n) else b) none

/-! ## Deposits of relays and sources (25 R376, R377) -/

/-- A message for a ring, made from slot bytes given as header doublewords and payload. -/
def slotMsg (g v n : Nat) (h0 h1 h2 h3 : Nat) (payload : List Byte) : Msg :=
  { ddev := 0, dgrp := g, dvc := v, ring := n, h0 := h0, h1 := h1, h2 := h2, h3 := h3, payload := payload, core := 0, cid := noCid }

/-- The message that stands in slot `i` of a ring. -/
def State.slotAt (s : State) (core f i g v n : Nat) : Msg :=
  let a := slotAddr f i
  let h1 := s.rdS core (a + 8) 8
  slotMsg g v n (s.rdS core a 8) h1 (s.rdS core (a + 16) 8) (s.rdS core (a + 24) 8)
    (readBytes s.spad (spadKey core (a + 32)) (min 224 (bitsOf h1 48 8)))

/-- What became of a copy that was handed to a successor: the state, whether the successor has accepted it, and whether it is there for its consumer. -/
structure Handed where
  state : State
  took : Bool
  there : Bool

/-- Whether a ring is an input or output ring of a stage that its group holds and, having ended, is to pass on: what stands there waits for the stage (25 R380). -/
def State.passing (s : State) (h v n : Nat) : Bool :=
  (s.grp h).any ended &&
    s.pipelines.any (fun p => p.2.group == h && p.2.stages.any (fun g =>
      !g.attached.isEmpty && !g.ended && g.vc == v && (g.inRing == n || g.outRing == n)))

/-- The stage whose input ring a ring is. -/
def State.stageAt (s : State) (h v n : Nat) : Option Stage :=
  ((s.pipelines.filter (fun p => p.2.group == h)).map (fun p => p.2.stages)).flatten.find? (fun g =>
    !g.attached.isEmpty && !g.ended && g.vc == v && g.inRing == n)

/-- Fate of a copy (16 R298, R300): a message's, but a stage's ring keeps its items where the member has exited and its group lives, so that the relays before it stall once it is full (25 R379). -/
def State.fateCopy (s : State) (m : Msg) : Fate :=
  match s.grp m.dgrp with
  | some g =>
    let mem := s.member m.dgrp m.dvc
    if mem.pst = 3 ∧ ¬ ended g ∧ (s.stageAt m.dgrp m.dvc m.ring).isSome then
      if s.bound mem m.ring then s.fateAtRing g.part mem m.ring m else .wait
    else s.fate m
  | none => s.fate m

/-- Hand a copy to a ring (16 R298, R300): a full ring refuses it, which REFUSED counts, an absent one bounces it, and an heir's ring takes it in the place of the one that named the heir. -/
def State.handNow (s : State) (m : Msg) : Nat → Handed
  | 0 => ⟨s, false, false⟩
  | n + 1 =>
    match s.fateCopy m with
    | .deposit d f => ⟨s.deposit m.dgrp m.dvc d f m, true, true⟩
    | .contain => ⟨s.toSupervisor (s.msgPart m) xContainment m, true, false⟩
    | .overflow =>
      match s.grp m.dgrp with
      | some g => ⟨s.setGrp { g with overflow := g.overflow ++ [m] }, true, false⟩
      | none => ⟨s, false, false⟩
    | .unplaced =>
      match s.grp m.dgrp with
      | some g => ⟨s.setGrp { g with unplaced := g.unplaced ++ [m] }, true, false⟩
      | none => ⟨s, false, false⟩
    | .refuse => ⟨s.countRefusal m, false, false⟩
    | .wait => ⟨s, false, false⟩
    | .heir h => s.handNow { (m.withStat 2) with dgrp := h, dvc := 0 } n
    | .bounce k =>
      let b := s.back m k
      ⟨((s.countBounce m).flyFrom (some (s.member m.dgrp m.dvc).pcore) (.bounce b false)).sendTo b.ddev s.uid b.words, true, false⟩

/-- Hand a copy to a successor's ring: one that a stage is about to leave takes none, and one whose stage still has input of its former holder takes that first (25 R380). -/
def State.hand (s : State) (m : Msg) (n : Nat) : Handed :=
  if s.passing m.dgrp m.dvc m.ring ∨ (s.stageAt m.dgrp m.dvc m.ring).any (fun g => !g.inWait.isEmpty) then ⟨s, false, false⟩
  else s.handNow m n

/-- Where stage `i`'s output goes for one attached pipeline: its next stage's ring, or its sink (25 R376). -/
def State.successor (s : State) (h i : Nat) : Option (Nat × Nat × Nat) :=
  (s.pipe h).bind (fun p =>
    if i + 1 = p.stages.length then some (p.group, p.svc, p.sring)
    else (s.holderPipe h (i + 1)).map (fun q => (q.group, (q.stage (i + 1)).vc, (q.stage (i + 1)).inRing)))

/-- The successors of a stage, each once. -/
def State.successors (s : State) (g : Stage) (i : Nat) : List (Nat × Nat × Nat) :=
  (g.attached.filterMap (fun h => s.successor h i)).eraseDups

/-- Hand a copy to those of some rings that take it now; the ones that have it, and the ones where it is there for its consumer. -/
def State.handAll (s : State) (mk : Nat × Nat × Nat → Msg) (rs : List (Nat × Nat × Nat)) :
    State × List (Nat × Nat × Nat) × List (Nat × Nat × Nat) :=
  rs.foldl (fun (p : State × List (Nat × Nat × Nat) × List (Nat × Nat × Nat)) r =>
    let x := p.1.hand (mk r) 4
    (x.state, if x.took then p.2.1 ++ [r] else p.2.1, if x.there then p.2.2 ++ [r] else p.2.2)) (s, [], [])

/-- Whether an Ethernet port is UP; one that is DOWN, and a number of no port, carries nothing (01 R14, 29 R413). -/
def State.portUp (s : State) (port : Nat) : Bool := decide (port < 4) && mgetD s.ports port true

/-- Whether a pipeline's source can bring an item from a port: an ingress stream comes in at its port while that is UP; a link stream comes in on a multicast tree (01 R14, 24 R364, 25 R374). -/
def State.sourceUp (s : State) (p : Pipeline) : Bool :=
  p.srck == 1 && s.portUp (((mget s.parts p.part).map (fun x => mgetD x.streams p.srcid 4)).getD 4)

/-- The first stages of a source's pipelines, each once. -/
def State.firstStages (s : State) (p : Pipeline) : List (Nat × Nat × Nat) :=
  ((s.sharers p).filterMap (fun q => (s.holderPipe q.handle 0).map (fun x =>
    (x.group, (x.stage 0).vc, (x.stage 0).inRing)))).eraseDups

/-- A source's item goes to each first stage that takes it; once every one has it the next may come (25 R376). -/
def State.sourceForward (s : State) (p : Pipeline) (item : List Byte) (has : List (Nat × Nat × Nat)) : State :=
  let rs := s.firstStages p
  let mk (r : Nat × Nat × Nat) : Msg :=
    slotMsg r.1 r.2.1 r.2.2 (dwOf item 0) (dwOf item 1) (dwOf item 2) (dwOf item 3) ((item.drop 32).take 224)
  let (t, got, _) := s.handAll mk (rs.filter (fun r => !has.contains r))
  let has := has ++ got
  let all := rs.all (fun r => has.contains r)
  (s.sharers p).foldl (fun t q => t.updPipe q.handle (fun q =>
    { q with
      srcWait := if all then none else some (item, has)
      srcNext := if all then (q.srcNext + 1) % 2 ^ 32 else q.srcNext })) t

/-- A slot's message on its way to a ring, as a copy of a stage's relay. -/
def Msg.copyTo (m : Msg) (h i : Nat) (r : Nat × Nat × Nat) : Msg :=
  { m with dgrp := r.1, dvc := r.2.1, ring := r.2.2, cid := relayCid h i }

/-- The item that a stage's relay outputs next: what a former holder has left, else the oldest slot of its OUT ring; none while the member is away (25 R376, R380). -/
def State.relayItem (s : State) (p : Pipeline) (g : Stage) : Option Msg :=
  match g.outWait with
  | x :: _ => some x
  | [] =>
    let m := s.member p.group g.vc
    match m.ring g.outRing with
    | some (d, f) =>
      if m.pst = 1 ∨ m.pst = 2 ∨ ¬ s.bound m g.outRing ∨ s.ringCount m.pcore d = 0 then none
      else some (s.slotAt m.pcore f (s.ringHead m.pcore d) 0 0 0)
    | none => none

/-- Every successor has the item: it leaves what a former holder has left, or HEAD moves (25 R376). -/
def State.relayDone (s : State) (p : Pipeline) (h i : Nat) (g : Stage) : State :=
  let next (s : State) : State := s.updStage h i (fun g =>
    { g with
      nextOut := (g.nextOut + 1) % 2 ^ 32
      sent := []
      outWait := g.outWait.drop 1 })
  let m := s.member p.group g.vc
  match g.outWait, m.ring g.outRing with
  | [], some (d, f) =>
    let slot := slotAddr f (s.ringHead m.pcore d)
    next ((((s.niRead m.pcore (d + 8) 8).niRead m.pcore slot 256).bumpQ m.pcore (d + 8)).noteGiven m.pcore slot)
  | _, _ => next s

/-- Input that a former holder has left goes to the stage's ring, one slot at a time (25 R380). -/
def State.relayInput (s : State) (p : Pipeline) (h i : Nat) (g : Stage) : State :=
  match g.inWait with
  | [] => s
  | m :: r =>
    let x := s.handNow { m with dgrp := p.group, dvc := g.vc, ring := g.inRing } 4
    if x.took then x.state.updStage h i (fun g => { g with inWait := r }) else x.state

/-- RELAY_FORWARD (25 R376): the oldest item of a relay goes to each successor that takes it; once every one has it, HEAD moves. A stage number past the last names the pipeline's source, whose item goes on to the first stages that lack it. -/
def execRelayForward (h i : Nat) (s : State) : Out :=
  match s.pipe h with
  | none => .next s
  | some p =>
    if p.stages.length ≤ i then
      .next (match p.srcWait with
        | some w => s.sourceForward p w.1 w.2
        | none => s)
    else
      let g := p.stage i
      if g.attached.isEmpty ∨ g.ended ∨ (s.grp p.group).any ended then .next s
      else
        let s := s.relayInput p h i g
        match s.relayItem p g with
        | none => .next s
        | some x =>
          let all := s.successors g i
          let (t, got, there) := s.handAll (fun r => x.copyTo h i r) (all.filter (fun r => !g.sent.contains r))
          let t := t.countSinks g i there 1
          let sent := g.sent ++ got
          if all.all (fun r => sent.contains r) then .next (t.relayDone p h i g)
          else .next (t.updStage h i (fun g => { g with sent := sent }))

/-- SOURCE_ITEM (25 R376): an item of an ingress stream goes to the first stage of each pipeline of the source; one that all of them have not yet taken holds the next back. -/
def execSourceItem (h : Nat) (item : List Byte) (s : State) : Out :=
  match s.pipe h with
  | none => .next s
  | some p => .next (if s.sourceUp p ∧ p.srcWait.isNone then s.sourceForward p item [] else s)

/-! ## Multicast (24 R364) -/

/-- The sources of pipelines that a tree's stream is: each once, as the pipeline of it that was attached first (25 R374, R376). DESIGN CHOICE, log entry 93. -/
def State.treeSources (s : State) (tree : Nat) : List Pipeline :=
  (s.pipelines.map (fun p => p.2)).filter (fun p => p.srck == 2 && p.srcid == tree && (s.sharers p).all (fun q => decide (p.seq ≤ q.seq)))

/-- Whether every link-stream source of a tree can take its next item. -/
def State.treeOpen (s : State) (tree : Nat) : Bool := (s.treeSources tree).all (fun p => p.srcWait.isNone)

/-- An item's bytes. -/
def itemBytes (data : List Nat) : List Byte := data.flatMap (fun x => leBytes 8 x)

/-- The members that a learning group whose root is elsewhere has here: resident ones, and those in the images of SAVED groups (12 R246, R256). -/
def State.learners (s : State) (tree : Nat) : List (Nat × Nat) :=
  let of (c : Ctx) : Bool := c.get 0x043 == toWord tree && tree != 0
  (s.ctxs.filter (fun p => of p.2)).map (fun p => (p.2.group, p.2.vcore)) ++
    s.groups.flatMap (fun g => g.2.images.flatMap (fun x =>
      (x.extra.filter (fun k => decide (k.1 < 8) && of k.2)).map (fun _ => (g.2.handle, x.vcore))))

/-- A multicast item at this device: where the tree is that of a learning group whose root is elsewhere, each member here gets the broadcast; a pipeline whose source is the tree's stream gets the item (12 R246, 24 R364, 25 R376). DESIGN CHOICE, log entry 10. -/
def State.mcastHere (s : State) (tree : Nat) (data : List Nat) : State :=
  let s := (s.treeSources tree).foldl (fun s p => s.sourceForward p (itemBytes data) []) s
  if (mget s.learn (tree % 4096)).any (fun g => g.handle == tree) then s
  else (s.learners tree).foldl (fun s x => s.fly (.bcast tree x.1 x.2 (data.getD 1 0 % 2 ^ 32) (data.getD 2 0 % 2 ^ 32))) s

/-- MULTICAST_FORWARD (24 R364): a copy goes to every outgoing link of the tree, and to what this device has of the tree's receivers; items of one tree keep their order, and one that a pipeline cannot take yet holds the next back (25 R376). -/
def execMulticastForward (id : Nat) (s : State) : Out :=
  match s.flight id with
  | some (.mcast tree data) =>
    let first := pick (fun f => match f.cargo with
      | .mcast t _ => t == tree
      | _ => false) s.flights
    let m := mgetD s.mtrees tree 0
    if first.any (fun f => f.id != id) ∨ ¬ s.treeOpen tree then .next s
    else
      .next ((upTo linkCount).foldl (fun s l => if bitAt m l then s.sendFlits l id (6 :: tree :: data) else s)
        ((s.land id).mcastHere tree data))
  | _ => .next s

/-! ## The end of a stage's holder (25 R380) -/

/-- Slots of a ring that are not given back, in slot order, as messages to a ring. -/
def State.slotsOf (s : State) (h v n : Nat) (dst : Nat × Nat × Nat) : List Msg :=
  let m := s.member h v
  match m.ring n with
  | some (d, f) =>
    if m.pcore < 6144 ∧ s.bound m n then
      (upTo (min 256 (s.ringCount m.pcore d))).map (fun i => s.slotAt m.pcore f (s.ringHead m.pcore d + i) dst.1 dst.2.1 dst.2.2)
    else []
  | none => []

/-- A ring holds nothing that its holder has not given back: HEAD is at TAIL. -/
def State.emptyRing (s : State) (core d : Nat) : State := if core < 6144 then s.wrQ4 core (d + 8) (s.ringTail core d) else s

/-- The slots of a stage's ring are gone from it. -/
def State.emptyRingOf (s : State) (h v n : Nat) : State :=
  match (s.member h v).ring n with
  | some (d, _) => if s.bound (s.member h v) n then s.emptyRing (s.member h v).pcore d else s
  | none => s

/-- What a predecessor or the source has sent to one ring counts as sent to another, so that each item arrives once (25 R377). -/
def State.redirectSent (s : State) (old new : Nat × Nat × Nat) : State :=
  let to_ (l : List (Nat × Nat × Nat)) : List (Nat × Nat × Nat) := l.map (fun r => if r = old then new else r)
  { s with pipelines := s.pipelines.map (fun (x : Nat × Pipeline) =>
      (x.1, { x.2 with
        stages := x.2.stages.map (fun g => { g with sent := to_ g.sent })
        srcWait := x.2.srcWait.map (fun w => (w.1, to_ w.2)) })) }

/-- The pipeline that a stage passes to: the next attached whose group can take the holding and is not the one that ends (25 R380, 21 R338, R340). -/
def State.nextPipe (s : State) (p : Pipeline) (i ending : Nat) : Option Pipeline :=
  (pick (fun h => h != p.handle && (match s.pipe h with
    | some q => q.group != ending && s.canConvey q.group q.part
    | none => false)) (p.stage i).attached).bind (fun h => s.pipe h)

/-- A shared stage passes to the next attached pipeline, whose standby becomes the stage; input that the former holder had not given back goes to the standby's ring with STAT 2, output that it had not sent on goes on in front of the standby's, in slot order, and the entry in the estate table follows (25 R379, R380, 21 R346). Of its input, as many items at most as the relay had output are repeated. DESIGN CHOICE, log entry 93. -/
def State.passStage (s : State) (p q : Pipeline) (i : Nat) (entry : Nat × Holding) : State :=
  let g := p.stage i
  let h := q.handle
  let r := g.attached.filter (fun x => x != p.handle && x != q.handle)
  let ins := s.slotsOf p.group g.vc g.inRing (0, 0, 0)
  let outs := s.slotsOf p.group g.vc g.outRing (0, 0, 0)
  let s := (s.emptyRingOf p.group g.vc g.inRing).emptyRingOf p.group g.vc g.outRing
  let s := s.redirectSent (p.group, g.vc, g.inRing) (q.group, (q.stage i).vc, (q.stage i).inRing)
  let s := s.updStage p.handle i (fun g =>
    { g with
      attached := []
      sent := []
      inWait := []
      outWait := [] })
  let s := s.updStage h i (fun x =>
    { x with
      attached := h :: r
      nextOut := g.nextOut
      sent := g.sent
      inWait := ins.map (fun m => m.withStat 2) ++ g.inWait
      outWait := g.outWait ++ outs })
  let rep := Config.freeChoice s.uid % (min ins.length (g.nextOut + outs.length) + 1)
  let s := (h :: r).foldl (fun s k => s.updPipe k (fun x => { x with repeated := (x.repeated + rep) % 2 ^ 64 })) s
  { s with
    uid := s.uid + 1
    estate := mput s.estate entry.1 { entry.2 with
      holder := q.group
      heir := 0
      former := p.group
      brv := true
      stamp := s.time
      loc := h * 256 + i } }

/-- The entry of a stage in the estate table. -/
def State.stageEntry (s : State) (h i : Nat) : Option (Nat × Holding) :=
  pick (fun e => e.2.kind == 5 && e.2.space == 3 && e.2.loc == h * 256 + i) s.estate

/-- A stage ends: its relay stops, and what a former holder has left is discarded (25 R380). -/
def State.stopStage (s : State) (h i : Nat) : State :=
  s.updStage h i (fun g => { g with
    ended := true
    inWait := []
    outWait := [] })

/-- The holder of a stage lets go of it by PUNBIND: the next pipeline's group takes it, or it ends (25 R380). -/
def State.dropStage (s : State) (p : Pipeline) (i : Nat) : State :=
  match s.stageEntry p.handle i with
  | none => s
  | some e =>
    match s.nextPipe p i 0 with
    | some q => s.passStage p q i e
    | none => (s.stopStage p.handle i).unregister e.1

/-- A pipeline leaves every attach list (25 R380). -/
def State.detach (s : State) (h : Nat) : State :=
  { s with pipelines := s.pipelines.map (fun (p : Nat × Pipeline) =>
      (p.1, { p.2 with stages := p.2.stages.map (fun g => { g with attached := g.attached.filter (fun x => x != h) }) })) }

/-- Unbind a pipeline (25 R381). -/
def State.unbind (s : State) (p : Pipeline) : State :=
  let s := (upTo p.stages.length).foldl (fun s i =>
    match s.pipe p.handle with
    | some p => if (p.stage i).attached.isEmpty then s else s.dropStage p i
    | none => s) s
  let s := s.detach p.handle
  { s with pipelines := mdel s.pipelines (p.handle % 1024) }

/-! ## PBIND, PUNBIND, PSTAT (25 R381, R382) -/

/-- Whether a must-be-zero bit of a descriptor's header or of a stage record is set (25 R374). -/
def badHead (d : List Nat) : Bool :=
  bitsOf (d.getD 0 0) 6 58 != 0 || bitsOf (d.getD 2 0) 20 44 != 0 || bitsOf (d.getD 2 0) 13 3 != 0 || (d.drop 3).any (fun x => x != 0)

def badStageRec (r : List Nat) : Bool :=
  bitsOf (r.getD 4 0) 32 32 != 0 || bitsOf (r.getD 4 0) 24 7 != 0 || bitsOf (r.getD 4 0) 13 3 != 0 || (r.drop 5).any (fun x => x != 0)

/-- Whether a member may run a shareable stage: no learning and no rows there (25 R375). -/
def State.plain (s : State) (h v : Nat) : Bool :=
  (s.groupCids h).all (fun i => (s.ctx i).vcore != v || ((s.ctx i).get 0x043 == 0 && (s.ctx i).fld 0x042 32 16 == 0))

/-- Whether a stage's record is refused (25 R381). -/
def State.badStage (s : State) (h : Nat) (g : Stage) : Bool :=
  badStageRec g.rec_ || decide (s.nMembers h ≤ g.vc) || !s.bound (s.member h g.vc) g.outRing ||
    (bitAt (g.rec_.getD 4 0) 31 && !s.plain h g.vc)

/-- Attach a new pipeline: shared stages take it into their lists, its own are held and registered (25 R378, R380). -/
def State.attach (s : State) (p : Pipeline) : State × Pipeline :=
  let best := s.bestPrefix p
  let n := (best.map (fun b => b.2)).getD 0
  let j := match best with
    | none => 0
    | some (q, 0) => q.srcNext
    | some (q, n + 1) => ((s.holderPipe q.handle n).map (fun x => (x.stage n).nextOut)).getD 0
  let src := (best.map (fun b => b.1.srcNext)).getD 0
  let wait := best.bind (fun b => b.1.srcWait)
  let stages := (p.stages.zip (upTo p.stages.length)).map (fun x =>
    if x.2 < n then { x.1 with attached := [] } else { x.1 with attached := [p.handle] })
  let p := { p with
    stages := stages
    join := j
    srcNext := src
    srcWait := wait }
  let s := match best with
    | none => s
    | some (q, n) => (upTo n).foldl (fun s i =>
      match s.holderPipe q.handle i with
      | some x => s.updStage x.handle i (fun g => { g with attached := g.attached ++ [p.handle] })
      | none => s) s
  let s := s.setPipe p
  ((upTo p.stages.length).foldl (fun s i =>
    if i < n then s else (s.register p.group 5 0 (3, p.handle * 256 + i)).1) s, p)

/-- PBIND with its descriptor read (25 R381). -/
def pbindWith (a : BitVec 4) (d recs : List Nat) (s : State) : Out :=
  let g := s.cx.group
  let part := s.partOf g
  let nst := bitsOf (d.getD 0 0) 0 4
  let stages := (upTo nst).map (fun i => (⟨(recs.drop (8 * i)).take 8, [], 0, [], false, [], []⟩ : Stage))
  let idx := pick (fun i => (mget s.pipelines i).isNone) (upTo 1024)
  let gen := (Config.freeChoice 0 + s.uid) % (2 ^ 22 - 1) + 1
  let p : Pipeline :=
    { handle := gen * 1024 + idx.getD 0, seq := s.uid, part := part, group := g, srck := bitsOf (d.getD 0 0) 4 2,
      srcid := d.getD 1 0, sring := bitsOf (d.getD 2 0) 16 4, svc := bitsOf (d.getD 2 0) 0 13, stages := stages, srcNext := 0,
      srcWait := none, join := 0, delivered := 0, repeated := 0 }
  let own := nst - ((s.bestPrefix p).map (fun b => b.2)).getD 0
  if 64 ≤ s.classL s.cur then stall s
  else if nst = 0 ∨ 8 < nst ∨ badHead d ∨ (p.srck ≠ 1 ∧ p.srck ≠ 2) ∨ s.nMembers g ≤ p.svc ∨ stages.any (fun x => s.badStage g x) then refusal a 1 s
  else if idx.isNone then refusal a 2 s
  else if ¬ ((mget s.parts part).map (fun x => (mget x.streams p.srcid).isSome)).getD false then refusal a 3 s
  else if 65536 < (s.holdings g).length + own ∨ 1048576 < s.estate.length + own then refusal a 4 s
  else
    let (t, p) := s.attach p
    done ({ t with uid := t.uid + 1 }.setW a (toWord (p.handle * 2 ^ 32 + p.join % 2 ^ 32)))

/-- PBIND (25 R381): the header and NST records are read, whatever NST says, before anything is refused. -/
def execPbind (a b _c : BitVec 4) (_imm : BitVec 6) (s : State) : Out :=
  reading [b] s fun s =>
    let addr := (s.w b).toNat
    let ok : Bool := match rngOf addr with
      | .loc _ | .user => true
      | _ => false
    if addr % 64 ≠ 0 then trap s xMisalign (toWord addr)
    else
      loading addr 8 s fun d s =>
        let nst := bitsOf (d.getD 0 0) 0 4
        if ¬ ok then refusal a 1 s
        else if nst = 0 then pbindWith a d [] s
        else loading (addr + 64) (8 * nst) s fun recs s => pbindWith a d recs s

/-- PUNBIND (25 R381); it counts in the L class. -/
def execPunbind (a b _c : BitVec 4) (_imm : BitVec 6) (s : State) : Out :=
  reading [b] s fun s =>
    if 64 ≤ s.classL s.cur then stall s
    else match s.pipe ((s.w b).toNat % 2 ^ 32) with
    | none => refusal a 1 s
    | some p => if p.group = s.cx.group then done ((s.unbind p).setW a 0) else refusal a 1 s

/-- Stages that a pipeline's group holds now through it. -/
def Pipeline.holds (p : Pipeline) : Nat := (p.stages.filter (fun g => !g.attached.isEmpty && !g.ended)).length

/-- Whether a stage of a pipeline has ended (25 R380). -/
def State.pipeEnded (s : State) (p : Pipeline) : Bool :=
  (upTo p.stages.length).any (fun i => (s.holderPipe p.handle i).isNone)

/-- PSTAT's value (25 R382). DESIGN CHOICE, log entry 93. -/
def State.pstat (s : State) (p : Pipeline) (sel : Nat) : Nat :=
  let part := s.partOf p.group
  let w (held nst : Nat) : Nat := (if s.pipeEnded p then 2 ^ 48 else 0) + held * 256 + nst
  match sel with
  | 0 =>
    (match s.gran part 0 with
     | 0 => 0
     | 1 => s.shown part (w p.holds p.stages.length)
     | _ => w (s.shown part p.holds) (s.shown part p.stages.length))
  | 1 => s.shown part (p.join % 2 ^ 32)
  | 2 => s.shown part p.delivered
  | _ => s.shown part p.repeated

/-- PSTAT (25 R382): a value that the policy withholds reads 0, STALE as well; it counts in the L class. -/
def execPstat (a b _c : BitVec 4) (imm : BitVec 6) (s : State) : Out :=
  reading [b] s fun s =>
    let sel := bitsOf imm.toNat 0 2
    let part := s.partOf s.cx.group
    let stale := if sel ≠ 0 ∨ s.gran part 0 = 0 then 0 else if s.gran part 0 = 1 then s.shown part (2 ^ 63) else 2 ^ 63
    if 64 ≤ s.classL s.cur then stall s
    else match s.pipe ((s.w b).toNat % 2 ^ 32) with
    | none => done (s.setW a (toWord stale))
    | some p =>
      if p.group = s.cx.group then done (s.setW a (toWord (s.pstat p sel))) else done (s.setW a (toWord stale))

end Sys2Proof.Machine
end

