-- ==== Sys2Proof/Machine/Walker.lean ====
section
/-! DEFINITION. Conveyance (21 R345 to R348): CONVEY (major 0x2E minor 4) and the estate walker's steps. -/

namespace Sys2Proof.Machine

/-! ## Objects (21 R338) -/

/-- Whether an object stands on a member that is MOVING or SAVED; the walker waits for it. DEDUCED, log entry 60. -/
def State.holdAway (s : State) (e : Holding) : Bool :=
  e.space == 0 &&
    (let (h, v, _) := locParts e.loc
     (s.grp h).isSome && ((s.member h v).pst == 1 || (s.member h v).pst == 2))

/-- The object address of a record (21 R345, 22 R351). DEDUCED, log entry 64. -/
def Holding.address (e : Holding) : Nat := if e.space = 0 then (locParts e.loc).2.2 else e.loc

/-! ## Kinds (21 R346) -/

/-- Rounds whose tokens a party has received: round and parity. -/
def State.received (s : State) (h v d : Nat) (p : Party) : List (Nat × Nat) :=
  let f := if p.ghost ∨ (s.member h v).pcore < 6144 then s.dFlags h v d p else 0
  (upTo 32).filterMap (fun i => if bitAt f i then some (i % 16, i / 16) else none)

/-- Where the rank table's entry of a party stands, on a member that has exited as well (19 R327, 21 R346); the walker's write asks for no more than the read that the parties make of it. DESIGN CHOICE, log entry 148. -/
def State.rankAt (s : State) (h v : Nat) (p : Party) : Far :=
  let a := (p.table + toWord (8 * p.rank)).toNat
  match rngOf a with
  | .loc off => .to (.spad (s.member h v).pcore off)
  | .win w off =>
    if s.nMembers h ≤ w then .fail
    else if (s.member h w).pst = 1 ∨ (s.member h w).pst = 2 then .wait
    else .to (.spad (s.member h w).pcore off)
  | _ => s.farLoc (s.partOf h) h true a 8 .load

/-- A party passes to an heir: its table entry names the heir, what it has received and begun goes along, and the open episode is bereaved. It stands at the heir's core from here on, where its rounds run as far as the tokens that are there allow (19 R328, R329). -/
def State.conveyParty (s : State) (e : Holding) (heir : Nat) (brv : Bool) : State :=
  let (h, v) := e.partyAt
  let d := (locParts e.loc).2.2
  match s.party h v d with
  | none => s
  | some p =>
    let part := s.partOf h
    let s := match s.rankAt h v p with
      | .to l => s.wr l 8 (heir * 2 ^ 32 + s.devNum % 2 ^ 18 * 2 ^ 13)
      | _ => s
    let tokens := s.received h v d p
    let old := (s.party heir 0 d).getD Party.blank
    let s := s.updMember h v (fun m => { m with parties := mdel m.parties d })
    let s := s.setParty heir 0 d { p with
      brvTok := p.brvTok || brv
      early := p.early ++ old.early
      ghost := false }
    let s := tokens.foldl (fun s t => s.flyFrom (some (s.member h v).pcore) (.dbarTok 0 heir 0 d t.1 t.2 false part)) s
    s.runParty heir 0 d runFuel

/-- A heirless rank: the NI where the party stood runs its rounds (19 R329). DEDUCED, log entry 50. -/
def State.ghostParty (s : State) (e : Holding) : State :=
  let (h, v) := e.partyAt
  let d := (locParts e.loc).2.2
  match s.party h v d with
  | none => s
  | some p =>
    let there := decide ((s.member h v).pcore < 6144)
    let q := { p with
      ghost := true
      brvTok := true
      flags := if p.ghost then p.flags else if there then s.dFlags h v d p else 0
      epoch := if p.ghost then p.epoch else if there then s.dEpoch h v d p else p.ep }
    (s.setParty h v d q).runParty h v d runFuel

/-- Ring of a member whose descriptor stands at an offset. -/
def Member.ringOf (m : Member) (d : Nat) : Option Nat := (pick (fun r => r.2.1 == d) m.rings).map (fun r => r.1)

/-- Whether a thief has taken the message of a slot of a member and its CPOP has yet to issue again (16 R292, 21 R348). -/
def Ctx.hasStolen (c : Ctx) (v slot : Nat) : Bool :=
  match c.call with
  | some k => k.steal && k.answers.any (fun a => match a.2 with
    | some x => x != noEntry && x / 2 ^ 64 == v && bitsOf x 62 2 == 1 && bitsOf x 0 17 == slot
    | none => false)
  | none => false

/-- Whether a context serves the message of a slot of a member, or has taken it (16 R293). -/
def State.servedNow (s : State) (h v slot : Nat) : Bool :=
  s.ctxs.any (fun c => c.2.group == h && c.2.hasStolen v slot) || s.ctxs.any (fun c => c.2.group == h && c.2.serving && c.2.srvMsg && c.2.fld 0x085 36 13 == v && c.2.fld 0x085 0 17 == slot)

/-- Messages of a ring not given back, for a dispatch ring those whose slot is not yet given back and that no CPOP has taken (16 R299, 21 R348). DESIGN CHOICE, log entry 126. -/
def State.notGiven (s : State) (h v n : Nat) (dst : Nat × Nat × Nat) : List Msg :=
  let m := s.member h v
  let ms := s.slotsOf h v n dst
  match m.ring n with
  | some (d, f) =>
    if ringDisp f then
      (ms.zip (upTo ms.length)).filterMap (fun x =>
        let slot := slotAddr f (s.ringHead m.pcore d + x.2)
        if s.full m.pcore slot && !s.servedNow h v slot then some x.1 else none)
    else ms
  | none => ms

/-- The entries of a level that satisfy a test, in their order, from its head. -/
def State.keepEntries (s : State) (core a l : Nat) (p : Nat → Bool) : State :=
  let es := ((upTo (s.lvlCount core a l)).map (fun j => s.entryAt' core a l j)).filter p
  let hd := s.lvlHead core a l
  ((es.zip (upTo es.length)).foldl (fun s x => s.wrQ core (entryAddr a l (hd + x.2)) x.1) s).setLvl core a l hd es.length

/-- A dispatch ring whose messages have gone to an heir: its entries leave the deque and its slots are empty, so that no message is delivered twice (16 R299, 21 R348). DESIGN CHOICE, log entry 126. -/
def State.clearDispatch (s : State) (h v f : Nat) : State :=
  let m := s.member h v
  let inRing (x : Nat) : Bool := decide (ringSlots f ≤ x ∧ x < ringSlots f + 256 * 2 ^ ringLogn f)
  let s := if qbaseEn m.qbase then
      (upTo 4).foldl (fun s l => s.keepEntries m.pcore (qbaseAddr m.qbase) l
        (fun e => !(bitsOf e 62 2 == 1 && inRing (bitsOf e 0 17)))) s
    else s
  (upTo (2 ^ ringLogn f)).foldl (fun s i =>
    if s.servedNow h v (slotAddr f i) then s else s.setTag m.pcore (slotAddr f i) false) s

/-- A ring passes to an heir: its slots go to the same ring of the heir's VCORE 0 with STAT 2, in slot order, and are delivered once (21 R346, R348); those of a stage's ring wait for the stage (25 R380). DEDUCED, log entry 66. -/
def State.conveyRing (s : State) (e : Holding) (heir : Nat) : State :=
  let (h, v, d) := locParts e.loc
  match (s.member h v).ringOf d with
  | some n =>
    if e.holder = h ∧ ¬ s.passing h v n then
      let t := s.flyAgain ((s.notGiven h v n (heir, 0, n)).map (fun m => m.withStat 2))
      match (s.member h v).ring n with
      | some (_, f) => if ringDisp f then (t.clearDispatch h v f).giveBack (s.member h v).pcore d f 256 else t.emptyRing (s.member h v).pcore d
      | none => t
    else s
  | none => s

/-- A ring whose holding is resolved without an heir: its slots are discarded, and what arrives later is bounced (21 R346, 16 R300). -/
def State.deadRing (s : State) (e : Holding) : State :=
  let (h, v, d) := locParts e.loc
  match (s.member h v).ringOf d with
  | some n => s.updMember h v (fun m => { m with deadRings := nins m.deadRings n })
  | none => s

/-- Entries on a member's deque are discarded (21 R346). -/
def State.clearQueue (s : State) (core a : Nat) : State := (upTo 4).foldl (fun s l => s.setLvl core a l 0 0) s

/-- A stage ends: its relay stops and the undelivered slots of its rings are discarded (25 R380). -/
def State.endStage (s : State) (h i : Nat) : State :=
  match s.pipe h with
  | some p =>
    let g := p.stage i
    ((s.stopStage h i).emptyRingOf p.group g.vc g.inRing).emptyRingOf p.group g.vc g.outRing
  | none => s

/-- A heirless future: its tag is empty, it is listed where there is room, and the waiters parked now are woken (18 R312, R315). -/
def State.bereave (s : State) (core off former : Nat) : State :=
  let s := s.emptyTag core off
  let k := s.core core
  let s := if (k.bereaved.map (fun x => x.1)).contains off then s
    else if k.bereaved.length < 64 then s.setCore core { k with bereaved := k.bereaved ++ [(off, former)] }
    else s.setCore core { k with bovf := min (k.bovf + 1) 0xFFFFFFFF }
  { s with ctxs := s.ctxs.map (fun x =>
      if x.2.waits = some (.future core off) ∧ ¬ x.2.parkLong then (x.1, { x.2 with woken := true }) else x) }

/-! ## Conveying and resolving one holding (21 R345, R346) -/

/-- convey(e): the entry passes to the heir, and the object follows by its kind. -/
def State.convey (s : State) (i : Nat) (e : Holding) (brv : Bool) : State :=
  let heir := e.heir
  let entry (s : State) : State := { s with estate := mput s.estate i { e with
    holder := heir
    heir := 0
    former := e.holder
    brv := brv
    stamp := s.time } }
  match e.kind with
  | 0 =>
    (match s.holdAt e with
     | some l => (entry (s.wr l 8 (lkWord (s.rd l 8) heir (lkBrv (s.rd l 8)) true true (s.rd l 8)))).wakeLock l (fun c => c.group == heir)
     | none => entry s)
  | 1 => entry (s.conveyParty e heir brv)
  | 3 => entry (s.conveyRing e heir)
  | 4 => entry (s.passSlots e.loc e.holder heir brv)
  | _ => entry s

/-- Resolve a heirless holding. -/
def State.resolve (s : State) (i : Nat) (e : Holding) : State :=
  let s := match e.kind, s.holdAt e with
    | 0, some l => (s.wr l 8 (lkWord (s.rd l 8) e.holder true false false (s.rd l 8))).wakeLock l (fun _ => true)
    | 3, some (.spad core off) =>
      let (h, v, d) := locParts e.loc
      (if ((s.member h v).ringOf d).any (fun n => s.passing h v n) then s else s.emptyRing core off).deadRing e
    | 2, some (.spad core off) => s.bereave core off e.holder
    | 6, some (.spad core off) => s.clearQueue core off
    | 1, _ => s.ghostParty e
    | 4, _ =>
      (match s.reduction e.loc with
       | some r => if r.state = RState.opened then s.abandon r else s
       | none => s)
    | 5, _ => s.endStage (e.loc / 256) (e.loc % 256)
    | _, _ => s
  (s.supRec (s.partOf e.holder) ⟨xHeirless, toWord e.address, 0, [e.holder, e.kind]⟩).unregister i

/-- A pipeline stage goes to the next attached pipeline, or ends (25 R380). -/
def State.walkStage (s : State) (i : Nat) (e : Holding) : State :=
  match s.pipe (e.loc / 256) with
  | none => s.unregister i
  | some p =>
    match s.nextPipe p (e.loc % 256) e.holder with
    | some q => s.passStage p q (e.loc % 256) (i, e)
    | none => s.resolve i e

/-- Whether the walker has to wait before this holding. -/
def State.walkWaits (s : State) (e : Holding) (valid : Bool) : Bool :=
  s.holdAway e ||
    (e.kind == 1 && valid &&
      (match s.party e.partyAt.1 e.partyAt.2 (locParts e.loc).2.2 with
       | some p => s.rankAt e.partyAt.1 e.partyAt.2 p == .wait
       | none => false)) ||
    (e.kind == 4 && !valid &&
      (match s.reduction e.loc with
       | some r => r.state == RState.opened && !s.canDeliver r
       | none => false))

/-- The walker's treatment of one holding. -/
def State.walkOne (s : State) (i : Nat) (e : Holding) (part : Nat) : State :=
  if e.kind = 5 then s.walkStage i e
  else if s.canConvey e.heir part then s.convey i e true
  else s.resolve i e

/-! ## The walk (21 R345) -/

/-- Place of a kind in the walk's order. -/
def walkRank (kind : Nat) : Nat :=
  match kind with
  | 0 => 0
  | 1 => 1
  | 2 => 2
  | 3 | 6 => 3
  | 4 => 4
  | _ => 5

/-- Whether one holding comes before another: by kind, then STAMP, then index. -/
def walkBefore (a b : Nat × Holding) : Bool :=
  let ra := walkRank a.2.kind
  let rb := walkRank b.2.kind
  decide (ra < rb) || (ra == rb && (decide (a.2.stamp < b.2.stamp) || (a.2.stamp == b.2.stamp && decide (a.1 < b.1))))

/-- The next holding of a group in the order of the walk. -/
def nextHolding : List (Nat × Holding) → Option (Nat × Holding)
  | [] => none
  | x :: r =>
    match nextHolding r with
    | some y => if walkBefore y x then some y else some x
    | none => some x

/-- Whether something in flight is an operation that a group issued and that is neither performed nor discarded (21 R345). -/
def State.stillOf (s : State) (h : Nat) (c : Cargo) : Bool :=
  match c with
  | .std _ _ g _ _ n _ _ _ none => n != 0 && g == h
  | .ldd _ _ g _ _ n _ none => n != 0 && g == h
  | .msg m _ => bitsOf m.h2 32 32 == h && bitsOf m.h2 0 18 == s.devNum && m.stat == 0
  | .dec _ _ _ g _ _ _ _ _ => g == h
  | .pass _ _ g _ _ _ => g == h
  | .contrib _ _ c => c.group == h && c.cid != farCid && !c.accepted
  | .rfree _ _ g _ _ none => g == h
  | .bcastReq lg _ _ _ => (match s.lgroup lg with
    | some l => l.group == h
    | none => false)
  | _ => false

/-- Whether every context of a group has ended and what they issued has been performed or discarded. -/
def State.quiet (s : State) (g : Group) : Bool :=
  (s.strands g.handle).isEmpty &&
    !s.reqs.any (fun r => r.group == g.handle && r.unperformed) &&
    !s.cores.any (fun k => k.2.copies.any (fun c => c.group == g.handle)) &&
    !s.flights.any (fun f => s.stillOf g.handle f.cargo) &&
    g.members.all (fun m => m.pst == 3)

/-- ESTATE_WALK_START (21 R345): the walker begins the group at the head of its queue. -/
def execEstateWalkStart (h : Nat) (s : State) : Out :=
  match s.walkQueue.head?, s.grp h with
  | some x, some g =>
    if x = h ∧ g.state = .exiting ∧ g.walkKind = 0 ∧ s.quiet g then .next (s.setGrp { g with walkKind := 1 }) else .next s
  | _, _ => .next s

/-- The walk is done: reductions that still await the group are abandoned, its pipelines are gone, and it is RETIRED (24 R373, 25 R380, 14 R268). -/
def State.walkEnd (s : State) (g : Group) : State :=
  let s := (s.awaiting g).foldl (fun s r => s.abandon r) s
  let mine := (s.pipelines.filter (fun p => p.2.group == g.handle)).map (fun p => p.2.handle)
  let s := mine.foldl (fun s h => s.detach h) s
  let s := { s with
    pipelines := s.pipelines.filter (fun p => p.2.group != g.handle)
    walkQueue := s.walkQueue.drop 1 }
  s.retire g.handle

/-- ESTATE_WALK_HOLDING (21 R345, R346): the next holding of the group under way, or the end of its walk. -/
def execEstateWalkHolding (s : State) : Out :=
  match s.walkQueue.head?.bind (fun h => s.grp h) with
  | none => .next s
  | some g =>
    if g.walkKind = 0 then .next s
    else
      match nextHolding (s.holdings g.handle) with
      | some (i, e) => if s.walkWaits e (s.canConvey e.heir g.part) then .next s else .next (s.walkOne i e g.part)
      | none => if (s.awaiting g).all (fun r => s.canDeliver r) then .next (s.walkEnd g) else .next s

/-! ## CONVEY (21 R343) -/

/-- CONVEY at the object's place: no holding, a pipeline stage or an invalid heir raises X_OPERAND; it is a release. -/
def conveyAt (x : Instr) (addr : Word) (l : Loc) (s : State) : Out :=
  match s.entryAt l with
  | none => operandTrap s x
  | some (i, e) =>
    if e.kind = 5 ∨ ¬ s.canConvey e.heir (s.partOf s.cx.group) then operandTrap s x
    else if ¬ s.drained s.cur then stall s
    else done (((s.endFwd s.cur).named l addr).convey i e false)

/-- CONVEY of a handle's object: at system scope (21 R343). -/
def conveyFar (x : Instr) (i : Nat) (e : Holding) (s : State) : Out :=
  if e.kind = 5 ∨ ¬ s.canConvey e.heir (s.partOf s.cx.group) then operandTrap s x
  else if ¬ s.drained s.cur true then stall s
  else done (((s.endFwd s.cur).namedEntry e).convey i e false)

/-- CONVEY (21 R343). -/
def execConvey (a b c : BitVec 4) (imm : BitVec 6) (s : State) : Out :=
  reading [b] s fun s =>
    withObject (s.w b) s (fun i e => conveyFar (.convey a b c imm) i e s) fun l t => conveyAt (.convey a b c imm) (s.w b) l t

end Sys2Proof.Machine
end

