-- ==== Sys2Proof/Machine/Image.lean ====
section
/-! DEFINITION. Save images (05 R115 to R117, 10 R225): what a member's part holds, and how it is read back. -/

namespace Sys2Proof.Machine

/-! ## Core-state blocks (05 R116) -/

/-- Control registers of a block's doublewords before the pending broadcasts, in order; 0 marks a count of TIME. -/
def blockRegs : List Nat :=
  [0x010, 0x012, 0x013, 0x014, 0x021, 0x022] ++ (upTo 4).map (fun i => 0x024 + i) ++ (upTo 8).map (fun i => 0x028 + i)

/-- Those of doublewords 20 to 67. -/
def blockRegs2 : List Nat :=
  (upTo 7).map (fun i => 0x030 + i) ++ [0x038] ++ (upTo 8).map (fun i => 0x040 + i) ++ (upTo 32).map (fun i => 0x050 + i)

/-- Those of doublewords 76 to 82. -/
def blockRegs3 : List Nat := [0x080, 0x081, 0x083, 0x084, 0x085, 0x0B8, 0x0E0]

/-- Code of a sequencer's state. -/
def seqCode : SeqState → Nat
  | .idle => 0
  | .running => 1
  | .blocked => 2
  | .ended => 3
  | .faulted => 4

def seqOf (n : Nat) : SeqState :=
  match n with
  | 1 => .running
  | 2 => .blocked
  | 3 => .ended
  | 4 => .faulted
  | _ => .idle

/-- Four pending-broadcast entries. -/
def pendDws (l : List Bcast) : List Nat :=
  (upTo 4).flatMap (fun i =>
    match l[i]? with
    | some b => [b.num % 2 ^ 32 * 2 ^ 32 + b.r % 2 ^ 32, 1]
    | none => [0, 0])

/-- The core-state block of a context; TOWN's POIS is that of its tiles (05 R116, 10 R209). -/
def State.block96 (s : State) (cid : Nat) : List Nat :=
  let c := s.ctx cid
  let r (n : Nat) : Nat := (c.get n).toNat + (if n = 0x038 then s.poisBits cid else 0)
  let q := (s.core (coreOfCid cid)).seq
  let own := decide (q.state ≠ .idle ∧ q.holder = cid)
  blockRegs.map r ++ [c.runCycles % 2 ^ 64, c.instrs % 2 ^ 64] ++ blockRegs2.map r ++ pendDws c.pend ++ blockRegs3.map r ++
    [if own then q.wc * 2 ^ 32 + seqCode q.state else 0, if own ∧ q.state = .ended then q.result.toNat else 0] ++
    List.replicate 11 0

/-- Load registers from doublewords. -/
def Ctx.load (c : Ctx) (ns ds : List Nat) : Ctx := (ns.zip ds).foldl (fun c x => c.set x.1 (toWord x.2)) c

/-- A context with the registers of a block. -/
def Ctx.fromBlock (c : Ctx) (b : List Nat) : Ctx :=
  let c := ((c.load blockRegs b).load blockRegs2 (b.drop 20)).load blockRegs3 (b.drop 76)
  let c := c.set 0x038 (toWord (c.fld 0x038 0 4))
  { c with
    runCycles := b.getD 18 0
    instrs := b.getD 19 0
    pend := (upTo 4).filterMap (fun i =>
      if b.getD (69 + 2 * i) 0 % 2 = 1 then some ⟨b.getD (68 + 2 * i) 0 / 2 ^ 32, b.getD (68 + 2 * i) 0 % 2 ^ 32, 0, false⟩ else none) }

/-! ## Doublewords of memory -/

/-- `n` scratchpad doublewords from an offset. -/
def State.dwsS (s : State) (core off n : Nat) : List Nat := (upTo n).map (fun i => s.rdS core (off + 8 * i) 8)

/-! ## A member's part (05 R115) -/

/-- Contexts of a member, in slot order. -/
def State.cidsAt (s : State) (h v : Nat) : List Nat :=
  (s.cidsOn (s.member h v).pcore).filter (fun i => (s.ctx i).group == h)

/-- State code of a context record. -/
def recState : CtxState → Nat
  | .ready => 0
  | .running => 0
  | .blocked _ => 1
  | .stopped _ _ => 2

/-- A context record. -/
def State.ctxRecord (s : State) (cid : Nat) : List Nat :=
  let c := s.ctx cid
  let core := coreOfCid cid
  [slotOfCid cid + recState c.state * 16 + c.wp / 128 * 128 + (if c.vx then 2 ^ 17 else 0) + (if c.sup then 2 ^ 18 else 0)] ++
    s.dwsS core (c.wp - 64) ((64 + c.foot) / 8) ++ s.block96 cid

/-- Tile record (10 R225). -/
def State.tileRecord (s : State) (core t : Nat) : List Nat :=
  let x := s.tile core t
  [t + (match x.pois with
      | some a => 256 + a * 2 ^ 32
      | none => 0)] ++
    (upTo 128).map (fun i => x.cell (2 * i) + x.cell (2 * i + 1) * 2 ^ 32)

/-- Tiles that a context owns, rising. -/
def Ctx.ownTiles (c : Ctx) : List Nat := (upTo 4).filter (fun t => bitAt (c.fld 0x038 0 4) t)

/-- Tags of a region. -/
def State.tagDw (s : State) (core r : Nat) : Nat :=
  ((upTo 64).map (fun i => if s.full core (512 * r + 8 * i) then 2 ^ i else 0)).sum

/-- Kind and payload of a region (05 R117). -/
def regionBody (ws : List Nat) : Nat × List Nat :=
  let nz := ws.filter (fun x => x != 0)
  if nz.isEmpty then (0, [])
  else if ws.all (fun x => x == ws.headD 0) then (1, [ws.headD 0])
  else if nz.length ≤ 62 then
    (2, ((upTo 64).map (fun i => if ws.getD i 0 = 0 then 0 else 2 ^ i)).sum :: nz)
  else (3, ws)

/-- A region record. -/
def State.regionRecord (s : State) (core r : Nat) : List Nat :=
  let b := regionBody (s.dwsS core (512 * r) 64)
  [r + b.1 * 256, s.tagDw core r] ++ b.2

/-- Dirty regions of a range, rising. -/
def State.dirtyIn (s : State) (core lo hi : Nat) : List Nat :=
  (upTo 256).filter (fun r => decide (lo ≤ 512 * r ∧ 512 * r < hi) && nmem s.dirty (core * 256 + r))

/-- The 256-bit dirty map. -/
def dirtyMap (rs : List Nat) : List Nat :=
  (upTo 4).map (fun i => ((rs.filter (fun r => decide (r / 64 = i))).map (fun r => 2 ^ (r % 64))).sum)

/-- A member's part of the image: core record, context records, tiles, regions. -/
def State.memberImage (s : State) (g : Group) (v : Nat) : List Nat :=
  let m := s.member g.handle v
  let core := m.pcore
  let cids := s.cidsAt g.handle v
  let rs := s.dirtyIn core g.hdr.slo g.hdr.slim
  [v + cids.length * 2 ^ 16 + rs.length * 2 ^ 32] ++ dirtyMap rs ++ [m.qbase.toNat, m.portb.toNat] ++
    (upTo 8).map (fun b => (mgetD m.bars b 0).toNat) ++ [0] ++ cids.flatMap (fun i => s.ctxRecord i) ++
    (cids.flatMap (fun i => (s.ctx i).ownTiles)).flatMap (fun t => s.tileRecord core t) ++
    rs.flatMap (fun r => s.regionRecord core r)

/-! ## Reading an image back (05 R116, R117) -/

/-- A context record read back: slot, state, WP, VX, SUP, footprint, block. -/
structure CtxRec where
  slot : Nat
  state : Nat
  wp : Nat
  vx : Bool
  sup : Bool
  foot : List Nat
  block : List Nat
  deriving DecidableEq, Repr

def parseCtxs : Nat → List Nat → List CtxRec × List Nat
  | 0, l => ([], l)
  | n + 1, l =>
    let d := l.headD 0
    let vx := bitAt d 17
    let k := if vx then 282 else 24
    let r := parseCtxs n (l.drop (97 + k))
    (⟨d % 8, bitsOf d 4 3, bitsOf d 7 10 * 128, vx, bitAt d 18, (l.drop 1).take k, (l.drop (1 + k)).take 96⟩ :: r.1, r.2)

/-- Change the core-state block of the record of a slot among `n` context records (05 R116). -/
def mapBlock (slot : Nat) (f : List Nat → List Nat) : Nat → List Nat → List Nat
  | 0, l => l
  | n + 1, l =>
    let d := l.headD 0
    let k := 1 + (if bitAt d 17 then 282 else 24)
    if d % 8 = slot then l.take k ++ f ((l.drop k).take 96) ++ l.drop (k + 96)
    else l.take (k + 96) ++ mapBlock slot f n (l.drop (k + 96))

/-- The breakpoints and watchpoints of a block, changed as those of a context (28 R396). -/
def pokeBlock (f : Ctx → Ctx) (b : List Nat) : List Nat :=
  let c := f (Ctx.blank.fromBlock b)
  b.take 10 ++ (upTo 8).map (fun i => (c.get (0x028 + i)).toNat) ++ b.drop 18

/-- A SAVED context's breakpoints and watchpoints stand in its image (28 R396). -/
def Saved.poke (x : Saved) (slot : Nat) (f : Ctx → Ctx) : Saved :=
  { x with image := x.image.take 16 ++ mapBlock slot (pokeBlock f) (bitsOf (x.image.headD 0) 16 4) (x.image.drop 16) }

/-- Whether a saved member has a context at a slot. -/
def Saved.has (x : Saved) (slot : Nat) : Bool :=
  (parseCtxs (bitsOf (x.image.headD 0) 16 4) (x.image.drop 16)).1.any (fun r => r.slot == slot)

/-- Tile records read back. -/
def parseTiles : Nat → List Nat → List (Nat × Tile) × List Nat
  | 0, l => ([], l)
  | n + 1, l =>
    let d := l.headD 0
    let cs := ((l.drop 1).take 128).flatMap (fun x => [x % 2 ^ 32, x / 2 ^ 32])
    let r := parseTiles n (l.drop 129)
    ((d % 4, ⟨cellsOf cs, if bitAt d 8 then some (bitsOf d 32 17) else none⟩) :: r.1, r.2)

/-- Words of a region by mask. -/
def unsparse : List Nat → List Nat → List Nat
  | [], _ => []
  | i :: r, l =>
    match l with
    | m :: ws => if bitAt m i then ws.headD 0 :: unsparse r (m :: ws.drop 1) else 0 :: unsparse r (m :: ws)
    | [] => []

/-- Region records read back: index, tags, words. -/
def parseRegions : Nat → List Nat → List (Nat × Nat × List Nat)
  | 0, _ => []
  | n + 1, l =>
    let d := l.headD 0
    let b := l.drop 2
    let nz := ((upTo 64).filter (fun i => bitAt (b.headD 0) i)).length
    let (ws, k) : List Nat × Nat := match bitsOf d 8 8 with
      | 0 => (List.replicate 64 0, 0)
      | 1 => (List.replicate 64 (b.headD 0), 1)
      | 2 => (unsparse (upTo 64) b, 1 + nz)
      | _ => (b.take 64, 64)
    (d % 256, l.getD 1 0, ws) :: parseRegions n (b.drop k)

/-- What follows some region records. -/
def skipRegions : Nat → List Nat → List Nat
  | 0, l => l
  | n + 1, l =>
    let b := l.drop 2
    skipRegions n (b.drop (match bitsOf (l.headD 0) 8 8 with
      | 0 => 0
      | 1 => 1
      | 2 => 1 + ((upTo 64).filter (fun i => bitAt (b.headD 0) i)).length
      | _ => 64))

/-! ## Restoring (05 R116, R117) -/

/-- Write a list of doublewords. -/
def State.putDws (s : State) (core off : Nat) : List Nat → State
  | [] => s
  | x :: r => (s.wrS core off 8 x).putDws core (off + 8) r

/-- Tags of a region. -/
def State.putTags (s : State) (core r d : Nat) : State :=
  (upTo 64).foldl (fun s i => s.setTag core (512 * r + 8 * i) (bitAt d i)) s

/-- Restore a region: words, tags, dirty bit. -/
def State.putRegion (s : State) (core : Nat) (x : Nat × Nat × List Nat) : State :=
  ((s.putDws core (512 * x.1) x.2.2).putTags core x.1 x.2.1)

/-- The wall-clock of a departure starts, and INTR is set, where a capture window is open (28 R397). DESIGN CHOICE, log entry 97. -/
def Ctx.interrupted (c : Ctx) (now : Nat) : Ctx :=
  if c.fld 0x021 63 1 = 0 ∨ c.outAt.isSome then c else { c.setFld 0x021 62 1 1 with outAt := some now }

/-- A context of a record on its new core: registers of the block, then its VCORE; what the image leaves out, a step that is under way among it (28 R403), comes from what was kept beside it. -/
def CtxRec.ctx (r : CtxRec) (v : Nat) (kept : Option Ctx) (stop : Bool) : Ctx :=
  let k := kept.getD Ctx.blank
  let c := { Ctx.blank with
    wp := r.wp
    failures := k.failures
    pendLoad := k.pendLoad
    pendSat := k.pendSat
    pendBrv := k.pendBrv
    fsat := k.fsat
    skipBkp := k.skipBkp
    stepping := k.stepping
    repLoad := k.repLoad
    lddRes := k.lddRes
    srvMsg := k.srvMsg
    tileWait := k.tileWait
    owed := k.owed
    outAt := k.outAt
    state := if r.state = 2 then k.state else if stop ∧ ¬ k.stepping then .stopped none false else .ready }
  ((c.fromBlock r.block).set 0x010 (toWord v)).set 0x000 (toWord ((if r.vx then 8 else 0) + (if r.sup then 4 else 0)))

/-- What a contribution's strand is called while its member is SAVED (24 R373). -/
def savedCid (h v slot : Nat) : Nat := 2 ^ 40 + (h * 8192 + v) * 8 + slot

/-- Restore a context at its slot: footprint, registers, header; its contributions find it again. -/
def State.putCtx (s : State) (core h v : Nat) (kept : List (Nat × Ctx)) (r : CtxRec) : State :=
  let cid := core * 8 + r.slot
  let s := (s.putDws core (r.wp - 64) r.foot).renameContribs (savedCid h v r.slot) cid
  (s.setCtx cid (r.ctx v (mget kept r.slot) (s.core core).stop)).getHeader cid

/-- The copy strand of a context that holds the sequencer (20 R332). -/
def State.putSeq (s : State) (core : Nat) (kept : List (Nat × Ctx)) (r : CtxRec) : State :=
  let d := r.block.getD 83 0
  match seqOf (d % 8), mget kept 8 with
  | .idle, _ => s
  | _, none => s
  | q, some c =>
    let q' := if q = .blocked then .running else q
    let c := if q' = .running then { c with state := .running } else c
    (s.setCtx (copyBase + core) c).setSeq core (fun _ => ⟨q', core * 8 + r.slot, d / 2 ^ 32, toWord (r.block.getD 84 0)⟩)

/-- Restore a member on a core (05 R117): clean regions take their launch contents, the image's regions their words and tags, then registers, tiles and contexts. -/
def State.putMember (s : State) (g : Group) (core : Nat) (x : Saved) : State :=
  let d := x.image.headD 0
  let (cs, l) := parseCtxs (bitsOf d 16 4) (x.image.drop 16)
  let towns := (cs.map (fun r => ((upTo 4).filter (fun t => bitAt (r.block.getD 27 0) t)).length)).sum
  let (ts, l) := parseTiles towns l
  let rs := parseRegions (bitsOf d 32 9) l
  let s := s.zeroRange core g.hdr.slo g.hdr.slim
  let s := { s with spad := x.clean.foldl (fun (m : List Host.Cell) (b : Host.Cell) => putByte m (spadKey core b.1) b.2) s.spad }
  let s := rs.foldl (fun s r => s.putRegion core r) s
  let dirty := s.dirty
  let s := s.updMember g.handle x.vcore (fun m =>
    { m with
      pst := 0
      pcore := core
      qbase := toWord (x.image.getD 5 0)
      portb := toWord (x.image.getD 6 0)
      bars := (upTo 8).foldl (fun b i => mput b i (toWord (x.image.getD (7 + i) 0))) m.bars })
  let s := ts.foldl (fun s t => s.setTile core t.1 t.2) s
  let s := cs.foldl (fun s r => (s.putCtx core g.handle x.vcore x.extra r).putSeq core x.extra r) s
  let k := s.core core
  let s := s.setCore core { k with copies := k.copies ++ x.copies.map (fun (c : Copy) =>
    { c with
      core := core
      cid := if c.cid = noCid then noCid else if c.strand then copyBase + core else core * 8 + c.slot }) }
  { s.holdingsOn g.handle x.vcore core with dirty := dirty }

end Sys2Proof.Machine
end

