-- ==== Sys2Proof/Machine/Move.lean ====
section
/-! DEFINITION. Members that move and return (15 R275 to R283, 05 R113 to R117): MIGRATE (major 0x3F minor 6), its arrival, placement updates, save, streamed move, resume, and the group watchdog. -/

namespace Sys2Proof.Machine

/-! ## Placement (15 R276) -/

/-- PLACEMENT_UPDATE (15 R276): the copy takes the home's entry, and the core acknowledges. DEDUCED, log entry 95. -/
def execPlacementUpdate (id : Nat) (s : State) : Out :=
  match s.flight id with
  | some (.placeUpd h v core _ _) =>
    let m := s.member h v
    let k := s.core core
    let s := s.setCore core { k with pcache := k.pcache.map (fun x =>
      if x.1 = h * 8192 + v then (x.1, m.pst, m.pcore) else x) }
    .next (s.reflyFrom core id (.placeAck h v core))
  | _ => .next s

/-- PLACEMENT_UPDATE_ACK (15 R276, R280): with the last acknowledgement the change is complete, and its forwarding entry ends once no request sent on by it is in flight; one still on its way there is resolved again through the home. -/
def execPlacementUpdateAck (id : Nat) (s : State) : Out :=
  match s.flight id with
  | some (.placeAck _ _ _) => .next (s.land id).endMemberFwd
  | _ => .next s

/-- A save or streamed move of a group ends its migration entries (15 R280). -/
def State.endMigrationFwd (s : State) (h : Nat) : State :=
  { s with cores := s.cores.map (fun (x : Nat × Core) =>
      (x.1, { x.2 with fwd := x.2.fwd.filter (fun f => !(f.group == h && f.cid.isSome)) })) }

/-! ## When a context may depart (09 R192) -/

/-- Whether every access and result of a strand has ended, and every command has run; one that waits for room in an event queue keeps its record for later; `sends` messages may still be under way (09 R192, 20 R337). -/
def State.settled (s : State) (cid : Nat) (sends : Nat := 0) : Bool :=
  !s.unlanded cid && !s.reqs.any (fun r => r.cid == cid) && s.classL cid == 0 && s.classS cid == sends && s.copiesRan cid &&
    s.classM cid == 0 && (s.ctx cid).call.isNone

/-- Messages of a strand to members that depart themselves: they wait at the NI for the end of the departure, which does not wait for them (15 R279, R284, 16 R300). DESIGN CHOICE, log entry 73. -/
def State.sendsHeld (s : State) (cid : Nat) : Nat :=
  (s.flights.filter (fun f => match f.cargo with
    | .msg m _ => m.cid == cid && m.ddev == 0 &&
        (match s.grp m.dgrp with
         | some g => (g.members.getD m.dvc Member.blank).pst == 1 || g.pre.head? == some 0
         | none => false)
    | _ => false)).length

/-- What a strand has sent and still waits for bears the strand's new name, and leaves from its new core. -/
def State.renameSends (s : State) (old new : Nat) : State :=
  { s with flights := s.flights.map (fun f => match f.cargo with
      | .msg m r => if m.cid = old then { f with cargo := .msg { m with cid := new, core := if new = noCid then m.core else coreOfCid new } r } else f
      | _ => f) }

/-- Whether a context of a member that departs is ready for the snapshot: not running, nothing outstanding, its broadcasts retired (12 R256). An LDD's timeout waits for the resume (24 R365). -/
def State.mayLeave (s : State) (cid : Nat) : Bool :=
  let c := s.ctx cid
  let cc := copyBase + coreOfCid cid
  let q := (s.core (coreOfCid cid)).seq
  c.state != .running && s.settled cid (s.sendsHeld cid) && c.held.isEmpty && !c.accepts &&
    (match c.lddRes with
     | some (0, _) => false
     | _ => true) &&
    (q.state == .idle || q.holder != cid || s.settled cc)

/-- Whether messages of the group's barriers or a migration of the group are in flight (19 R325, 05 R113). -/
def State.unsettledGroup (s : State) (h : Nat) : Bool :=
  s.flights.any (fun f => match f.cargo with
    | .barHop g _ _ _ _ => g == h
    | .barRel g _ _ _ => g == h
    | .migrate _ _ c _ _ => c.group == h
    | _ => false)

/-- Whether engine writes are in flight into a member's scratchpad: copy commands that have started, port deposits, stores and fills of the link engine, and tokens, which for a MOVING member wait (09 R192, 15 R279). -/
def State.enginesInto (s : State) (h v : Nat) : Bool :=
  let core := (s.member h v).pcore
  s.cores.any (fun k => k.2.copies.any (fun c => c.started && c.outcome.isNone && (c.group == h || k.1 == core))) ||
    s.flights.any (fun f => match f.cargo with
      | .pass _ _ g w _ _ => g == h && w == v
      | .dbarTok dev g w _ _ _ _ _ => dev == 0 && g == h && w == v && (s.member h v).pst == 0
      | _ => false) ||
    s.linkReqs.any (fun r => r.writes && r.size != 0 && r.loc.isOn core)

/-- Whether a member may be carried away now (09 R192). -/
def State.memberReady (s : State) (h v : Nat) : Bool :=
  !s.unsettledGroup h && !s.enginesInto h v && (s.cidsAt h v).all (fun i => s.mayLeave i)

/-- Bereaved words of a range lose their entries, with a black-box record each (18 R312). -/
def State.dropBereaved (s : State) (h core lo hi : Nat) : State :=
  let mine (x : Nat × Nat) : Bool := decide (lo ≤ x.1 ∧ x.1 < hi)
  let k := s.core core
  let out := k.bereaved.filter mine
  let s := s.setCore core { k with bereaved := k.bereaved.filter (fun x => !mine x) }
  out.foldl (fun s x => s.bbox 4 0 (s.partOf h) core x.1 0) s

/-- The copy strand of a holder stops with its header written (20 R332). -/
def State.parkSeq (s : State) (cid : Nat) : State :=
  let core := coreOfCid cid
  let q := (s.core core).seq
  let cc := copyBase + core
  if q.state = .idle ∨ q.holder ≠ cid then s
  else
    let s := s.putHeader cc (s.ctx cc).pc
    s.setCtx cc { (s.ctx cc) with
      line := none
      walk := [] }

/-! ## Save (05 R115, 15 R278) -/

/-- What the image does not hold of a member's contexts. -/
def State.kept (s : State) (h v : Nat) : List (Nat × Ctx) :=
  let cids := s.cidsAt h v
  let core := (s.member h v).pcore
  let q := (s.core core).seq
  cids.map (fun i =>
    let c := (s.ctx i).interrupted s.time
    let st := match c.state with
      | .stopped _ e => .stopped none e
      | x => x
    (slotOfCid i, { c with state := st })) ++
    (if q.state ≠ .idle ∧ cids.contains q.holder then [(8, s.ctx (copyBase + core))] else [])

/-- Bytes of a range's clean regions. -/
def State.cleanBytes (s : State) (core lo hi : Nat) : List Host.Cell :=
  (s.spad.filter (fun (c : Host.Cell) => decide (spadKey core lo ≤ c.1 ∧ c.1 < spadKey core hi) && !nmem s.dirty (c.1 / 512))).map
    (fun c => (c.1 - spadKey core 0, c.2))

/-- A context leaves its core without ending: its slot, its tiles and the sequencer it holds are free. -/
def State.vacate (s : State) (cid : Nat) : State :=
  let core := coreOfCid cid
  let q := (s.core core).seq
  let s := if q.state ≠ .idle ∧ q.holder = cid then s.freeSeq core else s
  { (s.dropTiles cid).unrun cid with ctxs := mdel s.ctxs cid }

/-- Write one member's part of the image; the member is SAVED, and stands nowhere. -/
def State.saveMember (s : State) (h v : Nat) : State :=
  let cids := s.cidsAt h v
  let core := (s.member h v).pcore
  let s := cids.foldl (fun s i => (s.setCtx i ((s.ctx i).interrupted s.time)).parkSeq i) s
  match s.grp h with
  | none => s
  | some g =>
    let x : Saved :=
      { vcore := v, core := core, image := s.memberImage g v, extra := s.kept h v, copies := cids.flatMap s.unreported, clean := s.cleanBytes core g.hdr.slo g.hdr.slim }
    let s := s.setGrp { g with images := g.images ++ [x] }
    let k := s.core core
    let s := s.setCore core { k with copies := k.copies.filter (fun c => !x.copies.any (fun y => y.id == c.id)) }
    let s := cids.foldl (fun s i => (s.renameContribs i (savedCid h v (slotOfCid i))).renameSends i noCid) s
    let s := (cids.foldl (fun s i => s.vacate i) s).dropBereaved h core g.hdr.slo g.hdr.slim
    (s.updMember h v (fun m =>
      { m with
        pst := 2
        pcore := 6144 })).placeChanged h v |>.holdingsOn h v 6144

/-- Members of a group that have not exited. -/
def placedMembers (g : Group) : List Nat := (upTo g.members.length).filter (fun v => (g.members.getD v Member.blank).pst != 3)

/-- The command at the head of a group's pre-emptions is done: the host hears of it (29 R412). -/
def State.preDone (s : State) (h : Nat) : State :=
  match s.grp h with
  | some g => (s.setGrp { g with pre := g.pre.drop 1 }).tell [0, 0]
  | none => s

/-- SAVE (15 R278): the command waits for a move in progress; then the contexts depart at their next boundaries, and once nothing is outstanding every member's image is written and the group is SAVED. DESIGN CHOICE, log entry 73. -/
def execSave (h : Nat) (s : State) : Out :=
  match s.grp h with
  | none => .next (s.tell [0, 1])
  | some g =>
    if g.state ≠ .running then .next (s.tell [0, 1])
    else if g.pre.head? = some 0 then
      if ¬ (placedMembers g).all (fun v => s.memberReady h v) then .next s
      else
        let s := (placedMembers g).foldl (fun s v => s.saveMember h v) (s.endMigrationFwd h)
        match s.grp h with
        | some g =>
          .next (((s.setGrp { g with state := .saved }).tlbDrop (fun t => t.group == h)).preDone h)
        | none => .next s
    else .next ((s.setGrp { g with pre := g.pre ++ [0] }).endMigrationFwd h)

/-! ## Streamed move (15 R277, R278) -/

/-- MOVE (15 R278): the command names the new origin; members go one at a time. DESIGN CHOICE, log entry 74. -/
def execMove (h o : Nat) (s : State) : Out :=
  match s.grp h with
  | none => .next (s.tell [0, 1])
  | some g =>
    if g.state ≠ .running ∨ ¬ s.rectIn g.part g.hdr o then .next (s.tell [0, 1])
    else .next ((s.setGrp { g with pre := g.pre ++ [o + 1] }).endMigrationFwd h)

/-- Whether a core can receive a member's contexts at their slots, their tiles and their copy sequencer, none on its way to it by MIGRATE; a member becomes MOVING only then, so that who waits for it waits for its move alone (15 R284). -/
def State.canReceive (s : State) (g : Group) (v core : Nat) : Bool :=
  let cids := s.cidsAt g.handle v
  let old := (s.member g.handle v).pcore
  let q := (s.core old).seq
  cids.all (fun i => (s.freeSlots core).contains (slotOfCid i)) &&
    Nat.land (s.tilesUsed core) (s.tilesOf cids) == 0 &&
    !s.rangeUsed g.handle core g.hdr.slo g.hdr.slim &&
    !(s.flying g.handle).any (fun c => c.vcore == v) &&
    (q.state == .idle || !cids.contains q.holder || ((s.core core).seq.state == .idle && !s.seqReserved core)) &&
    (upTo g.members.length).all (fun w => w == v || (g.members.getD w Member.blank).pst == 3 ||
      (g.members.getD w Member.blank).pcore != core) &&
    decide ((s.core old).fwd.length < 16)

/-- A wait on a word of a range that moves, as it is on the new core. -/
def Wait.moved (w : Wait) (old new lo hi : Nat) : Wait :=
  let here (core off : Nat) : Bool := decide (core = old ∧ lo ≤ off ∧ off < hi)
  match w with
  | .future k off => if here k off then .future new off else .future k off
  | .portOut k off => if here k off then .portOut new off else .portOut k off
  | .lockAt false a => if here (a / 131072) (a % 131072) then .lockAt false (spadKey new (a % 131072)) else .lockAt false a
  | w => w

def CtxState.moved (x : CtxState) (old new lo hi : Nat) : CtxState :=
  match x with
  | .blocked w => .blocked (w.moved old new lo hi)
  | .stopped (some w) e => .stopped (some (w.moved old new lo hi)) e
  | x => x

/-- Sparse data of one core's range at another core, keys in `size` units per core. -/
def carry (keys : List Nat) (lo hi d e : Nat) : List Nat := (keys.filter (fun k => decide (lo ≤ k ∧ k < hi))).map (fun k => k - d + e)

/-- The words, tags and dirty bits of a range are installed on another core. -/
def State.carryRange (s : State) (old new lo hi : Nat) : State :=
  let bytes := s.spad.filter (fun (c : Host.Cell) => decide (spadKey old lo ≤ c.1 ∧ c.1 < spadKey old hi))
  let tags := carry s.tags (wordKey old lo) (wordKey old hi) (wordKey old 0) (wordKey new 0)
  let dirty := carry s.dirty (regionKey old lo) (regionKey old hi) (regionKey old 0) (regionKey new 0)
  let s := s.zeroRange new lo hi
  { s with
    spad := bytes.foldl (fun (m : List Host.Cell) (c : Host.Cell) => putByte m (c.1 - spadKey old 0 + spadKey new 0) c.2) s.spad
    tags := tags.foldl nins s.tags
    dirty := dirty.foldl nins s.dirty }

/-- A parked context takes a place in the wait table of its new cluster, or in a long-wait list where that is full (18 R313, R314). -/
def State.repark (s : State) (cid : Nat) : State :=
  let c := s.ctx cid
  if ¬ c.waits.any tabled then s
  else
    let cl := clusterOf (coreOfCid cid)
    let s := s.setCtx cid { c with parkLong := true }
    let long := decide (256 ≤ s.parked cl)
    let k := s.cluster cl
    (if long then s.setCluster cl { k with waitOvf := min (k.waitOvf + 1) 0xFFFFFFFF } else s).setCtx cid
      { c with parkLong := long, parkRun := 0, woken := c.woken && !long }

/-- A context is on its new core: its slot, its tiles, the sequencer it holds, its contributions under way, its commands that wait for room in its event queue. -/
def State.carryCtx (s : State) (cid new : Nat) : State :=
  let old := coreOfCid cid
  let to_ := new * 8 + slotOfCid cid
  let c := (s.ctx cid).interrupted s.time
  let stop := (s.core new).stop
  let c := { c with
    line := none
    walk := []
    walkFault := []
    noPermit := false
    state := match c.state with
      | .blocked w => if stop then .stopped (some w) false else .blocked w
      | .ready => if stop ∧ ¬ c.stepping then .stopped none false else .ready
      | x => x }
  let tiles := c.ownTiles.map (fun t => (t, s.tile old t))
  let q := (s.core old).seq
  let cc := s.ctx (copyBase + old)
  let s := ((((s.carryCopies cid to_ (copyBase + new)).renameContribs cid to_).renameSends cid to_).parkSeq cid).vacate cid
  let s := tiles.foldl (fun s t => s.setTile new t.1 t.2) ((s.setCtx to_ c).repark to_)
  if q.state ≠ .idle ∧ q.holder = cid then
    (s.setCtx (copyBase + new) { cc with
      line := none
      walk := [] }).setSeq new (fun _ => { q with holder := to_ })
  else s

/-- Install a MOVING member on its new core (15 R278, R280); as at any pre-emption the group's translations are dropped (08 R165). -/
def State.installMember (s : State) (g : Group) (v new : Nat) : State :=
  let h := g.handle
  let lo := g.hdr.slo
  let hi := g.hdr.slim
  let old := (s.member h v).pcore
  let cids := s.cidsAt h v
  let s := cids.foldl (fun s i => s.parkSeq i) s
  let s := (s.dropBereaved h old lo hi).carryRange old new lo hi
  let s := cids.foldl (fun s i => s.carryCtx i new) s
  let s := { s with ctxs := s.ctxs.map (fun (x : Nat × Ctx) =>
    if x.2.group = h then (x.1, { x.2 with state := x.2.state.moved old new lo hi }) else x) }
  let s := s.updMember h v (fun m =>
    { m with
      pst := 0
      pcore := new })
  let k := s.core old
  let s := (s.setCore old { k with fwd := k.fwd ++ [⟨h, lo, hi, new, lo, none⟩] }).tlbDrop (fun t => t.group == h)
  ((((s.endMigrationFwd h).holdingsOn h v new).performFills h).placeChanged h v).endMemberFwd

/-- Whether the move under way has nothing left to do: every member that has not exited stands at its new place. -/
def moveDone (g : Group) : Bool :=
  (placedMembers g).all (fun v => (g.members.getD v Member.blank).pst == 0 &&
    moveTarget g v == some (g.members.getD v Member.blank).pcore)

/-- MEMBER_MOVE_INSTALL (15 R278): a member of a group under a streamed move becomes MOVING once its new core can take it, which from then on keeps the place, and once nothing is outstanding its range is installed there (15 R284); the move ends with its last member; in a group that ended meanwhile the member is EXITED once its own move has ended. -/
def execMemberMoveInstall (h v : Nat) (s : State) : Out :=
  match s.grp h with
  | none => .next s
  | some g =>
    let m := s.member h v
    if ended g then
      match moveTarget g v with
      | some new =>
        if m.pst = 1 ∧ s.memberReady h v then
          let t := (s.installMember g v new).updMember h v (fun m => { m with pst := 3 })
          match t.grp h with
          | some g => .next (((t.setGrp { g with pre := [] }).tell [0, 1]).placeChanged h v)
          | none => .next t
        else .next s
      | none => .next s
    else
      match moveTarget g v with
      | none => .next s
      | some new =>
        if moveDone g then .next (s.preDone h)
        else if m.pst = 0 ∧ m.pcore ≠ new then
          if g.members.any (fun m => m.pst == 1) ∨ ¬ s.canReceive g v new then .next s
          else .next ((s.updMember h v (fun m => { m with pst := 1 })).placeChanged h v)
        else if m.pst = 1 ∧ s.memberReady h v then .next ((s.installMember g v new).tryExitMember h v)
        else .next s

/-! ## Resume (05 R117, 15 R278) -/

/-- Broadcasts by number. -/
def insertBcast (x : Nat × Bcast) : List (Nat × Bcast) → List (Nat × Bcast)
  | [] => [x]
  | y :: r => if x.2.num ≤ y.2.num then x :: y :: r else y :: insertBcast x r

def sortBcasts (l : List (Nat × Bcast)) : List (Nat × Bcast) := l.foldr insertBcast []

/-- Broadcasts of a group still in flight. -/
def State.bcastsOf (s : State) (h : Nat) : List (Nat × Bcast) :=
  s.flights.filterMap (fun f => match f.cargo with
    | .bcast _ g v num r => if g = h then some (v, ⟨num, r, 0, false⟩) else none
    | _ => none)

/-- Broadcasts assigned while a group was saved are received in sequence order before its first instruction, those still in flight with them (12 R246, R256). -/
def State.receiveKept (s : State) (g : Group) : State :=
  let bs := sortBcasts (g.overflowBcasts ++ s.bcastsOf g.handle)
  let s := { s with flights := s.flights.filter (fun f => match f.cargo with
    | .bcast _ h _ _ _ => h != g.handle
    | _ => true) }
  bs.foldl (fun s b =>
    match s.learnCid g.handle b.1 with
    | some cid =>
      s.setCtx cid (({ (s.ctx cid) with pend := (s.ctx cid).pend ++ [b.2] }).setFld 0x044 8 3 ((s.ctx cid).pend.length + 1))
    | none => s) s

/-- What waited for a SAVED group is delivered: fills, broadcasts, messages in arrival order, in front of all others (14 R269, 12 R256, 16 R300). -/
def State.deliverOverflow (s : State) (g : Group) : State :=
  let s := (s.performFills g.handle).receiveKept g
  let ms := g.overflow.map (fun m => { m with cid := max noCid m.cid })
  (ms.zip (upTo ms.length)).foldl (fun t x => if t.behind (s.uid + x.2) x.1 then t else t.arrive (s.uid + x.2) x.1) (s.flyAgain ms)

/-- Whether a core can take a saved member. DESIGN CHOICE, log entry 72. -/
def State.canRestore (s : State) (g : Group) (core : Nat) (x : Saved) : Bool :=
  let slots := (x.extra.map (fun k => k.1)).filter (fun i => decide (i < 8))
  let tiles := (x.extra.filter (fun k => decide (k.1 < 8))).flatMap (fun k => k.2.ownTiles)
  slots.all (fun i => (s.freeSlots core).contains i) &&
    Nat.land (s.tilesUsed core) (tiles.map (fun t => 2 ^ t)).sum == 0 && !s.rangeUsed g.handle core g.hdr.slo g.hdr.slim &&
    (!x.extra.any (fun k => k.1 == 8) || ((s.core core).seq.state == .idle && !s.seqReserved core))

/-- RESUME (05 R117): the group is placed again as a rectangle at an origin, its image restored, and what waited for it delivered. -/
def execResume (h o : Nat) (s : State) : Out :=
  match s.grp h with
  | none => .next (s.tell [0, 1])
  | some g =>
    let cores := g.hdr.coresAt o
    if g.state ≠ .saved ∨ ¬ s.rectIn g.part g.hdr o ∨ ¬ g.images.all (fun x => s.canRestore g (cores.getD x.vcore 6144) x) then
      .next (s.tell [0, 1])
    else
      let s := s.setGrp { g with
        state := .running
        images := []
        overflow := []
        overflowBcasts := [] }
      let s := g.images.foldl (fun s x => (s.putMember g (cores.getD x.vcore 6144) x).placeChanged h x.vcore) s
      .next ((s.deliverOverflow g).tell [0, 0])

/-! ## MIGRATE (15 R282) -/

/-- The lowest slot of a member's core that MIGRATE may take; the footprint keeps off the queue area, and off a range that is another group's by now (15 R282, 16 R285). DEDUCED, log entry 75. DESIGN CHOICE, log entry 125. -/
def State.slotFor (s : State) (g : Group) (q : Word) (core foot : Nat) : Option Nat :=
  if s.rangeUsed g.handle core g.hdr.slo g.hdr.slim then none
  else pick (fun i =>
    let w := g.hdr.wp0 + i * g.hdr.wpstep
    (inArea q (w - 64) (64 + foot)).isNone && decide (64 ≤ w ∧ g.hdr.slo ≤ w - 64 ∧ w + foot ≤ g.hdr.slim) && !touches [(w - 64, 64 + foot)] (s.footsTo core))
    (s.freeSlots core)

/-- Member on a die, the lowest (15 R282). -/
def memberOnDie (g : Group) (die : Nat) : Option Nat :=
  pick (fun v => dieOf (g.members.getD v Member.blank).pcore == die) (upTo g.members.length)

/-- The departure (15 R280, R282): wA = 0, the footprint and the registers leave, and the vacated core keeps a migration entry. -/
def State.emigrate (s : State) (a : BitVec 4) (g : Group) (v core slot : Nat) : State :=
  let cid := s.cur
  let here := s.here
  let to_ := core * 8 + slot
  let s := (((((s.endSeq cid).endFwd cid).carryCopies cid to_ noCid).renameContribs cid to_).setW a 0)
  let s := s.advance
  let c := s.cx
  let s := s.putHeader cid c.pc
  let foot := readBytes s.spad (spadKey here (c.wp - 64)) (64 + c.foot)
  let w := g.hdr.wp0 + slot * g.hdr.wpstep
  let x := { (c.interrupted s.time) with
    wp := w
    state := .ready
    line := none
    walk := []
    walkFault := []
    noPermit := false }
  let k := s.core here
  let s := s.setCore here { k with
    fwd := k.fwd ++ [⟨c.group, c.wp - 64, c.wp + c.foot, core, w - 64, some to_⟩] }
  let s := { s.unrun cid with ctxs := mdel s.ctxs cid }
  ((s.fly (.migrate core slot (x.set 0x010 (toWord v)) foot here)).exitBars c.group c.vcore).tryExitMember c.group c.vcore

/-- Members that are MOVING from a core, each of which will need a forwarding entry there (15 R280). -/
def State.movingFrom (s : State) (core : Nat) : Nat :=
  (s.groups.map (fun g => (g.2.members.filter (fun m => m.pst == 1 && m.pcore == core)).length)).sum

/-- MIGRATE to a member: it waits for what it has outstanding, for the engine writes under way into its member's scratchpad, and for room for its forwarding entry (09 R192, 15 R280, R282). -/
def migrateTo (a : BitVec 4) (addr : Word) (v : Nat) (s : State) : Out :=
  let c := s.cx
  if v = c.vcore then done (s.setW a 0)
  else
    match s.grp c.group with
    | none => stall s
    | some g =>
      let m := s.member c.group v
      if m.pst = 1 then trap s xStalePlace addr
      else
        match s.slotFor g m.qbase m.pcore c.foot with
        | none => done (s.setW a (toWord (2 ^ 63 + 3)))
        | some slot =>
          if ¬ s.settled s.cur ∨ ¬ s.drained s.cur ∨ s.enginesInto c.group c.vcore ∨
              ((s.core s.here).seq.holder = s.cur ∧ s.strandBusy s.here) ∨
              16 ≤ ((s.endFwd s.cur).core s.here).fwd.length + s.movingFrom s.here then stall s
          else .next (s.emigrate a g v m.pcore slot)

/-- MIGRATE (15 R282). DEDUCED, log entry 75. -/
def execMigrate (a b c : BitVec 4) (imm : BitVec 6) (s : State) : Out :=
  reading [b] s fun s =>
    let x := s.cx
    let addr := (s.w b).toNat
    if x.depth ≠ 0 ∨ x.get 0x043 ≠ 0 ∨ x.fld 0x042 32 16 ≠ 0 ∨ x.fld 0x038 0 4 ≠ 0 then
      operandTrapOf s (encS 0x3F 6 a b c imm)
    else
      match rngOf addr with
      | .loc _ => migrateTo a (s.w b) x.vcore s
      | .win v _ => if s.nMembers x.group ≤ v then trap s xAccess (s.w b) else migrateTo a (s.w b) v s
      | _ =>
        match s.locateAll 2 [⟨addr, 1, .load, 0, 0, false⟩] with
        | .trap k t => trap s k (toWord t)
        | .walk ps => .next (s.startWalks ps)
        | .ok [.hbm pa] =>
          let s := (s.setCx { x with walkFault := [] }).useXl s.here x.group addr .load
          (match (s.grp x.group).bind (fun g => memberOnDie g (sliceOf pa / 24)) with
           | some v => migrateTo a (s.w b) v s
           | none => done (s.setW a (toWord (2 ^ 63 + 2))))
        | _ => stall s

/-- MIGRATION_ARRIVAL (15 R282, 05 R113): the footprint and the registers are installed, and the context is READY, or STOPPED on a stopped core and where its MIGRATE was a step (28 R402, R403); the core's TLB is empty for it; one whose group has ended ends here. -/
def execMigrationArrival (id : Nat) (s : State) : Out :=
  match s.flight id with
  | some (.migrate core slot c foot _) =>
    let cid := core * 8 + slot
    let s := s.land id
    (match s.grp c.group with
     | none => .next (s.endFwd cid)
     | some g =>
       if ended g then .next (s.endFwd cid)
       else
         let st := if (s.core core).stop ∨ c.stepping then .stopped none false else .ready
         let k := s.core core
         let s := (s.setCore core { k with tlb := k.tlb.filter (fun t => t.group != c.group) }).setCtx cid { c with
           state := st
           stepping := false }
         .next ((s.wrBytesS core (c.wp - 64) foot).performFills c.group))
  | _ => .next s

/-! ## The watchdog (15 R283) -/

/-- WATCHDOG_CHECK (15 R283): a comparison, made every 1,024 cycles, has found the counter at WDOG. -/
def execWatchdogCheck (h : Nat) (s : State) : Out :=
  match s.grp h with
  | none => .next s
  | some g =>
    if g.hdr.wdog = 0 ∨ (g.state ≠ .running ∧ g.state ≠ .saved) ∨ ¬ g.wdDue then .next s
    else
      let s := (s.endGroup h 3).supRec g.part ⟨xWatchdog, toWord h, 0, [h]⟩
      .next (s.bbox 7 0 g.part 0 h h)

end Sys2Proof.Machine
end

