-- ==== Sys2Proof/Machine/Sys.lean ====
section
/-! DEFINITION. TRAP, TRET, BREAK, HALT (11 R234, R235), TIME (28 R395), CAPR (29 R415 to R417), and a deferred trap as a step of its own (11 R226, R227). -/

namespace Sys2Proof.Machine

/-- TRAP (11 R234): it completes, then the handler is entered with the successor as TPC. -/
def execTrap (a _b _c : BitVec 4) (imm : BitVec 6) (s : State) : Out :=
  reading [a] s fun s =>
    match s.trapWait with
    | some s => .next s
    | none =>
      let t := s.advance
      .next (t.takeTrap (0x40 + imm.toNat) (s.w a) t.cx.pc)

/-- TRET (11 R235). -/
def execTret (_a _b _c : BitVec 4) (_imm : BitVec 6) (s : State) : Out := trapReturn s

/-- BREAK (11 R234). -/
def execBreak (_a _b _c : BitVec 4) (imm : BitVec 6) (s : State) : Out := trap s xBreak (toWord imm.toNat)

/-- HALT (11 R234): the context stops at the successor; the host hears of it and the supervisor's queue gets a record. -/
def execHalt (_a _b _c : BitVec 4) (_imm : BitVec 6) (s : State) : Out :=
  let t := s.advance
  let u := (t.depart t.cur t.cx.pc (.stopped none false)).tell [1, t.cur]
  .next (u.supRec (s.partOf s.cx.group) ⟨xHalt, 0, s.cx.pc, []⟩)

/-- TIME (28 R395). -/
def execTime (a _b _c : BitVec 4) (imm : BitVec 6) (s : State) : Out :=
  let v := match bitsOf imm.toNat 0 2 with
    | 0 => s.time
    | 1 => s.cx.runCycles
    | _ => s.cx.instrs
  done (s.setW a (toWord v))

/-- SIZE of the features, in ascending ID from 1 (29 R416). -/
def capSizes : List Nat := [6144, 131072, 824633720832, 4, 128, 1, 0x3F, 1024, 1024, 6]

/-- Entry i of the capability list; 0 beyond it (29 R416, R417). -/
def capEntry (i : Nat) : Nat :=
  match capSizes[i]? with
  | some n => (i + 1) * 2 ^ 48 + 2 ^ 40 + n
  | none => 0

/-- CAPR (29 R417). -/
def execCapr (a b _c : BitVec 4) (_imm : BitVec 6) (s : State) : Out :=
  reading [b] s fun s => done (s.setW a (toWord (capEntry (s.w b).toNat)))

/-- DEFERRED_TRAP (11 R227): at a boundary of the running context a pending X_SAT_LIMIT is taken, else a pending X_BEREAVED. -/
def execDeferredTrap (cid : Nat) (s : State) : Out :=
  forCid cid s fun s =>
    let c := s.cx
    if c.state ≠ .running ∨ c.call.isSome ∨ ¬ c.pendLoad.isEmpty ∨ ¬ c.walk.isEmpty then s else s.dueTrap.getD s

end Sys2Proof.Machine
end

