-- ==== Sys2Proof/Machine/Probe.lean ====
section
/-! DEFINITION. The probe (28 R402 to R410): PROBE (major 0x3F minor 7), the host's probe, recorder, readout and black-box commands, the recorder's freeze and replay. -/

namespace Sys2Proof.Machine

/-! ## Stop, resume, step (28 R402, R403, 05 R113) -/

/-- A debug stop of a context that does not run: where it stands is a boundary. DEDUCED, log entry 98. -/
def Ctx.stopHere (c : Ctx) : Ctx :=
  match c.state with
  | .ready => { c with state := .stopped none false }
  | .blocked w => { c with state := .stopped (some w) false }
  | _ => c

/-- A debug resume: READY, or BLOCKED where the block remains (05 R113); the next instruction matches nothing (28 R401). -/
def Ctx.resumeHere (c : Ctx) : Ctx :=
  match c.state with
  | .stopped none _ => { c with state := .ready, skipBkp := true, stepping := false }
  | .stopped (some w) _ => { c with state := .blocked w, skipBkp := true, stepping := false }
  | _ => c

def State.mapCtxs (s : State) (core : Nat) (f : Ctx → Ctx) : State :=
  (s.cidsOn core).foldl (fun s i => s.updCtx i f) s

/-- A core stop: the running context stops at its next boundary, the others where they stand. -/
def State.stopCore (s : State) (core : Nat) : State :=
  (s.setCore core { (s.core core) with stop := true }).mapCtxs core Ctx.stopHere

/-- A core resume. -/
def State.resumeCore (s : State) (core : Nat) : State :=
  (s.setCore core { (s.core core) with stop := false }).mapCtxs core Ctx.resumeHere

/-- Whether a context is STOPPED. -/
def Ctx.isStopped (c : Ctx) : Bool :=
  match c.state with
  | .stopped _ _ => true
  | _ => false

/-- A step of a STOPPED context: it may issue until one of the events of R403. A block that remains is tried again. -/
def State.stepCtx (s : State) (cid : Nat) : State :=
  s.updCtx cid (fun c => { c with state := .ready, stepping := true, skipBkp := true })

/-! ## PROBE (28 R404) -/

/-- The target of ops 0, 1, 2 and 5: a core, or a refusal code. -/
def State.probeTarget (s : State) (w : Nat) : Nat ⊕ Nat :=
  let n := bitsOf w 0 13
  let c := s.cx
  if bitAt w 15 then
    if ¬ c.sup ∨ ¬ s.partHas (s.partOf c.group) n then .inl 1 else .inr n
  else if s.nMembers c.group ≤ n then .inl 3
  else .inr (s.member c.group n).pcore

/-- PROBE with its target: a set bit that must be 0 raises X_OPERAND. DEDUCED, log entry 76. -/
def probing (op : Nat) (a b c : BitVec 4) (s : State) (k : Nat → Nat → State → Out) : Out :=
  reading [b] s fun s =>
    let w := (s.w b).toNat
    if bitsOf w 13 2 ≠ 0 ∨ bitsOf w 19 45 ≠ 0 then operandTrapOf s (encS 0x3F 7 a b c (BitVec.ofNat 6 op))
    else if op = 5 ∧ ¬ s.cx.sup then refusal a 1 s
    else
      match s.probeTarget w with
      | .inl code => refusal a code s
      | .inr core => k core (bitsOf w 16 3) s

/-- PROBE STOP (28 R402, R404). -/
def execProbeStop (a b c : BitVec 4) (s : State) : Out :=
  probing 0 a b c s fun core _ s => done ((s.stopCore core).setW a 0)

/-- PROBE RESUME (28 R402, R404). -/
def execProbeResume (a b c : BitVec 4) (s : State) : Out :=
  probing 1 a b c s fun core _ s =>
    if ¬ (s.core core).stop then refusal a 2 s else done ((s.resumeCore core).setW a 0)

/-- PROBE STEP (28 R403, R404). -/
def execProbeStep (a b c : BitVec 4) (s : State) : Out :=
  probing 2 a b c s fun core slot s =>
    let cid := core * 8 + slot
    if (mget s.ctxs cid).isNone then refusal a 3 s
    else if ¬ (s.ctx cid).isStopped then refusal a 2 s
    else done ((s.stepCtx cid).setW a 0)

/-- Whether a die has a cluster of a partition. -/
def State.partOnDie (s : State) (part die : Nat) : Bool :=
  match mget s.parts part with
  | some p => p.clus.any (fun c => dieOf (c % 24 * 4 + c / 24 * 4 * 96) == die)
  | none => false

/-- Die of a cluster. -/
def dieOfCluster (cl : Nat) : Nat := dieOf (cl % 24 * 4 + cl / 24 * 4 * 96)

/-- Start a recording, at the next cycle (28 R406). -/
def State.arm (s : State) (cl delay : Nat) : State :=
  { s with recorders := mput s.recorders (dieOfCluster cl) { Recorder.blank with armed := true, fresh := true, cfg := [cl, delay] } }

/-- A block of cycles under way is over: its counts are written, rounded down (27 R391). -/
def Recorder.shut (r : Recorder) : Recorder :=
  match r.open_ with
  | some (b, xs) => { r with rows := r.rows ++ [2 :: b :: xs.map coarseCount], open_ := none }
  | none => r

/-- Whether a die's recorder holds a frozen recording that the host has not read. -/
def State.unread (s : State) (die : Nat) : Bool := ((mget s.recorders die).map (fun r => r.frozen)).getD false

/-- PROBE RARM (28 R404, R406). -/
def execProbeRarm (a b c : BitVec 4) (s : State) : Out :=
  reading [b] s fun s =>
    let w := (s.w b).toNat
    let cl := bitsOf w 0 9
    let part := s.partOf s.cx.group
    if bitsOf w 9 7 ≠ 0 ∨ bitsOf w 32 32 ≠ 0 then operandTrapOf s (encS 0x3F 7 a b c 3)
    else if ¬ s.cx.sup then refusal a 1 s
    else if Config.clusters ≤ cl ∨ ¬ s.partOnDie part (dieOfCluster cl) then refusal a 3 s
    else if ¬ ((mget s.parts part).map (fun p => p.clus.contains cl)).getD false then refusal a 1 s
    else if s.unread (dieOfCluster cl) then refusal a 2 s
    else done ((s.arm cl (bitsOf w 16 16)).setW a 0)

/-- PROBE RTRIG (28 R404, R406). -/
def execProbeRtrig (a b c : BitVec 4) (s : State) : Out :=
  reading [b] s fun s =>
    let w := (s.w b).toNat
    if bitsOf w 2 62 ≠ 0 then operandTrapOf s (encS 0x3F 7 a b c 4)
    else if ¬ s.cx.sup ∨ ¬ s.partOnDie (s.partOf s.cx.group) w then refusal a 1 s
    else done ((s.trigger w none).setW a 0)

/-- The members that stand on a core. -/
def State.membersOn (s : State) (core : Nat) : List (Group × Nat) :=
  s.groups.flatMap (fun g =>
    ((upTo g.2.members.length).filter (fun v =>
      (g.2.members.getD v Member.blank).pst == 0 && (g.2.members.getD v Member.blank).pcore == core)).map (fun v => (g.2, v)))

/-- The images of the members that stand on a core, where the policy permits checkpoints (28 R408, 27 R391). -/
def State.coreImages (s : State) (core : Nat) : List Nat :=
  if s.gran (s.clusterPart (clusterOf core)) 3 ≠ 3 then [] else (s.membersOn core).flatMap (fun x => s.memberImage x.1 x.2)

/-- A checkpoint (28 R408): the core stops at a boundary, its image goes to the host's area, the log starts again, the core goes on. DESIGN CHOICE, log entry 77. -/
def State.checkpoint (s : State) (core : Nat) : State :=
  let s := match (s.core core).running with
    | some slot => s.depart (core * 8 + slot) (s.ctx (core * 8 + slot)).pc .ready
    | none => s
  let s := s.tell ([6, core] ++ s.coreImages core)
  let k := s.core core
  s.setCore core { k with log := { k.log with used := 0, ord := 0, cyc := 0, ovf := false } }

/-- PROBE CKPT (28 R404, R408). -/
def execProbeCkpt (a b c : BitVec 4) (s : State) : Out :=
  probing 5 a b c s fun core _ s =>
    if ¬ (s.core core).log.on then refusal a 4 s
    else if (s.cidsOn core).any (fun i => i != s.cur && (s.ctx i).call.isSome) then stall s
    else .next (((s.setW a 0).advance).checkpoint core)

/-! ## The recorder (28 R406) -/

/-- RECORDER_FREEZE (28 R406): after a trigger and DELAY rows. -/
def execRecorderFreeze (die : Nat) (s : State) : Out :=
  match mget s.recorders die with
  | some r =>
    if r.triggered ∧ r.left = 0 ∧ ¬ r.frozen then
      .next { s with recorders := mput s.recorders die { r.shut with frozen := true, armed := false } }
    else .next s
  | none => .next s

/-- RECORD (28 R406, 29 R412): op 0 records the cluster in bits [8:0] with DELAY in [31:16], op 1 triggers the die, op 2 reads a frozen recording, which arms the recorder again. -/
def execRecord (die op arg : Nat) (s : State) : Out :=
  match op with
  | 0 =>
    let cl := bitsOf arg 0 9
    if Config.clusters ≤ cl ∨ dieOfCluster cl ≠ die then .next (s.tell [0, 3])
    else if s.unread die then .next (s.tell [0, 2])
    else .next ((s.arm cl (bitsOf arg 16 16)).tell [0, 0])
  | 1 => .next ((s.trigger die none).tell [0, 0])
  | 2 =>
    (match mget s.recorders die with
     | some r =>
       if ¬ r.frozen then .next (s.tell [0, 2])
       else
         .next ((s.arm (r.cfg.getD 0 0) (r.cfg.getD 1 0)).tell ([0, 0] ++ r.rows.flatten))
     | none => .next (s.tell [0, 2]))
  | _ => .next (s.tell [0, 1])

/-! ## The host's probe (28 R396, R399, R402, R403, R407, R408) -/

/-- A SAVED context, by its group and the core and slot that it was saved from (28 R396). -/
def State.pokeSaved (s : State) (h cid : Nat) (f : Ctx → Ctx) : Option State :=
  match s.grp h with
  | none => none
  | some g =>
    let at_ (x : Saved) : Bool := x.core == coreOfCid cid && x.has (slotOfCid cid)
    if g.images.any at_ then
      some (s.setGrp { g with images := g.images.map (fun x => if at_ x then x.poke (slotOfCid cid) f else x) })
    else none

/-- A context by its core and slot wherever it is: resident, MIGRATING to there, or SAVED from there (28 R396). -/
def State.pokeCtx (s : State) (cid : Nat) (f : Ctx → Ctx) : Option State :=
  if (mget s.ctxs cid).isSome then some (s.updCtx cid f)
  else
    match pick (fun x => match x.cargo with
      | .migrate core slot _ _ _ => core * 8 + slot == cid
      | _ => false) s.flights with
    | some ⟨id, .migrate core slot c foot from_⟩ => some (s.refly id (.migrate core slot (f c) foot from_))
    | _ => s.groups.findSome? (fun g => s.pokeSaved g.2.handle cid f)

/-! ## Installing a checkpoint (28 R408) -/

/-- What follows a member's part of an image. -/
def skipImage (l : List Nat) : List Nat :=
  let d := l.headD 0
  let (cs, l) := parseCtxs (bitsOf d 16 4) (l.drop 16)
  let towns := (cs.map (fun r => ((upTo 4).filter (fun t => bitAt (r.block.getD 27 0) t)).length)).sum
  skipRegions (bitsOf d 32 9) (parseTiles towns l).2

/-- A member's part of a checkpoint replaces what stands on its core. -/
def State.installPart (s : State) (core : Nat) (g : Group) (v : Nat) (l : List Nat) : State :=
  let s := (s.cidsAt g.handle v).foldl (fun s i => s.vacate i) s
  let cs := (parseCtxs (bitsOf (l.headD 0) 16 4) (l.drop 16)).1
  s.putMember g core
    { vcore := v
      core := core
      image := l
      extra := (cs.filter (fun r => r.state == 2)).map (fun r => (r.slot, { Ctx.blank with state := .stopped none false }))
      copies := []
      clean := s.cleanBytes core g.hdr.slo g.hdr.slim }

/-- Install a checkpoint: one part after the other goes to the members that stand on the core, in the order in which CKPT wrote them. -/
def State.installAll (s : State) (core : Nat) : List (Group × Nat) → List Nat → State
  | [], _ => s
  | x :: r, l => if l.isEmpty then s else (s.installPart core x.1 x.2 l).installAll core r (skipImage l)

/-- The host's write of BKP0 to BKP3 and WCH0 to WCH3 (28 R396). -/
def pokeReg (idx : Nat) (v : Word) (c : Ctx) : Ctx := c.set (0x028 + idx) (v &&& toWord (crMask (0x028 + idx)))

/-- The answer to a write of one of the eight registers. -/
def State.poked (s : State) (idx : Nat) (t : Option State) : Out :=
  match t with
  | some t => if 8 ≤ idx then .next (s.tell [0, 3]) else .next (t.tell [0, 0])
  | none => .next (s.tell [0, 3])

/-- HOST_PROBE: op 0 stops the context's core, 1 resumes it, 2 steps the context, 3 writes BKP (idx 0 to 3) or WCH (4 to 7) of the context, resident or not, 4 gives the core a log area of idx bytes at an address, 5 replays the log in that area on the core, 6 ends the replay, 7 installs on the core the checkpoint whose idx doublewords stand at an address of HBM, and 8 and more writes as op 3 does the context that was saved from the core and slot by the group whose handle is op less 8. DESIGN CHOICE, log entry 77. DESIGN CHOICE, log entry 81. -/
def execHostProbe (cid op idx : Nat) (v : Word) (s : State) : Out :=
  let core := coreOfCid cid
  let k := s.core core
  if Config.cores ≤ core then .next (s.tell [0, 3])
  else match op with
  | 0 => .next ((s.stopCore core).tell [0, 0])
  | 1 => if k.stop then .next ((s.resumeCore core).tell [0, 0]) else .next (s.tell [0, 2])
  | 2 => if (s.ctx cid).isStopped then .next ((s.stepCtx cid).tell [0, 0]) else .next (s.tell [0, 2])
  | 3 => s.poked idx (s.pokeCtx cid (pokeReg idx v))
  | 4 =>
    if Config.hbmBytes < v.toNat + idx then .next (s.tell [0, 1])
    else .next ((s.setCore core { k with log := ⟨true, v.toNat, idx, 0, 0, 0, false⟩ }).tell [0, 0])
  | 5 =>
    .next ((s.setCore core { k with
      log := { k.log with on := false, cyc := 0 }
      replay := some 0 }).tell [0, 0])
  | 6 => .next ((s.setCore core { k with replay := none }).tell [0, 0])
  | 7 =>
    if Config.hbmBytes < v.toNat + 8 * idx then .next (s.tell [0, 1])
    else .next ((s.installAll core (s.membersOn core) ((upTo idx).map (fun i => s.rdH (v.toNat + 8 * i) 8))).tell [0, 0])
  | h + 8 => s.poked idx (s.pokeSaved h cid (pokeReg idx v))

/-! ## Replay (28 R408) -/

/-- A deposit from the log: the slot, then TAIL, then in dispatch mode the push. -/
def State.redeposit (s : State) (core slot : Nat) (bs : List Byte) : State :=
  let s := s.engineBytes core slot bs
  match s.ownerOf core slot with
  | none => s
  | some (h, v) =>
    match pick (fun r => decide (ringSlots r.2.2 ≤ slot ∧ slot < ringSlots r.2.2 + 256 * 2 ^ ringLogn r.2.2)) (s.member h v).rings with
    | none => s
    | some (_, d, f) =>
      let s := s.bumpQ core (d + 12)
      if ringDisp f then
        let e := 2 ^ 62 + (if ringStl f then 2 ^ 35 else 0) + bitsOf (s.rdS core (slot + 24) 8) 0 17 * 2 ^ 17 + slot
        (s.pushAt h v (ringPrio f) e).getD s
      else s

/-- Whether an instruction of the focus that is one step has its answer from elsewhere: another member's bank, HBM, or an engine of the device; the register that takes it, if one does (log entry 19). -/
def State.asksFar (s : State) (i : Instr) : Option (Option (BitVec 4)) :=
  let at_ (a : Word) (r : Option (BitVec 4)) : Option (Option (BitVec 4)) :=
    match rngOf a.toNat with
    | .loc _ => none
    | .win v _ => if v = s.cx.vcore then none else some r
    | _ => some r
  match i with
  | .ldf a b _ imm | .ldfe a b _ imm | .feq a b _ imm => at_ (s.w b + imm.signExtend 64) (some a)
  | .fill _ b _ imm | .fillX _ b _ imm | .empty _ b _ imm => at_ (s.w b + imm.signExtend 64) none
  | .lock a b _ _ | .trylock a b _ _ | .cready a b _ _ => at_ (s.w b) (some a)
  | .unlock _ b _ _ => at_ (s.w b) none
  | .disown _ _ _ _ | .ack _ _ _ _ | .convey _ _ _ _ => some none
  | .heir a _ _ _ | .estq a _ _ _ | .launch a _ _ _ | .kill a _ _ _ | .gstat a _ _ _ | .pbind a _ _ _ | .punbind a _ _ _ | .pstat a _ _ _
  | .lnkctlRnew a _ _ | .lnkctlRfree a _ _ | .lnkctlPark a _ _ | .lnkctlLight a _ _ | .lnkctlRetrain a _ _
  | .probeStop a _ _ | .probeResume a _ _ | .probeStep a _ _ | .probeRarm a _ _ | .probeRtrig a _ _ | .probeCkpt a _ _ => some (some a)
  | _ => none

/-- Whether an instruction of a replayed core waits for its answer from the log (28 R408). -/
def State.waitsLog (s : State) (i : Instr) : Bool :=
  (s.core s.here).replay.isSome && (s.asksFar i).isSome && s.cx.call.isNone

/-- Kind and VAL of the next logged event of a replay. -/
def Core.nextLogged (k : Core) (s : State) : Nat × Nat :=
  match k.replay with
  | some i => (s.rdH (k.log.base + 32 * i + 15) 1, s.rdH (k.log.base + 32 * i + 24) 8)
  | none => (0, 0)

/-- While the log's next event wakes the strand, the instruction that waits for its answer had blocked. DESIGN CHOICE, log entry 77. -/
def State.asLogged (s : State) : State :=
  let e := (s.core s.here).nextLogged s
  if e.1 = rxWake ∧ e.2 % 8 = slotOfCid s.cur then s.block (.future 6144 0) else s

/-- `asksFar` of the pair at which the focus stands; of majors 0x3E and 0x3F, LNKCTL, PBIND, PUNBIND, PSTAT and PROBE ask, and `a` takes their answer. -/
def State.asksHere (s : State) : Option (Option (BitVec 4)) :=
  match s.bits with
  | none => none
  | some (h, t) =>
    match decodeNear h t with
    | some i => s.asksFar i
    | none =>
      let m := bitsOf t 10 6
      if (bitsOf h 2 6 = 0x3E ∧ 3 ≤ m ∧ m ≤ 6) ∨ (bitsOf h 2 6 = 0x3F ∧ m = 7) then some (some (BitVec.ofNat 4 (h / 4096))) else none

/-- The logged answer of the instruction that the running strand of a core waits with. -/
def State.answerOne (s : State) (core v : Nat) : State :=
  match (s.core core).running with
  | none => s
  | some slot =>
    let u : State := { s with cur := core * 8 + slot }
    match (if u.cx.stalled = some 3 then u.asksHere else none) with
    | some r => { (r.elim u (fun a => u.setW a (toWord v))).advance with cur := s.cur }
    | none => s

/-- An answer from the log goes to the core's oldest request that waits for one. -/
def State.reanswer (s : State) (core v : Nat) : State :=
  match pick (fun r => r.core == core && r.reads && r.open_ && !r.loc.isOn core) s.reqs with
  | some r => (s.setReq { r with phase := .answered, val := v }).landBatch r.batch
  | none =>
    match pick (fun f => match f.cargo with
        | .ldd c _ _ _ _ _ _ _ => coreOfCid c == core
        | .bcastReq _ c _ _ => coreOfCid c == core
        | _ => false) s.flights with
    | some ⟨id, .ldd c _ _ _ _ _ _ _⟩ => (s.land id).lddEnd c (0, v)
    | some ⟨id, .bcastReq _ c dst _⟩ => (s.land id).wrS (coreOfCid c) dst 8 v
    | _ =>
      match pick (fun i => ((s.ctx i).call.map (fun k => k.answers.any (fun x => x.2.isNone))).getD false) (s.cidsOn core) with
      | some cid =>
        (match (s.ctx cid).call with
         | some k => s.answer cid k.id (((pick (fun x => x.2.isNone) k.answers).map (fun x => x.1)).getD 0) v
         | none => s)
      | none => s.answerOne core v

/-- The effect of one logged event on the replayed core. -/
def State.reinject (s : State) (core kind v : Nat) (bs : List Byte) : State :=
  match kind with
  | 1 => s.redeposit core v bs
  | 3 => s.reanswer core v
  | 4 => s.wake (core * 8 + v % 8)
  | 6 =>
    (match pick (fun i => (s.ctx i).get 0x043 != 0) (s.cidsOn core) with
     | some cid =>
       s.setCtx cid (({ (s.ctx cid) with pend := (s.ctx cid).pend ++ [(⟨v / 2 ^ 32, v % 2 ^ 32, 0, false⟩ : Bcast)] }).setFld 0x044 8 3
         ((s.ctx cid).pend.length + 1))
     | none => s)
  | 7 =>
    (match pick (fun i => ((s.ctx i).call.map (fun k => k.steal)).getD false) (s.cidsOn core) with
     | some cid =>
       (match (s.ctx cid).call with
        | some k => s.answer cid k.id 0 v
        | none => s)
     | none => s)
  | _ =>
    let s := if bitAt v 63 then s.engineBytes core (v % 131072) bs else s.wrBytesS core (v % 131072) bs
    if bitAt v 62 then s.setTag core (v % 131072) false else s

/-- REPLAY_INJECT (28 R408): the next logged event takes effect once the core has reached its CYC. -/
def execReplayInject (core : Nat) (s : State) : Out :=
  let k := s.core core
  match k.replay with
  | none => .next s
  | some i =>
    let a := k.log.base + 32 * i
    let kind := s.rdH (a + 15) 1
    let len := bitsOf (s.rdH (a + 8) 8) 32 24
    if k.log.size < 32 * (i + 1) ∨ kind = 0 ∨ k.log.cyc < s.rdH a 8 then .next s
    else
      let s := s.reinject core kind (s.rdH (a + 24) 8) (readBytes s.hbm (a + 32) len)
      .next (s.setCore core { (s.core core) with replay := some (i + 1 + (len + 31) / 32) })

/-! ## Readout (28 R398, R409, 27 R391) -/

/-- A counter as its owner's policy lets the host read it; one of no partition is read in full. -/
def State.counterOf (s : State) (cl v : Nat) : Nat :=
  if s.parts.any (fun p => p.2.clus.contains cl) then s.shown (s.clusterPart cl) v else v

/-- A core's delay accounts as numbers: sender, then the five sums. -/
def delayDws (l : List (Nat × List Nat)) : List Nat := l.flatMap (fun x => x.1 :: x.2.take 5)

/-- Power and temperature as the sensors of a place report them: free values, from a cluster or, coarse, from its die (01 R15, 27 R391, R393). -/
def State.sensors (s : State) (place : Nat) : List Nat :=
  (upTo 2).map (fun i => (Config.freeWord s.uid (2 * place + i)).toNat)

/-- A readout of sensors. -/
def State.tellSensors (s : State) (vs : List Nat) : State := { s.tell ([0, 0] ++ vs) with uid := s.uid + 1 }

/-- The sensors of a cluster in the form that its tenant's policy permits: none, those of the die, or the cluster's own (27 R391). -/
def State.clusterSensors (s : State) (cl : Nat) : List Nat :=
  let own := s.parts.any (fun p => p.2.clus.contains cl)
  match if own then s.gran (s.clusterPart cl) 6 else 3 with
  | 0 => [0, 0]
  | 3 => s.sensors cl
  | _ => s.sensors (Config.clusters + dieOfCluster cl)

/-- Whether what a readout names exists (01 R7, R9): a core, a cluster, a resident context, a port, a die. -/
def State.readable (s : State) (sel idx : Nat) : Bool :=
  match sel with
  | 0 | 1 | 2 | 7 => decide (idx < Config.cores)
  | 3 | 4 => decide (idx / 4 < Config.clusters)
  | 5 | 11 => decide (idx < Config.clusters)
  | 6 => (mget s.ctxs (idx / 4)).isSome
  | 8 | 12 => decide (idx < 4)
  | _ => true

/-- READOUT: sel 0 to 2 corrected errors, bereaved overflow, clock skew of core idx; 3, 4 permit stalls and withy waits of cluster idx / 4, plane idx mod 4; 5 wait overflow of cluster idx; 6 counter idx mod 4 of context idx / 4; 7 the delay accounts of core idx, which it clears; 8 the refusal counter of port idx; 9 the fault details of the partition; 10 its presence windows; 11 power and temperature of cluster idx; 12 those of die idx, which are the device's own (27 R393). -/
def execReadout (part sel idx : Nat) (s : State) : Out :=
  let one (cl v : Nat) : Out := .next (s.tell [0, 0, s.counterOf cl v])
  if ¬ s.readable sel idx then .next (s.tell [0, 3])
  else match sel with
  | 0 => one (clusterOf idx) (s.core idx).cerr
  | 1 => one (clusterOf idx) (s.core idx).bovf
  | 2 => one (clusterOf idx) (s.core idx).skew
  | 3 => one (idx / 4) (mgetD (s.cluster (idx / 4)).permitStall (idx % 4) 0)
  | 4 => one (idx / 4) (mgetD (s.cluster (idx / 4)).withyWait (idx % 4) 0)
  | 5 => one idx (s.cluster idx).waitOvf
  | 6 => one (clusterOf (coreOfCid (idx / 4))) ((s.ctx (idx / 4)).get (0x024 + idx % 4)).toNat
  | 7 =>
    let k := s.core idx
    .next ((s.setCore idx { k with delays := [] }).tell ([0, 0] ++ delayDws k.delays))
  | 8 => .next (s.tell [0, 0, mgetD s.portDrops idx 0])
  | 9 => .next (s.tell ([0, 0] ++ ((mget s.parts part).map (fun p => p.faults.flatten)).getD []))
  | 10 => .next (s.tell ([0, 0] ++ ((mget s.parts part).map (fun p => p.windows.flatMap (fun w => [w.1, w.2]))).getD []))
  | 11 => .next (s.tellSensors (s.clusterSensors idx))
  | 12 => .next (s.tellSensors (s.sensors (Config.clusters + idx)))
  | _ => .next (s.tell [0, 1])

/-- BLACK_BOX_READ (28 R410): the entries oldest first; the ring takes entries again. -/
def execBlackBoxRead (s : State) : Out :=
  let n := s.bbSeq
  let first := n - min n 4096
  let es := (upTo (n - first)).flatMap (fun i => mgetD s.blackBox ((first + i) % 4096) [])
  .next ({ s with bbFrozen := false }.tell ([0, 0] ++ es))

/-! ## The estate table (21 R338) -/

/-- An entry's four doublewords. -/
def Holding.dws (e : Holding) : List Nat :=
  [e.holder * 2 ^ 32 + e.heir, e.stamp % 2 ^ 64,
   e.former * 2 ^ 32 + e.kind * 2 ^ 29 + (if e.brv then 2 ^ 28 else 0) + e.space * 2 ^ 26, e.loc]

/-- ESTATE_READ: an entry not in use reads as zeros. -/
def execEstateRead (first count : Nat) (s : State) : Out :=
  if 1048576 < first + count then .next (s.tell [0, 1])
  else
    .next (s.tell ([0, 0] ++ (upTo count).flatMap (fun i =>
      ((mget s.estate (first + i)).map Holding.dws).getD [0, 0, 0, 0])))

end Sys2Proof.Machine
end

