-- ==== Sys2Proof/Machine/Host.lean ====
section
/-! DEFINITION. The host's commands and what happens to the device from outside (27 R386 to R392, 29 R411 to R420). A response is told as 0, a status, and what it carries; only the statuses that the spec names are its own. -/

namespace Sys2Proof.Machine

/-- A response with a status. DESIGN CHOICE, log entry 80. -/
def answered (s : State) (k : Nat) : Out := .next (s.tell [0, k])

/-! ## Bring-up (29 R418, R419) -/

/-- IMAGE: the ROM verifies the signature over the image's digest; a good image brings the device up. DESIGN CHOICE, log entry 84. -/
def execImage (body sig : List Byte) (s : State) : Out :=
  let d := Config.sha256 body
  if s.boot = .up then answered s 1
  else if ¬ Config.lmsVerify Config.romKey (leBytes 32 d.toNat) sig then answered s 4
  else .next (({ s with boot := .up, fwDigest := d }.tell [0, 0]).tell [5])

/-- ROOT (08 R158). -/
def execRoot (pa : Nat) (s : State) : Out :=
  if pa % 4096 ≠ 0 ∨ Config.hbmBytes ≤ pa then answered s 1 else answered { s with superRoot := pa } 0

/-- QUOTE (29 R419): nonce, firmware digest, key, SEQ and digest of the installed policy; each signature is used once. PRESUMED, log entry 82. -/
def execQuote (part : Nat) (nonce : List Byte) (s : State) : Out :=
  if s.sigsLeft = 0 then answered s 5
  else if nonce.length ≠ 32 ∨ (mget s.parts part).isNone then answered s 1
  else
    let (seq, body) : Nat × Nat := match s.policyOf part with
      | some p => (dwOf p 0 / 2 ^ 32, (Config.sha256 p).toNat)
      | none => (0, 0)
    let m := nonce ++ leBytes 32 s.fwDigest.toNat ++ leBytes 2 part ++ leBytes 4 seq ++ leBytes 32 body
    .next ({ s with sigsLeft := s.sigsLeft - 1 }.tell ([0, 0] ++ (Config.lmsSign m (1048576 - s.sigsLeft)).map BitVec.toNat))

/-! ## Translations, handles, streams (08 R164, 24 R362, 25 R374) -/

/-- Every translation that is kept: of cores, of clusters and of copy commands (08 R163). -/
def State.tlbAll (s : State) : List Tlb :=
  s.cores.flatMap (fun k => k.2.tlb ++ k.2.copies.flatMap (fun c => c.xl)) ++ s.clusters.flatMap (fun c => c.2.tcache)

/-- INVALIDATE (08 R164): the entries that overlap the range go everywhere; the command completes once every access that may have used one, in its page or in the range, is performed. DESIGN CHOICE, log entry 83. -/
def execInvalidate (h va len : Nat) (s : State) : Out :=
  let hit (t : Tlb) : Bool := t.group == h && decide (t.va < va + len ∧ va < t.va + t.size)
  let ranges := (va, len) :: ((s.tlbAll.filter hit).map (fun t => (t.va, t.size))).eraseDups
  let s := s.tlbDrop hit
  let used := s.reqs.filter (fun r =>
    r.group == h && r.unperformed && isHbm r.loc && ranges.any (fun x => overlap r.va.toNat r.size x.1 x.2))
  if used.isEmpty then answered s 0 else .next { s with invals := s.invals ++ [(Config.hostPort (.invalidate h va len), used.map (fun r => r.id))] }

/-- The INVALIDATE commands whose accesses have all been performed complete (08 R164). -/
def State.endInvals (s : State) : State :=
  let ends (x : Nat × List Nat) : Bool := (s.pendingOf x.2).isEmpty
  { s with
    invals := s.invals.filter (fun x => !ends x)
    hostOut := s.hostOut ++ (s.invals.filter ends).map (fun _ => [0, 0]) }

/-- HANDLE (24 R362): entry idx of a partition's handle table. -/
def execHandle (part idx v : Nat) (s : State) : Out :=
  match mget s.parts part with
  | none => answered s 1
  | some p =>
    if 4096 ≤ idx then answered s 1
    else answered { s with parts := mput s.parts part { p with handles := mput p.handles idx (v % 2 ^ 64) } } 0

/-- STREAM (25 R374): an ingress stream of a port for a partition. -/
def execStream (part port id : Nat) (s : State) : Out :=
  match mget s.parts part with
  | none => answered s 1
  | some p =>
    if 4 ≤ port then answered s 1
    else answered { s with parts := mput s.parts part { p with streams := mput p.streams id port } } 0

/-! ## Partitions and policies (27 R386 to R392) -/

/-- PARTITION_CREATE (27 R386): a key that is free, clusters that no partition owns; `root` is the partition root and the handle table, as entries with their indexes. -/
def execPartitionCreate (key : Nat) (pub : List Byte) (clus : List Nat) (root : Nat × List (Nat × Nat)) (s : State) : Out :=
  let cs := clus.foldl nins []
  if key = 0 ∨ 0xFFFF < key ∨ (mget s.parts key).isSome ∨ 256 ≤ s.parts.length ∨ cs.isEmpty ∨ root.2.any (fun x => decide (4096 ≤ x.1)) ∨
      cs.any (fun c => decide (Config.clusters ≤ c) || s.parts.any (fun p => p.2.clus.contains c)) then answered s 1
  else
    let p : Part :=
      { key := key, pub := pub, clus := cs, root := root.1, handles := root.2.foldl (fun t x => mput t x.1 (x.2 % 2 ^ 64)) [], policy := none, state := .live, queue := [],
        inbox := [], streams := [], faults := [], windows := [] }
    answered { s with parts := mput s.parts key p } 0

/-- PARTITION_DESTROY (27 R388): CLOSING, every group killed. -/
def execPartitionDestroy (part : Nat) (s : State) : Out :=
  match mget s.parts part with
  | none => answered s 1
  | some p =>
    if p.state = .closing then answered s 1
    else
      let s := { s with parts := mput s.parts part { p with state := .closing } }
      let hs := (s.groups.filter (fun g => g.2.part == part)).map (fun g => g.2.handle)
      answered ((hs.foldl (fun s h => s.endGroup h 2) s).tryClose part) 0

/-- Whether a policy body has a wrong version, a must-be-zero bit set or WLOG out of range (27 R389, R390). -/
def badPolicy (b : List Byte) : Bool :=
  let x (i : Nat) : Nat := (b.getD i 0).toNat
  decide (b.length ≠ 64 ∨ x 2 + 256 * x 3 ≠ 1 ∨ x 15 ≠ 0 ∨ 64 ≤ x 16 ∨ x 16 < 10 ∨ 40 < x 16) ||
    (b.drop 17).any (fun y => y != 0)

/-- A type code of four bytes, most significant first. -/
def codeAt (bs : List Byte) (i : Nat) : Nat := (upTo 4).foldl (fun n k => n * 256 + (bs.getD (i + k) 0).toNat) 0

/-- Whether a public key and a signature are of a supported set: LMS_SHA256_M32_H10, H15 or H20 with LMOTS_SHA256_N32_W4 or W8, one level (27 R390); their codes and lengths are those of RFC 8554. PRESUMED, log entry 132. -/
def lmsSet (pub sig : List Byte) : Bool :=
  let lms := codeAt pub 0
  let ots := codeAt pub 4
  let p := if ots = 3 then 67 else 34
  let h := 5 * (lms - 4)
  pub.length == 56 && decide (6 ≤ lms ∧ lms ≤ 8 ∧ (ots = 3 ∨ ots = 4)) && sig.length == 44 + 32 * (p + h) &&
    codeAt sig 4 == ots && codeAt sig (40 + 32 * p) == lms

/-- The check that a policy fails, 0 for none (27 R390). -/
def policyCheck (part : Nat) (p : Part) (body sig : List Byte) : Nat :=
  let seq := polByte (some body) 4 + 256 * polByte (some body) 5 + 65536 * polByte (some body) 6 + 16777216 * polByte (some body) 7
  let old := dwOf (p.policy.getD []) 0 / 2 ^ 32
  if badPolicy body then 1
  else if polByte (some body) 0 + 256 * polByte (some body) 1 ≠ part then 2
  else if p.policy.isSome ∧ seq ≤ old then 3
  else if ¬ lmsSet p.pub sig ∨ ¬ Config.lmsVerify p.pub body sig then 4
  else 0

/-- POLICY (27 R388, R390, R392): installed now, with a marker between the presence windows of the old policy and those of the new, and in a recording under way of the partition's clusters. -/
def execPolicy (part : Nat) (body sig : List Byte) (s : State) : Out :=
  match mget s.parts part with
  | none => answered s 1
  | some p =>
    if p.state = .closing then answered s 1
    else
      match policyCheck part p body sig with
      | 0 =>
        let s := { s with
          parts := mput s.parts part { p with policy := some body, windows := p.windows ++ [(7, s.time)] }
          recorders := s.recorders.map (fun (r : Nat × Recorder) =>
            if r.2.armed ∧ p.clus.contains (r.2.cfg.headD 0) then (r.1, { r.2.shut with rows := r.2.shut.rows ++ [[s.time]] }) else r) }
        answered s 0
      | k => answered s k

/-! ## Power (29 R413, R414) -/

/-- Whether a cluster may not leave ON: a resident context or one on its way, a queued message, a held wait entry. -/
def State.clusterBusy (s : State) (cl : Nat) : Bool :=
  let on (core : Nat) : Bool := clusterOf core == cl
  s.ctxs.any (fun p => on (coreOfCid p.1)) ||
    s.flights.any (fun f => match f.cargo with
      | .migrate core _ _ _ _ => on core
      | .msg m _ => m.ddev == 0 && on (s.member m.dgrp m.dvc).pcore && (s.grp m.dgrp).isSome
      | .bounce m _ => on (s.member m.dgrp m.dvc).pcore && (s.grp m.dgrp).isSome
      | _ => false) ||
    s.groups.any (fun g => g.2.state != .retired && g.2.members.any (fun m => m.pst != 2 && on m.pcore && m.rings.any (fun r =>
      s.bound m r.1 && s.ringCount m.pcore r.2.1 != 0)))

/-- POWER_CLUSTER: 0 ON, 1 GATED, 2 OFF; the state is reached after the transition time. DESIGN CHOICE, log entry 85. -/
def execPowerCluster (clus st : Nat) (s : State) : Out :=
  let c := s.cluster clus
  if Config.clusters ≤ clus ∨ 2 < st ∨ (st ≠ 0 ∧ c.power = .on ∧ s.clusterBusy clus) then answered s 1
  else
    let p : Power := match st with
      | 0 => .on
      | 1 => .gated
      | _ => .off
    answered (s.setCluster clus { c with going := some p }) 0

/-- PLANE_LIGHT (24 R355). -/
def execPlaneLight (plane : Nat) (s : State) : Out :=
  if plane = 0 ∨ 3 < plane then answered s 1
  else answered { s with planeGoing := nins s.planeGoing plane, darkening := ndel s.darkening plane } 0

/-- PLANE_DARKEN (24 R355). -/
def execPlaneDarken (plane : Nat) (s : State) : Out :=
  if plane = 0 ∨ 3 < plane then answered s 1
  else answered { s with darkening := nins s.darkening plane, planeGoing := ndel s.planeGoing plane } 0

/-- PLANE_DARK_EFFECT (24 R355): no request remains outstanding on the plane, and nothing waits to be written on it. -/
def execPlaneDarkEffect (plane : Nat) (s : State) : Out :=
  if ¬ s.darkening.contains plane ∨ s.reqs.any (fun r => r.crosses && r.open_ && r.plane == plane) ∨
      s.hops.any (fun h => h.plane == plane) then .next s
  else .next { s with planes := mput s.planes plane false, darkening := ndel s.darkening plane }

/-- POWER_STACK: 0 ACTIVE, 1 SELF-REFRESH. -/
def execPowerStack (stack st : Nat) (s : State) : Out :=
  if 12 ≤ stack ∨ 1 < st then answered s 1 else answered { s with stackGoing := mput s.stackGoing stack (st == 0) } 0

/-- POWER_PORT: refused for the port that carries the command; it comes only through a port that is UP (01 R14). -/
def execPowerPort (port : Nat) (up : Bool) (via : Nat) (s : State) : Out :=
  if ¬ s.portUp via then .next s
  else if 4 ≤ port ∨ port = via then answered s 1
  else answered { s with portGoing := mput s.portGoing port up } 0

/-- POWER_TRANSITION_COMPLETE: unit 0 a cluster, 1 a plane, 2 a stack, 3 a port. A cluster that became busy meanwhile stays ON. -/
def execPowerTransitionComplete (unit idx : Nat) (s : State) : Out :=
  match unit with
  | 0 =>
    let c := s.cluster idx
    (match c.going with
     | some p =>
       if p ≠ .on ∧ c.power = .on ∧ s.clusterBusy idx then .next (s.setCluster idx { c with going := none })
       else .next (s.setCluster idx { c with power := p, going := none })
     | none => .next s)
  | 1 =>
    if s.planeGoing.contains idx then
      .next { s with planes := mput s.planes idx true, planeGoing := ndel s.planeGoing idx }
    else .next s
  | 2 =>
    (match mget s.stackGoing idx with
     | some b => .next { s with hbmStacks := mput s.hbmStacks idx b, stackGoing := mdel s.stackGoing idx }
     | none => .next s)
  | _ =>
    match mget s.portGoing idx with
    | some b => .next { s with ports := mput s.ports idx b, portGoing := mdel s.portGoing idx }
    | none => .next s

/-- GRANT_ISSUE (29 R414): the response carries the grant's number. -/
def execGrantIssue (part : Nat) (links : List Nat) (expiry : Nat) (s : State) : Out :=
  if (mget s.parts part).isNone then answered s 1
  else .next ({ s with grants := s.grants ++ [(⟨s.uid, part, links, expiry⟩ : Grant)], uid := s.uid + 1 }.tell [0, 0, s.uid])

/-- GRANT_REVOKE (29 R414). -/
def execGrantRevoke (id : Nat) (s : State) : Out :=
  answered { s with grants := s.grants.filter (fun g => g.id != id) } 0

/-- GRANT_EXPIRY (29 R414). -/
def execGrantExpiry (id : Nat) (s : State) : Out :=
  .next { s with grants := s.grants.filter (fun g => !(g.id == id && decide (g.expiry ≤ s.time))) }

/-- TIME_ADJUST (28 R394): a new adjustment replaces the rest of the old one. -/
def execTimeAdjust (d : Word) (s : State) : Out := answered { s with timeAdj := d.toInt } 0

/-! ## Bulk transfers and packets (29 R411) -/

/-- BULK_WRITE: performed at its home slices before its acknowledgement; it starts once its stacks are ACTIVE (State.mayStart). -/
def execBulkWrite (pa : Nat) (data : List Byte) (s : State) : Out :=
  if Config.hbmBytes < pa + data.length then answered s 1 else answered { s with hbm := writeBytes s.hbm pa data } 0

/-- BULK_READ; it starts once its stacks are ACTIVE (State.mayStart). -/
def execBulkRead (pa len : Nat) (s : State) : Out :=
  if Config.hbmBytes < pa + len then answered s 1
  else .next (s.tell ([0, 0] ++ (readBytes s.hbm pa len).map BitVec.toNat))

/-- UNSUPPORTED_PACKET: dropped and counted; nothing is sent back. -/
def execUnsupportedPacket (port : Nat) (s : State) : Out :=
  if s.portUp port then .next { s with portDrops := bump s.portDrops port 1 } else .next s

/-! ## Reset and fatal events (28 R410, 29 R418, R420) -/

/-- A fatal event's entry, after which the black box is frozen. DESIGN CHOICE, log entry 86. -/
def State.fatal (s : State) : State := { s.bbox 8 0 0 0 0 0 with bbFrozen := true }

/-- Reset: the black box and the identity key's count are kept, and what stands in the memories stays (log entry 1); everything else is as at reset. -/
def State.resetAgain (s : State) : State :=
  { State.reset with
    spad := s.spad
    hbm := s.hbm
    tags := s.tags
    badSpad := s.badSpad
    badHbm := s.badHbm
    softSpad := s.softSpad
    softHbm := s.softHbm
    blackBox := s.blackBox
    bbSeq := s.bbSeq
    bbFrozen := s.bbFrozen
    sigsLeft := s.sigsLeft
    hostOut := s.hostOut
    devNum := s.devNum
    agenda := s.agenda
    uid := s.uid
    steps := s.steps }

/-- THERMAL_TRIP (29 R420): a die at 105 °C. -/
def execThermalTrip (_die : Nat) (s : State) : Out := .next s.fatal.resetAgain

/-- SUPPLY_LOSS (28 R410). -/
def execSupplyLoss (s : State) : Out := .next { s.fatal with powered := false }

/-- DEVICE_RESET (28 R410, 29 R418). -/
def execDeviceReset (s : State) : Out := .next s.fatal.resetAgain

end Sys2Proof.Machine
end

