-- ==== Sys2Proof/Machine/Rep.lean ====
section
/-! DEFINITION. REP (07 R151 to R153): major 0x37. The run itself is what `State.bits` and `State.advance` do. -/

namespace Sys2Proof.Machine

/-- Majors that may not stand in a body (07 R152). -/
def notInBody (h : Nat) : Bool :=
  let maj := bitsOf h 2 6
  maj == 0x0F || decide (0x10 ≤ maj ∧ maj ≤ 0x17) || maj == 0x37 || maj == 0x3F

/-- What filling the repetition buffer gives: the body with its PCs and the successor, a trap of an entry, or a wait. -/
inductive Gather where
  | ok (body : List (Nat × Nat × Word)) (succ : Word) (s : State)
  | bad (cause tval : Nat)
  | miss (va : Nat)
  | wait (s : State)

/-- Take `n` instructions from a PC, whose line is at hand or is entered (07 R152, 03 R66). -/
def State.gather (s : State) (pc : Word) (l : Line) (acc : List (Nat × Nat × Word)) : Nat → Gather
  | 0 => .ok acc pc s
  | n + 1 =>
    let take (l : Line) (s : State) : Gather :=
      let i := pc.toNat % 64 / 2 - 1
      s.gather (succPc (some l) pc) l (acc ++ [(l.heads.getD i 0, l.tails.getD i 0, pc)]) n
    if l.base = pc.toNat / 64 * 64 then take l s
    else
      match s.fetch s.cur pc.toNat with
      | .bad k v => .bad k v
      | .miss va => .miss va
      | .wait s => .wait s
      | .ok l' s' => take l' s'

/-- head | tail << 16 of a body instruction. -/
def pairWord (x : Nat × Nat) : Word := toWord (x.1 + x.2 * 65536)

/-- REP (07 R151, R152): the checks, then the run begins; the PC stays until it is complete. A body word that is no instruction names no register: it traps when the run comes to it (03 R77). -/
def execRep (a b c : BitVec 4) (imm : BitVec 22) (s : State) : Out :=
  checked (.rep a b c imm) s <| reading [c] s fun s =>
    let w := (s.w c).toNat
    let stride := bitsOf imm.toNat 10 3
    let body := bitsOf imm.toNat 6 4
    let count := bitsOf imm.toNat 0 6
    let p := bitsOf w 0 6
    let i := bitsOf w 6 4
    if bitsOf w 10 54 ≠ 0 ∨ count < p ∨ body < i then operandTrap s (.rep a b c imm)
    else
      match s.cx.line with
      | none => stall s
      | some l =>
        match s.gather (succPc (some l) s.cx.pc) l [] (body + 1) with
        | .wait s => stall s
        | .miss va => .next (s.startWalks [(va, .fetch)])
        | .bad k v => trap s k (toWord v)
        | .ok ps succ s' =>
          let bs := ps.map (fun x => (x.1, x.2.1))
          let real := bs.filter (fun x => isPair x.1 x.2)
          match pick (fun x => notInBody x.1) bs, pick (fun x => (scalarDst x.1 x.2).contains c.toNat) real with
          | some x, _ => trap s xIllegalOp (pairWord x)
          | none, some x => trap s xOperand (pairWord x)
          | none, none =>
            if real.any (fun x => !(upTo (count + 1)).all (fun q => staggerFits x.1 x.2 (q * stride))) then
              operandTrap s (.rep a b c imm)
            else .next (s'.setCx { s'.cx with rep := some ⟨c.toNat, stride, count, bs, ps.map (fun x => x.2.2), succ, p, i, s'.cx.fld 0x035 0 6⟩, walkFault := [] })

end Sys2Proof.Machine
end

