-- ==== Sys2Proof/Machine/Dispatch.lean ====
section
/-! DEFINITION. One arm per constructor: the call of its meaning. -/

namespace Sys2Proof.Machine

def exec (i : Instr) (s : State) : Host.Outcome State Fault Refusal :=
  match i with
  | .nop a b => Sys2Proof.Machine.execNop a b s
  | .add a b c imm => Sys2Proof.Machine.execAdd a b c imm s
  | .sub a b c imm => Sys2Proof.Machine.execSub a b c imm s
  | .and a b c imm => Sys2Proof.Machine.execAnd a b c imm s
  | .or a b c imm => Sys2Proof.Machine.execOr a b c imm s
  | .xor a b c imm => Sys2Proof.Machine.execXor a b c imm s
  | .andn a b c imm => Sys2Proof.Machine.execAndn a b c imm s
  | .shl a b c imm => Sys2Proof.Machine.execShl a b c imm s
  | .shr a b c imm => Sys2Proof.Machine.execShr a b c imm s
  | .sar a b c imm => Sys2Proof.Machine.execSar a b c imm s
  | .rol a b c imm => Sys2Proof.Machine.execRol a b c imm s
  | .min a b c imm => Sys2Proof.Machine.execMin a b c imm s
  | .max a b c imm => Sys2Proof.Machine.execMax a b c imm s
  | .minN a b c imm => Sys2Proof.Machine.execMinN a b c imm s
  | .maxN a b c imm => Sys2Proof.Machine.execMaxN a b c imm s
  | .slt a b c imm => Sys2Proof.Machine.execSlt a b c imm s
  | .sltN a b c imm => Sys2Proof.Machine.execSltN a b c imm s
  | .seq a b c imm => Sys2Proof.Machine.execSeq a b c imm s
  | .mul a b c imm => Sys2Proof.Machine.execMul a b c imm s
  | .mulh a b c imm => Sys2Proof.Machine.execMulh a b c imm s
  | .mulhN a b c imm => Sys2Proof.Machine.execMulhN a b c imm s
  | .div a b c imm => Sys2Proof.Machine.execDiv a b c imm s
  | .divN a b c imm => Sys2Proof.Machine.execDivN a b c imm s
  | .rem a b c imm => Sys2Proof.Machine.execRem a b c imm s
  | .remN a b c imm => Sys2Proof.Machine.execRemN a b c imm s
  | .addw a b c imm => Sys2Proof.Machine.execAddw a b c imm s
  | .subw a b c imm => Sys2Proof.Machine.execSubw a b c imm s
  | .mulw a b c imm => Sys2Proof.Machine.execMulw a b c imm s
  | .adds a b c imm => Sys2Proof.Machine.execAdds a b c imm s
  | .subs a b c imm => Sys2Proof.Machine.execSubs a b c imm s
  | .clz a b c imm => Sys2Proof.Machine.execClz a b c imm s
  | .ctz a b c imm => Sys2Proof.Machine.execCtz a b c imm s
  | .popc a b c imm => Sys2Proof.Machine.execPopc a b c imm s
  | .brev a b c imm => Sys2Proof.Machine.execBrev a b c imm s
  | .bswap a b c imm => Sys2Proof.Machine.execBswap a b c imm s
  | .addi a b c imm => Sys2Proof.Machine.execAddi a b c imm s
  | .andi a b c imm => Sys2Proof.Machine.execAndi a b c imm s
  | .ori a b c imm => Sys2Proof.Machine.execOri a b c imm s
  | .xori a b c imm => Sys2Proof.Machine.execXori a b c imm s
  | .shli a b c imm => Sys2Proof.Machine.execShli a b c imm s
  | .shri a b c imm => Sys2Proof.Machine.execShri a b c imm s
  | .sari a b c imm => Sys2Proof.Machine.execSari a b c imm s
  | .roli a b c imm => Sys2Proof.Machine.execRoli a b c imm s
  | .muli a b c imm => Sys2Proof.Machine.execMuli a b c imm s
  | .slti a b c imm => Sys2Proof.Machine.execSlti a b c imm s
  | .sltiN a b c imm => Sys2Proof.Machine.execSltiN a b c imm s
  | .seqi a b c imm => Sys2Proof.Machine.execSeqi a b c imm s
  | .li a b c imm => Sys2Proof.Machine.execLi a b c imm s
  | .lih a b c imm => Sys2Proof.Machine.execLih a b c imm s
  | .liz a b c imm => Sys2Proof.Machine.execLiz a b c imm s
  | .la a b c imm => Sys2Proof.Machine.execLa a b c imm s
  | .mov a b => Sys2Proof.Machine.execMov a b s
  | .crr a b c imm => Sys2Proof.Machine.execCrr a b c imm s
  | .crw a b c imm => Sys2Proof.Machine.execCrw a b c imm s
  | .crs a b c imm => Sys2Proof.Machine.execCrs a b c imm s
  | .crc a b c imm => Sys2Proof.Machine.execCrc a b c imm s
  | .wpget a b c imm => Sys2Proof.Machine.execWpget a b c imm s
  | .wpset a b c imm => Sys2Proof.Machine.execWpset a b c imm s
  | .yield a b c imm => Sys2Proof.Machine.execYield a b c imm s
  | .wfld a b c imm => Sys2Proof.Machine.execWfld a b c imm s
  | .sel a b c imm => Sys2Proof.Machine.execSel a b c imm s
  | .selz a b c imm => Sys2Proof.Machine.execSelz a b c imm s
  | .jr a b c imm => Sys2Proof.Machine.execJr a b c imm s
  | .callr a b c imm => Sys2Proof.Machine.execCallr a b c imm s
  | .b a b disp slot => Sys2Proof.Machine.execB a b disp slot s
  | .call a b disp slot => Sys2Proof.Machine.execCall a b disp slot s
  | .bz a b disp slot => Sys2Proof.Machine.execBz a b disp slot s
  | .bnz a b disp slot => Sys2Proof.Machine.execBnz a b disp slot s
  | .blt a b disp slot => Sys2Proof.Machine.execBlt a b disp slot s
  | .bge a b disp slot => Sys2Proof.Machine.execBge a b disp slot s
  | .bltN a b disp slot => Sys2Proof.Machine.execBltN a b disp slot s
  | .bgeN a b disp slot => Sys2Proof.Machine.execBgeN a b disp slot s
  | .ldB a b c imm => Sys2Proof.Machine.execLdB a b c imm s
  | .ldBn a b c imm => Sys2Proof.Machine.execLdBn a b c imm s
  | .ldH a b c imm => Sys2Proof.Machine.execLdH a b c imm s
  | .ldHn a b c imm => Sys2Proof.Machine.execLdHn a b c imm s
  | .ldW a b c imm => Sys2Proof.Machine.execLdW a b c imm s
  | .ldWn a b c imm => Sys2Proof.Machine.execLdWn a b c imm s
  | .ldD a b c imm => Sys2Proof.Machine.execLdD a b c imm s
  | .ldQ a b c imm => Sys2Proof.Machine.execLdQ a b c imm s
  | .stB a b c imm => Sys2Proof.Machine.execStB a b c imm s
  | .stH a b c imm => Sys2Proof.Machine.execStH a b c imm s
  | .stW a b c imm => Sys2Proof.Machine.execStW a b c imm s
  | .stD a b c imm => Sys2Proof.Machine.execStD a b c imm s
  | .stQ a b c imm => Sys2Proof.Machine.execStQ a b c imm s
  | .ldxB a b c imm => Sys2Proof.Machine.execLdxB a b c imm s
  | .ldxBn a b c imm => Sys2Proof.Machine.execLdxBn a b c imm s
  | .ldxH a b c imm => Sys2Proof.Machine.execLdxH a b c imm s
  | .ldxHn a b c imm => Sys2Proof.Machine.execLdxHn a b c imm s
  | .ldxW a b c imm => Sys2Proof.Machine.execLdxW a b c imm s
  | .ldxWn a b c imm => Sys2Proof.Machine.execLdxWn a b c imm s
  | .ldxD a b c imm => Sys2Proof.Machine.execLdxD a b c imm s
  | .ldxQ a b c imm => Sys2Proof.Machine.execLdxQ a b c imm s
  | .stxB a b c imm => Sys2Proof.Machine.execStxB a b c imm s
  | .stxH a b c imm => Sys2Proof.Machine.execStxH a b c imm s
  | .stxW a b c imm => Sys2Proof.Machine.execStxW a b c imm s
  | .stxD a b c imm => Sys2Proof.Machine.execStxD a b c imm s
  | .stxQ a b c imm => Sys2Proof.Machine.execStxQ a b c imm s
  | .amoSwap a b c imm => Sys2Proof.Machine.execAmoSwap a b c imm s
  | .amoAdd a b c imm => Sys2Proof.Machine.execAmoAdd a b c imm s
  | .amoAnd a b c imm => Sys2Proof.Machine.execAmoAnd a b c imm s
  | .amoOr a b c imm => Sys2Proof.Machine.execAmoOr a b c imm s
  | .amoXor a b c imm => Sys2Proof.Machine.execAmoXor a b c imm s
  | .amoMin a b c imm => Sys2Proof.Machine.execAmoMin a b c imm s
  | .amoMax a b c imm => Sys2Proof.Machine.execAmoMax a b c imm s
  | .amoMinN a b c imm => Sys2Proof.Machine.execAmoMinN a b c imm s
  | .amoMaxN a b c imm => Sys2Proof.Machine.execAmoMaxN a b c imm s
  | .amoCas a b c imm => Sys2Proof.Machine.execAmoCas a b c imm s
  | .amoFadd a b c imm => Sys2Proof.Machine.execAmoFadd a b c imm s
  | .fence a b c imm => Sys2Proof.Machine.execFence a b c imm s
  | .fenceAcq a b c imm => Sys2Proof.Machine.execFenceAcq a b c imm s
  | .fenceRel a b c imm => Sys2Proof.Machine.execFenceRel a b c imm s
  | .waitc a b wl ws wc wm => Sys2Proof.Machine.execWaitc a b wl ws wc wm s
  | .redAdd a b c imm => Sys2Proof.Machine.execRedAdd a b c imm s
  | .redAnd a b c imm => Sys2Proof.Machine.execRedAnd a b c imm s
  | .redOr a b c imm => Sys2Proof.Machine.execRedOr a b c imm s
  | .redXor a b c imm => Sys2Proof.Machine.execRedXor a b c imm s
  | .redMin a b c imm => Sys2Proof.Machine.execRedMin a b c imm s
  | .redMax a b c imm => Sys2Proof.Machine.execRedMax a b c imm s
  | .redFadd a b c imm => Sys2Proof.Machine.execRedFadd a b c imm s
  | .ldf a b c imm => Sys2Proof.Machine.execLdf a b c imm s
  | .ldfe a b c imm => Sys2Proof.Machine.execLdfe a b c imm s
  | .fill a b c imm => Sys2Proof.Machine.execFill a b c imm s
  | .fillX a b c imm => Sys2Proof.Machine.execFillX a b c imm s
  | .empty a b c imm => Sys2Proof.Machine.execEmpty a b c imm s
  | .feq a b c imm => Sys2Proof.Machine.execFeq a b c imm s
  | .pass a b c imm => Sys2Proof.Machine.execPass a b c imm s
  | .take a b c imm => Sys2Proof.Machine.execTake a b c imm s
  | .peek a b c imm => Sys2Proof.Machine.execPeek a b c imm s
  | .carm a b c imm => Sys2Proof.Machine.execCarm a b c imm s
  | .cdec a b c imm => Sys2Proof.Machine.execCdec a b c imm s
  | .cready a b c imm => Sys2Proof.Machine.execCready a b c imm s
  | .cpop a b c imm => Sys2Proof.Machine.execCpop a b c imm s
  | .cdone a b c imm => Sys2Proof.Machine.execCdone a b c imm s
  | .send a b c imm => Sys2Proof.Machine.execSend a b c imm s
  | .rpoll a b c imm => Sys2Proof.Machine.execRpoll a b c imm s
  | .rwait a b c imm => Sys2Proof.Machine.execRwait a b c imm s
  | .radv a b c imm => Sys2Proof.Machine.execRadv a b c imm s
  | .rbind a b c imm => Sys2Proof.Machine.execRbind a b c imm s
  | .rclose a b c imm => Sys2Proof.Machine.execRclose a b c imm s
  | .qrec a b c imm => Sys2Proof.Machine.execQrec a b c imm s
  | .qthaw a b c imm => Sys2Proof.Machine.execQthaw a b c imm s
  | .qfreeze a b c imm => Sys2Proof.Machine.execQfreeze a b c imm s
  | .barSync a b c imm => Sys2Proof.Machine.execBarSync a b c imm s
  | .barArrive a b c imm => Sys2Proof.Machine.execBarArrive a b c imm s
  | .barWait a b c imm => Sys2Proof.Machine.execBarWait a b c imm s
  | .dbarSync a b c imm => Sys2Proof.Machine.execDbarSync a b c imm s
  | .dbarArrive a b c imm => Sys2Proof.Machine.execDbarArrive a b c imm s
  | .dbarWait a b c imm => Sys2Proof.Machine.execDbarWait a b c imm s
  | .lock a b c imm => Sys2Proof.Machine.execLock a b c imm s
  | .trylock a b c imm => Sys2Proof.Machine.execTrylock a b c imm s
  | .unlock a b c imm => Sys2Proof.Machine.execUnlock a b c imm s
  | .heir a b c imm => Sys2Proof.Machine.execHeir a b c imm s
  | .disown a b c imm => Sys2Proof.Machine.execDisown a b c imm s
  | .estq a b c imm => Sys2Proof.Machine.execEstq a b c imm s
  | .ack a b c imm => Sys2Proof.Machine.execAck a b c imm s
  | .convey a b c imm => Sys2Proof.Machine.execConvey a b c imm s
  | .fork a b c imm => Sys2Proof.Machine.execFork a b c imm s
  | .rdv a b c imm => Sys2Proof.Machine.execRdv a b c imm s
  | .cpy a b c imm => Sys2Proof.Machine.execCpy a b c imm s
  | .cpyt a b c imm => Sys2Proof.Machine.execCpyt a b c imm s
  | .cevq a b c imm => Sys2Proof.Machine.execCevq a b c imm s
  | .vadd a b vd va vb k md => Sys2Proof.Machine.execVadd a b vd va vb k md s
  | .vsub a b vd va vb k md => Sys2Proof.Machine.execVsub a b vd va vb k md s
  | .vmul a b vd va vb k md => Sys2Proof.Machine.execVmul a b vd va vb k md s
  | .vmin a b vd va vb k md => Sys2Proof.Machine.execVmin a b vd va vb k md s
  | .vmax a b vd va vb k md => Sys2Proof.Machine.execVmax a b vd va vb k md s
  | .vand a b vd va vb k md => Sys2Proof.Machine.execVand a b vd va vb k md s
  | .vor a b vd va vb k md => Sys2Proof.Machine.execVor a b vd va vb k md s
  | .vxor a b vd va vb k md => Sys2Proof.Machine.execVxor a b vd va vb k md s
  | .vshl a b vd va vb k md => Sys2Proof.Machine.execVshl a b vd va vb k md s
  | .vshr a b vd va vb k md => Sys2Proof.Machine.execVshr a b vd va vb k md s
  | .vsar a b vd va vb k md => Sys2Proof.Machine.execVsar a b vd va vb k md s
  | .vadds a b vd va vb k md => Sys2Proof.Machine.execVadds a b vd va vb k md s
  | .vsubs a b vd va vb k md => Sys2Proof.Machine.execVsubs a b vd va vb k md s
  | .vabs a b vd va vb k md => Sys2Proof.Machine.execVabs a b vd va vb k md s
  | .vfadd a b vd va vb k md => Sys2Proof.Machine.execVfadd a b vd va vb k md s
  | .vfsub a b vd va vb k md => Sys2Proof.Machine.execVfsub a b vd va vb k md s
  | .vfmul a b vd va vb k md => Sys2Proof.Machine.execVfmul a b vd va vb k md s
  | .vfma a b vd va vb k md => Sys2Proof.Machine.execVfma a b vd va vb k md s
  | .vfmin a b vd va vb k md => Sys2Proof.Machine.execVfmin a b vd va vb k md s
  | .vfmax a b vd va vb k md => Sys2Proof.Machine.execVfmax a b vd va vb k md s
  | .vrcp a b vd va vb k md => Sys2Proof.Machine.execVrcp a b vd va vb k md s
  | .vrsq a b vd va vb k md => Sys2Proof.Machine.execVrsq a b vd va vb k md s
  | .vexp2 a b vd va vb k md => Sys2Proof.Machine.execVexp2 a b vd va vb k md s
  | .vlog2 a b vd va vb k md => Sys2Proof.Machine.execVlog2 a b vd va vb k md s
  | .vfneg a b vd va vb k md => Sys2Proof.Machine.execVfneg a b vd va vb k md s
  | .vfabs a b vd va vb k md => Sys2Proof.Machine.execVfabs a b vd va vb k md s
  | .vcmpEq a b vd va vb k md => Sys2Proof.Machine.execVcmpEq a b vd va vb k md s
  | .vcmpLt a b vd va vb k md => Sys2Proof.Machine.execVcmpLt a b vd va vb k md s
  | .vcmpLe a b vd va vb k md => Sys2Proof.Machine.execVcmpLe a b vd va vb k md s
  | .vcmpNe a b vd va vb k md => Sys2Proof.Machine.execVcmpNe a b vd va vb k md s
  | .vblend a b vd va vb k md => Sys2Proof.Machine.execVblend a b vd va vb k md s
  | .kand a b vd va vb k md => Sys2Proof.Machine.execKand a b vd va vb k md s
  | .kor a b vd va vb k md => Sys2Proof.Machine.execKor a b vd va vb k md s
  | .kxor a b vd va vb k md => Sys2Proof.Machine.execKxor a b vd va vb k md s
  | .knot a b vd va vb k md => Sys2Proof.Machine.execKnot a b vd va vb k md s
  | .kpop a b vd va vb k md => Sys2Proof.Machine.execKpop a b vd va vb k md s
  | .vcvt a b vd va vb k md => Sys2Proof.Machine.execVcvt a b vd va vb k md s
  | .vpack a b vd va vb k md => Sys2Proof.Machine.execVpack a b vd va vb k md s
  | .vunpk a b vd va vb k md => Sys2Proof.Machine.execVunpk a b vd va vb k md s
  | .vrnd a b vd va vb k md => Sys2Proof.Machine.execVrnd a b vd va vb k md s
  | .vld a b vd va vb k md => Sys2Proof.Machine.execVld a b vd va vb k md s
  | .vst a b vd va vb k md => Sys2Proof.Machine.execVst a b vd va vb k md s
  | .vlds a b vd va vb k md => Sys2Proof.Machine.execVlds a b vd va vb k md s
  | .vsts a b vd va vb k md => Sys2Proof.Machine.execVsts a b vd va vb k md s
  | .vgath a b vd va vb k md => Sys2Proof.Machine.execVgath a b vd va vb k md s
  | .vscat a b vd va vb k md => Sys2Proof.Machine.execVscat a b vd va vb k md s
  | .vstk a b vd va vb k md => Sys2Proof.Machine.execVstk a b vd va vb k md s
  | .vldb a b vd va vb k md => Sys2Proof.Machine.execVldb a b vd va vb k md s
  | .vshuf a b vd va vb k md => Sys2Proof.Machine.execVshuf a b vd va vb k md s
  | .vbcast a b vd va vb k md => Sys2Proof.Machine.execVbcast a b vd va vb k md s
  | .vext a b vd va vb k md => Sys2Proof.Machine.execVext a b vd va vb k md s
  | .vrot a b vd va vb k md => Sys2Proof.Machine.execVrot a b vd va vb k md s
  | .vins a b vd va vb k md => Sys2Proof.Machine.execVins a b vd va vb k md s
  | .vscanAdd a b vd va vb k md => Sys2Proof.Machine.execVscanAdd a b vd va vb k md s
  | .vscanMax a b vd va vb k md => Sys2Proof.Machine.execVscanMax a b vd va vb k md s
  | .vscanLin a b vd va vb k md => Sys2Proof.Machine.execVscanLin a b vd va vb k md s
  | .vredAdd a b vd va vb k md => Sys2Proof.Machine.execVredAdd a b vd va vb k md s
  | .vredMax a b vd va vb k md => Sys2Proof.Machine.execVredMax a b vd va vb k md s
  | .vcarry a b vd va vb k md => Sys2Proof.Machine.execVcarry a b vd va vb k md s
  | .rep a b c imm => Sys2Proof.Machine.execRep a b c imm s
  | .mma a b vd va vb k md => Sys2Proof.Machine.execMma a b vd va vb k md s
  | .mmau a b vd va vb k md => Sys2Proof.Machine.execMmau a b vd va vb k md s
  | .mmas a b vd va vb k md => Sys2Proof.Machine.execMmas a b vd va vb k md s
  | .mmaus a b vd va vb k md => Sys2Proof.Machine.execMmaus a b vd va vb k md s
  | .mzero a b vd va vb k md => Sys2Proof.Machine.execMzero a b vd va vb k md s
  | .mlda a b vd va vb k md => Sys2Proof.Machine.execMlda a b vd va vb k md s
  | .msta a b vd va vb k md => Sys2Proof.Machine.execMsta a b vd va vb k md s
  | .mstm a b vd va vb k md => Sys2Proof.Machine.execMstm a b vd va vb k md s
  | .mdrain a b vd va vb k md => Sys2Proof.Machine.execMdrain a b vd va vb k md s
  | .launch a b c imm => Sys2Proof.Machine.execLaunch a b c imm s
  | .exit a b c imm => Sys2Proof.Machine.execExit a b c imm s
  | .kill a b c imm => Sys2Proof.Machine.execKill a b c imm s
  | .gstat a b c imm => Sys2Proof.Machine.execGstat a b c imm s
  | .fstep a b c imm => Sys2Proof.Machine.execFstep a b c imm s
  | .tick a b c imm => Sys2Proof.Machine.execTick a b c imm s
  | .rfade a b c imm => Sys2Proof.Machine.execRfade a b c imm s
  | .rinit a b c imm => Sys2Proof.Machine.execRinit a b c imm s
  | .rwgt a b c imm => Sys2Proof.Machine.execRwgt a b c imm s
  | .bcast a b c imm => Sys2Proof.Machine.execBcast a b c imm s
  | .bacc a b c imm => Sys2Proof.Machine.execBacc a b c imm s
  | .bwait a b c imm => Sys2Proof.Machine.execBwait a b c imm s
  | .bseq a b c imm => Sys2Proof.Machine.execBseq a b c imm s
  | .ldd a b c imm => Sys2Proof.Machine.execLdd a b c imm s
  | .std a b c imm => Sys2Proof.Machine.execStd a b c imm s
  | .redx a b c imm => Sys2Proof.Machine.execRedx a b c imm s
  | .lnkctlRnew a b c => Sys2Proof.Machine.execLnkctlRnew a b c s
  | .lnkctlRfree a b c => Sys2Proof.Machine.execLnkctlRfree a b c s
  | .lnkctlPark a b c => Sys2Proof.Machine.execLnkctlPark a b c s
  | .lnkctlLight a b c => Sys2Proof.Machine.execLnkctlLight a b c s
  | .lnkctlRetrain a b c => Sys2Proof.Machine.execLnkctlRetrain a b c s
  | .pbind a b c imm => Sys2Proof.Machine.execPbind a b c imm s
  | .punbind a b c imm => Sys2Proof.Machine.execPunbind a b c imm s
  | .pstat a b c imm => Sys2Proof.Machine.execPstat a b c imm s
  | .lnkstat a b c imm => Sys2Proof.Machine.execLnkstat a b c imm s
  | .filld a b c imm => Sys2Proof.Machine.execFilld a b c imm s
  | .trap a b c imm => Sys2Proof.Machine.execTrap a b c imm s
  | .tret a b c imm => Sys2Proof.Machine.execTret a b c imm s
  | .break a b c imm => Sys2Proof.Machine.execBreak a b c imm s
  | .wfm a b c imm => Sys2Proof.Machine.execWfm a b c imm s
  | .time a b c imm => Sys2Proof.Machine.execTime a b c imm s
  | .capr a b c imm => Sys2Proof.Machine.execCapr a b c imm s
  | .migrate a b c imm => Sys2Proof.Machine.execMigrate a b c imm s
  | .probeStop a b c => Sys2Proof.Machine.execProbeStop a b c s
  | .probeResume a b c => Sys2Proof.Machine.execProbeResume a b c s
  | .probeStep a b c => Sys2Proof.Machine.execProbeStep a b c s
  | .probeRarm a b c => Sys2Proof.Machine.execProbeRarm a b c s
  | .probeRtrig a b c => Sys2Proof.Machine.execProbeRtrig a b c s
  | .probeCkpt a b c => Sys2Proof.Machine.execProbeCkpt a b c s
  | .halt a b c imm => Sys2Proof.Machine.execHalt a b c imm s
  | .qbaseWrite cid v => Sys2Proof.Machine.execQbaseWrite cid v s
  | .portbWrite cid v => Sys2Proof.Machine.execPortbWrite cid v s
  | .barrierRegisterWrite cid n v => Sys2Proof.Machine.execBarrierRegisterWrite cid n v s
  | .satcntWrite cid v => Sys2Proof.Machine.execSatcntWrite cid v s
  | .fadeEtaWrite cid n v => Sys2Proof.Machine.execFadeEtaWrite cid n v s
  | .bmodeWrite cid v => Sys2Proof.Machine.execBmodeWrite cid v s
  | .pctlWrite cid v => Sys2Proof.Machine.execPctlWrite cid v s
  | .fprogvAbandon cid => Sys2Proof.Machine.execFprogvAbandon cid s
  | .deferredTrap cid => Sys2Proof.Machine.execDeferredTrap cid s
  | .resultLands id => Sys2Proof.Machine.execResultLands id s
  | .tileOpTaken core => Sys2Proof.Machine.execTileOpTaken core s
  | .tileOpComplete core id => Sys2Proof.Machine.execTileOpComplete core id s
  | .pageWalkComplete id => Sys2Proof.Machine.execPageWalkComplete id s
  | .withyPass plane chan => Sys2Proof.Machine.execWithyPass plane chan s
  | .requestPerform id => Sys2Proof.Machine.execRequestPerform id s
  | .responseArrival id => Sys2Proof.Machine.execResponseArrival id s
  | .wakeArrival cid => Sys2Proof.Machine.execWakeArrival cid s
  | .longWaitExpiry cid => Sys2Proof.Machine.execLongWaitExpiry cid s
  | .cpopParkExpiry cid => Sys2Proof.Machine.execCpopParkExpiry cid s
  | .bcastRequestArrival id => Sys2Proof.Machine.execBcastRequestArrival id s
  | .bcastAnswerArrival id => Sys2Proof.Machine.execBcastAnswerArrival id s
  | .broadcastReceive id => Sys2Proof.Machine.execBroadcastReceive id s
  | .broadcastAccept cid => Sys2Proof.Machine.execBroadcastAccept cid s
  | .sweepWalk cid => Sys2Proof.Machine.execSweepWalk cid s
  | .retirementReportArrival id => Sys2Proof.Machine.execRetirementReportArrival id s
  | .messageArrival id => Sys2Proof.Machine.execMessageArrival id s
  | .ringRefusalRetry id => Sys2Proof.Machine.execRingRefusalRetry id s
  | .bounceArrival id => Sys2Proof.Machine.execBounceArrival id s
  | .counterDecrement id => Sys2Proof.Machine.execCounterDecrement id s
  | .stealRound cid => Sys2Proof.Machine.execStealRound cid s
  | .portDeposit id => Sys2Proof.Machine.execPortDeposit id s
  | .portAck id => Sys2Proof.Machine.execPortAck id s
  | .barrierArrivalHop id => Sys2Proof.Machine.execBarrierArrivalHop id s
  | .barrierReleaseHop id => Sys2Proof.Machine.execBarrierReleaseHop id s
  | .dbarTokenArrival id => Sys2Proof.Machine.execDbarTokenArrival id s
  | .copyCommandStart core => Sys2Proof.Machine.execCopyCommandStart core s
  | .copyCommandComplete core id => Sys2Proof.Machine.execCopyCommandComplete core id s
  | .migrationArrival id => Sys2Proof.Machine.execMigrationArrival id s
  | .placementUpdate id => Sys2Proof.Machine.execPlacementUpdate id s
  | .placementUpdateAck id => Sys2Proof.Machine.execPlacementUpdateAck id s
  | .requestRedirect id => Sys2Proof.Machine.execRequestRedirect id s
  | .memberMoveInstall group vcore => Sys2Proof.Machine.execMemberMoveInstall group vcore s
  | .groupPlacement group => Sys2Proof.Machine.execGroupPlacement group s
  | .estateWalkStart group => Sys2Proof.Machine.execEstateWalkStart group s
  | .estateWalkHolding => Sys2Proof.Machine.execEstateWalkHolding s
  | .watchdogCheck group => Sys2Proof.Machine.execWatchdogCheck group s
  | .lddAnswer id => Sys2Proof.Machine.execLddAnswer id s
  | .lddTimeout id => Sys2Proof.Machine.execLddTimeout id s
  | .remoteStoreTimeout id => Sys2Proof.Machine.execRemoteStoreTimeout id s
  | .remoteAccessPerform id => Sys2Proof.Machine.execRemoteAccessPerform id s
  | .dataFlitReceive link seq headOk bad => Sys2Proof.Machine.execDataFlitReceive link seq headOk bad s
  | .nackReceive link seq => Sys2Proof.Machine.execNackReceive link seq s
  | .ackReceive link seq => Sys2Proof.Machine.execAckReceive link seq s
  | .widthControlReceive link mask => Sys2Proof.Machine.execWidthControlReceive link mask s
  | .errorWindowEnd link wl => Sys2Proof.Machine.execErrorWindowEnd link wl s
  | .lossOfLight link wl => Sys2Proof.Machine.execLossOfLight link wl s
  | .lockReached link wl => Sys2Proof.Machine.execLockReached link wl s
  | .wakeTimeout link wl => Sys2Proof.Machine.execWakeTimeout link wl s
  | .trainingPass link wl => Sys2Proof.Machine.execTrainingPass link wl s
  | .retrainTimeout link wl => Sys2Proof.Machine.execRetrainTimeout link wl s
  | .multicastForward id => Sys2Proof.Machine.execMulticastForward id s
  | .reductionContribution id => Sys2Proof.Machine.execReductionContribution id s
  | .reductionTimeout h => Sys2Proof.Machine.execReductionTimeout h s
  | .relayForward h stage => Sys2Proof.Machine.execRelayForward h stage s
  | .sourceItem h item => Sys2Proof.Machine.execSourceItem h item s
  | .recorderFreeze die => Sys2Proof.Machine.execRecorderFreeze die s
  | .replayInject core => Sys2Proof.Machine.execReplayInject core s
  | .grantExpiry id => Sys2Proof.Machine.execGrantExpiry id s
  | .planeDarkEffect plane => Sys2Proof.Machine.execPlaneDarkEffect plane s
  | .thermalTrip die => Sys2Proof.Machine.execThermalTrip die s
  | .supplyLoss => Sys2Proof.Machine.execSupplyLoss s
  | .deviceReset => Sys2Proof.Machine.execDeviceReset s
  | .unsupportedPacket port => Sys2Proof.Machine.execUnsupportedPacket port s
  | .bulkWrite pa data => Sys2Proof.Machine.execBulkWrite pa data s
  | .bulkRead pa len => Sys2Proof.Machine.execBulkRead pa len s
  | .image body sig => Sys2Proof.Machine.execImage body sig s
  | .root pa => Sys2Proof.Machine.execRoot pa s
  | .invalidate group va len => Sys2Proof.Machine.execInvalidate group va len s
  | .routing table idx v => Sys2Proof.Machine.execRouting table idx v s
  | .handle part idx v => Sys2Proof.Machine.execHandle part idx v s
  | .linkErrt v => Sys2Proof.Machine.execLinkErrt v s
  | .wavelengthReset link wl => Sys2Proof.Machine.execWavelengthReset link wl s
  | .partitionCreate key pub clus root => Sys2Proof.Machine.execPartitionCreate key pub clus root s
  | .partitionDestroy part => Sys2Proof.Machine.execPartitionDestroy part s
  | .policy part body sig => Sys2Proof.Machine.execPolicy part body sig s
  | .stream part port id => Sys2Proof.Machine.execStream part port id s
  | .hostLaunch part hdr => Sys2Proof.Machine.execHostLaunch part hdr s
  | .hostKill group => Sys2Proof.Machine.execHostKill group s
  | .save group => Sys2Proof.Machine.execSave group s
  | .move group pcore => Sys2Proof.Machine.execMove group pcore s
  | .resume group pcore => Sys2Proof.Machine.execResume group pcore s
  | .powerCluster clus st => Sys2Proof.Machine.execPowerCluster clus st s
  | .planeLight plane => Sys2Proof.Machine.execPlaneLight plane s
  | .planeDarken plane => Sys2Proof.Machine.execPlaneDarken plane s
  | .powerStack stack st => Sys2Proof.Machine.execPowerStack stack st s
  | .wavelengthPark link wl hank => Sys2Proof.Machine.execWavelengthPark link wl hank s
  | .wavelengthLight link wl hank => Sys2Proof.Machine.execWavelengthLight link wl hank s
  | .wavelengthRetrain link wl hank => Sys2Proof.Machine.execWavelengthRetrain link wl hank s
  | .powerPort port up via => Sys2Proof.Machine.execPowerPort port up via s
  | .grantIssue part links expiry => Sys2Proof.Machine.execGrantIssue part links expiry s
  | .grantRevoke id => Sys2Proof.Machine.execGrantRevoke id s
  | .timeAdjust d => Sys2Proof.Machine.execTimeAdjust d s
  | .hostProbe cid op idx v => Sys2Proof.Machine.execHostProbe cid op idx v s
  | .record die op arg => Sys2Proof.Machine.execRecord die op arg s
  | .readout part sel idx => Sys2Proof.Machine.execReadout part sel idx s
  | .blackBoxRead => Sys2Proof.Machine.execBlackBoxRead s
  | .estateRead first count => Sys2Proof.Machine.execEstateRead first count s
  | .quote part nonce => Sys2Proof.Machine.execQuote part nonce s
  | .powerTransitionComplete unit idx => Sys2Proof.Machine.execPowerTransitionComplete unit idx s

end Sys2Proof.Machine
end

