-- ==== Sys2Proof/Machine/Sched.lean ====
section
/-! DEFINITION. The order of steps (log entry 5): which strand has the next turn, which of the device's own steps are due, and what the passing of time moves (05 R111 to R113, 15 R283, 28 R394, R397, R405). -/

namespace Sys2Proof.Machine

/-! ## Strands (05 R111, R112) -/

/-- Whether a member departs: its group is being saved, or it is MOVING (15 R278). -/
def State.leaving (s : State) (h v : Nat) : Bool :=
  match s.grp h with
  | some g => g.pre.head? == some 0 || (g.members.getD v Member.blank).pst == 1
  | none => false

/-- Whether a READY context may be selected: one on a stopped core only to step, one that departs only to complete an LDD that has its answer. -/
def State.selectable (s : State) (cid : Nat) : Bool :=
  let c := s.ctx cid
  c.state == .ready && (c.stepping || !(s.core (coreOfCid cid)).stop) &&
    (!s.leaving c.group c.vcore ||
      (match c.lddRes with
       | some (0, _) => true
       | _ => false))

/-- The first READY slot after the last one that ran (05 R112). DEDUCED, log entry 40. -/
def State.nextSlot (s : State) (core : Nat) : Option Nat :=
  let k := s.core core
  pick (fun i => (mget s.ctxs (core * 8 + i)).isSome && s.selectable (core * 8 + i)) ((upTo 8).map (fun i => (k.last + 1 + i) % 8))

/-- POUT takes the time a context was out of the core (28 R397). -/
def Ctx.backIn (c : Ctx) (now : Nat) : Ctx :=
  match c.outAt with
  | some t => { (if c.fld 0x021 63 1 = 1 then c.set 0x022 (c.get 0x022 + toWord (now - t)) else c) with outAt := none }
  | none => c

/-- A switch: the slot's context runs, its counters take what completed for it meanwhile, and the core reads its header (05 R95, R111, 28 R397). -/
def State.select (s : State) (core slot : Nat) : State :=
  let cid := core * 8 + slot
  let s := s.setCore core { (s.core core) with running := some slot }
  let c := (s.ctx cid).backIn s.time
  let c := c.owed.foldl (fun c x => c.count x.1 x.2) { c with state := .running, owed := [], stalled := none }
  ({ (s.setCtx cid c).getHeader cid with cur := cid }).countEv 5 1

/-- A context of a member that departs leaves the core at its boundary (05 R113, 12 R256). -/
def State.preempt (s : State) (cid : Nat) : State :=
  let c := s.ctx cid
  let c := if c.accepts then c.acceptAll else c
  (s.setCtx cid (c.interrupted s.time)).depart cid c.pc .ready

/-- What a turn did, for the issue recorder (28 R405): the core, 0 idle, 1 issue, 2 stall, 3 switch, the slot, the reason of a stall, the PC. -/
structure Turn where
  core : Nat
  kind : Nat
  slot : Nat
  why : Nat
  pc : Nat
  deriving DecidableEq, Repr

/-- The end of a step of a STOPPED context: an instruction has completed, a body instruction of REP among them, or blocked, or a trap has been taken (28 R403). -/
def State.endStep (s : State) (cid : Nat) (old : Ctx) : State :=
  match mget s.ctxs cid with
  | none => s
  | some c =>
    let ends := c.instrs != old.instrs || c.depth != old.depth
    if ¬ c.stepping then s
    else
      match c.state with
      | .blocked w => s.setCtx cid { c with state := .stopped (some w) false, stepping := false }
      | .stopped _ _ => s.setCtx cid { c with stepping := false }
      | .running => if ends then (s.depart cid c.pc (.stopped none false)).updCtx cid (fun c => { c with stepping := false }) else s
      | .ready => if ends then s.setCtx cid { c with state := .stopped none false, stepping := false } else s

/-- The core whose answer an item in flight brings, where the log gives it in a replay (28 R408). -/
def Cargo.asker (c : Cargo) : Option Nat :=
  match c with
  | .ldd cid _ _ _ _ _ _ _ => some (coreOfCid cid)
  | .bcastReq _ cid _ _ => some (coreOfCid cid)
  | _ => none

/-- Keep of a sparse list what stands at a core in one state and elsewhere in another: `n` keys a core. -/
def splice {α : Type} (key : α → Nat) (n core : Nat) (s t : List α) : List α :=
  s.filter (fun x => decide (key x / n < core)) ++ t.filter (fun x => key x / n == core) ++ s.filter (fun x => decide (core < key x / n))

/-- What a replayed core sends out is discarded: of what its turn has changed its own scratchpad, contexts and engines stay, and what it waits an answer for (28 R408). -/
def State.mute (t s : State) (core : Nat) : State :=
  if (s.core core).replay.isNone then t
  else
    { s with
      spad := splice (fun c => c.1) 131072 core s.spad t.spad
      tags := splice id 16384 core s.tags t.tags
      dirty := splice id 256 core s.dirty t.dirty
      ctxs := (t.ctxs.filter (fun c => coreOfCid c.1 == core)).foldl (fun m c => mput m c.1 c.2) (s.ctxs.filter (fun c => coreOfCid c.1 != core))
      cores := mput s.cores core (t.core core)
      groups := s.groups.map (fun g => match mget t.groups g.1 with
        | some x => (g.1, { g.2 with members := (g.2.members.zip x.members).map (fun m => if m.1.pcore = core then m.2 else m.1) })
        | none => g)
      reqs := t.reqs.filter (fun r => decide (r.id < s.uid) || r.core != core || r.reads || r.loc.isOn core)
      flights := t.flights.filter (fun f => decide (f.id < s.uid) || f.cargo.asker.isSome)
      hops := s.hops
      landings := t.landings
      clusters := t.clusters
      recorders := t.recorders
      cur := t.cur
      uid := t.uid }

/-- What a strand's turn does to the scratchpads of other cores is logged there, and the answer of an instruction that is one step where the strand stands (28 R407). -/
def State.logTurn (t s : State) (i : Instr) : State :=
  let t := (t.cores.filter (fun k => k.1 != s.here && k.2.log.on)).foldl (fun u k =>
    s.logDiff u k.1 rxAccess (s.byMember s.cx.group s.cx.vcore)) t
  match s.asksFar i with
  | some r =>
    if s.over t ∧ s.cx.call.isNone then
      t.logRx s.here rxAnswer (s.byMember s.cx.group 0) (r.elim 0 (fun a => ({ t with cur := s.cur } : State).w a |>.toNat)) []
    else t
  | none => t

/-- Change the next state of an outcome. -/
def onNext (o : Out) (f : State → State) : Out :=
  match o with
  | .next s => .next (f s)
  | .fault r => .fault r
  | .refused r => .refused r

/-- Whether the focus names a register that waits for its value (06 R121). -/
def State.regHeld (s : State) : Bool := (s.bits.map (fun x => s.held x.1 x.2)).getD false

/-- Whether a class is at capacity (09 R198). -/
def State.atCap (s : State) (cid : Nat) : Bool :=
  decide (64 ≤ s.classL cid ∨ 64 ≤ s.classS cid ∨ 16 ≤ s.classC cid ∨ 4 ≤ s.classM cid)

/-- Why the focus did not issue: 1 a permit, 0 a result outstanding, 2 a class and 6 the tile queue full, 3 other, as the wait for a walk, a fence or an acquire is (28 R397, R405). -/
def State.why (s : State) : Nat :=
  if s.permitStalled s.here ∨ s.cx.noPermit then 1
  else if s.regHeld then 0
  else if s.atCap s.cur then 2
  else if 8 ≤ s.queued then 6
  else if ¬ s.cx.walk.isEmpty ∨ s.gated s.cur true true ∨ (s.dstBytes s.cur).isEmpty then 3
  else 0

/-- Why an instruction that came to an outcome only stalled; none where it is over (28 R405). -/
def State.whyOf (s : State) (o : Out) : Option Nat :=
  match o with
  | .next u => if s.over u then none else some s.why
  | _ => none

/-- Cycles of this step. -/
def State.stepLen (s : State) : Nat := Config.stepCycles s.steps + 1

/-- What a turn leaves as the reason of the strand's stall; none where the turn ended an instruction. -/
def State.setStall (s : State) (cid : Nat) (w : Option Nat) : State := s.updCtx cid (fun c => { c with stalled := w })

/-- Whether a stall counts for PC0 to PC3: one for a result, a permit or a full class (28 R397). -/
def Ctx.stallCounts (c : Ctx) : Bool := c.stalled == some 0 || c.stalled == some 1 || c.stalled == some 2

/-- The turn of a strand that runs: an instruction, or a state in which none issues. -/
noncomputable def State.strandTurn (s : State) (cid : Nat) : Turn × Out :=
  let s := { s with cur := cid }
  let t (w : Option Nat) : Turn := ⟨coreOfCid cid, if w.isSome then 2 else 1, slotOfCid cid, w.getD 0 % 4, s.cx.issuePc.toNat⟩
  match s.issue with
  | .go i s' =>
    if s'.waitsLog i then (t (some 3), .next (s'.asLogged.setStall cid (some 3)))
    else
      let o := exec i s'
      let w := s'.whyOf o
      (t w, onNext o (fun u => (((u.mute s' (coreOfCid cid)).logTurn s' i).setStall cid w).endStep cid s.cx))
  | .halt s' =>
    let w := if s.over s' then 3 else s.why
    (t (some w), .next ((s'.setStall cid (some w)).endStep cid s.cx))

/-- The turn of a core (05 R112). -/
noncomputable def State.coreTurn (s : State) (core : Nat) : Turn × Out :=
  match (s.core core).running with
  | some slot =>
    let cid := core * 8 + slot
    let c := s.ctx cid
    if s.leaving c.group c.vcore && c.call.isNone && !c.stepping && c.lddRes.isNone then
      (⟨core, 3, slot, 0, 0⟩, .next (s.preempt cid))
    else s.strandTurn cid
  | none =>
    match s.nextSlot core with
    | some slot => (⟨core, 3, slot, 0, 0⟩, .next (s.select core slot))
    | none => (⟨core, 0, 0, 0, 0⟩, .next s)

/-- Whether the copy strand of a core may issue (20 R331, R332). -/
def State.copyRuns (s : State) (core : Nat) : Bool :=
  let k := s.core core
  let c := s.ctx (copyBase + core)
  k.seq.state == .running && c.state == .running && !k.stop && !s.leaving c.group c.vcore

/-- The strands that may have a turn: cores with a context, and copy strands, in clusters that are ON. -/
def State.turns (s : State) : List (Nat × Bool) :=
  let on (core : Nat) : Bool := (s.cluster (clusterOf core)).power == .on
  let cores := s.ctxs.foldl (fun l p => if isCopy p.1 then l else nins l (coreOfCid p.1)) []
  let copies := (s.ctxs.filter (fun p => isCopy p.1 && s.copyRuns (coreOfCid p.1))).map (fun p => (coreOfCid p.1, true))
  ((cores.map (fun c => (c, false))) ++ copies).filter (fun x => on x.1)

/-- The turn of the strand whose turn it is; none before the device is up (29 R418). -/
noncomputable def State.takeTurn (s : State) : Turn × Out :=
  let ts := if s.boot = .up then s.turns else []
  let s := { s with turn := s.turn + 1, engine := true }
  match ts[(s.turn - 1) % ts.length]? with
  | some (core, false) => s.coreTurn core
  | some (core, true) => s.strandTurn (copyBase + core)
  | none => (⟨6144, 0, 0, 0, 0⟩, .next s)

/-! ## The device's own steps -/

/-- Steps that a request may take: a walk, one that waits at its NI, one to be written, performed or sent on, and its answer, which is written on the weave before it arrives (08 R163, R166, 15 R279, 24 R354). -/
noncomputable def Req.due (r : Req) : List Instr :=
  let out := if r.crosses && !r.sent then [.withyPass r.plane r.chan] else []
  match r.phase with
  | .issued | .readDone =>
    if r.isWalk then (if r.crosses && !r.sent then out else [.pageWalkComplete r.id])
    else if r.ni then [.requestRedirect r.id]
    else out ++ [.requestPerform r.id, .requestRedirect r.id]
  | .performed | .failed =>
    if r.crosses && !r.back then [.withyPass r.plane (clusterOf r.core)] else [.responseArrival r.id]
  | .answered => []

/-- Steps that something in flight may take after some cycles since reset. -/
noncomputable def Flight.due (now : Nat) (f : Flight) : List Instr :=
  match f.cargo with
  | .msg _ false => [.messageArrival f.id]
  | .msg _ true => [.ringRefusalRetry f.id]
  | .bounce _ false => [.bounceArrival f.id]
  | .bounce _ true => [.ringRefusalRetry f.id]
  | .dec _ _ _ _ _ _ _ _ _ => [.counterDecrement f.id]
  | .pass _ _ _ _ _ _ => [.portDeposit f.id]
  | .passAck _ _ _ _ _ => [.portAck f.id]
  | .barHop _ _ _ _ _ => [.barrierArrivalHop f.id]
  | .barRel _ _ _ _ => [.barrierReleaseHop f.id]
  | .dbarTok _ _ _ _ _ _ _ _ => [.dbarTokenArrival f.id]
  | .bcastReq _ _ _ _ => [.bcastRequestArrival f.id]
  | .bcastAns _ _ _ => [.bcastAnswerArrival f.id]
  | .bcast _ _ _ _ _ => [.broadcastReceive f.id]
  | .retire _ _ _ => [.retirementReportArrival f.id]
  | .placeUpd _ _ _ _ _ => [.placementUpdate f.id]
  | .placeAck _ _ _ => [.placementUpdateAck f.id]
  | .migrate _ _ _ _ _ => [.migrationArrival f.id]
  | .ldd _ _ _ _ _ _ due a =>
    (if a.isSome then [.lddAnswer f.id] else [.remoteAccessPerform f.id]) ++ (if due ≤ now then [.lddTimeout f.id] else [])
  | .std _ _ _ _ _ _ _ _ due a =>
    (if a.isSome then [.responseArrival f.id] else [.remoteAccessPerform f.id]) ++
      (if due ≤ now then [.remoteStoreTimeout f.id] else [])
  | .remote _ _ _ _ _ _ => [.remoteAccessPerform f.id]
  | .mcast _ _ => [.multicastForward f.id]
  | .contrib _ _ _ | .rfree _ _ _ _ _ _ => [.reductionContribution f.id]
  | .hostMsg _ => []

/-- Steps that a context may take. -/
noncomputable def Ctx.due (cid : Nat) (c : Ctx) : List Instr :=
  (if c.waits.isNone then []
   else if c.parkLong then (if parkCycles ≤ c.parkRun then [.longWaitExpiry cid] else [])
   else (if c.woken then [.wakeArrival cid] else []) ++ (if parkCycles ≤ c.parkRun then [.cpopParkExpiry cid] else [])) ++
    (if c.accepts then [.broadcastAccept cid] else []) ++
    (if c.held.isEmpty then [] else [.sweepWalk cid]) ++
    (if (c.call.map (fun k => k.steal)).getD false then [.stealRound cid] else [])

/-- Steps that a core's engines may take. -/
noncomputable def Core.due (core : Nat) (k : Core) : List Instr :=
  (if k.mq.isEmpty then [] else .tileOpTaken core :: (k.mq.filter (fun o => o.taken)).map (fun o => .tileOpComplete core o.id)) ++
    (if k.copies.isEmpty then [] else .copyCommandStart core :: k.copies.map (fun c => .copyCommandComplete core c.id)) ++
    (if k.replay.isSome then [.replayInject core] else [])

/-- Steps that a group may take. -/
noncomputable def Group.due (g : Group) : List Instr :=
  let vs := upTo g.members.length
  match g.state with
  | .submitted => [.groupPlacement g.handle]
  | .retired => []
  | _ =>
    (match g.pre with
     | 0 :: _ => [.save g.handle]
     | (_ + 1) :: _ => vs.map (fun v => .memberMoveInstall g.handle v)
     | [] => if ended g then vs.map (fun v => .memberMoveInstall g.handle v) else []) ++
      (if g.wdDue then [.watchdogCheck g.handle] else [])

/-- Every step of its own that the device might take now; one whose time has not come changes nothing. -/
noncomputable def State.due (s : State) : List Instr :=
  s.reqs.flatMap Req.due ++ s.landings.map (fun l => .resultLands l.id) ++ s.hops.map (fun h => .withyPass h.plane h.chan) ++
    (s.flights.filter (fun f => !s.hopping f.id && f.cargo.asker.all (fun k => (s.core k).replay.isNone))).flatMap (Flight.due s.cycles) ++ s.ctxs.flatMap (fun p => p.2.due p.1) ++ s.cores.flatMap (fun k => Core.due k.1 k.2) ++
    (if s.boot = .up then s.groups.flatMap (fun g => g.2.due) else []) ++
    (match s.walkQueue with
     | h :: _ => [.estateWalkStart h, .estateWalkHolding]
     | [] => []) ++
    s.pipelines.flatMap (fun p => (upTo (p.2.stages.length + 1)).map (fun i => .relayForward p.2.handle i)) ++
    s.reductions.map (fun r => .reductionTimeout r.2.handle) ++ s.recorders.map (fun r => .recorderFreeze r.1) ++
    (s.grants.filter (fun g => decide (g.expiry ≤ s.time))).map (fun g => .grantExpiry g.id) ++
    s.darkening.map (fun p => .planeDarkEffect p) ++
    (s.clusters.filter (fun c => c.2.going.isSome)).map (fun c => .powerTransitionComplete 0 c.1) ++
    s.planeGoing.map (fun p => .powerTransitionComplete 1 p) ++ s.stackGoing.map (fun p => .powerTransitionComplete 2 p.1) ++
    s.portGoing.map (fun p => .powerTransitionComplete 3 p.1)

/-- The core whose own engine makes a step: in a replay it changes nothing elsewhere (28 R408). -/
def ownEngine (i : Instr) : Option Nat :=
  match i with
  | .copyCommandStart core | .copyCommandComplete core _ => some core
  | .sweepWalk cid => some (coreOfCid cid)
  | _ => none

/-- One of the device's own steps, in rotation. -/
noncomputable def State.engineTurn (s : State) : Turn × Out :=
  let ds := s.due
  let s := { s with rot := s.rot + 1, engine := false }
  match ds[(s.rot - 1) % ds.length]? with
  | some i => (⟨6144, 0, 0, 0, 0⟩, onNext (exec i s) (fun t => (ownEngine i).elim t (fun core => t.mute s core)))
  | none => (⟨6144, 0, 0, 0, 0⟩, .next s)

/-! ## Time (28 R394) -/

/-- Device time after some cycles, with an adjustment under way. -/
def advTime (time : Nat) (adj : Int) (n : Nat) : Nat × Int :=
  if 0 ≤ adj then (time + n + min n adj.toNat, adj - min n adj.toNat)
  else (time + n - min n (-adj).toNat, adj + min n (-adj).toNat)

/-- Cycles RUNNING and those of a stall (28 R395, R397), and cycles since a blocked context parked; on a long-wait list those in which its core is stopped do not count (16 R305, 18 R314). -/
def Ctx.tick (n : Nat) (stopped : Bool) (c : Ctx) : Ctx :=
  let c := if c.state = .running then
      { (if c.stallCounts then (c.count 1 n).count 3 n else c.count 1 n) with runCycles := c.runCycles + n }
    else c
  if c.waits.isNone ∨ (c.parkLong ∧ stopped) then c else { c with parkRun := c.parkRun + n }

/-- Whether the watchdog counter of a group is paused (15 R283). DEDUCED, log entry 96. -/
def State.wdPaused (s : State) (g : Group) : Bool :=
  g.members.any (fun m => m.pst == 1) ||
    s.ctxs.any (fun p => p.2.group == g.handle && !isCopy p.1 &&
      (match p.2.state with
       | .stopped _ e => !e
       | _ => decide (1 ≤ p.2.depth)))

/-- The watchdog counter advances unless it is paused; it is compared with WDOG every 1,024 cycles, as it stands then, in a pause as well (15 R283). DEDUCED, log entry 96. -/
def State.tickGroup (s : State) (n : Nat) (g : Group) : Group :=
  if g.hdr.wdog = 0 ∨ (g.state ≠ .running ∧ g.state ≠ .saved) then g
  else
    let b := (s.cycles + n) / 1024 * 1024
    let runs := g.state == .running && !s.wdPaused g
    { g with
      wdCount := if runs then g.wdCount + n else g.wdCount
      wdDue := g.wdDue || decide (s.cycles < b ∧ g.hdr.wdog ≤ g.wdCount + (if runs then b - s.cycles else 0)) }

/-- Whether a reduction's timer is suspended (21 R347, 24 R373); of a contributor at another device the environment says so. DESIGN CHOICE, log entry 10. -/
def State.redPaused (s : State) (r : Reduction) : Bool :=
  (r.slots.any (fun x => x.2.1 != s.devNum) && Config.freeChoice s.steps % 2 == 1) ||
  r.slots.any (fun x => x.2.1 == s.devNum &&
    ((s.member x.1 x.2.2).pst == 1 || (s.member x.1 x.2.2).pst == 2 || (s.flying x.1).any (fun c => c.vcore == x.2.2)))

def State.tickRed (s : State) (n : Nat) (r : Reduction) : Reduction :=
  if r.state ≠ .opened ∨ r.merged.isEmpty ∨ s.redPaused r then r else { r with ran := r.ran + n }

/-- Core cycles of the receive log; those in which the core is stopped do not count (28 R407). -/
def Core.tick (n : Nat) (k : Core) : Core := if k.stop then k else { k with log := { k.log with cyc := k.log.cyc + n } }

/-! ## The issue recorder (28 R405) -/

/-- Cores of a cluster in the order of a row. -/
def clusterCores (cl : Nat) : List Nat := (upTo 16).map (fun i => cl % 24 * 4 + i % 4 + (cl / 24 * 4 + i / 4) * 96)

/-- A recorder entry for cycle `i` of a step: what the core did that had the turn, an issue in the step's first cycle; a core that runs a context meanwhile stalls, for the reason of its last turn or else for its next one. DESIGN CHOICE, log entry 79. -/
def State.entry (s : State) (t : Turn) (i core : Nat) : Nat :=
  let e (kind slot why pc : Nat) : Nat := kind * 2 ^ 30 + slot * 2 ^ 27 + why * 2 ^ 25 + bitsOf pc 1 25
  if t.core = core ∧ (i = 0 ∨ t.kind ≠ 1) then e t.kind t.slot t.why t.pc
  else
    match (s.core core).running with
    | some slot =>
      let c := s.ctx (core * 8 + slot)
      e 2 slot (c.stalled.getD 3 % 4) c.issuePc.toNat
    | none => 0

/-- What a recorder writes of cycle `i` of a step, in the form that the policy of the cluster's tenant permits: full entries; for each core the issues in a block of 2^k cycles, rounded, once the block is over; or nothing (27 R391). -/
def Recorder.row (r : Recorder) (s : State) (g k : Nat) (t : Turn) (cl i : Nat) : Recorder :=
  match g with
  | 3 => { r.shut with rows := r.shut.rows ++ [3 :: (clusterCores cl).map (s.entry t i)] }
  | 2 =>
    let b := (advTime s.time s.timeAdj i).1 / 2 ^ k
    let new := (clusterCores cl).map (fun c => if t.core = c ∧ t.kind = 1 ∧ i = 0 then 1 else 0)
    (match r.open_ with
     | some (b', xs) =>
       if b' = b then { r with open_ := some (b, (xs.zip new).map (fun x => x.1 + x.2)) } else { r.shut with open_ := some (b, new) }
     | none => { r with open_ := some (b, new) })
  | _ => r.shut

/-- A recorder that records takes a row; after a trigger DELAY more, and it keeps the last 65,536 (28 R405, R406). -/
def State.recCycle (s : State) (t : Turn) (cl g k : Nat) (r : Recorder) (i : Nat) : Recorder :=
  if ¬ r.armed ∨ (r.triggered ∧ r.left = 0) then r
  else
    let r := r.row s g k t cl i
    { r with
      rows := r.rows.drop (r.rows.length - 65536)
      left := if r.triggered then r.left - 1 else r.left }

/-- A recorder takes a row in every cycle, from the step after the one that armed it (28 R405, R406). DESIGN CHOICE, log entry 79. -/
def State.tickRec (s : State) (t : Turn) (r : Recorder) : Recorder :=
  let cl := r.cfg.headD 0
  let part := s.clusterPart cl
  let g := if s.parts.any (fun p => p.2.clus.contains cl) then s.gran part 2 else 3
  if r.fresh then { r with fresh := false }
  else (upTo s.stepLen).foldl (s.recCycle t cl g (s.kexp part 2)) r

/-- Under G = 1 an issue in a recorded cluster sets the window's bit (27 R391). -/
def State.issueBit (s : State) (t : Turn) : State :=
  let cl := clusterOf t.core
  if t.kind = 1 ∧ s.recorders.any (fun r => r.2.armed && r.2.cfg.headD 0 == cl) ∧ s.gran (s.clusterPart cl) 2 = 1 then
    s.markPresent (s.clusterPart cl) 2
  else s

/-- What the cycles of a step move. No two steps share a cycle, so that what several agents do to one word in one cycle needs no order of its own (16 R288, 18 R315). -/
def State.tick (s : State) (t : Turn) : State :=
  let n := s.stepLen
  let tm := advTime s.time s.timeAdj n
  { s.issueBit t with
    ctxs := s.ctxs.map (fun (x : Nat × Ctx) => (x.1, x.2.tick n (s.core (coreOfCid x.1)).stop))
    groups := s.groups.map (fun (x : Nat × Group) => (x.1, s.tickGroup n x.2))
    reductions := s.reductions.map (fun (x : Nat × Reduction) => (x.1, s.tickRed n x.2))
    cores := s.cores.map (fun (x : Nat × Core) => (x.1, x.2.tick n))
    reqs := s.reqs.map (fun r => if s.wantsOut r.plane r.chan r then { r with waited := r.waited + n } else r)
    recorders := s.recorders.map (fun (x : Nat × Recorder) => (x.1, s.tickRec t x.2))
    time := tm.1
    timeAdj := tm.2
    cycles := s.cycles + n
    steps := s.steps + 1 }

/-! ## One step -/

/-- What comes from the host: its commands, its bulk transfers and packets, over the Ethernet ports alone (01 R14, 29 R411, R412). -/
def fromHost (i : Instr) : Bool :=
  match i with
  | .image _ _ | .root _ | .invalidate _ _ _ | .routing _ _ _ | .handle _ _ _ | .linkErrt _ | .wavelengthReset _ _
  | .partitionCreate _ _ _ _ | .partitionDestroy _ | .policy _ _ _ | .stream _ _ _ | .hostLaunch _ _ | .hostKill _
  | .save _ | .move _ _ | .resume _ _ | .powerCluster _ _ | .planeLight _ | .planeDarken _ | .powerStack _ _
  | .wavelengthPark _ _ _ | .wavelengthLight _ _ _ | .wavelengthRetrain _ _ _ | .powerPort _ _ _ | .grantIssue _ _ _
  | .grantRevoke _ | .timeAdjust _ | .hostProbe _ _ _ _ | .record _ _ _ | .readout _ _ _ | .blackBoxRead
  | .estateRead _ _ | .quote _ _ | .bulkWrite _ _ | .bulkRead _ _ | .unsupportedPacket _ => true
  | _ => false

/-- Port of a pre-emption command of a group, as the group keeps it: 0 a save, 1 + origin a move (15 R278). -/
noncomputable def preHost (h e : Nat) : Nat := Config.hostPort (if e = 0 then .save h else .move h (e - 1))

/-- Whether a command that came through a port still has its response to come, which the next one there waits for (29 R412). DESIGN CHOICE, log entry 73. -/
noncomputable def State.hostBusy (s : State) (port : Nat) : Bool :=
  s.invals.any (fun x => x.1 == port) || s.groups.any (fun g => g.2.pre.any (fun e => preHost g.2.handle e == port))

/-- Whether every stack that some bytes of HBM stand in is ACTIVE (29 R413). -/
def State.rangeAwake (s : State) (pa n : Nat) : Bool :=
  s.hbmStacks.all (fun x => x.2) || (upTo n).all (fun i => s.awake (.hbm (pa + i)))

/-- Whether something of the agenda may happen now. Before the device is up that is the image, a packet that is dropped and what resets or ends the device; a command waits for the response of the one before it on its port, a bulk transfer for the stacks that it reaches (29 R411 to R413, R418). -/
noncomputable def State.mayStart (s : State) (i : Instr) : Bool :=
  match i with
  | .image _ _ => !s.hostBusy (Config.hostPort i)
  | .unsupportedPacket _ | .thermalTrip _ | .supplyLoss | .deviceReset => true
  | .bulkWrite pa d => s.boot == .up && s.rangeAwake pa d.length
  | .bulkRead pa n => s.boot == .up && s.rangeAwake pa n
  | i => s.boot == .up && !(fromHost i && s.hostBusy (Config.hostPort i))

/-- What happens next: the first of the environment's agenda that may, else the device's own steps and the strands' turns alternate. DESIGN CHOICE, log entry 5. DESIGN CHOICE, log entry 102. -/
noncomputable def State.choose (s : State) : Turn × Out :=
  match pick s.mayStart s.agenda with
  | some i =>
    let t := { s with agenda := s.agenda.erase i }
    (⟨6144, 0, 0, 0, 0⟩, if fromHost i && !(upTo 4).any s.portUp then .next t else exec i t)
  | none => if s.engine then s.engineTurn else s.takeTurn

/-- A machine step. -/
noncomputable def State.run (s : State) : Out :=
  if ¬ s.powered then .fault .unpowered
  else onNext s.choose.2 (fun u => (u.tick s.choose.1).endInvals.latch)

/-! ## Placing one instruction (log entry 4) -/

/-- The context that runs a placed instruction: core 0, slot 0, workspace 0x1000, supervisor mode, vector extension, at the first head of the line at 0x400. -/
def placedCtx (h t : Nat) : Ctx :=
  { Ctx.blank with
    wp := 0x1000
    pc := 0x402
    cr := [(0x000, 0xC), (0x0E0, 1300000)]
    state := .running
    line := some ⟨0x400, [h], [t]⟩ }

/-- The state with an instruction's head and tail as the next that core 0 issues. DESIGN CHOICE, log entry 4. -/
def State.placed (s : State) (h t : Nat) : State :=
  { s with
    ctxs := [(0, placedCtx h t)]
    cores := mput s.cores 0 { Core.blank with running := some 0 }
    clusters := mdel s.clusters 0
    boot := .up
    agenda := []
    engine := false
    turn := 0
    powered := true }

end Sys2Proof.Machine
end

