-- ==== Sys2Proof/Machine/Step.lean ====
section
/-! DEFINITION. One step of the machine, and the placing of one instruction for it. -/

namespace Sys2Proof.Machine

/-- One step of the machine. -/
noncomputable def step (s : State) : Host.Outcome State Fault Refusal := s.run

/-- The state whose next step runs the instruction with those bits: head first, then tail (03 R50). Every instruction is at most 48 bits, so no bit above `nbits` is lost. -/
def State.withFetchWord (s : State) (nbits w : Nat) : State :=
  s.placed (w % 2 ^ nbits % 65536) (w % 2 ^ nbits / 65536)

end Sys2Proof.Machine
end

