-- ==== Sys2Proof/Safety.lean ====
section
/-! DEFINITION. What a run of the machine keeps and when it is safe, in the terms the statements use: the memory invariant, a calm focus, what an instruction leaves alone, and tables of what the instructions of a family compute. -/

namespace Sys2Proof.Machine

/-! ## Safe runs -/

/-- Both memories are in canonical form (01 R10, R11). -/
def State.memOk (s : State) : Bool := Memory.wf s.spad && Memory.wf s.hbm

/-- A run is safe as far as it goes: each of the first `n` steps answers a next state. -/
def safeRun : Nat → State → Prop
  | 0, _ => True
  | n + 1, s => ∃ t, step s = .next t ∧ safeRun n t

/-! ## What a statement assumes of the focus -/

/-- No watchpoint of the focus is enabled (28 R399). -/
def State.unwatched (s : State) : Bool := (upTo 4).all (fun n => s.cx.fld (0x02C + n) 63 1 == 0)

/-- No word of memory has an error (01 R10). -/
def State.sound (s : State) : Bool := s.badSpad.isEmpty && s.badHbm.isEmpty && s.softSpad.isEmpty && s.softHbm.isEmpty

/-- A calm focus: nothing in flight in the machine, no memory error, no fence gate, no queued tile operation or copy on its core, no remote failure, no call held, no watchpoint, and no run of REP. -/
def State.calm (s : State) : Bool :=
  s.reqs.isEmpty && s.landings.isEmpty && s.flights.isEmpty && s.sound && s.cx.gateLd.isEmpty && s.cx.gateSt.isEmpty &&
    (s.core s.here).mq.isEmpty && (s.core s.here).copies.isEmpty && s.cx.failures.isEmpty && s.cx.call.isNone &&
    s.cx.rep.isNone && s.unwatched

/-- The focus stands with a line and is no copy strand. -/
def State.stands (s : State) : Bool := (mget s.ctxs s.cur).isSome && !isCopy s.cur

/-- The 64 bytes of the line at a base, where the focus may fetch it now and none of them has an error (03 R63 to R65). -/
def State.lineAt (s : State) (base : Nat) (bs : List Byte) : Prop :=
  match s.fetchAt s.cur base with
  | .bad _ _ => False
  | .miss => False
  | .to (.spad core off) => s.fetchHeld s.cur (.spad core off) = false ∧ s.wayOpen s.here (.spad core off) = true ∧ (s.badS core off 64).isNone = true ∧
      bs = readBytes s.spad (spadKey core off) 64
  | .to (.hbm pa) => s.fetchHeld s.cur (.hbm pa) = false ∧ s.wayOpen s.here (.hbm pa) = true ∧ (s.badH pa 64).isNone = true ∧ bs = readBytes s.hbm pa 64

/-- A walk's fault that the focus remembers is forgotten (08 R168). -/
def State.noFault (s : State) : State := s.setCx { s.cx with walkFault := [] }

/-! ## What stays -/

/-- What an instruction keeps: every scratchpad byte outside `dst` and every tag outside `tg`, HBM, every other context and core, the focus's workspace and its control registers but the event counters PC0 to PC3, and, beside the watchdog count that progress restarts, everything the machine holds for groups, partitions, links and the host. -/
structure Kept (s t : State) (dst tg : Nat → Nat → Prop) : Prop where
  spad : ∀ core off, off < 131072 → ¬ dst core off → byteAt t.spad (spadKey core off) = byteAt s.spad (spadKey core off)
  tags : ∀ core off, ¬ tg core off → t.full core off = s.full core off
  hbm : t.hbm = s.hbm
  ctxs : ∀ cid, cid ≠ s.cur → t.ctx cid = s.ctx cid
  cores : ∀ n, n ≠ s.here → t.core n = s.core n
  tiles : (t.core s.here).tiles = (s.core s.here).tiles
  satcnt : (t.core s.here).satcnt = (s.core s.here).satcnt
  wp : t.cx.wp = s.cx.wp
  crs : ∀ n, n < 0x024 ∨ 0x027 < n → t.cx.get n = s.cx.get n
  groups : ∀ h, (t.grp h).map (fun g => { g with wdCount := 0 }) = (s.grp h).map (fun g => { g with wdCount := 0 })
  parts : t.parts = s.parts
  estate : t.estate = s.estate
  learn : t.learn = s.learn
  clusters : t.clusters = s.clusters
  links : t.links = s.links
  reductions : t.reductions = s.reductions
  pipelines : t.pipelines = s.pipelines
  inFlight : t.reqs = s.reqs ∧ t.landings = s.landings ∧ t.flights = s.flights
  host : t.hostOut = s.hostOut ∧ t.boot = s.boot ∧ t.blackBox = s.blackBox ∧ t.superRoot = s.superRoot

/-- The `n` bytes of a core's scratchpad from an offset. -/
def span (core off n : Nat) : Nat → Nat → Prop := fun c o => c = core ∧ off ≤ o ∧ o < off + n

/-- No byte. -/
def nowhere : Nat → Nat → Prop := fun _ _ => False

/-! ## What the scalar instructions compute (06 R123 to R131, 05 R108, 14 R267) -/

/-- The lower and the upper of two numbers' words. -/
def lower (x y : Word) : Word := if x.toInt ≤ y.toInt then x else y
def upper (x y : Word) : Word := if x.toInt ≤ y.toInt then y else x
def lowerN (x y : Word) : Word := if x.toNat ≤ y.toNat then x else y
def upperN (x y : Word) : Word := if x.toNat ≤ y.toNat then y else x

/-- 1 where a proposition holds, else 0. -/
def truth (p : Prop) [Decidable p] : Word := if p then 1 else 0

/-- An integer clamped to the range of a signed word. -/
def clampWord (i : Int) : Word := BitVec.ofInt 64 (max (-(2 ^ 63)) (min (2 ^ 63 - 1) i))

/-- The registers read, the register written and the value of the instructions that only compute. -/
def aluOf (s : State) (i : Instr) : Option (List (BitVec 4) × BitVec 4 × Word) :=
  match i with
  | .add a b c _ => some ([b, c], a, s.w b + s.w c)
  | .sub a b c _ => some ([b, c], a, s.w b - s.w c)
  | .and a b c _ => some ([b, c], a, s.w b &&& s.w c)
  | .or a b c _ => some ([b, c], a, s.w b ||| s.w c)
  | .xor a b c _ => some ([b, c], a, s.w b ^^^ s.w c)
  | .andn a b c _ => some ([b, c], a, s.w b &&& ~~~(s.w c))
  | .shl a b c _ => some ([b, c], a, s.w b <<< ((s.w c).toNat % 64))
  | .shr a b c _ => some ([b, c], a, s.w b >>> ((s.w c).toNat % 64))
  | .sar a b c _ => some ([b, c], a, (s.w b).sshiftRight ((s.w c).toNat % 64))
  | .rol a b c _ => some ([b, c], a, (s.w b).rotateLeft ((s.w c).toNat % 64))
  | .min a b c _ => some ([b, c], a, lower (s.w b) (s.w c))
  | .max a b c _ => some ([b, c], a, upper (s.w b) (s.w c))
  | .minN a b c _ => some ([b, c], a, lowerN (s.w b) (s.w c))
  | .maxN a b c _ => some ([b, c], a, upperN (s.w b) (s.w c))
  | .slt a b c _ => some ([b, c], a, truth ((s.w b).toInt < (s.w c).toInt))
  | .sltN a b c _ => some ([b, c], a, truth ((s.w b).toNat < (s.w c).toNat))
  | .seq a b c _ => some ([b, c], a, truth (s.w b = s.w c))
  | .mul a b c _ => some ([b, c], a, s.w b * s.w c)
  | .mulh a b c _ => some ([b, c], a, BitVec.ofInt 64 ((s.w b).toInt * (s.w c).toInt / 2 ^ 64))
  | .mulhN a b c _ => some ([b, c], a, BitVec.ofNat 64 ((s.w b).toNat * (s.w c).toNat / 2 ^ 64))
  | .div a b c _ => some ([b, c], a, if s.w c = 0 then BitVec.allOnes 64 else (s.w b).sdiv (s.w c))
  | .divN a b c _ => some ([b, c], a, if s.w c = 0 then BitVec.allOnes 64 else s.w b / s.w c)
  | .rem a b c _ => some ([b, c], a, if s.w c = 0 then s.w b else (s.w b).srem (s.w c))
  | .remN a b c _ => some ([b, c], a, if s.w c = 0 then s.w b else s.w b % s.w c)
  | .adds a b c _ => some ([b, c], a, clampWord ((s.w b).toInt + (s.w c).toInt))
  | .subs a b c _ => some ([b, c], a, clampWord ((s.w b).toInt - (s.w c).toInt))
  | .clz a b _ _ => some ([b], a, clz (s.w b))
  | .ctz a b _ _ => some ([b], a, ctz (s.w b))
  | .popc a b _ _ => some ([b], a, popc (s.w b))
  | .brev a b _ _ => some ([b], a, brev (s.w b))
  | .bswap a b _ _ => some ([b], a, bswap (s.w b))
  | .addi a b _ imm => some ([b], a, s.w b + imm.signExtend 64)
  | .andi a b _ imm => some ([b], a, s.w b &&& imm.signExtend 64)
  | .ori a b _ imm => some ([b], a, s.w b ||| imm.signExtend 64)
  | .xori a b _ imm => some ([b], a, s.w b ^^^ imm.signExtend 64)
  | .shli a b _ imm => some ([b], a, s.w b <<< (imm.toNat % 64))
  | .shri a b _ imm => some ([b], a, s.w b >>> (imm.toNat % 64))
  | .sari a b _ imm => some ([b], a, (s.w b).sshiftRight (imm.toNat % 64))
  | .roli a b _ imm => some ([b], a, (s.w b).rotateLeft (imm.toNat % 64))
  | .muli a b _ imm => some ([b], a, s.w b * imm.signExtend 64)
  | .slti a b _ imm => some ([b], a, truth ((s.w b).toInt < imm.toInt))
  | .sltiN a b _ imm => some ([b], a, truth ((s.w b).toNat < (imm.signExtend 64).toNat))
  | .seqi a b _ imm => some ([b], a, truth (s.w b = imm.signExtend 64))
  | .li a _ _ imm => some ([], a, imm.signExtend 64)
  | .liz a _ _ imm => some ([], a, imm.setWidth 64)
  | .lih a _ _ imm => some ([a], a, toWord (imm.toNat * 2 ^ 32 + (s.w a).toNat % 2 ^ 32))
  | .la a _ _ imm => some ([], a, s.cx.issuePc + imm.signExtend 64)
  | .mov a b => some ([b], a, s.w b)
  | .sel a b c imm =>
    some ([b, c, imm.setWidth 4], a, if s.w (imm.setWidth 4) = 0 then s.w c else s.w b)
  | .selz a b c imm =>
    some ([b, c, imm.setWidth 4], a, if s.w (imm.setWidth 4) = 0 then s.w b else s.w c)
  | .wpget a _ _ _ => some ([], a, toWord s.cx.wp)
  | .wfld a b _ imm =>
    some ([b], a, toWord (bitsOf (s.w b).toNat (widLo (s.cx.get 0x014).toNat imm.toNat)
      (widW (s.cx.get 0x014).toNat (imm.toNat - 1))))
  | _ => none

/-- Transfers of control: the registers read, whether the branch is taken, its target, and whether it links (06 R133, R134, 03 R76). -/
def jumpOf (s : State) (i : Instr) : Option (List (BitVec 4) × Bool × Word × Bool) :=
  match i with
  | .jr a _ _ _ => some ([a], true, s.w a, false)
  | .callr a _ _ _ => some ([a], true, s.w a, true)
  | .b _ _ d k => some ([], true, target s.cx.pc d k, false)
  | .call _ _ d k => some ([], true, target s.cx.pc d k, true)
  | .bz a _ d k => some ([a], decide (s.w a = 0), target s.cx.pc d k, false)
  | .bnz a _ d k => some ([a], decide (s.w a ≠ 0), target s.cx.pc d k, false)
  | .blt a b d k => some ([a, b], decide ((s.w a).toInt < (s.w b).toInt), target s.cx.pc d k, false)
  | .bge a b d k => some ([a, b], decide ((s.w b).toInt ≤ (s.w a).toInt), target s.cx.pc d k, false)
  | .bltN a b d k => some ([a, b], decide ((s.w a).toNat < (s.w b).toNat), target s.cx.pc d k, false)
  | .bgeN a b d k => some ([a, b], decide ((s.w b).toNat ≤ (s.w a).toNat), target s.cx.pc d k, false)
  | _ => none

/-! ## What the memory instructions do (08 R169 to R177) -/

/-- A load, store, atomic or reduction: registers read, bytes, address, what it does to the bytes, scope, acquire, release. -/
structure MemForm where
  regs : List (BitVec 4)
  n : Nat
  addr : Word
  scope : Nat
  acq : Bool
  rel : Bool
  es : List Elem

/-- The elements of a load into wA. -/
def ldForm (s : State) (regs : List (BitVec 4)) (n : Nat) (sx : Bool) (a : BitVec 4) (addr : Word) : MemForm :=
  ⟨regs, n, addr, 2, false, false, elems n addr.toNat (s.cx.wOff a.toNat) sx (fun _ => .load) true⟩

/-- What a store of `n` bytes of wA writes: its low half, its high half, all of it. -/
def State.stPart (s : State) (n : Nat) (a : BitVec 4) (i : Nat) : ReqOp :=
  let v := s.rdS s.here (s.cx.wOff a.toNat) (max n 8) % 256 ^ n
  match i with
  | 0 => .store (v % 2 ^ 64)
  | 1 => .store (v / 2 ^ 64)
  | _ => .store v

/-- The elements of a store from wA. -/
def stForm (s : State) (regs : List (BitVec 4)) (n : Nat) (a : BitVec 4) (addr : Word) : MemForm :=
  ⟨regs ++ storeRegs n a, n, addr, 2, false, false, elems n addr.toNat 0 false (s.stPart n a) false⟩

/-- The element of an atomic by AMO's minor. -/
def amoForm (s : State) (op : Nat) (a b c : BitVec 4) (imm : BitVec 6) : MemForm :=
  let n := amoSize imm
  ⟨if op = 9 then [a, b, c] else [b, c], n, s.w b, amoScope imm, bitAt imm.toNat 1, bitAt imm.toNat 2,
    [⟨(s.w b).toNat, n, .amo op (8 * n) ((s.w c).toNat % 256 ^ n) ((s.w a).toNat % 256 ^ n), s.cx.wOff a.toNat, 8, false⟩]⟩

/-- The element of a reduction by RED's minor. -/
def redForm (s : State) (op : Nat) (b c : BitVec 4) (imm : BitVec 6) : MemForm :=
  let n := amoSize imm
  ⟨[b, c], n, s.w b, amoScope imm, false, bitAt imm.toNat 2,
    [⟨(s.w b).toNat, n, .red op (8 * n) ((s.w c).toNat % 256 ^ n) (bitAt imm.toNat 0), 0, 0, false⟩]⟩

/-- The forms of majors 0x18 to 0x1B, 0x20 and 0x23; none for a quadword of an odd register. -/
def memOf (s : State) (i : Instr) : Option MemForm :=
  match i with
  | .ldB a b _ imm => some (ldForm s [b] 1 true a (s.w b + imm.signExtend 64))
  | .ldBn a b _ imm => some (ldForm s [b] 1 false a (s.w b + imm.signExtend 64))
  | .ldH a b _ imm => some (ldForm s [b] 2 true a (s.w b + imm.signExtend 64))
  | .ldHn a b _ imm => some (ldForm s [b] 2 false a (s.w b + imm.signExtend 64))
  | .ldW a b _ imm => some (ldForm s [b] 4 true a (s.w b + imm.signExtend 64))
  | .ldWn a b _ imm => some (ldForm s [b] 4 false a (s.w b + imm.signExtend 64))
  | .ldD a b _ imm => some (ldForm s [b] 8 false a (s.w b + imm.signExtend 64))
  | .ldQ a b _ imm => if odd a then none else some (ldForm s [b] 16 false a (s.w b + imm.signExtend 64))
  | .stB a b _ imm => some (stForm s [b] 1 a (s.w b + imm.signExtend 64))
  | .stH a b _ imm => some (stForm s [b] 2 a (s.w b + imm.signExtend 64))
  | .stW a b _ imm => some (stForm s [b] 4 a (s.w b + imm.signExtend 64))
  | .stD a b _ imm => some (stForm s [b] 8 a (s.w b + imm.signExtend 64))
  | .stQ a b _ imm => if odd a then none else some (stForm s [b] 16 a (s.w b + imm.signExtend 64))
  | .ldxB a b c _ => some (ldForm s [b, c] 1 true a (s.w b + s.w c))
  | .ldxBn a b c _ => some (ldForm s [b, c] 1 false a (s.w b + s.w c))
  | .ldxH a b c _ => some (ldForm s [b, c] 2 true a (s.w b + 2 * s.w c))
  | .ldxHn a b c _ => some (ldForm s [b, c] 2 false a (s.w b + 2 * s.w c))
  | .ldxW a b c _ => some (ldForm s [b, c] 4 true a (s.w b + 4 * s.w c))
  | .ldxWn a b c _ => some (ldForm s [b, c] 4 false a (s.w b + 4 * s.w c))
  | .ldxD a b c _ => some (ldForm s [b, c] 8 false a (s.w b + 8 * s.w c))
  | .ldxQ a b c _ => if odd a then none else some (ldForm s [b, c] 16 false a (s.w b + 16 * s.w c))
  | .stxB a b c _ => some (stForm s [b, c] 1 a (s.w b + s.w c))
  | .stxH a b c _ => some (stForm s [b, c] 2 a (s.w b + 2 * s.w c))
  | .stxW a b c _ => some (stForm s [b, c] 4 a (s.w b + 4 * s.w c))
  | .stxD a b c _ => some (stForm s [b, c] 8 a (s.w b + 8 * s.w c))
  | .stxQ a b c _ => if odd a then none else some (stForm s [b, c] 16 a (s.w b + 16 * s.w c))
  | .amoSwap a b c imm => some (amoForm s 0 a b c imm)
  | .amoAdd a b c imm => some (amoForm s 1 a b c imm)
  | .amoAnd a b c imm => some (amoForm s 2 a b c imm)
  | .amoOr a b c imm => some (amoForm s 3 a b c imm)
  | .amoXor a b c imm => some (amoForm s 4 a b c imm)
  | .amoMin a b c imm => some (amoForm s 5 a b c imm)
  | .amoMax a b c imm => some (amoForm s 6 a b c imm)
  | .amoMinN a b c imm => some (amoForm s 7 a b c imm)
  | .amoMaxN a b c imm => some (amoForm s 8 a b c imm)
  | .amoCas a b c imm => some (amoForm s 9 a b c imm)
  | .amoFadd a b c imm => some (amoForm s 10 a b c imm)
  | .redAdd _ b c imm => some (redForm s 0 b c imm)
  | .redAnd _ b c imm => some (redForm s 1 b c imm)
  | .redOr _ b c imm => some (redForm s 2 b c imm)
  | .redXor _ b c imm => some (redForm s 3 b c imm)
  | .redMin _ b c imm => some (redForm s 4 b c imm)
  | .redMax _ b c imm => some (redForm s 5 b c imm)
  | .redFadd _ b c imm => some (redForm s 6 b c imm)
  | _ => none

/-- An access of the focus meets no trap and may issue: its elements stand at `as`. -/
def State.ready (s : State) (f : MemForm) (as : List At) : Prop :=
  s.regBad f.regs = none ∧ f.addr.toNat % min f.n 8 = 0 ∧ (f.n = 16 → oneRange f.addr.toNat 16 = true) ∧
    s.locateAll f.scope f.es = .ok as ∧ s.dataBad (f.es.zip as) = none ∧
    (f.es.zip as).all (fun x => !s.elemHeld x.1 x.2) = true ∧ s.gated s.cur true false = false ∧ s.classFull (f.es.zip as) = false ∧ s.unwatched = true

/-- A word operation of the focus meets no trap and waits for nothing, its word stands at `l`, and `u` is the state that has used its translation and its placement copy (08 R166, R168, 09 R184, R198, 18 R317, 29 R413). -/
def State.wordAt (s : State) (scope n : Nat) (counts wr rel : Bool) (addr : Nat) (l : Loc) (u : State) : Prop :=
  let e : Elem := ⟨addr, n, probeOp wr, 0, 0, false⟩
  addr % n = 0 ∧ s.inScope scope (rngOf addr) = true ∧
    (∃ a, s.locateAll 2 [e] = .ok [a] ∧ s.placeNow e a = .to l ∧ s.wordBad e a l = none ∧ s.elemHeld e a = false ∧
      s.wayClear l n a.vc = true ∧ s.wayOpen s.here l = true ∧ u = s.atUse e a) ∧
    (counts = true → s.classL s.cur < 64) ∧ s.gated s.cur true wr = false ∧
    (rel = true → 2 ≤ scope → s.drained s.cur (scope == 3) = true) ∧ s.unwatched = true

/-- The focus names no reduction slot and no stage by an address (21 R338). -/
def State.plainObject (s : State) (a : Word) : Prop := s.handleEntry a = none

/-- The focus reads doublewords as its own loads: they meet no trap and wait for nothing, they have the values `d`, and `u` is the state that has used their translations and placement copies (08 R166, R168, 09 R180, 29 R413). -/
def State.readsAt (s : State) (es : List Elem) (d : List Nat) (u : State) : Prop :=
  ∃ as, s.locateAll 2 es = .ok as ∧ s.dataBad (es.zip as) = none ∧
    (es.zip as).all (fun x => s.placeNow x.1 x.2 != .wait && !s.elemHeld x.1 x.2 && s.elemClear x.1 x.2) = true ∧
    s.shutAt (es.zip as) = none ∧
    s.gated s.cur true false = false ∧ s.unwatched = true ∧
    d = (es.zip as).map (fun x => s.rdNow x.1 x.2) ∧
    u = ((es.zip as).foldl (fun t x => t.useNow x.1 x.2) s).noFault

/-- The `n` doublewords at an address. -/
def State.readsDws (s : State) (addr n : Nat) (d : List Nat) (u : State) : Prop :=
  s.readsAt ((upTo n).map (fun i => ⟨addr + 8 * i, 8, .load, 0, 0, false⟩)) d u

/-- An address where a descriptor may stand: the local window or a user page (24 R370, 25 R381). -/
def plainAddr (addr : Nat) : Prop := (∃ off, rngOf addr = .loc off) ∨ rngOf addr = .user

/-- The ring of a member is bound, with its descriptor and fields (16 R296). -/
def State.ringAt (s : State) (n d f : Nat) : Prop := s.mem.ring n = some (d, f) ∧ s.bound s.mem n = true

/-- The neighbour of the focus's member in a direction, both with enabled cells (18 R319). -/
def State.portAt (s : State) (d n : Nat) : Prop :=
  (s.grp s.cx.group).bind (fun g => neighbour g s.cx.vcore d) = some n ∧ s.mem.portEn = true ∧
    (s.member s.cx.group n).portEn = true

/-- The focus is held by a call with one answer. -/
def State.answered (s : State) (x : Nat) : Prop :=
  ∃ (id : Nat) (st : Bool) (r : Nat), s.cx.call = some ⟨id, [(0, some x)], st, r⟩

/-! ## What the vector instructions leave (07 R139 to R150) -/

/-- Lane j of a vector register. -/
def State.lane (s : State) (r : BitVec 5) (j : Nat) : Nat := (s.v r.toNat).getD j 0

/-- Lanes of an operation on integer elements (07 R139). -/
def ints (s : State) (md : BitVec 8) (srcs : List (BitVec 5)) (f : Bool → Nat → Nat → Nat → Nat) (j : Nat) : Nat × Nat :=
  (perElem (intW md) (fun ys => f (intS md) (intW md) (ys.getD 0 0) (ys.getD 1 0)) (srcs.map (fun r => s.lane r j)), 0)

/-- Lanes of an operation on floating-point elements, rounded once in the mode of ST.RM (07 R140). -/
def fps (s : State) (md : BitVec 8) (srcs : List (BitVec 5)) (f : Nat → List FVal → FVal) (j : Nat) : Nat × Nat :=
  (perElem (vfmt md).width (fun ys => roundF (vfmt md) s.cx.rm (f (mkNan s.here j) (ys.map (decodeF (vfmt md)))))
    (srcs.map (fun r => s.lane r j)), 0)

/-- Lanes of a change of sign (07 R141). -/
def signs (s : State) (md : BitVec 8) (va : BitVec 5) (f : Bool → Bool) (j : Nat) : Nat × Nat :=
  (perElem (vfmt md).width (fun ys => withSign (vfmt md) (f (bitAt (ys.getD 0 0) ((vfmt md).width - 1))) (ys.getD 0 0))
    [s.lane va j], 0)

/-- Sixteen values with an identity in the place of none. -/
def filled {α : Type} (xs : List (Option α)) (e : α) : List α := xs.map (fun x => x.getD e)

/-- The state that a vector instruction of majors 0x30 to 0x33, 0x35 and 0x36 leaves, its successor apart; none where a group field names no group. -/
def vecOf (s : State) (i : Instr) : Option State :=
  match i with
  | .vadd _ _ vd va vb k md => some (s.setLanes k vd (ints s md [va, vb] (fun _ _ x y => x + y)))
  | .vsub _ _ vd va vb k md => some (s.setLanes k vd (ints s md [va, vb] (fun _ w x y => x + 2 ^ w - y)))
  | .vmul _ _ vd va vb k md => some (s.setLanes k vd (ints s md [va, vb] (fun _ _ x y => x * y)))
  | .vmin _ _ vd va vb k md => some (s.setLanes k vd (ints s md [va, vb] minI))
  | .vmax _ _ vd va vb k md => some (s.setLanes k vd (ints s md [va, vb] maxI))
  | .vand _ _ vd va vb k md => some (s.setLanes k vd (ints s md [va, vb] (fun _ _ x y => Nat.land x y)))
  | .vor _ _ vd va vb k md => some (s.setLanes k vd (ints s md [va, vb] (fun _ _ x y => Nat.lor x y)))
  | .vxor _ _ vd va vb k md => some (s.setLanes k vd (ints s md [va, vb] (fun _ _ x y => Nat.xor x y)))
  | .vshl _ _ vd va vb k md => some (s.setLanes k vd (ints s md [va, vb] (fun _ w x y => x * 2 ^ (y % w))))
  | .vshr _ _ vd va vb k md => some (s.setLanes k vd (ints s md [va, vb] (fun _ w x y => x / 2 ^ (y % w))))
  | .vsar _ _ vd va vb k md =>
    some (s.setLanes k vd (ints s md [va, vb] (fun _ w x y => wrapInt w (sint w x / 2 ^ (y % w)))))
  | .vadds _ _ vd va vb k md =>
    some (s.setLanes k vd (ints s md [va, vb] (fun g w x y => clampElem g w (elemInt g w x + elemInt g w y))))
  | .vsubs _ _ vd va vb k md =>
    some (s.setLanes k vd (ints s md [va, vb] (fun g w x y => clampElem g w (elemInt g w x - elemInt g w y))))
  | .vabs _ _ vd va _ k md =>
    some (s.setLanes k vd (ints s md [va] (fun g w x _ => if g then (sint w x).natAbs else x)))
  | .vfadd _ _ vd va vb k md => some (s.setLanes k vd (fps s md [va, vb] (fun bad xs => addVals s.cx.rm bad xs)))
  | .vfsub _ _ vd va vb k md =>
    some (s.setLanes k vd (fps s md [va, vb] (fun bad xs => match nanOf xs with
      | some w => .nan w
      | none => addVals s.cx.rm bad [opd xs 0, negVal (opd xs 1)])))
  | .vfmul _ _ vd va vb k md => some (s.setLanes k vd (fps s md [va, vb] (fun bad xs => mulVals bad (opd xs 0) (opd xs 1))))
  | .vfma _ _ vd va vb k md =>
    some (s.setLanes k vd (fps s md [va, vb, vd] (fun bad xs => fmaVals s.cx.rm bad (opd xs 0) (opd xs 1) (opd xs 2))))
  | .vfmin _ _ vd va vb k md => some (s.setLanes k vd (fps s md [va, vb] (fun _ xs => minVal (opd xs 0) (opd xs 1))))
  | .vfmax _ _ vd va vb k md => some (s.setLanes k vd (fps s md [va, vb] (fun _ xs => maxVal (opd xs 0) (opd xs 1))))
  | .vrcp _ _ vd va _ k md => some (s.setLanes k vd (fps s md [va] (fun _ xs => rcpVal (opd xs 0))))
  | .vrsq _ _ vd va _ k md => some (s.setLanes k vd (fps s md [va] (fun bad xs => rsqVal bad (opd xs 0))))
  | .vexp2 _ _ vd va _ k md => some (s.setLanes k vd (fps s md [va] (fun _ xs => exp2Val (opd xs 0))))
  | .vlog2 _ _ vd va _ k md => some (s.setLanes k vd (fps s md [va] (fun bad xs => log2Val bad (opd xs 0))))
  | .vfneg _ _ vd va _ k md => some (s.setLanes k vd (signs s md va (fun x => !x)))
  | .vfabs _ _ vd va _ k md => some (s.setLanes k vd (signs s md va (fun _ => false)))
  | .vcmpEq _ _ vd va vb k md =>
    some (s.setK vd.toNat (maskOf (fun j => s.active k j && laneEq md (s.lane va j) (s.lane vb j))))
  | .vcmpLt _ _ vd va vb k md =>
    some (s.setK vd.toNat (maskOf (fun j => s.active k j && laneLt md (s.lane va j) (s.lane vb j))))
  | .vcmpLe _ _ vd va vb k md =>
    some (s.setK vd.toNat (maskOf (fun j => s.active k j &&
      (laneLt md (s.lane va j) (s.lane vb j) || laneEq md (s.lane va j) (s.lane vb j)))))
  | .vcmpNe _ _ vd va vb k md =>
    some (s.setK vd.toNat (maskOf (fun j => s.active k j && !laneEq md (s.lane va j) (s.lane vb j))))
  | .vblend _ _ vd va vb k _ =>
    some (s.setLanes 0 vd (fun j => (if s.active k j then s.lane vb j else s.lane va j, 0)))
  | .kand _ _ vd va vb _ _ => some (s.setK vd.toNat (Nat.land (s.k va.toNat) (s.k vb.toNat)))
  | .kor _ _ vd va vb _ _ => some (s.setK vd.toNat (Nat.lor (s.k va.toNat) (s.k vb.toNat)))
  | .kxor _ _ vd va vb _ _ => some (s.setK vd.toNat (Nat.xor (s.k va.toNat) (s.k vb.toNat)))
  | .knot _ _ vd va _ _ _ => some (s.setK vd.toNat (65535 - s.k va.toNat))
  | .kpop a _ _ va _ _ _ => some (s.setW a (toWord (popGo 16 (s.k va.toNat))))
  | .vcvt _ _ vd va _ k md => some (s.setLanes k vd (fun j => vcvtLane s.cx.rm md.toNat (s.lane va j)))
  | .vpack a _ vd va _ _ md =>
    if misgroup va (if md = 0 then 4 else 2) then none
    else if md = 0 then some (s.setGroup vd 1 (lanesOf 8 (s.vGroup va 4)))
    else if md = 1 then some (s.setGroup vd 1 (lanesOf 16 (s.vGroup va 2)))
    else
      let cs := (s.vGroup va 2).map (fun x => convQ4 (bitsOf (s.w a).toNat 0 8) s.cx.rm (decodeF f32 x))
      some ((s.setGroup vd 1 (lanesOf 4 (cs.map (fun c => c.1)))).countSat s.cur s.satOf (cs.filter (fun c => c.2)).length)
  | .vunpk a _ vd va _ _ md =>
    if misgroup vd (if bitsOf md.toNat 0 2 = 0 then 4 else 2) then none
    else if bitsOf md.toNat 0 2 = 2 then
      some (s.setGroup vd 2 (((elemsOf 4 (s.v va.toNat)).take 32).map (q4Pat (bitsOf (s.w a).toNat 0 8))))
    else
      let w := if bitsOf md.toNat 0 2 = 0 then 8 else 16
      some (s.setGroup vd (32 / w) ((elemsOf w (s.v va.toNat)).map
        (fun x => if bitAt md.toNat 2 then wrapInt 32 (sint w x) else x)))
  | .vrnd a b vd _ vb k md =>
    some (if md = 2 then
        s.setK vd.toNat (maskOf (fun j =>
          if s.active k j then decide (s.lane vb j ≤ bitsOf (s.draw a b j) 0 32) else bitAt (s.k vd.toNat) j))
      else
        s.setLanes k vd (fun j =>
          (if md = 0 then bitsOf (s.draw a b j) 0 32 else roundF f32 .rne (.fin false (bitsOf (s.draw a b j) 8 24) (-24)), 0)))
  | .vshuf _ _ vd va vb k _ => some (s.setLanes k vd (fun j => ((s.v va.toNat).getD (s.lane vb j % 16) 0, 0)))
  | .vbcast a _ vd _ _ k _ => some (s.setLanes k vd (fun _ => (bitsOf (s.w a).toNat 0 32, 0)))
  | .vext a _ _ va _ _ md => some (s.setW a (toWord (s.lane va (md.toNat % 16))))
  | .vrot _ _ vd va _ k md => some (s.setLanes k vd (fun j => ((s.v va.toNat).getD ((j + 16 - md.toNat % 16) % 16) 0, 0)))
  | .vins a _ vd _ _ _ md =>
    some (s.setV vd.toNat ((upTo 16).map (fun j => if j = md.toNat % 16 then some (bitsOf (s.w a).toNat 0 32) else none)))
  | .vscanAdd _ _ vd va _ k md =>
    some (s.setGroup vd 1 (filled (scan (scanAdd s.cx.rm s.here md) (s.scanIn k va)) (addId md)))
  | .vscanMax _ _ vd va _ k md => some (s.setGroup vd 1 (filled (scan (fun _ => scanMax md) (s.scanIn k va)) (maxId md)))
  | .vscanLin _ _ vd va _ k _ =>
    if misgroup vd 2 || misgroup va 2 then none
    else
      let xs := filled (s.scanLin k va) (0x3F800000, 0)
      some (s.setGroup vd 2 (xs.map (fun x => x.1) ++ xs.map (fun x => x.2)))
  | .vredAdd a _ _ va _ k md =>
    some (s.setW a (toWord ((filled (scan (scanAdd s.cx.rm s.here md) (s.scanIn k va)) (addId md)).getD 15 0)))
  | .vredMax a _ _ va _ k md =>
    some (s.setW a (toWord ((filled (scan (fun _ => scanMax md) (s.scanIn k va)) (maxId md)).getD 15 0)))
  | .vcarry a _ vd va _ k md =>
    if md = 2 ∧ misgroup va 2 then none
    else
      let c := bitsOf (s.w a).toNat 0 32
      let y := s.v (va.toNat + 1)
      some (s.setLanes k vd (fun j =>
        (if md = 0 then scanAdd .rne s.here 0 j c (s.lane va j)
         else if md = 1 then scanMax 0 c (s.lane va j)
         else fmaPat .rne s.here j (s.lane va j) c (y.getD j 0), 0)))
  | _ => none

/-- The elements of the vector loads and stores, with the alignment they need (07 R146, R147). -/
def vmemOf (s : State) (i : Instr) : Option (Nat × List Elem) :=
  match i with
  | .vld a _ vd _ _ k md => some (4, s.laneElems k (fun j => s.rowAddr a md 64 j) true vd.toNat)
  | .vst a _ vd _ _ k md => some (4, s.laneElems k (fun j => s.rowAddr a md 64 j) false vd.toNat)
  | .vlds a b vd _ _ k _ => some (4, s.laneElems k (fun j => s.strideAddr a b j) true vd.toNat)
  | .vsts a b vd _ _ k _ => some (4, s.laneElems k (fun j => s.strideAddr a b j) false vd.toNat)
  | .vgath a _ vd _ vb k _ => some (4, s.laneElems k (fun j => s.gathAddr a vb j) true vd.toNat)
  | .vscat a _ vd _ vb k _ => some (4, s.laneElems k (fun j => s.gathAddr a vb j) false vd.toNat)
  | .vstk a _ _ va _ _ md => some (2, [⟨(s.rowAddr a md 2 0).toNat, 2, .store (s.k va.toNat), 0, 0, false⟩])
  | .vldb a _ vd _ _ _ md => some (2, [⟨(s.rowAddr a md 2 0).toNat, 2, .load, s.cx.kOff vd.toNat, 2, false⟩])
  | _ => none

end Sys2Proof.Machine
end

