-- ==== Sys2Proof/Certificates/Slice0/Obligations.lean ====
section
/-! DEFINITION. The statements for the provers: encoding, the machine as a whole, and the instructions family by family. -/

open Sys2Proof Sys2Proof.Machine

/-! ## Encoding (03) -/

/-- Words written out from the encoding tables decode to the instruction they stand for: ADDI w1, w2, 5; LI w3, -1; MOV w4, w5; B one line on at slot 1; LD.d w6, w7, 8; VADD v1, v2, v3 in the int32 type; TRAP 0x2A; a major that is not assigned decodes to nothing, and neither does ADD with a non-zero immediate. -/
def Obligations.DecodeWords : Prop :=
  decode 0x120A 0x00000005 = some (.addi 1 2 0 5) ∧ decode 0x300F 0x0000FFFFFFFF = some (.li 3 0 0 0xFFFFFFFF) ∧
    decode 0x4510 0 = some (.mov 4 5) ∧ decode 0x0042 0x00000021 = some (.b 0 0 1 1) ∧
    decode 0x6762 0x18000008 = some (.ldD 6 7 0 8) ∧ decode 0x00C2 0x00221802 = some (.vadd 0 0 1 2 3 0 2) ∧
    decode 0x00FD 0x002A = some (.trap 0 0 0 0x2A) ∧ decode 0x0021 0 = none ∧ decode 0x0005 1 = none

/-- Decoding what the encoder makes of a well-formed instruction gives the instruction back, every field at every value the encoding admits. -/
def Obligations.EncodeThenDecode : Prop :=
  ∀ (i : Instr) (h t : Nat), wellFormed i = true → encode i = some (h, t) → decode h t = some i

/-- Encoding what the decoder reads of a head and a tail of the width the head gives returns the head and the tail: no bit of a word is dropped, and what the decoder accepts is well formed. -/
def Obligations.DecodeThenEncode : Prop :=
  ∀ (i : Instr) (h t : Nat), h < 65536 → t < 65536 ^ (h % 4) → decode h t = some i →
    wellFormed i = true ∧ encode i = some (h, t)

/-! ## The machine -/

/-- A step runs the decoded instruction: where the core whose turn it is runs a context with no deferred work, with no load of a body of REP on its way, with no load of a body of REP on its way, whose head and tail at the PC decode to i, which nothing holds and no breakpoint stops, step is exec of i for that context; it is not an instruction of a replayed core whose answer the log holds; around exec step clears what a replayed core sends, logs what the turn did at other cores, keeps the reason of a stall where the instruction only stalled, ends a debug step, lets time pass, ends the INVALIDATE commands whose accesses are performed, and notes the wakes that the step brought about. -/
def Obligations.StepRunsDecoded : Prop :=
  ∀ (s : State) (core slot h t : Nat) (i : Instr), s.powered = true → s.agenda = [] → s.engine = false →
    s.boot = .up → core < 6144 → slot < 8 → s.turns[s.turn % s.turns.length]? = some (core, false) →
    (s.core core).running = some slot →
    let u := { s with turn := s.turn + 1, engine := true, cur := core * 8 + slot }
    (s.leaving u.cx.group u.cx.vcore && u.cx.call.isNone && !u.cx.stepping && u.cx.lddRes.isNone) = false →
    u.boundary = none → u.cx.walk = [] → u.repWaits = false → u.cx.line.isSome = true → u.bits = some (h, t) → decode h t = some i →
    (decodeCause u i = none → u.cx.bkpHit = none) → u.held h t = false → u.waitsLog i = false →
    let why := u.whyOf (exec i u)
    step s = onNext (exec i u) (fun v =>
      (((((v.mute u core).logTurn u i).setStall (core * 8 + slot) why).endStep (core * 8 + slot) u.cx).tick
        ⟨core, if why.isSome then 2 else 1, slot, why.getD 0 % 4, u.cx.issuePc.toNat⟩).endInvals.latch)

/-- A context without a line fetches it from the bytes at its PC: in the local window the 64 bytes of the line are read, decoded, and the instruction at the PC issues from them. -/
def Obligations.LineFetched : Prop :=
  ∀ (s : State) (lb : LineBits), s.boundary = none → s.cx.walk = [] → s.repWaits = false → s.cx.line = none →
    s.fetchHeld s.cur (.spad s.here (s.cx.pc.toNat / 64 * 64)) = false → s.cx.pc.toNat < 0x20000 → s.cx.pc.toNat % 2 = 0 →
    s.cx.pc.toNat % 64 ≠ 0 → s.badSpad = [] → s.softSpad = [] →
    decodeLine (readBytes s.spad (spadKey s.here (s.cx.pc.toNat / 64 * 64)) 64) = some lb →
    s.cx.pc.toNat % 64 / 2 ≤ lb.heads.length →
    s.issue = (s.setCx { s.cx with line := some ⟨s.cx.pc.toNat / 64 * 64, lb.heads, lb.tails⟩, walkFault := [] }).issueAt

/-- Every step keeps both memories in canonical form: addresses strictly rising, no listed byte equal to what an unlisted byte reads as. -/
def Obligations.StepKeepsMemory : Prop :=
  ∀ s t : State, s.memOk = true → step s = .next t → t.memOk = true

/-- After reset the boot ROM waits: no partition, group or context exists, plane 0 is lit, nothing is in flight, and every wavelength is PARKED (a link without an entry has all its wavelengths PARKED). After reset both memories are in canonical form. -/
def Obligations.ResetState : Prop :=
  (State.reset.boot = .waiting ∧ State.reset.ctxs = [] ∧ State.reset.groups = [] ∧ State.reset.parts = [] ∧
    State.reset.lit 0 = true ∧ (∀ l, mget State.reset.links l = none) ∧ Link.blank.wl = [] ∧
    State.reset.reqs = [] ∧ State.reset.flights = [] ∧ State.reset.estate = []) ∧
  (State.reset.memOk = true ∧ State.reset.spad = [] ∧ State.reset.hbm = [])

/-- The trap entry: outside a copy strand, below depth 15, with a handler workspace that is legal, a line at TVEC, no register write in flight and nothing on its way to the header, TST takes ST, TPC the trap's PC, CAUSE and TVAL the trap's, TWP the old WP, DEPTH grows by one, WP becomes the handler's and the PC TVEC; the header of the old workspace in memory holds the trap's PC, and the seven registers as they were. -/
def Obligations.TrapEntry : Prop :=
  ∀ (s s' : State) (cause : Nat) (tval tpc : Word) (l : Line), isCopy s.cur = false → s.cx.serving = false →
    s.cx.rep = none → s.cx.depth < 15 → s.footOk s.cx.handlerWp = true →
    wpOk s.cx.wp s.cx.foot = true → touches [(s.cx.wp - 64, 64)] (s.onTheWay s.cur s.here) = false → s.fetch s.cur (s.cx.get 0x005).toNat = .ok l s' → s.unlanded s.cur = false →
    let t := s.takeTrap cause tval tpc
    t.cx.pc = s.cx.get 0x005 ∧ t.cx.wp = s.cx.handlerWp ∧ t.cx.line = some l ∧ t.cx.get 0x004 = s.cx.get 0x000 ∧
      t.cx.get 0x001 = tpc ∧ t.cx.get 0x002 = toWord cause ∧ t.cx.get 0x003 = tval ∧
      t.cx.get 0x006 = toWord s.cx.wp ∧ t.cx.depth = s.cx.depth + 1 ∧ t.cx.sup = s.cx.sup ∧ t.cx.vx = s.cx.vx ∧
      (∀ j, j < 8 → toWord (t.rdS s.here (s.cx.wp - 64 + 8 * j) 8) = (s.cx.header tpc).getD j 0)

/-- A trap that cannot be entered, at depth 15 or with a handler workspace that is not legal, stops the context with every control register and every register byte unchanged, and a record of cause 0x0E goes to the partition's supervisor. -/
def Obligations.EntryFailure : Prop :=
  ∀ (s : State) (cause : Nat) (tval tpc : Word) (p : Part), isCopy s.cur = false → s.cx.serving = false →
    s.cx.rep = none → (s.cx.depth = 15 ∨ s.footOk s.cx.handlerWp = false) → 64 ≤ s.cx.wp → cause ≠ 0x0C →
    s.cx.wp + s.cx.foot ≤ 0x20000 → mget s.parts (s.partOf s.cx.group) = some p →
    let t := s.takeTrap cause tval tpc
    t.cx.state = .stopped none true ∧ t.cx.cr = s.cx.cr ∧ t.cx.wp = s.cx.wp ∧
      (∀ i : BitVec 4, t.w i = s.w i) ∧
      ∃ q, mget t.parts (s.partOf s.cx.group) = some q ∧
        q.queue = p.queue ++ [⟨0x0E, tval, tpc, [cause, s.cx.depth, s.here, s.cx.group]⟩]

/-! ## Scalar instructions (06) -/

/-- Each instruction that only computes reads its registers, writes its result to the destination and goes on to its successor; a corrected error in a register read is only counted. CLZ, CTZ and POPC count leading zeros, trailing zeros and ones; BREV moves bit n to bit 63 - n, and BSWAP byte n to byte 7 - n; of zero the first two are 64. -/
def Obligations.AluResult : Prop :=
  (∀ (s : State) (i : Instr) (rs : List (BitVec 4)) (d : BitVec 4) (v : Word), aluOf s i = some (rs, d, v) →
    s.regBad rs = none → exec i s = .next (((s.setW d v).advance).addCerrOn s.here (s.softRegs rs))) ∧
  (∀ x : Word,
    (clz 0 = 64 ∧ ctz 0 = 64) ∧
    (x ≠ 0 → 2 ^ (63 - (clz x).toNat) ≤ x.toNat ∧ x.toNat < 2 ^ (64 - (clz x).toNat)) ∧
    (x ≠ 0 → 2 ^ (ctz x).toNat ∣ x.toNat ∧ ¬ 2 ^ ((ctz x).toNat + 1) ∣ x.toNat) ∧
    (popc x).toNat = ((List.range 64).filter (fun n => x.getLsbD n)).length ∧
    (∀ n, n < 64 → (brev x).getLsbD n = x.getLsbD (63 - n)) ∧
    (∀ n, n < 8 → (bswap x).extractLsb' (8 * n) 8 = x.extractLsb' (8 * (7 - n)) 8))

/-- The same instructions leave alone every byte but the eight of the destination register, every tag, HBM, and all state beside the PC, the line, the counters of events and of corrected errors. NOP changes nothing but the PC, the line and the counters of events. -/
def Obligations.AluFrame : Prop :=
  (∀ (s t : State) (i : Instr) (rs : List (BitVec 4)) (d : BitVec 4) (v : Word), aluOf s i = some (rs, d, v) →
    s.regBad rs = none → s.cx.rep = none → s.cx.wp + 128 ≤ 0x20000 → exec i s = .next t →
    t.w d = v ∧ Kept s t (span s.here (s.cx.wOff d.toNat) 8) nowhere ∧
      (∀ e : BitVec 4, e ≠ d → t.w e = s.w e)) ∧
  (∀ (s : State) (a b : BitVec 4), s.cx.rep = none → exec (.nop a b) s = .next s.advance ∧
    s.advance.cx.pc = succPc s.cx.line s.cx.pc ∧ Kept s s.advance nowhere nowhere)

/-- A transfer of control that is taken fetches and checks the line of its target, writes the successor's address to w15 if it links, and goes there; the target must have a line. A branch that is not taken goes on to its successor and checks nothing at its target. A corrected error in a register read is counted once. -/
def Obligations.TransferResult : Prop :=
  (∀ (s : State) (i : Instr) (rs : List (BitVec 4)) (t : Word) (link : Bool) (l : Line) (u : State),
    jumpOf s i = some (rs, true, t, link) → s.regBad rs = none → s.fetch s.cur t.toNat = .ok l u →
    let w := if link then u.setW 15 (succPc s.cx.line s.cx.pc) else u
    exec i s = .next ((w.setCx { w.cx.completed with pc := t, line := some l, walkFault := [] }).addCerrOn
      s.here (s.softRegs rs))) ∧
  (∀ (s : State) (i : Instr) (rs : List (BitVec 4)) (t : Word) (link : Bool),
    jumpOf s i = some (rs, false, t, link) → s.regBad rs = none →
    exec i s = .next (s.advance.addCerrOn s.here (s.softRegs rs)))

/-! ## Control registers (05 R101 to R110) -/

/-- CRR reads the register's live value into wA. CRR, CRW, CRS and CRC of PCORE or CERR in user mode raise X_PRIVILEGE with the register's number. CRW writes wA to the register, CRS its value with the bits of wB set and CRC with them cleared, the last two with the old value to wA; a write that the register accepts completes. A change of a field that user mode may not change raises X_PRIVILEGE. What a write leaves in a register: ST takes RM, SUP and BTE and keeps its other bits; CAUSE takes eight bits; TPC, TVAL, TST, TVEC and TWP all of them; VCORE, PCORE, GROUP, WID and WIDF, TIME and CAPS keep their value. -/
def Obligations.CrAccess : Prop :=
  (∀ (s : State) (a b c : BitVec 4) (imm : BitVec 22),
    (((crNo imm ≠ 0x011 ∧ crNo imm ≠ 0x023) ∨ s.cx.sup = true) →
      exec (.crr a b c imm) s = .next ((s.setW a (s.readCr (crNo imm))).advance)) ∧
    ((crNo imm = 0x011 ∨ crNo imm = 0x023) → s.cx.sup = false →
      exec (.crr a b c imm) s = .next (s.takeTrap 0x03 (toWord (crNo imm)) s.cx.pc) ∧
      exec (.crw a b c imm) s = .next (s.takeTrap 0x03 (toWord (crNo imm)) s.cx.pc) ∧
      exec (.crs a b c imm) s = .next (s.takeTrap 0x03 (toWord (crNo imm)) s.cx.pc) ∧
      exec (.crc a b c imm) s = .next (s.takeTrap 0x03 (toWord (crNo imm)) s.cx.pc))) ∧
  (∀ (s t : State) (a b c : BitVec 4) (imm : BitVec 22),
    ((crNo imm ≠ 0x011 ∧ crNo imm ≠ 0x023) ∨ s.cx.sup = true) →
    let n := crNo imm
    let may (u : State) (new : Word) : Prop := u.cx.sup = true ∨ (u.readCr n ^^^ new) &&& toWord (crRs n) = 0
    (s.regBad [a] = none → let k := s.softRegs [a]
      (may s (s.w a) → s.writeCr n (s.w a) = .ok t → exec (.crw a b c imm) s = .next (t.advance.addCerrOn s.here k)) ∧
      (¬ may s (s.w a) → exec (.crw a b c imm) s = counting k s (.next (s.takeTrap 0x03 (toWord n) s.cx.pc)))) ∧
    (s.regBad [b] = none → let k := s.softRegs [b]
      (may s (s.readCr n ||| s.w b) → s.writeCr n (s.readCr n ||| s.w b) = .ok t →
        exec (.crs a b c imm) s = .next ((t.setW a (s.readCr n)).advance.addCerrOn s.here k)) ∧
      (¬ may s (s.readCr n ||| s.w b) →
        exec (.crs a b c imm) s = counting k s (.next (s.takeTrap 0x03 (toWord n) s.cx.pc))) ∧
      (may s (s.readCr n &&& ~~~(s.w b)) → s.writeCr n (s.readCr n &&& ~~~(s.w b)) = .ok t →
        exec (.crc a b c imm) s = .next ((t.setW a (s.readCr n)).advance.addCerrOn s.here k)) ∧
      (¬ may s (s.readCr n &&& ~~~(s.w b)) →
        exec (.crc a b c imm) s = counting k s (.next (s.takeTrap 0x03 (toWord n) s.cx.pc))))) ∧
  (∀ (s : State) (new : Word),
    (∃ t, s.writeCr 0x000 new = .ok t ∧ t.cx.get 0x000 = (new &&& 0x27) ||| (s.cx.get 0x000 &&& ~~~0x27)) ∧
    (∃ t, s.writeCr 0x002 new = .ok t ∧ t.cx.get 0x002 = (new &&& 0xFF) ||| (s.cx.get 0x002 &&& ~~~0xFF)) ∧
    (∀ n, n ∈ [0x001, 0x003, 0x004, 0x005, 0x006] → ∃ t, s.writeCr n new = .ok t ∧ t.cx.get n = new) ∧
    (∀ n, n ∈ [0x010, 0x011, 0x012, 0x013, 0x014, 0x020, 0x0F1] → s.writeCr n new = .ok s))

/-- The writes that stand as steps of their own: for a context that exists, QBASE_WRITE, PORTB_WRITE, BARRIER_REGISTER_WRITE and FADE_ETA_WRITE leave what the register write leaves where it accepts the value; SATCNT_WRITE sets the counter that SATID names to the low 32 bits; BMODE_WRITE sets AUTO or manual; PCTL_WRITE writes PCTL, and FPROGV_ABANDON clears VALID. The focus stays. -/
def Obligations.RegisterWriteSteps : Prop :=
  ∀ (s t : State) (cid n : Nat) (v : Word), (mget s.ctxs cid).isSome = true →
    let u := s.asCid cid
    (u.writeCr 0x082 v = .ok t → exec (.qbaseWrite cid v) s = .next { t with cur := s.cur }) ∧
    (u.writeCr 0x0A0 v = .ok t → exec (.portbWrite cid v) s = .next { t with cur := s.cur }) ∧
    (u.writeCr (0x0B0 + n % 8) v = .ok t → exec (.barrierRegisterWrite cid n v) s = .next { t with cur := s.cur }) ∧
    (u.writeRate (0x050 + n % 32) v = .ok t → exec (.fadeEtaWrite cid n v) s = .next { t with cur := s.cur }) ∧
    (∃ t, exec (.satcntWrite cid v) s = .next t ∧ t.cur = s.cur ∧
      mget (t.core (coreOfCid cid)).satcnt (u.cx.fld 0x035 0 6) = some (v.toNat % 2 ^ 32)) ∧
    (∃ t, exec (.bmodeWrite cid v) s = .next t ∧ t.cur = s.cur ∧ (t.ctx cid).get 0x045 = v &&& 1) ∧
    (∃ t, exec (.pctlWrite cid v) s = .next t ∧ t.cur = s.cur ∧
      (t.ctx cid).get 0x021 &&& 0x80000000FFFFFFFF = v &&& 0x80000000FFFFFFFF) ∧
    (∃ t, exec (.fprogvAbandon cid) s = .next t ∧ t.cur = s.cur ∧ (t.ctx cid).fld 0x047 0 1 = 0)

/-- WPSET of a legal workspace pointer, with nothing locked or in flight and its footprint clear of the queue area, moves WP and goes on; one that is not a multiple of 128 raises X_MISALIGN, and one whose footprint leaves the scratchpad X_ACCESS. YIELD goes on, and leaves the core READY where another context is READY. -/
def Obligations.WorkspaceAndYield : Prop :=
  ∀ (s : State) (a b c : BitVec 4) (imm : BitVec 6), s.calm = true →
    (let n := (s.w a).toNat
     (n % 128 = 0 → 128 ≤ n → n + s.cx.foot ≤ 0x20000 → inArea s.mem.qbase (n - 64) (64 + s.cx.foot) = none →
       exec (.wpset a b c imm) s = .next (s.setCx { s.cx with wp := n }).advance) ∧
     (n % 128 ≠ 0 → exec (.wpset a b c imm) s = .next (s.takeTrap 0x06 (s.w a) s.cx.pc)) ∧
     (n % 128 = 0 → (n < 128 ∨ 0x20000 < n + s.cx.foot) →
       exec (.wpset a b c imm) s = .next (s.takeTrap 0x08 (s.w a) s.cx.pc))) ∧
    (s.otherReady s.cur = false → exec (.yield a b c imm) s = .next s.advance) ∧
    (s.otherReady s.cur = true →
      exec (.yield a b c imm) s = .next (s.advance.depart s.cur s.advance.cx.pc .ready))

/-! ## Loads, stores, atomics, reductions, order (08, 09) -/

/-- A load, store, atomic or reduction whose checks pass performs its elements at issue or sends them out, and goes on to its successor. A load or store whose address is not a multiple of its size, at most 8, raises X_MISALIGN with the address, and an atomic or reduction whose address is not a multiple of its size does. -/
def Obligations.MemoryResult : Prop :=
  (∀ (s : State) (i : Instr) (f : MemForm) (as : List At), memOf s i = some f → s.ready f as →
    exec i s = .next (((s.commit f.scope f.acq f.rel (f.es.zip as)).advance).addCerrOn s.here (s.softRegs f.regs))) ∧
  (∀ (s : State) (i : Instr) (f : MemForm), s.sound = true → memOf s i = some f → f.addr.toNat % min f.n 8 ≠ 0 →
    exec i s = .next (s.takeTrap 0x06 f.addr s.cx.pc))

/-- No departed bytes of the member are touched. A load from the local window puts the addressed bytes, little-endian and extended, in its destination register, in the order the bytes stood before it; nothing else changes. A store through the local window, outside the own queue area, leaves its value in the addressed bytes and changes no other byte and no tag; the TAIL, HEAD, BOUNCED and REFUSED words of a bound ring keep their value (log entry 114). An atomic or reduction through the local window goes to its place, whatever its scope. There it is performed in a read and then a write, which leaves its new value in memory and gives the old one. That a local load or store is performed as it issues is the model's choice (log entry 8), and so is an atomic's performance in two steps (log entry 23). -/
def Obligations.LocalAccess : Prop :=
  (∀ (s : State) (i : Instr) (f : MemForm) (e : Elem), s.calm = true → memOf s i = some f → f.es = [e] → e.op = .load →
    f.addr.toNat % min f.n 8 = 0 → f.addr.toNat + f.n ≤ 0x20000 → s.cx.wp + 128 ≤ 0x20000 →
    s.fwdFor s.here s.cx.group f.addr.toNat f.n = none →
    ∃ t, exec i s = .next t ∧
      t.rdS s.here e.dst e.dsize = (if e.sx then wrapInt (8 * e.dsize) (sint (8 * f.n) (s.rdS s.here f.addr.toNat f.n))
        else s.rdS s.here f.addr.toNat f.n) ∧
      t.cx.pc = succPc s.cx.line s.cx.pc ∧ Kept s t (span s.here e.dst e.dsize) nowhere) ∧
  (∀ (s : State) (i : Instr) (f : MemForm) (e : Elem) (v : Nat), s.calm = true → memOf s i = some f → f.es = [e] →
    e.op = .store v → f.addr.toNat % min f.n 8 = 0 → f.addr.toNat + f.n ≤ 0x20000 →
    inArea s.mem.qbase f.addr.toNat f.n = none → s.fwdFor s.here s.cx.group f.addr.toNat f.n = none →
    ∃ t, exec i s = .next t ∧
      ((∀ j, j < f.n → s.ringHw s.here (f.addr.toNat + j) = false) → t.rdS s.here f.addr.toNat f.n = v % 256 ^ f.n) ∧
      ((∀ j, j < f.n → s.ringHw s.here (f.addr.toNat + j) = true) →
        t.rdS s.here f.addr.toNat f.n = s.rdS s.here f.addr.toNat f.n) ∧
      t.cx.pc = succPc s.cx.line s.cx.pc ∧ Kept s t (span s.here f.addr.toNat f.n) nowhere) ∧
  (∀ (s : State) (i : Instr) (f : MemForm) (e : Elem), s.calm = true → memOf s i = some f → f.es = [e] →
    e.op.atomic = true → f.addr.toNat % f.n = 0 → f.addr.toNat + f.n ≤ 0x20000 → inArea s.mem.qbase f.addr.toNat f.n = none →
    s.fwdFor s.here s.cx.group f.addr.toNat f.n = none →
    ∃ t r, exec i s = .next t ∧ t.reqs = [r] ∧ r.op = e.op ∧ r.loc = .spad s.here f.addr.toNat ∧ r.size = f.n ∧
      r.scope = f.scope ∧ r.dst = e.dst ∧ r.dsize = e.dsize ∧ r.phase = .issued ∧ t.spad = s.spad ∧ t.tags = s.tags ∧
      t.hbm = s.hbm ∧ t.cx.pc = succPc s.cx.line s.cx.pc) ∧
  (∀ (s : State) (r : Req) (m : Nat) (x : Option Nat × Nat), s.reqs = [r] → r.op.atomic = true → s.ripe r = true →
    s.serve r = .here → m = s.rd r.loc r.size →
    (r.phase = .issued → ∃ t, exec (.requestPerform r.id) s = .next t ∧
      t.reqs = [{ r with phase := .readDone, val := m, seen := m }] ∧ t.spad = s.spad ∧ t.hbm = s.hbm) ∧
    (r.phase = .readDone → r.val = m → r.seen = m → x = r.op.act (originAt r.loc r.core r.scope) m →
      ∃ t, exec (.requestPerform r.id) s = .next t ∧ t.reqs = [{ r with phase := .performed, val := x.2 }] ∧
        ((∀ core off j, r.loc = .spad core off → j < r.size → s.ringHw core (off + j) = false) →
          t.rd r.loc r.size = (x.1.getD m) % 256 ^ r.size)))

/-- FENCE, FENCE.acq and FENCE.rel complete at issue. At core scope they hold nothing. Otherwise an acquire makes later accesses wait for the strand's unperformed loads and atomics. At device and system scope a release makes later stores wait for all the unperformed accesses that it covers, and a full fence later loads for its unperformed stores too; at system scope the accesses of the link engine count as well. At core and cluster scope a release marks what is on its way, for its core or its cluster (the model's choice: log entry 36). WAITC completes once the four counts meet their fields, with X_REMOTE at its successor where a remote failure is pending, and blocks while they do not. -/
def Obligations.FencesAndWaitc : Prop :=
  ∀ (s : State) (a b c : BitVec 4) (imm : BitVec 6) (wl ws wc wm : BitVec 4),
    let sc := bitsOf imm.toNat 4 2
    let full := s.fenceAt true true true sc
    let acq := s.fenceAt true false false sc
    let rel := s.fenceAt false true false sc
    let lds := s.mine s.cur (sc == 3) (fun r => r.reads)
    let sts := s.mine s.cur (sc == 3) (fun r => r.writes)
    let all := s.covered s.cur (sc == 3)
    exec (.fence a b c imm) s = .next full.advance ∧ exec (.fenceAcq a b c imm) s = .next acq.advance ∧
      exec (.fenceRel a b c imm) s = .next rel.advance ∧
      (sc = 0 → full.cx.gateLd = s.cx.gateLd ∧ full.cx.gateSt = s.cx.gateSt ∧ acq.cx.gateLd = s.cx.gateLd ∧
        acq.cx.gateSt = s.cx.gateSt ∧ acq.reqs = s.reqs) ∧
      (sc ≤ 1 → rel.cx.gateLd = s.cx.gateLd ∧ rel.cx.gateSt = s.cx.gateSt ∧
        full.reqs = (s.markRel s.cur sc).reqs ∧ rel.reqs = (s.markRel s.cur sc).reqs) ∧
      (sc ≠ 0 → acq.cx.gateLd = s.cx.gateLd ++ lds ∧ acq.cx.gateSt = s.cx.gateSt ++ lds ∧ acq.reqs = s.reqs) ∧
      (sc = 1 → full.cx.gateLd = s.cx.gateLd ++ lds ∧ full.cx.gateSt = s.cx.gateSt ++ lds) ∧
      (2 ≤ sc → full.cx.gateLd = s.cx.gateLd ++ (lds ++ sts) ∧ full.cx.gateSt = s.cx.gateSt ++ (lds ++ all) ∧
        rel.cx.gateLd = s.cx.gateLd ∧ rel.cx.gateSt = s.cx.gateSt ++ all ∧ full.reqs = s.reqs ∧ rel.reqs = s.reqs) ∧
      (s.waitcMet wl ws wc wm = true → s.cx.failures = [] → exec (.waitc a b wl ws wc wm) s = .next s.advance) ∧
      (∀ (x : Word) (r : List Word), s.waitcMet wl ws wc wm = true → s.cx.failures = x :: r → s.trapWait = none →
        let t := (s.setCx { s.cx with failures := r }).advance
        exec (.waitc a b wl ws wc wm) s = .next (t.takeTrap 0x23 x t.cx.pc)) ∧
      (s.waitcMet wl ws wc wm = false → exec (.waitc a b wl ws wc wm) s =
        .next ((if met (s.classM s.cur) wm then s else s.setCx (s.cx.waitTiles (s.tileIds s.cur))).block
          (.waitc wl.toNat ws.toNat wc.toNat wm.toNat)))

/-! ## Futures and ports (18) -/

/-- On a word at its place with nothing to wait for. Where it is not bereaved: LDF and LDFE of a full word return it, LDFE emptying the tag; FILL of an empty word writes it and sets the tag full; FILL.x does so whatever the tag, and the word then has the value; the hardware's words of a bound ring's descriptor keep theirs (log entry 114); the hardware's words of a bound ring's descriptor keep theirs (log entry 114); EMPTY empties the tag; FEQ returns 1 for full and 0 for empty. LDF and LDFE of an empty word block the strand on it at its own PC; FILL of a full word raises X_DOUBLE_FILL with the address and changes neither word nor tag. On a bereaved word LDF, LDFE and FILL raise X_HEIRLESS, FEQ returns 2, EMPTY leaves it empty, and FILL.x full with the value; it is bereaved no longer. -/
def Obligations.FutureResult : Prop :=
  (∀ (s u : State) (a b c : BitVec 4) (imm : BitVec 22) (core off : Nat), s.sound = true →
    let addr := s.w b + imm.signExtend 64
    let far := decide (0x20000 ≤ addr.toNat)
    u.bereavedAt core off = false →
    (s.wordAt 2 8 far false false addr.toNat (.spad core off) u →
      (u.full core off = true → exec (.ldf a b c imm) s =
        .next ((u.setW a (toWord (u.rdS core off 8))).named (.spad core off) addr).advance) ∧
      exec (.feq a b c imm) s =
        .next ((u.setW a (if u.full core off then 1 else 0)).named (.spad core off) addr).advance) ∧
    (s.wordAt 2 8 far true false addr.toNat (.spad core off) u →
      (u.full core off = true → exec (.ldfe a b c imm) s =
        .next (((u.emptyTag core off).setW a (toWord (u.rdS core off 8))).named (.spad core off) addr).advance) ∧
      exec (.empty a b c imm) s = .next (((((u.emptyTag core off).endBereaved core off).named (.spad core off) addr)).dropFuture
        core off).advance) ∧
    (s.wordAt 2 8 far true true addr.toNat (.spad core off) u →
      (u.full core off = false → exec (.fill a b c imm) s =
        .next (((((u.wrS core off 8 (u.keepW core off (u.w a).toNat)).setTag core off true).endFwd u.cur).named (.spad core off) addr).progress
          u.cx.group).advance) ∧
      ∃ t, exec (.fillX a b c imm) s = .next t ∧ t.full core off = true ∧
        (s.cx.rep = none → t.rdS core off 8 = u.keepW core off (u.w a).toNat))) ∧
  (∀ (s u : State) (a b c : BitVec 4) (imm : BitVec 22) (core off : Nat), s.sound = true →
    let addr := s.w b + imm.signExtend 64
    let far := decide (0x20000 ≤ addr.toNat)
    (u.bereavedAt core off = false → u.full core off = false →
      (s.wordAt 2 8 far false false addr.toNat (.spad core off) u →
        exec (.ldf a b c imm) s = .next (u.block (.future core off))) ∧
      (s.wordAt 2 8 far true false addr.toNat (.spad core off) u →
        exec (.ldfe a b c imm) s = .next (u.block (.future core off)))) ∧
    (u.bereavedAt core off = false → u.full core off = true → s.wordAt 2 8 far true true addr.toNat (.spad core off) u →
      exec (.fill a b c imm) s = .next (u.takeTrap 0x10 addr u.cx.pc)) ∧
    (u.bereavedAt core off = true →
      (s.wordAt 2 8 far false false addr.toNat (.spad core off) u →
        exec (.ldf a b c imm) s = .next (u.takeTrap 0x13 addr u.cx.pc) ∧
        (u.full core off = false →
          exec (.feq a b c imm) s = .next ((u.setW a 2).named (.spad core off) addr).advance)) ∧
      (s.wordAt 2 8 far true false addr.toNat (.spad core off) u →
        exec (.ldfe a b c imm) s = .next (u.takeTrap 0x13 addr u.cx.pc) ∧
        ∃ t, exec (.empty a b c imm) s = .next t ∧ t.full core off = false ∧ t.bereavedAt core off = false) ∧
      (s.wordAt 2 8 far true true addr.toNat (.spad core off) u →
        exec (.fill a b c imm) s = .next (u.takeTrap 0x13 addr u.cx.pc) ∧
        ∃ t, exec (.fillX a b c imm) s = .next t ∧ t.full core off = true ∧ t.bereavedAt core off = false ∧
          (s.cx.rep = none → t.rdS core off 8 = u.keepW core off (u.w a).toNat))))

/-- PASS to a neighbour whose cell is empty sends the value and holds until it is acknowledged, then goes on; TAKE returns a full cell and empties it; PEEK returns a full cell and 1, and of an empty one 0 in wB. PORT_DEPOSIT puts the value in the target's empty cell and sets its tag full, and PORT_ACK brings the answer to the strand. -/
def Obligations.PortResult : Prop :=
  ∀ (s : State) (a b c : BitVec 4) (imm : BitVec 6) (n : Nat), s.sound = true → s.portAt (bitsOf imm.toNat 0 2) n →
    let d := bitsOf imm.toNat 0 2
    let m := s.member s.cx.group n
    let mine := s.mem.cell d
    (s.cx.call = none → m.pst = 0 → (s.placeOf s.here s.cx.group n).1 = 0 → s.gated s.cur false true = false →
      s.full m.pcore (m.cell ((d + 2) % 4)) = false → ∃ t, exec (.pass a b c imm) s = .next t ∧
        t.flights = s.flights ++ [⟨s.uid, .pass s.cur s.uid s.cx.group n ((d + 2) % 4) (s.w a)⟩] ∧
        t.cx.call = some ⟨s.uid, [(0, none)], false, 0⟩ ∧ t.cx.pc = s.cx.pc) ∧
    (s.answered 0 → exec (.pass a b c imm) s = .next (s.setCx { s.cx with call := none }).advance) ∧
    (s.reqs = [] → s.landings = [] → s.flights = [] → (s.core s.here).mq = [] →
      (s.full s.here mine = true →
        exec (.take a b c imm) s = .next ((s.emptyTag s.here mine).setW a (toWord (s.rdS s.here mine 8))).advance ∧
        exec (.peek a b c imm) s = .next ((s.setW a (toWord (s.rdS s.here mine 8))).setW b 1).advance) ∧
      (s.full s.here mine = false → exec (.peek a b c imm) s = .next (s.setW b 0).advance ∧
        exec (.take a b c imm) s = .next (s.block (.portIn mine)))) ∧
    (∀ (id cid call group vc cell : Nat) (v : Word) (g : Group), s.flight id = some (.pass cid call group vc cell v) →
      s.grp group = some g → (s.member group vc).pst = 0 → (s.member group vc).portEn = true →
      s.full (s.member group vc).pcore ((s.member group vc).cell cell) = false → s.badSpad = [] →
      ∃ t, exec (.portDeposit id) s = .next t ∧
        t.full (s.member group vc).pcore ((s.member group vc).cell cell) = true ∧
        t.rdS (s.member group vc).pcore ((s.member group vc).cell cell) 8 = v.toNat) ∧
    (∀ (id cid call group vc r : Nat) (k : Call), s.flight id = some (.passAck cid call group vc r) → (s.ctx cid).call = some k →
      k.id = call → k.answers = [(0, none)] → (s.core (coreOfCid cid)).log.on = false →
      ∃ t, exec (.portAck id) s = .next t ∧ t.flight id = none ∧
        (t.ctx cid).call = some { k with answers := [(0, some r)] })

/-! ## Locks and the estate (21) -/

/-- LOCK and TRYLOCK of a word that is not held, in a range the table can register, take it: the word shows HELD with the owner's group and member, the holding is in the estate table, and wA says whether the lock was bereaved and by whom. Of a lock held by another, LOCK blocks and TRYLOCK returns the busy code; one conveyed to the own group they claim, with the former holder in wA. UNLOCK by the owner clears HELD, removes the holding and wakes the waiters; by anyone else it raises X_ACCESS. -/
def Obligations.LockResult : Prop :=
  ∀ (s u v : State) (a b c : BitVec 4) (imm : BitVec 6) (l : Loc) (o : Nat × Nat), s.sound = true →
    let sc := bitsOf imm.toNat 4 2
    let w := u.rd l 8
    (s.wordAt sc 8 true true false (s.w b).toNat l u → lkHeld w = false → u.objOf l = some o →
      u.register u.cx.group 0 0 o = (v, 0) →
      let r := toWord (if lkBrv w then 2 ^ 62 + lkOwner w else 0)
      let t := (((v.wr l 8 (lkWord w u.cx.group false true false u.cx.vcore)).setW a r).named l (s.w b)).advance
      exec (.lock a b c imm) s = .next t ∧ exec (.trylock a b c imm) s = .next t) ∧
    (s.wordAt sc 8 true true false (s.w b).toNat l u → lkHeld w = true → (lkCnv w = false ∨ lkOwner w ≠ u.cx.group) →
      exec (.lock a b c imm) s = .next (u.block (lockWait l)) ∧
      exec (.trylock a b c imm) s = .next ((u.setW a 0x8000000000000001).named l (s.w b)).advance) ∧
    (∀ (i : Nat) (e : Holding), s.wordAt sc 8 true true false (s.w b).toNat l u → lkHeld w = true → lkCnv w = true →
      lkOwner w = u.cx.group → u.heldAt u.cx.group (some 0) l = some (i, e) →
      let t := (((u.wr l 8 (lkWord w (lkOwner w) (lkBrv w) true false u.cx.vcore)).setW a (toWord (2 ^ 62 + e.former))).named l
        (s.w b)).advance
      exec (.lock a b c imm) s = .next t ∧ exec (.trylock a b c imm) s = .next t) ∧
    (s.wordAt sc 8 false true true (s.w b).toNat l u → lkHeld w = true → lkOwner w = u.cx.group →
      exec (.unlock a b c imm) s = .next
        ((((((u.named l (s.w b)).wr l 8 (lkWord w (lkOwner w) (lkBrv w) false false w)).dropLock l).wakeLock l
          (fun _ => true))).releaseAt sc).advance) ∧
    (s.wordAt sc 8 false true true (s.w b).toNat l u → (lkHeld w = false ∨ lkOwner w ≠ u.cx.group) →
      exec (.unlock a b c imm) s = .next (u.takeTrap 0x08 (s.w b) u.cx.pc))

/-- On the calling group's holding of an object at an address: HEIR names a valid heir in its entry and returns 0; DISOWN of a future or a ring removes the entry; ESTQ returns VALID, the mark, the kind and the former holder; ACK clears the mark and the former holder. Without a holding DISOWN and ACK change nothing and ESTQ returns 0. On a reduction slot or a stage that the group holds, named by its handle, HEIR and ACK do the same to all that the group holds of it, ESTQ returns the entry, and DISOWN raises X_OPERAND (handles the model's choice: log entry 113). -/
def Obligations.EstateResult : Prop :=
  ∀ (s u : State) (a b c : BitVec 4) (imm : BitVec 6) (l : Loc) (i : Nat) (e : Holding), s.sound = true →
    let h := (s.w c).toNat % 2 ^ 32
    (s.handleEntry (s.w b) = none → s.wordAt 2 8 false false false (s.w b).toNat l u →
      (u.entryAt l = some (i, e) →
        (bitsOf imm.toNat 0 3 = e.kind → e.kind < 5 → u.badHeir h = false → exec (.heir a b c imm) s =
          .next ((({ u with estate := mput u.estate i { e with heir := h } }).setW a 0).named l (s.w b)).advance) ∧
        ((e.kind = 2 ∨ e.kind = 3) → exec (.disown a b c imm) s = .next ((u.named l (s.w b)).unregister i).advance) ∧
        exec (.estq a b c imm) s = .next (u.setW a (toWord (2 ^ 63 + (if e.brv then 2 ^ 62 else 0) + e.kind * 2 ^ 59 +
          e.former))).advance ∧
        exec (.ack a b c imm) s =
          .next ({ u with estate := mput u.estate i { e with brv := false, former := 0 } } : State).advance) ∧
      (u.entryAt l = none →
        exec (.disown a b c imm) s = .next u.advance ∧ exec (.estq a b c imm) s = .next (u.setW a 0).advance ∧
        exec (.ack a b c imm) s = .next u.advance)) ∧
    (s.handleEntry (s.w b) = some (i, e) →
      (bitsOf imm.toNat 0 3 = e.kind → e.kind < 5 → s.badHeir h = false → exec (.heir a b c imm) s =
        .next (((s.updHandle e (fun x => { x with heir := h })).setW a 0).namedEntry e).advance) ∧
      exec (.disown a b c imm) s = .next (s.takeTrap 0x04 (s.asWritten (encWord (.disown a b c imm))) s.cx.pc) ∧
      exec (.estq a b c imm) s = .next (s.setW a (toWord (2 ^ 63 + (if e.brv then 2 ^ 62 else 0) + e.kind * 2 ^ 59 +
        e.former))).advance ∧
      exec (.ack a b c imm) s = .next (s.updHandle e (fun x => { x with brv := false, former := 0 })).advance)

/-! ## Codelets (16) -/

/-- CARM of a non-zero count writes count, priority, STL and ARM in the counter word and clears LOST. CDEC at the own bank of a count above 1 returns the count less one and leaves it in the word; at another core's bank it sends the decrement and holds. CREADY of a queued block returns 0 and of another 1. CPOP ends the serving before it, takes the head of its own deque's highest level and returns the block's window address and entry point; with NOST and an empty deque it returns 0 or blocks; without NOST it goes on a steal round. CDONE without successors ends the serving and completes; with them it sends one decrement for each and waits; once all are answered it ends the serving and completes, or traps for the failed one of the lowest mask bit with its address (of causes beside X_COUNTER_UNDERFLOW the model's choice: log entry 45). COUNTER_DECREMENT of a count above 1 leaves the count less one at the owning bank, and the strand's call has it as its answer. STEAL_ROUND takes an entry from the member the hub picks and answers with it, goes on to the next cluster where the hub finds none, and after the last answers that there is no entry. -/
def Obligations.CodeletResult : Prop :=
  (∀ (s u : State) (a b c : BitVec 4) (imm : BitVec 6) (core off : Nat), s.calm = true → (s.w b).toNat % 16 = 0 →
    let w := s.rdS core off 8
    let v := s.vcoreAt core
    let apart := off + 8 ≤ s.cx.wOff a.toNat ∨ s.cx.wOff a.toNat + 8 ≤ off
    (s.wordAt 2 8 false true true (s.w b).toNat (.spad core off) u → (s.w b).toNat < 0x20000 → qbaseEn s.mem.qbase = true →
      (s.w a).toNat % 2 ^ 32 ≠ 0 →
      ∃ t, exec (.carm a b c imm) s = .next t ∧ cwCnt (t.rdS core off 8) = (s.w a).toNat % 2 ^ 32 ∧
        cwPrio (t.rdS core off 8) = bitsOf imm.toNat 0 2 ∧ cwStl (t.rdS core off 8) = bitAt imm.toNat 2 ∧
        cwArm (t.rdS core off 8) = true ∧ bitAt (t.rdS core off 8) 37 = false) ∧
    (s.wordAt 2 8 true true true (s.w b).toNat (.spad core off) u → core = s.here → (s.member s.cx.group v).pcore = core →
      1 < cwCnt w → apart → ∃ t, exec (.cdec a b c imm) s = .next t ∧ t.w a = toWord (cwCnt w - 1) ∧
        cwCnt (t.rdS core off 8) = cwCnt w - 1 ∧ t.cx.pc = succPc s.cx.line s.cx.pc) ∧
    (s.wordAt 2 8 true true true (s.w b).toNat (.spad core off) u → core ≠ s.here →
      ∃ t, exec (.cdec a b c imm) s = .next t ∧ t.cx.pc = s.cx.pc ∧ t.cx.call = some ⟨u.uid, [(0, none)], false, 0⟩ ∧
        t.flights = [⟨u.uid, .dec s.cur u.uid 0 s.cx.group v off s.cx.vcore (s.w b) s.cx.pc⟩]) ∧
    (s.wordAt 2 8 true true true (s.w b).toNat (.spad core off) u → ∃ t, exec (.cready a b c imm) s = .next t ∧ t.w a = (if cwQueued w then 0 else 1) ∧
      t.cx.pc = succPc s.cx.line s.cx.pc)) ∧
  (∀ (s t : State) (a b c : BitVec 4) (imm : BitVec 6) (e : Nat), s.calm = true →
    (let area := qbaseAddr s.mem.qbase
     let u := s.endServing s.cur
     qbaseEn s.mem.qbase = true → bitAt (s.rdS s.here (area + 32) 8) 0 = false →
     (u.popOwn u.cx.group u.cx.vcore = some (t, e) →
       exec (.cpop a b c imm) s = .next (t.serveEntry a b u.cx.vcore e).advance) ∧
     (u.popOwn u.cx.group u.cx.vcore = none → u.cx.call = none →
       (bitsOf imm.toNat 0 2 = 2 → ∃ v, exec (.cpop a b c imm) s = .next v ∧ (a = b ∨ v.w a = 0) ∧ v.w b = 0) ∧
       (bitsOf imm.toNat 0 2 = 3 → ∃ v, exec (.cpop a b c imm) s = .next v ∧ v.cx.waits = some (.cpop true)) ∧
       (bitsOf imm.toNat 0 2 < 2 → ∃ v, exec (.cpop a b c imm) s = .next v ∧
         v.cx.call = some ⟨u.uid, [(0, none)], true, 0⟩))) ∧
    (let as := s.cx.successors (bitsOf (s.w a).toNat 0 16) (bitsOf (s.w a).toNat 16 16)
     (as = [] → ∃ v, exec (.cdone a b c imm) s = .next v ∧ v.cx.serving = false ∧
       v.cx.pc = succPc s.cx.line s.cx.pc) ∧
     (as ≠ [] → as.filterMap (fun x => (s.endFwd s.cur).counterBad x) = [] →
       ∃ v, exec (.cdone a b c imm) s = .next v ∧ v.flights.length = as.length ∧
         v.cx.call = some ⟨s.uid, (List.range as.length).map (fun i => (i, none)), false, 0⟩))) ∧
  (∀ (s : State) (a b c : BitVec 4) (imm : BitVec 6) (k : Call), s.sound = true → s.cx.call = some k →
    k.answers.all (fun r => r.2.isSome) = true →
    let as := s.cx.successors (bitsOf (s.w a).toNat 0 16) (bitsOf (s.w a).toNat 16 16)
    let t := (s.setCx { s.cx with call := none }).endServing s.cur
    let bad := k.answers.findSome? (fun r => (r.2.bind decCause).map (fun q => (r.1, q)))
    (bad = none → exec (.cdone a b c imm) s = .next (t.progress t.cx.group).advance) ∧
    (∀ x : Nat × Nat, bad = some x → s.trapWait = none →
      exec (.cdone a b c imm) s = .next (t.takeTrap x.2 (toWord (as.getD x.1 0)) t.cx.pc))) ∧
  (∀ (s : State) (id cid call idx group v off issuer : Nat) (va tpc : Word) (k : Call),
    (∀ core o : Nat, s.flights = [⟨id, .dec cid call idx group v off issuer va tpc⟩] → s.hopping id = false → (s.placeOf (coreOfCid cid) group v).1 ≠ 1 →
     s.homeward (coreOfCid cid) group (.spad (s.member group v).pcore off) 8 (some v) = .to (.spad core o) →
     (s.member group ((s.vcoreOn group core).getD v)).pcore = core → 1 < cwCnt (s.rdS core o 8) →
     (s.core (coreOfCid cid)).log.on = false →
     ∃ t, exec (.counterDecrement id) s = .next t ∧ t.flights = [] ∧
       cwCnt (t.rdS core o 8) = cwCnt (s.rdS core o 8) - 1 ∧
       ((s.ctx cid).call = some k → k.id = call → k.answers = [(idx, none)] →
         (t.ctx cid).call = some { k with answers := [(idx, some (cwCnt (s.rdS core o 8) - 1))] })) ∧
    (∀ c : Ctx, mget s.ctxs cid = some c → c.call = some k → k.steal = true → k.answers = [(0, none)] →
      (s.core (coreOfCid cid)).log.on = false →
      let cls := s.groupClusters c.group
      let cl := roundCluster (clusterOf (coreOfCid cid)) k.round cls
      let r := s.hubReads c.group (s.membersIn c.group cl)
      (∀ (w e : Nat) (u : State), r.hubPick c.group cl = some w → r.stealFrom c.group w = some (u, e) →
        ∃ t, exec (.stealRound cid) s = .next t ∧ (t.ctx cid).call = some { k with answers := [(0, some (w * 2 ^ 64 + e))] }) ∧
      (r.hubPick c.group cl = none →
        (k.round + 1 < cls.length → exec (.stealRound cid) s =
          .next (r.setCtx cid { c with call := some { k with round := k.round + 1 } })) ∧
        (cls.length ≤ k.round + 1 → ∃ t, exec (.stealRound cid) s = .next t ∧
          (t.ctx cid).call = some { k with answers := [(0, some noEntry)] }))))

/-! ## Rings, queue control, WFM (16) -/

/-- SEND of a buffer that passes its checks puts the message, with the fields that the NI writes, in flight, to a member of the own group or through a valid handle, on the link of its route where it goes to another device, and goes on. -/
def Obligations.SendResult : Prop :=
  ∀ (s : State) (a b c : BitVec 4) (imm : BitVec 6), s.calm = true →
    let buf := (s.w b).toNat
    let wc := (s.w c).toNat
    let dev := wc / 2 ^ 32
    let len := bitsOf (s.rdS s.here (buf + 8) 8) 48 8
    let m := s.message buf dev wc
    buf % 64 = 0 → buf < 0x20000 → len ≤ 224 → buf + 32 + len ≤ 0x20000 →
    badHeader (s.rdS s.here buf 8) (s.rdS s.here (buf + 8) 8) (s.rdS s.here (buf + 16) 8) (s.rdS s.here (buf + 24) 8) = false →
    bitsOf wc 20 12 = 0 → (dev = 0 → bitsOf wc 0 13 < s.nMembers s.cx.group) →
    (dev ≠ 0 → (s.handleOf dev).isSome = true) →
    ∃ t, exec (.send a b c imm) s = .next t ∧ t.flights = [⟨s.uid, .msg m false⟩] ∧
      t.links = (s.sendTo m.ddev s.uid m.words).links ∧ t.cx.pc = succPc s.cx.line s.cx.pc ∧ t.spad = s.spad ∧
      t.tags = s.tags

/-- On a bound ring: RPOLL returns its count; RWAIT returns the slot at HEAD, or blocks while the ring is empty; RADV moves HEAD by wA in a ring that is not in dispatch mode and no relay; RCLOSE clears BOUND. RBIND of a legal descriptor binds the ring with HEAD and TAIL 0. On a ring that is not bound they raise X_OPERAND. -/
def Obligations.RingResult : Prop :=
  ∀ (s : State) (a b c : BitVec 4) (imm : BitVec 6) (d f : Nat), s.calm = true →
    let n := bitsOf imm.toNat 0 4
    let area := qbaseAddr s.mem.qbase
    let cnt := s.ringCount s.here d
    (s.ringAt n d f →
      exec (.rpoll a b c imm) s = .next ((s.setW a (toWord cnt)).namedRing s.cx.group s.cx.vcore d).advance ∧
      (cnt = 0 → exec (.rwait a b c imm) s = .next (s.block (.ring n))) ∧
      (cnt ≠ 0 → exec (.rwait a b c imm) s = .next (((s.noteTaken s.here (slotAddr f (s.ringHead s.here d))).setW a
        (toWord (slotAddr f (s.ringHead s.here d)))).namedRing s.cx.group s.cx.vcore d).advance) ∧
      (ringDisp f = false → 0 < (s.w a).toNat → (s.w a).toNat ≤ cnt → s.isRelay s.cx.group s.cx.vcore n = false →
        ∃ t, exec (.radv a b c imm) s = .next t ∧ t.ringHead s.here d = (s.ringHead s.here d + (s.w a).toNat) % 2 ^ 32 ∧
          t.cx.pc = succPc s.cx.line s.cx.pc) ∧
      (area + 2176 ≤ 0x20000 → s.mem.pcore = s.here → ∃ t, exec (.rclose a b c imm) s = .next t ∧
        bitAt (t.ringWord s.here area n) 31 = false ∧ t.cx.pc = succPc s.cx.line s.cx.pc)) ∧
    ((s.mem.ring n = none ∨ s.bound s.mem n = false) →
      exec (.rpoll a b c imm) s = .next (s.takeTrap 0x04 (s.asWritten (encWord (.rpoll a b c imm))) s.cx.pc) ∧
      exec (.rwait a b c imm) s = .next (s.takeTrap 0x04 (s.asWritten (encWord (.rwait a b c imm))) s.cx.pc) ∧
      exec (.radv a b c imm) s = .next (s.takeTrap 0x04 (s.asWritten (encWord (.radv a b c imm))) s.cx.pc) ∧
      exec (.rclose a b c imm) s = .next (s.takeTrap 0x04 (s.asWritten (encWord (.rclose a b c imm))) s.cx.pc)) ∧
    (let e := (s.w b).toNat
     let g := s.rdS s.here e 8
     qbaseEn s.mem.qbase = true → s.bound s.mem n = false → e % 64 = 0 → e + 64 ≤ 0x20000 → area + 2176 ≤ 0x20000 →
     bitsOf g 48 16 = 0 → bitsOf g 28 4 = 0 → bitsOf g 17 3 = 0 → 1 ≤ ringLogn g → ringLogn g ≤ 8 → ringSlots g % 256 = 0 →
     ringSlots g + 256 * 2 ^ ringLogn g ≤ 0x20000 → touches [(area, 2176)] [(e, 64), (ringSlots g, 256 * 2 ^ ringLogn g)] = false →
     ∃ t, exec (.rbind a b c imm) s = .next t ∧ bitsOf (t.ringWord s.here area n) 30 2 = 3 ∧
       bitsOf (t.ringWord s.here area n) 0 17 = e ∧ t.ringHead s.here e = 0 ∧ t.ringTail s.here e = 0 ∧
       t.cx.pc = succPc s.cx.line s.cx.pc)

/-- A message for this device whose keys match the bound ring of a running member with room is deposited, and its item leaves the weave, a pipeline's copy being counted as delivered; one that the NI refused is tried again in the same way, and so is a bounce on its way back. One that finds its ring full is refused and kept, one that is turned away sets out to its sender as a bounce with its STAT, one whose ring was conveyed goes on to the heir, and one for another device waits while a flit of it has not gone out. A deposit moves TAIL of the ring by one and puts the payload in the slot that TAIL named, the tag of the slot's first word set full. -/
def Obligations.MessageSteps : Prop :=
  (∀ (s : State) (id d f : Nat) (m : Msg), s.fate m = .deposit d f → m.ddev = 0 → s.hopping id = false →
    (s.flights = [⟨id, .msg m false⟩] →
      exec (.messageArrival id) s = .next (((s.land id).deposit m.dgrp m.dvc d f m).copyArrived m)) ∧
    (s.flights = [⟨id, .msg m true⟩] →
      exec (.ringRefusalRetry id) s = .next (((s.land id).deposit m.dgrp m.dvc d f m).copyArrived m)) ∧
    (s.flights = [⟨id, .bounce m false⟩] →
      exec (.bounceArrival id) s = .next (((s.land id).deposit m.dgrp m.dvc d f m).copyArrived m))) ∧
  (∀ (s : State) (id : Nat) (m : Msg), s.flights = [⟨id, .msg m false⟩] →
    (m.ddev ≠ 0 → s.unsent id = true → exec (.messageArrival id) s = .next s) ∧
    (m.ddev = 0 → s.hopping id = false →
      (s.fate m = .refuse → ∃ t, exec (.messageArrival id) s = .next t ∧ t.flights = [⟨id, m.cargo true⟩]) ∧
      (∀ k : Nat, s.fate m = .bounce k → m.isBounce = false → ∃ t, exec (.messageArrival id) s = .next t ∧
        t.flights = [⟨id, .bounce (s.back m k) false⟩]) ∧
      (∀ h : Nat, s.fate m = .heir h → exec (.messageArrival id) s =
        .next (s.reflyFrom (s.member m.dgrp m.dvc).pcore id (.msg { (m.withStat 2) with dgrp := h, dvc := 0 } false))))) ∧
  (∀ (s : State) (h v d f : Nat) (m : Msg), ringDisp f = false → m.payload.length ≤ 224 → d + 64 ≤ 0x20000 →
    let core := (s.member h v).pcore
    let slot := slotAddr f (s.ringTail core d)
    (s.core core).log.on = false → slot + 256 ≤ 0x20000 → slot % 256 = 0 → (d + 64 ≤ slot ∨ slot + 256 ≤ d) →
    let t := s.deposit h v d f m
    t.ringTail core d = (s.ringTail core d + 1) % 2 ^ 32 ∧
      readBytes t.spad (spadKey core (slot + 32)) m.payload.length = m.payload ∧ t.full core slot = true)

/-- With a queue area: QREC reads a doubleword of the freeze record, QTHAW clears all four, and QFREEZE freezes a deque that is not frozen with cause 0xFF and wA as the entry. Without one they raise X_OPERAND. WFM returns the conditions of its mask that hold, and blocks while none does. -/
def Obligations.QueueControl : Prop :=
  ∀ (s : State) (a b c : BitVec 4) (imm : BitVec 6), s.calm = true →
    let area := qbaseAddr s.mem.qbase
    (qbaseEn s.mem.qbase = true → area + 2176 ≤ 0x20000 →
      exec (.qrec a b c imm) s =
        .next (s.setW a (toWord (s.rdS s.here (area + 32 + 8 * bitsOf imm.toNat 0 2) 8))).advance ∧
      (∃ t, exec (.qthaw a b c imm) s = .next t ∧ t.rdS s.here (area + 32) 32 = 0 ∧
        t.cx.pc = succPc s.cx.line s.cx.pc) ∧
      (bitAt (s.rdS s.here (area + 32) 8) 0 = false → s.mem.pcore = s.here →
        ∃ t, exec (.qfreeze a b c imm) s = .next t ∧ bitAt (t.rdS s.here (area + 32) 8) 0 = true ∧
          bitsOf (t.rdS s.here (area + 32) 8) 8 8 = 0xFF ∧ t.rdS s.here (area + 40) 8 = (s.w a).toNat ∧
          t.cx.pc = succPc s.cx.line s.cx.pc)) ∧
    (qbaseEn s.mem.qbase = false →
      exec (.qrec a b c imm) s = .next (s.takeTrap 0x04 (s.asWritten (encWord (.qrec a b c imm))) s.cx.pc) ∧
      exec (.qthaw a b c imm) s = .next (s.takeTrap 0x04 (s.asWritten (encWord (.qthaw a b c imm))) s.cx.pc) ∧
      exec (.qfreeze a b c imm) s = .next (s.takeTrap 0x04 (s.asWritten (encWord (.qfreeze a b c imm))) s.cx.pc)) ∧
    (let m := (s.w b).toNat % 2 ^ 19
     let h := Nat.land (s.wfmBits s.cur) m
     (h ≠ 0 → exec (.wfm a b c imm) s = .next (s.setW a (toWord h)).advance) ∧
     (h = 0 → exec (.wfm a b c imm) s = .next (s.block (.wfm m))))

/-! ## Barriers (19) -/

/-- BAR.arrive joins the open episode of its member's barrier, or the next one where that is full, and returns its number; with both full it blocks. BAR.wait of a released episode returns with the bereaved mark and clears BARW.PEND, and of another blocks; BAR.sync arrives, records itself in BARW and waits. DBAR.wait does as BAR.wait on a descriptor whose partners' entries it checks; DBAR.arrive registers its membership and opens its party's next episode, DBAR.sync does the same and waits; a party of one releases it at once. A neighbour's combined arrival and a release reach a member: the arrival is kept as the east or north input and passed on if the member's own condition holds; the release moves EPOCH, ARR, NXT and BRV and goes on. A token reaches its party, or goes on to its heir; one for another device leaves once its flit has gone out. -/
def Obligations.BarrierResult : Prop :=
  (∀ (s : State) (a b c : BitVec 4) (imm : BitVec 6) (g : Group), s.calm = true → s.grp s.cx.group = some g →
    let n := bitsOf imm.toNat 0 3
    let r := mgetD s.mem.bars n 0
    let done (brv : Bool) (e : Nat) (u : State) : State :=
      ((u.setCx (u.cx.setFld 0x0B8 63 1 0)).setW a (toWord ((if brv then 2 ^ 63 else 0) + e))).advance
    bEn r = true → bHas r (posOf g s.cx.vcore) = true →
      let e := (bEpoch r + 1) % 256
      let u := ((s.endFwd s.cur).progress s.cx.group).setBarFld s.cx.group s.cx.vcore n 40 4 (bArr r + 1)
      let v := u.tryPass s.cx.group s.cx.vcore n
      (bArr r < bCnt r + 1 → exec (.barArrive a b c imm) s = .next (v.setW a (toWord e)).advance) ∧
      (bArr r = bCnt r + 1 → bNxt r < bCnt r + 1 → exec (.barArrive a b c imm) s =
        .next ((((s.endFwd s.cur).progress s.cx.group).setBarFld s.cx.group s.cx.vcore n 44 4 (bNxt r + 1)).setW a
          (toWord ((bEpoch r + 2) % 256))).advance) ∧
      (bArr r = bCnt r + 1 → bNxt r = bCnt r + 1 → exec (.barArrive a b c imm) s = .next (s.block (.barFull n))) ∧
      (bArr r < bCnt r + 1 → s.cx.barwNames 0 n = false → ∃ t, exec (.barSync a b c imm) s = .next t ∧
        t.cx.waits = some (.bar n e) ∧ t.cx.barwNames 0 n = true) ∧
      (s.cx.barwNames 0 n = true → notYet (bEpoch r) (s.cx.fld 0x0B8 32 8) = false →
        exec (.barSync a b c imm) s = .next (done (bBrv r) (s.cx.fld 0x0B8 32 8) s)) ∧
      (notYet (bEpoch r) ((s.w a).toNat % 256) = false →
        exec (.barWait a b c imm) s = .next (done (bBrv r) ((s.w a).toNat % 256) s)) ∧
      (notYet (bEpoch r) ((s.w a).toNat % 256) = true →
        exec (.barWait a b c imm) s = .next (s.block (.bar n ((s.w a).toNat % 256))))) ∧
  (∀ (s u : State) (a b c : BitVec 4) (imm : BitVec 6) (ps : List Nat), s.calm = true →
    let done (brv : Bool) (e : Nat) (u : State) : State :=
      ((u.setCx (u.cx.setFld 0x0B8 63 1 0)).setW a (toWord ((if brv then 2 ^ 63 else 0) + e))).advance
    let d := (s.w b).toNat
    let w := s.rdS s.here d 8
    let x := u.rdS s.here (d + 16) 2
    let es := partnerElems (toWord (s.rdS s.here (d + 8) 8)) (bitsOf w 0 16) (bitsOf w 16 16)
    let me := u.named (.spad s.here d) (toWord d)
    d % 32 = 0 → d < 0x20000 → bitsOf w 34 30 = 0 → bitsOf w 16 16 < bitsOf w 0 16 → (∀ e ∈ es, e.va % 8 = 0) →
    s.readsAt es ps u → (∀ y ∈ ps, bitAt y 31 = false) →
    (notYet (x % 256) ((u.w a).toNat % 256) = false →
      exec (.dbarWait a b c imm) s = .next (done (bitAt x 8) ((u.w a).toNat % 256) me)) ∧
    (notYet (x % 256) ((u.w a).toNat % 256) = true →
      exec (.dbarWait a b c imm) s = .next (u.block (.dbar d ((u.w a).toNat % 256)))) ∧
    (u.cx.barwNames 1 d = true → notYet (x % 256) (u.cx.fld 0x0B8 32 8) = false →
      exec (.dbarSync a b c imm) s = .next (done (bitAt x 8) (u.cx.fld 0x0B8 32 8) me)) ∧
    (((u.party u.cx.group u.cx.vcore d).map (fun p => p.active)).getD false = false →
      let e := (u.rdS s.here (d + 16) 1 + 1) % 256
      let v := if u.isMember u.cx.group u.cx.vcore d then u
        else (u.register u.cx.group 1 0 (0, spadLoc u.cx.group u.cx.vcore d)).1
      let y := v.arrived.dArrive u.cx.group u.cx.vcore d (u.partyOf d e (ps.map rankEntry))
      let z := y.setCx (y.cx.setBarw 1 d e)
      exec (.dbarArrive a b c imm) s = .next ((y.setW a (toWord e)).named (.spad s.here d) (toWord d)).advance ∧
      (u.cx.barwNames 1 d = false → notYet (z.rdS s.here (d + 16) 2 % 256) e = true →
        exec (.dbarSync a b c imm) s = .next (z.block (.dbar d e)))) ∧
    (bitsOf w 0 16 = 1 → s.party s.cx.group s.cx.vcore d = none →
      ∃ t, exec (.dbarArrive a b c imm) s = .next t ∧ t.w a = toWord ((s.rdS s.here (d + 16) 1 + 1) % 256) ∧
        t.cx.pc = succPc s.cx.line s.cx.pc)) ∧
  (∀ (s : State) (id h b v : Nat) (brv north : Bool) (g : Group), s.grp h = some g →
    (s.flight id = some (.barHop h b v north brv) → exec (.barrierArrivalHop id) s =
      .next (((s.land id).updMember h v (fun m => if north
        then { m with northIn := m.northIn ++ [if brv then b + 8 else b] }
        else { m with eastIn := m.eastIn ++ [if brv then b + 8 else b] })).tryPass h v b)) ∧
    (s.flight id = some (.barRel h b v brv) → exec (.barrierReleaseHop id) s = .next ((s.land id).release g v b brv)) ∧
    (∀ (d k e : Nat), s.flight id = some (.dbarTok 0 h v d k e brv g.part) → s.partyHeir h v d = none →
      g.state = .running → (s.member h v).pst = 0 →
      exec (.dbarTokenArrival id) s = .next ((s.land id).takeToken h v d k e brv)) ∧
    (∀ (d k e x : Nat), s.flight id = some (.dbarTok 0 h v d k e brv g.part) → s.partyHeir h v d = some x →
      exec (.dbarTokenArrival id) s = .next (s.reflyFrom (s.member h v).pcore id (.dbarTok 0 x 0 d k e brv g.part))) ∧
    (∀ (dev d k e p : Nat), s.flight id = some (.dbarTok dev h v d k e brv p) → dev ≠ 0 →
      exec (.dbarTokenArrival id) s = .next (if s.unsent id then s else s.land id)))

/-! ## The copy stream (20) -/

/-- FORK with the sequencer idle starts a copy strand at wB with workspace wC and returns 0, and with it busy, or kept for a member that moves here (the model's choice: log entry 74), returns the busy code; RDV without a copy strand of its own returns the IDLE code, another's copy strand running or not (the model's reading: log entry 53), of one that has ended its result with the sequencer idle again, and blocks while it runs; RDV by the copy strand itself ends it with wA as its result. CPY and CPYT of a legal layout record queue the command it describes, to this device or through a valid handle, and go on; CEVQ returns the oldest record of the event queue, by the copy strand that of its holder, and moves its HEAD, and of an empty queue all ones and zero, or blocks. COPY_COMMAND_START takes the oldest command that has not started: one whose ranges overlap in a window ends with status 3, another goes out, seeks its places and moves what the engine reaches first. COPY_COMMAND_COMPLETE of a command of this device whose doublewords have all been moved has status 0 and the count of them as its outcome; one that has its outcome reports it to the issuer's event queue, and the command leaves its class. -/
def Obligations.CopyResult : Prop :=
  (∀ (s : State) (a b c : BitVec 4) (imm : BitVec 6), s.calm = true →
    let q := (s.core s.here).seq
    let wc := (s.w c).toNat
    (isCopy s.cur = true → ∃ t, exec (.rdv a b c imm) s = .next t ∧ (t.core s.here).seq.state = .ended ∧
      (t.core s.here).seq.result = s.w a) ∧
    (isCopy s.cur = false → wc % 128 = 0 → 128 ≤ wc → wc + 128 ≤ 0x20000 → inArea s.mem.qbase (wc - 64) 192 = none →
      touches [(wc - 64, 192)] ((s.cidsOn s.here).map (fun i => ((s.ctx i).wp - 64, 64 + (s.ctx i).foot))) = false →
      (q.state = .idle → s.seqReserved s.here = false → ∃ t, exec (.fork a b c imm) s = .next t ∧ t.w a = 0 ∧
        (t.core s.here).seq = ⟨.running, s.cur, wc, 0⟩ ∧ (t.ctx (copyBase + s.here)).pc = s.w b ∧
        (t.ctx (copyBase + s.here)).wp = wc ∧ (t.ctx (copyBase + s.here)).state = .running ∧
        t.cx.pc = succPc s.cx.line s.cx.pc) ∧
      ((q.state ≠ .idle ∨ s.seqReserved s.here = true) → exec (.fork a b c imm) s = .next (s.setW a 0x8000000000000001).advance)) ∧
    (isCopy s.cur = false → (q.state = .idle ∨ q.holder ≠ s.cur) → exec (.rdv a b c imm) s = .next (s.setW a 0x4000000000000000).advance) ∧
    (isCopy s.cur = false → q.state = .ended → q.holder = s.cur → ∃ t, exec (.rdv a b c imm) s = .next t ∧ t.w a = q.result ∧
      (t.core s.here).seq.state = .idle ∧ mget t.ctxs (copyBase + s.here) = none) ∧
    (isCopy s.cur = false → (q.state = .running ∨ q.state = .blocked) → q.holder = s.cur → exec (.rdv a b c imm) s = .next (s.block .rdv))) ∧
  (∀ (s u : State) (a b c : BitVec 4) (imm : BitVec 6) (tr : Bool) (r : List Nat), s.calm = true →
    (let addr := (s.w b).toNat
     let x := u.command tr ((s.w a).toNat % 2 ^ 32) r
     addr % 32 = 0 → s.readsDws addr 4 r u → x.illegal (r.getD 3 0) = false → x.crooked = none →
     (x.dev = 0 ∨ (u.handleOf x.dev).isSome = true) → u.classC u.cur < 16 →
     ∃ t, exec (if tr then .cpyt a b c imm else .cpy a b c imm) s = .next t ∧ (t.core s.here).copies = [x] ∧
       t.cx.pc = succPc s.cx.line s.cx.pc) ∧
    (odd a = false →
      let h := s.evqCid
      let q := s.ctx h
      (q.fld 0x081 32 16 ≠ q.fld 0x081 48 16 →
        exec (.cevq a b c imm) s = .next (((s.setCtx h (q.setFld 0x081 32 16 (q.fld 0x081 32 16 + 1))).setPair a
          (s.rdS s.here (evqAt (q.get 0x081) (q.fld 0x081 32 16)) 16)).advance)) ∧
      (q.fld 0x081 32 16 = q.fld 0x081 48 16 →
        (bitAt imm.toNat 0 = false → exec (.cevq a b c imm) s = .next (s.setPair a (2 ^ 64 - 1)).advance) ∧
        (bitAt imm.toNat 0 = true → exec (.cevq a b c imm) s = .next (s.block .cevq))))) ∧
  (∀ (s t : State) (core : Nat) (c : Copy),
    (pick (fun x => !x.started && x.outcome.isNone) (s.core core).copies = some c →
      let d := { c with started := true, left := upTo c.count, due := s.cycles + c.due }
      (upTo c.count).any (fun i => (c.accs i).any (fun a => s.sideOf c a.2.2 == .here &&
        s.engAt { c with left := upTo c.count, due := s.cycles + c.due } a.1 a.2.1 a.2.2 == .wait)) = false →
      (c.overlaps = true → exec (.copyCommandStart core) s =
        .next (s.setCopy core { d with left := [], walk := [], outcome := some (3, c.dst.toNat) })) ∧
      (c.overlaps = false →
        let x := (s.engOut d).engSeek d
        let y := x.1.engMove x.2 (Config.copyWrote c.id)
        exec (.copyCommandStart core) s = .next (y.1.setCopy core y.2))) ∧
    (∀ o : Nat × Nat, pick (fun x => x.id == c.id) (s.core core).copies = some c → c.outcome = some o →
      s.report core c o = some t →
      exec (.copyCommandComplete core c.id) s = .next (t.endCopy core c) ∧
      (t.endCopy core c).core core = { t.core core with copies := (t.core core).copies.filter (fun x => x.id != c.id) }) ∧
    (pick (fun x => x.id == c.id) (s.core core).copies = some c → c.outcome = none → c.started = true → c.left = [] →
      s.sideOf c .load = .here → s.sideOf c .store = .here →
      let d := { c with walk := [], xl := c.xl.eraseDups, outcome := some (0, c.count) }
      s.report core d (0, c.count) = some t →
      exec (.copyCommandComplete core c.id) s = .next (t.endCopy core d)))

/-! ## Vector instructions (07) -/

/-- Each vector instruction that computes leaves the state that its rule gives, every active lane, mask bit or register written at once, and goes on to its successor. In a context without the vector extension every instruction of majors 0x30 to 0x39 raises X_NO_VECTOR and writes nothing. What of the scans, of VEXP2 and of VLOG2 the spec leaves open is the model's: log entries 17, 116, 129 and 130. -/
def Obligations.VectorResult : Prop :=
  (∀ (s t : State) (i : Instr), s.calm = true → s.cx.vx = true → vecOf s i = some t → exec i s = .next t.advance) ∧
  (∀ (s : State) (i : Instr) (h t : Nat), encode i = some (h, t) → 0x30 ≤ bitsOf h 2 6 → bitsOf h 2 6 ≤ 0x39 →
    s.cx.vx = false → exec i s = .next (s.takeTrap 0x05 (s.asWritten (encWord i)) s.cx.pc))

/-- Writing lanes: an active lane holds the low 32 bits of its value, an inactive one what it held, and no byte outside the register changes. -/
def Obligations.VectorLanes : Prop :=
  ∀ (s : State) (k : BitVec 3) (vd : BitVec 5) (f : Nat → Nat × Nat) (j : Nat), j < 16 → s.cx.wp + 2192 ≤ 0x20000 →
    let t := s.setLanes k vd f
    (t.v vd.toNat).getD j 0 = (if s.active k j then (f j).1 % 2 ^ 32 else s.lane vd j) ∧
      (∀ core off, off < 131072 → ¬ span s.here (s.cx.vOff vd.toNat) 64 core off →
        byteAt t.spad (spadKey core off) = byteAt s.spad (spadKey core off)) ∧
      t.tags = s.tags ∧ t.hbm = s.hbm ∧ t.reqs = s.reqs

/-- A vector load or store whose active lanes are aligned and whose checks pass performs one element for each active lane, or two bytes of a mask, and goes on; a misaligned active lane raises X_MISALIGN with its address. VSTK stores the mask register that VA[2:0] names (the model's reading: log entry 35). -/
def Obligations.VectorMemory : Prop :=
  ∀ (s : State) (i : Instr) (n : Nat) (es : List Elem), s.calm = true → s.cx.vx = true → vmemOf s i = some (n, es) →
    (∀ as : List At, (∀ e ∈ es, e.va % n = 0) → s.locateAll 2 es = .ok as → s.dataBad (es.zip as) true = none →
      s.classFull (es.zip as) = false →
      exec i s = .next ((s.commit 2 false false (es.zip as)).advance)) ∧
    (∀ e : Elem, pick (fun e => e.va % n != 0) es = some e → exec i s = .next (s.takeTrap 0x06 (toWord e.va) s.cx.pc))

/-- REP of a legal body begins its run at the pass and instruction that wC names, the PC staying at REP; a body with a word that may not stand in it raises X_ILLEGAL_OP with the first such word, and one that is no instruction at all does not stop REP itself; after the last body instruction of the last pass, with no write of the strand on its way to wC, wC is 0 and the PC is the body's successor. -/
def Obligations.RepRuns : Prop :=
  ∀ (s u : State) (a b c : BitVec 4) (imm : BitVec 22) (l : Line) (ps : List (Nat × Nat × Word)) (succ : Word) (r : RepRun),
    let bs := ps.map (fun x => (x.1, x.2.1))
    (s.calm = true → s.cx.vx = true → s.cx.line = some l →
      s.gather (succPc (some l) s.cx.pc) l [] (bitsOf imm.toNat 6 4 + 1) = .ok ps succ u →
      bitsOf (s.w c).toNat 10 54 = 0 → bitsOf (s.w c).toNat 0 6 ≤ bitsOf imm.toNat 0 6 →
      bitsOf (s.w c).toNat 6 4 ≤ bitsOf imm.toNat 6 4 →
      (bs.all (fun x => !notInBody x.1) = true → (bs.filter (fun x => isPair x.1 x.2)).all (fun x =>
          !(scalarDst x.1 x.2).contains c.toNat &&
          (upTo (bitsOf imm.toNat 0 6 + 1)).all (fun q => staggerFits x.1 x.2 (q * bitsOf imm.toNat 10 3))) = true →
        exec (.rep a b c imm) s = .next (u.setCx { u.cx with
          rep := some ⟨c.toNat, bitsOf imm.toNat 10 3, bitsOf imm.toNat 0 6, bs, ps.map (fun x => x.2.2), succ,
            bitsOf (s.w c).toNat 0 6, bitsOf (s.w c).toNat 6 4, u.cx.fld 0x035 0 6⟩
          walkFault := [] })) ∧
      (∀ x : Nat × Nat, pick (fun x => notInBody x.1) bs = some x →
        exec (.rep a b c imm) s = .next (s.takeTrap 0x02 (pairWord x) s.cx.pc))) ∧
    (s.cx.rep = some r → r.body.length ≤ r.i + 1 → r.count ≤ r.p →
      touches [(s.cx.wOff r.wc, 8)] (s.onTheWay s.cur s.here) = false →
      s.advance.cx.rep = none ∧ s.advance.cx.pc = r.succ ∧ s.advance.rdS s.here (s.cx.wOff r.wc) 8 = 0)

/-! ## The matrix unit (10) -/

/-- Under the tile's owner with room in the queue: MZERO and MLDA queue their operation (that MZERO counts in the M class is the model's reading: log entry 108) and end the tile's poisoning, MLDA with the memory's cells widened exactly; MSTA and MSTM queue a store; MMA and its kin queue a product with the format codes, sources, scales and kept groups they sample; MDRAIN goes on once none of its tiles has an operation in the unit. The unit takes the oldest queued operation: a zero clears the tile's cells, a load puts its cells there, and a product adds to every cell what the kept source elements then hold, or poisons the tile with the address of an uncorrectable error among them. A store it takes holds its bytes and the count of its saturations. An operation completes: a store's bytes are in memory, the words of a bound ring's descriptor that are the hardware's apart (log entry 114), its saturations counted, up to 0xFFFFFFFF, and it leaves the M class. -/
def Obligations.TileResult : Prop :=
  (∀ (s : State) (a b : BitVec 4) (vd va vb : BitVec 5) (k : BitVec 3) (md : BitVec 8), s.calm = true → s.cx.vx = true →
    ownsTile s.cx vd = true →
    let addr := (s.w a).toNat
    let ld := 256 * tySize (md.toNat % 16)
    let st := 256 * tySize (md.toNat / 16)
    let af := s.cx.fld 0x030 0 4
    let bf := s.cx.fld 0x030 4 4
    exec (.mzero a b vd va vb k md) s = .next ((s.unpoison vd.toNat).queueOp vd.toNat .zero).advance ∧
    (addr % 64 = 0 → addr + ld ≤ 131072 → exec (.mlda a b vd va vb k md) s = .next ((s.unpoison vd.toNat).queueOp vd.toNat
      (.load ((upTo 256).map (fun n => widen (md.toNat % 16) (s.rdS s.here (addr + n * tySize (md.toNat % 16))
        (tySize (md.toNat % 16))))))).advance) ∧
    ((s.tile s.here vd.toNat).pois = none → addr % 64 = 0 → addr + st ≤ 131072 → inArea s.mem.qbase addr st = none →
      (∃ t o, exec (.msta a b vd va vb k md) s = .next t ∧ (t.core s.here).mq = [o] ∧
        o.work = .store (md.toNat % 16) (md.toNat / 16) addr none ∧ t.cx.pc = succPc s.cx.line s.cx.pc) ∧
      ((s.w b).toNat % 32 = 0 → (s.w b).toNat + 32 ≤ 131072 → inArea s.mem.qbase (s.w b).toNat 32 = none →
        ∃ t o, exec (.mstm a b vd va vb k md) s = .next t ∧ (t.core s.here).mq = [o] ∧
          o.work = .store (md.toNat % 16) (md.toNat / 16) addr (some (s.w b).toNat) ∧ t.cx.pc = succPc s.cx.line s.cx.pc)) ∧
    ((∀ t, t < 4 → (s.tile s.here t).pois = none) → exec (.mdrain a b vd va vb k md) s = .next s.advance) ∧
    ((s.tile s.here vd.toNat).pois = none → af = 5 → bf = 5 → misgroup va 4 = false → misgroup vb 4 = false →
      s.cx.fld 0x031 0 17 % 16 = 0 → s.cx.fld 0x032 0 17 % 16 = 0 →
      let sc (n : Nat) : List Nat := (upTo 16).map (fun j => s.rdS s.here (s.cx.fld n 0 17 + j) 1)
      exec (.mma a b vd va vb k md) s = .next ((s.setCx ((s.cx.advScale 0x031).advScale 0x032)).queueOp vd.toNat
        (.mma af bf [] (some (s.cx.vOff va.toNat)) (s.cx.vOff vb.toNat) [true, true, true, true] (sc 0x031) (sc 0x032))).advance) ∧
    ((s.tile s.here vd.toNat).pois = none → mfmtOk af bf = true → af ≠ 5 → misgroup va 4 = false → misgroup vb 4 = false →
      exec (.mma a b vd va vb k md) s = .next ((s.setCx s.cx).queueOp vd.toNat (.mma af bf [] (some (s.cx.vOff va.toNat))
        (s.cx.vOff vb.toNat) [true, true, true, true] [] [])).advance ∧
      (let sk := s.skip4 (s.cx.get 0x034).toNat
       let d := s.unfoldAt (s.cx.fld 0x033 0 17)
       (s.cx.fld 0x034 0 17 % 2 = 0 → exec (.mmas a b vd va vb k md) s =
         .next ((s.setCx (s.cx.set 0x034 (toWord sk.reg))).queueOp vd.toNat (.mma af bf [] (some (s.cx.vOff va.toNat))
           (s.cx.vOff vb.toNat) sk.keep [] [])).advance) ∧
       (s.cx.fld 0x033 0 17 % 32 = 0 → d.ok = true →
         (s.unfoldBad d (mWidth af / 8) (s.cx.fld 0x033 32 32) (128 / mWidth af) [true, true, true, true] = none →
           ∃ t o, exec (.mmau a b vd va vb k md) s = .next t ∧ (t.core s.here).mq = [o] ∧
             o.work = .mma af bf (s.unfolded d (mWidth af / 8) (s.cx.fld 0x033 32 32) (128 / mWidth af)
               [true, true, true, true]) none (s.cx.vOff vb.toNat) [true, true, true, true] [] [] ∧
             t.cx.pc = succPc s.cx.line s.cx.pc) ∧
         (s.cx.fld 0x034 0 17 % 2 = 0 →
           s.unfoldBad d (mWidth af / 8) (s.cx.fld 0x033 32 32) (128 / mWidth af) sk.keep = none →
           ∃ t o, exec (.mmaus a b vd va vb k md) s = .next t ∧ (t.core s.here).mq = [o] ∧
             o.work = .mma af bf (s.unfolded d (mWidth af / 8) (s.cx.fld 0x033 32 32) (128 / mWidth af) sk.keep) none
               (s.cx.vOff vb.toNat) sk.keep [] [] ∧ t.cx.pc = succPc s.cx.line s.cx.pc))))) ∧
  (∀ (s : State) (core : Nat) (o : TileOp),
    (s.nextOp core = some o → (s.core core).mq = [o] →
      (o.work = .zero → ∃ t, exec (.tileOpTaken core) s = .next t ∧ (∀ n, (t.tile core o.tile).cell n = 0) ∧
        (t.core core).mq = [{ o with taken := true }]) ∧
      (∀ cells, o.work = .load cells → cells.length = 256 → ∃ t, exec (.tileOpTaken core) s = .next t ∧
        (∀ n, n < 256 → (t.tile core o.tile).cell n = cells.getD n 0) ∧
        (t.core core).mq = [{ o with taken := true, work := .zero }]) ∧
      (∀ ty d addr mask rs all n, o.work = .store ty d addr mask →
        storeWork (rmOf o.rm) ty d addr mask (s.tile core o.tile) = .put rs all n →
        ∃ t left, exec (.tileOpTaken core) s = .next t ∧ (∀ x ∈ left, x ∈ all) ∧
          (t.core core).mq = [{ o with taken := true, work := .put rs left n }]) ∧
      (∀ af bf a ra rb keep sa sb, o.work = .mma af bf a ra rb keep sa sb → s.badSpad = [] →
        ∃ t, exec (.tileOpTaken core) s = .next t ∧ (t.tile core o.tile).cells = s.mmaRun core o af bf a ra rb keep sa sb) ∧
      (∀ af bf a ra rb keep sa sb addr, o.work = .mma af bf a ra rb keep sa sb →
        ((keptParts keep (ra.toList ++ [rb])).filterMap (fun p => s.badS core p.1 p.2)).head? = some addr →
        ∃ t, exec (.tileOpTaken core) s = .next t ∧ (t.tile core o.tile).pois = some addr ∧ (t.core core).mq = [] ∧
          (t.tile core o.tile).cells = (s.tile core o.tile).cells)) ∧
    ((s.core core).mq = [o] → o.taken = true → ∃ t, exec (.tileOpComplete core o.id) s = .next t ∧
      (t.core core).mq = [] ∧
      (∀ rs addr bs n, o.work = .put rs [(addr, bs)] n → bs ≠ [] →
        (∀ j, j < bs.length → s.ringHw core (addr + j) = false) →
        readBytes t.spad (spadKey core addr) bs.length = bs) ∧
      (∀ rs left n, o.work = .put rs left n →
        (n ≠ 0 → mgetD (t.core (coreOfCid o.cid)).satcnt o.sat 0 =
          min (mgetD (s.core (coreOfCid o.cid)).satcnt o.sat 0 + n) 0xFFFFFFFF) ∧
        (n = 0 → (t.core (coreOfCid o.cid)).satcnt = (s.core (coreOfCid o.cid)).satcnt))))

/-! ## System instructions (11, 28, 29) -/

/-- TRAP completes, where the handler can be entered, and takes the trap 0x40 + n with wA as TVAL and the successor as TPC; BREAK takes X_BREAK at its own PC; HALT stops the context at its successor and records it with the supervisor; TIME returns device time, cycles run or instructions completed; CAPR an entry of the capability list. -/
def Obligations.SystemResult : Prop :=
  ∀ (s : State) (a b c : BitVec 4) (imm : BitVec 6), s.calm = true →
    (s.trapWait = none →
      exec (.trap a b c imm) s = .next (s.advance.takeTrap (0x40 + imm.toNat) (s.w a) s.advance.cx.pc)) ∧
    exec (.break a b c imm) s = .next (s.takeTrap 0x0A (toWord imm.toNat) s.cx.pc) ∧
    (isCopy s.cur = false → ∃ t, exec (.halt a b c imm) s = .next t ∧ t.cx.state = .stopped none false ∧
      t.cx.pc = succPc s.cx.line s.cx.pc ∧
      ∀ p : Part, mget s.parts (s.partOf s.cx.group) = some p → ∃ q, mget t.parts (s.partOf s.cx.group) = some q ∧
        q.queue = p.queue ++ [⟨0x0D, 0, s.cx.pc, []⟩]) ∧
    (imm = 0 → exec (.time a b c imm) s = .next (s.setW a (toWord s.time)).advance) ∧
    (imm = 1 → exec (.time a b c imm) s = .next (s.setW a (toWord s.cx.runCycles)).advance) ∧
    (imm = 2 → exec (.time a b c imm) s = .next (s.setW a (toWord s.cx.instrs)).advance) ∧
    exec (.capr a b c imm) s = .next (s.setW a (toWord (capEntry (s.w b).toNat))).advance

/-- TRET at depth 1 or more with legal TST and TWP, nothing on its way to the header it reads, returns: the PC is TPC, WP is TWP, ST takes TST with DEPTH one less and VX kept, and TPC, CAUSE, TVAL, TST, TWP and TVEC come back from the header of the workspace returned to. TRET at depth 0, or with a must-be-zero bit of TST set, raises X_BAD_RETURN, and in user mode with TST.SUP set X_PRIVILEGE. -/
def Obligations.TrapReturn : Prop :=
  (∀ (s : State) (a b c : BitVec 4) (imm : BitVec 6),
    let tst := (s.cx.get 0x004).toNat
    let w := (s.cx.get 0x006).toNat
    let hd (j : Nat) : Word := toWord (s.rdS s.here (w - 64 + 8 * j) 8)
    s.cx.depth ≠ 0 → bitsOf tst 16 48 = 0 → bitsOf tst 6 6 = 0 → bitAt tst 4 = false →
    (s.cx.sup = true ∨ bitAt tst 2 = false) → s.footOk w = true →
    touches [(w - 64, 64)] (s.onTheWay s.cur s.here ++ s.dstBytes s.cur ++ s.tileRanges s.cur) = false →
    ∃ t, exec (.tret a b c imm) s = .next t ∧ t.cx.pc = s.cx.get 0x001 ∧ t.cx.wp = w ∧ t.cx.line = none ∧
      t.cx.depth = s.cx.depth - 1 ∧ t.cx.vx = s.cx.vx ∧ t.cx.sup = bitAt tst 2 ∧ t.cx.bte = bitAt tst 5 ∧
      t.cx.rm = rmOf tst ∧ t.cx.get 0x001 = hd 2 ∧ t.cx.get 0x002 = hd 3 &&& 0xFF ∧ t.cx.get 0x003 = hd 4 ∧
      t.cx.get 0x004 = hd 5 ∧ t.cx.get 0x006 = hd 6 ∧ t.cx.get 0x005 = hd 7 ∧ t.spad = s.spad ∧ t.tags = s.tags) ∧
  (∀ (s : State) (a b c : BitVec 4) (imm : BitVec 6),
    let tst := (s.cx.get 0x004).toNat
    (s.cx.depth = 0 → exec (.tret a b c imm) s = .next (s.takeTrap 0x09 0 s.cx.pc)) ∧
    (s.cx.depth ≠ 0 → (bitsOf tst 16 48 ≠ 0 ∨ bitsOf tst 6 6 ≠ 0 ∨ bitAt tst 4 = true) →
      exec (.tret a b c imm) s = .next (s.takeTrap 0x09 (s.cx.get 0x004) s.cx.pc)) ∧
    (s.cx.depth ≠ 0 → bitsOf tst 16 48 = 0 → bitsOf tst 6 6 = 0 → bitAt tst 4 = false → s.cx.sup = false →
      bitAt tst 2 = true → exec (.tret a b c imm) s = .next (s.takeTrap 0x03 (s.cx.get 0x004) s.cx.pc)))

/-- A pending saturation trap is taken before a pending bereavement trap, one at a time, at a boundary where the handler can be entered. What a blocked context waits for wakes it once it has come, and a wake makes it READY, from the wait table, after 4,096 cycles from the long-wait list or from a parked CPOP, and it keeps its PC. -/
def Obligations.DeferredAndWake : Prop :=
  ∀ (s : State) (cid n : Nat) (a : Word) (w : Wait), (mget s.ctxs cid).isSome = true →
    let c := s.ctx cid
    let u := s.asCid cid
    (c.state = .running → c.call = none → c.pendLoad = [] → c.walk = [] → u.trapWait = none →
      (∀ (o : Option Nat) (r : List (Nat × Option Nat)), c.pendSat = (n, o) :: r →
        (∀ x, o = some x → c.tileWait.contains x = false) → exec (.deferredTrap cid) s =
        .next { (u.setCx { c with pendSat := r }).takeTrap 0x18 (toWord n) c.pc with cur := s.cur }) ∧
      (c.pendSat = [] → c.pendBrv = some a → exec (.deferredTrap cid) s =
        .next { (u.setCx { c with pendBrv := none }).takeTrap 0x14 a c.pc with cur := s.cur })) ∧
    (c.state = .blocked w → isCopy cid = false → (s.core (coreOfCid cid)).log.on = false →
      (c.parkLong = false → c.woken = false → s.waitOver cid w = true → (s.latch.ctx cid).woken = true) ∧
      (c.parkLong = false → c.woken = true → ∃ t, exec (.wakeArrival cid) s = .next t ∧
        (t.ctx cid).state = .ready ∧ (t.ctx cid).pc = c.pc) ∧
      (c.parkLong = true → c.parkRun < 4096 → exec (.longWaitExpiry cid) s = .next s) ∧
      (c.parkLong = true → 4096 ≤ c.parkRun → ∃ t, exec (.longWaitExpiry cid) s = .next t ∧
        (t.ctx cid).state = .ready ∧ (t.ctx cid).pc = c.pc) ∧
      (∀ nost, w = .cpop nost → 4096 ≤ c.parkRun → ∃ t, exec (.cpopParkExpiry cid) s = .next t ∧ (t.ctx cid).state = .ready ∧
        (t.ctx cid).pc = c.pc))

/-! ## Synapse rows and learning (12) -/

/-- TICK adds its immediate to TCLK and returns the sum. RFADE of a row that passes its checks catches the row up and fades it to TCLK, and RWGT does so and returns the synapse that wC names. RINIT of a legal size and exponent writes the header, with TCLK and the current sequence number, and clears every trace. FSTEP of a row apart from its post entries stamps the row with TCLK and the sequence number; where no broadcast is missing, it adds to each entry's accumulator the synapse's weight times x, rounded once. -/
def Obligations.RowResult : Prop :=
  ∀ (s : State) (a b c : BitVec 4) (imm : BitVec 6), s.calm = true →
    let row := (s.w b).toNat
    let r := s.rowAt s.here row
    let tclk := s.cx.fld 0x040 0 32
    let seq := s.cx.fld 0x044 0 8
    (let t := toWord ((tclk + imm.toNat) % 2 ^ 32)
     exec (.tick a b c imm) s = .next ((s.setCx (s.cx.set 0x040 t)).setW a t).advance) ∧
    (s.rowBad row false 0 = none → exec (.rfade a b c imm) s = .next (s.fadeRow s.here s.cx r).advance) ∧
    (s.rowBad row false (s.w c).toNat = none →
      let u := s.fadeRow s.here s.cx r
      exec (.rwgt a b c imm) s = .next (u.setW a (toWord (u.rdS u.here (r.syn (s.w c).toNat) 8))).advance) ∧
    (let v := (s.w a).toNat
     let n := bitsOf v 0 16
     let et := sint 8 (bitsOf v 16 8)
     row % 16 = 0 → row + 16 + 8 * n ≤ 0x20000 → inArea s.mem.qbase row (16 + 8 * n) = none → n ≠ 0 → -64 ≤ et → et ≤ 63 →
     ∃ t, exec (.rinit a b c imm) s = .next t ∧ t.rowAt s.here row = ⟨row, tclk, et, seq, n, bitsOf v 32 32, false, false⟩ ∧
       (∀ j, j < n → t.rdS s.here (row + 16 + 8 * j) 3 = 0 ∧
         t.rdS s.here (row + 19 + 8 * j) 5 = s.rdS s.here (row + 19 + 8 * j) 5) ∧
       t.cx.pc = succPc s.cx.line s.cx.pc) ∧
    (let p := s.cx.fld 0x041 0 17 + 8 * r.post
     s.cx.fld 0x047 0 1 = 0 → s.rowBad row true 0 = none → (p + 8 * r.n ≤ row ∨ row + r.size ≤ p) →
     ∃ t, exec (.fstep a b c imm) s = .next t ∧ (t.rowAt s.here row).stamp = tclk ∧ (t.rowAt s.here row).applied = seq ∧
       (r.missing s.cx = 0 → ∀ j, j < r.n → t.rdS s.here (p + 8 * j) 4 =
         (roundF f32 .rne (fmaVals .rne (mkNan s.here j) (decodeF f32 (s.rdS s.here (r.syn j + 4) 4))
           (decodeF f32 (bitsOf (s.w a).toNat 0 32)) (decodeF f32 (s.rdS s.here (p + 8 * j) 4)))) % 2 ^ 32) ∧
       t.cx.pc = succPc s.cx.line s.cx.pc)

/-- In a context with a learning group: BCAST sends its word to the root and goes on, or where the handle names no group, here or by a multicast tree, returns bit 63; BACC in manual mode takes the oldest pending broadcast and returns 1, and with none pending returns 0; BWAIT goes on once every held broadcast has retired; BSEQ returns BSEQ. Without one BSEQ returns 0 and the others raise X_OPERAND. The steps of a learning group. The root with an open window assigns the next number and answers with it, and with a closed one answers with a refusal (what members at other devices have retired is a free value, log entry 10). An answer writes wA. A member receives the broadcast that is due, into its pending ones. A context at rest accepts all that is pending. A sweep without held broadcasts does nothing; one over an empty directory retires the held broadcasts in sequence order up to the first that an FSTEP to resume counts (that order the model's choice: log entry 127). A retirement report raises what the member has retired. -/
def Obligations.LearningResult : Prop :=
  (∀ (s : State) (a b c : BitVec 4) (imm : BitVec 6), s.calm = true →
    let lg := (s.cx.get 0x043).toNat
    (lg ≠ 0 →
      (s.lgroup lg = none → mget s.mtrees lg = none → exec (.bcast a b c imm) s = .next (s.setW a (toWord (2 ^ 63))).advance) ∧
      (∀ g, s.lgroup lg = some g → exec (.bcast a b c imm) s =
        .next ((s.fly (.bcastReq lg s.cur (s.cx.wOff a.toNat) (bitsOf (s.w b).toNat 0 32))).progress s.cx.group).advance) ∧
      (s.cx.fld 0x045 0 1 = 1 → s.cx.pend ≠ [] →
        exec (.bacc a b c imm) s = .next ((s.setCx s.cx.acceptOne).setW a 1).advance) ∧
      ((s.cx.fld 0x045 0 1 = 0 ∨ s.cx.pend = []) → exec (.bacc a b c imm) s = .next (s.setW a 0).advance) ∧
      (s.cx.fld 0x044 16 3 = 0 → exec (.bwait a b c imm) s = .next s.advance) ∧
      exec (.bseq a b c imm) s = .next (s.setW a (s.cx.get 0x044)).advance) ∧
    (lg = 0 → exec (.bseq a b c imm) s = .next (s.setW a 0).advance ∧
      exec (.bcast a b c imm) s = .next (s.takeTrap 0x04 (s.asWritten (encWord (.bcast a b c imm))) s.cx.pc) ∧
      exec (.bacc a b c imm) s = .next (s.takeTrap 0x04 (s.asWritten (encWord (.bacc a b c imm))) s.cx.pc) ∧
      exec (.bwait a b c imm) s = .next (s.takeTrap 0x04 (s.asWritten (encWord (.bwait a b c imm))) s.cx.pc))) ∧
  (∀ (s : State) (id cid : Nat),
    (∀ (lg dst r : Nat) (g : LearnGroup), s.flight id = some (.bcastReq lg cid dst r) → s.lgroup lg = some g →
      s.liveMember g.group g.root = true → id < s.uid →
      (s.windowOpen g = true → s.farWindow lg = true → ∃ t, exec (.bcastRequestArrival id) s = .next t ∧
        (pick (fun f => f.id == id) t.flights).map (fun f => f.cargo) = some (.bcastAns cid dst (some (g.next % 2 ^ 32))) ∧
        mget t.learn (lg % 4096) = some { g with next := g.next + 1 }) ∧
      (s.windowOpen g = false → exec (.bcastRequestArrival id) s =
        .next { s.reflyFrom ((s.rootCore lg).getD 6144) id (.bcastAns cid dst none) with uid := s.uid + 1 })) ∧
    (∀ (dst n : Nat), s.flight id = some (.bcastAns cid dst (some n)) → cid ≠ noCid → cid ≠ farCid → n < 2 ^ 32 → dst + 8 ≤ 0x20000 →
      (s.core (coreOfCid cid)).log.on = false →
      ∃ t, exec (.bcastAnswerArrival id) s = .next t ∧ t.flight id = none ∧ t.rdS (coreOfCid cid) dst 8 = n) ∧
    (∀ (lg h v num r : Nat) (g : Group), s.flight id = some (.bcast lg h v num r) → s.grp h = some g → g.state ≠ .saved →
      s.liveMember h v = true → (s.member h v).retired ≠ leftWindow → s.lgCid lg h v = some cid →
      (s.core (coreOfCid cid)).log.on = false →
      let c := s.ctx cid
      num % 256 = (c.fld 0x044 0 8 + c.pend.length + 1) % 256 → c.pend.length + c.held.length < 4 →
      ∃ t, exec (.broadcastReceive id) s = .next t ∧ t.flight id = none ∧
        (t.ctx cid).pend = c.pend ++ [⟨num, r, 0, false⟩] ∧ (t.ctx cid).fld 0x044 8 3 = c.pend.length + 1) ∧
    ((mget s.ctxs cid).isSome = true → (s.ctx cid).accepts = true → (s.ctx cid).state ≠ .running →
      exec (.broadcastAccept cid) s = .next (s.setCtx cid (s.ctx cid).acceptAll)) ∧
    ((s.ctx cid).held = [] → exec (.sweepWalk cid) s = .next s) ∧
    ((s.ctx cid).held ≠ [] → (s.ctx cid).held.length < 8 → (s.ctx cid).fld 0x042 32 16 = 0 →
      (s.lgroup ((s.ctx cid).get 0x043).toNat).isSome = true →
      let x := retiring (fun b => (s.ctx cid).fld 0x047 0 1 == 1 && b.cu) (s.ctx cid).held
      ∃ t, exec (.sweepWalk cid) s = .next t ∧ (t.ctx cid).held = x.2 ∧ (t.ctx cid).fld 0x044 16 3 = x.2.length ∧
        t.flights.length = s.flights.length + x.1.length) ∧
    (∀ (lg v num : Nat) (g : LearnGroup), s.flight id = some (.retire lg v num) → s.lgroup lg = some g →
      exec (.retirementReportArrival id) s =
        .next ((s.land id).updMember g.group v (fun m => { m with retired := max m.retired num }))))

/-! ## The memory system's steps (06, 08, 09) -/

/-- A walk that has its turn ends for the context that waits for it: it leaves the translation at hand, or the fault with the strand, and no trace in memory (that A and D are set only at the use is the model's reading: log entry 28). The withy token goes to the next writer. A request that is ripe and met by its place is performed there, and one that its place refuses fails. One that waited at its NI sets out to its member, and one that meets a vacated place goes on to the new one. Once its answer has come back, an answered request's batch leaves its class once all are answered; a failed load is a trap pending, of cause X_REMOTE with its address but for a lane whose doubleword is in error, a failed store a remote failure. A landing writes its results to their registers. -/
def Obligations.MemorySteps : Prop :=
  ∀ (s : State) (id : Nat),
    (∀ r : Req, pick (fun r => r.id == id) s.reqs = some r →
      (s.walkTurn r = false → exec (.pageWalkComplete id) s = .next s) ∧
      (s.walkTurn r = true → s.walkSleeps r = false → s.cores.all (fun k => k.2.copies.isEmpty) = true →
        ∀ (cid va : Nat) (acc : Acc) (c : Ctx), s.ctxs = [(cid, c)] → c.group = r.group →
        clusterOf (coreOfCid cid) = clusterOf r.core → c.walk = [(va, acc)] → va / 4096 * 4096 = r.va.toNat →
        ∃ t, exec (.pageWalkComplete id) s = .next t ∧ t.req id = none ∧ (t.ctx cid).walk = [] ∧ t.hbm = s.hbm ∧
          (∀ pa size perm leaf d, s.walk c.group va acc c.sup = .ok pa size perm d leaf →
            t.xlate (coreOfCid cid) c.group va acc c.sup = .hit (pa + va % size)) ∧
          (∀ k, s.walk c.group va acc c.sup = .fault k → (t.ctx cid).walkFault = c.walkFault ++ [(va, acc, k)]))) ∧
    (∀ (plane chan w : Nat), nextWriter (mgetD s.withy (withyKey plane chan) 0) (s.writers plane chan) = some w →
      ∃ t, exec (.withyPass plane chan) s = .next t ∧ mget t.withy (withyKey plane chan) = some w) ∧
    (∀ r : Req, s.req id = some r → s.ripe r = true →
      (s.serve r = .here → exec (.requestPerform id) s =
        .next (if r.redir then (s.perform r).endMemberFwd else s.perform r)) ∧
      (s.serve r = .fail → exec (.requestPerform id) s = .next ((s.noteEcc r).setReq { r with phase := .failed }))) ∧
    (∀ (r : Req) (v core : Nat), s.req id = some r → r.unperformed = true → r.isWalk = false → r.ni = true → r.vc = some v →
      s.placeOf r.core r.group v = (0, core) → ∃ t q, exec (.requestRedirect id) s = .next t ∧ t.req id = some q ∧
        q.ni = false ∧ q.chan = clusterOf core ∧ q.op = r.op) ∧
    (∀ (r : Req) (core off : Nat), s.req id = some r → r.unperformed = true → r.isWalk = false → r.ni = false →
      (r.sent || !r.crosses) = true → s.first r = true → s.linkFirst r = true → s.serve r = .onward core off → ∃ t q, exec (.requestRedirect id) s = .next t ∧ t.req id = some q ∧
        q.loc = .spad core off ∧ q.op = r.op ∧ q.size = r.size) ∧
    (∀ r : Req, s.reqs = [r] → r.id = id → (r.crosses = true → r.back = true) →
      (r.phase = .performed → (s.core r.core).log.on = false →
        ∃ t, exec (.responseArrival id) s = .next t ∧ t.reqs = [] ∧
          t.landings = s.landings ++ (if r.dsize = 0 then []
            else [⟨s.uid, r.cid, r.core, [(r.dst, r.dsize, extendTo r.sx r.size r.dsize r.val)]⟩])) ∧
      (r.phase = .failed → (mget s.ctxs r.cid).isSome = true →
        ∃ t, exec (.responseArrival id) s = .next t ∧ t.reqs = [] ∧ t.landings = s.landings ∧
          (r.reads = true → (t.ctx r.cid).pendLoad = (s.ctx r.cid).pendLoad ++
            [((s.failCause r).1, (s.failCause r).2, r.tpc)]) ∧
          (r.reads = true → r.ofVec = false → s.failCause r = (0x23, r.va.toNat)) ∧
          (r.reads = false → (t.ctx r.cid).failures = (s.ctx r.cid).failures ++ [r.va]))) ∧
    (∀ l : Landing, pick (fun x => x.id == id) s.landings = some l → exec (.resultLands id) s =
      .next (({ s with landings := s.landings.filter (fun x => x.id != id) }).landAll l.core l.writes))

/-! ## Kernels and conveyance (14, 21) -/

/-- LAUNCH of a header that passes the checks of R271 creates a group in SUBMITTED, child of the caller's, and returns its handle; one that fails returns bit 63 with the code. EXIT of a strand with nothing outstanding ends its context and, after the last one, its group. KILL ends its own group, a descendant or, as supervisor, one of the partition; it returns bit 63 for a stale handle and raises X_ACCESS for any other. GSTAT returns state, end cause and the number of strands not exited, or bit 63. CONVEY passes the holding, named by an address or by a handle, to its heir; without a holding, of a stage or to an heir that cannot take it, it raises X_OPERAND. A holding named by a handle, and an heir whose share is full, are the model's choices: log entries 113 and 112. -/
def Obligations.GroupResult : Prop :=
  ∀ (s : State) (a b c : BitVec 4) (imm : BitVec 6), s.calm = true →
    let own := s.cx.group
    let h := (s.w b).toNat % 2 ^ 32
    (∀ (d : List Nat) (u : State), (s.w b).toNat % 64 = 0 → s.readsDws (s.w b).toNat 16 d u →
      let k := u.launchCode d (u.partOf own) u.cx.sup (some own)
      (k = 0 → ∃ t g, exec (.launch a b c imm) s = .next t ∧ t.w a = toWord u.newHandle ∧ t.grp u.newHandle = some g ∧
        g.state = .submitted ∧ g.parent = own ∧ g.part = s.partOf own ∧ t.cx.pc = succPc s.cx.line s.cx.pc) ∧
      (k ≠ 0 → exec (.launch a b c imm) s = .next ((u.progress own).setW a (toWord (2 ^ 63 + k))).advance)) ∧
    exec (.exit a b c imm) s =
      .next (((s.progress own).endCtx s.cur).afterExit own s.cx.vcore (s.cx.get 0x013).toNat) ∧
    (s.grp h = none → exec (.kill a b c imm) s = .next (s.setW a (toWord (2 ^ 63))).advance ∧
      exec (.gstat a b c imm) s = .next (s.setW a (toWord (2 ^ 63))).advance) ∧
    (∀ g, s.grp h = some g →
      exec (.gstat a b c imm) s =
        .next (s.setW a (toWord (gstateCode g.state * 2 ^ 48 + g.cause * 2 ^ 40 + s.liveStrands g))).advance ∧
      (h = own → exec (.kill a b c imm) s = .next (s.endGroup h 2)) ∧
      (h ≠ own → (s.descends h own 4096 = true ∨ (s.cx.sup = true ∧ g.part = s.partOf own)) →
        exec (.kill a b c imm) s = .next ((s.endGroup h 2).setW a 0).advance) ∧
      (h ≠ own → s.descends h own 4096 = false → (s.cx.sup = false ∨ g.part ≠ s.partOf own) →
        exec (.kill a b c imm) s = .next (s.takeTrap 0x08 (s.w b) s.cx.pc))) ∧
    (∀ i e, s.handleEntry (s.w b) = some (i, e) →
      (e.kind ≠ 5 → s.canConvey e.heir (s.partOf own) = true →
        exec (.convey a b c imm) s = .next (((s.endFwd s.cur).namedEntry e).convey i e false).advance) ∧
      ((e.kind = 5 ∨ s.canConvey e.heir (s.partOf own) = false) →
        exec (.convey a b c imm) s = .next (s.takeTrap 0x04 (s.asWritten (encWord (.convey a b c imm))) s.cx.pc))) ∧
    (∀ (l : Loc) (u : State), s.handleEntry (s.w b) = none → s.wordAt 2 8 false false false (s.w b).toNat l u →
      (∀ i e, u.entryAt l = some (i, e) → e.kind ≠ 5 → u.canConvey e.heir (u.partOf own) = true →
        exec (.convey a b c imm) s = .next (((u.endFwd u.cur).named l (s.w b)).convey i e false).advance) ∧
      (u.entryAt l = none →
        exec (.convey a b c imm) s = .next (u.takeTrap 0x04 (u.asWritten (encWord (.convey a b c imm))) u.cx.pc)))

/-- A SUBMITTED group that no earlier one precedes and a free rectangle can take is placed there and RUNNING, its members on the rectangle's cores in the order of VCORE. The walk of an EXITING group at the head of the queue begins once the group is quiet; it treats the next holding, an heir that can take it taking it with the former holder and the mark, and ends where none is left. A group whose watchdog a comparison has found at its bound ends with cause 3; otherwise nothing happens. A running group that ends is EXITING with its end cause. -/
def Obligations.GroupSteps : Prop :=
  ∀ (s : State) (h : Nat) (g : Group), s.grp h = some g →
    (∀ o : Nat, s.boot = .up → g.state = .submitted → g.hdr.dlen = 0 → s.findOrigin g = some o →
      s.groups.any (fun x => x.2.part == g.part && x.2.state == .submitted && decide (x.2.seq < g.seq)) = false →
      ∃ t q, exec (.groupPlacement h) s = .next t ∧ t.grp h = some q ∧ q.state = .running ∧
        q.members.map (fun m => (m.pst, m.pcore)) = (g.hdr.coresAt o).map (fun c => (0, c))) ∧
    (s.walkQueue.head? = some h → g.state = .exiting → g.walkKind = 0 → s.quiet g = true →
      exec (.estateWalkStart h) s = .next (s.setGrp { g with walkKind := 1 })) ∧
    (s.walkQueue.head? = some h → g.walkKind ≠ 0 →
      (∀ i e, nextHolding (s.holdings h) = some (i, e) → s.walkWaits e (s.canConvey e.heir g.part) = false →
        ∃ t, exec .estateWalkHolding s = .next t ∧
          (e.kind ≠ 5 → s.canConvey e.heir g.part = true → ∃ q, mget t.estate i = some q ∧ q.holder = e.heir ∧ q.heir = 0 ∧
            q.former = e.holder ∧ q.brv = true ∧ q.kind = e.kind ∧ q.loc = e.loc)) ∧
      (nextHolding (s.holdings h) = none → (s.awaiting g).all (fun r => s.canDeliver r) = true →
        exec .estateWalkHolding s = .next (s.walkEnd g))) ∧
    (g.hdr.wdog ≠ 0 → g.state = .running →
      (g.wdDue = false → exec (.watchdogCheck h) s = .next s) ∧
      (g.wdDue = true → exec (.watchdogCheck h) s = .next
        (((s.endGroup h 3).supRec g.part ⟨0x31, toWord h, 0, [h]⟩).bbox 7 0 g.part 0 h h))) ∧
    (g.state = .running → ∀ cause : Nat, ∃ q, (s.endGroup h cause).grp h = some q ∧ q.state = .exiting ∧ q.cause = cause)

/-! ## Links (24) -/

/-- LDD of a checked address sends its request and blocks; selected again with an answer it returns the value, with a timeout it raises X_LINK_TIMEOUT, with a failure X_REMOTE. STD and FILLD of a checked address send theirs and go on. A handle that is not valid raises X_ACCESS with its number, and an unaligned address X_MISALIGN. -/
def Obligations.RemoteResult : Prop :=
  ∀ (s : State) (a b c : BitVec 4) (imm : BitVec 6), s.calm = true →
    let own := s.cx.group
    let h := bitsOf (s.w c).toNat 0 16
    let va := s.w b
    let n := if bitAt imm.toNat 3 then 4 else 8
    let clear := s.setCx { s.cx with lddRes := none }
    let checked (size : Nat) : Prop := bitsOf (s.w c).toNat 16 48 = 0 ∧ (h = 0 ∨ (s.handleOf h).isSome = true) ∧
      va.toNat % size = 0 ∧ va.toNat < 2 ^ 48
    (∀ x, s.cx.lddRes = some (0, x) → exec (.ldd a b c imm) s = .next (clear.setW a (toWord x)).advance) ∧
    (∀ x, s.cx.lddRes = some (1, x) → s.trapWait = none → exec (.ldd a b c imm) s = .next (clear.takeTrap 0x22 (toWord x) s.cx.pc)) ∧
    (∀ x, s.cx.lddRes = some (2, x) → s.trapWait = none → exec (.ldd a b c imm) s = .next (clear.takeTrap 0x23 (toWord x) s.cx.pc)) ∧
    (checked n →
      (s.cx.lddRes = none → exec (.ldd a b c imm) s =
        .next ((s.flyRemote h [0, h, va.toNat, n] (.ldd s.cur h own s.cx.sup va n s.remoteDue none)).block (.ldd s.uid))) ∧
      (let v := (s.w a).toNat % 256 ^ n
       exec (.std a b c imm) s =
         .next ((s.flyRemote h [1, h, va.toNat, n, v]
           (.std s.cur h own s.cx.sup va n v false s.remoteDue none)).progress own).advance)) ∧
    (checked 8 → isWin (rngOf va.toNat) = true →
      let v := (s.w a).toNat
      exec (.filld a b c imm) s =
        .next (((s.endFwd s.cur).flyRemote h [2, h, va.toNat, 8, v]
          (.std s.cur h own s.cx.sup va 8 v true s.remoteDue none)).progress own).advance) ∧
    (bitsOf (s.w c).toNat 16 48 = 0 → h ≠ 0 → s.handleOf h = none →
      exec (.filld a b c imm) s = .next (s.takeTrap 0x08 (toWord h) s.cx.pc) ∧
      exec (.std a b c imm) s = .next (s.takeTrap 0x08 (toWord h) s.cx.pc) ∧
      (s.cx.lddRes = none → exec (.ldd a b c imm) s = .next (s.takeTrap 0x08 (toWord h) s.cx.pc))) ∧
    (bitsOf (s.w c).toNat 16 48 = 0 → (h = 0 ∨ (s.handleOf h).isSome = true) →
      (va.toNat % 8 ≠ 0 → exec (.filld a b c imm) s = .next (s.takeTrap 0x06 va s.cx.pc)) ∧
      (va.toNat % n ≠ 0 → exec (.std a b c imm) s = .next (s.takeTrap 0x06 va s.cx.pc) ∧
        (s.cx.lddRes = none → exec (.ldd a b c imm) s = .next (s.takeTrap 0x06 va s.cx.pc))))

/-- The outcomes of remote accesses. One of this device is performed at its place, once it has gone out and the strand's earlier accesses to the place are performed, and the answer recorded: a load's value; a store leaves its bytes, but in the hardware's words of a bound ring's descriptor (log entry 114), and sets the word's tag full (of an access of this device the model's reading: log entry 111, as are supervisor rights with handle 0 only: log entry 94); a fill of a full or bereaved word fails. An answer reaches its context, which becomes READY; past its time an LDD times out and a store is a remote failure pending. Another device's access is performed here and leaves. The oldest multicast item of a tree leaves on the tree's links, where no source of this device holds it back. -/
def Obligations.RemoteSteps : Prop :=
  ∀ (s : State) (id cid h g : Nat) (sup : Bool) (va : Word) (n due : Nat),
    (∀ l : Loc, s.flight id = some (.ldd cid h g sup va n due none) → n ≠ 0 → s.unsent id = false →
      (s.handleTarget (s.partOf g) g h).1 = s.devNum → s.linkRipe id cid = true →
      let tg := (s.handleTarget (s.partOf g) g h).2
      let u := s.remoteMark (s.partOf g) tg (sup && h == 0) va.toNat .load
      s.wrongKey (s.partOf g) tg = false → s.farLoc (s.partOf g) tg (sup && h == 0) va.toNat n .load = .to l →
      s.awake l = true → u.badAt l n = false → ∃ t, exec (.remoteAccessPerform id) s = .next t ∧
        t.flight id = some (.ldd cid h g sup va n due (some (some (u.rd l n))))) ∧
    (∀ (core off v : Nat) (fill : Bool), s.flight id = some (.std cid h g sup va n v fill due none) → n ≠ 0 →
      s.unsent id = false → (s.handleTarget (s.partOf g) g h).1 = s.devNum → s.linkRipe id cid = true →
      let tg := (s.handleTarget (s.partOf g) g h).2
      s.wrongKey (s.partOf g) tg = false → rngOf va.toNat ≠ .user →
      s.farLoc (s.partOf g) tg (sup && h == 0) va.toNat n .store = .to (.spad core off) →
      s.areaAt core off n = false → s.badS core off n = none → (∀ j, j < n → s.ringHw core (off + j) = false) →
      ((fill = false ∨ (s.full core off = false ∧ s.bereavedAt core off = false)) → (s.core core).log.on = false →
        v < 256 ^ n → ∃ t, exec (.remoteAccessPerform id) s = .next t ∧ t.rdS core off n = v ∧
          t.full core (off / 8 * 8) = true ∧ t.flight id = some (.std cid h g sup va n v fill due (some true))) ∧
      (fill = true → (s.full core off = true ∨ s.bereavedAt core off = true) →
        exec (.remoteAccessPerform id) s = .next (s.refly id (.std cid h g sup va n v fill due (some false))))) ∧
    (s.flight id = some (.ldd cid h g sup va n due none) → s.unsent id = true →
      exec (.remoteAccessPerform id) s = .next s) ∧
    (∀ (v : Nat) (w : Wait), s.flight id = some (.ldd cid h g sup va n due (some (some v))) →
      (mget s.ctxs cid).isSome = true → (s.ctx cid).state = .blocked w → isCopy cid = false →
      (s.core (coreOfCid cid)).log.on = false → s.cycles < due →
      ∃ t, exec (.lddAnswer id) s = .next t ∧ t.flight id = none ∧ (t.ctx cid).lddRes = some (0, v) ∧
        (t.ctx cid).state = .ready) ∧
    (∀ (r : Option (Option Nat)), s.flight id = some (.ldd cid h g sup va n due r) →
      (s.cycles < due → exec (.lddTimeout id) s = .next s) ∧
      (due ≤ s.cycles → exec (.lddTimeout id) s = .next ((s.land id).lddEnd cid (1, h)))) ∧
    (∀ (v : Nat) (fill : Bool) (r : Option Bool), s.flight id = some (.std cid h g sup va n v fill due r) →
      (s.cycles < due → exec (.remoteStoreTimeout id) s = .next s) ∧
      (due ≤ s.cycles → (mget s.ctxs cid).isSome = true → ∃ t, exec (.remoteStoreTimeout id) s = .next t ∧
        t.flight id = none ∧ (t.ctx cid).failures = (s.ctx cid).failures ++ [va])) ∧
    (∀ (part op v : Nat), s.flight id = some (.remote part g op n va v) → s.wrongKey part g = false → 0 < op →
      s.farLoc part g false va.toNat n .store ≠ .wait →
      (∀ l, s.farLoc part g false va.toNat n .store = .to l → s.awake l = true) →
      ∃ t, exec (.remoteAccessPerform id) s = .next t ∧ t.flight id = none) ∧
    (∀ (tree : Nat) (data : List Nat), s.flight id = some (.mcast tree data) →
      (pick (fun f => match f.cargo with
        | .mcast x _ => x == tree
        | _ => false) s.flights).map (fun f => f.id) = some id → s.treeOpen tree = true →
      exec (.multicastForward id) s = .next ((upTo 128).foldl (fun u l =>
        if bitAt (mgetD s.mtrees tree 0) l then u.sendFlits l id (6 :: tree :: data) else u) ((s.land id).mcastHere tree data)))

/-- LNKCTL PARK, LIGHT and RETRAIN of a supervisor whose partition has a grant for the link act on one wavelength, or on those of its hank that are in the state for it (log entry 87), or refuse with code 2 one that is in another state; without a grant or in user mode they raise X_PRIVILEGE. LNKSTAT returns retrainings and states, an inbound wavelength's errors, and the flits sent and received, as the policy shows counts. What happens to a wavelength and to flits. A WAKING one is LIT when it locks and retrains when it does not in time; a RETRAINING one is LIT when training passes and FAILED when it does not in time; a lit or parked one that loses its light is FAILED; the end of a window of 2^24 beats clears its error count. A data flit that passes is accepted if it is the next in SEQ order, and another is not; an acknowledgement takes what it covers from the replay buffer; a NACK changes nothing in it and sends again that flit and every later one, on the mask in force; these come in only on an inbound mask that is not empty (log entry 89); a width message gives the receiver its mask, a joining wavelength is LIT, a leaving one is not, and a parked or failed one stays. -/
def Obligations.LinkControl : Prop :=
  (∀ (s : State) (a b c : BitVec 4) (imm : BitVec 6), s.calm = true →
    let w := (s.w b).toNat
    let l := bitsOf w 0 7
    let i := bitsOf w 8 3
    let part := s.partOf s.cx.group
    let st := (s.link l).st i
    let ok (t : State) (z : Wl) : Prop := (t.link l).st i = z ∧ t.w a = 0 ∧ t.cx.pc = succPc s.cx.line s.cx.pc
    let no : State := (s.setW a (toWord (2 ^ 63 + 2))).advance
    ((s.cx.sup = false ∨ s.granted part l = false) →
      exec (.lnkctlPark a b c) s = .next (s.takeTrap 0x03 (s.w b) s.cx.pc) ∧
      exec (.lnkctlLight a b c) s = .next (s.takeTrap 0x03 (s.w b) s.cx.pc) ∧
      exec (.lnkctlRetrain a b c) s = .next (s.takeTrap 0x03 (s.w b) s.cx.pc)) ∧
    (s.cx.sup = true → s.granted part l = true → bitAt w 7 = false → bitsOf w 11 4 = 0 → bitsOf w 16 48 = 0 →
      (st = .lit → ∃ t, exec (.lnkctlPark a b c) s = .next t ∧ ok t .parked) ∧
      (st = .parked → ∃ t, exec (.lnkctlLight a b c) s = .next t ∧ ok t .waking) ∧
      (st = .lit → ∃ t, exec (.lnkctlRetrain a b c) s = .next t ∧ ok t .retraining) ∧
      (bitAt w 15 = false → st ≠ .lit → exec (.lnkctlPark a b c) s = .next no ∧
        exec (.lnkctlRetrain a b c) s = .next no) ∧
      (bitAt w 15 = false → st ≠ .parked → exec (.lnkctlLight a b c) s = .next no)) ∧
    (bitAt w 7 = false → bitsOf w 11 53 = 0 →
      let x := s.link l
      let give (v : Nat) : State := (s.setW a (toWord v)).advance
      (bitsOf imm.toNat 0 2 = 0 → 2 ≤ s.gran part 0 →
        exec (.lnkstat a b c imm) s = .next (give (s.shown part x.rcnt * 2 ^ 56 + x.states))) ∧
      (bitsOf imm.toNat 0 2 = 1 → exec (.lnkstat a b c imm) s = .next (give (s.shown part (mgetD x.errs (8 + i) 0)))) ∧
      (bitsOf imm.toNat 0 2 = 2 → exec (.lnkstat a b c imm) s = .next (give (s.shown part x.flitsOut))) ∧
      (bitsOf imm.toNat 0 2 = 3 → exec (.lnkstat a b c imm) s = .next (give (s.shown part x.flitsIn))))) ∧
  (∀ (s : State) (l i : Nat), l < 128 → i < 16 →
    let st := (s.link l).st i
    let goes (e : Instr) (z : Wl) : Prop := ∃ t, exec e s = .next t ∧ (t.link l).st i = z
    (st = .waking → goes (.lockReached l i) .lit ∧ goes (.wakeTimeout l i) .retraining) ∧
    (st = .retraining → goes (.trainingPass l i) .lit ∧ goes (.retrainTimeout l i) .failed) ∧
    ((st = .lit ∨ st = .parked) → goes (.lossOfLight l i) .failed) ∧
    (2 ^ 24 ≤ mgetD (s.link l).beats i 0 → ∃ t, exec (.errorWindowEnd l i) s = .next t ∧ mgetD (t.link l).errs i 0 = 0) ∧
    (mgetD (s.link l).beats i 0 < 2 ^ 24 → exec (.errorWindowEnd l i) s = .next s) ∧
    ((s.link l).maskIn ≠ [] →
    (∀ q ok bad,
      (q = (s.link l).seqIn → ok = true → bitsOf bad 0 8 = 0 → ∃ t, exec (.dataFlitReceive l q ok bad) s = .next t ∧
        (t.link l).seqIn = (q + 1) % 2 ^ 32 ∧ (t.link l).flitsIn = ((s.link l).flitsIn + 1) % 2 ^ 64) ∧
      ((q ≠ (s.link l).seqIn ∨ ok = false ∨ bitsOf bad 0 8 ≠ 0) → ∃ t, exec (.dataFlitReceive l q ok bad) s = .next t ∧
        (t.link l).seqIn = (s.link l).seqIn ∧ (t.link l).flitsIn = (s.link l).flitsIn ∧ t.flights = s.flights)) ∧
    (∀ q f r, fromSeq q (s.link l).replay = f :: r → (s.link l).waiting = [] →
      ∃ t, exec (.ackReceive l q) s = .next t ∧ (t.link l).replay = r) ∧
    (∀ q, (s.link l).waiting = [] → ∃ t, exec (.nackReceive l q) s = .next t ∧ (t.link l).replay = (s.link l).replay ∧
      ((t.link l).width ≠ 0 → ∃ k, (t.link l).out.drop k =
        (fromSeq q (s.link l).replay).map (fun f => ⟨(t.link l).lit false, f.beats⟩))) ∧
    (∀ m k, k < 8 → ∃ t, exec (.widthControlReceive l m) s = .next t ∧
      (t.link l).maskIn = (upTo 8).filter (fun i => bitAt m i) ∧
      (let w := (s.link l).st (8 + k)
       (bitAt m k = true → (w = .waking ∨ w = .retraining ∨ w = .lit) → (t.link l).st (8 + k) = .lit) ∧
       (bitAt m k = false → w = .lit → (t.link l).st (8 + k) ≠ .lit) ∧
       ((w = .parked ∨ w = .failed) → (t.link l).st (8 + k) = w)))))

/-! ## Reductions and pipelines (24, 25) -/

/-- RNEW of a valid descriptor and slot table opens a reduction and returns its handle. REDX of a member whose slot it is, into an open reduction of this device, accepts the contribution with the data read from SRC and returns 0; a stale handle gets code 1, a closed reduction 2, another's slot 3, a second contribution 4, and a DST in the queue area raises X_ACCESS. RFREE abandons an open reduction, frees one that is done or abandoned, and returns code 1 for a stale handle; bits above the handle's raise X_OPERAND, and for a handle of another device the strand holds until that device answers. A contribution that the owner refuses changes nothing there, and its sender has the code; one that is not the last is merged; the last one completes the reduction; one that comes after the abandonment changes nothing, its record having been written then (this, and that completion and abandonment wait for every contributor, is the model's reading: log entry 91). Its timeout and a failed device abandon it; that another device has failed is the environment's to say, log entry 10. -/
def Obligations.ReductionResult : Prop :=
  ∀ (s : State) (a b c : BitVec 4) (imm : BitVec 6), s.calm = true →
    let own := s.cx.group
    let w := (s.w b).toNat
    let code (k : Nat) : State := (s.setW a (toWord (2 ^ 63 + k))).advance
    (∀ (u₁ u₂ : State) (d t : List Nat) (i : Nat), w % 64 = 0 → plainAddr w → s.readsDws w 8 d u₁ → badDesc d = false → d.getD 2 0 % 8 = 0 →
      rngOf (d.getD 2 0) = .user → u₁.readsDws (d.getD 2 0) (bitsOf (d.getD 0 0) 16 12) t u₂ →
      t.any (fun x => bitAt x 31) = false → pick (fun i => (mget u₂.reductions i).isNone) (upTo 1024) = some i →
      ∃ u h r, exec (.lnkctlRnew a b c) s = .next u ∧ u.w a = toWord h ∧ u.reduction h = some r ∧ r.state = .opened ∧
        r.desc = d ∧ r.slots = t.map slotEntry ∧ r.merged = [] ∧ r.part = s.partOf own ∧ r.group = own ∧
        r.ran = 0 ∧ u.cx.pc = succPc s.cx.line s.cx.pc) ∧
    (let h := s.rdS s.here w 8
     let src := bitsOf (s.rdS s.here (w + 8) 8) 0 17
     let dst := bitsOf (s.rdS s.here (w + 8) 8) 32 17
     let slot := bitsOf (s.rdS s.here (w + 16) 8) 0 12
     w % 32 = 0 → w < 0x20000 → bitsOf (s.rdS s.here (w + 16) 8) 12 52 = 0 → src % 8 = 0 → dst % 8 = 0 →
     (2 ^ 50 ≤ h ∨ h / 2 ^ 32 = s.devNum) →
     (s.reduction h = none → inArea s.mem.qbase dst 0 = none → exec (.redx a b c imm) s = .next (code 1)) ∧
     (∀ r, s.reduction h = some r → src + r.count * opBytes r.op ≤ 0x20000 → dst + r.count * opBytes r.op ≤ 0x20000 →
       (∀ x, inArea s.mem.qbase dst (r.count * opBytes r.op) = some x →
         exec (.redx a b c imm) s = .next (s.takeTrap 0x08 (toWord x) s.cx.pc)) ∧
       (inArea s.mem.qbase dst (r.count * opBytes r.op) = none → r.part = s.partOf own →
         (r.state ≠ .opened → exec (.redx a b c imm) s = .next (code 2)) ∧
         (r.state = .opened → r.slots[slot]? ≠ some (own, s.devNum, s.cx.vcore) → exec (.redx a b c imm) s = .next (code 3)) ∧
         (r.state = .opened → r.slots[slot]? = some (own, s.devNum, s.cx.vcore) →
           ((mget r.merged slot).isSome = true → exec (.redx a b c imm) s = .next (code 4)) ∧
           ((mget r.merged slot).isNone = true → exec (.redx a b c imm) s = .next ((s.contribute h slot
             { data := (upTo r.count).map (fun i => s.rdS s.here (src + opBytes r.op * i) (opBytes r.op)), group := own,
               vc := s.cx.vcore, dst := dst, tag := bitsOf (s.rdS s.here (w + 24) 8) 0 32, cid := s.cur, accepted := false,
               part := s.partOf own, dev := s.devNum }).setW a 0).advance))))) ∧
    (2 ^ 50 ≤ w → exec (.lnkctlRfree a b c) s = operandTrapOf s (encS 0x3E 3 a b c 1)) ∧
    (w < 2 ^ 50 → w / 2 ^ 32 = s.devNum →
      (s.reduction w = none → exec (.lnkctlRfree a b c) s = .next (code 1)) ∧
      (∀ r, s.reduction w = some r →
        (r.part ≠ s.partOf own → exec (.lnkctlRfree a b c) s = .next (code 1)) ∧
        (r.part = s.partOf own →
          let u := s.noteBrv (some (2, w)) (toWord w)
          (r.state = .opened → u.canDeliver r = true →
            exec (.lnkctlRfree a b c) s = .next ((u.abandon r).setW a 0).advance) ∧
          (r.state ≠ .opened → exec (.lnkctlRfree a b c) s = .next ((u.freeReduction r).setW a 0).advance)))) ∧
    (w < 2 ^ 50 → w / 2 ^ 32 ≠ s.devNum → s.cx.call = none → ∃ t, exec (.lnkctlRfree a b c) s = .next t ∧ t.cx.pc = s.cx.pc ∧
      t.cx.call = some ⟨s.uid, [(0, none)], false, 0⟩) ∧
    (∀ (u : State) (id h slot : Nat) (k : Contrib), u.flight id = some (.contrib h slot k) → h / 2 ^ 32 = u.devNum →
      (u.redxCode h slot id k ≠ 0 →
        exec (.reductionContribution id) u = .next ((u.land id).redAnswer k (u.redxCode h slot id k))) ∧
      (∀ r, u.reduction h = some r →
        (r.state ≠ .opened → k.cid ≠ farCid → exec (.reductionContribution id) u = .next (u.land id)) ∧
        (u.redxCode h slot id k = 0 →
          let q := { r with merged := mput r.merged slot { k with data := k.data.take r.count } }
          (q.merged.length < r.n →
            exec (.reductionContribution id) u = .next (((u.land id).redAnswer k 0).setReduction q)) ∧
          (r.n ≤ q.merged.length → u.canDeliver q = true →
            exec (.reductionContribution id) u = .next (((u.land id).redAnswer k 0).finishReduction q))))) ∧
    (∀ (h : Nat) (r : Reduction), s.reduction h = some r →
      (r.state = .opened → r.merged ≠ [] → r.rtmo ≠ 0 → r.rtmo ≤ r.ran → s.canDeliver r = true →
        exec (.reductionTimeout h) s = .next (s.abandon r)) ∧
      (r.state = .opened → s.deviceFailed r = true → s.canDeliver r = true →
        exec (.reductionTimeout h) s = .next (s.abandon r)) ∧
      ((r.rtmo = 0 ∨ r.ran < r.rtmo ∨ r.merged = []) → s.deviceFailed r = false →
        (r.state = .opened → exec (.reductionTimeout h) s = .next (s.passFar r)) ∧
        (r.state ≠ .opened → exec (.reductionTimeout h) s = .next s)))

/-- PBIND of a legal descriptor attaches a pipeline of the caller's group and returns its handle and join number. PUNBIND of an own pipeline unbinds it and returns 0, and of a stale handle returns code 1. PSTAT returns what its selector names, of a stale handle bit 63 under selector 0, as the policy shows it. A relay's item that every successor takes leaves the relay, its ring's HEAD moving by one; a source's item that every first stage takes moves the number of its next item, one that some have not taken is kept for them with those that have, and none comes in while the source's port is DOWN or an item is kept. -/
def Obligations.PipelineResult : Prop :=
  ∀ (s : State) (a b c : BitVec 4) (imm : BitVec 6), s.calm = true →
    let own := s.cx.group
    let w := (s.w b).toNat
    (∀ (u₁ u : State) (d recs : List Nat),
      let n := bitsOf (d.getD 0 0) 0 4
      w % 64 = 0 → plainAddr w → s.readsDws w 8 d u₁ → 1 ≤ n → n ≤ 8 → u₁.readsDws (w + 64) (8 * n) recs u →
      badHead d = false → (bitsOf (d.getD 0 0) 4 2 = 1 ∨ bitsOf (d.getD 0 0) 4 2 = 2) →
      bitsOf (d.getD 2 0) 0 13 < u.nMembers own →
      ((upTo n).map (fun i => (⟨(recs.drop (8 * i)).take 8, [], 0, [], false, [], []⟩ : Stage))).any (fun x => u.badStage own x) = false →
      (pick (fun i => (mget u.pipelines i).isNone) (upTo 1024)).isSome = true →
      ((mget u.parts (u.partOf own)).map (fun x => (mget x.streams (d.getD 1 0)).isSome)) = some true →
      (s.holdings own).length + n ≤ 65536 → s.estate.length + n ≤ 1048576 →
      ∃ t p, exec (.pbind a b c imm) s = .next t ∧ t.pipe p.handle = some p ∧ p.group = own ∧ p.stages.length = n ∧
        t.w a = toWord (p.handle * 2 ^ 32 + p.join % 2 ^ 32) ∧ t.cx.pc = succPc s.cx.line s.cx.pc) ∧
    (s.pipe (w % 2 ^ 32) = none →
      exec (.punbind a b c imm) s = .next (s.setW a (toWord (2 ^ 63 + 1))).advance ∧
      (let seen := s.gran (s.partOf own) 0
       exec (.pstat a b c imm) s = .next (s.setW a (toWord (if bitsOf imm.toNat 0 2 ≠ 0 ∨ seen = 0 then 0 else
         if seen = 1 then 1 else 2 ^ 63))).advance)) ∧
    (∀ p, s.pipe (w % 2 ^ 32) = some p → p.group = own →
      exec (.punbind a b c imm) s = .next ((s.unbind p).setW a 0).advance ∧
      exec (.pstat a b c imm) s = .next (s.setW a (toWord (s.pstat p (bitsOf imm.toNat 0 2)))).advance) ∧
    (∀ (u t : State) (h i d f : Nat) (p : Pipeline) (got there : List (Nat × Nat × Nat)), u.pipe h = some p →
      let g := p.stage i
      let m := u.member p.group g.vc
      let x := u.ringHead m.pcore d
      m.ring g.outRing = some (d, f) → g.attached ≠ [] → g.ended = false → m.pst = 0 → u.bound m g.outRing = true →
      u.ringCount m.pcore d ≠ 0 → g.sent = [] → g.inWait = [] → g.outWait = [] → (u.grp p.group).any ended = false →
      u.handAll (fun r => (u.slotAt m.pcore f x 0 0 0).copyTo h i r) (u.successors g i) = (t, got, there) →
      (u.successors g i).all (fun r => got.contains r) = true →
      ∃ v, exec (.relayForward h i) u = .next v ∧ v.ringHead m.pcore d = (t.ringHead m.pcore d + 1) % 2 ^ 32) ∧
    (∀ (u t : State) (h : Nat) (item : List Byte) (p : Pipeline) (got there : List (Nat × Nat × Nat)), u.pipe h = some p →
      u.handAll (fun r => slotMsg r.1 r.2.1 r.2.2 (dwOf item 0) (dwOf item 1) (dwOf item 2) (dwOf item 3)
        ((item.drop 32).take 224)) (u.firstStages p) = (t, got, there) →
      let all := (u.firstStages p).all (fun r => got.contains r)
      ((u.sourceUp p = false ∨ p.srcWait ≠ none) → exec (.sourceItem h item) u = .next u) ∧
      (u.sourceUp p = true → p.srcWait = none →
        exec (.sourceItem h item) u = .next ((u.sharers p).foldl (fun v q => v.updPipe q.handle (fun x =>
          { x with
            srcWait := if all then none else some (item, got)
            srcNext := if all then (x.srcNext + 1) % 2 ^ 32 else x.srcNext })) t))) ∧
    (∀ (u : State) (h i : Nat) (p : Pipeline) (x : List Byte × List (Nat × Nat × Nat)), u.pipe h = some p →
      p.stages.length ≤ i → p.srcWait = some x → exec (.relayForward h i) u = .next (u.sourceForward p x.1 x.2))

/-! ## Members that move (15, 05) -/

/-- MIGRATE to the own member returns 0 and goes on; to a placed one with a free slot the strand leaves; to one that is MOVING it raises X_STALE_PLACE, to one where no slot is free it returns code 3 (log entry 75), to a page on a die without a member code 2, to a VCORE the group does not have it raises X_ACCESS, and of a strand in a handler, with learning, rows or tiles of its own, X_OPERAND. An arrival of a living group installs the footprint and a READY context, a STOPPED one on a stopped core or where its MIGRATE was a step. A placement update brings the home's entry to a core's copy and is acknowledged (log entry 95), and the acknowledgement ends the forwarding entries whose change is complete. SAVE of a running group is noted (log entries 73, 74 and 80 for the host's statuses), and once it heads the group's commands and its one placed member is ready the group is SAVED; a group that does not run refuses SAVE and MOVE. MOVE to a rectangle of the partition is noted; a member that is not at its target becomes MOVING once its target can take it, a ready one is installed there and exits if its strands have ended, and the move ends once every member stands at its place. RESUME of a saved group on a rectangle with room makes it RUNNING. -/
def Obligations.MoveResult : Prop :=
  (∀ (s : State) (a b c : BitVec 4) (imm : BitVec 6), s.calm = true →
    ((s.cx.depth ≠ 0 ∨ s.cx.get 0x043 ≠ 0 ∨ s.cx.fld 0x042 32 16 ≠ 0 ∨ s.cx.fld 0x038 0 4 ≠ 0) →
      exec (.migrate a b c imm) s = operandTrapOf s (encS 0x3F 6 a b c imm)) ∧
    (s.cx.depth = 0 → s.cx.get 0x043 = 0 → s.cx.fld 0x042 32 16 = 0 → s.cx.fld 0x038 0 4 = 0 →
    ((∃ off, rngOf (s.w b).toNat = .loc off) → exec (.migrate a b c imm) s = .next (s.setW a 0).advance) ∧
    (∀ (v off slot : Nat) (g : Group), rngOf (s.w b).toNat = .win v off → v < s.nMembers s.cx.group →
      s.grp s.cx.group = some g →
      (v = s.cx.vcore → exec (.migrate a b c imm) s = .next (s.setW a 0).advance) ∧
      (v ≠ s.cx.vcore →
      let m := s.member s.cx.group v
      (m.pst = 1 → exec (.migrate a b c imm) s = .next (s.takeTrap 0x15 (s.w b) s.cx.pc)) ∧
      (m.pst ≠ 1 → s.slotFor g m.qbase m.pcore s.cx.foot = none →
        exec (.migrate a b c imm) s = .next (s.setW a (toWord (2 ^ 63 + 3))).advance) ∧
      (m.pst ≠ 1 → s.slotFor g m.qbase m.pcore s.cx.foot = some slot → s.enginesInto s.cx.group s.cx.vcore = false →
        ((s.endFwd s.cur).core s.here).fwd.length + s.movingFrom s.here < 16 →
        exec (.migrate a b c imm) s = .next (s.emigrate a g v m.pcore slot)))) ∧
    (∀ v off, rngOf (s.w b).toNat = .win v off → s.nMembers s.cx.group ≤ v →
      exec (.migrate a b c imm) s = .next (s.takeTrap 0x08 (s.w b) s.cx.pc)) ∧
    (∀ pa, rngOf (s.w b).toNat = .user → s.locateAll 2 [⟨(s.w b).toNat, 1, .load, 0, 0, false⟩] = .ok [.hbm pa] →
      (s.grp s.cx.group).bind (fun g => memberOnDie g (sliceOf pa / 24)) = none →
      exec (.migrate a b c imm) s =
        .next ((((s.setCx { s.cx with walkFault := [] }).useXl s.here s.cx.group (s.w b).toNat .load).setW a (toWord (2 ^ 63 + 2))).advance))) ∧
    (∀ (u : State) (id core slot from_ : Nat) (x : Ctx) (foot : List Byte) (g : Group),
      u.flight id = some (.migrate core slot x foot from_) → u.grp x.group = some g → ended g = false → g.overflowFills = [] →
      ∃ t, exec (.migrationArrival id) u = .next t ∧ t.flight id = none ∧
        t.ctx (core * 8 + slot) = { x with
          state := if (u.core core).stop ∨ x.stepping then .stopped none false else .ready
          stepping := false } ∧
        readBytes t.spad (spadKey core (x.wp - 64)) foot.length = foot)) ∧
  (∀ (s : State) (id h v core x y : Nat),
    (s.flight id = some (.placeUpd h v core x y) → ∃ t, exec (.placementUpdate id) s = .next t ∧
      (pick (fun f => f.id == id) t.flights).map (fun f => f.cargo) = some (.placeAck h v core) ∧
      (∀ e ∈ (t.core core).pcache, e.1 = h * 8192 + v → e.2 = ((s.member h v).pst, (s.member h v).pcore))) ∧
    (s.flight id = some (.placeAck h v core) →
      exec (.placementUpdateAck id) s = .next (s.land id).endMemberFwd) ∧
    (∀ (g : Group) (o : Nat), s.grp h = some g →
      (g.state = .running → g.pre.head? ≠ some 0 →
        exec (.save h) s = .next ((s.setGrp { g with pre := g.pre ++ [0] }).endMigrationFwd h)) ∧
      (g.state = .running → g.pre.head? = some 0 → placedMembers g = [v] → s.memberReady h v = true →
        ∃ t q, exec (.save h) s = .next t ∧ t.grp h = some q ∧ q.state = .saved ∧
          (t.member h v).pst = 2 ∧ q.images.length = g.images.length + 1) ∧
      (g.state = .running → s.rectIn g.part g.hdr o = true →
        exec (.move h o) s = .next ((s.setGrp { g with pre := g.pre ++ [o + 1] }).endMigrationFwd h)) ∧
      ((g.state ≠ .running ∨ s.rectIn g.part g.hdr o = false) → exec (.move h o) s = .next (s.tell [0, 1])) ∧
      (g.state ≠ .running → exec (.save h) s = .next (s.tell [0, 1])) ∧
      (∀ new, ended g = false → moveTarget g v = some new →
        (moveDone g = true → exec (.memberMoveInstall h v) s = .next (s.preDone h)) ∧
        (moveDone g = false → (s.member h v).pst = 0 → (s.member h v).pcore ≠ new →
          g.members.any (fun m => m.pst == 1) = false → s.canReceive g v new = true →
          exec (.memberMoveInstall h v) s =
            .next ((s.updMember h v (fun m => { m with pst := 1 })).placeChanged h v)) ∧
        (moveDone g = false → (s.member h v).pst = 1 → s.memberReady h v = true → v < g.members.length → g.handle = h →
          exec (.memberMoveInstall h v) s = .next ((s.installMember g v new).tryExitMember h v) ∧
          ((s.installMember g v new).member h v).pst = 0 ∧ ((s.installMember g v new).member h v).pcore = new)) ∧
      (g.state ≠ .saved → exec (.resume h o) s = .next (s.tell [0, 1])) ∧
      (g.state = .saved → s.rectIn g.part g.hdr o = true →
        g.images.all (fun z => s.canRestore g ((g.hdr.coresAt o).getD z.vcore 6144) z) = true →
        g.overflow = [] → g.overflowFills = [] → g.overflowBcasts = [] →
        ∃ t q, exec (.resume h o) s = .next t ∧ t.grp h = some q ∧ q.state = .running ∧
          (∀ z ∈ g.images, z.vcore < g.members.length →
            (t.member h z.vcore).pst = 0 ∧ (t.member h z.vcore).pcore = (g.hdr.coresAt o).getD z.vcore 6144))))

/-! ## The probe (28) -/

/-- PROBE STOP, RESUME, STEP and CKPT of a member's core or, in a supervisor, of a core of the partition: STOP sets the core's stop and returns 0; RESUME of a stopped core clears it and of another returns code 2; STEP of a stopped context lets it issue and returns 0, of one that is not stopped code 2, of none code 3; CKPT without a log returns code 4. A set bit that must be 0 raises X_OPERAND. RARM arms the recorder of a cluster of the partition, and RTRIG triggers a die's. A target that is refused gives its code; CKPT and RARM in user mode give code 1. -/
def Obligations.ProbeResult : Prop :=
  ∀ (s : State) (a b c : BitVec 4), s.calm = true →
    let w := (s.w b).toNat
    let code (k : Nat) : State := (s.setW a (toWord (2 ^ 63 + k))).advance
    let slot := bitsOf w 16 3
    let part := s.partOf s.cx.group
    ((bitsOf w 13 2 ≠ 0 ∨ bitsOf w 19 45 ≠ 0) →
      exec (.probeStop a b c) s = operandTrapOf s (encS 0x3F 7 a b c 0) ∧
      exec (.probeResume a b c) s = operandTrapOf s (encS 0x3F 7 a b c 1) ∧
      exec (.probeStep a b c) s = operandTrapOf s (encS 0x3F 7 a b c 2) ∧
      exec (.probeCkpt a b c) s = operandTrapOf s (encS 0x3F 7 a b c 5)) ∧
    (bitsOf w 13 2 = 0 → bitsOf w 19 45 = 0 →
      (s.cx.sup = false → exec (.probeCkpt a b c) s = .next (code 1)) ∧
      (∀ core, s.probeTarget w = .inr core →
        (∃ t, exec (.probeStop a b c) s = .next t ∧ (t.core core).stop = true ∧
          (∀ i ∈ s.cidsOn core, i ≠ s.cur → (s.ctx i).state = .ready → (t.ctx i).state = .stopped none false)) ∧
        ((s.core core).stop = true → exec (.probeResume a b c) s = .next ((s.resumeCore core).setW a 0).advance) ∧
        ((s.core core).stop = false → exec (.probeResume a b c) s = .next (code 2)) ∧
        (mget s.ctxs (core * 8 + slot) = none → exec (.probeStep a b c) s = .next (code 3)) ∧
        ((mget s.ctxs (core * 8 + slot)).isSome = true → (s.ctx (core * 8 + slot)).isStopped = false →
          exec (.probeStep a b c) s = .next (code 2)) ∧
        ((mget s.ctxs (core * 8 + slot)).isSome = true → (s.ctx (core * 8 + slot)).isStopped = true →
          exec (.probeStep a b c) s = .next ((s.stepCtx (core * 8 + slot)).setW a 0).advance) ∧
        (s.cx.sup = true → (s.core core).log.on = false → exec (.probeCkpt a b c) s = .next (code 4)) ∧
        (s.cx.sup = true → (s.core core).log.on = true → (s.cidsOn core).any (fun i => i != s.cur && (s.ctx i).call.isSome) = false →
          exec (.probeCkpt a b c) s = .next ((s.setW a 0).advance.checkpoint core))) ∧
      (∀ k, s.probeTarget w = .inl k → exec (.probeStop a b c) s = .next (code k) ∧
        exec (.probeResume a b c) s = .next (code k) ∧ exec (.probeStep a b c) s = .next (code k) ∧
        (s.cx.sup = true → exec (.probeCkpt a b c) s = .next (code k)))) ∧
    (let cl := bitsOf w 0 9
     bitsOf w 9 7 = 0 → bitsOf w 32 32 = 0 →
     (s.cx.sup = false → exec (.probeRarm a b c) s = .next (code 1)) ∧
     (s.cx.sup = true → cl < Config.clusters → s.partOnDie part (dieOfCluster cl) = true →
       ((mget s.parts part).map (fun p => p.clus.contains cl)) = some true →
       (s.unread (dieOfCluster cl) = true → exec (.probeRarm a b c) s = .next (code 2)) ∧
       (s.unread (dieOfCluster cl) = false →
         exec (.probeRarm a b c) s = .next ((s.arm cl (bitsOf w 16 16)).setW a 0).advance))) ∧
    (bitsOf w 2 62 = 0 → s.cx.sup = true → s.partOnDie part w = true →
      exec (.probeRtrig a b c) s = .next ((s.trigger w none).setW a 0).advance)

/-- The recorder of a die freezes once it is triggered and its delay has run; the host arms, triggers and reads it, and reading arms it again. The host's probe stops and steps, sets breakpoints and watchpoints, gives a core a log area, and starts and ends a replay, whose next logged event takes effect once its time has come; a core number that names no core is refused. The host reads a core's corrected errors, a die's power and temperature, the black box, oldest entry first, and the estate table. -/
def Obligations.RecorderAndReadout : Prop :=
  ∀ (s : State) (die core cid : Nat) (v : Word),
    (∀ r : Recorder, mget s.recorders die = some r →
      (r.triggered = true → r.left = 0 → r.frozen = false → exec (.recorderFreeze die) s =
        .next { s with recorders := mput s.recorders die { r.shut with frozen := true, armed := false } }) ∧
      (r.frozen = true → exec (.record die 2 0) s = .next
        ((s.arm (r.cfg.getD 0 0) (r.cfg.getD 1 0)).tell ([0, 0] ++ r.rows.flatten)))) ∧
    (∀ arg : Nat, bitsOf arg 0 9 < Config.clusters → dieOfCluster (bitsOf arg 0 9) = die → s.unread die = false →
      exec (.record die 0 arg) s = .next ((s.arm (bitsOf arg 0 9) (bitsOf arg 16 16)).tell [0, 0])) ∧
    (∀ arg : Nat, exec (.record die 1 arg) s = .next ((s.trigger die none).tell [0, 0])) ∧
    (∀ op i, Config.cores ≤ coreOfCid cid → exec (.hostProbe cid op i v) s = .next (s.tell [0, 3])) ∧
    (coreOfCid cid < Config.cores →
    exec (.hostProbe cid 0 0 v) s = .next ((s.stopCore (coreOfCid cid)).tell [0, 0]) ∧
    ((s.ctx cid).isStopped = true → exec (.hostProbe cid 2 0 v) s = .next ((s.stepCtx cid).tell [0, 0])) ∧
    (∀ i, i < 8 → (mget s.ctxs cid).isSome = true → ∃ t, exec (.hostProbe cid 3 i v) s = .next t ∧
      (t.ctx cid).get (0x028 + i) = v &&& toWord (crMask (0x028 + i))) ∧
    (∀ n, v.toNat + n ≤ Config.hbmBytes → ∃ t, exec (.hostProbe cid 4 n v) s = .next t ∧
      (t.core (coreOfCid cid)).log = ⟨true, v.toNat, n, 0, 0, 0, false⟩) ∧
    (∃ t, exec (.hostProbe cid 5 0 v) s = .next t ∧ (t.core (coreOfCid cid)).replay = some 0) ∧
    (∃ t, exec (.hostProbe cid 6 0 v) s = .next t ∧ (t.core (coreOfCid cid)).replay = none)) ∧
    ((s.core core).replay = none → exec (.replayInject core) s = .next s) ∧
    (∀ i : Nat, (s.core core).replay = some i →
      let a := (s.core core).log.base + 32 * i
      let kind := s.rdH (a + 15) 1
      let n := bitsOf (s.rdH (a + 8) 8) 32 24
      32 * (i + 1) ≤ (s.core core).log.size → kind ≠ 0 → s.rdH a 8 ≤ (s.core core).log.cyc →
      ∃ t, exec (.replayInject core) s = .next t ∧ (t.core core).replay = some (i + 1 + (n + 31) / 32)) ∧
    (core < Config.cores →
      exec (.readout 0 0 core) s = .next (s.tell [0, 0, s.counterOf (clusterOf core) (s.core core).cerr])) ∧
    (Config.cores ≤ core → exec (.readout 0 0 core) s = .next (s.tell [0, 3])) ∧
    (∀ i, i < 4 → ∃ x y, exec (.readout 0 12 i) s = .next (s.tellSensors [x, y])) ∧
    (∃ t, exec .blackBoxRead s = .next t ∧ t.bbFrozen = false ∧ t.hostOut = s.hostOut ++ [[0, 0] ++
      (upTo (s.bbSeq - (s.bbSeq - min s.bbSeq 4096))).flatMap (fun i =>
        mgetD s.blackBox ((s.bbSeq - min s.bbSeq 4096 + i) % 4096) [])]) ∧
    (∀ first count, first + count ≤ 1048576 → exec (.estateRead first count) s = .next (s.tell ([0, 0] ++
      (upTo count).flatMap (fun i => ((mget s.estate (first + i)).map Holding.dws).getD [0, 0, 0, 0]))))

/-! ## The host (27, 29) -/

/-- The host's commands on partitions and groups, each that names a partition where it exists, the others whether one exists or not (when INVALIDATE answers, and what IMAGE and ROOT refuse, the model's choices: log entries 83 and 84). IMAGE with a good signature brings the device up, with a bad one is answered 4. ROOT of an aligned address, HANDLE, STREAM, LINK_ERRT, ROUTING and TIME_ADJUST set what they name. PARTITION_CREATE with a free key and a free cluster makes a LIVE partition with the root and the handle table that it gives; PARTITION_DESTROY of one where no group is left removes it; POLICY installs one that passes its checks and answers another with the check it fails. HOST_LAUNCH submits a group whose header passes; HOST_KILL ends one. INVALIDATE drops what the range covers, and is answered at once where no access that may have used an entry it drops is unperformed, else once those are. QUOTE uses one signature. BULK_WRITE stores its bytes and BULK_READ returns them. -/
def Obligations.HostCommands : Prop :=
  ∀ (s : State) (part : Nat) (body sig : List Byte),
    let ok (t : State) : Out := .next (t.tell [0, 0])
    (s.boot = .waiting →
      (Config.lmsVerify Config.romKey (leBytes 32 (Config.sha256 body).toNat) sig = true → ∃ t,
        exec (.image body sig) s = .next t ∧ t.boot = .up ∧ t.fwDigest = Config.sha256 body) ∧
      (Config.lmsVerify Config.romKey (leBytes 32 (Config.sha256 body).toNat) sig = false →
        exec (.image body sig) s = .next (s.tell [0, 4]))) ∧
    (∀ pa, pa % 4096 = 0 → pa < Config.hbmBytes → exec (.root pa) s = ok { s with superRoot := pa }) ∧
    (∀ p i v, mget s.parts part = some p → i < 4096 → exec (.handle part i v) s =
      ok { s with parts := mput s.parts part { p with handles := mput p.handles i (v % 2 ^ 64) } }) ∧
    (∀ p port n, mget s.parts part = some p → port < 4 → exec (.stream part port n) s =
      ok { s with parts := mput s.parts part { p with streams := mput p.streams n port } }) ∧
    (∀ v, exec (.linkErrt v) s = ok { s with errt := v }) ∧
    (∀ i v, exec (.routing 0 i v) s = ok { s with routing := mput s.routing i v } ∧
      exec (.routing 1 i v) s = ok { s with mtrees := mput s.mtrees i v }) ∧
    (∀ d, exec (.timeAdjust d) s = ok { s with timeAdj := d.toInt }) ∧
    (∀ (key cl : Nat) (root : Nat × List (Nat × Nat)), key ≠ 0 → key < 2 ^ 16 → mget s.parts key = none → s.parts.length < 256 → cl < Config.clusters →
      s.parts.any (fun q => q.2.clus.contains cl) = false → (∀ x ∈ root.2, x.1 < 4096) →
      ∃ t q, exec (.partitionCreate key body [cl] root) s = .next t ∧ mget t.parts key = some q ∧ q.state = .live ∧
        q.clus = [cl] ∧ q.root = root.1 ∧ q.handles = root.2.foldl (fun m x => mput m x.1 (x.2 % 2 ^ 64)) [] ∧ q.policy = none) ∧
    (∀ p, mget s.parts part = some p → p.state = .live → s.groups = [] → ∃ t, exec (.partitionDestroy part) s = .next t ∧ mget t.parts part = none) ∧
    (∀ p, mget s.parts part = some p → p.state = .live →
      (policyCheck part p body sig = 0 → ∃ t q, exec (.policy part body sig) s = .next t ∧
        mget t.parts part = some q ∧ q.policy = some body) ∧
      (policyCheck part p body sig ≠ 0 →
        exec (.policy part body sig) s = .next (s.tell [0, policyCheck part p body sig]))) ∧
    (∀ p, mget s.parts part = some p → p.state = .live → s.boot = .up →
      let d := (upTo 16).map (dwOf body)
      (s.launchCode d part true none = 0 → ∃ t g, exec (.hostLaunch part body) s = .next t ∧
        t.grp s.newHandle = some g ∧ g.state = .submitted ∧ g.fromHost = true ∧ t.hostOut = s.hostOut ++ [[0, 0, s.newHandle]]) ∧
      (s.launchCode d part true none ≠ 0 →
        exec (.hostLaunch part body) s = .next (s.tell [0, s.launchCode d part true none]))) ∧
    (∀ h g, s.grp h = some g → exec (.hostKill h) s = ok (s.endGroup h 2)) ∧
    (∀ h va n,
      let hit (t : Tlb) : Bool := t.group == h && decide (t.va < va + n ∧ va < t.va + t.size)
      let t := s.tlbDrop hit
      let ranges := (va, n) :: ((s.tlbAll.filter hit).map (fun x => (x.va, x.size))).eraseDups
      let used := s.reqs.filter (fun r =>
        r.group == h && r.unperformed && isHbm r.loc && ranges.any (fun x => overlap r.va.toNat r.size x.1 x.2))
      (used = [] → exec (.invalidate h va n) s = ok t) ∧
      (used ≠ [] → exec (.invalidate h va n) s = .next { t with invals := s.invals ++
        [(Config.hostPort (.invalidate h va n), used.map (fun r => r.id))] })) ∧
    ((mget s.parts part).isSome = true → s.sigsLeft ≠ 0 → body.length = 32 → ∃ t, exec (.quote part body) s = .next t ∧ t.sigsLeft + 1 = s.sigsLeft) ∧
    (∀ pa, pa + body.length ≤ Config.hbmBytes → ∃ t, exec (.bulkWrite pa body) s = .next t ∧
      readBytes t.hbm pa body.length = body ∧ (∀ x, x < pa ∨ pa + body.length ≤ x → byteAt t.hbm x = byteAt s.hbm x)) ∧
    (∀ pa n, pa + n ≤ Config.hbmBytes →
      exec (.bulkRead pa n) s = .next (s.tell ([0, 0] ++ (readBytes s.hbm pa n).map BitVec.toNat)))

/-- Power, grants, wavelengths and resets. A power command on a cluster, plane, stack or port is noted and reached when its transition ends; one for a port comes only through a port that is UP, and is refused for that port; a plane goes dark once no request is outstanding on it and nothing waits to be written on it. A grant is issued with a number, revoked, and ends at its expiry. The host parks, lights, retrains and resets a wavelength that is in the state for it. A packet with no support that comes through a port that is UP is only counted. A thermal trip and a device reset freeze the black box and reset the machine, what stands in the memories staying (log entry 1); a loss of supply leaves it without power, and it steps no more. That no step is taken without supply, and that a trip leaves what a device reset does, are the model's choices: log entry 86. -/
def Obligations.PowerAndReset : Prop :=
  ∀ (s : State) (n l i : Nat),
    let ok (t : State) : Out := .next (t.tell [0, 0])
    (n < Config.clusters → s.clusterBusy n = false →
      exec (.powerCluster n 0) s = ok (s.setCluster n { (s.cluster n) with going := some .on }) ∧
      exec (.powerCluster n 1) s = ok (s.setCluster n { (s.cluster n) with going := some .gated }) ∧
      exec (.powerCluster n 2) s = ok (s.setCluster n { (s.cluster n) with going := some .off })) ∧
    (∀ p, (s.cluster n).going = some p → (p = .on ∨ s.clusterBusy n = false) →
      exec (.powerTransitionComplete 0 n) s = .next (s.setCluster n { (s.cluster n) with power := p, going := none })) ∧
    (0 < n → n < 4 →
      exec (.planeLight n) s = ok { s with planeGoing := nins s.planeGoing n, darkening := ndel s.darkening n } ∧
      exec (.planeDarken n) s = ok { s with darkening := nins s.darkening n, planeGoing := ndel s.planeGoing n }) ∧
    (exec (.planeLight 0) s = .next (s.tell [0, 1]) ∧ exec (.planeDarken 0) s = .next (s.tell [0, 1])) ∧
    (s.darkening.contains n = true → s.reqs = [] → s.hops = [] → exec (.planeDarkEffect n) s =
      .next { s with planes := mput s.planes n false, darkening := ndel s.darkening n }) ∧
    (n < 12 → exec (.powerStack n 1) s = ok { s with stackGoing := mput s.stackGoing n false }) ∧
    (∀ up via,
      (s.portUp via = false → exec (.powerPort n up via) s = .next s) ∧
      (s.portUp via = true → n < 4 → n ≠ via → exec (.powerPort n up via) s = ok { s with portGoing := mput s.portGoing n up }) ∧
      (s.portUp via = true → (4 ≤ n ∨ n = via) → exec (.powerPort n up via) s = .next (s.tell [0, 1]))) ∧
    (∀ part ls e, (mget s.parts part).isSome = true → ∃ t, exec (.grantIssue part ls e) s = .next t ∧
      t.grants = s.grants ++ [⟨s.uid, part, ls, e⟩] ∧ t.hostOut = s.hostOut ++ [[0, 0, s.uid]]) ∧
    (∃ t, exec (.grantRevoke n) s = .next t ∧ ∀ g ∈ t.grants, g.id ≠ n) ∧
    (∃ t, exec (.grantExpiry n) s = .next t ∧ ∀ g ∈ t.grants, g.id = n → s.time < g.expiry) ∧
    (let st := (s.link l).st i
     let goes (e : Instr) (z : Wl) : Prop := ∃ t, exec e s = .next t ∧ (t.link l).st i = z
     (st = .lit → goes (.wavelengthPark l i false) .parked ∧ goes (.wavelengthRetrain l i false) .retraining) ∧
     (st = .parked → goes (.wavelengthLight l i false) .waking) ∧
     (st = .failed → goes (.wavelengthReset l i) .waking)) ∧
    (s.portUp n = false → exec (.unsupportedPacket n) s = .next s) ∧
    (s.portUp n = true → ∃ t, exec (.unsupportedPacket n) s = .next t ∧ mget t.portDrops n = some ((mgetD s.portDrops n 0 + 1) % 2 ^ 64) ∧
      t.hostOut = s.hostOut) ∧
    (∃ t, exec .deviceReset s = .next t ∧ exec (.thermalTrip n) s = .next t ∧ t.bbFrozen = true ∧ t.boot = .waiting ∧
      t.ctxs = [] ∧ t.groups = [] ∧ t.parts = [] ∧ t.links = [] ∧ t.spad = s.spad ∧ t.hbm = s.hbm ∧
      t.sigsLeft = s.sigsLeft) ∧
    (∃ t, exec .supplyLoss s = .next t ∧ t.powered = false ∧ step t = .fault .unpowered)

/-! ## Rules stated whole -/

/-- The decoding of a line: it is illegal exactly if H is 0, ZERO is not 0, or descriptor, heads and tails exceed 64 bytes; in a legal line head i is the halfword at byte 2 i, and its tail is the little-endian number in the 2 TL bytes that end where the tails of the heads before it begin, the first at byte 63. -/
def Obligations.LineDecoding : Prop :=
  ∀ bs : List Byte, bs.length = 64 →
    let head (i : Nat) : Nat := leNat ((bs.drop (2 * i)).take 2)
    let n := head 0 % 32
    let size (i : Nat) : Nat := 2 * (head (i + 1) % 4)
    let before (i : Nat) : Nat := ((List.range i).map size).sum
    (decodeLine bs = none ↔ n = 0 ∨ head 0 / 32 ≠ 0 ∨ 64 < 2 + 2 * n + before n) ∧
    ∀ l, decodeLine bs = some l → l.heads.length = n ∧ l.tails.length = n ∧ ∀ i, i < n →
      l.heads[i]? = some (head (i + 1)) ∧
        l.tails[i]? = some (leNat ((bs.drop (64 - before i - size i)).take (size i)))

/-- Sequential flow and branch targets: from slot i below H the PC goes to slot i + 1, from slot H to slot 1 of the next line; a branch taken goes to (PC & ~63) + DISP·64 + SLOT·2, a conditional branch that is not taken to the successor whatever its target; CALL and CALLR write the successor to w15. -/
def Obligations.SequentialFlow : Prop :=
  ∀ (s : State) (l : Line) (a b c : BitVec 4) (d : BitVec 27) (k : BitVec 5), s.cx.line = some l → s.cx.rep = none →
    s.sound = true →
    let pc := s.cx.pc
    let base := pc &&& ~~~63#64
    let next := if pc.toNat % 64 / 2 < l.heads.length then pc + 2 else base + 66
    let dest := base + d.signExtend 64 * 64 + (k.setWidth 64) * 2
    s.advance.cx.pc = next ∧ target pc d k = dest ∧
    (∀ i rs t link, jumpOf s i = some (rs, false, t, link) → exec i s = .next s.advance) ∧
    (∀ m u, s.fetch s.cur dest.toNat = .ok m u →
      (∃ t, exec (.b a b d k) s = .next t ∧ t.cx.pc = dest) ∧
      (s.w a = 0 → ∃ t, exec (.bz a b d k) s = .next t ∧ t.cx.pc = dest) ∧
      (∃ t, exec (.call a b d k) s = .next t ∧ t.cx.pc = dest ∧ t.w 15 = next)) ∧
    (∀ m u, s.fetch s.cur (s.w a).toNat = .ok m u →
      ∃ t, exec (.callr a b c 0) s = .next t ∧ t.cx.pc = s.w a ∧ t.w 15 = next)

/-- JR and CALLR to an address that is odd, has bits [5:0] zero, or names a slot above the H of the line that stands there raise X_ILLEGAL_LINE with the address as TVAL, and no line is entered. -/
def Obligations.JumpChecks : Prop :=
  ∀ (s : State) (a b c : BitVec 4), s.sound = true →
    let t := (s.w a).toNat
    (t % 2 = 1 ∨ t % 64 = 0 ∨ ∃ bs l, s.lineAt (t / 64 * 64) bs ∧ decodeLine bs = some l ∧ l.heads.length < t % 64 / 2) →
    exec (.jr a b c 0) s = .next (s.takeTrap 0x01 (s.w a) s.cx.pc) ∧
    exec (.callr a b c 0) s = .next (s.takeTrap 0x01 (s.w a) s.cx.pc)

/-- MOV, SEL and SELZ: their encodings, what they write, and X_ECC with nothing written where one of the registers they read has an uncorrectable error, the one not selected too, TVAL being the first such register's in the order b, c, d (the order the model's choice: log entry 121); corrected errors in the registers read are counted once. -/
def Obligations.MoveAndSelect : Prop :=
  ∀ (s : State) (a b c d : BitVec 4),
    let h (m : Nat) : Nat := a.toNat * 4096 + b.toNat * 256 + m * 4
    let imm : BitVec 6 := d.setWidth 6
    let ends (rs : List (BitVec 4)) (x : Word) : Out := .next ((s.setW a x).advance.addCerrOn s.here (s.softRegs rs))
    decode (h 0x04) 0 = some (.mov a b) ∧ decode 0x4310 0 = some (.mov 4 3) ∧
    (∀ n, n < 64 → decode (h 0x07 + 1) (n * 1024 + c.toNat * 64 + d.toNat) =
      if n = 0 then some (.sel a b c imm) else if n = 1 then some (.selz a b c imm) else none) ∧
    (∀ n x, n < 64 → 16 ≤ x → x < 64 → decode (h 0x07 + 1) (n * 1024 + c.toNat * 64 + x) = none) ∧
    decode 0x121D 0x00C4 = some (.sel 1 2 3 4) ∧ decode 0x121D 0x04C4 = some (.selz 1 2 3 4) ∧
    (s.regBad [b] = none → exec (.mov a b) s = ends [b] (s.w b)) ∧
    (∀ x, s.regBad [b] = some x → exec (.mov a b) s = .next (s.takeTrap 0x0C (toWord x) s.cx.pc)) ∧
    (s.regBad [b, c, d] = none →
      exec (.sel a b c imm) s = ends [b, c, d] (if s.w d ≠ 0 then s.w b else s.w c) ∧
      exec (.selz a b c imm) s = ends [b, c, d] (if s.w d = 0 then s.w b else s.w c)) ∧
    (∀ x, s.regBad [b, c, d] = some x →
      exec (.sel a b c imm) s = .next (s.takeTrap 0x0C (toWord x) s.cx.pc) ∧
      exec (.selz a b c imm) s = .next (s.takeTrap 0x0C (toWord x) s.cx.pc))

/-- Division: DIV, REM and their natural forms complete for every divisor; a quotient is truncated toward zero, a non-zero signed remainder has the dividend's sign, b is quotient times divisor plus remainder; by 0 the quotient is all ones and the remainder b; -2^63 by -1 gives -2^63 and 0. -/
def Obligations.DivisionRule : Prop :=
  ∀ (s : State) (a b c : BitVec 4) (x y : Word),
    (s.regBad [b, c] = none →
      let ends (x : Word) : Out := .next ((s.setW a x).advance.addCerrOn s.here (s.softRegs [b, c]))
      exec (.div a b c 0) s = ends (divS (s.w b) (s.w c)) ∧
      exec (.rem a b c 0) s = ends (remS (s.w b) (s.w c)) ∧
      exec (.divN a b c 0) s = ends (divN (s.w b) (s.w c)) ∧
      exec (.remN a b c 0) s = ends (remN (s.w b) (s.w c))) ∧
    (y ≠ 0 → ¬ (x.toInt = -(2 ^ 63) ∧ y.toInt = -1) →
      (divS x y).toInt.natAbs = x.toInt.natAbs / y.toInt.natAbs ∧ x = divS x y * y + remS x y ∧
      (remS x y ≠ 0 → ((remS x y).toInt < 0 ↔ x.toInt < 0)) ∧ (remS x y).toInt.natAbs < y.toInt.natAbs) ∧
    (y ≠ 0 → (divN x y).toNat = x.toNat / y.toNat ∧ x = divN x y * y + remN x y ∧ (remN x y).toNat < y.toNat) ∧
    divS x 0 = BitVec.allOnes 64 ∧ divN x 0 = BitVec.allOnes 64 ∧ remS x 0 = x ∧ remN x 0 = x ∧
    divS 0x8000000000000000 (-1) = 0x8000000000000000 ∧ remS 0x8000000000000000 (-1) = 0

/-- The pair minors: ADDW and SUBW of even fields write the 128-bit sum and difference, low half in the even register, and MULW the exact natural product; an odd pair field raises X_OPERAND; the signed high word that MULH gives is the high word of the product less c where b is negative and less b where c is negative. -/
def Obligations.PairRule : Prop :=
  ∀ (s : State) (a b c : BitVec 4) (x y : Word),
    let ends (rs : List (BitVec 4)) (n : Nat) : Out := .next ((s.setPair a n).advance.addCerrOn s.here (s.softRegs rs))
    let all := [b, b + 1, c, c + 1]
    (odd a = false → odd b = false → odd c = false → s.regBad all = none →
      exec (.addw a b c 0) s = ends all ((s.wPair b + s.wPair c) % 2 ^ 128) ∧
      exec (.subw a b c 0) s = ends all ((s.wPair b + 2 ^ 128 - s.wPair c) % 2 ^ 128)) ∧
    (odd a = false → s.regBad [b, c] = none →
      exec (.mulw a b c 0) s = ends [b, c] ((s.w b).toNat * (s.w c).toNat)) ∧
    ((odd a = true ∨ odd b = true ∨ odd c = true) →
      exec (.addw a b c 0) s = .next (s.takeTrap 0x04 (s.asWritten (encWord (.addw a b c 0))) s.cx.pc) ∧
      exec (.subw a b c 0) s = .next (s.takeTrap 0x04 (s.asWritten (encWord (.subw a b c 0))) s.cx.pc)) ∧
    (odd a = true →
      exec (.mulw a b c 0) s = .next (s.takeTrap 0x04 (s.asWritten (encWord (.mulw a b c 0))) s.cx.pc)) ∧
    (odd b = false → s.wPair b = (s.w b).toNat + 2 ^ 64 * (s.w (b + 1)).toNat) ∧
    (∀ n : Nat, odd a = false → s.cx.wp + 128 ≤ 0x20000 →
      (s.setPair a n).w a = toWord n ∧ (s.setPair a n).w (a + 1) = toWord (n / 2 ^ 64)) ∧
    mulHigh x y = toWord (x.toNat * y.toNat / 2 ^ 64) - (if x.toInt < 0 then y else 0) - (if y.toInt < 0 then x else 0)

/-- The capability register and list: CAPB reads part code 0x1800, list revision 1 and ten entries, and a write leaves it; CAPR returns entry wB, its identifier, version 1 and size, and 0 beyond the list, in either mode; it raises X_ECC with wA unchanged, and a non-zero immediate does not decode. -/
def Obligations.Capabilities : Prop :=
  ∀ (s : State) (a b c : BitVec 4) (new : Word),
    let r := (s.readCr 0x0F1).toNat
    (bitsOf r 32 32 = 0x1800 ∧ bitsOf r 16 16 = 1 ∧ bitsOf r 0 16 = 10 ∧ s.writeCr 0x0F1 new = .ok s) ∧
    (List.range 11).map capEntry = [0x0001010000001800, 0x0002010000020000, 0x000301C000000000, 0x0004010000000004,
      0x0005010000000080, 0x0006010000000001, 0x000701000000003F, 0x0008010000000400, 0x0009010000000400,
      0x000A010000000006, 0] ∧
    (∀ i, 10 ≤ i → capEntry i = 0) ∧
    decode (a.toNat * 4096 + b.toNat * 256 + 0xFD) (0x1400 + c.toNat * 64) = some (.capr a b c 0) ∧
    (∀ x, 0 < x → x < 64 → decode (a.toNat * 4096 + b.toNat * 256 + 0xFD) (0x1400 + c.toNat * 64 + x) = none) ∧
    (s.regBad [b] = none → exec (.capr a b c 0) s =
      .next ((s.setW a (toWord (capEntry (s.w b).toNat))).advance.addCerrOn s.here (s.softRegs [b]))) ∧
    (∀ x, s.regBad [b] = some x → exec (.capr a b c 0) s = .next (s.takeTrap 0x0C (toWord x) s.cx.pc))

/-- A NaN that the device creates: sign 0, exponent all ones, quiet, the core's number in bits [21:9], and the k index in [8:0], at most 511. -/
def Obligations.NanLayout : Prop :=
  ∀ core k : Nat, core < 6144 →
    let w := mkNan core k
    bitsOf w 31 1 = 0 ∧ bitsOf w 23 8 = 0xFF ∧ bitsOf w 22 1 = 1 ∧ bitsOf w 9 13 = core ∧ bitsOf w 0 9 = min k 511 ∧
      w < 2 ^ 32
end

