-- ==== Sys2Proof/Laws/Data.lean ====
section
/-! SUPPORT. Laws of the sparse data: maps by key, sets of numbers, the first element of a list that satisfies a test. -/

namespace Sys2Proof.Machine

variable {α : Type}

/-! ## Maps -/

@[simp] theorem mget_nil (i : Nat) : mget ([] : Map α) i = none := rfl

@[simp] theorem mget_mput_self (m : Map α) (i : Nat) (x : α) : mget (mput m i x) i = some x := by
  induction m with
  | nil => simp [mput, mget]
  | cons p r ih =>
    obtain ⟨k, v⟩ := p
    simp only [mput]
    split
    · simp [mget]
    · split
      · simp [mget]
      · rename_i h1 h2
        simp [mget, ih, Ne.symm h2]

theorem mget_mput_ne (m : Map α) {i j : Nat} (x : α) (h : i ≠ j) : mget (mput m i x) j = mget m j := by
  induction m with
  | nil => simp [mput, mget, h]
  | cons p r ih =>
    obtain ⟨k, v⟩ := p
    simp only [mput]
    split
    · simp [mget, h]
    · split
      · rename_i _ h2
        subst h2
        simp [mget, h]
      · simp [mget, ih]

@[simp] theorem mget_mdel_self (m : Map α) (i : Nat) : mget (mdel m i) i = none := by
  induction m with
  | nil => rfl
  | cons p r ih =>
    obtain ⟨k, v⟩ := p
    simp only [mdel]
    split
    · exact ih
    · simp [mget, *]

theorem mget_mdel_ne (m : Map α) {i j : Nat} (h : i ≠ j) : mget (mdel m i) j = mget m j := by
  induction m with
  | nil => rfl
  | cons p r ih =>
    obtain ⟨k, v⟩ := p
    simp only [mdel]
    split
    · rename_i hk
      subst hk
      simp [mget, ih, h]
    · simp [mget, ih]

@[simp] theorem mgetD_mput_self (m : Map α) (i : Nat) (x d : α) : mgetD (mput m i x) i d = x := by simp [mgetD]

theorem mgetD_mput_ne (m : Map α) {i j : Nat} (x d : α) (h : i ≠ j) : mgetD (mput m i x) j d = mgetD m j d := by
  simp [mgetD, mget_mput_ne m x h]

/-- Storing twice at one key is storing the second value. -/
@[simp] theorem mput_mput (m : Map α) (i : Nat) (x y : α) : mput (mput m i x) i y = mput m i y := by
  induction m with
  | nil => simp [mput]
  | cons p r ih =>
    obtain ⟨k, v⟩ := p
    by_cases h1 : i < k
    · simp [mput, h1]
    · by_cases h2 : i = k
      · subst h2; simp [mput]
      · simp [mput, h1, h2, ih]

/-! ## Sets of numbers -/

theorem nmem_nins (l : List Nat) (i j : Nat) : nmem (nins l i) j = (decide (i = j) || nmem l j) := by
  induction l with
  | nil => simp [nins, nmem]
  | cons k r ih =>
    simp only [nins]
    split
    · simp only [nmem]; by_cases h : i = j <;> simp [h]
    · split
      · rename_i _ h
        subst h
        simp only [nmem]; by_cases h : i = j <;> simp [h]
      · simp only [nmem, ih]; by_cases h : k = j <;> simp [h]

theorem nmem_ndel (l : List Nat) (i j : Nat) : nmem (ndel l i) j = (!decide (i = j) && nmem l j) := by
  induction l with
  | nil => simp [ndel, nmem]
  | cons k r ih =>
    simp only [ndel]
    by_cases hk : k = i
    · subst hk
      simp only [if_true, ih, nmem]
      by_cases h : k = j <;> simp [h]
    · by_cases h : k = j
      · subst h; simp [nmem, hk, Ne.symm hk]
      · simp [nmem, ih, hk, h]

@[simp] theorem nmem_nil (i : Nat) : nmem [] i = false := rfl

/-! ## The first element that satisfies a test -/

theorem pick_none {p : α → Bool} {l : List α} : pick p l = none ↔ ∀ x ∈ l, p x = false := by
  induction l with
  | nil => simp [pick]
  | cons a r ih => by_cases h : p a <;> simp [pick, h, ih]

theorem pick_some {p : α → Bool} {l : List α} {x : α} (h : pick p l = some x) : p x = true ∧ x ∈ l := by
  induction l with
  | nil => simp [pick] at h
  | cons a r ih =>
    by_cases ha : p a
    · simp [pick, ha] at h; subst h; simp [ha]
    · simp [pick, ha] at h; obtain ⟨h1, h2⟩ := ih h; exact ⟨h1, by simp [h2]⟩

end Sys2Proof.Machine
end

