-- ==== Sys2Proof/Laws/Memory.lean ====
section
/-! SUPPORT. Laws of memory: a byte read after a byte written, numbers and byte lists, and the canonical form that every operation keeps. -/

namespace Sys2Proof.Machine

/-! ## One byte -/

@[simp] theorem byteAt_putByte_self (m : List Host.Cell) (a : Nat) (v : Byte) : byteAt (putByte m a v) a = v := by
  unfold putByte byteAt
  split
  · rename_i h; simp [mgetD, h]
  · simp

theorem byteAt_putByte_ne (m : List Host.Cell) {a b : Nat} (v : Byte) (h : a ≠ b) :
    byteAt (putByte m a v) b = byteAt m b := by
  unfold putByte byteAt
  split
  · simp [mgetD, mget_mdel_ne m h]
  · rw [mgetD_mput_ne m v 0 h]

/-! ## Numbers -/

/-- A number written leaves every byte outside it. -/
theorem byteAt_writeN_ne (n : Nat) : ∀ (m : List Host.Cell) (a v b : Nat), (b < a ∨ a + n ≤ b) →
    byteAt (writeN m a n v) b = byteAt m b := by
  induction n with
  | zero => intros; rfl
  | succ n ih =>
    intro m a v b h
    rw [writeN, ih _ (a + 1) _ b (by omega), byteAt_putByte_ne _ _ (by omega)]

/-- A number read depends on its bytes alone. -/
theorem readN_congr (n : Nat) : ∀ (m m' : List Host.Cell) (a : Nat), (∀ i, i < n → byteAt m (a + i) = byteAt m' (a + i)) →
    readN m a n = readN m' a n := by
  induction n with
  | zero => intros; rfl
  | succ n ih =>
    intro m m' a h
    have h0 := h 0 (by omega)
    rw [readN, readN, ih m m' (a + 1) (fun i hi => by have := h (i + 1) (by omega); rwa [show a + 1 + i = a + (i + 1) by omega])]
    rw [show a + 0 = a by omega] at h0
    rw [h0]

/-- Reading a number back. -/
@[simp] theorem readN_writeN_self (n : Nat) : ∀ (m : List Host.Cell) (a v : Nat), readN (writeN m a n v) a n = v % 256 ^ n := by
  induction n with
  | zero => intros; simp [readN, Nat.mod_one]
  | succ n ih =>
    intro m a v
    rw [readN, writeN, byteAt_writeN_ne n _ (a + 1) _ a (by omega), byteAt_putByte_self, ih]
    rw [Nat.pow_succ, Nat.mul_comm (256 ^ n) 256, Nat.mod_mul]
    simp [BitVec.toNat_ofNat]

/-- A number read where nothing was written. -/
theorem readN_writeN_ne (m : List Host.Cell) (a n v b k : Nat) (h : b + k ≤ a ∨ a + n ≤ b) :
    readN (writeN m a n v) b k = readN m b k :=
  readN_congr k _ _ b (fun i hi => byteAt_writeN_ne n m a v (b + i) (by omega))

theorem readN_lt (n : Nat) : ∀ (m : List Host.Cell) (a : Nat), readN m a n < 256 ^ n := by
  induction n with
  | zero => intros; simp [readN]
  | succ n ih =>
    intro m a
    have := ih m (a + 1)
    have hb := (byteAt m a).isLt
    rw [readN, Nat.pow_succ]
    omega

/-! ## Byte lists -/

theorem byteAt_writeBytes_ne (bs : List Byte) : ∀ (m : List Host.Cell) (a b : Nat), (b < a ∨ a + bs.length ≤ b) →
    byteAt (writeBytes m a bs) b = byteAt m b := by
  induction bs with
  | nil => intros; rfl
  | cons x r ih =>
    intro m a b h
    simp only [List.length_cons] at h
    rw [writeBytes, ih _ (a + 1) b (by omega), byteAt_putByte_ne _ _ (by omega)]

@[simp] theorem readBytes_writeBytes_self (bs : List Byte) : ∀ (m : List Host.Cell) (a : Nat),
    readBytes (writeBytes m a bs) a bs.length = bs := by
  induction bs with
  | nil => intros; rfl
  | cons x r ih =>
    intro m a
    rw [List.length_cons, readBytes, writeBytes, byteAt_writeBytes_ne r _ (a + 1) a (by omega), byteAt_putByte_self, ih]

@[simp] theorem readBytes_length (n : Nat) : ∀ (m : List Host.Cell) (a : Nat), (readBytes m a n).length = n := by
  induction n with
  | zero => intros; rfl
  | succ n ih => intro m a; simp [readBytes, ih]

theorem readBytes_congr (n : Nat) : ∀ (m m' : List Host.Cell) (a : Nat), (∀ i, i < n → byteAt m (a + i) = byteAt m' (a + i)) →
    readBytes m a n = readBytes m' a n := by
  induction n with
  | zero => intros; rfl
  | succ n ih =>
    intro m m' a h
    have h0 := h 0 (by omega)
    rw [readBytes, readBytes, ih m m' (a + 1) (fun i hi => by have := h (i + 1) (by omega); rwa [show a + 1 + i = a + (i + 1) by omega])]
    rw [show a + 0 = a by omega] at h0
    rw [h0]

/-! ## The canonical form -/

theorem Memory.wfFrom_mono {lo lo' : Nat} {m : List Host.Cell} (h : Memory.wfFrom lo m = true) (hl : lo' ≤ lo) :
    Memory.wfFrom lo' m = true := by
  cases m with
  | nil => rfl
  | cons p r =>
    obtain ⟨a, v⟩ := p
    simp only [Memory.wfFrom, Bool.and_eq_true, decide_eq_true_eq] at h ⊢
    exact ⟨⟨by omega, h.1.2⟩, h.2⟩

theorem Memory.wfFrom_mdel (i : Nat) : ∀ (m : List Host.Cell) (lo : Nat), Memory.wfFrom lo m = true →
    Memory.wfFrom lo (mdel m i) = true := by
  intro m
  induction m with
  | nil => intros; rfl
  | cons p r ih =>
    obtain ⟨a, v⟩ := p
    intro lo h
    simp only [Memory.wfFrom, Bool.and_eq_true, decide_eq_true_eq] at h
    simp only [mdel]
    split
    · exact Memory.wfFrom_mono (ih _ h.2) (by omega)
    · simp only [Memory.wfFrom, Bool.and_eq_true, decide_eq_true_eq]
      exact ⟨h.1, ih _ h.2⟩

theorem Memory.wfFrom_mput {v : Byte} (hv : v ≠ 0) (i : Nat) : ∀ (m : List Host.Cell) (lo : Nat), lo ≤ i →
    Memory.wfFrom lo m = true → Memory.wfFrom lo (mput m i v) = true := by
  intro m
  induction m with
  | nil => intro lo hl _; simp only [mput, Memory.wfFrom, Bool.and_true, Bool.and_eq_true, decide_eq_true_eq]; exact ⟨hl, hv⟩
  | cons p r ih =>
    obtain ⟨a, w⟩ := p
    intro lo hl h
    simp only [Memory.wfFrom, Bool.and_eq_true, decide_eq_true_eq] at h
    simp only [mput]
    split
    · simp only [Memory.wfFrom, Bool.and_eq_true, decide_eq_true_eq]
      exact ⟨⟨hl, hv⟩, ⟨by omega, h.1.2⟩, h.2⟩
    · split
      · rename_i _ he
        subst he
        simp only [Memory.wfFrom, Bool.and_eq_true, decide_eq_true_eq]
        exact ⟨⟨hl, hv⟩, h.2⟩
      · simp only [Memory.wfFrom, Bool.and_eq_true, decide_eq_true_eq]
        exact ⟨h.1, ih _ (by omega) h.2⟩

/-- Dropping bytes keeps the canonical form. -/
theorem Memory.wfFrom_filter (p : Host.Cell → Bool) : ∀ (m : List Host.Cell) (lo : Nat), Memory.wfFrom lo m = true →
    Memory.wfFrom lo (m.filter p) = true := by
  intro m
  induction m with
  | nil => intros; rfl
  | cons x r ih =>
    obtain ⟨a, w⟩ := x
    intro lo h
    simp only [Memory.wfFrom, Bool.and_eq_true, decide_eq_true_eq] at h
    rw [List.filter_cons]
    split
    · simp only [Memory.wfFrom, Bool.and_eq_true, decide_eq_true_eq]
      exact ⟨h.1, ih _ h.2⟩
    · exact Memory.wfFrom_mono (ih _ h.2) (by omega)

theorem Memory.wf_nil : Memory.wf [] = true := rfl

theorem Memory.wf_putByte {m : List Host.Cell} (h : Memory.wf m = true) (a : Nat) (v : Byte) :
    Memory.wf (putByte m a v) = true := by
  unfold putByte
  split
  · exact Memory.wfFrom_mdel a m 0 h
  · rename_i hv; exact Memory.wfFrom_mput hv a m 0 (by omega) h

theorem Memory.wf_writeN (n : Nat) : ∀ {m : List Host.Cell}, Memory.wf m = true → ∀ a v, Memory.wf (writeN m a n v) = true := by
  induction n with
  | zero => intro m h a v; exact h
  | succ n ih => intro m h a v; exact ih (Memory.wf_putByte h a _) _ _

theorem Memory.wf_writeBytes (bs : List Byte) : ∀ {m : List Host.Cell}, Memory.wf m = true → ∀ a,
    Memory.wf (writeBytes m a bs) = true := by
  induction bs with
  | nil => intro m h a; exact h
  | cons x r ih => intro m h a; exact ih (Memory.wf_putByte h a x) _

theorem Memory.wf_filter {m : List Host.Cell} (h : Memory.wf m = true) (p : Host.Cell → Bool) :
    Memory.wf (m.filter p) = true := Memory.wfFrom_filter p m 0 h

/-- Putting many bytes keeps the canonical form. -/
theorem Memory.wf_putAll {β : Type} (f : β → Nat) (g : β → Byte) (l : List β) : ∀ {m : List Host.Cell},
    Memory.wf m = true → Memory.wf (l.foldl (fun m x => putByte m (f x) (g x)) m) = true := by
  induction l with
  | nil => intro m h; exact h
  | cons x r ih => intro m h; exact ih (Memory.wf_putByte h _ _)

end Sys2Proof.Machine
end

