-- ==== Sys2Proof/Laws/State.lean ====
section
/-! SUPPORT. Each update of the state beside each field: what the update leaves is there by definition. -/

namespace Sys2Proof.Machine

variable (s : State)

/-! ### setCtx -/

@[simp] theorem State.setCtx_spad (cid : Nat) (c : Ctx) : (s.setCtx cid c).spad = s.spad := rfl
@[simp] theorem State.setCtx_hbm (cid : Nat) (c : Ctx) : (s.setCtx cid c).hbm = s.hbm := rfl
@[simp] theorem State.setCtx_tags (cid : Nat) (c : Ctx) : (s.setCtx cid c).tags = s.tags := rfl
@[simp] theorem State.setCtx_dirty (cid : Nat) (c : Ctx) : (s.setCtx cid c).dirty = s.dirty := rfl
@[simp] theorem State.setCtx_badSpad (cid : Nat) (c : Ctx) : (s.setCtx cid c).badSpad = s.badSpad := rfl
@[simp] theorem State.setCtx_badHbm (cid : Nat) (c : Ctx) : (s.setCtx cid c).badHbm = s.badHbm := rfl
@[simp] theorem State.setCtx_softSpad (cid : Nat) (c : Ctx) : (s.setCtx cid c).softSpad = s.softSpad := rfl
@[simp] theorem State.setCtx_cores (cid : Nat) (c : Ctx) : (s.setCtx cid c).cores = s.cores := rfl
@[simp] theorem State.setCtx_clusters (cid : Nat) (c : Ctx) : (s.setCtx cid c).clusters = s.clusters := rfl
@[simp] theorem State.setCtx_groups (cid : Nat) (c : Ctx) : (s.setCtx cid c).groups = s.groups := rfl
@[simp] theorem State.setCtx_parts (cid : Nat) (c : Ctx) : (s.setCtx cid c).parts = s.parts := rfl
@[simp] theorem State.setCtx_learn (cid : Nat) (c : Ctx) : (s.setCtx cid c).learn = s.learn := rfl
@[simp] theorem State.setCtx_estate (cid : Nat) (c : Ctx) : (s.setCtx cid c).estate = s.estate := rfl
@[simp] theorem State.setCtx_walkQueue (cid : Nat) (c : Ctx) : (s.setCtx cid c).walkQueue = s.walkQueue := rfl
@[simp] theorem State.setCtx_reqs (cid : Nat) (c : Ctx) : (s.setCtx cid c).reqs = s.reqs := rfl
@[simp] theorem State.setCtx_landings (cid : Nat) (c : Ctx) : (s.setCtx cid c).landings = s.landings := rfl
@[simp] theorem State.setCtx_hops (cid : Nat) (c : Ctx) : (s.setCtx cid c).hops = s.hops := rfl
@[simp] theorem State.setCtx_slept (cid : Nat) (c : Ctx) : (s.setCtx cid c).slept = s.slept := rfl
@[simp] theorem State.setCtx_cycles (cid : Nat) (c : Ctx) : (s.setCtx cid c).cycles = s.cycles := rfl
@[simp] theorem State.setCtx_flights (cid : Nat) (c : Ctx) : (s.setCtx cid c).flights = s.flights := rfl
@[simp] theorem State.setCtx_links (cid : Nat) (c : Ctx) : (s.setCtx cid c).links = s.links := rfl
@[simp] theorem State.setCtx_reductions (cid : Nat) (c : Ctx) : (s.setCtx cid c).reductions = s.reductions := rfl
@[simp] theorem State.setCtx_pipelines (cid : Nat) (c : Ctx) : (s.setCtx cid c).pipelines = s.pipelines := rfl
@[simp] theorem State.setCtx_planes (cid : Nat) (c : Ctx) : (s.setCtx cid c).planes = s.planes := rfl
@[simp] theorem State.setCtx_hostOut (cid : Nat) (c : Ctx) : (s.setCtx cid c).hostOut = s.hostOut := rfl
@[simp] theorem State.setCtx_boot (cid : Nat) (c : Ctx) : (s.setCtx cid c).boot = s.boot := rfl
@[simp] theorem State.setCtx_powered (cid : Nat) (c : Ctx) : (s.setCtx cid c).powered = s.powered := rfl
@[simp] theorem State.setCtx_time (cid : Nat) (c : Ctx) : (s.setCtx cid c).time = s.time := rfl
@[simp] theorem State.setCtx_uid (cid : Nat) (c : Ctx) : (s.setCtx cid c).uid = s.uid := rfl
@[simp] theorem State.setCtx_cur (cid : Nat) (c : Ctx) : (s.setCtx cid c).cur = s.cur := rfl
@[simp] theorem State.setCtx_agenda (cid : Nat) (c : Ctx) : (s.setCtx cid c).agenda = s.agenda := rfl
@[simp] theorem State.setCtx_devNum (cid : Nat) (c : Ctx) : (s.setCtx cid c).devNum = s.devNum := rfl

/-! ### setCx -/

@[simp] theorem State.setCx_spad (c : Ctx) : (s.setCx c).spad = s.spad := rfl
@[simp] theorem State.setCx_hbm (c : Ctx) : (s.setCx c).hbm = s.hbm := rfl
@[simp] theorem State.setCx_tags (c : Ctx) : (s.setCx c).tags = s.tags := rfl
@[simp] theorem State.setCx_dirty (c : Ctx) : (s.setCx c).dirty = s.dirty := rfl
@[simp] theorem State.setCx_badSpad (c : Ctx) : (s.setCx c).badSpad = s.badSpad := rfl
@[simp] theorem State.setCx_badHbm (c : Ctx) : (s.setCx c).badHbm = s.badHbm := rfl
@[simp] theorem State.setCx_softSpad (c : Ctx) : (s.setCx c).softSpad = s.softSpad := rfl
@[simp] theorem State.setCx_cores (c : Ctx) : (s.setCx c).cores = s.cores := rfl
@[simp] theorem State.setCx_clusters (c : Ctx) : (s.setCx c).clusters = s.clusters := rfl
@[simp] theorem State.setCx_groups (c : Ctx) : (s.setCx c).groups = s.groups := rfl
@[simp] theorem State.setCx_parts (c : Ctx) : (s.setCx c).parts = s.parts := rfl
@[simp] theorem State.setCx_learn (c : Ctx) : (s.setCx c).learn = s.learn := rfl
@[simp] theorem State.setCx_estate (c : Ctx) : (s.setCx c).estate = s.estate := rfl
@[simp] theorem State.setCx_walkQueue (c : Ctx) : (s.setCx c).walkQueue = s.walkQueue := rfl
@[simp] theorem State.setCx_reqs (c : Ctx) : (s.setCx c).reqs = s.reqs := rfl
@[simp] theorem State.setCx_landings (c : Ctx) : (s.setCx c).landings = s.landings := rfl
@[simp] theorem State.setCx_hops (c : Ctx) : (s.setCx c).hops = s.hops := rfl
@[simp] theorem State.setCx_slept (c : Ctx) : (s.setCx c).slept = s.slept := rfl
@[simp] theorem State.setCx_cycles (c : Ctx) : (s.setCx c).cycles = s.cycles := rfl
@[simp] theorem State.setCx_flights (c : Ctx) : (s.setCx c).flights = s.flights := rfl
@[simp] theorem State.setCx_links (c : Ctx) : (s.setCx c).links = s.links := rfl
@[simp] theorem State.setCx_reductions (c : Ctx) : (s.setCx c).reductions = s.reductions := rfl
@[simp] theorem State.setCx_pipelines (c : Ctx) : (s.setCx c).pipelines = s.pipelines := rfl
@[simp] theorem State.setCx_planes (c : Ctx) : (s.setCx c).planes = s.planes := rfl
@[simp] theorem State.setCx_hostOut (c : Ctx) : (s.setCx c).hostOut = s.hostOut := rfl
@[simp] theorem State.setCx_boot (c : Ctx) : (s.setCx c).boot = s.boot := rfl
@[simp] theorem State.setCx_powered (c : Ctx) : (s.setCx c).powered = s.powered := rfl
@[simp] theorem State.setCx_time (c : Ctx) : (s.setCx c).time = s.time := rfl
@[simp] theorem State.setCx_uid (c : Ctx) : (s.setCx c).uid = s.uid := rfl
@[simp] theorem State.setCx_cur (c : Ctx) : (s.setCx c).cur = s.cur := rfl
@[simp] theorem State.setCx_agenda (c : Ctx) : (s.setCx c).agenda = s.agenda := rfl
@[simp] theorem State.setCx_devNum (c : Ctx) : (s.setCx c).devNum = s.devNum := rfl

/-! ### setCore -/

@[simp] theorem State.setCore_spad (n : Nat) (k : Core) : (s.setCore n k).spad = s.spad := rfl
@[simp] theorem State.setCore_hbm (n : Nat) (k : Core) : (s.setCore n k).hbm = s.hbm := rfl
@[simp] theorem State.setCore_tags (n : Nat) (k : Core) : (s.setCore n k).tags = s.tags := rfl
@[simp] theorem State.setCore_dirty (n : Nat) (k : Core) : (s.setCore n k).dirty = s.dirty := rfl
@[simp] theorem State.setCore_badSpad (n : Nat) (k : Core) : (s.setCore n k).badSpad = s.badSpad := rfl
@[simp] theorem State.setCore_badHbm (n : Nat) (k : Core) : (s.setCore n k).badHbm = s.badHbm := rfl
@[simp] theorem State.setCore_softSpad (n : Nat) (k : Core) : (s.setCore n k).softSpad = s.softSpad := rfl
@[simp] theorem State.setCore_ctxs (n : Nat) (k : Core) : (s.setCore n k).ctxs = s.ctxs := rfl
@[simp] theorem State.setCore_clusters (n : Nat) (k : Core) : (s.setCore n k).clusters = s.clusters := rfl
@[simp] theorem State.setCore_groups (n : Nat) (k : Core) : (s.setCore n k).groups = s.groups := rfl
@[simp] theorem State.setCore_parts (n : Nat) (k : Core) : (s.setCore n k).parts = s.parts := rfl
@[simp] theorem State.setCore_learn (n : Nat) (k : Core) : (s.setCore n k).learn = s.learn := rfl
@[simp] theorem State.setCore_estate (n : Nat) (k : Core) : (s.setCore n k).estate = s.estate := rfl
@[simp] theorem State.setCore_walkQueue (n : Nat) (k : Core) : (s.setCore n k).walkQueue = s.walkQueue := rfl
@[simp] theorem State.setCore_reqs (n : Nat) (k : Core) : (s.setCore n k).reqs = s.reqs := rfl
@[simp] theorem State.setCore_landings (n : Nat) (k : Core) : (s.setCore n k).landings = s.landings := rfl
@[simp] theorem State.setCore_hops (n : Nat) (k : Core) : (s.setCore n k).hops = s.hops := rfl
@[simp] theorem State.setCore_slept (n : Nat) (k : Core) : (s.setCore n k).slept = s.slept := rfl
@[simp] theorem State.setCore_cycles (n : Nat) (k : Core) : (s.setCore n k).cycles = s.cycles := rfl
@[simp] theorem State.setCore_flights (n : Nat) (k : Core) : (s.setCore n k).flights = s.flights := rfl
@[simp] theorem State.setCore_links (n : Nat) (k : Core) : (s.setCore n k).links = s.links := rfl
@[simp] theorem State.setCore_reductions (n : Nat) (k : Core) : (s.setCore n k).reductions = s.reductions := rfl
@[simp] theorem State.setCore_pipelines (n : Nat) (k : Core) : (s.setCore n k).pipelines = s.pipelines := rfl
@[simp] theorem State.setCore_planes (n : Nat) (k : Core) : (s.setCore n k).planes = s.planes := rfl
@[simp] theorem State.setCore_hostOut (n : Nat) (k : Core) : (s.setCore n k).hostOut = s.hostOut := rfl
@[simp] theorem State.setCore_boot (n : Nat) (k : Core) : (s.setCore n k).boot = s.boot := rfl
@[simp] theorem State.setCore_powered (n : Nat) (k : Core) : (s.setCore n k).powered = s.powered := rfl
@[simp] theorem State.setCore_time (n : Nat) (k : Core) : (s.setCore n k).time = s.time := rfl
@[simp] theorem State.setCore_uid (n : Nat) (k : Core) : (s.setCore n k).uid = s.uid := rfl
@[simp] theorem State.setCore_cur (n : Nat) (k : Core) : (s.setCore n k).cur = s.cur := rfl
@[simp] theorem State.setCore_agenda (n : Nat) (k : Core) : (s.setCore n k).agenda = s.agenda := rfl
@[simp] theorem State.setCore_devNum (n : Nat) (k : Core) : (s.setCore n k).devNum = s.devNum := rfl

/-! ### setCluster -/

@[simp] theorem State.setCluster_spad (n : Nat) (k : Cluster) : (s.setCluster n k).spad = s.spad := rfl
@[simp] theorem State.setCluster_hbm (n : Nat) (k : Cluster) : (s.setCluster n k).hbm = s.hbm := rfl
@[simp] theorem State.setCluster_tags (n : Nat) (k : Cluster) : (s.setCluster n k).tags = s.tags := rfl
@[simp] theorem State.setCluster_dirty (n : Nat) (k : Cluster) : (s.setCluster n k).dirty = s.dirty := rfl
@[simp] theorem State.setCluster_badSpad (n : Nat) (k : Cluster) : (s.setCluster n k).badSpad = s.badSpad := rfl
@[simp] theorem State.setCluster_badHbm (n : Nat) (k : Cluster) : (s.setCluster n k).badHbm = s.badHbm := rfl
@[simp] theorem State.setCluster_softSpad (n : Nat) (k : Cluster) : (s.setCluster n k).softSpad = s.softSpad := rfl
@[simp] theorem State.setCluster_ctxs (n : Nat) (k : Cluster) : (s.setCluster n k).ctxs = s.ctxs := rfl
@[simp] theorem State.setCluster_cores (n : Nat) (k : Cluster) : (s.setCluster n k).cores = s.cores := rfl
@[simp] theorem State.setCluster_groups (n : Nat) (k : Cluster) : (s.setCluster n k).groups = s.groups := rfl
@[simp] theorem State.setCluster_parts (n : Nat) (k : Cluster) : (s.setCluster n k).parts = s.parts := rfl
@[simp] theorem State.setCluster_learn (n : Nat) (k : Cluster) : (s.setCluster n k).learn = s.learn := rfl
@[simp] theorem State.setCluster_estate (n : Nat) (k : Cluster) : (s.setCluster n k).estate = s.estate := rfl
@[simp] theorem State.setCluster_walkQueue (n : Nat) (k : Cluster) : (s.setCluster n k).walkQueue = s.walkQueue := rfl
@[simp] theorem State.setCluster_reqs (n : Nat) (k : Cluster) : (s.setCluster n k).reqs = s.reqs := rfl
@[simp] theorem State.setCluster_landings (n : Nat) (k : Cluster) : (s.setCluster n k).landings = s.landings := rfl
@[simp] theorem State.setCluster_hops (n : Nat) (k : Cluster) : (s.setCluster n k).hops = s.hops := rfl
@[simp] theorem State.setCluster_slept (n : Nat) (k : Cluster) : (s.setCluster n k).slept = s.slept := rfl
@[simp] theorem State.setCluster_cycles (n : Nat) (k : Cluster) : (s.setCluster n k).cycles = s.cycles := rfl
@[simp] theorem State.setCluster_flights (n : Nat) (k : Cluster) : (s.setCluster n k).flights = s.flights := rfl
@[simp] theorem State.setCluster_links (n : Nat) (k : Cluster) : (s.setCluster n k).links = s.links := rfl
@[simp] theorem State.setCluster_reductions (n : Nat) (k : Cluster) : (s.setCluster n k).reductions = s.reductions := rfl
@[simp] theorem State.setCluster_pipelines (n : Nat) (k : Cluster) : (s.setCluster n k).pipelines = s.pipelines := rfl
@[simp] theorem State.setCluster_planes (n : Nat) (k : Cluster) : (s.setCluster n k).planes = s.planes := rfl
@[simp] theorem State.setCluster_hostOut (n : Nat) (k : Cluster) : (s.setCluster n k).hostOut = s.hostOut := rfl
@[simp] theorem State.setCluster_boot (n : Nat) (k : Cluster) : (s.setCluster n k).boot = s.boot := rfl
@[simp] theorem State.setCluster_powered (n : Nat) (k : Cluster) : (s.setCluster n k).powered = s.powered := rfl
@[simp] theorem State.setCluster_time (n : Nat) (k : Cluster) : (s.setCluster n k).time = s.time := rfl
@[simp] theorem State.setCluster_uid (n : Nat) (k : Cluster) : (s.setCluster n k).uid = s.uid := rfl
@[simp] theorem State.setCluster_cur (n : Nat) (k : Cluster) : (s.setCluster n k).cur = s.cur := rfl
@[simp] theorem State.setCluster_agenda (n : Nat) (k : Cluster) : (s.setCluster n k).agenda = s.agenda := rfl
@[simp] theorem State.setCluster_devNum (n : Nat) (k : Cluster) : (s.setCluster n k).devNum = s.devNum := rfl

/-! ### setGrp -/

@[simp] theorem State.setGrp_spad (g : Group) : (s.setGrp g).spad = s.spad := rfl
@[simp] theorem State.setGrp_hbm (g : Group) : (s.setGrp g).hbm = s.hbm := rfl
@[simp] theorem State.setGrp_tags (g : Group) : (s.setGrp g).tags = s.tags := rfl
@[simp] theorem State.setGrp_dirty (g : Group) : (s.setGrp g).dirty = s.dirty := rfl
@[simp] theorem State.setGrp_badSpad (g : Group) : (s.setGrp g).badSpad = s.badSpad := rfl
@[simp] theorem State.setGrp_badHbm (g : Group) : (s.setGrp g).badHbm = s.badHbm := rfl
@[simp] theorem State.setGrp_softSpad (g : Group) : (s.setGrp g).softSpad = s.softSpad := rfl
@[simp] theorem State.setGrp_ctxs (g : Group) : (s.setGrp g).ctxs = s.ctxs := rfl
@[simp] theorem State.setGrp_cores (g : Group) : (s.setGrp g).cores = s.cores := rfl
@[simp] theorem State.setGrp_clusters (g : Group) : (s.setGrp g).clusters = s.clusters := rfl
@[simp] theorem State.setGrp_parts (g : Group) : (s.setGrp g).parts = s.parts := rfl
@[simp] theorem State.setGrp_learn (g : Group) : (s.setGrp g).learn = s.learn := rfl
@[simp] theorem State.setGrp_estate (g : Group) : (s.setGrp g).estate = s.estate := rfl
@[simp] theorem State.setGrp_walkQueue (g : Group) : (s.setGrp g).walkQueue = s.walkQueue := rfl
@[simp] theorem State.setGrp_reqs (g : Group) : (s.setGrp g).reqs = s.reqs := rfl
@[simp] theorem State.setGrp_landings (g : Group) : (s.setGrp g).landings = s.landings := rfl
@[simp] theorem State.setGrp_hops (g : Group) : (s.setGrp g).hops = s.hops := rfl
@[simp] theorem State.setGrp_slept (g : Group) : (s.setGrp g).slept = s.slept := rfl
@[simp] theorem State.setGrp_cycles (g : Group) : (s.setGrp g).cycles = s.cycles := rfl
@[simp] theorem State.setGrp_flights (g : Group) : (s.setGrp g).flights = s.flights := rfl
@[simp] theorem State.setGrp_links (g : Group) : (s.setGrp g).links = s.links := rfl
@[simp] theorem State.setGrp_reductions (g : Group) : (s.setGrp g).reductions = s.reductions := rfl
@[simp] theorem State.setGrp_pipelines (g : Group) : (s.setGrp g).pipelines = s.pipelines := rfl
@[simp] theorem State.setGrp_planes (g : Group) : (s.setGrp g).planes = s.planes := rfl
@[simp] theorem State.setGrp_hostOut (g : Group) : (s.setGrp g).hostOut = s.hostOut := rfl
@[simp] theorem State.setGrp_boot (g : Group) : (s.setGrp g).boot = s.boot := rfl
@[simp] theorem State.setGrp_powered (g : Group) : (s.setGrp g).powered = s.powered := rfl
@[simp] theorem State.setGrp_time (g : Group) : (s.setGrp g).time = s.time := rfl
@[simp] theorem State.setGrp_uid (g : Group) : (s.setGrp g).uid = s.uid := rfl
@[simp] theorem State.setGrp_cur (g : Group) : (s.setGrp g).cur = s.cur := rfl
@[simp] theorem State.setGrp_agenda (g : Group) : (s.setGrp g).agenda = s.agenda := rfl
@[simp] theorem State.setGrp_devNum (g : Group) : (s.setGrp g).devNum = s.devNum := rfl

/-! ### wrS -/

@[simp] theorem State.wrS_hbm (core off n v : Nat) : (s.wrS core off n v).hbm = s.hbm := rfl
@[simp] theorem State.wrS_tags (core off n v : Nat) : (s.wrS core off n v).tags = s.tags := rfl
@[simp] theorem State.wrS_badSpad (core off n v : Nat) : (s.wrS core off n v).badSpad = s.badSpad := rfl
@[simp] theorem State.wrS_badHbm (core off n v : Nat) : (s.wrS core off n v).badHbm = s.badHbm := rfl
@[simp] theorem State.wrS_softSpad (core off n v : Nat) : (s.wrS core off n v).softSpad = s.softSpad := rfl
@[simp] theorem State.wrS_ctxs (core off n v : Nat) : (s.wrS core off n v).ctxs = s.ctxs := rfl
@[simp] theorem State.wrS_cores (core off n v : Nat) : (s.wrS core off n v).cores = s.cores := rfl
@[simp] theorem State.wrS_clusters (core off n v : Nat) : (s.wrS core off n v).clusters = s.clusters := rfl
@[simp] theorem State.wrS_groups (core off n v : Nat) : (s.wrS core off n v).groups = s.groups := rfl
@[simp] theorem State.wrS_parts (core off n v : Nat) : (s.wrS core off n v).parts = s.parts := rfl
@[simp] theorem State.wrS_learn (core off n v : Nat) : (s.wrS core off n v).learn = s.learn := rfl
@[simp] theorem State.wrS_estate (core off n v : Nat) : (s.wrS core off n v).estate = s.estate := rfl
@[simp] theorem State.wrS_walkQueue (core off n v : Nat) : (s.wrS core off n v).walkQueue = s.walkQueue := rfl
@[simp] theorem State.wrS_reqs (core off n v : Nat) : (s.wrS core off n v).reqs = s.reqs := rfl
@[simp] theorem State.wrS_landings (core off n v : Nat) : (s.wrS core off n v).landings = s.landings := rfl
@[simp] theorem State.wrS_hops (core off n v : Nat) : (s.wrS core off n v).hops = s.hops := rfl
@[simp] theorem State.wrS_slept (core off n v : Nat) : (s.wrS core off n v).slept = s.slept := rfl
@[simp] theorem State.wrS_cycles (core off n v : Nat) : (s.wrS core off n v).cycles = s.cycles := rfl
@[simp] theorem State.wrS_flights (core off n v : Nat) : (s.wrS core off n v).flights = s.flights := rfl
@[simp] theorem State.wrS_links (core off n v : Nat) : (s.wrS core off n v).links = s.links := rfl
@[simp] theorem State.wrS_reductions (core off n v : Nat) : (s.wrS core off n v).reductions = s.reductions := rfl
@[simp] theorem State.wrS_pipelines (core off n v : Nat) : (s.wrS core off n v).pipelines = s.pipelines := rfl
@[simp] theorem State.wrS_planes (core off n v : Nat) : (s.wrS core off n v).planes = s.planes := rfl
@[simp] theorem State.wrS_hostOut (core off n v : Nat) : (s.wrS core off n v).hostOut = s.hostOut := rfl
@[simp] theorem State.wrS_boot (core off n v : Nat) : (s.wrS core off n v).boot = s.boot := rfl
@[simp] theorem State.wrS_powered (core off n v : Nat) : (s.wrS core off n v).powered = s.powered := rfl
@[simp] theorem State.wrS_time (core off n v : Nat) : (s.wrS core off n v).time = s.time := rfl
@[simp] theorem State.wrS_uid (core off n v : Nat) : (s.wrS core off n v).uid = s.uid := rfl
@[simp] theorem State.wrS_cur (core off n v : Nat) : (s.wrS core off n v).cur = s.cur := rfl
@[simp] theorem State.wrS_agenda (core off n v : Nat) : (s.wrS core off n v).agenda = s.agenda := rfl
@[simp] theorem State.wrS_devNum (core off n v : Nat) : (s.wrS core off n v).devNum = s.devNum := rfl

/-! ### setW -/

@[simp] theorem State.setW_hbm (i : BitVec 4) (v : Word) : (s.setW i v).hbm = s.hbm := rfl
@[simp] theorem State.setW_tags (i : BitVec 4) (v : Word) : (s.setW i v).tags = s.tags := rfl
@[simp] theorem State.setW_badSpad (i : BitVec 4) (v : Word) : (s.setW i v).badSpad = s.badSpad := rfl
@[simp] theorem State.setW_badHbm (i : BitVec 4) (v : Word) : (s.setW i v).badHbm = s.badHbm := rfl
@[simp] theorem State.setW_softSpad (i : BitVec 4) (v : Word) : (s.setW i v).softSpad = s.softSpad := rfl
@[simp] theorem State.setW_ctxs (i : BitVec 4) (v : Word) : (s.setW i v).ctxs = s.ctxs := rfl
@[simp] theorem State.setW_cores (i : BitVec 4) (v : Word) : (s.setW i v).cores = s.cores := rfl
@[simp] theorem State.setW_clusters (i : BitVec 4) (v : Word) : (s.setW i v).clusters = s.clusters := rfl
@[simp] theorem State.setW_groups (i : BitVec 4) (v : Word) : (s.setW i v).groups = s.groups := rfl
@[simp] theorem State.setW_parts (i : BitVec 4) (v : Word) : (s.setW i v).parts = s.parts := rfl
@[simp] theorem State.setW_learn (i : BitVec 4) (v : Word) : (s.setW i v).learn = s.learn := rfl
@[simp] theorem State.setW_estate (i : BitVec 4) (v : Word) : (s.setW i v).estate = s.estate := rfl
@[simp] theorem State.setW_walkQueue (i : BitVec 4) (v : Word) : (s.setW i v).walkQueue = s.walkQueue := rfl
@[simp] theorem State.setW_reqs (i : BitVec 4) (v : Word) : (s.setW i v).reqs = s.reqs := rfl
@[simp] theorem State.setW_landings (i : BitVec 4) (v : Word) : (s.setW i v).landings = s.landings := rfl
@[simp] theorem State.setW_hops (i : BitVec 4) (v : Word) : (s.setW i v).hops = s.hops := rfl
@[simp] theorem State.setW_slept (i : BitVec 4) (v : Word) : (s.setW i v).slept = s.slept := rfl
@[simp] theorem State.setW_cycles (i : BitVec 4) (v : Word) : (s.setW i v).cycles = s.cycles := rfl
@[simp] theorem State.setW_flights (i : BitVec 4) (v : Word) : (s.setW i v).flights = s.flights := rfl
@[simp] theorem State.setW_links (i : BitVec 4) (v : Word) : (s.setW i v).links = s.links := rfl
@[simp] theorem State.setW_reductions (i : BitVec 4) (v : Word) : (s.setW i v).reductions = s.reductions := rfl
@[simp] theorem State.setW_pipelines (i : BitVec 4) (v : Word) : (s.setW i v).pipelines = s.pipelines := rfl
@[simp] theorem State.setW_planes (i : BitVec 4) (v : Word) : (s.setW i v).planes = s.planes := rfl
@[simp] theorem State.setW_hostOut (i : BitVec 4) (v : Word) : (s.setW i v).hostOut = s.hostOut := rfl
@[simp] theorem State.setW_boot (i : BitVec 4) (v : Word) : (s.setW i v).boot = s.boot := rfl
@[simp] theorem State.setW_powered (i : BitVec 4) (v : Word) : (s.setW i v).powered = s.powered := rfl
@[simp] theorem State.setW_time (i : BitVec 4) (v : Word) : (s.setW i v).time = s.time := rfl
@[simp] theorem State.setW_uid (i : BitVec 4) (v : Word) : (s.setW i v).uid = s.uid := rfl
@[simp] theorem State.setW_cur (i : BitVec 4) (v : Word) : (s.setW i v).cur = s.cur := rfl
@[simp] theorem State.setW_agenda (i : BitVec 4) (v : Word) : (s.setW i v).agenda = s.agenda := rfl
@[simp] theorem State.setW_devNum (i : BitVec 4) (v : Word) : (s.setW i v).devNum = s.devNum := rfl

/-! ### wrH -/

@[simp] theorem State.wrH_spad (pa n v : Nat) : (s.wrH pa n v).spad = s.spad := rfl
@[simp] theorem State.wrH_tags (pa n v : Nat) : (s.wrH pa n v).tags = s.tags := rfl
@[simp] theorem State.wrH_dirty (pa n v : Nat) : (s.wrH pa n v).dirty = s.dirty := rfl
@[simp] theorem State.wrH_badSpad (pa n v : Nat) : (s.wrH pa n v).badSpad = s.badSpad := rfl
@[simp] theorem State.wrH_badHbm (pa n v : Nat) : (s.wrH pa n v).badHbm = s.badHbm := rfl
@[simp] theorem State.wrH_softSpad (pa n v : Nat) : (s.wrH pa n v).softSpad = s.softSpad := rfl
@[simp] theorem State.wrH_ctxs (pa n v : Nat) : (s.wrH pa n v).ctxs = s.ctxs := rfl
@[simp] theorem State.wrH_cores (pa n v : Nat) : (s.wrH pa n v).cores = s.cores := rfl
@[simp] theorem State.wrH_clusters (pa n v : Nat) : (s.wrH pa n v).clusters = s.clusters := rfl
@[simp] theorem State.wrH_groups (pa n v : Nat) : (s.wrH pa n v).groups = s.groups := rfl
@[simp] theorem State.wrH_parts (pa n v : Nat) : (s.wrH pa n v).parts = s.parts := rfl
@[simp] theorem State.wrH_learn (pa n v : Nat) : (s.wrH pa n v).learn = s.learn := rfl
@[simp] theorem State.wrH_estate (pa n v : Nat) : (s.wrH pa n v).estate = s.estate := rfl
@[simp] theorem State.wrH_walkQueue (pa n v : Nat) : (s.wrH pa n v).walkQueue = s.walkQueue := rfl
@[simp] theorem State.wrH_reqs (pa n v : Nat) : (s.wrH pa n v).reqs = s.reqs := rfl
@[simp] theorem State.wrH_landings (pa n v : Nat) : (s.wrH pa n v).landings = s.landings := rfl
@[simp] theorem State.wrH_hops (pa n v : Nat) : (s.wrH pa n v).hops = s.hops := rfl
@[simp] theorem State.wrH_slept (pa n v : Nat) : (s.wrH pa n v).slept = s.slept := rfl
@[simp] theorem State.wrH_cycles (pa n v : Nat) : (s.wrH pa n v).cycles = s.cycles := rfl
@[simp] theorem State.wrH_flights (pa n v : Nat) : (s.wrH pa n v).flights = s.flights := rfl
@[simp] theorem State.wrH_links (pa n v : Nat) : (s.wrH pa n v).links = s.links := rfl
@[simp] theorem State.wrH_reductions (pa n v : Nat) : (s.wrH pa n v).reductions = s.reductions := rfl
@[simp] theorem State.wrH_pipelines (pa n v : Nat) : (s.wrH pa n v).pipelines = s.pipelines := rfl
@[simp] theorem State.wrH_planes (pa n v : Nat) : (s.wrH pa n v).planes = s.planes := rfl
@[simp] theorem State.wrH_hostOut (pa n v : Nat) : (s.wrH pa n v).hostOut = s.hostOut := rfl
@[simp] theorem State.wrH_boot (pa n v : Nat) : (s.wrH pa n v).boot = s.boot := rfl
@[simp] theorem State.wrH_powered (pa n v : Nat) : (s.wrH pa n v).powered = s.powered := rfl
@[simp] theorem State.wrH_time (pa n v : Nat) : (s.wrH pa n v).time = s.time := rfl
@[simp] theorem State.wrH_uid (pa n v : Nat) : (s.wrH pa n v).uid = s.uid := rfl
@[simp] theorem State.wrH_cur (pa n v : Nat) : (s.wrH pa n v).cur = s.cur := rfl
@[simp] theorem State.wrH_agenda (pa n v : Nat) : (s.wrH pa n v).agenda = s.agenda := rfl
@[simp] theorem State.wrH_devNum (pa n v : Nat) : (s.wrH pa n v).devNum = s.devNum := rfl

/-! ### setTag -/

@[simp] theorem State.setTag_spad (core off : Nat) (f : Bool) : (s.setTag core off f).spad = s.spad := rfl
@[simp] theorem State.setTag_hbm (core off : Nat) (f : Bool) : (s.setTag core off f).hbm = s.hbm := rfl
@[simp] theorem State.setTag_dirty (core off : Nat) (f : Bool) : (s.setTag core off f).dirty = s.dirty := rfl
@[simp] theorem State.setTag_badSpad (core off : Nat) (f : Bool) : (s.setTag core off f).badSpad = s.badSpad := rfl
@[simp] theorem State.setTag_badHbm (core off : Nat) (f : Bool) : (s.setTag core off f).badHbm = s.badHbm := rfl
@[simp] theorem State.setTag_softSpad (core off : Nat) (f : Bool) : (s.setTag core off f).softSpad = s.softSpad := rfl
@[simp] theorem State.setTag_ctxs (core off : Nat) (f : Bool) : (s.setTag core off f).ctxs = s.ctxs := rfl
@[simp] theorem State.setTag_cores (core off : Nat) (f : Bool) : (s.setTag core off f).cores = s.cores := rfl
@[simp] theorem State.setTag_clusters (core off : Nat) (f : Bool) : (s.setTag core off f).clusters = s.clusters := rfl
@[simp] theorem State.setTag_groups (core off : Nat) (f : Bool) : (s.setTag core off f).groups = s.groups := rfl
@[simp] theorem State.setTag_parts (core off : Nat) (f : Bool) : (s.setTag core off f).parts = s.parts := rfl
@[simp] theorem State.setTag_learn (core off : Nat) (f : Bool) : (s.setTag core off f).learn = s.learn := rfl
@[simp] theorem State.setTag_estate (core off : Nat) (f : Bool) : (s.setTag core off f).estate = s.estate := rfl
@[simp] theorem State.setTag_walkQueue (core off : Nat) (f : Bool) : (s.setTag core off f).walkQueue = s.walkQueue := rfl
@[simp] theorem State.setTag_reqs (core off : Nat) (f : Bool) : (s.setTag core off f).reqs = s.reqs := rfl
@[simp] theorem State.setTag_landings (core off : Nat) (f : Bool) : (s.setTag core off f).landings = s.landings := rfl
@[simp] theorem State.setTag_hops (core off : Nat) (f : Bool) : (s.setTag core off f).hops = s.hops := rfl
@[simp] theorem State.setTag_slept (core off : Nat) (f : Bool) : (s.setTag core off f).slept = s.slept := rfl
@[simp] theorem State.setTag_cycles (core off : Nat) (f : Bool) : (s.setTag core off f).cycles = s.cycles := rfl
@[simp] theorem State.setTag_flights (core off : Nat) (f : Bool) : (s.setTag core off f).flights = s.flights := rfl
@[simp] theorem State.setTag_links (core off : Nat) (f : Bool) : (s.setTag core off f).links = s.links := rfl
@[simp] theorem State.setTag_reductions (core off : Nat) (f : Bool) : (s.setTag core off f).reductions = s.reductions := rfl
@[simp] theorem State.setTag_pipelines (core off : Nat) (f : Bool) : (s.setTag core off f).pipelines = s.pipelines := rfl
@[simp] theorem State.setTag_planes (core off : Nat) (f : Bool) : (s.setTag core off f).planes = s.planes := rfl
@[simp] theorem State.setTag_hostOut (core off : Nat) (f : Bool) : (s.setTag core off f).hostOut = s.hostOut := rfl
@[simp] theorem State.setTag_boot (core off : Nat) (f : Bool) : (s.setTag core off f).boot = s.boot := rfl
@[simp] theorem State.setTag_powered (core off : Nat) (f : Bool) : (s.setTag core off f).powered = s.powered := rfl
@[simp] theorem State.setTag_time (core off : Nat) (f : Bool) : (s.setTag core off f).time = s.time := rfl
@[simp] theorem State.setTag_uid (core off : Nat) (f : Bool) : (s.setTag core off f).uid = s.uid := rfl
@[simp] theorem State.setTag_cur (core off : Nat) (f : Bool) : (s.setTag core off f).cur = s.cur := rfl
@[simp] theorem State.setTag_agenda (core off : Nat) (f : Bool) : (s.setTag core off f).agenda = s.agenda := rfl
@[simp] theorem State.setTag_devNum (core off : Nat) (f : Bool) : (s.setTag core off f).devNum = s.devNum := rfl

/-! ### fly -/

@[simp] theorem State.fly_spad (c : Cargo) : (s.fly c).spad = s.spad := rfl
@[simp] theorem State.fly_hbm (c : Cargo) : (s.fly c).hbm = s.hbm := rfl
@[simp] theorem State.fly_tags (c : Cargo) : (s.fly c).tags = s.tags := rfl
@[simp] theorem State.fly_dirty (c : Cargo) : (s.fly c).dirty = s.dirty := rfl
@[simp] theorem State.fly_badSpad (c : Cargo) : (s.fly c).badSpad = s.badSpad := rfl
@[simp] theorem State.fly_badHbm (c : Cargo) : (s.fly c).badHbm = s.badHbm := rfl
@[simp] theorem State.fly_softSpad (c : Cargo) : (s.fly c).softSpad = s.softSpad := rfl
@[simp] theorem State.fly_ctxs (c : Cargo) : (s.fly c).ctxs = s.ctxs := rfl
@[simp] theorem State.fly_cores (c : Cargo) : (s.fly c).cores = s.cores := rfl
@[simp] theorem State.fly_clusters (c : Cargo) : (s.fly c).clusters = s.clusters := rfl
@[simp] theorem State.fly_groups (c : Cargo) : (s.fly c).groups = s.groups := rfl
@[simp] theorem State.fly_parts (c : Cargo) : (s.fly c).parts = s.parts := rfl
@[simp] theorem State.fly_learn (c : Cargo) : (s.fly c).learn = s.learn := rfl
@[simp] theorem State.fly_estate (c : Cargo) : (s.fly c).estate = s.estate := rfl
@[simp] theorem State.fly_walkQueue (c : Cargo) : (s.fly c).walkQueue = s.walkQueue := rfl
@[simp] theorem State.fly_reqs (c : Cargo) : (s.fly c).reqs = s.reqs := rfl
@[simp] theorem State.fly_landings (c : Cargo) : (s.fly c).landings = s.landings := rfl
@[simp] theorem State.fly_slept (c : Cargo) : (s.fly c).slept = s.slept := rfl
@[simp] theorem State.fly_cycles (c : Cargo) : (s.fly c).cycles = s.cycles := rfl
@[simp] theorem State.fly_links (c : Cargo) : (s.fly c).links = s.links := rfl
@[simp] theorem State.fly_reductions (c : Cargo) : (s.fly c).reductions = s.reductions := rfl
@[simp] theorem State.fly_pipelines (c : Cargo) : (s.fly c).pipelines = s.pipelines := rfl
@[simp] theorem State.fly_planes (c : Cargo) : (s.fly c).planes = s.planes := rfl
@[simp] theorem State.fly_hostOut (c : Cargo) : (s.fly c).hostOut = s.hostOut := rfl
@[simp] theorem State.fly_boot (c : Cargo) : (s.fly c).boot = s.boot := rfl
@[simp] theorem State.fly_powered (c : Cargo) : (s.fly c).powered = s.powered := rfl
@[simp] theorem State.fly_time (c : Cargo) : (s.fly c).time = s.time := rfl
@[simp] theorem State.fly_cur (c : Cargo) : (s.fly c).cur = s.cur := rfl
@[simp] theorem State.fly_agenda (c : Cargo) : (s.fly c).agenda = s.agenda := rfl
@[simp] theorem State.fly_devNum (c : Cargo) : (s.fly c).devNum = s.devNum := rfl

/-! ### land -/

@[simp] theorem State.land_spad (id : Nat) : (s.land id).spad = s.spad := rfl
@[simp] theorem State.land_hbm (id : Nat) : (s.land id).hbm = s.hbm := rfl
@[simp] theorem State.land_tags (id : Nat) : (s.land id).tags = s.tags := rfl
@[simp] theorem State.land_dirty (id : Nat) : (s.land id).dirty = s.dirty := rfl
@[simp] theorem State.land_badSpad (id : Nat) : (s.land id).badSpad = s.badSpad := rfl
@[simp] theorem State.land_badHbm (id : Nat) : (s.land id).badHbm = s.badHbm := rfl
@[simp] theorem State.land_softSpad (id : Nat) : (s.land id).softSpad = s.softSpad := rfl
@[simp] theorem State.land_ctxs (id : Nat) : (s.land id).ctxs = s.ctxs := rfl
@[simp] theorem State.land_cores (id : Nat) : (s.land id).cores = s.cores := rfl
@[simp] theorem State.land_clusters (id : Nat) : (s.land id).clusters = s.clusters := rfl
@[simp] theorem State.land_groups (id : Nat) : (s.land id).groups = s.groups := rfl
@[simp] theorem State.land_parts (id : Nat) : (s.land id).parts = s.parts := rfl
@[simp] theorem State.land_learn (id : Nat) : (s.land id).learn = s.learn := rfl
@[simp] theorem State.land_estate (id : Nat) : (s.land id).estate = s.estate := rfl
@[simp] theorem State.land_walkQueue (id : Nat) : (s.land id).walkQueue = s.walkQueue := rfl
@[simp] theorem State.land_reqs (id : Nat) : (s.land id).reqs = s.reqs := rfl
@[simp] theorem State.land_landings (id : Nat) : (s.land id).landings = s.landings := rfl
@[simp] theorem State.land_hops (id : Nat) : (s.land id).hops = s.hops := rfl
@[simp] theorem State.land_cycles (id : Nat) : (s.land id).cycles = s.cycles := rfl
@[simp] theorem State.land_links (id : Nat) : (s.land id).links = s.links := rfl
@[simp] theorem State.land_reductions (id : Nat) : (s.land id).reductions = s.reductions := rfl
@[simp] theorem State.land_pipelines (id : Nat) : (s.land id).pipelines = s.pipelines := rfl
@[simp] theorem State.land_planes (id : Nat) : (s.land id).planes = s.planes := rfl
@[simp] theorem State.land_hostOut (id : Nat) : (s.land id).hostOut = s.hostOut := rfl
@[simp] theorem State.land_boot (id : Nat) : (s.land id).boot = s.boot := rfl
@[simp] theorem State.land_powered (id : Nat) : (s.land id).powered = s.powered := rfl
@[simp] theorem State.land_time (id : Nat) : (s.land id).time = s.time := rfl
@[simp] theorem State.land_uid (id : Nat) : (s.land id).uid = s.uid := rfl
@[simp] theorem State.land_cur (id : Nat) : (s.land id).cur = s.cur := rfl
@[simp] theorem State.land_agenda (id : Nat) : (s.land id).agenda = s.agenda := rfl
@[simp] theorem State.land_devNum (id : Nat) : (s.land id).devNum = s.devNum := rfl

/-! ### refly -/

@[simp] theorem State.refly_spad (id : Nat) (c : Cargo) : (s.refly id c).spad = s.spad := rfl
@[simp] theorem State.refly_hbm (id : Nat) (c : Cargo) : (s.refly id c).hbm = s.hbm := rfl
@[simp] theorem State.refly_tags (id : Nat) (c : Cargo) : (s.refly id c).tags = s.tags := rfl
@[simp] theorem State.refly_dirty (id : Nat) (c : Cargo) : (s.refly id c).dirty = s.dirty := rfl
@[simp] theorem State.refly_badSpad (id : Nat) (c : Cargo) : (s.refly id c).badSpad = s.badSpad := rfl
@[simp] theorem State.refly_badHbm (id : Nat) (c : Cargo) : (s.refly id c).badHbm = s.badHbm := rfl
@[simp] theorem State.refly_softSpad (id : Nat) (c : Cargo) : (s.refly id c).softSpad = s.softSpad := rfl
@[simp] theorem State.refly_ctxs (id : Nat) (c : Cargo) : (s.refly id c).ctxs = s.ctxs := rfl
@[simp] theorem State.refly_cores (id : Nat) (c : Cargo) : (s.refly id c).cores = s.cores := rfl
@[simp] theorem State.refly_clusters (id : Nat) (c : Cargo) : (s.refly id c).clusters = s.clusters := rfl
@[simp] theorem State.refly_groups (id : Nat) (c : Cargo) : (s.refly id c).groups = s.groups := rfl
@[simp] theorem State.refly_parts (id : Nat) (c : Cargo) : (s.refly id c).parts = s.parts := rfl
@[simp] theorem State.refly_learn (id : Nat) (c : Cargo) : (s.refly id c).learn = s.learn := rfl
@[simp] theorem State.refly_estate (id : Nat) (c : Cargo) : (s.refly id c).estate = s.estate := rfl
@[simp] theorem State.refly_walkQueue (id : Nat) (c : Cargo) : (s.refly id c).walkQueue = s.walkQueue := rfl
@[simp] theorem State.refly_reqs (id : Nat) (c : Cargo) : (s.refly id c).reqs = s.reqs := rfl
@[simp] theorem State.refly_landings (id : Nat) (c : Cargo) : (s.refly id c).landings = s.landings := rfl
@[simp] theorem State.refly_hops (id : Nat) (c : Cargo) : (s.refly id c).hops = s.hops := rfl
@[simp] theorem State.refly_slept (id : Nat) (c : Cargo) : (s.refly id c).slept = s.slept := rfl
@[simp] theorem State.refly_cycles (id : Nat) (c : Cargo) : (s.refly id c).cycles = s.cycles := rfl
@[simp] theorem State.refly_links (id : Nat) (c : Cargo) : (s.refly id c).links = s.links := rfl
@[simp] theorem State.refly_reductions (id : Nat) (c : Cargo) : (s.refly id c).reductions = s.reductions := rfl
@[simp] theorem State.refly_pipelines (id : Nat) (c : Cargo) : (s.refly id c).pipelines = s.pipelines := rfl
@[simp] theorem State.refly_planes (id : Nat) (c : Cargo) : (s.refly id c).planes = s.planes := rfl
@[simp] theorem State.refly_hostOut (id : Nat) (c : Cargo) : (s.refly id c).hostOut = s.hostOut := rfl
@[simp] theorem State.refly_boot (id : Nat) (c : Cargo) : (s.refly id c).boot = s.boot := rfl
@[simp] theorem State.refly_powered (id : Nat) (c : Cargo) : (s.refly id c).powered = s.powered := rfl
@[simp] theorem State.refly_time (id : Nat) (c : Cargo) : (s.refly id c).time = s.time := rfl
@[simp] theorem State.refly_uid (id : Nat) (c : Cargo) : (s.refly id c).uid = s.uid := rfl
@[simp] theorem State.refly_cur (id : Nat) (c : Cargo) : (s.refly id c).cur = s.cur := rfl
@[simp] theorem State.refly_agenda (id : Nat) (c : Cargo) : (s.refly id c).agenda = s.agenda := rfl
@[simp] theorem State.refly_devNum (id : Nat) (c : Cargo) : (s.refly id c).devNum = s.devNum := rfl

/-! ### setReq -/

@[simp] theorem State.setReq_spad (r : Req) : (s.setReq r).spad = s.spad := rfl
@[simp] theorem State.setReq_hbm (r : Req) : (s.setReq r).hbm = s.hbm := rfl
@[simp] theorem State.setReq_tags (r : Req) : (s.setReq r).tags = s.tags := rfl
@[simp] theorem State.setReq_dirty (r : Req) : (s.setReq r).dirty = s.dirty := rfl
@[simp] theorem State.setReq_badSpad (r : Req) : (s.setReq r).badSpad = s.badSpad := rfl
@[simp] theorem State.setReq_badHbm (r : Req) : (s.setReq r).badHbm = s.badHbm := rfl
@[simp] theorem State.setReq_softSpad (r : Req) : (s.setReq r).softSpad = s.softSpad := rfl
@[simp] theorem State.setReq_ctxs (r : Req) : (s.setReq r).ctxs = s.ctxs := rfl
@[simp] theorem State.setReq_cores (r : Req) : (s.setReq r).cores = s.cores := rfl
@[simp] theorem State.setReq_clusters (r : Req) : (s.setReq r).clusters = s.clusters := rfl
@[simp] theorem State.setReq_groups (r : Req) : (s.setReq r).groups = s.groups := rfl
@[simp] theorem State.setReq_parts (r : Req) : (s.setReq r).parts = s.parts := rfl
@[simp] theorem State.setReq_learn (r : Req) : (s.setReq r).learn = s.learn := rfl
@[simp] theorem State.setReq_estate (r : Req) : (s.setReq r).estate = s.estate := rfl
@[simp] theorem State.setReq_walkQueue (r : Req) : (s.setReq r).walkQueue = s.walkQueue := rfl
@[simp] theorem State.setReq_landings (r : Req) : (s.setReq r).landings = s.landings := rfl
@[simp] theorem State.setReq_hops (r : Req) : (s.setReq r).hops = s.hops := rfl
@[simp] theorem State.setReq_slept (r : Req) : (s.setReq r).slept = s.slept := rfl
@[simp] theorem State.setReq_cycles (r : Req) : (s.setReq r).cycles = s.cycles := rfl
@[simp] theorem State.setReq_flights (r : Req) : (s.setReq r).flights = s.flights := rfl
@[simp] theorem State.setReq_links (r : Req) : (s.setReq r).links = s.links := rfl
@[simp] theorem State.setReq_reductions (r : Req) : (s.setReq r).reductions = s.reductions := rfl
@[simp] theorem State.setReq_pipelines (r : Req) : (s.setReq r).pipelines = s.pipelines := rfl
@[simp] theorem State.setReq_planes (r : Req) : (s.setReq r).planes = s.planes := rfl
@[simp] theorem State.setReq_hostOut (r : Req) : (s.setReq r).hostOut = s.hostOut := rfl
@[simp] theorem State.setReq_boot (r : Req) : (s.setReq r).boot = s.boot := rfl
@[simp] theorem State.setReq_powered (r : Req) : (s.setReq r).powered = s.powered := rfl
@[simp] theorem State.setReq_time (r : Req) : (s.setReq r).time = s.time := rfl
@[simp] theorem State.setReq_uid (r : Req) : (s.setReq r).uid = s.uid := rfl
@[simp] theorem State.setReq_cur (r : Req) : (s.setReq r).cur = s.cur := rfl
@[simp] theorem State.setReq_agenda (r : Req) : (s.setReq r).agenda = s.agenda := rfl
@[simp] theorem State.setReq_devNum (r : Req) : (s.setReq r).devNum = s.devNum := rfl

/-! ### setLink -/

@[simp] theorem State.setLink_spad (l : Nat) (x : Link) : (s.setLink l x).spad = s.spad := rfl
@[simp] theorem State.setLink_hbm (l : Nat) (x : Link) : (s.setLink l x).hbm = s.hbm := rfl
@[simp] theorem State.setLink_tags (l : Nat) (x : Link) : (s.setLink l x).tags = s.tags := rfl
@[simp] theorem State.setLink_dirty (l : Nat) (x : Link) : (s.setLink l x).dirty = s.dirty := rfl
@[simp] theorem State.setLink_badSpad (l : Nat) (x : Link) : (s.setLink l x).badSpad = s.badSpad := rfl
@[simp] theorem State.setLink_badHbm (l : Nat) (x : Link) : (s.setLink l x).badHbm = s.badHbm := rfl
@[simp] theorem State.setLink_softSpad (l : Nat) (x : Link) : (s.setLink l x).softSpad = s.softSpad := rfl
@[simp] theorem State.setLink_ctxs (l : Nat) (x : Link) : (s.setLink l x).ctxs = s.ctxs := rfl
@[simp] theorem State.setLink_cores (l : Nat) (x : Link) : (s.setLink l x).cores = s.cores := rfl
@[simp] theorem State.setLink_clusters (l : Nat) (x : Link) : (s.setLink l x).clusters = s.clusters := rfl
@[simp] theorem State.setLink_groups (l : Nat) (x : Link) : (s.setLink l x).groups = s.groups := rfl
@[simp] theorem State.setLink_parts (l : Nat) (x : Link) : (s.setLink l x).parts = s.parts := rfl
@[simp] theorem State.setLink_learn (l : Nat) (x : Link) : (s.setLink l x).learn = s.learn := rfl
@[simp] theorem State.setLink_estate (l : Nat) (x : Link) : (s.setLink l x).estate = s.estate := rfl
@[simp] theorem State.setLink_walkQueue (l : Nat) (x : Link) : (s.setLink l x).walkQueue = s.walkQueue := rfl
@[simp] theorem State.setLink_reqs (l : Nat) (x : Link) : (s.setLink l x).reqs = s.reqs := rfl
@[simp] theorem State.setLink_landings (l : Nat) (x : Link) : (s.setLink l x).landings = s.landings := rfl
@[simp] theorem State.setLink_hops (l : Nat) (x : Link) : (s.setLink l x).hops = s.hops := rfl
@[simp] theorem State.setLink_slept (l : Nat) (x : Link) : (s.setLink l x).slept = s.slept := rfl
@[simp] theorem State.setLink_cycles (l : Nat) (x : Link) : (s.setLink l x).cycles = s.cycles := rfl
@[simp] theorem State.setLink_flights (l : Nat) (x : Link) : (s.setLink l x).flights = s.flights := rfl
@[simp] theorem State.setLink_reductions (l : Nat) (x : Link) : (s.setLink l x).reductions = s.reductions := rfl
@[simp] theorem State.setLink_pipelines (l : Nat) (x : Link) : (s.setLink l x).pipelines = s.pipelines := rfl
@[simp] theorem State.setLink_planes (l : Nat) (x : Link) : (s.setLink l x).planes = s.planes := rfl
@[simp] theorem State.setLink_hostOut (l : Nat) (x : Link) : (s.setLink l x).hostOut = s.hostOut := rfl
@[simp] theorem State.setLink_boot (l : Nat) (x : Link) : (s.setLink l x).boot = s.boot := rfl
@[simp] theorem State.setLink_powered (l : Nat) (x : Link) : (s.setLink l x).powered = s.powered := rfl
@[simp] theorem State.setLink_time (l : Nat) (x : Link) : (s.setLink l x).time = s.time := rfl
@[simp] theorem State.setLink_uid (l : Nat) (x : Link) : (s.setLink l x).uid = s.uid := rfl
@[simp] theorem State.setLink_cur (l : Nat) (x : Link) : (s.setLink l x).cur = s.cur := rfl
@[simp] theorem State.setLink_agenda (l : Nat) (x : Link) : (s.setLink l x).agenda = s.agenda := rfl
@[simp] theorem State.setLink_devNum (l : Nat) (x : Link) : (s.setLink l x).devNum = s.devNum := rfl

/-! ### setReduction -/

@[simp] theorem State.setReduction_spad (r : Reduction) : (s.setReduction r).spad = s.spad := rfl
@[simp] theorem State.setReduction_hbm (r : Reduction) : (s.setReduction r).hbm = s.hbm := rfl
@[simp] theorem State.setReduction_tags (r : Reduction) : (s.setReduction r).tags = s.tags := rfl
@[simp] theorem State.setReduction_dirty (r : Reduction) : (s.setReduction r).dirty = s.dirty := rfl
@[simp] theorem State.setReduction_badSpad (r : Reduction) : (s.setReduction r).badSpad = s.badSpad := rfl
@[simp] theorem State.setReduction_badHbm (r : Reduction) : (s.setReduction r).badHbm = s.badHbm := rfl
@[simp] theorem State.setReduction_softSpad (r : Reduction) : (s.setReduction r).softSpad = s.softSpad := rfl
@[simp] theorem State.setReduction_ctxs (r : Reduction) : (s.setReduction r).ctxs = s.ctxs := rfl
@[simp] theorem State.setReduction_cores (r : Reduction) : (s.setReduction r).cores = s.cores := rfl
@[simp] theorem State.setReduction_clusters (r : Reduction) : (s.setReduction r).clusters = s.clusters := rfl
@[simp] theorem State.setReduction_groups (r : Reduction) : (s.setReduction r).groups = s.groups := rfl
@[simp] theorem State.setReduction_parts (r : Reduction) : (s.setReduction r).parts = s.parts := rfl
@[simp] theorem State.setReduction_learn (r : Reduction) : (s.setReduction r).learn = s.learn := rfl
@[simp] theorem State.setReduction_estate (r : Reduction) : (s.setReduction r).estate = s.estate := rfl
@[simp] theorem State.setReduction_walkQueue (r : Reduction) : (s.setReduction r).walkQueue = s.walkQueue := rfl
@[simp] theorem State.setReduction_reqs (r : Reduction) : (s.setReduction r).reqs = s.reqs := rfl
@[simp] theorem State.setReduction_landings (r : Reduction) : (s.setReduction r).landings = s.landings := rfl
@[simp] theorem State.setReduction_hops (r : Reduction) : (s.setReduction r).hops = s.hops := rfl
@[simp] theorem State.setReduction_slept (r : Reduction) : (s.setReduction r).slept = s.slept := rfl
@[simp] theorem State.setReduction_cycles (r : Reduction) : (s.setReduction r).cycles = s.cycles := rfl
@[simp] theorem State.setReduction_flights (r : Reduction) : (s.setReduction r).flights = s.flights := rfl
@[simp] theorem State.setReduction_links (r : Reduction) : (s.setReduction r).links = s.links := rfl
@[simp] theorem State.setReduction_pipelines (r : Reduction) : (s.setReduction r).pipelines = s.pipelines := rfl
@[simp] theorem State.setReduction_planes (r : Reduction) : (s.setReduction r).planes = s.planes := rfl
@[simp] theorem State.setReduction_hostOut (r : Reduction) : (s.setReduction r).hostOut = s.hostOut := rfl
@[simp] theorem State.setReduction_boot (r : Reduction) : (s.setReduction r).boot = s.boot := rfl
@[simp] theorem State.setReduction_powered (r : Reduction) : (s.setReduction r).powered = s.powered := rfl
@[simp] theorem State.setReduction_time (r : Reduction) : (s.setReduction r).time = s.time := rfl
@[simp] theorem State.setReduction_uid (r : Reduction) : (s.setReduction r).uid = s.uid := rfl
@[simp] theorem State.setReduction_cur (r : Reduction) : (s.setReduction r).cur = s.cur := rfl
@[simp] theorem State.setReduction_agenda (r : Reduction) : (s.setReduction r).agenda = s.agenda := rfl
@[simp] theorem State.setReduction_devNum (r : Reduction) : (s.setReduction r).devNum = s.devNum := rfl

/-! ### setPipe -/

@[simp] theorem State.setPipe_spad (p : Pipeline) : (s.setPipe p).spad = s.spad := rfl
@[simp] theorem State.setPipe_hbm (p : Pipeline) : (s.setPipe p).hbm = s.hbm := rfl
@[simp] theorem State.setPipe_tags (p : Pipeline) : (s.setPipe p).tags = s.tags := rfl
@[simp] theorem State.setPipe_dirty (p : Pipeline) : (s.setPipe p).dirty = s.dirty := rfl
@[simp] theorem State.setPipe_badSpad (p : Pipeline) : (s.setPipe p).badSpad = s.badSpad := rfl
@[simp] theorem State.setPipe_badHbm (p : Pipeline) : (s.setPipe p).badHbm = s.badHbm := rfl
@[simp] theorem State.setPipe_softSpad (p : Pipeline) : (s.setPipe p).softSpad = s.softSpad := rfl
@[simp] theorem State.setPipe_ctxs (p : Pipeline) : (s.setPipe p).ctxs = s.ctxs := rfl
@[simp] theorem State.setPipe_cores (p : Pipeline) : (s.setPipe p).cores = s.cores := rfl
@[simp] theorem State.setPipe_clusters (p : Pipeline) : (s.setPipe p).clusters = s.clusters := rfl
@[simp] theorem State.setPipe_groups (p : Pipeline) : (s.setPipe p).groups = s.groups := rfl
@[simp] theorem State.setPipe_parts (p : Pipeline) : (s.setPipe p).parts = s.parts := rfl
@[simp] theorem State.setPipe_learn (p : Pipeline) : (s.setPipe p).learn = s.learn := rfl
@[simp] theorem State.setPipe_estate (p : Pipeline) : (s.setPipe p).estate = s.estate := rfl
@[simp] theorem State.setPipe_walkQueue (p : Pipeline) : (s.setPipe p).walkQueue = s.walkQueue := rfl
@[simp] theorem State.setPipe_reqs (p : Pipeline) : (s.setPipe p).reqs = s.reqs := rfl
@[simp] theorem State.setPipe_landings (p : Pipeline) : (s.setPipe p).landings = s.landings := rfl
@[simp] theorem State.setPipe_hops (p : Pipeline) : (s.setPipe p).hops = s.hops := rfl
@[simp] theorem State.setPipe_slept (p : Pipeline) : (s.setPipe p).slept = s.slept := rfl
@[simp] theorem State.setPipe_cycles (p : Pipeline) : (s.setPipe p).cycles = s.cycles := rfl
@[simp] theorem State.setPipe_flights (p : Pipeline) : (s.setPipe p).flights = s.flights := rfl
@[simp] theorem State.setPipe_links (p : Pipeline) : (s.setPipe p).links = s.links := rfl
@[simp] theorem State.setPipe_reductions (p : Pipeline) : (s.setPipe p).reductions = s.reductions := rfl
@[simp] theorem State.setPipe_planes (p : Pipeline) : (s.setPipe p).planes = s.planes := rfl
@[simp] theorem State.setPipe_hostOut (p : Pipeline) : (s.setPipe p).hostOut = s.hostOut := rfl
@[simp] theorem State.setPipe_boot (p : Pipeline) : (s.setPipe p).boot = s.boot := rfl
@[simp] theorem State.setPipe_powered (p : Pipeline) : (s.setPipe p).powered = s.powered := rfl
@[simp] theorem State.setPipe_time (p : Pipeline) : (s.setPipe p).time = s.time := rfl
@[simp] theorem State.setPipe_uid (p : Pipeline) : (s.setPipe p).uid = s.uid := rfl
@[simp] theorem State.setPipe_cur (p : Pipeline) : (s.setPipe p).cur = s.cur := rfl
@[simp] theorem State.setPipe_agenda (p : Pipeline) : (s.setPipe p).agenda = s.agenda := rfl
@[simp] theorem State.setPipe_devNum (p : Pipeline) : (s.setPipe p).devNum = s.devNum := rfl

/-! ### tell -/

@[simp] theorem State.tell_spad (v : List Nat) : (s.tell v).spad = s.spad := rfl
@[simp] theorem State.tell_hbm (v : List Nat) : (s.tell v).hbm = s.hbm := rfl
@[simp] theorem State.tell_tags (v : List Nat) : (s.tell v).tags = s.tags := rfl
@[simp] theorem State.tell_dirty (v : List Nat) : (s.tell v).dirty = s.dirty := rfl
@[simp] theorem State.tell_badSpad (v : List Nat) : (s.tell v).badSpad = s.badSpad := rfl
@[simp] theorem State.tell_badHbm (v : List Nat) : (s.tell v).badHbm = s.badHbm := rfl
@[simp] theorem State.tell_softSpad (v : List Nat) : (s.tell v).softSpad = s.softSpad := rfl
@[simp] theorem State.tell_ctxs (v : List Nat) : (s.tell v).ctxs = s.ctxs := rfl
@[simp] theorem State.tell_cores (v : List Nat) : (s.tell v).cores = s.cores := rfl
@[simp] theorem State.tell_clusters (v : List Nat) : (s.tell v).clusters = s.clusters := rfl
@[simp] theorem State.tell_groups (v : List Nat) : (s.tell v).groups = s.groups := rfl
@[simp] theorem State.tell_parts (v : List Nat) : (s.tell v).parts = s.parts := rfl
@[simp] theorem State.tell_learn (v : List Nat) : (s.tell v).learn = s.learn := rfl
@[simp] theorem State.tell_estate (v : List Nat) : (s.tell v).estate = s.estate := rfl
@[simp] theorem State.tell_walkQueue (v : List Nat) : (s.tell v).walkQueue = s.walkQueue := rfl
@[simp] theorem State.tell_reqs (v : List Nat) : (s.tell v).reqs = s.reqs := rfl
@[simp] theorem State.tell_landings (v : List Nat) : (s.tell v).landings = s.landings := rfl
@[simp] theorem State.tell_hops (v : List Nat) : (s.tell v).hops = s.hops := rfl
@[simp] theorem State.tell_slept (v : List Nat) : (s.tell v).slept = s.slept := rfl
@[simp] theorem State.tell_cycles (v : List Nat) : (s.tell v).cycles = s.cycles := rfl
@[simp] theorem State.tell_flights (v : List Nat) : (s.tell v).flights = s.flights := rfl
@[simp] theorem State.tell_links (v : List Nat) : (s.tell v).links = s.links := rfl
@[simp] theorem State.tell_reductions (v : List Nat) : (s.tell v).reductions = s.reductions := rfl
@[simp] theorem State.tell_pipelines (v : List Nat) : (s.tell v).pipelines = s.pipelines := rfl
@[simp] theorem State.tell_planes (v : List Nat) : (s.tell v).planes = s.planes := rfl
@[simp] theorem State.tell_boot (v : List Nat) : (s.tell v).boot = s.boot := rfl
@[simp] theorem State.tell_powered (v : List Nat) : (s.tell v).powered = s.powered := rfl
@[simp] theorem State.tell_time (v : List Nat) : (s.tell v).time = s.time := rfl
@[simp] theorem State.tell_uid (v : List Nat) : (s.tell v).uid = s.uid := rfl
@[simp] theorem State.tell_cur (v : List Nat) : (s.tell v).cur = s.cur := rfl
@[simp] theorem State.tell_agenda (v : List Nat) : (s.tell v).agenda = s.agenda := rfl
@[simp] theorem State.tell_devNum (v : List Nat) : (s.tell v).devNum = s.devNum := rfl

/-! ## What an update puts there -/

@[simp] theorem State.ctx_setCtx_self (cid : Nat) (c : Ctx) : (s.setCtx cid c).ctx cid = c := by simp [State.ctx, State.setCtx]

theorem State.ctx_setCtx_ne {cid j : Nat} (c : Ctx) (h : cid ≠ j) : (s.setCtx cid c).ctx j = s.ctx j := by
  simp [State.ctx, State.setCtx, mgetD_mput_ne _ _ _ h]

@[simp] theorem State.cx_setCx (c : Ctx) : (s.setCx c).cx = c := by simp [State.cx, State.setCx]

theorem State.ctx_setCx_ne {j : Nat} (c : Ctx) (h : s.cur ≠ j) : (s.setCx c).ctx j = s.ctx j := s.ctx_setCtx_ne c h

@[simp] theorem State.setCx_setCx (c d : Ctx) : (s.setCx c).setCx d = s.setCx d := by simp [State.setCx, State.setCtx]

@[simp] theorem State.core_setCore_self (n : Nat) (k : Core) : (s.setCore n k).core n = k := by simp [State.core, State.setCore]

theorem State.core_setCore_ne {n j : Nat} (k : Core) (h : n ≠ j) : (s.setCore n k).core j = s.core j := by
  simp [State.core, State.setCore, mgetD_mput_ne _ _ _ h]

@[simp] theorem State.cluster_setCluster_self (n : Nat) (k : Cluster) : (s.setCluster n k).cluster n = k := by
  simp [State.cluster, State.setCluster]

@[simp] theorem State.link_setLink_self (l : Nat) (x : Link) : (s.setLink l x).link l = x := by simp [State.link, State.setLink]

@[simp] theorem State.grp_setGrp_self (g : Group) : (s.setGrp g).grp g.handle = some g := by simp [State.grp, State.setGrp]

theorem State.grp_handle {h : Nat} {g : Group} (hg : s.grp h = some g) : g.handle = h := by
  unfold State.grp at hg
  split at hg
  · split at hg
    · rename_i hh; simp only [Option.some.injEq] at hg; exact hg ▸ hh
    · cases hg
  · cases hg

@[simp] theorem State.flight_land (id : Nat) : (s.land id).flight id = none := by
  have : pick (fun f : Flight => f.id == id) (s.flights.filter (fun f => f.id != id)) = none :=
    pick_none.2 (fun x hx => by simpa using (List.mem_filter.1 hx).2)
  simp [State.flight, State.land, this]

@[simp] theorem State.full_setTag (core off : Nat) (f : Bool) : (s.setTag core off f).full core off = f := by
  cases f <;> simp [State.full, State.setTag, nmem_nins, nmem_ndel]

/-! ## Derived views that only look at one field -/

@[simp] theorem State.core_setCtx (cid : Nat) (c : Ctx) (k : Nat) : (s.setCtx cid c).core k = s.core k := rfl
@[simp] theorem State.grp_setCtx (cid : Nat) (c : Ctx) (h : Nat) : (s.setCtx cid c).grp h = s.grp h := rfl
@[simp] theorem State.rdS_setCtx (cid : Nat) (c : Ctx) (c' o m : Nat) : (s.setCtx cid c).rdS c' o m = s.rdS c' o m := rfl
@[simp] theorem State.full_setCtx (cid : Nat) (c : Ctx) (c' o : Nat) : (s.setCtx cid c).full c' o = s.full c' o := rfl
@[simp] theorem State.here_setCtx (cid : Nat) (c : Ctx) : (s.setCtx cid c).here = s.here := rfl
@[simp] theorem State.core_setCx (c : Ctx) (k : Nat) : (s.setCx c).core k = s.core k := rfl
@[simp] theorem State.grp_setCx (c : Ctx) (h : Nat) : (s.setCx c).grp h = s.grp h := rfl
@[simp] theorem State.rdS_setCx (c : Ctx) (c' o m : Nat) : (s.setCx c).rdS c' o m = s.rdS c' o m := rfl
@[simp] theorem State.full_setCx (c : Ctx) (c' o : Nat) : (s.setCx c).full c' o = s.full c' o := rfl
@[simp] theorem State.here_setCx (c : Ctx) : (s.setCx c).here = s.here := rfl
@[simp] theorem State.cx_setCore (n : Nat) (k : Core) : (s.setCore n k).cx = s.cx := rfl
@[simp] theorem State.ctx_setCore (n : Nat) (k : Core) (cid : Nat) : (s.setCore n k).ctx cid = s.ctx cid := rfl
@[simp] theorem State.grp_setCore (n : Nat) (k : Core) (h : Nat) : (s.setCore n k).grp h = s.grp h := rfl
@[simp] theorem State.rdS_setCore (n : Nat) (k : Core) (c' o m : Nat) : (s.setCore n k).rdS c' o m = s.rdS c' o m := rfl
@[simp] theorem State.full_setCore (n : Nat) (k : Core) (c' o : Nat) : (s.setCore n k).full c' o = s.full c' o := rfl
@[simp] theorem State.here_setCore (n : Nat) (k : Core) : (s.setCore n k).here = s.here := rfl
@[simp] theorem State.cx_setCluster (n : Nat) (k : Cluster) : (s.setCluster n k).cx = s.cx := rfl
@[simp] theorem State.ctx_setCluster (n : Nat) (k : Cluster) (cid : Nat) : (s.setCluster n k).ctx cid = s.ctx cid := rfl
@[simp] theorem State.core_setCluster (n : Nat) (k : Cluster) (m : Nat) : (s.setCluster n k).core m = s.core m := rfl
@[simp] theorem State.grp_setCluster (n : Nat) (k : Cluster) (h : Nat) : (s.setCluster n k).grp h = s.grp h := rfl
@[simp] theorem State.rdS_setCluster (n : Nat) (k : Cluster) (c' o m : Nat) : (s.setCluster n k).rdS c' o m = s.rdS c' o m := rfl
@[simp] theorem State.full_setCluster (n : Nat) (k : Cluster) (c' o : Nat) : (s.setCluster n k).full c' o = s.full c' o := rfl
@[simp] theorem State.here_setCluster (n : Nat) (k : Cluster) : (s.setCluster n k).here = s.here := rfl
@[simp] theorem State.cx_setGrp (g : Group) : (s.setGrp g).cx = s.cx := rfl
@[simp] theorem State.ctx_setGrp (g : Group) (cid : Nat) : (s.setGrp g).ctx cid = s.ctx cid := rfl
@[simp] theorem State.core_setGrp (g : Group) (k : Nat) : (s.setGrp g).core k = s.core k := rfl
@[simp] theorem State.rdS_setGrp (g : Group) (c' o m : Nat) : (s.setGrp g).rdS c' o m = s.rdS c' o m := rfl
@[simp] theorem State.full_setGrp (g : Group) (c' o : Nat) : (s.setGrp g).full c' o = s.full c' o := rfl
@[simp] theorem State.here_setGrp (g : Group) : (s.setGrp g).here = s.here := rfl
@[simp] theorem State.cx_wrS (core off n v : Nat) : (s.wrS core off n v).cx = s.cx := rfl
@[simp] theorem State.ctx_wrS (core off n v : Nat) (cid : Nat) : (s.wrS core off n v).ctx cid = s.ctx cid := rfl
@[simp] theorem State.core_wrS (core off n v : Nat) (k : Nat) : (s.wrS core off n v).core k = s.core k := rfl
@[simp] theorem State.grp_wrS (core off n v : Nat) (h : Nat) : (s.wrS core off n v).grp h = s.grp h := rfl
@[simp] theorem State.full_wrS (core off n v : Nat) (c' o : Nat) : (s.wrS core off n v).full c' o = s.full c' o := rfl
@[simp] theorem State.here_wrS (core off n v : Nat) : (s.wrS core off n v).here = s.here := rfl
@[simp] theorem State.cx_setW (i : BitVec 4) (v : Word) : (s.setW i v).cx = s.cx := rfl
@[simp] theorem State.ctx_setW (i : BitVec 4) (v : Word) (cid : Nat) : (s.setW i v).ctx cid = s.ctx cid := rfl
@[simp] theorem State.core_setW (i : BitVec 4) (v : Word) (k : Nat) : (s.setW i v).core k = s.core k := rfl
@[simp] theorem State.grp_setW (i : BitVec 4) (v : Word) (h : Nat) : (s.setW i v).grp h = s.grp h := rfl
@[simp] theorem State.full_setW (i : BitVec 4) (v : Word) (c' o : Nat) : (s.setW i v).full c' o = s.full c' o := rfl
@[simp] theorem State.here_setW (i : BitVec 4) (v : Word) : (s.setW i v).here = s.here := rfl
@[simp] theorem State.cx_wrH (pa n v : Nat) : (s.wrH pa n v).cx = s.cx := rfl
@[simp] theorem State.ctx_wrH (pa n v : Nat) (cid : Nat) : (s.wrH pa n v).ctx cid = s.ctx cid := rfl
@[simp] theorem State.core_wrH (pa n v : Nat) (k : Nat) : (s.wrH pa n v).core k = s.core k := rfl
@[simp] theorem State.grp_wrH (pa n v : Nat) (h : Nat) : (s.wrH pa n v).grp h = s.grp h := rfl
@[simp] theorem State.rdS_wrH (pa n v : Nat) (c' o m : Nat) : (s.wrH pa n v).rdS c' o m = s.rdS c' o m := rfl
@[simp] theorem State.full_wrH (pa n v : Nat) (c' o : Nat) : (s.wrH pa n v).full c' o = s.full c' o := rfl
@[simp] theorem State.here_wrH (pa n v : Nat) : (s.wrH pa n v).here = s.here := rfl
@[simp] theorem State.cx_setTag (core off : Nat) (f : Bool) : (s.setTag core off f).cx = s.cx := rfl
@[simp] theorem State.ctx_setTag (core off : Nat) (f : Bool) (cid : Nat) : (s.setTag core off f).ctx cid = s.ctx cid := rfl
@[simp] theorem State.core_setTag (core off : Nat) (f : Bool) (k : Nat) : (s.setTag core off f).core k = s.core k := rfl
@[simp] theorem State.grp_setTag (core off : Nat) (f : Bool) (h : Nat) : (s.setTag core off f).grp h = s.grp h := rfl
@[simp] theorem State.rdS_setTag (core off : Nat) (f : Bool) (c' o m : Nat) : (s.setTag core off f).rdS c' o m = s.rdS c' o m := rfl
@[simp] theorem State.here_setTag (core off : Nat) (f : Bool) : (s.setTag core off f).here = s.here := rfl
@[simp] theorem State.cx_fly (c : Cargo) : (s.fly c).cx = s.cx := rfl
@[simp] theorem State.ctx_fly (c : Cargo) (cid : Nat) : (s.fly c).ctx cid = s.ctx cid := rfl
@[simp] theorem State.core_fly (c : Cargo) (k : Nat) : (s.fly c).core k = s.core k := rfl
@[simp] theorem State.grp_fly (c : Cargo) (h : Nat) : (s.fly c).grp h = s.grp h := rfl
@[simp] theorem State.rdS_fly (c : Cargo) (c' o m : Nat) : (s.fly c).rdS c' o m = s.rdS c' o m := rfl
@[simp] theorem State.full_fly (c : Cargo) (c' o : Nat) : (s.fly c).full c' o = s.full c' o := rfl
@[simp] theorem State.here_fly (c : Cargo) : (s.fly c).here = s.here := rfl
@[simp] theorem State.cx_land (id : Nat) : (s.land id).cx = s.cx := rfl
@[simp] theorem State.ctx_land (id : Nat) (cid : Nat) : (s.land id).ctx cid = s.ctx cid := rfl
@[simp] theorem State.core_land (id : Nat) (k : Nat) : (s.land id).core k = s.core k := rfl
@[simp] theorem State.grp_land (id : Nat) (h : Nat) : (s.land id).grp h = s.grp h := rfl
@[simp] theorem State.rdS_land (id : Nat) (c' o m : Nat) : (s.land id).rdS c' o m = s.rdS c' o m := rfl
@[simp] theorem State.full_land (id : Nat) (c' o : Nat) : (s.land id).full c' o = s.full c' o := rfl
@[simp] theorem State.here_land (id : Nat) : (s.land id).here = s.here := rfl
@[simp] theorem State.cx_refly (id : Nat) (c : Cargo) : (s.refly id c).cx = s.cx := rfl
@[simp] theorem State.ctx_refly (id : Nat) (c : Cargo) (cid : Nat) : (s.refly id c).ctx cid = s.ctx cid := rfl
@[simp] theorem State.core_refly (id : Nat) (c : Cargo) (k : Nat) : (s.refly id c).core k = s.core k := rfl
@[simp] theorem State.grp_refly (id : Nat) (c : Cargo) (h : Nat) : (s.refly id c).grp h = s.grp h := rfl
@[simp] theorem State.rdS_refly (id : Nat) (c : Cargo) (c' o m : Nat) : (s.refly id c).rdS c' o m = s.rdS c' o m := rfl
@[simp] theorem State.full_refly (id : Nat) (c : Cargo) (c' o : Nat) : (s.refly id c).full c' o = s.full c' o := rfl
@[simp] theorem State.here_refly (id : Nat) (c : Cargo) : (s.refly id c).here = s.here := rfl
@[simp] theorem State.cx_setReq (r : Req) : (s.setReq r).cx = s.cx := rfl
@[simp] theorem State.ctx_setReq (r : Req) (cid : Nat) : (s.setReq r).ctx cid = s.ctx cid := rfl
@[simp] theorem State.core_setReq (r : Req) (k : Nat) : (s.setReq r).core k = s.core k := rfl
@[simp] theorem State.grp_setReq (r : Req) (h : Nat) : (s.setReq r).grp h = s.grp h := rfl
@[simp] theorem State.rdS_setReq (r : Req) (c' o m : Nat) : (s.setReq r).rdS c' o m = s.rdS c' o m := rfl
@[simp] theorem State.full_setReq (r : Req) (c' o : Nat) : (s.setReq r).full c' o = s.full c' o := rfl
@[simp] theorem State.here_setReq (r : Req) : (s.setReq r).here = s.here := rfl
@[simp] theorem State.cx_setLink (l : Nat) (x : Link) : (s.setLink l x).cx = s.cx := rfl
@[simp] theorem State.ctx_setLink (l : Nat) (x : Link) (cid : Nat) : (s.setLink l x).ctx cid = s.ctx cid := rfl
@[simp] theorem State.core_setLink (l : Nat) (x : Link) (k : Nat) : (s.setLink l x).core k = s.core k := rfl
@[simp] theorem State.grp_setLink (l : Nat) (x : Link) (h : Nat) : (s.setLink l x).grp h = s.grp h := rfl
@[simp] theorem State.rdS_setLink (l : Nat) (x : Link) (c' o m : Nat) : (s.setLink l x).rdS c' o m = s.rdS c' o m := rfl
@[simp] theorem State.full_setLink (l : Nat) (x : Link) (c' o : Nat) : (s.setLink l x).full c' o = s.full c' o := rfl
@[simp] theorem State.here_setLink (l : Nat) (x : Link) : (s.setLink l x).here = s.here := rfl
@[simp] theorem State.cx_setReduction (r : Reduction) : (s.setReduction r).cx = s.cx := rfl
@[simp] theorem State.ctx_setReduction (r : Reduction) (cid : Nat) : (s.setReduction r).ctx cid = s.ctx cid := rfl
@[simp] theorem State.core_setReduction (r : Reduction) (k : Nat) : (s.setReduction r).core k = s.core k := rfl
@[simp] theorem State.grp_setReduction (r : Reduction) (h : Nat) : (s.setReduction r).grp h = s.grp h := rfl
@[simp] theorem State.rdS_setReduction (r : Reduction) (c' o m : Nat) : (s.setReduction r).rdS c' o m = s.rdS c' o m := rfl
@[simp] theorem State.full_setReduction (r : Reduction) (c' o : Nat) : (s.setReduction r).full c' o = s.full c' o := rfl
@[simp] theorem State.here_setReduction (r : Reduction) : (s.setReduction r).here = s.here := rfl
@[simp] theorem State.cx_setPipe (p : Pipeline) : (s.setPipe p).cx = s.cx := rfl
@[simp] theorem State.ctx_setPipe (p : Pipeline) (cid : Nat) : (s.setPipe p).ctx cid = s.ctx cid := rfl
@[simp] theorem State.core_setPipe (p : Pipeline) (k : Nat) : (s.setPipe p).core k = s.core k := rfl
@[simp] theorem State.grp_setPipe (p : Pipeline) (h : Nat) : (s.setPipe p).grp h = s.grp h := rfl
@[simp] theorem State.rdS_setPipe (p : Pipeline) (c' o m : Nat) : (s.setPipe p).rdS c' o m = s.rdS c' o m := rfl
@[simp] theorem State.full_setPipe (p : Pipeline) (c' o : Nat) : (s.setPipe p).full c' o = s.full c' o := rfl
@[simp] theorem State.here_setPipe (p : Pipeline) : (s.setPipe p).here = s.here := rfl
@[simp] theorem State.cx_tell (v : List Nat) : (s.tell v).cx = s.cx := rfl
@[simp] theorem State.ctx_tell (v : List Nat) (cid : Nat) : (s.tell v).ctx cid = s.ctx cid := rfl
@[simp] theorem State.core_tell (v : List Nat) (k : Nat) : (s.tell v).core k = s.core k := rfl
@[simp] theorem State.grp_tell (v : List Nat) (h : Nat) : (s.tell v).grp h = s.grp h := rfl
@[simp] theorem State.rdS_tell (v : List Nat) (c' o m : Nat) : (s.tell v).rdS c' o m = s.rdS c' o m := rfl
@[simp] theorem State.full_tell (v : List Nat) (c' o : Nat) : (s.tell v).full c' o = s.full c' o := rfl
@[simp] theorem State.here_tell (v : List Nat) : (s.tell v).here = s.here := rfl

end Sys2Proof.Machine
end

