-- ==== Sys2Proof/Laws/Ops.lean ====
section
/-! SUPPORT. The shared operations, once each: registers, register checks, going on, transfers of control, traps, and what a calm focus need not wait for. -/

namespace Sys2Proof.Machine

variable (s : State)

/-! ## Reset -/

theorem State.reset_memOk : State.reset.memOk = true := rfl

/-! ## The canonical form of both memories -/

/-- An update that touches neither memory keeps their form. -/
theorem State.memOk_of_eq {s t : State} (h : s.memOk = true) (hs : t.spad = s.spad) (hh : t.hbm = s.hbm) : t.memOk = true := by
  simpa [State.memOk, hs, hh] using h

theorem State.memOk_wrS (h : s.memOk = true) (core off n v : Nat) : (s.wrS core off n v).memOk = true := by
  simp only [State.memOk, Bool.and_eq_true, State.wrS] at h ⊢
  exact ⟨Memory.wf_writeN n h.1 _ v, h.2⟩

theorem State.memOk_wrBytesS (h : s.memOk = true) (core off : Nat) (bs : List Byte) : (s.wrBytesS core off bs).memOk = true := by
  unfold State.wrBytesS
  split
  · exact h
  · simp only [State.memOk, Bool.and_eq_true] at h ⊢
    exact ⟨Memory.wf_writeBytes bs h.1 _, h.2⟩

theorem State.memOk_wrH (h : s.memOk = true) (pa n v : Nat) : (s.wrH pa n v).memOk = true := by
  simp only [State.memOk, Bool.and_eq_true, State.wrH] at h ⊢
  exact ⟨h.1, Memory.wf_writeN n h.2 _ v⟩

theorem State.memOk_storeS (h : s.memOk = true) (core off : Nat) (bs : List Byte) : (s.storeS core off bs).memOk = true :=
  s.memOk_wrBytesS h core off _

theorem State.memOk_store (h : s.memOk = true) (l : Loc) (n v : Nat) : (s.store l n v).memOk = true := by
  cases l
  · exact s.memOk_storeS h ..
  · exact s.memOk_wrH h ..

/-- An operation at a place changes no more than the bytes there. -/
theorem State.memOk_performAt (h : s.memOk = true) (op : ReqOp) (l : Loc) (size origin : Nat) :
    (s.performAt op l size origin).1.memOk = true := by
  unfold State.performAt
  split
  · exact s.memOk_store h ..
  · exact h

/-- Where no descriptor of a bound ring stands, software's write leaves what it writes. -/
theorem State.storeS_plain {core off : Nat} {bs : List Byte} (h : ∀ i, i < bs.length → s.ringHw core (off + i) = false) :
    s.storeS core off bs = s.wrBytesS core off bs := by
  suffices s.keepHw core off bs = bs by rw [State.storeS, this]
  have hl : (upTo bs.length).length = bs.length := by simp [upTo]
  apply List.ext_getElem
  · simp [State.keepHw, hl]
  · intro i h₁ h₂
    have : (upTo bs.length)[i]'(by omega) = i := by simp [upTo]
    simp [State.keepHw, this, h i h₂]

theorem State.memOk_wrDws (core : Nat) (ds : List Word) : ∀ (s : State) (off : Nat), s.memOk = true →
    (s.wrDws core off ds).memOk = true := by
  induction ds with
  | nil => exact fun _ _ h => h
  | cons d r ih => exact fun s off h => ih _ _ (s.memOk_wrS h core off 8 d.toNat)

theorem State.memOk_putHeader (h : s.memOk = true) (cid : Nat) (pc : Word) : (s.putHeader cid pc).memOk = true :=
  State.memOk_wrDws _ _ s _ h

/-- Putting a request in flight writes neither memory. -/
@[simp] theorem State.putReq_spad (r : Req) : (s.putReq r).spad = s.spad := by
  unfold State.putReq
  dsimp only
  split
  · rfl
  · split <;> rfl

@[simp] theorem State.putReq_hbm (r : Req) : (s.putReq r).hbm = s.hbm := by
  unfold State.putReq
  dsimp only
  split
  · rfl
  · split <;> rfl

/-- Of the contexts it changes at most the counters of the focus. -/
theorem State.putReq_ctxs (r : Req) : (s.putReq r).ctxs = s.ctxs ∨ (s.putReq r).ctxs = (s.setCx (s.cx.count 8 1)).ctxs := by
  unfold State.putReq
  dsimp only
  split
  · exact .inl rfl
  · split
    · exact .inr rfl
    · exact .inl rfl

/-- So does a write of the core behind what the strand has on its way. -/
theorem State.wrOwn_ctxs (cid off v : Nat) :
    (s.wrOwn cid off v).ctxs = s.ctxs ∨ (s.wrOwn cid off v).ctxs = (s.setCx (s.cx.count 8 1)).ctxs := by
  unfold State.wrOwn
  dsimp only
  split
  · exact s.putReq_ctxs _
  · exact .inl rfl

theorem State.memOk_wrOwn (h : s.memOk = true) (cid off v : Nat) : (s.wrOwn cid off v).memOk = true := by
  unfold State.wrOwn
  dsimp only
  split
  · exact State.memOk_of_eq h (s.putReq_spad _) (s.putReq_hbm _)
  · exact s.memOk_wrS h _ _ 8 v

theorem State.memOk_updCtx (h : s.memOk = true) (cid : Nat) (f : Ctx → Ctx) : (s.updCtx cid f).memOk = true := by
  unfold State.updCtx
  split
  · exact State.memOk_of_eq h rfl rfl
  · exact h

theorem State.memOk_leaveRep (h : s.memOk = true) (cid : Nat) : (s.leaveRep cid).memOk = true := by
  unfold State.leaveRep
  dsimp only
  split
  · exact State.memOk_updCtx _ (s.memOk_wrOwn h _ _ _) _ _
  · exact h

theorem State.memOk_unrun (h : s.memOk = true) (cid : Nat) : (s.unrun cid).memOk = true := by
  unfold State.unrun
  split
  · exact h
  · dsimp only
    split
    · exact State.memOk_of_eq h rfl rfl
    · exact h

theorem State.memOk_depart (h : s.memOk = true) (cid : Nat) (pc : Word) (st : CtxState) :
    (s.depart cid pc st).memOk = true := by
  refine State.memOk_unrun _ ?_ cid
  exact State.memOk_of_eq (State.memOk_putHeader _ (s.memOk_leaveRep h cid) cid pc) rfl rfl

theorem State.memOk_advance (h : s.memOk = true) : s.advance.memOk = true := by
  unfold State.advance
  dsimp only
  split
  · split
    · exact State.memOk_of_eq h rfl rfl
    · split
      · exact State.memOk_of_eq h rfl rfl
      · refine State.memOk_wrOwn _ ?_ _ _ 0
        exact State.memOk_of_eq h rfl rfl
  · exact State.memOk_of_eq h rfl rfl

/-! ## Scratchpad words and scalar registers -/

@[simp] theorem State.rdS_wrS_self (core off n v : Nat) : (s.wrS core off n v).rdS core off n = v % 256 ^ n := by
  simp [State.rdS, State.wrS]

theorem State.rdS_wrS_ne {core off n v core' off' n' : Nat}
    (h : spadKey core' off' + n' ≤ spadKey core off ∨ spadKey core off + n ≤ spadKey core' off') :
    (s.wrS core off n v).rdS core' off' n' = s.rdS core' off' n' := by
  simpa [State.rdS, State.wrS] using readN_writeN_ne s.spad _ n v _ n' h

theorem State.byteAt_wrS_ne {core off n v core' off' : Nat}
    (h : spadKey core' off' < spadKey core off ∨ spadKey core off + n ≤ spadKey core' off') :
    byteAt (s.wrS core off n v).spad (spadKey core' off') = byteAt s.spad (spadKey core' off') := by
  simpa [State.wrS] using byteAt_writeN_ne n s.spad _ v _ h

theorem State.rdS_lt (core off n : Nat) : s.rdS core off n < 256 ^ n := readN_lt n _ _

theorem toNat_toWord (n : Nat) : (toWord n).toNat = n % 2 ^ 64 := by simp [toWord]

@[simp] theorem toWord_toNat (v : Word) : toWord v.toNat = v := by simp [toWord]

@[simp] theorem State.w_setW_self (i : BitVec 4) (v : Word) : (s.setW i v).w i = v := by
  have h : (s.setW i v).rdS s.here (s.cx.wOff i.toNat) 8 = v.toNat :=
    (s.rdS_wrS_self _ _ 8 _).trans (Nat.mod_eq_of_lt v.isLt)
  simp [State.w, h]

theorem State.w_setW_ne {i j : BitVec 4} (v : Word) (h : i ≠ j) : (s.setW i v).w j = s.w j := by
  have hv : i.toNat ≠ j.toNat := fun e => h (BitVec.eq_of_toNat_eq e)
  have : (s.wrS s.here (s.cx.wOff i.toNat) 8 v.toNat).rdS s.here (s.cx.wOff j.toNat) 8 =
      s.rdS s.here (s.cx.wOff j.toNat) 8 := State.rdS_wrS_ne s (by simp only [spadKey, Ctx.wOff]; omega)
  simp [State.w, State.setW, this]

theorem State.w_setCx {c : Ctx} (h : c.wp = s.cx.wp) (i : BitVec 4) : (s.setCx c).w i = s.w i := by
  simp [State.w, Ctx.wOff, h]

/-! ## Memory without errors -/

/-- The parts of sound. -/
theorem State.sound_parts (h : s.sound = true) : s.badSpad = [] ∧ s.badHbm = [] ∧ s.softSpad = [] ∧ s.softHbm = [] := by
  simpa only [State.sound, Bool.and_eq_true, List.isEmpty_iff, and_assoc] using h

theorem State.badS_sound (h : s.sound = true) (core off n : Nat) : s.badS core off n = none := by
  simp [State.badS, (s.sound_parts h).1, pick_none]

theorem State.badH_sound (h : s.sound = true) (pa n : Nat) : s.badH pa n = none := by
  simp [State.badH, (s.sound_parts h).2.1, pick_none]

theorem State.softS_sound (h : s.sound = true) (core off n : Nat) : s.softS core off n = 0 := by
  simp [State.softS, (s.sound_parts h).2.2.1]

theorem State.softH_sound (h : s.sound = true) (pa n : Nat) : s.softH pa n = 0 := by
  simp [State.softH, (s.sound_parts h).2.2.2]

theorem State.softAt_sound (h : s.sound = true) (l : Loc) (n : Nat) : s.softAt l n = 0 := by
  cases l <;> simp [State.softAt, s.softS_sound h, s.softH_sound h]

theorem State.regBad_sound (h : s.sound = true) (rs : List (BitVec 4)) : s.regBad rs = none := by
  induction rs with
  | nil => rfl
  | cons i r ih => simp [State.regBad, s.badS_sound h, ih]

theorem State.softRegs_sound (h : s.sound = true) (rs : List (BitVec 4)) : s.softRegs rs = 0 := by
  simp [State.softRegs, s.softS_sound h]

/-! ## Corrected errors (11 R229) -/

@[simp] theorem State.addCerrOn_zero (core : Nat) : s.addCerrOn core 0 = s := by simp [State.addCerrOn]

/-- Corrected errors change the counter of one core and nothing else. -/
theorem State.addCerrOn_cases (core n : Nat) : s.addCerrOn core n = s ∨ ∃ k, s.addCerrOn core n = s.setCore core k := by
  unfold State.addCerrOn
  split
  · exact .inl rfl
  · exact .inr ⟨_, rfl⟩

@[simp] theorem State.addCerrOn_cx (core n : Nat) : (s.addCerrOn core n).cx = s.cx := by
  obtain h | ⟨k, h⟩ := s.addCerrOn_cases core n <;> rw [h]; rfl

@[simp] theorem State.addCerrOn_spad (core n : Nat) : (s.addCerrOn core n).spad = s.spad := by
  obtain h | ⟨k, h⟩ := s.addCerrOn_cases core n <;> rw [h]; rfl

@[simp] theorem State.addCerrOn_hbm (core n : Nat) : (s.addCerrOn core n).hbm = s.hbm := by
  obtain h | ⟨k, h⟩ := s.addCerrOn_cases core n <;> rw [h]; rfl

@[simp] theorem State.addCerrOn_here (core n : Nat) : (s.addCerrOn core n).here = s.here := by
  obtain h | ⟨k, h⟩ := s.addCerrOn_cases core n <;> rw [h]; rfl

@[simp] theorem State.addCerrOn_w (core n : Nat) (i : BitVec 4) : (s.addCerrOn core n).w i = s.w i := by
  simp [State.w, State.rdS]

@[simp] theorem counting_zero (o : Out) : counting 0 s o = o := by simp [counting]

/-- An instruction that is over has its corrected errors counted, on its own core. -/
theorem counting_over {n : Nat} {t : State} (h : s.over t = true) : counting n s (.next t) = .next (t.addCerrOn s.here n) := by
  unfold counting
  split
  · simp_all
  · simp [h]

/-- What is not over counts none. -/
theorem counting_not_over {n : Nat} {t : State} (h : s.over t = false) : counting n s (.next t) = .next t := by
  unfold counting
  split
  · rfl
  · simp [h]

/-! ## Reading registers -/

/-- Reading scalar registers goes on, with corrected errors counted, unless a word has an uncorrectable error. -/
theorem reading_ok {rs : List (BitVec 4)} (h : s.regBad rs = none) (k : State → Out) :
    reading rs s k = counting (s.softRegs rs) s (k s) := by
  simp [reading, h]

theorem reading_trap {rs : List (BitVec 4)} {a : Nat} (h : s.regBad rs = some a) (k : State → Out) :
    reading rs s k = .next (s.takeTrap xEcc (toWord a) s.cx.pc) := by
  simp [reading, h, trap]

theorem reading_sound (h : s.sound = true) (rs : List (BitVec 4)) (k : State → Out) : reading rs s k = k s := by
  rw [reading_ok s (s.regBad_sound h rs), s.softRegs_sound h, counting_zero]

/-! ## The checks that stand before an instruction -/

theorem checked_ok {i : Instr} (h : decodeCause s i = none) (k : Out) : checked i s k = k := by simp [checked, h]

theorem checked_trap {i : Instr} {c : Nat} (h : decodeCause s i = some c) (hc : c ≠ xPrivilege) (k : Out) :
    checked i s k = .next (s.takeTrap c (s.asWritten (encWord i)) s.cx.pc) := by simp [checked, h, hc, trap]

/-! ## Going on -/

/-- What counting events leaves alone: everything but the control registers. -/
theorem Ctx.count_eq (c : Ctx) (code n : Nat) : ∃ cr, c.count code n = { c with cr := cr } := by
  unfold Ctx.count
  split
  · exact ⟨c.cr, rfl⟩
  · rename_i hn
    clear hn
    generalize upTo 4 = l
    induction l generalizing c with
    | nil => exact ⟨c.cr, rfl⟩
    | cons i r ih =>
      simp only [List.foldl_cons]
      split
      · obtain ⟨cr, hcr⟩ := ih (c.set (0x024 + i) (c.get (0x024 + i) + toWord n))
        exact ⟨cr, by rw [hcr]; rfl⟩
      · exact ih c

/-- What the completion of an instruction leaves alone: everything but the control registers, the count of instructions and what held for the instruction alone. -/
theorem Ctx.completed_eq (c : Ctx) : ∃ cr n, c.completed =
    { c with cr := cr, instrs := n, skipBkp := false, tileWait := [], noPermit := false } := by
  obtain ⟨cr, h⟩ := c.count_eq 2 1
  unfold Ctx.completed
  simp only [h]
  split
  · obtain ⟨cr', h'⟩ := Ctx.count_eq { c with cr := cr, instrs := c.instrs + 1, skipBkp := false, tileWait := [], noPermit := false } 6 1
    exact ⟨cr', _, by rw [h']⟩
  · exact ⟨cr, _, rfl⟩

@[simp] theorem Ctx.count_instrs (c : Ctx) (code n : Nat) : (c.count code n).instrs = c.instrs := by
  obtain ⟨cr, h⟩ := c.count_eq code n
  rw [h]

@[simp] theorem Ctx.completed_instrs (c : Ctx) : c.completed.instrs = c.instrs + 1 := by
  unfold Ctx.completed
  simp only
  split <;> simp

/-- Outside a run of REP the next state differs in the focus's context only: the PC is the successor. -/
theorem State.advance_eq (h : s.cx.rep = none) : s.advance = s.setCx
    { s.cx.completed with
      pc := succPc s.cx.line s.cx.pc
      line := if decide ((succPc s.cx.line s.cx.pc).toNat / 64 = s.cx.pc.toNat / 64) then s.cx.line else none } := by
  obtain ⟨cr, n, e⟩ := s.cx.completed_eq
  simp [State.advance, e, h]

@[simp] theorem State.advance_pc (h : s.cx.rep = none) : s.advance.cx.pc = succPc s.cx.line s.cx.pc := by
  simp [s.advance_eq h]

@[simp] theorem State.advance_wp (h : s.cx.rep = none) : s.advance.cx.wp = s.cx.wp := by
  obtain ⟨cr, n, e⟩ := s.cx.completed_eq
  simp [s.advance_eq h, e]

theorem State.advance_w (h : s.cx.rep = none) (i : BitVec 4) : s.advance.w i = s.w i := by
  obtain ⟨cr, n, e⟩ := s.cx.completed_eq
  rw [s.advance_eq h]
  exact s.w_setCx (by simp [e]) i

/-- What the core writes behind the strand's accesses leaves an instruction over. -/
theorem State.over_wrOwn {v : State} {c : Ctx} (hm : mget v.ctxs s.cur = some c) (hi : c.instrs ≠ s.cx.instrs)
    (hv : v.cur = s.cur) (cid off x : Nat) : s.over (v.wrOwn cid off x) = true := by
  have hc : v.cx = c := by simp [State.cx, State.ctx, hv, mgetD, hm]
  obtain e | e := v.wrOwn_ctxs cid off x
  · simp [State.over, e, hm, hi]
  · have : mget (v.setCx (v.cx.count 8 1)).ctxs s.cur = some (c.count 8 1) := by simp [State.setCx, State.setCtx, hv, hc]
    simp [State.over, e, this, hi]

/-- A completed instruction is over. -/
theorem State.over_advance {t : State} (hc : t.cur = s.cur) (hi : t.cx.instrs = s.cx.instrs) : s.over t.advance = true := by
  obtain ⟨cr, n, e⟩ := t.cx.completed_eq
  have hn : n = t.cx.instrs + 1 := by
    have h2 : t.cx.completed.instrs = t.cx.instrs + 1 := t.cx.completed_instrs
    rw [e] at h2
    exact h2
  have go (c : Ctx) (h : c.instrs ≠ s.cx.instrs) (v : State) (hv : v.cur = s.cur) : s.over (v.setCx c) = true := by
    have : mget (v.setCx c).ctxs s.cur = some c := by simp [State.setCx, State.setCtx, hv]
    simp [State.over, this, h]
  unfold State.advance
  simp only [e]
  split
  · split
    · exact go _ (by simp only; omega) t hc
    · split
      · exact go _ (by simp only; omega) t hc
      · refine State.over_wrOwn s (c := ?c) ?h ?i ?v _ _ _
        case h =>
          rw [← hc]
          exact mget_mput_self _ _ _
        case i =>
          dsimp only
          omega
        case v => exact hc
  · exact go _ (by simp only; omega) t hc

/-- An instruction that completes has the corrected errors of its reads counted. -/
theorem counting_done {n : Nat} {t : State} (hc : t.cur = s.cur) (hi : t.cx.instrs = s.cx.instrs) :
    counting n s (done t) = .next (t.advance.addCerrOn s.here n) := counting_over s (s.over_advance hc hi)

theorem done_eq : done s = .next s.advance := rfl
theorem stall_eq : stall s = .next s := rfl
theorem blocked_eq (w : Wait) : blocked s w = .next (s.block w) := rfl
theorem trap_eq (c : Nat) (t : Word) : trap s c t = .next (s.takeTrap c t s.cx.pc) := rfl

end Sys2Proof.Machine
end

