-- ==== Sys2Proof/Laws/Calm.lean ====
section
/-! SUPPORT. What the shared operations answer: accesses, word operations, transfers of control and traps, each in its cases; and what a calm focus need not wait for. -/

namespace Sys2Proof.Machine

variable (s : State)

/-! ## Watchpoints -/

theorem State.unwatched_all (h : s.unwatched = true) {n : Nat} (hn : n < 4) : s.cx.fld (0x02C + n) 63 1 = 0 := by
  have := List.all_eq_true.1 h n (by simpa [upTo] using hn)
  simpa using this

/-- Without an enabled watchpoint an access goes on. -/
theorem watched_unwatched (h : s.unwatched = true) (rd wr : Bool) (bs : List (Nat × Nat)) (k : State → Out) :
    watched rd wr bs s k = k s := by
  have hp : pick (fun n => (s.cx.watchByte n rd wr bs).isSome) (upTo 4) = none := by
    rw [pick_none]
    intro n hn
    have := s.unwatched_all h (n := n) (by simpa [upTo] using hn)
    simp [Ctx.watchByte, this]
  unfold watched
  simp only [hp]
  split <;> rfl

/-! ## A calm focus -/

/-- The parts of calm. -/
theorem State.calm_parts (h : s.calm = true) : s.reqs = [] ∧ s.landings = [] ∧ s.flights = [] ∧ s.sound = true ∧
    s.cx.gateLd = [] ∧ s.cx.gateSt = [] ∧ (s.core s.here).mq = [] ∧ (s.core s.here).copies = [] ∧ s.cx.failures = [] ∧
    s.cx.call = none ∧ s.cx.rep = none ∧ s.unwatched = true := by
  simpa only [State.calm, Bool.and_eq_true, List.isEmpty_iff, Option.isNone_iff_eq_none, and_assoc] using h

theorem State.calm_sound (h : s.calm = true) : s.sound = true := (s.calm_parts h).2.2.2.1
theorem State.calm_rep (h : s.calm = true) : s.cx.rep = none := (s.calm_parts h).2.2.2.2.2.2.2.2.2.2.1
theorem State.calm_call (h : s.calm = true) : s.cx.call = none := (s.calm_parts h).2.2.2.2.2.2.2.2.2.1
theorem State.calm_unwatched (h : s.calm = true) : s.unwatched = true := (s.calm_parts h).2.2.2.2.2.2.2.2.2.2.2

theorem reading_calm (h : s.calm = true) (rs : List (BitVec 4)) (k : State → Out) : reading rs s k = k s :=
  reading_sound s (s.calm_sound h) rs k

theorem State.calm_linkReqs (h : s.calm = true) : s.linkReqs = [] := by
  obtain ⟨-, -, hf, -⟩ := s.calm_parts h
  simp [State.linkReqs, hf]

theorem State.calm_mine (h : s.calm = true) (cid : Nat) (sys : Bool) (p : Req → Bool) : s.mine cid sys p = [] := by
  obtain ⟨hr, -⟩ := s.calm_parts h
  simp [State.mine, hr, s.calm_linkReqs h]

theorem State.calm_covered (h : s.calm = true) (cid : Nat) (sys : Bool) : s.covered cid sys = [] := by
  obtain ⟨hr, -⟩ := s.calm_parts h
  simp [State.covered, hr, s.calm_linkReqs h]

theorem State.calm_drained (h : s.calm = true) (cid : Nat) (sys : Bool) : s.drained cid sys = true := by
  simp [State.drained, s.calm_covered h]

theorem State.calm_gates (h : s.calm = true) (cid : Nat) (rd wr : Bool) : s.gates cid rd wr = [] := by
  obtain ⟨hr, -⟩ := s.calm_parts h
  simp [State.gates, State.pendingOf, hr, s.calm_linkReqs h]

theorem State.calm_gated (h : s.calm = true) (cid : Nat) (rd wr : Bool) : s.gated cid rd wr = false := by
  simp [State.gated, s.calm_gates h]

theorem State.calm_nearClear (h : s.calm = true) (cid off n : Nat) : s.nearClear cid off n = true := by
  obtain ⟨hr, -⟩ := s.calm_parts h
  simp [State.nearClear, hr, s.calm_linkReqs h]

theorem State.calm_unlanded (h : s.calm = true) (cid : Nat) : s.unlanded cid = false := by
  obtain ⟨hr, hl, hf, -⟩ := s.calm_parts h
  simp [State.unlanded, hr, hl, hf]

theorem State.calm_dstBytes (h : s.calm = true) (cid : Nat) : s.dstBytes cid = [] := by
  obtain ⟨hr, hl, hf, -⟩ := s.calm_parts h
  simp [State.dstBytes, hr, hl, hf]

theorem State.calm_onTheWay (h : s.calm = true) (cid core : Nat) : s.onTheWay cid core = [] := by
  obtain ⟨hr, -⟩ := s.calm_parts h
  simp [State.onTheWay, hr, s.calm_linkReqs h]

theorem State.calm_wayClear (h : s.calm = true) (l : Loc) (n : Nat) (vc : Option Nat) : s.wayClear l n vc = true := by
  obtain ⟨hr, -⟩ := s.calm_parts h
  simp [State.wayClear, State.linkFirst, hr, s.calm_linkReqs h]

theorem State.calm_lockBytes (h : s.calm = true) : s.lockBytes s.cur = [] := by
  obtain ⟨-, -, -, -, -, -, hm, -⟩ := s.calm_parts h
  have : (s.core (coreOfCid s.cur)).mq = [] := hm
  simp [State.lockBytes, this]

theorem State.calm_tileRanges (h : s.calm = true) : s.tileRanges s.cur = [] := by
  obtain ⟨-, -, -, -, -, -, hm, -⟩ := s.calm_parts h
  have : (s.core (coreOfCid s.cur)).mq = [] := hm
  simp [State.tileRanges, putRanges, this]

theorem touches_nil (xs : List (Nat × Nat)) : touches xs [] = false := by simp [touches]

theorem State.calm_elemHeld (h : s.calm = true) (e : Elem) (a : At) : s.elemHeld e a = false := by
  unfold State.elemHeld
  split
  · rfl
  · simp only [s.calm_dstBytes h, s.calm_tileRanges h, s.calm_lockBytes h, List.append_nil, touches_nil, Bool.false_or]
    split <;> rfl

theorem State.calm_permitStalled (h : s.calm = true) (core : Nat) : s.permitStalled core = false := by
  obtain ⟨hr, -⟩ := s.calm_parts h
  simp [State.permitStalled, hr]

theorem State.calm_classL (h : s.calm = true) (cid : Nat) : s.classL cid = 0 := by
  obtain ⟨hr, -, hf, -⟩ := s.calm_parts h
  simp [State.classL, batches, hr, hf]

theorem State.calm_classS (h : s.calm = true) (cid : Nat) : s.classS cid = 0 := by
  obtain ⟨hr, -, hf, -⟩ := s.calm_parts h
  simp [State.classS, batches, hr, hf]

theorem State.calm_atOnce (h : s.calm = true) {e : Elem} (he : e.op.atomic = false) (off : Nat) : s.atOnce e (.loc off) = true := by
  simp [State.atOnce, he, s.calm_nearClear h, s.calm_gated h]

theorem State.calm_fetchHeld (h : s.calm = true) (l : Loc) : s.fetchHeld s.cur l = false := by
  obtain ⟨hr, -⟩ := s.calm_parts h
  unfold State.fetchHeld
  simp only [s.calm_gated h, hr, s.calm_linkReqs h, s.calm_tileRanges h, s.calm_dstBytes h]
  cases l <;> simp [touches_nil]

/-! ## Accesses (08 R168) -/

/-- An access whose checks pass and which may issue is performed or sent, and goes on. -/
theorem access_ok {scope : Nat} {acq rel : Bool} {es : List Elem} {as : List At} (fin : State → State)
    (hl : s.locateAll scope es = .ok as) (hd : s.dataBad (es.zip as) = none)
    (hh : (es.zip as).any (fun x => s.elemHeld x.1 x.2) = false) (hg : s.gated s.cur true false = false) (hc : s.classFull (es.zip as) = false)
    (hw : s.unwatched = true) :
    access scope acq rel es fin s = .next (fin (s.commit scope acq rel (es.zip as))).advance := by
  simp [access, hl, hd, hh, hg, hc, watched_unwatched s hw, done]

/-- An access that fails a check of range or translation raises the trap of its first failing element. -/
theorem access_trap {scope : Nat} {acq rel : Bool} {es : List Elem} {c t : Nat} (fin : State → State)
    (hl : s.locateAll scope es = .trap c t) :
    access scope acq rel es fin s = .next (s.takeTrap c (toWord t) s.cx.pc) := by
  simp [access, hl, trap]

/-- One that fails a check of its data raises the first one's trap, once no request in front of it can fail at its place. -/
theorem access_dataBad {scope : Nat} {acq rel : Bool} {es : List Elem} {as : List At} {c t : Nat} (fin : State → State)
    (hl : s.locateAll scope es = .ok as) (hd : s.dataBad (es.zip as) = some (c, t)) (ht : s.trapWait = none) :
    access scope acq rel es fin s = .next ((s.boxFar false c t (es.zip as)).takeTrap c (toWord t) (s.boxFar false c t (es.zip as)).cx.pc) := by
  simp [access, hl, hd, ht, trap]

/-- A misaligned address raises X_MISALIGN before any other check. -/
theorem aligned_bad {n addr : Nat} (h : addr % min n 8 ≠ 0) (k : Out) :
    aligned n addr s k = .next (s.takeTrap xMisalign (toWord addr) s.cx.pc) := by
  simp [aligned, h, trap]

theorem aligned_ok {n addr : Nat} (h : addr % min n 8 = 0) (hq : n = 16 → oneRange addr n = true) (k : Out) :
    aligned n addr s k = k := by
  simp only [aligned, h, ne_eq, not_true_eq_false, if_false]
  by_cases hn : n = 16
  · simp [hq hn]
  · simp [hn]

/-- A word operation that meets no trap and waits for nothing acts at the word's place. -/
theorem atWord_ok {scope n : Nat} {counts wr rel : Bool} {addr : Nat} {l : Loc} {u : State}
    (h : s.wordAt scope n counts wr rel addr l u) (watch : Bool × Bool) (k : Loc → State → Out) :
    atWord scope n counts wr rel watch addr s k = k l u := by
  obtain ⟨hm, hs, ⟨a, hl, hp, hb, hh, hw, ho, rfl⟩, hc, hg, hr, hu⟩ := h
  have hc' : ¬ (counts = true ∧ 64 ≤ s.classL s.cur) := fun x => absurd (hc x.1) (by omega)
  have hr' : ¬ (rel = true ∧ 2 ≤ scope ∧ ¬ s.drained s.cur (scope == 3) = true) := fun x => x.2.2 (hr x.1 x.2.1)
  unfold atWord
  simp only [hm, hl, hs, hp, hb, hh, hg, hw, ho, if_neg hc', if_neg hr', watched_unwatched s hu, ne_eq, not_true_eq_false,
    if_false, Bool.false_eq_true]

theorem atWord_misaligned {scope n : Nat} {counts wr rel : Bool} {addr : Nat} (h : addr % n ≠ 0) (watch : Bool × Bool)
    (k : Loc → State → Out) :
    atWord scope n counts wr rel watch addr s k = .next (s.takeTrap xMisalign (toWord addr) s.cx.pc) := by
  simp [atWord, h, trap]

/-- Doublewords whose loads meet no trap and wait for nothing are read, and the instruction goes on with their values. -/
theorem loadingAt_ok {es : List Elem} {d : List Nat} {u : State} (h : s.readsAt es d u) (k : List Nat → State → Out) :
    loadingAt es s k = k d u := by
  obtain ⟨as, hl, hb, hh, ho, hg, hu, rfl, rfl⟩ := h
  simp only [List.all_eq_true, Bool.and_eq_true] at hh
  have hw : (es.zip as).any (fun x => s.placeNow x.1 x.2 == .wait) = false := by
    simpa using fun a b hx => by simpa using (hh (a, b) hx).1.1
  have he : (es.zip as).any (fun x => s.elemHeld x.1 x.2) = false := by
    simpa using fun a b hx => by simpa using (hh (a, b) hx).1.2
  have hc : (es.zip as).any (fun x => !s.elemClear x.1 x.2) = false := by
    simpa using fun a b hx => by simpa using (hh (a, b) hx).2
  unfold loadingAt
  simp only [hl, hb, hw, he, hc, ho, hg, watched_unwatched s hu, State.noFault]
  simp

theorem loading_ok {addr n : Nat} {d : List Nat} {u : State} (h : s.readsDws addr n d u) (k : List Nat → State → Out) :
    loading addr n s k = k d u := loadingAt_ok s h k

/-! ## Transfers of control (06 R132) -/

/-- A target whose line can be fetched is entered; a link writes w15 first. -/
theorem enterAndLink_ok {t : Word} {link : Bool} {l : Line} {u : State}
    (hf : s.fetch s.cur t.toNat = .ok l u) :
    enterAndLink s t link =
      .next (let v := if link then u.setW 15 (succPc s.cx.line s.cx.pc) else u
        v.setCx { v.cx.completed with pc := t, line := some l, walkFault := [] }) := by
  simp [enterAndLink, hf]

/-- A target that cannot be entered raises the fetch's trap at the branch's own PC, and nothing is written. -/
theorem enterAndLink_bad {t : Word} {link : Bool} {c v : Nat}
    (hf : s.fetch s.cur t.toNat = .bad c v) :
    enterAndLink s t link = .next (s.takeTrap c (toWord v) s.cx.pc) := by
  simp [enterAndLink, hf, trap]

/-- An odd target, or the line's own descriptor, is no place to enter. -/
theorem State.fetch_badSlot {cid pc : Nat} (h : pc % 2 ≠ 0 ∨ pc % 64 = 0) : s.fetch cid pc = .bad xIllegalLine pc := by
  rw [State.fetch, if_pos h]

/-! ## Traps (11 R232, R233) -/

/-- A trap of the copy strand ends it as FAULTED. -/
theorem State.takeTrap_copy (h : isCopy s.cur = true) (c : Nat) (tval tpc : Word) :
    s.takeTrap c tval tpc = (s.boxEcc c tval).copyFault c tval tpc := by
  simp [State.takeTrap, h]

/-- A context that does not serve and whose handler cannot be entered stops. -/
theorem State.takeTrap_entryFailure (hc : isCopy s.cur = false) (hs : s.cx.serving = false)
    (h : s.cx.depth = 15 ∨ s.footOk s.cx.handlerWp = false) {c : Nat} (he : c ≠ xEcc) (tval tpc : Word) :
    s.takeTrap c tval tpc = s.entryFailure c tval tpc := by
  have h' : s.cx.depth = 15 ∨ ¬ s.footOk s.cx.handlerWp = true := by simpa using h
  have hw : s.trapWait = none := by simp only [State.trapWait, hc, Bool.false_eq_true, false_or, if_pos h']
  simp only [State.takeTrap, hc, hw, State.freezeFor, hs, Bool.false_and, if_false, Bool.false_eq_true, State.boxEcc, if_neg he,
    if_pos h']

/-- Where the handler's line must still be walked or waited for, or a result of the strand is still on its way to a register, the trap is not taken. -/
theorem State.takeTrap_held (hc : isCopy s.cur = false) {t : State} (h : s.trapWait = some t) (c : Nat) (tval tpc : Word) :
    s.takeTrap c tval tpc = t := by
  simp [State.takeTrap, hc, h]

/-- Traps other than an uncorrectable error leave the black box alone. -/
theorem State.boxEcc_other {c : Nat} (h : c ≠ xEcc) (tval : Word) : s.boxEcc c tval = s := by
  simp [State.boxEcc, h]

theorem State.leaveRep_none {cid : Nat} (h : (s.ctx cid).rep = none) : s.leaveRep cid = s := by
  simp [State.leaveRep, h]

end Sys2Proof.Machine
end

