-- ==== Sys2Proof/Tests/Slice0.lean ====
section
/-! SUPPORT. Small tests of the model, and for every obligation with hypotheses a state that meets them. Expected values are worked out by hand from the chapters named. -/

section

set_option Elab.async false

open Sys2Proof Sys2Proof.Machine

/-! ## Small states -/

/-- What a next state shows; none of a fault or a refusal. -/
def tShow {α : Type} (o : Out) (f : State → α) : Option α :=
  match o with
  | .next t => some (f t)
  | _ => none

/-- The state of a next outcome; the given state where there is none. -/
def tNext (s : State) (o : Out) : State :=
  match o with
  | .next t => t
  | _ => s

/-- The state after an instruction. -/
def tAfter (s : State) (i : Instr) : State := tNext s (exec i s)

/-- A context of group 1, member 0 in core 0, slot 0: supervisor, vector extension, workspace 0x1000, handler at 0x802 with workspace 0x3000, at slot 1 of the line at 0x400. -/
def tCtx : Ctx :=
  { placedCtx 0 0 with
    cr := [(0x000, 0xC), (0x005, 0x802), (0x006, 0x3000), (0x012, 1), (0x0E0, 1300000)]
    line := some ⟨0x400, [0, 0], [0, 0]⟩ }

def tHeader : Header :=
  { entry := 0x402, wx := 2, hy := 1, spm := 0, vx := true, sup := true, town := 0, origin := 0xFFFF, slo := 0, slim := 0x20000,
    wp0 := 0x1000, wpstep := 0, widf := 0, widbase := 0, data := 0, doff := 0, dlen := 0, arg := 0, tvec := 0x802,
    twp := 0x3000, uroot := 0, lg := false, lroot := 0, wdog := 5, done := 0 }

/-- A placed member with a queue area at 0x8000 and port cells at 0x9000. -/
def tMember (core : Nat) : Member :=
  { Member.blank with pst := 0, pcore := core, qbase := 0x8000000000008000, portb := 0x8000000000009000 }

/-- Group 1: two members on cores 0 and 1. -/
def tGroup : Group :=
  { handle := 1, seq := 0, pre := [], parent := 1, part := 1, state := .running, cause := 0, hdr := tHeader,
    members := [tMember 0, tMember 1], wdCount := 0, unplaced := [], images := [], overflow := [], overflowFills := [],
    overflowBcasts := [], lgrp := 0, walkKind := 0, fromHost := false, wdDue := false }

def tPart : Part :=
  { key := 1, pub := [], clus := [0], root := 0, handles := [], policy := none, state := .live, queue := [], inbox := [],
    streams := [(7, 0)], faults := [], windows := [] }

/-- The context of group 1 running on core 0, the handler's line (one NOP) at 0x800. -/
def tState : State :=
  { State.reset.placed 0 0 with
    ctxs := [(0, tCtx)], groups := [(1, tGroup)], parts := [(1, tPart)], spad := [(0x800, 1)] }

/-- Scalar registers set. -/
def tRegs (s : State) (l : List (BitVec 4 × Word)) : State := l.foldl (fun s x => s.setW x.1 x.2) s

/-- Control registers set. -/
def tCrs (s : State) (l : List (Nat × Word)) : State := s.setCx (l.foldl (fun c x => c.set x.1 x.2) s.cx)

/-- Doublewords of core 0 set. -/
def tDws (s : State) (l : List (Nat × Nat)) : State := l.foldl (fun s x => s.wrS 0 x.1 8 x.2) s

/-- The context in user mode. -/
def tUser : State := tCrs tState [(0x000, 0x8)]

theorem test_tState_calm : tState.calm = true ∧ tState.sound = true ∧ tState.memOk = true ∧ tState.cx.rep = none ∧
    tUser.cx.sup = false := by decide +kernel

/-! ## The machine -/

/-- The first step after reset with an instruction placed runs it: ADDI w1, w2, 5 and the PC after it. -/
theorem test_step_addi : tShow (step (State.reset.withFetchWord 48 (0x120A + 0x5 * 65536))) (fun t => (t.w 1, (t.ctx 0).pc)) =
    some (5, 0x442) := by decide +kernel

/-! ## Ill-formed terms, one for each instruction whose bits are checked (03 R56, R74) -/

theorem test_illFormed_1 :
    wellFormed (.add 15 15 15 63) = false ∧ wellFormed (.sub 15 15 15 63) = false ∧ wellFormed (.and 15 15 15 63) = false ∧
    wellFormed (.or 15 15 15 63) = false ∧ wellFormed (.xor 15 15 15 63) = false ∧ wellFormed (.andn 15 15 15 63) = false ∧
    wellFormed (.shl 15 15 15 63) = false ∧ wellFormed (.shr 15 15 15 63) = false ∧ wellFormed (.sar 15 15 15 63) = false ∧
    wellFormed (.rol 15 15 15 63) = false ∧ wellFormed (.min 15 15 15 63) = false ∧ wellFormed (.max 15 15 15 63) = false ∧
    wellFormed (.minN 15 15 15 63) = false ∧ wellFormed (.maxN 15 15 15 63) = false ∧ wellFormed (.slt 15 15 15 63) = false ∧
    wellFormed (.sltN 15 15 15 63) = false ∧ wellFormed (.seq 15 15 15 63) = false ∧ wellFormed (.mul 15 15 15 63) = false ∧
    wellFormed (.mulh 15 15 15 63) = false ∧ wellFormed (.mulhN 15 15 15 63) = false ∧ wellFormed (.div 15 15 15 63) = false ∧
    wellFormed (.divN 15 15 15 63) = false ∧ wellFormed (.rem 15 15 15 63) = false ∧ wellFormed (.remN 15 15 15 63) = false ∧
    wellFormed (.addw 15 15 15 63) = false ∧ wellFormed (.subw 15 15 15 63) = false ∧ wellFormed (.mulw 15 15 15 63) = false ∧
    wellFormed (.adds 15 15 15 63) = false ∧ wellFormed (.subs 15 15 15 63) = false ∧
    wellFormed (.clz 15 15 15 63) = false := by decide +kernel

theorem test_illFormed_2 :
    wellFormed (.ctz 15 15 15 63) = false ∧ wellFormed (.popc 15 15 15 63) = false ∧ wellFormed (.brev 15 15 15 63) = false ∧
    wellFormed (.bswap 15 15 15 63) = false ∧ wellFormed (.wpget 15 15 15 63) = false ∧
    wellFormed (.wpset 15 15 15 63) = false ∧ wellFormed (.yield 15 15 15 63) = false ∧
    wellFormed (.wfld 15 15 15 63) = false ∧ wellFormed (.sel 15 15 15 63) = false ∧ wellFormed (.selz 15 15 15 63) = false ∧
    wellFormed (.jr 15 15 15 63) = false ∧ wellFormed (.callr 15 15 15 63) = false ∧ wellFormed (.ldxB 15 15 15 63) = false ∧
    wellFormed (.ldxBn 15 15 15 63) = false ∧ wellFormed (.ldxH 15 15 15 63) = false ∧
    wellFormed (.ldxHn 15 15 15 63) = false ∧ wellFormed (.ldxW 15 15 15 63) = false ∧
    wellFormed (.ldxWn 15 15 15 63) = false ∧ wellFormed (.ldxD 15 15 15 63) = false ∧
    wellFormed (.ldxQ 15 15 15 63) = false ∧ wellFormed (.stxB 15 15 15 63) = false ∧ wellFormed (.stxH 15 15 15 63) = false ∧
    wellFormed (.stxW 15 15 15 63) = false ∧ wellFormed (.stxD 15 15 15 63) = false ∧ wellFormed (.stxQ 15 15 15 63) = false ∧
    wellFormed (.amoSwap 15 15 15 63) = false ∧ wellFormed (.amoAdd 15 15 15 63) = false ∧
    wellFormed (.amoAnd 15 15 15 63) = false ∧ wellFormed (.amoOr 15 15 15 63) = false ∧
    wellFormed (.amoXor 15 15 15 63) = false := by decide +kernel

theorem test_illFormed_3 :
    wellFormed (.amoMin 15 15 15 63) = false ∧ wellFormed (.amoMax 15 15 15 63) = false ∧
    wellFormed (.amoMinN 15 15 15 63) = false ∧ wellFormed (.amoMaxN 15 15 15 63) = false ∧
    wellFormed (.amoCas 15 15 15 63) = false ∧ wellFormed (.amoFadd 15 15 15 63) = false ∧
    wellFormed (.fence 15 15 15 63) = false ∧ wellFormed (.fenceAcq 15 15 15 63) = false ∧
    wellFormed (.fenceRel 15 15 15 63) = false ∧ wellFormed (.redAdd 15 15 15 63) = false ∧
    wellFormed (.redAnd 15 15 15 63) = false ∧ wellFormed (.redOr 15 15 15 63) = false ∧
    wellFormed (.redXor 15 15 15 63) = false ∧ wellFormed (.redMin 15 15 15 63) = false ∧
    wellFormed (.redMax 15 15 15 63) = false ∧ wellFormed (.redFadd 15 15 15 63) = false ∧
    wellFormed (.pass 15 15 15 63) = false ∧ wellFormed (.take 15 15 15 63) = false ∧ wellFormed (.peek 15 15 15 63) = false ∧
    wellFormed (.carm 15 15 15 63) = false ∧ wellFormed (.cdec 15 15 15 63) = false ∧
    wellFormed (.cready 15 15 15 63) = false ∧ wellFormed (.cpop 15 15 15 63) = false ∧
    wellFormed (.cdone 15 15 15 63) = false ∧ wellFormed (.send 15 15 15 63) = false ∧
    wellFormed (.rpoll 15 15 15 63) = false ∧ wellFormed (.rwait 15 15 15 63) = false ∧
    wellFormed (.radv 15 15 15 63) = false ∧ wellFormed (.rbind 15 15 15 63) = false ∧
    wellFormed (.rclose 15 15 15 63) = false := by decide +kernel

theorem test_illFormed_4 :
    wellFormed (.qrec 15 15 15 63) = false ∧ wellFormed (.qthaw 15 15 15 63) = false ∧
    wellFormed (.qfreeze 15 15 15 63) = false ∧ wellFormed (.barSync 15 15 15 63) = false ∧
    wellFormed (.barArrive 15 15 15 63) = false ∧ wellFormed (.barWait 15 15 15 63) = false ∧
    wellFormed (.dbarSync 15 15 15 63) = false ∧ wellFormed (.dbarArrive 15 15 15 63) = false ∧
    wellFormed (.dbarWait 15 15 15 63) = false ∧ wellFormed (.lock 15 15 15 63) = false ∧
    wellFormed (.trylock 15 15 15 63) = false ∧ wellFormed (.unlock 15 15 15 63) = false ∧
    wellFormed (.heir 15 15 15 63) = false ∧ wellFormed (.disown 15 15 15 63) = false ∧
    wellFormed (.estq 15 15 15 63) = false ∧ wellFormed (.ack 15 15 15 63) = false ∧
    wellFormed (.convey 15 15 15 63) = false ∧ wellFormed (.fork 15 15 15 63) = false ∧
    wellFormed (.rdv 15 15 15 63) = false ∧ wellFormed (.cpy 15 15 15 63) = false ∧ wellFormed (.cpyt 15 15 15 63) = false ∧
    wellFormed (.cevq 15 15 15 63) = false ∧ wellFormed (.launch 15 15 15 63) = false ∧
    wellFormed (.exit 15 15 15 63) = false ∧ wellFormed (.kill 15 15 15 63) = false ∧
    wellFormed (.gstat 15 15 15 63) = false ∧ wellFormed (.fstep 15 15 15 63) = false ∧
    wellFormed (.rfade 15 15 15 63) = false ∧ wellFormed (.rinit 15 15 15 63) = false ∧
    wellFormed (.rwgt 15 15 15 63) = false := by decide +kernel

theorem test_illFormed_5 :
    wellFormed (.bcast 15 15 15 63) = false ∧ wellFormed (.bacc 15 15 15 63) = false ∧
    wellFormed (.bwait 15 15 15 63) = false ∧ wellFormed (.bseq 15 15 15 63) = false ∧ wellFormed (.ldd 15 15 15 63) = false ∧
    wellFormed (.std 15 15 15 63) = false ∧ wellFormed (.redx 15 15 15 63) = false ∧ wellFormed (.pbind 15 15 15 63) = false ∧
    wellFormed (.punbind 15 15 15 63) = false ∧ wellFormed (.pstat 15 15 15 63) = false ∧
    wellFormed (.lnkstat 15 15 15 63) = false ∧ wellFormed (.filld 15 15 15 63) = false ∧
    wellFormed (.tret 15 15 15 63) = false ∧ wellFormed (.wfm 15 15 15 63) = false ∧ wellFormed (.time 15 15 15 63) = false ∧
    wellFormed (.capr 15 15 15 63) = false ∧ wellFormed (.migrate 15 15 15 63) = false ∧
    wellFormed (.halt 15 15 15 63) = false := by decide +kernel

/-! ## A word for every encoding, set bit by bit from the opcode table, the opcode map and the forms of 03 R52 to R55 -/

theorem test_decode_major_00 :
    decode 0x3100 0x0 = some (.nop 3 1) := by decide +kernel

theorem test_decode_major_01 :
    decode 0x1F05 0xC0 = some (.add 1 15 3 0) ∧ decode 0x1F05 0x4C0 = some (.sub 1 15 3 0) ∧
    decode 0x1F05 0x8C0 = some (.and 1 15 3 0) ∧ decode 0x1F05 0xCC0 = some (.or 1 15 3 0) ∧
    decode 0x1F05 0x10C0 = some (.xor 1 15 3 0) ∧ decode 0x1F05 0x14C0 = some (.andn 1 15 3 0) ∧
    decode 0x1F05 0x18C0 = some (.shl 1 15 3 0) ∧ decode 0x1F05 0x1CC0 = some (.shr 1 15 3 0) ∧
    decode 0x1F05 0x20C0 = some (.sar 1 15 3 0) ∧ decode 0x1F05 0x24C0 = some (.rol 1 15 3 0) ∧
    decode 0x1F05 0x28C0 = some (.min 1 15 3 0) ∧ decode 0x1F05 0x2CC0 = some (.max 1 15 3 0) ∧
    decode 0x1F05 0x30C0 = some (.minN 1 15 3 0) ∧ decode 0x1F05 0x34C0 = some (.maxN 1 15 3 0) ∧
    decode 0x1F05 0x38C0 = some (.slt 1 15 3 0) ∧ decode 0x1F05 0x3CC0 = some (.sltN 1 15 3 0) ∧
    decode 0x1F05 0x40C0 = some (.seq 1 15 3 0) ∧ decode 0x1F05 0x44C0 = some (.mul 1 15 3 0) ∧
    decode 0x1F05 0x48C0 = some (.mulh 1 15 3 0) ∧ decode 0x1F05 0x4CC0 = some (.mulhN 1 15 3 0) ∧
    decode 0x1F05 0x50C0 = some (.div 1 15 3 0) ∧ decode 0x1F05 0x54C0 = some (.divN 1 15 3 0) ∧
    decode 0x1F05 0x58C0 = some (.rem 1 15 3 0) ∧ decode 0x1F05 0x5CC0 = some (.remN 1 15 3 0) ∧
    decode 0x1F05 0x60C0 = some (.addw 1 15 3 0) ∧ decode 0x1F05 0x64C0 = some (.subw 1 15 3 0) ∧
    decode 0x1F05 0x68C0 = some (.mulw 1 15 3 0) ∧ decode 0x1F05 0x6CC0 = some (.adds 1 15 3 0) ∧
    decode 0x1F05 0x70C0 = some (.subs 1 15 3 0) ∧ decode 0x1F05 0x74C0 = some (.clz 1 15 3 0) ∧
    decode 0x1F05 0x78C0 = some (.ctz 1 15 3 0) ∧ decode 0x1F05 0x7CC0 = some (.popc 1 15 3 0) ∧
    decode 0x1F05 0x80C0 = some (.brev 1 15 3 0) ∧ decode 0x1F05 0x84C0 = some (.bswap 1 15 3 0) := by decide +kernel

theorem test_decode_major_02 :
    decode 0x3C0A 0x0242A5B1 = some (.addi 3 12 9 173489) ∧ decode 0x3C0A 0x0642A5B1 = some (.andi 3 12 9 173489) ∧
    decode 0x3C0A 0x0A42A5B1 = some (.ori 3 12 9 173489) ∧ decode 0x3C0A 0x0E42A5B1 = some (.xori 3 12 9 173489) ∧
    decode 0x3C0A 0x12400025 = some (.shli 3 12 9 37) ∧ decode 0x3C0A 0x16400025 = some (.shri 3 12 9 37) ∧
    decode 0x3C0A 0x1A400025 = some (.sari 3 12 9 37) ∧ decode 0x3C0A 0x1E400025 = some (.roli 3 12 9 37) ∧
    decode 0x3C0A 0x2242A5B1 = some (.muli 3 12 9 173489) ∧ decode 0x3C0A 0x2642A5B1 = some (.slti 3 12 9 173489) ∧
    decode 0x3C0A 0x2A42A5B1 = some (.sltiN 3 12 9 173489) ∧
    decode 0x3C0A 0x2E42A5B1 = some (.seqi 3 12 9 173489) := by decide +kernel

theorem test_decode_major_03 :
    decode 0x3C0F 0x02409A0B1C2D = some (.li 3 12 9 2584419373) ∧
    decode 0x3C0F 0x06409A0B1C2D = some (.lih 3 12 9 2584419373) ∧
    decode 0x3C0F 0x0A409A0B1C2D = some (.liz 3 12 9 2584419373) ∧
    decode 0x3C0F 0x0E409A0B1C2D = some (.la 3 12 9 2584419373) := by decide +kernel

theorem test_decode_major_04 :
    decode 0x3110 0x0 = some (.mov 3 1) := by decide +kernel

theorem test_decode_major_05 :
    decode 0x3C16 0x02400041 = some (.crr 3 12 9 65) ∧ decode 0x3C16 0x06400041 = some (.crw 3 12 9 65) ∧
    decode 0x3C16 0x0A400041 = some (.crs 3 12 9 65) ∧ decode 0x3C16 0x0E400041 = some (.crc 3 12 9 65) := by decide +kernel

theorem test_decode_major_06 :
    decode 0x1F19 0xC0 = some (.wpget 1 15 3 0) ∧ decode 0x1F19 0x4C0 = some (.wpset 1 15 3 0) ∧
    decode 0x1F19 0x8C0 = some (.yield 1 15 3 0) ∧ decode 0xFD19 0xCC5 = some (.wfld 15 13 3 5) := by decide +kernel

theorem test_decode_major_07 :
    decode 0xFD1D 0xC1 = some (.sel 15 13 3 1) ∧ decode 0xFD1D 0x4C1 = some (.selz 15 13 3 1) := by decide +kernel

theorem test_decode_major_0F :
    decode 0x1F3D 0xC0 = some (.jr 1 15 3 0) ∧ decode 0x1F3D 0x4C0 = some (.callr 1 15 3 0) := by decide +kernel

theorem test_decode_major_10 :
    decode 0x3C42 0xA0000071 = some (.b 3 12 83886083 17) := by decide +kernel

theorem test_decode_major_11 :
    decode 0x3C46 0xA0000071 = some (.call 3 12 83886083 17) := by decide +kernel

theorem test_decode_major_12 :
    decode 0x3C4A 0xA0000071 = some (.bz 3 12 83886083 17) ∧ decode 0x3C4E 0xA0000071 = some (.bnz 3 12 83886083 17) ∧
    decode 0x3C52 0xA0000071 = some (.blt 3 12 83886083 17) ∧ decode 0x3C56 0xA0000071 = some (.bge 3 12 83886083 17) ∧
    decode 0x3C5A 0xA0000071 = some (.bltN 3 12 83886083 17) ∧
    decode 0x3C5E 0xA0000071 = some (.bgeN 3 12 83886083 17) := by decide +kernel

theorem test_decode_major_18 :
    decode 0x3C62 0x0242A5B1 = some (.ldB 3 12 9 173489) ∧ decode 0x3C62 0x0642A5B1 = some (.ldBn 3 12 9 173489) ∧
    decode 0x3C62 0x0A42A5B1 = some (.ldH 3 12 9 173489) ∧ decode 0x3C62 0x0E42A5B1 = some (.ldHn 3 12 9 173489) ∧
    decode 0x3C62 0x1242A5B1 = some (.ldW 3 12 9 173489) ∧ decode 0x3C62 0x1642A5B1 = some (.ldWn 3 12 9 173489) ∧
    decode 0x3C62 0x1A42A5B1 = some (.ldD 3 12 9 173489) ∧
    decode 0x3C62 0x1E42A5B1 = some (.ldQ 3 12 9 173489) := by decide +kernel

theorem test_decode_major_19 :
    decode 0x3C66 0x0242A5B1 = some (.stB 3 12 9 173489) ∧ decode 0x3C66 0x0642A5B1 = some (.stH 3 12 9 173489) ∧
    decode 0x3C66 0x0A42A5B1 = some (.stW 3 12 9 173489) ∧ decode 0x3C66 0x0E42A5B1 = some (.stD 3 12 9 173489) ∧
    decode 0x3C66 0x1242A5B1 = some (.stQ 3 12 9 173489) := by decide +kernel

theorem test_decode_major_1A :
    decode 0x1F69 0xC0 = some (.ldxB 1 15 3 0) ∧ decode 0x1F69 0x4C0 = some (.ldxBn 1 15 3 0) ∧
    decode 0x1F69 0x8C0 = some (.ldxH 1 15 3 0) ∧ decode 0x1F69 0xCC0 = some (.ldxHn 1 15 3 0) ∧
    decode 0x1F69 0x10C0 = some (.ldxW 1 15 3 0) ∧ decode 0x1F69 0x14C0 = some (.ldxWn 1 15 3 0) ∧
    decode 0x1F69 0x18C0 = some (.ldxD 1 15 3 0) ∧ decode 0x1F69 0x1CC0 = some (.ldxQ 1 15 3 0) := by decide +kernel

theorem test_decode_major_1B :
    decode 0x1F6D 0xC0 = some (.stxB 1 15 3 0) ∧ decode 0x1F6D 0x4C0 = some (.stxH 1 15 3 0) ∧
    decode 0x1F6D 0x8C0 = some (.stxW 1 15 3 0) ∧ decode 0x1F6D 0xCC0 = some (.stxD 1 15 3 0) ∧
    decode 0x1F6D 0x10C0 = some (.stxQ 1 15 3 0) := by decide +kernel

theorem test_decode_major_20 :
    decode 0xB981 0xDA = some (.amoSwap 11 9 3 26) ∧ decode 0xB981 0x4DA = some (.amoAdd 11 9 3 26) ∧
    decode 0xB981 0x8DA = some (.amoAnd 11 9 3 26) ∧ decode 0xB981 0xCDA = some (.amoOr 11 9 3 26) ∧
    decode 0xB981 0x10DA = some (.amoXor 11 9 3 26) ∧ decode 0xB981 0x14DA = some (.amoMin 11 9 3 26) ∧
    decode 0xB981 0x18DA = some (.amoMax 11 9 3 26) ∧ decode 0xB981 0x1CDA = some (.amoMinN 11 9 3 26) ∧
    decode 0xB981 0x20DA = some (.amoMaxN 11 9 3 26) ∧ decode 0xB981 0x24DA = some (.amoCas 11 9 3 26) ∧
    decode 0xDB81 0x28DE = some (.amoFadd 13 11 3 30) := by decide +kernel

theorem test_decode_major_21 :
    decode 0xFD85 0xD0 = some (.fence 15 13 3 16) ∧ decode 0xFD85 0x4D0 = some (.fenceAcq 15 13 3 16) ∧
    decode 0xFD85 0x8D0 = some (.fenceRel 15 13 3 16) := by decide +kernel

theorem test_decode_major_22 :
    decode 0x3C89 0x9A5E = some (.waitc 3 12 9 10 5 14) := by decide +kernel

theorem test_decode_major_23 :
    decode 0xB98D 0xDC = some (.redAdd 11 9 3 28) ∧ decode 0xB98D 0x4DC = some (.redAnd 11 9 3 28) ∧
    decode 0xB98D 0x8DC = some (.redOr 11 9 3 28) ∧ decode 0xB98D 0xCDC = some (.redXor 11 9 3 28) ∧
    decode 0x978D 0x10DD = some (.redMin 9 7 3 29) ∧ decode 0x978D 0x14DD = some (.redMax 9 7 3 29) ∧
    decode 0xDB8D 0x18DC = some (.redFadd 13 11 3 28) := by decide +kernel

theorem test_decode_major_24 :
    decode 0x3C92 0x0242A5B1 = some (.ldf 3 12 9 173489) ∧ decode 0x3C92 0x0642A5B1 = some (.ldfe 3 12 9 173489) ∧
    decode 0x3C92 0x0A42A5B1 = some (.fill 3 12 9 173489) ∧ decode 0x3C92 0x0E42A5B1 = some (.fillX 3 12 9 173489) ∧
    decode 0x3C92 0x1242A5B1 = some (.empty 3 12 9 173489) ∧
    decode 0x3C92 0x1642A5B1 = some (.feq 3 12 9 173489) := by decide +kernel

theorem test_decode_major_25 :
    decode 0xFD95 0xC1 = some (.pass 15 13 3 1) ∧ decode 0xFD95 0x4C1 = some (.take 15 13 3 1) ∧
    decode 0xFD95 0x8C1 = some (.peek 15 13 3 1) := by decide +kernel

theorem test_decode_major_28 :
    decode 0xDBA1 0xC7 = some (.carm 13 11 3 7) ∧ decode 0x1FA1 0x4C0 = some (.cdec 1 15 3 0) ∧
    decode 0x1FA1 0x8C0 = some (.cready 1 15 3 0) ∧ decode 0xDBA1 0xCC3 = some (.cpop 13 11 3 3) ∧
    decode 0x1FA1 0x10C0 = some (.cdone 1 15 3 0) := by decide +kernel

theorem test_decode_major_29 :
    decode 0x1FA5 0xC0 = some (.send 1 15 3 0) ∧ decode 0xFDA5 0x4C1 = some (.rpoll 15 13 3 1) ∧
    decode 0xFDA5 0x8C1 = some (.rwait 15 13 3 1) ∧ decode 0xFDA5 0xCC1 = some (.radv 15 13 3 1) ∧
    decode 0xFDA5 0x10C1 = some (.rbind 15 13 3 1) ∧ decode 0xFDA5 0x14C1 = some (.rclose 15 13 3 1) := by decide +kernel

theorem test_decode_major_2A :
    decode 0xFDA9 0xC1 = some (.qrec 15 13 3 1) ∧ decode 0x1FA9 0x4C0 = some (.qthaw 1 15 3 0) ∧
    decode 0x1FA9 0x8C0 = some (.qfreeze 1 15 3 0) := by decide +kernel

theorem test_decode_major_2C :
    decode 0xFDB1 0xC1 = some (.barSync 15 13 3 1) ∧ decode 0xFDB1 0x4C1 = some (.barArrive 15 13 3 1) ∧
    decode 0xFDB1 0x8C1 = some (.barWait 15 13 3 1) ∧ decode 0x1FB1 0xCC0 = some (.dbarSync 1 15 3 0) ∧
    decode 0x1FB1 0x10C0 = some (.dbarArrive 1 15 3 0) ∧ decode 0x1FB1 0x14C0 = some (.dbarWait 1 15 3 0) := by decide +kernel

theorem test_decode_major_2D :
    decode 0xFDB5 0xD0 = some (.lock 15 13 3 16) ∧ decode 0xFDB5 0x4D0 = some (.trylock 15 13 3 16) ∧
    decode 0xFDB5 0x8D0 = some (.unlock 15 13 3 16) := by decide +kernel

theorem test_decode_major_2E :
    decode 0xFDB9 0xC1 = some (.heir 15 13 3 1) ∧ decode 0x1FB9 0x4C0 = some (.disown 1 15 3 0) ∧
    decode 0x1FB9 0x8C0 = some (.estq 1 15 3 0) ∧ decode 0x1FB9 0xCC0 = some (.ack 1 15 3 0) ∧
    decode 0x1FB9 0x10C0 = some (.convey 1 15 3 0) := by decide +kernel

theorem test_decode_major_2F :
    decode 0x1FBD 0xC0 = some (.fork 1 15 3 0) ∧ decode 0x1FBD 0x4C0 = some (.rdv 1 15 3 0) ∧
    decode 0x1FBD 0x8C0 = some (.cpy 1 15 3 0) ∧ decode 0x1FBD 0xCC0 = some (.cpyt 1 15 3 0) ∧
    decode 0xFDBD 0x10C1 = some (.cevq 15 13 3 1) := by decide +kernel

theorem test_decode_major_30 :
    decode 0x3CC2 0x01102501 = some (.vadd 3 12 8 16 4 5 1) ∧ decode 0x3CC2 0x05102501 = some (.vsub 3 12 8 16 4 5 1) ∧
    decode 0x3CC2 0x09102501 = some (.vmul 3 12 8 16 4 5 1) ∧ decode 0x3CC2 0x0D102501 = some (.vmin 3 12 8 16 4 5 1) ∧
    decode 0x3CC2 0x11102501 = some (.vmax 3 12 8 16 4 5 1) ∧ decode 0x3CC2 0x15102501 = some (.vand 3 12 8 16 4 5 1) ∧
    decode 0x3CC2 0x19102501 = some (.vor 3 12 8 16 4 5 1) ∧ decode 0x3CC2 0x1D102501 = some (.vxor 3 12 8 16 4 5 1) ∧
    decode 0x3CC2 0x21102501 = some (.vshl 3 12 8 16 4 5 1) ∧ decode 0x3CC2 0x25102501 = some (.vshr 3 12 8 16 4 5 1) ∧
    decode 0x3CC2 0x29102501 = some (.vsar 3 12 8 16 4 5 1) ∧ decode 0x3CC2 0x2D102501 = some (.vadds 3 12 8 16 4 5 1) ∧
    decode 0x3CC2 0x31102501 = some (.vsubs 3 12 8 16 4 5 1) ∧
    decode 0x3CC2 0x35102501 = some (.vabs 3 12 8 16 4 5 1) := by decide +kernel

theorem test_decode_major_31 :
    decode 0x3CC6 0x01102501 = some (.vfadd 3 12 8 16 4 5 1) ∧ decode 0x3CC6 0x05102501 = some (.vfsub 3 12 8 16 4 5 1) ∧
    decode 0x3CC6 0x09102501 = some (.vfmul 3 12 8 16 4 5 1) ∧ decode 0x3CC6 0x0D102501 = some (.vfma 3 12 8 16 4 5 1) ∧
    decode 0x3CC6 0x11102501 = some (.vfmin 3 12 8 16 4 5 1) ∧ decode 0x3CC6 0x15102501 = some (.vfmax 3 12 8 16 4 5 1) ∧
    decode 0x3CC6 0x19102501 = some (.vrcp 3 12 8 16 4 5 1) ∧ decode 0x3CC6 0x1D102501 = some (.vrsq 3 12 8 16 4 5 1) ∧
    decode 0x3CC6 0x21102501 = some (.vexp2 3 12 8 16 4 5 1) ∧ decode 0x3CC6 0x25102501 = some (.vlog2 3 12 8 16 4 5 1) ∧
    decode 0x3CC6 0x29102501 = some (.vfneg 3 12 8 16 4 5 1) ∧
    decode 0x3CC6 0x2D102501 = some (.vfabs 3 12 8 16 4 5 1) := by decide +kernel

theorem test_decode_major_32 :
    decode 0x3CCA 0x00D02501 = some (.vcmpEq 3 12 6 16 4 5 1) ∧ decode 0x3CCA 0x04D02501 = some (.vcmpLt 3 12 6 16 4 5 1) ∧
    decode 0x3CCA 0x08D02501 = some (.vcmpLe 3 12 6 16 4 5 1) ∧ decode 0x3CCA 0x0CD02501 = some (.vcmpNe 3 12 6 16 4 5 1) ∧
    decode 0x3CCA 0x11102500 = some (.vblend 3 12 8 16 4 5 0) ∧ decode 0x3CCA 0x14C22000 = some (.kand 3 12 6 2 4 0 0) ∧
    decode 0x3CCA 0x18C22000 = some (.kor 3 12 6 2 4 0 0) ∧ decode 0x3CCA 0x1CC22000 = some (.kxor 3 12 6 2 4 0 0) ∧
    decode 0x3CCA 0x20C22000 = some (.knot 3 12 6 2 4 0 0) ∧
    decode 0x3CCA 0x24C22000 = some (.kpop 3 12 6 2 4 0 0) := by decide +kernel

theorem test_decode_major_33 :
    decode 0x3CCE 0x0110256A = some (.vcvt 3 12 8 16 4 5 106) ∧ decode 0x3CCE 0x05102002 = some (.vpack 3 12 8 16 4 0 2) ∧
    decode 0x3CCE 0x09102005 = some (.vunpk 3 12 8 16 4 0 5) ∧
    decode 0x3CCE 0x0D102501 = some (.vrnd 3 12 8 16 4 5 1) := by decide +kernel

theorem test_decode_major_34 :
    decode 0x3CD2 0x01102501 = some (.vld 3 12 8 16 4 5 1) ∧ decode 0x3CD2 0x05102501 = some (.vst 3 12 8 16 4 5 1) ∧
    decode 0x3CD2 0x09102500 = some (.vlds 3 12 8 16 4 5 0) ∧ decode 0x3CD2 0x0D102500 = some (.vsts 3 12 8 16 4 5 0) ∧
    decode 0x3CD2 0x11102500 = some (.vgath 3 12 8 16 4 5 0) ∧ decode 0x3CD2 0x15102500 = some (.vscat 3 12 8 16 4 5 0) ∧
    decode 0x3CD2 0x190620C9 = some (.vstk 3 12 8 6 4 0 201) ∧
    decode 0x3CD2 0x1CD020C9 = some (.vldb 3 12 6 16 4 0 201) := by decide +kernel

theorem test_decode_major_35 :
    decode 0x3CD6 0x01102500 = some (.vshuf 3 12 8 16 4 5 0) ∧ decode 0x3CD6 0x05102500 = some (.vbcast 3 12 8 16 4 5 0) ∧
    decode 0x3CD6 0x0910200D = some (.vext 3 12 8 16 4 0 13) ∧ decode 0x3CD6 0x0D102501 = some (.vrot 3 12 8 16 4 5 1) ∧
    decode 0x3CD6 0x1110200D = some (.vins 3 12 8 16 4 0 13) := by decide +kernel

theorem test_decode_major_36 :
    decode 0x3CDA 0x01102501 = some (.vscanAdd 3 12 8 16 4 5 1) ∧
    decode 0x3CDA 0x05102501 = some (.vscanMax 3 12 8 16 4 5 1) ∧
    decode 0x3CDA 0x09102500 = some (.vscanLin 3 12 8 16 4 5 0) ∧ decode 0x3CDA 0x0D102501 = some (.vredAdd 3 12 8 16 4 5 1) ∧
    decode 0x3CDA 0x11102501 = some (.vredMax 3 12 8 16 4 5 1) ∧
    decode 0x3CDA 0x15102501 = some (.vcarry 3 12 8 16 4 5 1) := by decide +kernel

theorem test_decode_major_37 :
    decode 0x3CDE 0x02401A5B = some (.rep 3 12 9 6747) := by decide +kernel

theorem test_decode_major_38 :
    decode 0x3CE2 0x00502000 = some (.mma 3 12 2 16 4 0 0) ∧ decode 0x3CE2 0x04502000 = some (.mmau 3 12 2 16 4 0 0) ∧
    decode 0x3CE2 0x08502000 = some (.mmas 3 12 2 16 4 0 0) ∧
    decode 0x3CE2 0x0C502000 = some (.mmaus 3 12 2 16 4 0 0) := by decide +kernel

theorem test_decode_major_39 :
    decode 0x3CE6 0x00502500 = some (.mzero 3 12 2 16 4 5 0) ∧ decode 0x3CE6 0x04502567 = some (.mlda 3 12 2 16 4 5 103) ∧
    decode 0x3CE6 0x08502596 = some (.msta 3 12 2 16 4 5 150) ∧ decode 0x3CE6 0x0C502512 = some (.mstm 3 12 2 16 4 5 18) ∧
    decode 0x3CE6 0x10502500 = some (.mdrain 3 12 2 16 4 5 0) := by decide +kernel

theorem test_decode_major_3B :
    decode 0x1FED 0xC0 = some (.launch 1 15 3 0) ∧ decode 0x1FED 0x4C0 = some (.exit 1 15 3 0) ∧
    decode 0x1FED 0x8C0 = some (.kill 1 15 3 0) ∧ decode 0x1FED 0xCC0 = some (.gstat 1 15 3 0) := by decide +kernel

theorem test_decode_major_3C :
    decode 0x1FF1 0xC0 = some (.fstep 1 15 3 0) ∧ decode 0xFDF1 0x4E1 = some (.tick 15 13 3 33) ∧
    decode 0x1FF1 0x8C0 = some (.rfade 1 15 3 0) ∧ decode 0x1FF1 0xCC0 = some (.rinit 1 15 3 0) ∧
    decode 0x1FF1 0x10C0 = some (.rwgt 1 15 3 0) := by decide +kernel

theorem test_decode_major_3D :
    decode 0x1FF5 0xC0 = some (.bcast 1 15 3 0) ∧ decode 0x1FF5 0x4C0 = some (.bacc 1 15 3 0) ∧
    decode 0x1FF5 0x8C0 = some (.bwait 1 15 3 0) ∧ decode 0x1FF5 0xCC0 = some (.bseq 1 15 3 0) := by decide +kernel

theorem test_decode_major_3E :
    decode 0xFDF9 0xC8 = some (.ldd 15 13 3 8) ∧ decode 0xFDF9 0x4C8 = some (.std 15 13 3 8) ∧
    decode 0x1FF9 0x8C0 = some (.redx 1 15 3 0) ∧ decode 0x1FF9 0xCC0 = some (.lnkctlRnew 1 15 3) ∧
    decode 0x1FF9 0xCC1 = some (.lnkctlRfree 1 15 3) ∧ decode 0x1FF9 0xCC2 = some (.lnkctlPark 1 15 3) ∧
    decode 0x1FF9 0xCC3 = some (.lnkctlLight 1 15 3) ∧ decode 0x1FF9 0xCC4 = some (.lnkctlRetrain 1 15 3) ∧
    decode 0x1FF9 0x10C0 = some (.pbind 1 15 3 0) ∧ decode 0x1FF9 0x14C0 = some (.punbind 1 15 3 0) ∧
    decode 0xFDF9 0x18C1 = some (.pstat 15 13 3 1) ∧ decode 0xFDF9 0x1CC1 = some (.lnkstat 15 13 3 1) ∧
    decode 0x1FF9 0x20C0 = some (.filld 1 15 3 0) := by decide +kernel

theorem test_decode_major_3F :
    decode 0xFDFD 0xE1 = some (.trap 15 13 3 33) ∧ decode 0x1FFD 0x4C0 = some (.tret 1 15 3 0) ∧
    decode 0xFDFD 0x8E1 = some (.break 15 13 3 33) ∧ decode 0x1FFD 0xCC0 = some (.wfm 1 15 3 0) ∧
    decode 0xFDFD 0x10C1 = some (.time 15 13 3 1) ∧ decode 0x1FFD 0x14C0 = some (.capr 1 15 3 0) ∧
    decode 0x1FFD 0x18C0 = some (.migrate 1 15 3 0) ∧ decode 0x1FFD 0x1CC0 = some (.probeStop 1 15 3) ∧
    decode 0x1FFD 0x1CC1 = some (.probeResume 1 15 3) ∧ decode 0x1FFD 0x1CC2 = some (.probeStep 1 15 3) ∧
    decode 0x1FFD 0x1CC3 = some (.probeRarm 1 15 3) ∧ decode 0x1FFD 0x1CC4 = some (.probeRtrig 1 15 3) ∧
    decode 0x1FFD 0x1CC5 = some (.probeCkpt 1 15 3) ∧ decode 0x1FFD 0x20C0 = some (.halt 1 15 3 0) := by decide +kernel


/-- Whether a fetch finds a line. -/
def tFetchOk (s : State) (cid pc : Nat) : Bool :=
  match s.fetch cid pc with
  | .ok _ _ => true
  | _ => false

/-- Whether a write of a control register is accepted. -/
def tAccepts (o : CrOut) : Bool :=
  match o with
  | .ok _ => true
  | _ => false

/-- ADDI w1, w2, 5 in the line at hand. -/
def tAddi : State := tState.setCx { tCtx with line := some ⟨0x400, [0x120A], [5]⟩ }

theorem test_witness_EncodeThenDecode : wellFormed (.addi 1 2 0 5) = true ∧ encode (.addi 1 2 0 5) = some (0x120A, 5) := by
  decide +kernel

theorem test_witness_DecodeThenEncode : 0x120A < 65536 ∧ 5 < 65536 ^ (0x120A % 4) ∧ decode 0x120A 5 = some (.addi 1 2 0 5) := by
  decide +kernel

theorem test_witness_StepRunsDecoded : let s := tAddi
    s.powered = true ∧ s.agenda = [] ∧ s.engine = false ∧ s.boot = .up ∧
      s.turns[s.turn % s.turns.length]? = some (0, false) ∧ (s.core 0).running = some 0 ∧
      (let u := { s with turn := s.turn + 1, engine := true, cur := 0 * 8 + 0 }
       (s.leaving u.cx.group u.cx.vcore && u.cx.call.isNone && !u.cx.stepping && u.cx.lddRes.isNone) = false ∧
         u.boundary.isNone = true ∧ u.cx.walk = [] ∧ u.repWaits = false ∧ u.cx.line.isSome = true ∧ u.bits = some (0x120A, 5) ∧
         decode 0x120A 5 = some (.addi 1 2 0 5) ∧ (decodeCause u (.addi 1 2 0 5) = none ∧ u.cx.bkpHit = none) ∧
         u.held 0x120A 5 = false ∧ u.waitsLog (.addi 1 2 0 5) = false) := by decide +kernel

theorem test_witness_LineFetched : let s : State := { tState.setCx { tCtx with line := none } with spad := [(0x400, 1)] }
    s.boundary.isNone = true ∧ s.cx.walk = [] ∧ s.repWaits = false ∧ s.cx.line = none ∧ s.fetchHeld s.cur (.spad s.here (s.cx.pc.toNat / 64 * 64)) = false ∧
      s.cx.pc.toNat < 0x20000 ∧ s.softSpad = [] ∧ s.cx.pc.toNat % 2 = 0 ∧ s.cx.pc.toNat % 64 ≠ 0 ∧ s.badSpad = [] ∧
      decodeLine (readBytes s.spad (spadKey s.here (s.cx.pc.toNat / 64 * 64)) 64) = some ⟨[0], [0]⟩ ∧
      s.cx.pc.toNat % 64 / 2 ≤ 1 := by decide +kernel

theorem test_witness_StepKeepsMemory : tAddi.memOk = true ∧ tShow (step tAddi) (fun t => t.memOk) = some true := by
  decide +kernel

/-- A store in the step: ST.d w1, [w2 + 0] with w2 = 0x2000 leaves a canonical memory. -/
theorem test_step_store :
    tShow (step ((tRegs tState [(1, 7), (2, 0x2000)]).setCx { tCtx with line := some ⟨0x400, [0x1266], [0x0C000000]⟩ }))
      (fun t => (t.memOk, t.rdS 0 0x2000 8)) = some (true, 7) := by decide +kernel

/-! ## Traps -/

theorem test_witness_TrapEntry : let s := tState
    isCopy s.cur = false ∧ s.cx.serving = false ∧ s.cx.rep = none ∧ s.cx.depth < 15 ∧ s.footOk s.cx.handlerWp = true ∧
      wpOk s.cx.wp s.cx.foot = true ∧ touches [(s.cx.wp - 64, 64)] (s.onTheWay s.cur s.here) = false ∧ tFetchOk s s.cur (s.cx.get 0x005).toNat = true ∧ s.unlanded s.cur = false := by
  decide +kernel

/-- BREAK 9 (11 R230, R232): CAUSE 0x0A, TVAL 9, TPC its own PC, TST the old ST, TWP the old WP, DEPTH 1, the PC at TVEC, and the handler's workspace. -/
theorem test_break_entry : tShow (exec (.break 0 0 0 9) tState) (fun t =>
    ([t.cx.get 0x002, t.cx.get 0x003, t.cx.get 0x001, t.cx.get 0x004, t.cx.get 0x006, t.cx.pc], t.cx.depth, t.cx.wp)) =
    some ([0x0A, 9, 0x402, 0xC, 0x1000, 0x802], 1, 0x3000) := by decide +kernel

theorem test_witness_EntryFailure : let s := tCrs tState [(0x000, 0xF00C)]
    let u := tCrs tState [(0x006, 0)]
    isCopy s.cur = false ∧ s.cx.serving = false ∧ s.cx.rep = none ∧ s.cx.depth = 15 ∧ 64 ≤ s.cx.wp ∧
      s.cx.wp + s.cx.foot ≤ 0x20000 ∧ (mget s.parts (s.partOf s.cx.group)).isSome = true ∧
      (isCopy u.cur = false ∧ u.cx.serving = false ∧ u.cx.rep = none ∧ u.footOk u.cx.handlerWp = false ∧ 64 ≤ u.cx.wp ∧
        u.cx.wp + u.cx.foot ≤ 0x20000 ∧ (mget u.parts (u.partOf u.cx.group)).isSome = true) := by decide +kernel

theorem test_entry_failure : tShow (exec (.break 0 0 0 9) (tCrs tState [(0x000, 0xF00C)])) (fun t =>
    (t.cx.state, t.cx.get 0x002, t.cx.wp, (mget t.parts 1).map (fun p => p.queue.map (fun r => r.cause)))) =
    some (.stopped none true, 0, 0x1000, some [0x0E]) := by decide +kernel

theorem test_witness_TrapReturn : let s := tCrs tState [(0x000, 0x100C), (0x001, 0x406), (0x004, 0x8), (0x006, 0x2000)]
    s.cx.depth ≠ 0 ∧ bitsOf (s.cx.get 0x004).toNat 16 48 = 0 ∧ bitsOf (s.cx.get 0x004).toNat 6 6 = 0 ∧
      bitAt (s.cx.get 0x004).toNat 4 = false ∧ s.cx.sup = true ∧ s.footOk (s.cx.get 0x006).toNat = true ∧
      touches [((s.cx.get 0x006).toNat - 64, 64)] (s.onTheWay s.cur s.here ++ s.dstBytes s.cur ++ s.tileRanges s.cur) = false := by
  decide +kernel

theorem test_witness_TrapReturn_bad : let s := tCrs tState [(0x000, 0x100C), (0x004, 0x18)]
    let u := tCrs tState [(0x000, 0x1008), (0x004, 0xC)]
    tState.cx.depth = 0 ∧ s.cx.depth ≠ 0 ∧ bitAt (s.cx.get 0x004).toNat 4 = true ∧
      (u.cx.depth ≠ 0 ∧ bitsOf (u.cx.get 0x004).toNat 16 48 = 0 ∧ bitsOf (u.cx.get 0x004).toNat 6 6 = 0 ∧
        bitAt (u.cx.get 0x004).toNat 4 = false ∧ u.cx.sup = false ∧ bitAt (u.cx.get 0x004).toNat 2 = true) := by
  decide +kernel

/-- TRET to user mode (11 R235): PC from TPC, WP from TWP, DEPTH back to 0, SUP from TST, VX kept, TVAL from the header. -/
theorem test_tret : tShow (exec (.tret 0 0 0 0) (tDws (tCrs tState [(0x000, 0x100C), (0x001, 0x406), (0x004, 0x8), (0x006, 0x2000)])
    [(0x1FE0, 77)])) (fun t => (t.cx.pc, t.cx.wp, t.cx.depth, t.cx.sup, t.cx.vx, t.cx.get 0x003)) =
    some (0x406, 0x2000, 0, false, true, 77) := by decide +kernel

theorem test_witness_DeferredAndWake : let s := tState.setCx { tCtx with pendSat := [(3, some 2)], tileWait := [1] }
    let u := tState.setCx { tCtx with pendBrv := some 8 }
    let v := tState.setCx { tCtx with state := .blocked (.ring 2) }
    let x := tState.setCx { tCtx with state := .blocked (.ring 2), parkLong := true, parkRun := 4096 }
    let y := tState.setCx { tCtx with state := .blocked (.cpop false), parkRun := 4096 }
    (mget s.ctxs 0).isSome = true ∧ (s.ctx 0).state = .running ∧ (s.ctx 0).call = none ∧ (s.ctx 0).pendLoad = [] ∧
      (s.ctx 0).walk = [] ∧ (s.asCid 0).trapWait = none ∧ (s.ctx 0).pendSat = [(3, some 2)] ∧ (s.ctx 0).tileWait.contains 2 = false ∧
      ((u.ctx 0).state = .running ∧ (u.asCid 0).trapWait = none ∧ (u.ctx 0).pendSat = [] ∧ (u.ctx 0).pendBrv = some 8) ∧
      ((v.ctx 0).state = .blocked (.ring 2) ∧ isCopy 0 = false ∧ (v.core 0).log.on = false ∧ (v.ctx 0).parkLong = false ∧
        (v.ctx 0).woken = false ∧ v.waitOver 0 (.ring 2) = true ∧ (v.latch.ctx 0).woken = true) ∧
      ((x.ctx 0).parkLong = true ∧ 4096 ≤ (x.ctx 0).parkRun) ∧
      ((y.ctx 0).state = .blocked (.cpop false) ∧ 4096 ≤ (y.ctx 0).parkRun) := by decide +kernel

/-- A saturation trap that is due is taken with the counter's number, and a wake that is noted makes the context READY (02 R33, 18 R313). -/
theorem test_deferred : tShow (exec (.deferredTrap 0) (tState.setCx { tCtx with pendSat := [(3, none), (4, none)] })) (fun t =>
      ((t.ctx 0).get 0x002, (t.ctx 0).get 0x003, (t.ctx 0).pendSat)) = some (0x18, 3, [(4, none)]) ∧
    tShow (exec (.wakeArrival 0) (tState.setCx { tCtx with state := .blocked (.ring 2), woken := true })) (fun t =>
      (t.ctx 0).state) = some .ready := by decide +kernel

/-! ## Scalar instructions -/

theorem test_witness_AluResult : (aluOf tState (.add 1 2 3 0)).isSome = true ∧ tState.regBad [2, 3] = none ∧
    (1 : Word) ≠ 0 ∧ tState.cx.wp + 128 ≤ 0x20000 := by decide +kernel

/-- Sixteen results with w2 = -7, w3 = 3 (06 R123, R124). -/
theorem test_alu : let s := tRegs tState [(2, -7), (3, 3)]
    let v (i : Instr) : Option Word := tShow (exec i s) (fun t => t.w 1)
    v (.add 1 2 3 0) = some (-4) ∧ v (.sub 1 2 3 0) = some (-10) ∧ v (.and 1 2 3 0) = some 1 ∧ v (.or 1 2 3 0) = some (-5) ∧
      v (.xor 1 2 3 0) = some (-6) ∧ v (.andn 1 2 3 0) = some (-8) ∧ v (.shl 1 2 3 0) = some (-56) ∧
      v (.shr 1 2 3 0) = some 0x1FFFFFFFFFFFFFFF ∧ v (.sar 1 2 3 0) = some (-1) ∧ v (.rol 1 2 3 0) = some (-49) ∧
      v (.min 1 2 3 0) = some (-7) ∧ v (.max 1 2 3 0) = some 3 ∧ v (.minN 1 2 3 0) = some 3 ∧ v (.maxN 1 2 3 0) = some (-7) ∧
      v (.slt 1 2 3 0) = some 1 ∧ v (.sltN 1 2 3 0) = some 0 := by decide +kernel

theorem test_mul_div : let s := tRegs tState [(2, -7), (3, 3)]
    let v (i : Instr) : Option Word := tShow (exec i s) (fun t => t.w 1)
    v (.seq 1 2 3 0) = some 0 ∧ v (.mul 1 2 3 0) = some (-21) ∧ v (.mulh 1 2 3 0) = some (-1) ∧ v (.mulhN 1 2 3 0) = some 2 ∧
      v (.div 1 2 3 0) = some (-2) ∧ v (.rem 1 2 3 0) = some (-1) ∧ v (.divN 1 2 3 0) = some 0x5555555555555553 ∧
      v (.remN 1 2 3 0) = some 0 ∧ v (.div 1 2 4 0) = some (-1) ∧ v (.rem 1 2 4 0) = some (-7) := by decide +kernel

theorem test_saturating_and_counts : let s := tRegs tState [(2, 0x7FFFFFFFFFFFFFFF), (3, 1), (4, 0x0000F0000000000C)]
    let v (i : Instr) : Option Word := tShow (exec i s) (fun t => t.w 1)
    v (.adds 1 2 3 0) = some 0x7FFFFFFFFFFFFFFF ∧ v (.subs 1 3 2 0) = some 0x8000000000000002 ∧ v (.clz 1 4 0 0) = some 16 ∧
      v (.ctz 1 4 0 0) = some 2 ∧ v (.popc 1 4 0 0) = some 6 ∧ v (.brev 1 3 0 0) = some 0x8000000000000000 ∧
      v (.bswap 1 4 0 0) = some 0x0C00000000F00000 := by decide +kernel

theorem test_pairs : let s := tRegs tState [(2, 0xFFFFFFFFFFFFFFFF), (3, 0), (4, 2), (5, 0)]
    tShow (exec (.addw 6 2 4 0) s) (fun t => (t.w 6, t.w 7)) = some (1, 1) ∧
      tShow (exec (.subw 6 4 2 0) s) (fun t => (t.w 6, t.w 7)) = some (3, 0xFFFFFFFFFFFFFFFF) ∧
      tShow (exec (.mulw 6 2 4 0) s) (fun t => (t.w 6, t.w 7)) = some (0xFFFFFFFFFFFFFFFE, 1) := by decide +kernel

theorem test_immediates : let s := tRegs tState [(1, 0x1111111122222222), (2, 6)]
    let v (i : Instr) : Option Word := tShow (exec i s) (fun t => t.w 1)
    v (.addi 1 2 0 0x3FFFFF) = some 5 ∧ v (.andi 1 2 0 3) = some 2 ∧ v (.ori 1 2 0 1) = some 7 ∧ v (.xori 1 2 0 0x3FFFFF) = some (-7) ∧
      v (.shli 1 2 0 63) = some 0 ∧ v (.shri 1 2 0 1) = some 3 ∧ v (.sari 1 2 0 1) = some 3 ∧ v (.roli 1 2 0 4) = some 96 ∧
      v (.muli 1 2 0 0x3FFFFF) = some (-6) ∧ v (.slti 1 2 0 0x3FFFFF) = some 0 ∧ v (.sltiN 1 2 0 0x3FFFFF) = some 1 ∧
      v (.seqi 1 2 0 6) = some 1 ∧ v (.li 1 0 0 0x80000000) = some 0xFFFFFFFF80000000 ∧
      v (.liz 1 0 0 0x80000000) = some 0x80000000 ∧ v (.lih 1 0 0 5) = some 0x0000000522222222 ∧
      v (.la 1 0 0 0x10) = some 0x412 := by decide +kernel

theorem test_moves : let s := tRegs tState [(2, 6), (3, 9)]
    let v (i : Instr) : Option Word := tShow (exec i s) (fun t => t.w 1)
    v (.mov 1 2) = some 6 ∧ v (.sel 1 2 3 4) = some 9 ∧ v (.selz 1 2 3 4) = some 6 ∧
      tShow (exec (.nop 0 0) s) (fun t => t.cx.pc) = some 0x404 := by decide +kernel

theorem test_witness_TransferResult : (jumpOf tState (.b 0 0 16 1)).map (fun x => (x.2.1, x.2.2.1)) = some (true, 0x802) ∧
    tState.regBad [] = none ∧ tFetchOk tState tState.cur 0x802 = true ∧
    (jumpOf tState (.bnz 1 0 16 1)).map (fun x => x.2.1) = some false := by decide +kernel

/-- Branches with w1 = -1 and w2 = 1 (06 R133, R134): taken ones go to 0x802, the others to 0x404; CALL links. -/
theorem test_branches : let s := tRegs tState [(1, -1), (2, 1), (3, 0x802)]
    let p (i : Instr) : Option Word := tShow (exec i s) (fun t => t.cx.pc)
    p (.b 0 0 16 1) = some 0x802 ∧ p (.bz 1 0 16 1) = some 0x404 ∧ p (.bnz 1 0 16 1) = some 0x802 ∧
      p (.blt 1 2 16 1) = some 0x802 ∧ p (.bge 1 2 16 1) = some 0x404 ∧ p (.bltN 1 2 16 1) = some 0x404 ∧
      p (.bgeN 1 2 16 1) = some 0x802 ∧ p (.jr 3 0 0 0) = some 0x802 ∧
      tShow (exec (.callr 3 0 0 0) s) (fun t => (t.cx.pc, t.w 15)) = some (0x802, 0x404) ∧
      tShow (exec (.call 0 0 16 1) s) (fun t => (t.cx.pc, t.w 15)) = some (0x802, 0x404) := by decide +kernel

/-- A taken branch to an address without a line raises X_ILLEGAL_LINE and links nothing (06 R132, 03 R66). -/
theorem test_branch_bad : tShow (exec (.call 0 0 32 1) tState) (fun t => (t.cx.get 0x002, t.cx.get 0x003, t.w 15)) =
    some (0x01, 0xC02, 0) := by decide +kernel

theorem test_witness_SequentialFlow : tState.cx.line.isSome = true ∧ tState.cx.rep = none ∧ tState.sound = true ∧
    (let dest := (tState.cx.pc &&& ~~~63#64) + (16 : BitVec 27).signExtend 64 * 64 + ((1 : BitVec 5).setWidth 64) * 2
     dest = 0x802 ∧ tFetchOk tState tState.cur dest.toNat = true ∧
       tState.w 1 = 0) := by decide +kernel

/-- From the last slot of a line to slot 1 of the next (03 R60). -/
theorem test_next_line : tShow (exec (.nop 0 0) (tState.setCx { tCtx with pc := 0x404 })) (fun t => (t.cx.pc, t.cx.line)) =
    some (0x442, none) := by decide +kernel

theorem test_witness_JumpChecks : let s := tRegs tState [(1, 0x803), (2, 0x840), (3, 0x804)]
    s.sound = true ∧ (s.w 1).toNat % 2 = 1 ∧ (s.w 2).toNat % 64 = 0 ∧
      (s.w 3).toNat / 64 * 64 = 0x800 ∧ 1 < (s.w 3).toNat % 64 / 2 ∧
      s.lineAt 0x800 (readBytes s.spad (spadKey 0 0x800) 64) ∧
      decodeLine (readBytes s.spad (spadKey 0 0x800) 64) = some ⟨[0], [0]⟩ := by
  refine ⟨by decide +kernel, by decide +kernel, by decide +kernel, by decide +kernel, by decide +kernel, ?_, by decide +kernel⟩
  exact ⟨by decide +kernel, by decide +kernel, by decide +kernel, rfl⟩

theorem test_witness_MoveAndSelect : let s : State := { tState with badSpad := [0x1010 / 8] }
    tState.regBad [2] = none ∧ tState.regBad [2, 3, 4] = none ∧ s.regBad [2] = some 0x1010 ∧ s.regBad [2, 3, 4] = some 0x1010 := by
  decide +kernel

theorem test_witness_DivisionRule : tState.regBad [2, 3] = none ∧ (3 : Word) ≠ 0 ∧
    ¬ ((-7 : Word).toInt = -(2 ^ 63) ∧ (3 : Word).toInt = -1) := by decide +kernel

theorem test_witness_PairRule : odd 6 = false ∧ odd 2 = false ∧ odd 4 = false ∧ odd 3 = true ∧
    tState.regBad [2, 2 + 1, 4, 4 + 1] = none ∧ tState.regBad [2, 4] = none ∧ tState.cx.wp + 128 ≤ 0x20000 := by decide +kernel

theorem test_witness_Capabilities : let s : State := { tState with badSpad := [0x1010 / 8] }
    tState.regBad [2] = none ∧ s.regBad [2] = some 0x1010 := by decide +kernel

theorem test_capb : (tState.readCr 0x0F1) = 0x000018000001000A ∧
    tShow (exec (.capr 1 2 0 0) tState) (fun t => t.w 1) = some 0x0001010000001800 := by decide +kernel

theorem test_witness_NanLayout : 6143 < 6144 ∧ mkNan 6143 600 = 0x7FEFFFFF := by decide +kernel

theorem test_witness_LineDecoding : let bs : List Byte := 1 :: List.replicate 63 0
    bs.length = 64 ∧ decodeLine bs = some ⟨[0], [0]⟩ ∧ decodeLine (List.replicate 64 0) = none := by decide +kernel

/-! ## Control registers, workspace, YIELD -/

theorem test_witness_CrAccess : crNo 0x041 ≠ 0x011 ∧ crNo 0x041 ≠ 0x023 ∧ crNo 0x011 = 0x011 ∧ crNo 0x023 = 0x023 ∧
    tUser.cx.sup = false ∧ tState.cx.sup = true ∧ tState.regBad [1] = none ∧ tAccepts (tState.writeCr 0x041 0x2000) = true ∧
    tAccepts (tState.writeCr 0x041 (tState.readCr 0x041 ||| tState.w 1)) = true ∧
    (tUser.readCr 0x000 ^^^ 4) &&& toWord (crRs 0x000) ≠ 0 := by decide +kernel

/-- In user mode, with bit 2 of ST to set and bit 3 of LGRP to clear. -/
theorem test_witness_CrAccess_user : let s := tRegs (tCrs tState [(0x000, 0x8), (0x043, 0x8)]) [(1, 4), (2, 8)]
    s.cx.sup = false ∧ s.regBad [1] = none ∧ (s.readCr 0x000 ^^^ (s.readCr 0x000 ||| s.w 1)) &&& toWord (crRs 0x000) ≠ 0 ∧
      (s.readCr 0x043 ^^^ (s.readCr 0x043 &&& ~~~(s.w 2))) &&& toWord (crRs 0x043) ≠ 0 ∧
      tShow (exec (.crs 3 1 0 0x000) s) (fun t => (t.cx.get 0x002, t.cx.get 0x003)) = some (0x03, 0) := by decide +kernel

theorem test_cr : let s := tRegs tState [(1, 0x27), (2, 0x20)]
    tShow (exec (.crr 3 0 0 0x012) s) (fun t => t.w 3) = some 1 ∧
      tShow (exec (.crw 1 0 0 0x000) s) (fun t => t.cx.get 0x000) = some 0x2F ∧
      tShow (exec (.crs 3 2 0 0x000) s) (fun t => (t.w 3, t.cx.get 0x000)) = some (0xC, 0x2C) ∧
      tShow (exec (.crc 3 1 0 0x000) s) (fun t => (t.w 3, t.cx.get 0x000)) = some (0xC, 0x8) ∧
      tShow (exec (.crr 3 0 0 0x011) tUser) (fun t => (t.cx.get 0x002, t.cx.get 0x003)) = some (0x03, 0x011) := by decide +kernel

theorem test_witness_RegisterWriteSteps : (mget tState.ctxs 0).isSome = true ∧
    tAccepts ((tState.asCid 0).writeCr 0x082 0x8000000000008000) = true ∧
    tAccepts ((tState.asCid 0).writeCr 0x0A0 0x8000000000009000) = true ∧
    tAccepts ((tState.asCid 0).writeCr 0x0B0 0) = true ∧ tAccepts ((tState.asCid 0).writeRate 0x050 5) = true := by decide +kernel

theorem test_witness_WorkspaceAndYield : let s := tRegs tState [(1, 0x4000), (2, 0x4008), (3, 0x1FF00), (4, 128)]
    let n := (s.w 1).toNat
    s.calm = true ∧ n % 128 = 0 ∧ 128 ≤ n ∧ n + s.cx.foot ≤ 0x20000 ∧
      inArea s.mem.qbase (n - 64) (64 + s.cx.foot) = none ∧ (s.w 2).toNat % 128 ≠ 0 ∧
      ((s.w 3).toNat % 128 = 0 ∧ 0x20000 < (s.w 3).toNat + s.cx.foot) ∧ (s.w 4).toNat = 128 ∧ s.otherReady s.cur = false ∧
      ({ s with ctxs := s.ctxs ++ [(1, Ctx.blank)] } : State).otherReady 0 = true := by decide +kernel

theorem test_workspace : let s := tRegs tState [(1, 0x4000)]
    tShow (exec (.wpset 1 0 0 0) s) (fun t => (t.cx.wp, t.cx.pc)) = some (0x4000, 0x404) ∧
      tShow (exec (.wpget 3 0 0 0) s) (fun t => t.w 3) = some 0x1000 ∧
      tShow (exec (.yield 0 0 0 0) ({ s with ctxs := s.ctxs ++ [(1, Ctx.blank)] } : State)) (fun t =>
        ((t.ctx 0).state, (t.ctx 0).pc)) = some (.ready, 0x404) ∧
      tShow (exec (.wfld 3 2 0 2) (tRegs (tCrs tState [(0x014, 0x184)]) [(2, 0x75)])) (fun t => t.w 3) = some 7 := by decide +kernel

/-! ## Memory -/

/-- `State.wordAt` by its place, as a test. -/
def tWordAt (s : State) (scope n : Nat) (counts wr rel : Bool) (addr : Nat) (a : At) (l : Loc) : Bool :=
  let e : Elem := ⟨addr, n, probeOp wr, 0, 0, false⟩
  decide (addr % n = 0) && s.inScope scope (rngOf addr) && decide (s.locateAll 2 [e] = .ok [a]) &&
    decide (s.placeNow e a = .to l) && decide (s.wordBad e a l = none) && !s.elemHeld e a && s.wayClear l n a.vc && s.wayOpen s.here l &&
    (!counts || decide (s.classL s.cur < 64)) && !s.gated s.cur true wr && (!rel || s.drained s.cur (scope == 3)) && s.unwatched

/-- The state that has used the word's translation and placement copy. -/
def tUse (s : State) (n : Nat) (wr : Bool) (addr : Nat) (a : At) : State := s.atUse ⟨addr, n, probeOp wr, 0, 0, false⟩ a

theorem tWordAt_spec {s : State} {scope n : Nat} {counts wr rel : Bool} {addr : Nat} {a : At} {l : Loc}
    (h : tWordAt s scope n counts wr rel addr a l = true) : s.wordAt scope n counts wr rel addr l (tUse s n wr addr a) := by
  simp only [tWordAt, Bool.and_eq_true, Bool.or_eq_true, Bool.not_eq_true', decide_eq_true_eq, and_assoc] at h
  obtain ⟨h1, h2, h3, h4, h5, h6, h7, h0, h8, h9, h10, h11⟩ := h
  exact ⟨h1, h2, ⟨a, h3, h4, h5, h6, h7, h0, rfl⟩, fun hc => by simpa [hc] using h8, h9, fun hr _ => by simpa [hr] using h10, h11⟩

/-- `State.ready` as a test. -/
def tReady (s : State) (f : MemForm) (as : List At) : Bool :=
  decide (s.regBad f.regs = none) && decide (f.addr.toNat % min f.n 8 = 0) && (decide (f.n ≠ 16) || oneRange f.addr.toNat 16) &&
    decide (s.locateAll f.scope f.es = .ok as) && decide (s.dataBad (f.es.zip as) = none) &&
    (f.es.zip as).all (fun x => !s.elemHeld x.1 x.2) && !s.gated s.cur true false && !s.classFull (f.es.zip as) && s.unwatched

theorem tReady_spec {s : State} {f : MemForm} {as : List At} (h : tReady s f as = true) : s.ready f as := by
  simp only [tReady, Bool.and_eq_true, Bool.or_eq_true, Bool.not_eq_true', decide_eq_true_eq, and_assoc] at h
  obtain ⟨h1, h2, h3, h4, h5, h6, h7, h8, h9⟩ := h
  exact ⟨h1, h2, fun hn => by simpa [hn] using h3, h4, h5, h6, h7, h8, h9⟩

/-- `State.readsAt` by its places, as a test; the values read are `d`. -/
def tReads (s : State) (es : List Elem) (as : List At) (d : List Nat) : Bool :=
  decide (s.locateAll 2 es = .ok as) && decide (s.dataBad (es.zip as) = none) &&
    (es.zip as).all (fun x => s.placeNow x.1 x.2 != .wait && !s.elemHeld x.1 x.2 && s.elemClear x.1 x.2) &&
    decide (s.shutAt (es.zip as) = none) && !s.gated s.cur true false &&
    s.unwatched && decide (d = (es.zip as).map (fun x => s.rdNow x.1 x.2))

/-- The state that has used the translations and placement copies of a read. -/
def tUsed (s : State) (es : List Elem) (as : List At) : State :=
  ((es.zip as).foldl (fun t x => t.useNow x.1 x.2) s).noFault

theorem tReads_spec {s : State} {es : List Elem} {as : List At} {d : List Nat} (h : tReads s es as d = true) :
    s.readsAt es d (tUsed s es as) := by
  simp only [tReads, Bool.and_eq_true, Bool.not_eq_true', decide_eq_true_eq, and_assoc] at h
  obtain ⟨h1, h2, h3, h4, h5, h6, h7⟩ := h
  exact ⟨as, h1, h2, h3, h4, h5, h6, h7, rfl⟩

/-- The elements of `n` doublewords at an address. -/
def tEls (addr n : Nat) : List Elem := (upTo n).map (fun i => ⟨addr + 8 * i, 8, .load, 0, 0, false⟩)

/-- w2 = 0x2000, w3 = 5, w4 = 0x2003, and the doubleword at 0x2000 holds 0x80. -/
def tMem : State := tDws (tRegs tState [(2, 0x2000), (3, 5), (4, 0x2003)]) [(0x2000, 0x80)]

theorem test_witness_MemoryResult :
    (memOf tMem (.ldD 1 2 0 0)).any (fun f => tReady tMem f [.loc 0x2000]) = true ∧
    (memOf tMem (.amoAdd 1 2 3 0x24)).any (fun f => tReady tMem f [.loc 0x2000]) = true ∧
    tMem.sound = true ∧ (memOf tMem (.ldD 1 4 0 0)).any (fun f => decide (f.addr.toNat % min f.n 8 ≠ 0)) = true := by
  decide +kernel

theorem test_witness_LocalAccess : tMem.calm = true ∧ tMem.cx.wp + 128 ≤ 0x20000 ∧
    (memOf tMem (.ldB 1 2 0 0)).any (fun f => decide (f.es.map (fun e => e.op) = [.load] ∧ f.addr.toNat % min f.n 8 = 0 ∧
      f.addr.toNat + f.n ≤ 0x20000)) = true ∧
    (memOf tMem (.stB 3 2 0 0)).any (fun f => decide (f.es.map (fun e => e.op) = [.store 5] ∧ f.addr.toNat % min f.n 8 = 0 ∧
      f.addr.toNat + f.n ≤ 0x20000 ∧ inArea tMem.mem.qbase f.addr.toNat f.n = none)) = true ∧
    (memOf tMem (.amoAdd 1 2 3 0)).any (fun f => decide (f.es.map (fun e => (e.op, e.dst)) = [(.amo 1 64 5 0, 0x1008)] ∧
      f.addr.toNat % f.n = 0 ∧ f.addr.toNat + f.n ≤ 0x20000 ∧ inArea tMem.mem.qbase f.addr.toNat f.n = none)) = true ∧
    tMem.fwdFor tMem.here tMem.cx.group 0x2000 8 = none ∧ tMem.fwdFor tMem.here tMem.cx.group 0x2000 1 = none := by decide +kernel

theorem test_witness_LocalAccess_atomic : let s := tAfter tMem (.amoAdd 1 2 3 0)
    let u := tNext s (execRequestPerform 0 s)
    s.reqs.map (fun r => (r.id, r.op.atomic, s.ripe r, decide (s.serve r = .here), decide (r.phase = .issued))) =
        [(0, true, true, true, true)] ∧
      u.reqs.map (fun r => (r.id, u.ripe r, decide (u.serve r = .here), decide (r.phase = .readDone), r.val, r.seen)) =
        [(0, true, true, true, 0x80, 0x80)] := by decide +kernel

/-- Loads, stores, atomics and reductions through the local window (08 R169, R173). -/
theorem test_loads : let s := tMem
    let v (i : Instr) : Option Word := tShow (exec i s) (fun t => t.w 1)
    v (.ldB 1 2 0 0) = some 0xFFFFFFFFFFFFFF80 ∧ v (.ldBn 1 2 0 0) = some 0x80 ∧ v (.ldH 1 2 0 0) = some 0x80 ∧
      v (.ldHn 1 2 0 0) = some 0x80 ∧ v (.ldW 1 2 0 0) = some 0x80 ∧ v (.ldWn 1 2 0 0) = some 0x80 ∧ v (.ldD 1 2 0 0) = some 0x80 ∧
      tShow (exec (.ldQ 6 2 0 0) s) (fun t => (t.w 6, t.w 7)) = some (0x80, 0) ∧
      v (.ldxB 1 2 5 0) = some 0xFFFFFFFFFFFFFF80 ∧ v (.ldxBn 1 2 5 0) = some 0x80 ∧ v (.ldxH 1 2 5 0) = some 0x80 ∧
      v (.ldxHn 1 2 5 0) = some 0x80 ∧ v (.ldxW 1 2 5 0) = some 0x80 ∧ v (.ldxWn 1 2 5 0) = some 0x80 ∧
      v (.ldxD 1 2 5 0) = some 0x80 ∧ tShow (exec (.ldxQ 6 2 5 0) s) (fun t => (t.w 6, t.w 7)) = some (0x80, 0) := by
  decide +kernel

theorem test_stores : let s := tRegs tMem [(8, 0x1122334455667788), (9, 2)]
    let v (i : Instr) : Option Nat := tShow (exec i s) (fun t => t.rdS 0 0x2000 16)
    v (.stB 8 2 0 0) = some 0x88 ∧ v (.stH 8 2 0 2) = some 0x77880080 ∧ v (.stW 8 2 0 4) = some 0x5566778800000080 ∧
      v (.stD 8 2 0 0) = some 0x1122334455667788 ∧ v (.stQ 8 2 0 0) = some 0x21122334455667788 ∧
      v (.stxB 8 2 9 0) = some 0x880080 ∧ v (.stxH 8 2 9 0) = some 0x778800000080 ∧
      v (.stxW 8 2 9 0) = some 0x556677880000000000000080 ∧ v (.stxD 8 2 5 0) = some 0x1122334455667788 ∧
      v (.stxQ 8 2 5 0) = some 0x21122334455667788 := by decide +kernel

/-- What an atomic or a reduction returns, and the doubleword at 0x2000 once it has been performed in its two steps (08 R173). -/
def tPerf (s : State) (i : Instr) : List Nat × Nat :=
  let t := tAfter s i
  let id := (t.reqs.map (fun r => r.id)).headD 0
  let u := tNext t (execRequestPerform id t)
  let u := tNext u (execRequestPerform id u)
  (u.reqs.map (fun r => r.val), u.rdS 0 0x2000 8)

/-- 2.0 at 0x2000 and 1.0 in w3. -/
def tMemF : State := tDws (tRegs tState [(2, 0x2000), (3, 0x3F800000)]) [(0x2000, 0x40000000)]

theorem test_atomics : let v := tPerf tMem
    v (.amoSwap 1 2 3 0) = ([0x80], 5) ∧ v (.amoAdd 1 2 3 0) = ([0x80], 0x85) ∧ v (.amoAnd 1 2 3 0) = ([0x80], 0) ∧
      v (.amoOr 1 2 3 0) = ([0x80], 0x85) ∧ v (.amoXor 1 2 2 0) = ([0x80], 0x2080) ∧ v (.amoMin 1 2 3 0) = ([0x80], 5) ∧
      v (.amoMax 1 2 3 0) = ([0x80], 0x80) ∧ v (.amoMinN 1 2 3 0) = ([0x80], 5) ∧ v (.amoMaxN 1 2 3 0) = ([0x80], 0x80) ∧
      v (.amoCas 1 2 3 0) = ([0x80], 0x80) ∧ tPerf tMemF (.amoFadd 1 2 3 0x08) = ([0x40000000], 0x40400000) := by decide +kernel

theorem test_reductions : let v (i : Instr) : Nat := (tPerf tMem i).2
    v (.redAdd 0 2 3 0) = 0x85 ∧ v (.redAnd 0 2 3 0) = 0 ∧ v (.redOr 0 2 3 0) = 0x85 ∧ v (.redXor 0 2 3 0) = 0x85 ∧
      v (.redMin 0 2 3 0) = 5 ∧ v (.redMax 0 2 3 0) = 0x80 ∧ (tPerf tMemF (.redFadd 0 2 3 0x08)).2 = 0x40400000 := by
  decide +kernel

/-- A misaligned load raises X_MISALIGN with the address (08 R168). -/
theorem test_misaligned : tShow (exec (.ldD 1 4 0 0) tMem) (fun t => (t.cx.get 0x002, t.cx.get 0x003)) = some (0x06, 0x2003) := by
  decide +kernel

/-- A load from another member's scratchpad goes out as a request (08 R167, 09 R179). -/
theorem test_remote_load : tShow (exec (.ldD 1 2 0 0) (tRegs tState [(2, 0x400000022000)]))
    (fun t => (t.reqs.map (fun r => r.loc), t.cx.pc)) = some ([.spad 1 0x2000], 0x404) := by decide +kernel

theorem test_witness_FencesAndWaitc : tState.waitcMet 0 0 0 0 = true ∧ tState.cx.failures = [] ∧
    (tState.setCx { tCtx with failures := [8] }).waitcMet 0 0 0 0 = true ∧
    ({ tState with flights := [⟨9, .ldd 0 0 1 true 0 8 0 none⟩] } : State).waitcMet 0 0 0 0 = false ∧
    bitsOf (0x20 : BitVec 6).toNat 4 2 ≠ 0 ∧ bitsOf (0x10 : BitVec 6).toNat 4 2 = 1 ∧ tState.trapWait.isNone = true := by decide +kernel

theorem test_fence_waitc : tShow (exec (.fence 0 0 0 0x20) tState) (fun t => t.cx.pc) = some 0x404 ∧
    tShow (exec (.fenceAcq 0 0 0 0x20) tState) (fun t => t.cx.pc) = some 0x404 ∧
    tShow (exec (.fenceRel 0 0 0 0x20) tState) (fun t => t.cx.pc) = some 0x404 ∧
    tShow (exec (.waitc 0 0 0 0 0 0) tState) (fun t => t.cx.pc) = some 0x404 ∧
    tShow (exec (.waitc 0 0 0 0 0 0) { tState with flights := [⟨9, .ldd 0 0 1 true 0 8 0 none⟩] })
      (fun t => (t.cx.state, t.cx.pc)) = some (.blocked (.waitc 0 0 0 0), 0x402) := by decide +kernel

/-! ## Futures and ports -/

/-- The tag of the word at 0x2000 full. -/
def tFull : State := tMem.setTag 0 0x2000 true

/-- The word at 0x2000 bereaved. -/
def tBereaved : State := tMem.setCore 0 { (tMem.core 0) with bereaved := [(0x2000, 0)] }

theorem test_witness_FutureResult :
    let at_ (s : State) (wr rel : Bool) : Bool := tWordAt s 2 8 false wr rel 0x2000 (.loc 0x2000) (.spad 0 0x2000)
    let use (s : State) (wr : Bool) : State := tUse s 8 wr 0x2000 (.loc 0x2000)
    tFull.sound = true ∧ (use tFull true).bereavedAt 0 0x2000 = false ∧ (use tFull true).full 0 0x2000 = true ∧
      at_ tFull false false = true ∧ at_ tFull true false = true ∧ at_ tFull true true = true ∧
      (tMem.sound = true ∧ (use tMem true).bereavedAt 0 0x2000 = false ∧ (use tMem true).full 0 0x2000 = false ∧
        at_ tMem false false = true ∧ at_ tMem true false = true ∧ at_ tMem true true = true) ∧
      (tBereaved.sound = true ∧ (use tBereaved true).bereavedAt 0 0x2000 = true ∧ at_ tBereaved false false = true ∧
        at_ tBereaved true false = true ∧ at_ tBereaved true true = true) := by decide +kernel

theorem test_futures : let v (s : State) (i : Instr) : Option (Word × Bool) := tShow (exec i s) (fun t => (t.w 1, t.full 0 0x2000))
    v tFull (.ldf 1 2 0 0) = some (0x80, true) ∧ v tFull (.ldfe 1 2 0 0) = some (0x80, false) ∧
      v tFull (.feq 1 2 0 0) = some (1, true) ∧ v tMem (.feq 1 2 0 0) = some (0, false) ∧
      v tFull (.empty 1 2 0 0) = some (0, false) ∧
      tShow (exec (.fill 3 2 0 0) tMem) (fun t => (t.rdS 0 0x2000 8, t.full 0 0x2000)) = some (5, true) ∧
      tShow (exec (.fillX 3 2 0 0) tFull) (fun t => (t.rdS 0 0x2000 8, t.full 0 0x2000)) = some (5, true) := by decide +kernel

/-- FILL of a full word: X_DOUBLE_FILL; LDF of a bereaved one: X_HEIRLESS; of an empty one: blocked (18 R315, R316). -/
theorem test_futures_stop :
    let c (s : State) (i : Instr) : Option (Word × Word) :=
      tShow (exec i s) (fun t => (t.cx.get 0x002, t.cx.get 0x003))
    c tFull (.fill 3 2 0 0) = some (0x10, 0x2000) ∧ c tBereaved (.ldf 1 2 0 0) = some (0x13, 0x2000) ∧
      tShow (exec (.ldfe 1 2 0 0) tMem) (fun t => t.cx.state) = some (.blocked (.future 0 0x2000)) := by decide +kernel

theorem test_witness_PortResult :
    let s := tState
    let u := tState.setCx { tCtx with call := some ⟨3, [(0, some 0)], false, 0⟩ }
    let v := tState.setTag 0 0x9008 true
    let x : State := { tState with flights := [⟨9, .pass 0 3 1 1 3 42⟩] }
    let y : State := { tState.setCx { tCtx with call := some ⟨3, [(0, none)], false, 0⟩ } with flights := [⟨9, .passAck 0 3 1 1 0⟩] }
    s.sound = true ∧ (s.grp s.cx.group).bind (fun g => neighbour g s.cx.vcore 1) = some 1 ∧ s.mem.portEn = true ∧
      (s.member s.cx.group 1).portEn = true ∧ s.cx.call = none ∧ (s.member 1 1).pst = 0 ∧
      s.full 1 ((s.member 1 1).cell ((1 + 2) % 4)) = false ∧ s.gated s.cur false true = false ∧
      u.cx.call = some ⟨3, [(0, some 0)], false, 0⟩ ∧
      (v.reqs = [] ∧ v.landings = [] ∧ v.flights = [] ∧ (v.core v.here).mq = [] ∧ v.full v.here (v.mem.cell 1) = true ∧ s.full s.here (s.mem.cell 1) = false) ∧
      (x.flight 9 = some (.pass 0 3 1 1 3 42) ∧ (x.grp 1).isSome = true ∧ x.full 1 ((x.member 1 1).cell 3) = false ∧ x.badSpad = []) ∧
      (y.flight 9 = some (.passAck 0 3 1 1 0) ∧ (y.ctx 0).call = some ⟨3, [(0, none)], false, 0⟩ ∧
        (y.core (coreOfCid 0)).log.on = false) := by decide +kernel

theorem test_ports :
    tShow (exec (.pass 3 0 0 1) tMem) (fun t => t.flights.map (fun f => f.cargo)) = some [.pass 0 0 1 1 3 5] ∧
    tShow (exec (.take 1 0 0 1) ((tDws tState [(0x9008, 77)]).setTag 0 0x9008 true)) (fun t => (t.w 1, t.full 0 0x9008)) =
      some (77, false) ∧
    tShow (exec (.peek 1 2 0 1) ((tDws tState [(0x9008, 77)]).setTag 0 0x9008 true)) (fun t => (t.w 1, t.w 2, t.full 0 0x9008)) =
      some (77, 1, true) ∧
    tShow (exec (.portDeposit 9) { tState with flights := [⟨9, .pass 0 3 1 1 3 42⟩] }) (fun t =>
      (t.rdS 1 0x9018 8, t.full 1 0x9018, t.flights.map (fun f => f.cargo))) = some (42, true, [.passAck 0 3 1 1 0]) := by
  decide +kernel

/-! ## Locks and the estate -/

def tHeld (owner : Nat) : State := tDws tMem [(0x2000, owner * 2 ^ 32 + 2 ^ 30)]

/-- A lock at 0x2000 that was conveyed to group 1, with its entry. -/
def tConveyed : State := { tDws tMem [(0x2000, lkWord 0 1 true true true 0)] with estate := [(0, ⟨1, 0, 0, 3, 0, true, 0, spadLoc 1 0 0x2000, 0⟩)] }

/-- Group 1 holds the future at 0x2000, bereaved by group 3. -/
def tHolds : State := { tMem with estate := [(0, ⟨1, 0, 0, 3, 2, true, 0, spadLoc 1 0 0x2000, 0⟩)] }

theorem test_witness_LockResult :
    let at_ (s : State) : Bool := tWordAt s 2 8 true true false 0x2000 (.loc 0x2000) (.spad 0 0x2000)
    let un (s : State) : Bool := tWordAt s 2 8 false true true 0x2000 (.loc 0x2000) (.spad 0 0x2000)
    let use (s : State) : State := tUse s 8 true 0x2000 (.loc 0x2000)
    let s := tMem
    s.sound = true ∧ at_ s = true ∧ lkHeld ((use s).rd (.spad 0 0x2000) 8) = false ∧
      (use s).objOf (.spad 0 0x2000) = some (0, spadLoc 1 0 0x2000) ∧
      ((use s).register 1 0 0 (0, spadLoc 1 0 0x2000)).2 = 0 ∧
      (at_ (tHeld 2) = true ∧ lkHeld ((use (tHeld 2)).rd (.spad 0 0x2000) 8) = true ∧
        lkOwner ((use (tHeld 2)).rd (.spad 0 0x2000) 8) = 2 ∧ (use (tHeld 2)).cx.group = 1 ∧ un (tHeld 2) = true) ∧
      (un (tHeld 1) = true ∧ lkHeld ((use (tHeld 1)).rd (.spad 0 0x2000) 8) = true ∧
        lkOwner ((use (tHeld 1)).rd (.spad 0 0x2000) 8) = (use (tHeld 1)).cx.group) ∧
      (at_ tConveyed = true ∧ lkHeld ((use tConveyed).rd (.spad 0 0x2000) 8) = true ∧
        lkCnv ((use tConveyed).rd (.spad 0 0x2000) 8) = true ∧ lkOwner ((use tConveyed).rd (.spad 0 0x2000) 8) = 1 ∧
        (use tConveyed).heldAt 1 (some 0) (.spad 0 0x2000) = some (0, ⟨1, 0, 0, 3, 0, true, 0, spadLoc 1 0 0x2000, 0⟩)) := by
  decide +kernel

theorem test_locks :
    tShow (exec (.lock 1 2 0 0x20) (tDws tMem [(0x2000, 0)])) (fun t => (t.rdS 0 0x2000 8, t.w 1, t.estate.map (fun e => e.2.kind))) =
      some (2 ^ 32 + 2 ^ 30, 0, [0]) ∧
    tShow (exec (.trylock 1 2 0 0x20) (tHeld 2)) (fun t => t.w 1) = some 0x8000000000000001 ∧
    tShow (exec (.lock 1 2 0 0x20) (tHeld 2)) (fun t => t.cx.state) = some (.blocked (.lockAt false 0x2000)) ∧
    tShow (exec (.unlock 1 2 0 0x20) (tHeld 1)) (fun t => t.rdS 0 0x2000 8) = some (2 ^ 32) ∧
    tShow (exec (.unlock 1 2 0 0x20) (tHeld 2)) (fun t => (t.cx.get 0x002, t.cx.get 0x003)) = some (0x08, 0x2000) := by
  decide +kernel

theorem test_witness_EstateResult : let s := tHolds
    let use (s : State) : State := tUse s 8 false 0x2000 (.loc 0x2000)
    let h : Holding := ⟨1, 0, 0, 3, 2, true, 0, spadLoc 1 0 0x2000, 0⟩
    let k : Holding := ⟨1, 0, 0, 3, 4, true, 2, 2 ^ 50 + 5, 0⟩
    let x : State := { tRegs tState [(2, 0x4000000000005)] with estate := [(7, k)] }
    s.sound = true ∧ s.handleEntry (s.w 2) = none ∧ tWordAt s 2 8 false false false 0x2000 (.loc 0x2000) (.spad 0 0x2000) = true ∧
      (use s).entryAt (.spad 0 0x2000) = some (0, h) ∧ bitsOf (2 : BitVec 6).toNat 0 3 = h.kind ∧ (use s).badHeir 0 = false ∧
      (tMem.handleEntry (tMem.w 2) = none ∧ tWordAt tMem 2 8 false false false 0x2000 (.loc 0x2000) (.spad 0 0x2000) = true ∧
        (use tMem).entryAt (.spad 0 0x2000) = none) ∧
      (x.sound = true ∧ x.handleEntry (x.w 2) = some (7, k) ∧ x.badHeir 0 = false) := by decide +kernel

theorem test_estate : let s := tHolds
    tShow (exec (.heir 1 2 0 2) s) (fun t => (t.w 1, t.estate.map (fun e => e.2.heir))) = some (0, [0]) ∧
      tShow (exec (.disown 1 2 0 0) s) (fun t => t.estate) = some [] ∧
      tShow (exec (.estq 1 2 0 0) s) (fun t => t.w 1) = some (0xC000000000000000 + 0x1000000000000000 + 3) ∧
      tShow (exec (.ack 1 2 0 0) s) (fun t => t.estate.map (fun e => (e.2.brv, e.2.former))) = some [(false, 0)] ∧
      tShow (exec (.estq 1 2 0 0) tMem) (fun t => t.w 1) = some 0 := by decide +kernel

/-! ## Codelets -/

/-- w2 = 0x2000 (a block of the own scratchpad, count 3), w3 = 5, w4 = 0x2000 of member 1. -/
def tBlock : State := tDws (tRegs tState [(2, 0x2000), (3, 5), (4, 0x400000022000)]) [(0x2000, 3)]

/-- The own deque holds at level 1 one stealable block entry, of the block at 0x2000 whose entry point is 0x802. -/
def tDeque : State := tDws tBlock [(0x8008, 0x100), (0x8000 + 128 + 512, 2 ^ 35 + 0x2000), (0x2008, 0x802)]

/-- A thief in its steal round. -/
def tThief : Ctx := { tCtx with call := some ⟨3, [(0, none)], true, 0⟩ }

/-- The group on two clusters. -/
def tWide : State := { tState.setCx tThief with groups := [(1, { tGroup with members := [tMember 0, tMember 4] })] }

theorem test_witness_CodeletResult_words : let s := tBlock
    s.calm = true ∧ (s.w 2).toNat % 16 = 0 ∧ tWordAt s 2 8 false true true 0x2000 (.loc 0x2000) (.spad 0 0x2000) = true ∧
      tWordAt s 2 8 true true true 0x2000 (.loc 0x2000) (.spad 0 0x2000) = true ∧ (s.w 2).toNat < 0x20000 ∧ qbaseEn s.mem.qbase = true ∧ (s.w 3).toNat % 2 ^ 32 ≠ 0 ∧
      (0 = s.here ∧ (s.member s.cx.group (s.vcoreAt 0)).pcore = 0 ∧ 1 < cwCnt (s.rdS 0 0x2000 8) ∧
        s.cx.wOff 1 + 8 ≤ 0x2000) ∧
      ((s.w 4).toNat % 16 = 0 ∧ tWordAt s 2 8 true true true (s.w 4).toNat (.far 1 0x2000 1) (.spad 1 0x2000) = true ∧ 1 ≠ s.here) := by
  decide +kernel

theorem test_witness_CodeletResult_deque : let s := tDeque
    let z := tCrs tBlock [(0x080, 0x4000400FF), (0x083, 0x4000), (0x084, 0x4000000010)]
    s.calm = true ∧ qbaseEn s.mem.qbase = true ∧ bitAt (s.rdS s.here (0x8000 + 32) 8) 0 = false ∧
      ((s.endServing s.cur).popOwn 1 0).isSome = true ∧
      (tBlock.calm = true ∧ ((tBlock.endServing 0).popOwn 1 0).isNone = true ∧ (tBlock.endServing 0).cx.call = none) ∧
      tBlock.cx.successors 0 0 = [] ∧ z.calm = true ∧ z.cx.successors 1 1 ≠ [] ∧
      (z.cx.successors 1 1).filterMap (fun x => z.counterBad x) = [] := by decide +kernel

theorem test_witness_CodeletResult_done :
    let s := tState.setCx { tCtx with call := some ⟨3, [(0, some 0)], false, 0⟩ }
    let u := tState.setCx { tCtx with call := some ⟨3, [(0, some decFail)], false, 0⟩ }
    let bad (k : Call) : Option (Nat × Nat) := k.answers.findSome? (fun r => (r.2.bind decCause).map (fun q => (r.1, q)))
    s.sound = true ∧ s.cx.call.map (fun k => (k.answers.all (fun r => r.2.isSome), bad k)) = some (true, none) ∧
      (u.sound = true ∧ u.cx.call.map (fun k => (k.answers.all (fun r => r.2.isSome), bad k)) = some (true, some (0, xCounterUnderflow)) ∧
        u.trapWait = none) := by decide +kernel

theorem test_witness_CodeletResult_steps :
    let x : State := { tState.wrS 1 0x2000 8 2 with flights := [⟨9, .dec 0 3 0 1 1 0x2000 0 0 0⟩] }
    let y := (tDeque.setCx tThief)
    let z := tState.setCx tThief
    x.flights = [⟨9, .dec 0 3 0 1 1 0x2000 0 0 0⟩] ∧ x.hopping 9 = false ∧ x.homeward 0 1 (.spad (x.member 1 1).pcore 0x2000) 8 (some 1) = .to (.spad 1 0x2000) ∧
      (x.member 1 ((x.vcoreOn 1 1).getD 1)).pcore = 1 ∧ 1 < cwCnt (x.rdS 1 0x2000 8) ∧ (x.core (coreOfCid 0)).log.on = false ∧
      (let r := y.hubReads 1 (y.membersIn 1 (roundCluster 0 0 (y.groupClusters 1)))
       r.hubPick 1 (roundCluster 0 0 (y.groupClusters 1)) = some 0 ∧ (r.stealFrom 1 0).isSome = true) ∧
      ((z.hubReads 1 (z.membersIn 1 (roundCluster 0 0 (z.groupClusters 1)))).hubPick 1 (roundCluster 0 0 (z.groupClusters 1)) = none ∧ (z.groupClusters 1).length ≤ 0 + 1) ∧
      ((tWide.hubReads 1 (tWide.membersIn 1 (roundCluster 0 0 (tWide.groupClusters 1)))).hubPick 1
        (roundCluster 0 0 (tWide.groupClusters 1)) = none ∧ 0 + 1 < (tWide.groupClusters 1).length) := by
  decide +kernel

/-- The strand whose decrement that is holds a call for its answer. -/
theorem test_witness_CodeletResult_answer :
    let k : Call := ⟨3, [(0, none)], false, 0⟩
    let x : State := { (tState.setCx { tCtx with call := some k }).wrS 1 0x2000 8 2 with flights := [⟨9, .dec 0 3 0 1 1 0x2000 0 0 0⟩] }
    x.hopping 9 = false ∧ x.homeward 0 1 (.spad (x.member 1 1).pcore 0x2000) 8 (some 1) = .to (.spad 1 0x2000) ∧
      1 < cwCnt (x.rdS 1 0x2000 8) ∧ (x.ctx 0).call = some k ∧ k.id = 3 ∧ k.answers = [(0, none)] ∧
      tShow (exec (.counterDecrement 9) x) (fun t => ((t.ctx 0).call.map (fun c => c.answers), cwCnt (t.rdS 1 0x2000 8))) =
        some (some [(0, some 1)], 1) := by decide +kernel

theorem test_codelets :
    tShow (exec (.carm 3 2 0 5) tBlock) (fun t => t.rdS 0 0x2000 8) = some (5 + 2 ^ 32 + 2 ^ 34 + 2 ^ 35) ∧
    tShow (exec (.cdec 1 2 0 0) tBlock) (fun t => (t.w 1, t.rdS 0 0x2000 8)) = some (2, 2) ∧
    tShow (exec (.cready 1 2 0 0) tBlock) (fun t => t.w 1) = some 1 ∧
    tShow (exec (.cpop 5 6 0 2) tBlock) (fun t => (t.w 5, t.w 6)) = some (0, 0) ∧
    tShow (exec (.cpop 5 6 0 0) tDeque) (fun t => (t.w 5, t.w 6, t.lvlCount 0 0x8000 1)) = some (0x400000002000, 0x802, 0) ∧
    tShow (exec (.cdone 1 0 0 0) tBlock) (fun t => t.cx.pc) = some 0x404 ∧
    tShow (exec (.stealRound 0) (tDeque.setCx tThief)) (fun t => t.lvlCount 0 0x8000 1) = some 0 := by decide +kernel

/-! ## Rings and messages -/

/-- Ring 2 of member 0 bound: descriptor at 0x5000, four slots at 0x6000, one message in slot 0. -/
def tRing : State :=
  let s := tDws tState [(0x5000, 0x200000 + 0x6000), (0x5008, 2 ^ 32), (0x8048, 0xC0000000 + 0x5000), (0x6020, 99)]
  { s with groups := [(1, { tGroup with members := [{ tMember 0 with rings := [(2, 0x5000, 0x200000 + 0x6000)] }, tMember 1] })] }

/-- A buffer at 0x2000 with a payload of 8 bytes; w3 names ring 2 of member 1. -/
def tSend : State := tDws (tRegs tState [(2, 0x2000), (3, 0x20001)]) [(0x2008, 8 * 2 ^ 48), (0x2020, 77)]

theorem test_witness_SendResult : let s := tSend
    s.calm = true ∧ (s.w 2).toNat % 64 = 0 ∧ (s.w 2).toNat < 0x20000 ∧ bitsOf (s.rdS s.here 0x2008 8) 48 8 = 8 ∧
      badHeader (s.rdS s.here 0x2000 8) (s.rdS s.here 0x2008 8) (s.rdS s.here 0x2010 8) (s.rdS s.here 0x2018 8) = false ∧
      (s.w 3).toNat / 2 ^ 32 = 0 ∧ bitsOf (s.w 3).toNat 20 12 = 0 ∧ bitsOf (s.w 3).toNat 0 13 < s.nMembers s.cx.group ∧
      ({ s with parts := [(1, { tPart with handles := [(5, 2 ^ 63 + 2 ^ 32)] })] } : State).handleOf 5 = some (2 ^ 63 + 2 ^ 32) := by
  decide +kernel

theorem test_send : tShow (exec (.send 0 2 3 0) tSend) (fun t =>
    (t.flights.map (fun f => match f.cargo with
      | .msg m _ => (m.dgrp, m.dvc, m.ring, m.payload.length)
      | _ => (0, 0, 0, 0)), t.cx.pc)) = some ([(1, 1, 2, 8)], 0x404) := by decide +kernel

theorem test_witness_RingResult : let s := tRegs tRing [(1, 1)]
    s.calm = true ∧ s.mem.ring 2 = some (0x5000, 0x206000) ∧ s.bound s.mem 2 = true ∧ s.ringCount s.here 0x5000 = 1 ∧
      ringDisp 0x206000 = false ∧ 0 < (s.w 1).toNat ∧ (s.w 1).toNat ≤ 1 ∧ s.isRelay s.cx.group s.cx.vcore 2 = false ∧
      (qbaseAddr s.mem.qbase + 2176 ≤ 0x20000 ∧ s.mem.pcore = s.here) ∧ s.mem.ring 3 = none ∧
      (tDws tRing [(0x5008, 0)]).ringCount 0 0x5000 = 0 := by decide +kernel

/-- The local window apart from a ring's descriptor, and the TAIL and HEAD words of the descriptor of ring 2. -/
theorem test_witness_LocalAccess_ring :
    (upTo 8).all (fun j => !tMem.ringHw tMem.here (0x2000 + j)) = true ∧
      (upTo 8).all (fun j => tRing.ringHw tRing.here (0x5008 + j)) = true ∧
      (upTo 8).all (fun j => !tRing.ringHw tRing.here (0x5000 + j)) = true ∧ tRing.calm = true ∧
      tShow (exec (.stD 2 3 0 0) (tRegs tRing [(2, 7), (3, 0x5008)])) (fun t => t.rdS 0 0x5008 8 == tRing.rdS 0 0x5008 8) = some true := by
  decide +kernel

theorem test_witness_RingResult_bind : let s := tDws (tRegs tState [(2, 0x5000)]) [(0x5000, 0x200000 + 0x6000)]
    let g := s.rdS s.here 0x5000 8
    s.calm = true ∧ qbaseEn s.mem.qbase = true ∧ s.bound s.mem 2 = false ∧ (s.w 2).toNat % 64 = 0 ∧ (s.w 2).toNat + 64 ≤ 0x20000 ∧
      bitsOf g 48 16 = 0 ∧ bitsOf g 28 4 = 0 ∧ bitsOf g 17 3 = 0 ∧ 1 ≤ ringLogn g ∧ ringLogn g ≤ 8 ∧ ringSlots g % 256 = 0 ∧
      ringSlots g + 256 * 2 ^ ringLogn g ≤ 0x20000 ∧
      touches [(qbaseAddr s.mem.qbase, 2176)] [(0x5000, 64), (ringSlots g, 256 * 2 ^ ringLogn g)] = false := by decide +kernel

theorem test_rings : let s := tRegs tRing [(1, 1)]
    tShow (exec (.rpoll 3 0 0 2) s) (fun t => t.w 3) = some 1 ∧ tShow (exec (.rwait 3 0 0 2) s) (fun t => t.w 3) = some 0x6000 ∧
      tShow (exec (.radv 1 0 0 2) s) (fun t => t.ringHead 0 0x5000) = some 1 ∧
      tShow (exec (.rclose 0 0 0 2) s) (fun t => t.bound t.mem 2) = some false ∧
      tShow (exec (.rwait 3 0 0 2) (tDws tRing [(0x5008, 0)])) (fun t => t.cx.state) = some (.blocked (.ring 2)) ∧
      tShow (exec (.rpoll 3 0 0 3) s) (fun t => t.cx.get 0x002) = some 0x04 ∧
      tShow (exec (.rbind 0 2 0 2) (tDws (tRegs tState [(2, 0x5000)]) [(0x5000, 0x200000 + 0x6000)])) (fun t =>
        (t.bound t.mem 2, t.mem.ring 2)) = some (true, some (0x5000, 0x206000)) := by decide +kernel

/-- A message to ring 2 of member 0. -/
def tMsg : Msg := ⟨0, 1, 0, 2, 0x10000, 8 * 2 ^ 48, 0, 0, [1, 2, 3, 4, 5, 6, 7, 8], 1, 8⟩

theorem test_witness_MessageSteps : let s : State := { tRing with flights := [⟨9, .msg tMsg false⟩] }
    s.fate tMsg = .deposit 0x5000 0x206000 ∧ tMsg.ddev = 0 ∧ s.hopping 9 = false ∧
      ({ tRing with flights := [⟨9, .msg tMsg true⟩] } : State).fate tMsg = .deposit 0x5000 0x206000 ∧
      ({ tRing with flights := [⟨9, .bounce tMsg false⟩] } : State).fate tMsg = .deposit 0x5000 0x206000 ∧
      (ringDisp 0x206000 = false ∧ tMsg.payload.length ≤ 224 ∧ 0x5000 + 64 ≤ 0x20000 ∧ (tRing.core 0).log.on = false ∧
        (let slot := slotAddr 0x206000 (tRing.ringTail 0 0x5000)
         slot + 256 ≤ 0x20000 ∧ slot % 256 = 0 ∧ 0x5000 + 64 ≤ slot)) := by decide +kernel

/-- A conveyed ring: the entry of ring 2 of member 0 names group 2. -/
theorem test_witness_MessageSteps_turned :
    let full : State := tDws tRing [(0x5008, 4 * 2 ^ 32)]
    let gone : State := { tRing with groups := [] }
    let away : State := { tRing with links := [(0, { Link.blank with waiting := [[9, 1]] })], flights := [⟨9, .msg { tMsg with ddev := 6 } false⟩] }
    let heir : State := { tRing with
      groups := tRing.groups ++ [(2, { tGroup with handle := 2, parent := 0 })]
      estate := [(0, ⟨2, 0, 0, 1, 3, true, 0, spadLoc 1 0 0x5000, 0⟩)] }
    full.fate tMsg = .refuse ∧ gone.fate tMsg = .bounce 1 ∧ tMsg.isBounce = false ∧ away.unsent 9 = true ∧
      heir.fate tMsg = .heir 2 := by decide +kernel

theorem test_deposit : tShow (exec (.messageArrival 9) { tRing with flights := [⟨9, .msg tMsg false⟩] }) (fun t =>
    (t.ringTail 0 0x5000, t.rdS 0 0x6120 8, t.full 0 0x6100, t.flights.length)) = some (2, 0x0807060504030201, true, 0) := by
  decide +kernel

theorem test_witness_QueueControl : let s := tRegs tRing [(2, 1)]
    let u : State := { tState with groups := [(1, { tGroup with members := [{ tMember 0 with qbase := 0 }, tMember 1] })] }
    s.calm = true ∧ qbaseEn s.mem.qbase = true ∧ qbaseAddr s.mem.qbase + 2176 ≤ 0x20000 ∧
      bitAt (s.rdS s.here (qbaseAddr s.mem.qbase + 32) 8) 0 = false ∧ s.mem.pcore = s.here ∧
      (u.calm = true ∧ qbaseEn u.mem.qbase = false) ∧
      (s.wfmBits s.cur ≠ 0 ∧ Nat.land (tState.wfmBits 0) ((tState.w 2).toNat % 2 ^ 19) = 0) := by decide +kernel

theorem test_queue_control :
    tShow (exec (.qfreeze 3 0 0 0) tBlock) (fun t => (t.rdS 0 0x8020 2, t.rdS 0 0x8028 8)) = some (0xFF01, 5) ∧
    tShow (exec (.qrec 1 0 0 1) (tDws tState [(0x8028, 55)])) (fun t => t.w 1) = some 55 ∧
    tShow (exec (.qthaw 0 0 0 0) (tDws tState [(0x8020, 1), (0x8028, 55)])) (fun t => t.rdS 0 0x8020 16) = some 0 ∧
    tShow (exec (.wfm 1 2 0 0) (tRegs tRing [(2, 4)])) (fun t => t.w 1) = some 4 ∧
    tShow (exec (.wfm 1 2 0 0) (tRegs tRing [(2, 8)])) (fun t => t.cx.state) = some (.blocked (.wfm 8)) := by decide +kernel

/-! ## Barriers -/

/-- Barrier 0 olap both members with two strands on each, barrier word `r` on member 0. -/
def tBars (r : Nat) : State :=
  { tState with groups := [(1, { tGroup with members := [{ tMember 0 with bars := [(0, toWord r)] }, tMember 1] })] }

def tBar0 : Nat := 2 ^ 63 + 2 ^ 56 + 2 ^ 24 + 2 * 2 ^ 16

theorem test_witness_BarrierResult : let s := tBars tBar0
    let u := tCrs s [(0x0B8, 0x8000000000000000)]
    let v := tRegs s [(1, 1)]
    s.calm = true ∧ s.cx.bte = false ∧ (s.grp s.cx.group).isSome = true ∧ bEn (mgetD s.mem.bars 0 0) = true ∧
      bHas (mgetD s.mem.bars 0 0) (posOf tGroup 0) = true ∧ bArr (mgetD s.mem.bars 0 0) < bCnt (mgetD s.mem.bars 0 0) + 1 ∧
      s.cx.barwNames 0 0 = false ∧ (u.cx.barwNames 0 0 = true ∧ u.calm = true ∧ u.cx.bte = false ∧
        notYet (bEpoch (mgetD u.mem.bars 0 0)) (u.cx.fld 0x0B8 32 8) = false) ∧
      notYet (bEpoch (mgetD s.mem.bars 0 0)) ((s.w 1).toNat % 256) = false ∧
      notYet (bEpoch (mgetD v.mem.bars 0 0)) ((v.w 1).toNat % 256) = true := by decide +kernel

theorem test_witness_BarrierResult_party : let s := tDws (tRegs tState [(2, 0x2000)]) [(0x2000, 1)]
    let u := tCrs s [(0x0B8, 0xC000000000002000)]
    let v := tRegs s [(1, 1)]
    s.calm = true ∧ (s.w 2).toNat % 32 = 0 ∧ (s.w 2).toNat < 0x20000 ∧ bitsOf (s.rdS s.here 0x2000 8) 34 30 = 0 ∧
      bitsOf (s.rdS s.here 0x2000 8) 16 16 < bitsOf (s.rdS s.here 0x2000 8) 0 16 ∧
      notYet (s.rdS s.here 0x2010 2 % 256) ((s.w 1).toNat % 256) = false ∧
      notYet (v.rdS v.here 0x2010 2 % 256) ((v.w 1).toNat % 256) = true ∧
      (u.cx.barwNames 1 0x2000 = true ∧ notYet (u.rdS u.here 0x2010 2 % 256) (u.cx.fld 0x0B8 32 8) = false) ∧
      bitsOf (s.rdS s.here 0x2000 8) 0 16 = 1 ∧ s.party s.cx.group s.cx.vcore 0x2000 = none ∧
      (let es := partnerElems (toWord (s.rdS s.here 0x2008 8)) 1 0
       es = [] ∧ tReads s es [] [] = true ∧ (tUsed s es []).cx.barwNames 1 0x2000 = false) := by decide +kernel

/-- Rank 0 of a party of two, its partner's entry at 0x3000. -/
theorem test_witness_BarrierResult_partner :
    let s := tDws (tRegs tState [(2, 0x2000)]) [(0x2000, 2), (0x2008, 0x3000), (0x3000, 0x10000)]
    let es := partnerElems (toWord (s.rdS s.here 0x2008 8)) 2 0
    es.map (fun e => e.va) = [0x3008] ∧ tReads s es [.loc 0x3008] [0] = true ∧ bitAt 0 31 = false := by decide +kernel

theorem test_witness_BarrierResult_steps : let s (c : Cargo) : State := { tBars tBar0 with flights := [⟨9, c⟩] }
    ((s (.barHop 1 0 0 false false)).grp 1).isSome = true ∧
      (s (.barHop 1 0 0 false false)).flight 9 = some (.barHop 1 0 0 false false) ∧
      (s (.barRel 1 0 0 false)).flight 9 = some (.barRel 1 0 0 false) ∧
      ((s (.dbarTok 0 1 0 0x2000 0 0 false 1)).flight 9 = some (.dbarTok 0 1 0 0x2000 0 0 false tGroup.part) ∧
        (s (.dbarTok 0 1 0 0x2000 0 0 false 1)).partyHeir 1 0 0x2000 = none ∧ tGroup.state = .running ∧
        ((s (.dbarTok 0 1 0 0x2000 0 0 false 1)).member 1 0).pst = 0) ∧
      (s (.dbarTok 3 1 0 0x2000 0 0 false 1)).flight 9 = some (.dbarTok 3 1 0 0x2000 0 0 false 1) ∧ 3 ≠ 0 := by decide +kernel

/-- The first of two arrivals returns episode 1; BAR.sync then waits for it; BAR.wait of episode 0 is done (19 R323, R330). -/
theorem test_barriers : let s := tBars tBar0
    tShow (exec (.barArrive 1 0 0 0) s) (fun t => (t.w 1, bArr (mgetD t.mem.bars 0 0))) = some (1, 1) ∧
      tShow (exec (.barSync 1 0 0 0) s) (fun t => (t.cx.state, t.cx.get 0x0B8)) =
        some (.blocked (.bar 0 1), 0x8000000100000000) ∧
      tShow (exec (.barWait 1 0 0 0) s) (fun t => t.cx.pc) = some 0x404 ∧
      tShow (exec (.barrierReleaseHop 9) { s with flights := [⟨9, .barRel 1 0 0 true⟩] }) (fun t =>
        (bEpoch (mgetD t.mem.bars 0 0), bBrv (mgetD t.mem.bars 0 0))) = some (1, true) := by decide +kernel

theorem test_dissemination : let s := tDws (tRegs tState [(2, 0x2000)]) [(0x2000, 1)]
    tShow (exec (.dbarArrive 1 2 0 0) s) (fun t => (t.w 1, t.rdS 0 0x2010 1)) = some (1, 1) ∧
      tShow (exec (.dbarSync 1 2 0 0) s) (fun t => t.rdS 0 0x2010 1) = some 1 ∧
      tShow (exec (.dbarWait 1 2 0 0) s) (fun t => t.cx.pc) = some 0x404 := by decide +kernel

/-! ## The copy stream -/

/-- A layout record at 0x2000: two rows of eight 64-bit elements from 0x6000 to 0x7000; the event queue at 0x7800. -/
def tCopy : State :=
  tCrs (tDws (tRegs tState [(1, 0x33), (2, 0x2000), (3, 0x10000)]) [(0x2000, 0x6000), (0x2008, 0x7000), (0x2010, 64 * 2 ^ 32 + 64),
    (0x2018, 4 * 2 ^ 32 + 8 * 2 ^ 16 + 2), (0x6000, 11), (0x6078, 22)]) [(0x081, 0x40007800)]

/-- Its command. -/
def tCmd : Copy := tCopy.command false 0x33 ((List.range 4).map (fun i => tCopy.rdS 0 (0x2000 + 8 * i) 8))

/-- The copy sequencer in a state, its strand forked by context 0. -/
def tSeq (st : SeqState) : State := tCopy.setSeq 0 (fun _ => ⟨st, 0, 0x10000, 9⟩)

/-- The copy strand as the focus. -/
def tStrand : State :=
  { tSeq .running with ctxs := (tSeq .running).ctxs ++ [(copyBase, { tCtx with wp := 0x10000 })], cur := copyBase }

theorem test_witness_CopyResult_strand : let s := tCopy
    s.calm = true ∧ isCopy s.cur = false ∧ (s.w 3).toNat % 128 = 0 ∧ 128 ≤ (s.w 3).toNat ∧ (s.w 3).toNat + 128 ≤ 0x20000 ∧
      inArea s.mem.qbase ((s.w 3).toNat - 64) 192 = none ∧
      touches [((s.w 3).toNat - 64, 192)] ((s.cidsOn s.here).map (fun i => ((s.ctx i).wp - 64, 64 + (s.ctx i).foot))) = false ∧
      (s.core s.here).seq.state = .idle ∧ s.seqReserved s.here = false ∧ ((tSeq .running).calm = true ∧ ((tSeq .running).core 0).seq.state ≠ .idle ∧
        ((tSeq .running).core 0).seq.holder = (tSeq .running).cur) ∧
      ((tSeq .ended).calm = true ∧ ((tSeq .ended).core 0).seq.state = .ended ∧ ((tSeq .ended).core 0).seq.holder = (tSeq .ended).cur) ∧
      (isCopy tStrand.cur = true ∧ tStrand.calm = true) := by decide +kernel

theorem test_witness_CopyResult_commands : let s := tCopy
    let e := tCrs tCopy [(0x081, 0x0001000040007800)]
    let d := (List.range 4).map (fun i => s.rdS 0 (0x2000 + 8 * i) 8)
    s.calm = true ∧ isCopy s.cur = false ∧ (s.w 2).toNat % 32 = 0 ∧
      tReads s (tEls 0x2000 4) ((List.range 4).map (fun i => .loc (0x2000 + 8 * i))) d = true ∧
      (tUsed s (tEls 0x2000 4) []).command false 0x33 d = tCmd ∧ (tUsed s (tEls 0x2000 4) []).classC 0 < 16 ∧
      tCmd.illegal (s.rdS 0 0x2018 8) = false ∧ tCmd.crooked = none ∧ tCmd.dev = 0 ∧ odd 6 = false ∧
      (e.calm = true ∧ e.cx.fld 0x081 32 16 ≠ e.cx.fld 0x081 48 16) ∧ s.cx.fld 0x081 32 16 = s.cx.fld 0x081 48 16 := by
  decide +kernel

theorem test_witness_CopyResult_steps :
    let put (c : Copy) : State := tCopy.setCore 0 { (tCopy.core 0) with copies := [c] }
    let olap := { tCmd with dst := 0x6008 }
    let ended := { tCmd with started := true, outcome := some (0, 0) }
    pick (fun x => !x.started && x.outcome.isNone) ((put tCmd).core 0).copies = some tCmd ∧ tCmd.overlaps = false ∧
      (let c := { tCmd with left := upTo tCmd.count, due := (put tCmd).cycles + tCmd.due }
       (upTo tCmd.count).any (fun i => (tCmd.accs i).any (fun a => (put tCmd).sideOf tCmd a.2.2 == .here &&
         (put tCmd).engAt c a.1 a.2.1 a.2.2 == .wait)) = false) ∧
      pick (fun x => !x.started && x.outcome.isNone) ((put olap).core 0).copies = some olap ∧ olap.overlaps = true ∧
      (pick (fun x => x.id == ended.id) ((put ended).core 0).copies = some ended ∧ ended.outcome = some (0, 0) ∧
        ((put ended).report 0 ended (0, 0)).isSome = true) ∧
      (let moved := { tCmd with started := true, left := [] }
       pick (fun x => x.id == moved.id) ((put moved).core 0).copies = some moved ∧ moved.outcome = none ∧ moved.started = true ∧
         moved.left = [] ∧ (put moved).sideOf moved .load = .here ∧ (put moved).sideOf moved .store = .here ∧
         ((put moved).report 0 { moved with walk := [], xl := moved.xl.eraseDups, outcome := some (0, moved.count) }
           (0, moved.count)).isSome = true) ∧
      (let moves : State := { tCopy with
         groups := tCopy.groups ++ [(2, { tGroup with handle := 2, pre := [1], members := [{ tMember 4 with pst := 1 }] })]
         ctxs := tCopy.ctxs ++ [(32, tCtx.set 0x012 2)] }
       (moves.setSeq 4 (fun _ => ⟨.running, 32, 0x10000, 0⟩)).seqReserved 0 = true ∧
         (moves.setSeq 4 (fun _ => ⟨.running, 32, 0x10000, 0⟩)).calm = true) := by decide +kernel

theorem test_copy_strand :
    tShow (exec (.fork 1 2 3 0) tCopy) (fun t => (t.w 1, (t.core 0).seq.state, (t.ctx copyBase).pc, (t.ctx copyBase).wp)) =
      some (0, .running, 0x2000, 0x10000) ∧
    tShow (exec (.rdv 1 0 0 0) (tSeq .ended)) (fun t => (t.w 1, (t.core 0).seq.state)) = some (9, .idle) ∧
    tShow (exec (.rdv 1 0 0 0) tCopy) (fun t => t.w 1) = some 0x4000000000000000 ∧
    tShow (exec (.rdv 1 0 0 0) (tSeq .running)) (fun t => t.cx.state) = some (.blocked .rdv) := by decide +kernel

theorem test_copy_commands : let ended := { tCmd with started := true, outcome := some (0, 0) }
    tShow (exec (.cpy 1 2 0 0) tCopy) (fun t => ((t.core 0).copies.map (fun c => (c.tag, c.rows, c.cols)), t.cx.pc)) =
      some ([(0x33, 2, 8)], 0x404) ∧
    tShow (exec (.cpyt 1 2 0 0) tCopy) (fun t => t.cx.get 0x002) = some 0x04 ∧
    tShow (exec (.cevq 6 0 0 0) tCopy) (fun t => (t.w 6, t.w 7)) = some (0xFFFFFFFFFFFFFFFF, 0) ∧
    tShow (exec (.copyCommandComplete 0 tCmd.id) (tCopy.setCore 0 { (tCopy.core 0) with copies := [ended] })) (fun t =>
      (t.rdS 0 0x7800 8, t.cx.fld 0x081 48 16, (t.core 0).copies.length)) = some (0x33 * 2 ^ 32, 1, 0) := by decide +kernel

/-! ## Vector instructions -/

/-- v1 holds 3 and -1 in lanes 0 and 1, v2 -1 and 2; v4 holds 2.0 and 1.0, v5 1.0 and -1.0; k3 has lane 0. -/
def tVec : State :=
  let l (x y : Nat) : List (Option Nat) := some x :: some y :: List.replicate 14 (some 0)
  ((((tState.setV 1 (l 3 0xFFFFFFFF)).setV 2 (l 0xFFFFFFFF 2)).setV 4 (l 0x40000000 0x3F800000)).setV 5
    (l 0x3F800000 0xBF800000)).setK 3 1

theorem test_witness_VectorResult : tVec.calm = true ∧ tVec.cx.vx = true ∧ (vecOf tVec (.vadd 0 0 6 1 2 0 2)).isSome = true ∧
    (tCrs tState [(0x000, 4)]).cx.vx = false ∧ (encode (.vadd 0 0 6 1 2 0 2)).map (fun x => bitsOf x.1 2 6) = some 0x30 ∧
    (encode (.mdrain 0 0 1 0 0 0 0)).map (fun x => decide (bitsOf x.1 2 6 ≤ 0x39)) = some true ∧ tVec.cx.wp + 2192 ≤ 0x20000 ∧ 15 < 16 := by decide +kernel

/-- Integer lanes in the type i32 (07 R139); lanes 0 and 1 of the destination. -/
theorem test_vint : let v (i : Instr) : Option (Nat × Nat) := tShow (exec i tVec) (fun t => (t.lane 6 0, t.lane 6 1))
    v (.vadd 0 0 6 1 2 0 2) = some (2, 1) ∧ v (.vsub 0 0 6 1 2 0 2) = some (4, 0xFFFFFFFD) ∧
      v (.vmul 0 0 6 1 2 0 2) = some (0xFFFFFFFD, 0xFFFFFFFE) ∧ v (.vmin 0 0 6 1 2 0 2) = some (0xFFFFFFFF, 0xFFFFFFFF) ∧
      v (.vmax 0 0 6 1 2 0 2) = some (3, 2) ∧ v (.vand 0 0 6 1 2 0 2) = some (3, 2) ∧ v (.vor 0 0 6 1 2 0 2) = some (0xFFFFFFFF, 0xFFFFFFFF) ∧
      v (.vxor 0 0 6 1 2 0 2) = some (0xFFFFFFFC, 0xFFFFFFFD) ∧ v (.vshl 0 0 6 1 2 0 2) = some (0x80000000, 0xFFFFFFFC) ∧
      v (.vshr 0 0 6 1 2 0 2) = some (0, 0x3FFFFFFF) ∧ v (.vsar 0 0 6 1 2 0 2) = some (0, 0xFFFFFFFF) ∧
      v (.vadds 0 0 6 1 2 0 2) = some (2, 1) ∧ v (.vsubs 0 0 6 1 2 0 2) = some (4, 0xFFFFFFFD) ∧
      v (.vabs 0 0 6 1 0 0 2) = some (3, 1) ∧ v (.vadd 0 0 6 1 2 3 2) = some (2, 0) := by decide +kernel

/-- Floating-point lanes in f32 (07 R140, R141, R144). -/
theorem test_vfp : let v (i : Instr) : Option (Nat × Nat) := tShow (exec i tVec) (fun t => (t.lane 6 0, t.lane 6 1))
    v (.vfadd 0 0 6 4 5 0 0) = some (0x40400000, 0) ∧ v (.vfsub 0 0 6 4 5 0 0) = some (0x3F800000, 0x40000000) ∧
      v (.vfmul 0 0 6 4 5 0 0) = some (0x40000000, 0xBF800000) ∧ v (.vfma 0 0 6 4 5 0 0) = some (0x40000000, 0xBF800000) ∧
      v (.vfmin 0 0 6 4 5 0 0) = some (0x3F800000, 0xBF800000) ∧ v (.vfmax 0 0 6 4 5 0 0) = some (0x40000000, 0x3F800000) ∧
      v (.vrcp 0 0 6 4 0 0 0) = some (0x3F000000, 0x3F800000) ∧ v (.vfneg 0 0 6 4 0 0 0) = some (0xC0000000, 0xBF800000) ∧
      v (.vfabs 0 0 6 5 0 0 0) = some (0x3F800000, 0x3F800000) ∧
      tShow (exec (.vrsq 0 0 6 4 0 0 0) tVec) (fun t => t.lane 6 1) = some 0x3F800000 ∧
      v (.vlog2 0 0 6 4 0 0 0) = some (0x3F800000, 0) ∧ v (.vexp2 0 0 6 4 0 0 0) = some (0x40800000, 0x40000000) := by decide +kernel

/-- Compares, masks, blends (07 R142, R143). -/
theorem test_vcmp : let k (i : Instr) : Option Nat := tShow (exec i tVec) (fun t => t.k 2)
    k (.vcmpEq 0 0 2 4 4 3 0) = some 1 ∧ k (.vcmpLt 0 0 2 5 4 0 0) = some 3 ∧ k (.vcmpLe 0 0 2 4 5 3 0) = some 0 ∧
      k (.vcmpNe 0 0 2 4 5 0 0) = some 3 ∧ k (.kand 0 0 2 3 3 0 0) = some 1 ∧ k (.kor 0 0 2 3 1 0 0) = some 1 ∧
      k (.kxor 0 0 2 3 3 0 0) = some 0 ∧ k (.knot 0 0 2 3 0 0 0) = some 0xFFFE ∧
      tShow (exec (.kpop 1 0 0 3 0 0 0) tVec) (fun t => t.w 1) = some 1 ∧
      tShow (exec (.vblend 0 0 6 1 2 3 0) tVec) (fun t => (t.lane 6 0, t.lane 6 1)) = some (0xFFFFFFFF, 0xFFFFFFFF) := by
  decide +kernel

/-- Conversions, permutations, scans (07 R144, R145, R148 to R150). -/
theorem test_vperm : let v (i : Instr) : Option (Nat × Nat) := tShow (exec i (tRegs tVec [(1, 7)])) (fun t => (t.lane 6 0, t.lane 6 1))
    let w (i : Instr) : Option Word := tShow (exec i tVec) (fun t => t.w 1)
    v (.vbcast 1 0 6 0 0 0 0) = some (7, 7) ∧ v (.vshuf 0 0 6 1 1 0 0) = some (0, 0) ∧ v (.vrot 0 0 6 1 0 0 1) = some (0, 3) ∧
      v (.vins 1 0 6 0 0 0 1) = some (0, 7) ∧ w (.vext 1 0 0 1 0 0 1) = some 0xFFFFFFFF ∧
      v (.vscanAdd 0 0 6 1 0 0 1) = some (3, 2) ∧ v (.vscanMax 0 0 6 1 0 0 1) = some (3, 3) ∧
      w (.vredAdd 1 0 0 1 0 0 1) = some 2 ∧ w (.vredMax 1 0 0 1 0 0 1) = some 3 := by decide +kernel

theorem test_vscanLin_carry : tShow (exec (.vscanLin 0 0 6 4 0 0 0) tVec) (fun t => t.lane 6 0) = some 0x40000000 ∧
    tShow (exec (.vcarry 1 0 6 1 0 3 1) (tRegs tVec [(1, 9)])) (fun t => t.lane 6 1) = some 0 := by decide +kernel

theorem test_vpack_vunpk : tShow (exec (.vpack 0 0 6 4 0 0 1) tVec) (fun t => t.lane 6 0) = some 0 ∧
    tShow (exec (.vunpk 0 0 8 1 0 0 5) tVec) (fun t => (t.lane 8 0, t.lane 8 2)) = some (3, 0xFFFFFFFF) ∧
    (tShow (exec (.vcvt 0 0 6 1 0 0 0x62) tVec) (fun t => t.lane 6 0)).isSome = true ∧
    (tShow (exec (.vrnd 1 2 6 0 0 0 0) tVec) (fun t => t.lane 6 0)).isSome = true := by decide +kernel

/-- v1 = 3, -1, w1 = 0x4000, stored at 0x4000. -/
def tVmem : State := tDws (tRegs tVec [(1, 0x4000), (2, 4), (3, 0x4002)]) [(0x4000, 0x0000000900000008)]

theorem test_witness_VectorMemory : let s := tVmem
    s.calm = true ∧ s.cx.vx = true ∧ (vmemOf s (.vld 1 0 6 0 0 3 0)).any (fun x =>
        x.2.all (fun e => e.va % x.1 == 0) && decide (s.locateAll 2 x.2 = .ok [.loc 0x4000]) &&
          decide (s.dataBad (x.2.zip [.loc 0x4000]) true = none) && !s.classFull (x.2.zip [.loc 0x4000])) = true ∧
      (vmemOf s (.vld 3 0 6 0 0 3 0)).any (fun x => (pick (fun e => e.va % x.1 != 0) x.2).isSome) = true := by decide +kernel

theorem test_vmem : let v (i : Instr) : Option (Nat × Nat) := tShow (exec i tVmem) (fun t => (t.lane 6 0, t.lane 6 1))
    let m (i : Instr) : Option Nat := tShow (exec i tVmem) (fun t => t.rdS 0 0x4000 8)
    v (.vld 1 0 6 0 0 0 0) = some (8, 9) ∧ m (.vst 1 0 1 0 0 0 0) = some 0xFFFFFFFF00000003 ∧
      v (.vlds 1 2 6 0 0 0 0) = some (8, 9) ∧ m (.vsts 1 2 1 0 0 0 0) = some 0xFFFFFFFF00000003 ∧
      v (.vgath 1 0 6 0 7 0 0) = some (8, 8) ∧ m (.vscat 1 0 1 0 7 3 0) = some 0x0000000900000003 ∧
      m (.vstk 1 0 0 3 0 0 0) = some 0x0000000900000001 ∧ tShow (exec (.vldb 1 0 2 0 0 0 0) tVmem) (fun t => t.k 2) = some 8 ∧
      tShow (exec (.vld 3 0 6 0 0 3 0) tVmem) (fun t => (t.cx.get 0x002, t.cx.get 0x003)) = some (0x06, 0x4002) := by decide +kernel

/-! ## REP -/

/-- A line with REP w9, 1 pass more, one body instruction VADD v6, v1, v2. -/
def tRep : State := tVec.setCx { tCtx with line := some ⟨0x400, [0x00DE, 0x00C2, 0], [0xDC000001, 0x00C11002, 0]⟩ }

def tRun : RepRun := ⟨9, 0, 1, [(0x00C2, 0x00C11002)], [0x404], 0x406, 1, 0, 0⟩

theorem test_witness_RepRuns : let s := tRep
    s.calm = true ∧ s.cx.vx = true ∧ s.cx.line.isSome = true ∧
      (match s.gather (succPc s.cx.line s.cx.pc) (s.cx.line.getD ⟨0, [], []⟩) [] 1 with
       | .ok bs succ _ => decide (bs = [(0x00C2, 0x00C11002, 0x404)] ∧ succ = 0x406) && bs.all (fun x => !notInBody x.1 &&
           !(scalarDst x.1 x.2.1).contains 9 && (upTo 2).all (fun q => staggerFits x.1 x.2.1 (q * 0)))
       | _ => false) = true ∧
      bitsOf (s.w 9).toNat 10 54 = 0 ∧ bitsOf (s.w 9).toNat 0 6 ≤ 1 ∧ bitsOf (s.w 9).toNat 6 4 ≤ 0 ∧
      (tRun.body.length ≤ tRun.i + 1 ∧ tRun.count ≤ tRun.p ∧
        touches [(s.cx.wOff tRun.wc, 8)] (s.onTheWay s.cur s.here) = false) := by decide +kernel

/-- A REP in a body may not stand there. -/
theorem test_witness_RepRuns_bad : let s := tVec.setCx { tCtx with line := some ⟨0x400, [0x00DE, 0x00DE, 0], [0xDC000001, 0xDC000001, 0]⟩ }
    (match s.gather (succPc s.cx.line s.cx.pc) (s.cx.line.getD ⟨0, [], []⟩) [] 1 with
     | .ok bs _ _ => decide (pick (fun x => notInBody x.1) (bs.map (fun x => (x.1, x.2.1))) = some (0x00DE, 0xDC000001))
     | _ => false) = true ∧ s.calm = true ∧
    tShow (exec (.rep 0 0 9 1) s) (fun t => (t.cx.get 0x002, t.cx.get 0x003)) = some (0x02, 0xDC00000100DE) := by decide +kernel

theorem test_rep : tShow (exec (.rep 0 0 9 1) tRep) (fun t => (t.cx.rep.map (fun r => (r.count, r.body.length)), t.cx.pc)) =
      some (some (1, 1), 0x402) ∧
    tShow (exec (.vadd 0 0 6 1 2 0 2) (tRegs (tRep.setCx { tRep.cx with rep := some tRun }) [(9, 1)])) (fun t =>
      (t.cx.rep, t.cx.pc, t.w 9)) = some (none, 0x406, 0) := by decide +kernel

/-! ## The matrix unit -/

/-- Tiles 0 and 1 owned; w1 = 0x4000 holds 7 as the first i32 cell, w2 = 0x5000; MFMT 4, 4; the unfold descriptor at 0x5800. -/
def tTile : State :=
  tCrs (tDws (tRegs tVec [(1, 0x4000), (2, 0x5000)]) [(0x4000, 7), (0x5808, 2 ^ 48 + 2 ^ 32), (0x5810, 0x11110101)])
    [(0x038, 3), (0x030, 0x44), (0x033, 0x5800)]

theorem test_witness_TileResult : let s := tTile
    let d := s.unfoldAt (s.cx.fld 0x033 0 17)
    let sk := s.skip4 (s.cx.get 0x034).toNat
    s.calm = true ∧ s.cx.vx = true ∧ ownsTile s.cx 1 = true ∧ (s.w 1).toNat % 64 = 0 ∧ (s.tile s.here 1).pois = none ∧
      (s.w 1).toNat + 256 * tySize 6 ≤ 131072 ∧ inArea s.mem.qbase (s.w 1).toNat (256 * tySize 6) = none ∧
      ((s.w 2).toNat % 32 = 0 ∧ (s.w 2).toNat + 32 ≤ 131072 ∧ inArea s.mem.qbase (s.w 2).toNat 32 = none) ∧
      (upTo 4).all (fun t => (s.tile s.here t).pois.isNone) = true ∧
      (mfmtOk (s.cx.fld 0x030 0 4) (s.cx.fld 0x030 4 4) = true ∧ s.cx.fld 0x030 0 4 ≠ 5 ∧ misgroup 8 4 = false ∧ misgroup 12 4 = false) ∧
      (s.cx.fld 0x034 0 17 % 2 = 0 ∧ s.cx.fld 0x033 0 17 % 32 = 0 ∧ d.ok = true ∧
        s.unfoldBad d (mWidth 4 / 8) (s.cx.fld 0x033 32 32) (128 / mWidth 4) [true, true, true, true] = none ∧
        s.unfoldBad d (mWidth 4 / 8) (s.cx.fld 0x033 32 32) (128 / mWidth 4) sk.keep = none) := by decide +kernel

/-- A tile operation of context 0 on tile 1. -/
def tOp (w : TileWork) (taken : Bool) : TileOp := ⟨5, 0, 1, w, 0, 0, taken⟩

def tUnit (o : TileOp) : State := tTile.setCore 0 { (tTile.core 0) with mq := [o] }

theorem test_witness_TileResult_steps : let cells := List.replicate 256 3
    let m : TileWork := .mma 4 4 [] (some 0x1280) 0x1380 [true, true, true, true] [] []
    (tUnit (tOp .zero false)).nextOp 0 = some (tOp .zero false) ∧ ((tUnit (tOp .zero false)).core 0).mq = [tOp .zero false] ∧
      ((tUnit (tOp (.load cells) false)).nextOp 0 = some (tOp (.load cells) false) ∧ cells.length = 256) ∧
      ((tUnit (tOp m false)).nextOp 0 = some (tOp m false) ∧ (tUnit (tOp m false)).badSpad = []) ∧
      (let x : State := { tUnit (tOp m false) with badSpad := [0x1280 / 8] }
       x.nextOp 0 = some (tOp m false) ∧
         ((keptParts [true, true, true, true] [0x1280, 0x1380]).filterMap (fun p => x.badS 0 p.1 p.2)).head? = some 0x1280) ∧
      ((tUnit (tOp (.put [(0x4000, 2)] [(0x4000, [1, 2])] 0) true)).core 0).mq = [tOp (.put [(0x4000, 2)] [(0x4000, [1, 2])] 0) true] ∧
      (upTo 2).all (fun j => !(tUnit (tOp (.put [(0x4000, 2)] [(0x4000, [1, 2])] 0) true)).ringHw 0 (0x4000 + j)) = true := by decide +kernel

/-- A store of tile 1 that the unit takes, and one whose count of saturations is not 0. -/
theorem test_witness_TileResult_store :
    (tUnit (tOp (.store 2 2 0x4000 none) false)).nextOp 0 = some (tOp (.store 2 2 0x4000 none) false) ∧
      (match storeWork (rmOf 0) 2 2 0x4000 none ((tUnit (tOp (.store 2 2 0x4000 none) false)).tile 0 1) with
       | .put _ all n => decide (all ≠ [] ∧ n = 0)
       | _ => false) = true ∧
      ((tUnit (tOp (.put [] [] 3) true)).core 0).mq = [tOp (.put [] [] 3) true] ∧
      tShow (exec (.tileOpComplete 0 5) (tUnit (tOp (.put [] [] 3) true))) (fun t => mgetD (t.core 0).satcnt 0 0) = some 3 := by
  decide +kernel

theorem test_tiles : let q (i : Instr) : Option (List TileWork × Word) := tShow (exec i tTile) (fun t => ((t.core 0).mq.map (fun o => o.work), t.cx.pc))
    q (.mzero 0 0 1 0 0 0 0) = some ([.zero], 0x404) ∧
      tShow (exec (.mlda 1 0 1 0 0 0 0x22) tTile) (fun t => (t.core 0).mq.map (fun o => match o.work with
        | .load c => c.head?
        | _ => none)) = some [some 7] ∧
      q (.msta 1 0 1 0 0 0 0x22) = some ([.store 2 2 0x4000 none], 0x404) ∧
      q (.mstm 1 2 1 0 0 0 0x22) = some ([.store 2 2 0x4000 (some 0x5000)], 0x404) ∧
      q (.mdrain 0 0 1 0 0 0 0) = some ([], 0x404) ∧
      q (.mma 0 0 1 8 12 0 0) = some ([.mma 4 4 [] (some 0x1280) 0x1380 [true, true, true, true] [] []], 0x404) := by decide +kernel

theorem test_tile_steps :
    tShow (exec (.tileOpTaken 0) (tUnit (tOp (.load (List.replicate 256 3)) false))) (fun t =>
      ((t.tile 0 1).cell 255, (t.core 0).mq.map (fun o => o.taken))) = some (3, [true]) ∧
    tShow (exec (.tileOpComplete 0 5) (tUnit (tOp (.put [(0x4000, 2)] [(0x4000, [1, 2])] 0) true))) (fun t =>
      (t.rdS 0 0x4000 2, (t.core 0).mq.length)) = some (0x201, 0) := by decide +kernel

/-! ## System instructions -/

theorem test_witness_SystemResult : tState.calm = true ∧ tState.trapWait.isNone = true ∧ isCopy tState.cur = false ∧
    (mget tState.parts (tState.partOf tState.cx.group)).isSome = true := by decide +kernel

theorem test_system :
    tShow (exec (.trap 3 0 0 5) (tRegs tState [(3, 77)])) (fun t => (t.cx.get 0x002, t.cx.get 0x003, t.cx.get 0x001)) =
      some (0x45, 77, 0x404) ∧
    tShow (exec (.halt 0 0 0 0) tState) (fun t => (t.cx.state, t.cx.pc)) = some (.stopped none false, 0x404) ∧
    tShow (exec (.time 1 0 0 0) { tState with time := 99 }) (fun t => t.w 1) = some 99 ∧
    tShow (exec (.time 1 0 0 1) (tState.setCx { tCtx with runCycles := 98 })) (fun t => t.w 1) = some 98 ∧
    tShow (exec (.time 1 0 0 2) (tState.setCx { tCtx with instrs := 97 })) (fun t => t.w 1) = some 97 := by decide +kernel

theorem test_wakes :
    tShow (exec (.longWaitExpiry 0) (tState.setCx { tCtx with state := .blocked (.ring 2), parkLong := true, parkRun := 4096 }))
      (fun t => t.cx.state) = some .ready ∧
    tShow (exec (.cpopParkExpiry 0) (tState.setCx { tCtx with state := .blocked (.cpop false), parkRun := 4096 })) (fun t => t.cx.state) =
      some .ready := by decide +kernel

/-! ## Synapse rows and learning -/

/-- A row of one synapse with weight 1.0 at 0x4000 (stamp 0, tick 0), post entries at 0x5000; w2 = 0x4000, w1 = 2.0. -/
def tRow : State :=
  tCrs (tDws (tRegs tState [(2, 0x4000), (1, 0x40000000), (3, 0)]) [(0x4000, 1), (0x4010, 0x3F80000000000000)]) [(0x041, 0x1000005000)]

theorem test_witness_RowResult : let s := tRow
    let r := s.rowAt s.here 0x4000
    let v := (tRegs tRow [(1, 0x500000002)]).w 1
    s.calm = true ∧ s.rowBad 0x4000 false 0 = none ∧ s.rowBad 0x4000 true 0 = none ∧ s.rowBad 0x4000 false (s.w 3).toNat = none ∧
      s.cx.fld 0x047 0 1 = 0 ∧ 0x4000 + r.size ≤ s.cx.fld 0x041 0 17 + 8 * r.post ∧ r.missing s.cx = 0 ∧ 0 < r.n ∧
      (0x4000 % 16 = 0 ∧ 0x4000 + 16 + 8 * bitsOf v.toNat 0 16 ≤ 0x20000 ∧
        inArea s.mem.qbase 0x4000 (16 + 8 * bitsOf v.toNat 0 16) = none ∧ bitsOf v.toNat 0 16 ≠ 0 ∧
        -64 ≤ sint 8 (bitsOf v.toNat 16 8) ∧ sint 8 (bitsOf v.toNat 16 8) ≤ 63) := by decide +kernel

theorem test_rows :
    tShow (exec (.tick 1 0 0 9) tState) (fun t => (t.w 1, t.cx.get 0x040)) = some (9, 9) ∧
    tShow (exec (.fstep 1 2 0 0) tRow) (fun t => t.rdS 0 0x5000 4) = some 0x40000000 ∧
    tShow (exec (.rwgt 5 2 3 0) tRow) (fun t => t.w 5) = some 0x3F80000000000000 ∧
    tShow (exec (.rfade 0 2 0 0) (tCrs tRow [(0x040, 7)])) (fun t => (t.rowAt 0 0x4000).stamp) = some 7 ∧
    tShow (exec (.rinit 1 2 0 0) (tRegs tRow [(1, 0x500FF0002)])) (fun t => t.rowAt 0 0x4000) =
      some ⟨0x4000, 0, -1, 0, 2, 5, false, false⟩ := by decide +kernel

/-- Learning group 7 with root member 0; the context belongs to it. -/
def tLearn : State := { tCrs tState [(0x043, 7)] with learn := [(7, ⟨7, 1, 0, 1⟩)] }

def tPend : State := tLearn.setCx ({ tLearn.cx with pend := [⟨1, 0x3F800000, 0, false⟩] }.set 0x045 1)

theorem test_witness_LearningResult : let s := tLearn
    s.calm = true ∧ (s.cx.get 0x043).toNat = 7 ∧ (s.lgroup 7).isSome = true ∧ s.cx.fld 0x045 0 1 = 0 ∧ s.cx.pend = [] ∧
      s.cx.fld 0x044 16 3 = 0 ∧ (tPend.calm = true ∧ tPend.cx.fld 0x045 0 1 = 1 ∧ tPend.cx.pend ≠ []) ∧
      (({ s with learn := [] } : State).lgroup 7 = none) ∧ mget s.mtrees 7 = none ∧ (tState.cx.get 0x043).toNat = 0 := by decide +kernel

theorem test_witness_LearningResult_steps : let s (c : Cargo) : State := { tLearn with flights := [⟨9, c⟩] }
    let full : State := { s (.bcastReq 7 0 0x1008 5) with learn := [(7, ⟨7, 1, 0, 9⟩)] }
    let auto := tLearn.setCx { tLearn.cx with pend := [⟨1, 5, 0, false⟩], state := .ready }
    let held := tLearn.setCx { tLearn.cx with held := [⟨1, 5, 0, false⟩] }
    (s (.bcastReq 7 0 0x1008 5)).flight 9 = some (.bcastReq 7 0 0x1008 5) ∧
      (s (.bcastReq 7 0 0x1008 5)).lgroup 7 = some ⟨7, 1, 0, 1⟩ ∧ (s (.bcastReq 7 0 0x1008 5)).liveMember 1 0 = true ∧ 9 < ({ s (.bcastReq 7 0 0x1008 5) with uid := 10 } : State).uid ∧
      (s (.bcastReq 7 0 0x1008 5)).windowOpen ⟨7, 1, 0, 1⟩ = true ∧ (s (.bcastReq 7 0 0x1008 5)).farWindow 7 = true ∧ full.windowOpen ⟨7, 1, 0, 9⟩ = false ∧
      ((s (.bcastAns 0 0x1008 (some 3))).flight 9 = some (.bcastAns 0 0x1008 (some 3)) ∧ 0 ≠ noCid ∧ 0 ≠ farCid ∧
        ((s (.bcastAns 0 0x1008 (some 3))).core (coreOfCid 0)).log.on = false) ∧
      ((s (.bcast 7 1 0 1 5)).flight 9 = some (.bcast 7 1 0 1 5) ∧ tGroup.state ≠ .saved ∧
        (s (.bcast 7 1 0 1 5)).liveMember 1 0 = true ∧ ((s (.bcast 7 1 0 1 5)).member 1 0).retired ≠ leftWindow ∧
        (s (.bcast 7 1 0 1 5)).lgCid 7 1 0 = some 0 ∧
        1 % 256 = (((s (.bcast 7 1 0 1 5)).ctx 0).fld 0x044 0 8 + 0 + 1) % 256 ∧
        ((s (.bcast 7 1 0 1 5)).ctx 0).pend.length + ((s (.bcast 7 1 0 1 5)).ctx 0).held.length < 4) ∧
      ((mget auto.ctxs 0).isSome = true ∧ (auto.ctx 0).accepts = true ∧ (auto.ctx 0).state ≠ .running) ∧
      ((tLearn.ctx 0).held = [] ∧ (held.ctx 0).held ≠ [] ∧ (held.ctx 0).held.length < 8 ∧ (held.ctx 0).fld 0x042 32 16 = 0) ∧
      ((s (.retire 7 0 1)).flight 9 = some (.retire 7 0 1) ∧ (s (.retire 7 0 1)).lgroup 7 = some ⟨7, 1, 0, 1⟩) := by decide +kernel

theorem test_learning :
    tShow (exec (.bseq 1 0 0 0) tLearn) (fun t => t.w 1) = some 0 ∧
    tShow (exec (.bacc 1 0 0 0) tPend) (fun t => (t.w 1, t.cx.held.length, t.cx.fld 0x044 0 8)) = some (1, 1, 1) ∧
    tShow (exec (.bwait 0 0 0 0) tLearn) (fun t => t.cx.pc) = some 0x404 ∧
    tShow (exec (.bcast 1 2 0 0) tLearn) (fun t => (t.flights.length, t.cx.pc)) = some (1, 0x404) ∧
    tShow (exec (.bcast 1 2 0 0) tState) (fun t => t.cx.get 0x002) = some 0x04 ∧
    tShow (exec (.bcastRequestArrival 9) { tLearn with flights := [⟨9, .bcastReq 7 0 0x1008 5⟩] }) (fun t =>
      ((pick (fun f => f.id == 9) t.flights).map (fun f => f.cargo), (t.lgroup 7).map (fun g => g.next))) =
      some (some (.bcastAns 0 0x1008 (some 1)), some 2) ∧
    tShow (exec (.broadcastReceive 9) { tLearn with flights := [⟨9, .bcast 7 1 0 1 5⟩] }) (fun t =>
      (t.cx.pend.map (fun b => b.num), t.cx.fld 0x044 8 3)) = some ([1], 1) := by decide +kernel

/-! ## The memory system's steps -/

/-- A load of core 0 from member 1's scratchpad. -/
def tReq (ph : Phase) : Req :=
  { id := 5, batch := 5, cid := 0, core := 0, group := 1, vc := some 1, op := .load, loc := .spad 1 0x2000, size := 8,
    va := 0x400000022000, scope := 2, sx := false, dst := 0x1008, dsize := 8, after := [], sent := true, waited := 0, plane := 0,
    chan := 0, tpc := 0x400, phase := ph, val := 42, seen := 0, mark := 0, slept := false, ni := false, redir := false, back := false }

def tReqs (r : Req) : State := { tState with reqs := [r] }

/-- User address 2^32 is mapped by a 1-GB leaf to physical 2^30. -/
def tPaged : State := { tState with hbm := [(0, 1), (1, 0x10), (0x1020, 0xFF), (0x1023, 0x40)] }

/-- The walk of the page at 2^32, for the context of group 1 that waits for it, its read at HBM address 0. -/
def tWalk : Req := { tReq .issued with vc := none, op := .walk, loc := .hbm 0, va := 0x100000000, dsize := 0, chan := 384 }

/-- A state in which that walk has its turn. -/
def tWalking (s : State) : State := { s.setCx { tCtx with walk := [(0x100000000, .load)] } with reqs := [tWalk] }

theorem test_witness_MemorySteps_walk : let s := tWalking tPaged
    pick (fun r => r.id == 5) s.reqs = some tWalk ∧ s.walkTurn tWalk = true ∧ s.ctxs = [(0, s.ctx 0)] ∧
      (s.ctx 0).group = tWalk.group ∧ clusterOf (coreOfCid 0) = clusterOf tWalk.core ∧
      s.walkSleeps tWalk = false ∧ s.cores.all (fun k => k.2.copies.isEmpty) = true ∧
      (s.ctx 0).walk = [(0x100000000, .load)] ∧ 0x100000000 / 4096 * 4096 = tWalk.va.toNat ∧
      (match s.walk 1 0x100000000 .load true with
       | .ok pa size _ _ _ => decide (pa = 0x40000000 ∧ size = 0x40000000)
       | _ => false) = true ∧
      (match (tWalking tState).walk 1 0x100000000 .load true with
       | .fault _ => decide (((tWalking tState).ctx 0).walkFault = [])
       | _ => false) = true ∧
      (tWalking tPaged).walkTurn { tWalk with sent := false } = false := by decide +kernel

theorem test_witness_MemorySteps :
    let crossing := { tReq .issued with loc := .hbm 0, vc := none, chan := 384, sent := false }
    let gone := { tState with reqs := [tReq .issued], groups := [(1, { tGroup with members := [tMember 0, { tMember 1 with pst := 3 }] })] }
    let moved := { tState with reqs := [tReq .issued], groups := [(1, { tGroup with members := [tMember 0, tMember 2] })] }
    let waits := { tReq .issued with ni := true }
    (nextWriter 0 ((tReqs crossing).writers 0 384)).isSome = true ∧
      ((tReqs (tReq .issued)).req 5 = some (tReq .issued) ∧ (tReqs (tReq .issued)).ripe (tReq .issued) = true ∧
        (tReqs (tReq .issued)).serve (tReq .issued) = .here) ∧
      (gone.ripe (tReq .issued) = true ∧ gone.serve (tReq .issued) = .fail) ∧
      ((tReqs waits).req 5 = some waits ∧ waits.unperformed = true ∧ waits.isWalk = false ∧ waits.vc = some 1 ∧
        (tReqs waits).placeOf 0 1 1 = (0, 1)) ∧
      (moved.req 5 = some (tReq .issued) ∧ (tReq .issued).unperformed = true ∧ (tReq .issued).isWalk = false ∧
        (tReq .issued).ni = false ∧ ((tReq .issued).sent || !(tReq .issued).crosses) = true ∧
        moved.first (tReq .issued) = true ∧ moved.linkFirst (tReq .issued) = true ∧
        moved.serve (tReq .issued) = .onward 2 0x2000) ∧
      ((tReqs (tReq .performed)).reqs = [tReq .performed] ∧ (tReq .performed).crosses = false ∧
        ((tReqs (tReq .performed)).core 0).log.on = false ∧ (mget (tReqs (tReq .failed)).ctxs 0).isSome = true ∧
        (tReq .failed).reads = true ∧ (tReq .failed).ofVec = false) ∧
      (pick (fun x => x.id == 5) [(⟨5, 0, 0, [(0x1008, 8, 42)]⟩ : Landing)]).isSome = true := by decide +kernel

theorem test_memory_steps :
    tShow (execRequestPerform 5 { tReqs (tReq .issued) with spad := [(131072 + 0x2000, 7)] }) (fun t =>
      t.reqs.map (fun r => (r.phase, r.val))) = some [(.performed, 7)] ∧
    tShow (exec (.responseArrival 5) (tReqs (tReq .performed))) (fun t => (t.reqs.length, t.landings.map (fun l => l.writes))) =
      some (0, [[(0x1008, 8, 42)]]) ∧
    tShow (exec (.resultLands 5) { tState with landings := [⟨5, 0, 0, [(0x1008, 8, 42)]⟩] }) (fun t => (t.w 1, t.landings.length)) =
      some (42, 0) ∧
    tShow (exec (.responseArrival 5) (tReqs (tReq .failed))) (fun t => t.cx.pendLoad) = some [(0x23, 0x400000022000, 0x400)] := by
  decide +kernel

/-- The walk leaves the translation at hand, and writes nothing (08 R163, R168). -/
theorem test_walk : tShow (exec (.pageWalkComplete 5) (tWalking tPaged)) (fun t =>
    ((t.core 0).tlb.map (fun x => (x.va, x.pa, x.used)), t.cx.walk.length, decide (t.hbm = tPaged.hbm))) =
    some ([(0x100000000, 0x40000000, false)], 0, true) := by decide +kernel

/-! ## Kernels -/

/-- A launch header at user address 2^32 of a group of one member at core 2, its page translated; w2 names it. -/
def tLaunch : State :=
  let s := (tRegs tState [(2, 0x100000000), (3, 1)]).setCore 0
    { (tState.core 0) with tlb := [⟨1, 0x100000000, 0x40000000, 0x40000000, 15, 0x1020, true, true⟩] }
  [(0, 0x402), (8, 2 * 2 ^ 32 + 257), (16, 0x20000 * 2 ^ 32), (24, 0x1000), (80, 0x3000)].foldl
    (fun s x => s.wrH (0x40000000 + x.1) 8 x.2) s

/-- The doublewords at the header. -/
def tHdr (s : State) : List Nat := (upTo 16).map (fun i => s.rdH (0x40000000 + 8 * i) 8)

/-- Places of the header's doublewords. -/
def tHdrAt : List At := (upTo 16).map (fun i => .hbm (0x40000000 + 8 * i))

theorem test_witness_GroupResult : let s := tLaunch
    let u := tUsed s (tEls 0x100000000 16) tHdrAt
    s.calm = true ∧ (s.w 2).toNat % 64 = 0 ∧ tReads s (tEls 0x100000000 16) tHdrAt (tHdr s) = true ∧
      u.launchCode (tHdr s) 1 u.cx.sup (some 1) = 0 ∧
      u.launchCode ((tHdr s).set 15 1) 1 u.cx.sup (some 1) ≠ 0 ∧ s.grp 5 = none ∧ (s.grp 1).isSome = true := by
  decide +kernel

/-- Another group of the partition, a child of none. -/
def tOther : State := { tState with groups := [(1, tGroup), (2, { tGroup with handle := 2, parent := 0, part := 1 })] }

theorem test_witness_GroupResult_kill : let s := tRegs tOther [(2, 2)]
    let u := { s with groups := [(1, tGroup), (2, { tGroup with handle := 2, parent := 0, part := 2 })] }
    s.calm = true ∧ (s.grp 2).isSome = true ∧ 2 ≠ s.cx.group ∧ s.cx.sup = true ∧ s.partOf 2 = s.partOf s.cx.group ∧
      (u.descends 2 1 4096 = false ∧ u.partOf 2 ≠ u.partOf 1) := by decide +kernel

theorem test_witness_GroupResult_convey :
    let e : Holding := ⟨1, 2, 0, 0, 2, false, 0, spadLoc 1 0 0x2000, 0⟩
    let k : Holding := ⟨1, 2, 0, 0, 4, false, 2, 2 ^ 50 + 5, 0⟩
    let s : State := { tRegs tOther [(2, 0x2000)] with estate := [(0, e)] }
    let x : State := { tRegs tOther [(2, 0x4000000000005)] with estate := [(7, k)] }
    let use (s : State) : State := tUse s 8 false 0x2000 (.loc 0x2000)
    s.calm = true ∧ s.handleEntry (s.w 2) = none ∧ tWordAt s 2 8 false false false 0x2000 (.loc 0x2000) (.spad 0 0x2000) = true ∧
      (use s).entryAt (.spad 0 0x2000) = some (0, e) ∧ e.kind ≠ 5 ∧ (use s).canConvey 2 ((use s).partOf 1) = true ∧
      (tRegs tOther [(2, 0x2000)]).handleEntry 0x2000 = none ∧ (use (tRegs tOther [(2, 0x2000)])).entryAt (.spad 0 0x2000) = none ∧
      (x.calm = true ∧ x.handleEntry (x.w 2) = some (7, k) ∧ k.kind ≠ 5 ∧ x.canConvey 2 (x.partOf 1) = true ∧
        x.canConvey 0 (x.partOf 1) = false) := by
  decide +kernel

theorem test_kernels :
    tShow (exec (.gstat 1 3 0 0) (tRegs tState [(3, 1)])) (fun t => t.w 1) = some 0x0001000000000001 ∧
    tShow (exec (.gstat 1 3 0 0) (tRegs tState [(3, 9)])) (fun t => t.w 1) = some 0x8000000000000000 ∧
    tShow (exec (.kill 1 3 0 0) (tRegs tOther [(3, 2)])) (fun t => (t.w 1, (t.grp 2).map (fun g => (g.state, g.cause)))) =
      some (0, some (.exiting, 2)) ∧
    tShow (exec (.exit 0 0 0 0) tState) (fun t => (mget t.ctxs 0).isSome) = some false ∧
    tShow (exec (.convey 0 2 0 0) { tRegs tOther [(2, 0x2000)] with estate := [(0, ⟨1, 2, 0, 0, 2, false, 0, spadLoc 1 0 0x2000, 0⟩)] })
      (fun t => t.estate.map (fun e => e.2.holder)) = some [2] := by decide +kernel

theorem test_launch : (tShow (exec (.launch 1 2 0 0) tLaunch) (fun t => t.groups.length)).isSome = true := by decide +kernel

theorem test_witness_GroupSteps :
    let sub := { tGroup with handle := 2, state := .submitted, members := [], hdr := { tHeader with wx := 1, origin := 2 } }
    let exiting := { tGroup with state := .exiting, members := [{ tMember 0 with pst := 3 }, { tMember 1 with pst := 3 }] }
    let s : State := { tState with groups := [(1, tGroup), (2, sub)] }
    let q : State := { tState with ctxs := [], groups := [(1, exiting), (2, { tGroup with handle := 2 })], walkQueue := [1] }
    let w : State := { q with groups := [(1, { exiting with walkKind := 1 }), (2, { tGroup with handle := 2 })],
                              estate := [(0, ⟨1, 2, 0, 0, 2, false, 0, spadLoc 1 0 0x2000, 0⟩)] }
    s.grp 2 = some sub ∧ s.boot = .up ∧ sub.state = .submitted ∧ sub.hdr.dlen = 0 ∧ s.findOrigin sub = some 2 ∧
      s.groups.any (fun x => x.2.part == sub.part && x.2.state == .submitted && decide (x.2.seq < sub.seq)) = false ∧
      (q.grp 1 = some exiting ∧ q.walkQueue.head? = some 1 ∧ exiting.state = .exiting ∧ exiting.walkKind = 0 ∧ q.quiet exiting = true) ∧
      (nextHolding (w.holdings 1) = some (0, ⟨1, 2, 0, 0, 2, false, 0, spadLoc 1 0 0x2000, 0⟩) ∧
        w.canConvey 2 1 = true ∧ w.walkWaits ⟨1, 2, 0, 0, 2, false, 0, spadLoc 1 0 0x2000, 0⟩ true = false) ∧
      (nextHolding (q.holdings 1) = none ∧ (q.awaiting exiting).all (fun r => q.canDeliver r) = true) ∧
      (tGroup.hdr.wdog ≠ 0 ∧ tGroup.state = .running ∧ tGroup.wdDue = false ∧ ({ tGroup with wdDue := true } : Group).wdDue = true) := by
  decide +kernel

theorem test_group_steps :
    let sub := { tGroup with handle := 2, state := .submitted, members := [], hdr := { tHeader with wx := 1, origin := 2 } }
    tShow (exec (.groupPlacement 2) { tState with groups := [(1, tGroup), (2, sub)] }) (fun t =>
      (t.grp 2).map (fun g => (g.state, g.members.map (fun m => m.pcore)))) = some (some (.running, [2])) ∧
    tShow (exec (.watchdogCheck 1) { tState with groups := [(1, { tGroup with wdDue := true })] }) (fun t =>
      (t.grp 1).map (fun g => (g.state, g.cause))) = some (some (.exiting, 3)) ∧
    tShow (exec (.watchdogCheck 1) tState) (fun t => (t.grp 1).map (fun g => g.state)) = some (some .running) := by decide +kernel

/-! ## Links -/

/-- w2 = offset 0x2000 of member 1, w3 = handle 0, w1 = 5. -/
def tFar : State := tRegs tState [(1, 5), (2, 0x400000022000), (3, 0)]

theorem test_witness_RemoteResult : let s := tFar
    let r (x : Nat) : State := s.setCx { tCtx with lddRes := some (x, 9) }
    let odd := tRegs tState [(2, 0x400000022001), (3, 0)]
    s.calm = true ∧ ((r 0).calm = true ∧ (r 1).calm = true ∧ (r 2).calm = true) ∧
      ((r 0).cx.lddRes = some (0, 9) ∧ (r 1).cx.lddRes = some (1, 9) ∧ (r 2).cx.lddRes = some (2, 9)) ∧
      (bitsOf (s.w 3).toNat 16 48 = 0 ∧ bitsOf (s.w 3).toNat 0 16 = 0 ∧ (s.w 2).toNat % 8 = 0 ∧ (s.w 2).toNat < 2 ^ 48) ∧
      s.cx.lddRes = none ∧ (r 1).trapWait = none ∧ (r 2).trapWait = none ∧ isWin (rngOf (s.w 2).toNat) = true ∧
      (odd.calm = true ∧ odd.cx.lddRes = none ∧ bitsOf (odd.w 3).toNat 16 48 = 0 ∧ bitsOf (odd.w 3).toNat 0 16 = 0 ∧ (odd.w 2).toNat % 4 ≠ 0) := by
  decide +kernel

/-- Handle 4095 is valid and handle 4094 is not. -/
theorem test_witness_RemoteResult_handle :
    let s : State := { tRegs tState [(2, 0x400000022001), (3, 4095), (4, 4094)] with
      parts := [(1, { tPart with handles := [(4095, 2 ^ 63 + 6)] })] }
    s.calm = true ∧ s.cx.lddRes = none ∧ bitsOf (s.w 3).toNat 16 48 = 0 ∧ bitsOf (s.w 3).toNat 0 16 = 4095 ∧ (s.handleOf 4095).isSome = true ∧
      (s.w 2).toNat % 4 ≠ 0 ∧ bitsOf (s.w 4).toNat 16 48 = 0 ∧ bitsOf (s.w 4).toNat 0 16 = 4094 ∧ s.handleOf 4094 = none := by
  decide +kernel

theorem test_remote :
    tShow (exec (.ldd 1 2 3 0) tFar) (fun t => (t.flights.length, t.cx.pc, t.cx.state == .ready)) = some (1, 0x402, false) ∧
    tShow (exec (.std 1 2 3 0) tFar) (fun t => (t.flights.length, t.cx.pc)) = some (1, 0x404) ∧
    tShow (exec (.filld 1 2 3 0) tFar) (fun t => (t.flights.length, t.cx.pc)) = some (1, 0x404) ∧
    tShow (exec (.ldd 1 2 3 0) (tFar.setCx { tCtx with lddRes := some (0, 9) })) (fun t => (t.w 1, t.cx.pc)) = some (9, 0x404) := by
  decide +kernel

/-- One item in flight. -/
def tFly (s : State) (c : Cargo) : State := { s with flights := [⟨9, c⟩] }

theorem test_witness_RemoteSteps :
    let ld := tFly tState (.ldd 0 0 1 true 0x400000022000 8 100 none)
    let st := tFly tState (.std 0 0 1 true 0x400000022000 8 77 false 100 none)
    let back := tFly (tState.setCx { tCtx with state := .blocked (.ldd 9) }) (.ldd 0 0 1 true 0x400000022000 8 100 (some (some 7)))
    let other := tFly tState (.remote 1 1 1 8 0x400000022000 77)
    let mc := tFly { tState with mtrees := [(4, 1)] } (.mcast 4 [1, 2])
    (ld.flight 9 = some (.ldd 0 0 1 true 0x400000022000 8 100 none) ∧ ld.unsent 9 = false ∧
        ld.handleTarget (ld.partOf 1) 1 0 = (ld.devNum, 1) ∧ ld.linkRipe 9 0 = true ∧ ld.wrongKey (ld.partOf 1) 1 = false ∧
        ld.farLoc (ld.partOf 1) 1 true 0x400000022000 8 .load = .to (.spad 1 0x2000) ∧
        ld.awake (.spad 1 0x2000) = true ∧
        (ld.remoteMark 1 1 true 0x400000022000 .load).badAt (.spad 1 0x2000) 8 = false) ∧
      (st.flight 9 = some (.std 0 0 1 true 0x400000022000 8 77 false 100 none) ∧ st.unsent 9 = false ∧ st.linkRipe 9 0 = true ∧
        st.farLoc (st.partOf 1) 1 true 0x400000022000 8 .store = .to (.spad 1 0x2000) ∧ rngOf 0x400000022000 ≠ .user ∧
        st.areaAt 1 0x2000 8 = false ∧ st.badS 1 0x2000 8 = none ∧ (upTo 8).all (fun j => !st.ringHw 1 (0x2000 + j)) = true ∧ (st.core 1).log.on = false ∧ 77 < 256 ^ 8) ∧
      (({ st with tags := [0x20000 / 8 + 0x2000 / 8] } : State).full 1 0x2000 = true ∧ st.full 1 0x2000 = false ∧
        st.bereavedAt 1 0x2000 = false) ∧
      ({ ld with links := [(0, { Link.blank with waiting := [[9]] })] } : State).unsent 9 = true ∧
      (back.flight 9 = some (.ldd 0 0 1 true 0x400000022000 8 100 (some (some 7))) ∧ (mget back.ctxs 0).isSome = true ∧
        (back.ctx 0).state = .blocked (.ldd 9) ∧ isCopy 0 = false ∧ (back.core (coreOfCid 0)).log.on = false) ∧
      (ld.cycles < 100 ∧ 100 ≤ ({ ld with cycles := 100 } : State).cycles ∧ back.cycles < 100 ∧ (mget st.ctxs 0).isSome = true) ∧
      (other.flight 9 = some (.remote 1 1 1 8 0x400000022000 77) ∧ other.wrongKey 1 1 = false ∧
        0 < 1 ∧ other.farLoc 1 1 false 0x400000022000 8 .store = .to (.spad 1 0x2000) ∧ other.awake (.spad 1 0x2000) = true) ∧
      (mc.flight 9 = some (.mcast 4 [1, 2]) ∧ mc.treeOpen 4 = true) := by decide +kernel

theorem test_remote_steps :
    tShow (exec (.remoteAccessPerform 9) (tFly tState (.std 0 0 1 true 0x400000022000 8 77 false 100 none)))
      (fun t => (t.rdS 1 0x2000 8, t.full 1 0x2000)) = some (77, true) ∧
    tShow (exec (.lddAnswer 9) (tFly (tState.setCx { tCtx with state := .blocked (.ldd 9) })
      (.ldd 0 0 1 true 0x400000022000 8 100 (some (some 7))))) (fun t => (t.cx.lddRes, t.cx.state == .ready)) =
      some (some (0, 7), true) ∧
    tShow (exec (.remoteStoreTimeout 9) { tFly tState (.std 0 0 1 true 0x400000022000 8 77 false 100 none) with cycles := 100 })
      (fun t => t.cx.failures) = some [0x400000022000] := by decide +kernel

/-- A grant for link 5, whose outbound wavelength 0 is lit; w2 names it. -/
def tLink (z : Wl) : State :=
  { tRegs tState [(2, 5)] with grants := [⟨3, 1, [5], 100⟩], links := [(5, { Link.blank with wl := [(0, z), (8, .lit)], maskIn := [0], seqIn := 4 })] }

/-- A policy that shows the traffic class at granularity 2. -/
def tShown : State :=
  { tLink .lit with parts := [(1, { tPart with policy := some ((List.range 64).map (fun i => if i = 8 then 2 else 0)) })] }

theorem test_witness_LinkControl :
    let s := tLink .lit
    (s.calm = true ∧ s.granted (s.partOf s.cx.group) 5 = true ∧ bitAt (s.w 2).toNat 7 = false ∧ bitsOf (s.w 2).toNat 11 53 = 0 ∧
        bitsOf (s.w 2).toNat 0 7 = 5 ∧ bitsOf (s.w 2).toNat 8 3 = 0 ∧ s.cx.sup = true ∧ (s.link 5).st 0 = .lit) ∧
      ((tLink .parked).calm = true ∧ ((tLink .parked).link 5).st 0 = .parked) ∧
      (tUser.calm = true ∧ tUser.cx.sup = false ∧ ({ s with grants := [] } : State).granted 1 5 = false) ∧
      (tShown.calm = true ∧ 2 ≤ tShown.gran (tShown.partOf tShown.cx.group) 0) := by decide +kernel

theorem test_witness_LinkControl_steps :
    let s := { tLink .lit with links := [(5, { Link.blank with maskIn := [0], replay := [⟨0, 2, [7]⟩, ⟨0, 3, [8]⟩], beats := [(8, 2 ^ 24)] })] }
    ((tLink .waking).link 5).st 0 = .waking ∧ ((tLink .retraining).link 5).st 0 = .retraining ∧ ((tLink .lit).link 5).st 0 = .lit ∧
      (((tLink .lit).link 5).seqIn = 4 ∧ 5 ≠ ((tLink .lit).link 5).seqIn ∧ ((tLink .lit).link 5).maskIn ≠ [] ∧
        bitsOf 0 0 8 = 0 ∧ bitsOf 1 0 8 ≠ 0) ∧
      (fromSeq 3 (s.link 5).replay = [⟨0, 3, [8]⟩] ∧ (s.link 5).waiting = [] ∧ (s.link 5).maskIn ≠ []) ∧ bitAt 2 1 = true ∧
      (2 ^ 24 ≤ mgetD (s.link 5).beats 8 0 ∧ mgetD (s.link 5).beats 9 0 < 2 ^ 24) := by decide +kernel

theorem test_links :
    tShow (exec (.lnkctlPark 1 2 0) (tLink .lit)) (fun t => ((t.link 5).st 0, t.w 1)) = some (.parked, 0) ∧
    tShow (exec (.lnkctlLight 1 2 0) (tLink .parked)) (fun t => (t.link 5).st 0) = some .waking ∧
    tShow (exec (.lnkctlRetrain 1 2 0) (tLink .parked)) (fun t => t.w 1) = some 0x8000000000000002 ∧
    tShow (exec (.lnkctlPark 1 2 0) { tLink .lit with grants := [] }) (fun t => t.cx.get 0x002) = some 0x03 ∧
    tShow (exec (.lnkstat 1 2 0 0) tShown) (fun t => t.w 1) = some 0x249248249248 ∧
    tShow (exec (.dataFlitReceive 5 4 false 0) (tLink .lit)) (fun t => ((t.link 5).seqIn, mgetD (t.link 5).errs 8 0)) = some (4, 1) ∧
    tShow (exec (.lossOfLight 5 0) (tLink .lit)) (fun t => (t.link 5).st 0) = some .failed ∧
    tShow (exec (.widthControlReceive 5 3) ((tLink .lit).setLink 5 (((tLink .lit).link 5).setSt 9 .waking))) (fun t => (t.link 5).st 9) = some .lit := by decide +kernel

/-! ## Reductions and pipelines -/

/-- A descriptor at 0x2000: ADD of two's complement integers, two slots, one element, no timeout, the slot table at user address 2^32 (members 0 and 1 of group 1); a REDX operand at 0x2100 for slot 0 of reduction `h`. -/
def tRed (h : Nat) : State :=
  let s := tDws (tRegs tState [(2, 0x2000)]) [(0x2000, 2 ^ 32 + 2 * 2 ^ 16), (0x2010, 0x100000000), (0x2100, h), (0x2108, 0x3000 + 0x4000 * 2 ^ 32),
    (0x3000, 77)]
  (((s.setCore 0 { (s.core 0) with tlb := [⟨1, 0x100000000, 0x40000000, 0x40000000, 15, 0x1020, true, true⟩] }).wrH 0x40000000 8 (2 ^ 32)).wrH
    0x40000008 8 (2 ^ 32 + 1)).setReduction
    ⟨3, 1, 1, [2 ^ 32 + 2 * 2 ^ 16, 0, 0x100000000], .opened, [], [(1, 0, 0), (1, 0, 1)], false, 0⟩

def tRedx (h : Nat) : State := tRegs (tRed h) [(2, 0x2100)]

def tR (s : State) : Reduction := (s.reduction 3).getD ⟨0, 0, 0, [], .done, [], [], false, 0⟩

theorem test_witness_ReductionResult_new : let s := tRed 3
    let d := [2 ^ 32 + 2 * 2 ^ 16, 0, 0x100000000, 0, 0, 0, 0, 0]
    let as : List At := (upTo 8).map (fun i => .loc (0x2000 + 8 * i))
    let u := tUsed s (tEls 0x2000 8) as
    let bs : List At := [.hbm 0x40000000, .hbm 0x40000008]
    s.calm = true ∧ (s.w 2).toNat % 64 = 0 ∧ rngOf (s.w 2).toNat = .loc 0x2000 ∧ badDesc d = false ∧ d.getD 2 0 % 8 = 0 ∧
      rngOf (d.getD 2 0) = .user ∧ [2 ^ 32, 2 ^ 32 + 1].any (fun x => bitAt x 31) = false ∧ bitsOf (d.getD 0 0) 16 12 = 2 ∧
      tReads s (tEls 0x2000 8) as d = true ∧ tReads u (tEls 0x100000000 2) bs [2 ^ 32, 2 ^ 32 + 1] = true ∧
      pick (fun i => (mget (tUsed u (tEls 0x100000000 2) bs).reductions i).isNone) (upTo 1024) = some 0 := by decide +kernel

theorem test_witness_ReductionResult : let s := tRedx 3
    let as (st : RState) (m : List (Nat × Contrib)) : State := s.setReduction { tR s with state := st, merged := m }
    let k : Contrib := ⟨[5], 1, 1, 0x4000, 0, 0, false, 1, s.devNum⟩
    let there (m : List (Nat × Contrib)) : State := tFly (as .opened m) (.contrib 3 1 k)
    s.calm = true ∧ ((s.w 2).toNat = 0x2100 ∧ bitsOf (s.rdS s.here 0x2110 8) 12 52 = 0 ∧
        bitsOf (s.rdS s.here 0x2108 8) 0 17 = 0x3000 ∧ bitsOf (s.rdS s.here 0x2108 8) 32 17 = 0x4000 ∧
        s.rdS s.here 0x2100 8 / 2 ^ 32 = s.devNum ∧ inArea s.mem.qbase 0x4000 ((tR s).count * opBytes (tR s).op) = none) ∧
      inArea s.mem.qbase 0x8000 ((tR s).count * opBytes (tR s).op) = some 0x8000 ∧ inArea s.mem.qbase 0x4000 0 = none ∧
      ((tRedx 4).calm = true ∧ (tRedx 4).rdS 0 0x2100 8 = 4 ∧ (tRedx 4).reduction 4 = none) ∧
      (s.reduction 3 = some (tR s) ∧ 0x3000 + (tR s).count * opBytes (tR s).op ≤ 0x20000 ∧ (tR s).part = s.partOf s.cx.group ∧
        (tR s).state = .opened ∧ (tR s).slots[0]? = some (s.cx.group, s.devNum, s.cx.vcore) ∧ (mget (tR s).merged 0).isNone = true) ∧
      ((tR (as .done [])).state ≠ .opened ∧ (mget (tR (as .opened [(0, k)])).merged 0).isSome = true ∧
        (tR s).slots[1]? ≠ some (s.cx.group, s.devNum, s.cx.vcore)) ∧
      ((tRegs s [(2, 3)]).calm = true ∧ ((tRegs s [(2, 3)]).noteBrv (some (2, 3)) (toWord 3)).canDeliver (tR s) = true ∧ 3 < 2 ^ 50) ∧
      (3 / 2 ^ 32 = s.devNum ∧ k.cid ≠ farCid ∧ ((there []).evqPut k.cid (0, 0)).isSome = true ∧
        (there []).flight 9 = some (.contrib 3 1 k) ∧ (there []).reduction 3 = some (tR s) ∧ (there []).redxCode 3 1 9 k = 0 ∧
        (there [(1, k)]).redxCode 3 1 9 k = 4 ∧ (mput (tR s).merged 1 k).length < (tR s).n) ∧
      ((there [(0, k)]).flight 9 = some (.contrib 3 1 k) ∧ (there [(0, k)]).redxCode 3 1 9 k = 0 ∧ (tR s).n ≤ (mput [(0, k)] 1 k).length ∧
        (there [(0, k)]).canDeliver { tR s with merged := mput [(0, k)] 1 k } = true) ∧
      (let r := { tR s with desc := [2 ^ 32 + 2 * 2 ^ 16, 9, 0x100000000], merged := [(0, k)], ran := 9 }
       (s.setReduction r).reduction 3 = some r ∧ r.merged ≠ [] ∧ r.rtmo ≠ 0 ∧ r.rtmo ≤ r.ran ∧ (s.setReduction r).canDeliver r = true ∧
         (tR s).rtmo = 0 ∧ s.deviceFailed (tR s) = false) := by decide +kernel

/-- RFREE of bits above the handle, of a handle of device 5, and of one of another partition. -/
theorem test_witness_ReductionResult_rfree : let s := tRegs (tRed 3) [(2, 2 ^ 50)]
    let far := tRegs (tRed 3) [(2, 5 * 2 ^ 32 + 3)]
    let other := (tRegs (tRed 3) [(2, 3)]).setReduction { tR (tRed 3) with part := 2 }
    s.calm = true ∧ 2 ^ 50 ≤ (s.w 2).toNat ∧ (far.calm = true ∧ (far.w 2).toNat < 2 ^ 50 ∧ (far.w 2).toNat / 2 ^ 32 ≠ far.devNum ∧
      far.cx.call = none) ∧ (other.calm = true ∧ (other.reduction 3).map (fun r => r.part) = some 2 ∧ other.partOf other.cx.group = 1) := by
  decide +kernel

theorem test_reductions_redx :
    tShow (exec (.lnkctlRnew 1 2 0) (tRed 3)) (fun t => t.cx.pc) = some 0x404 ∧
    tShow (exec (.lnkctlRnew 1 2 0) (tDws (tRed 3) [(0x2000, 2 ^ 32)])) (fun t => t.w 1) = some 0x8000000000000001 ∧
    tShow (exec (.redx 1 2 0 0) (tRedx 3)) (fun t => (t.w 1, t.flights.length + (tR t).merged.length)) = some (0, 1) ∧
    tShow (exec (.redx 1 2 0 0) (tRedx 4)) (fun t => t.w 1) = some 0x8000000000000001 ∧
    tShow (exec (.lnkctlRfree 1 2 0) (tRegs (tRed 3) [(2, 3)])) (fun t => (t.w 1, (tR t).state == .abandoned)) = some (0, true) ∧
    tShow (exec (.reductionContribution 9) (tFly (tRed 3) (.contrib 3 1 ⟨[5], 1, 1, 0x4000, 0, 0, false, 1, 0⟩))) (fun t => (tR t).merged.length) =
      some 1 := by decide +kernel

/-- Rings 2 and 3 of member 0 bound, one message of partition 1 in ring 2; a descriptor of one stage at 0x2000, from stream 7 and ring 3 to ring 2, its sink ring 3; w2 = 0x2000. -/
def tPipe0 : State :=
  let s := tDws (tRegs tState [(2, 0x2000)]) [(0x5000, 0x200000 + 0x6000), (0x5008, 2 ^ 32), (0x5040, 0x200000 + 0x7000),
    (0x8048, (0xC0000000 + 0x5040) * 2 ^ 32 + 0xC0000000 + 0x5000), (0x6000, 0x10000), (0x2000, 0x11), (0x2008, 7),
    (0x2010, 3 * 2 ^ 16), (0x2060, 3 * 2 ^ 16 + 2 * 2 ^ 20)]
  { s with groups := [(1, { tGroup with members := [{ tMember 0 with rings :=
      [(2, 0x5000, 0x200000 + 0x6000), (3, 0x5040, 0x200000 + 0x7000)] }, tMember 1] })] }

def tRec : List Nat := [0, 0, 0, 0, 3 * 2 ^ 16 + 2 * 2 ^ 20, 0, 0, 0]

/-- Pipeline 3 of group 1 with that stage. -/
def tPipe : State :=
  { tPipe0 with pipelines := [(3, ⟨3, 0, 1, 1, 1, 7, 3, 0, [⟨tRec, [3], 0, [], false, [], []⟩], 0, none, 0, 0, 0⟩)] }

theorem test_witness_PipelineResult_bind : let s := tPipe0
    let d := [0x11, 7, 3 * 2 ^ 16, 0, 0, 0, 0, 0]
    let as : List At := (upTo 8).map (fun i => .loc (0x2000 + 8 * i))
    let bs : List At := (upTo 8).map (fun i => .loc (0x2040 + 8 * i))
    let u := tUsed (tUsed s (tEls 0x2000 8) as) (tEls 0x2040 8) bs
    tReads s (tEls 0x2000 8) as d = true ∧ tReads (tUsed s (tEls 0x2000 8) as) (tEls 0x2040 8) bs tRec = true ∧
    s.calm = true ∧ (s.w 2).toNat % 64 = 0 ∧ rngOf (s.w 2).toNat = .loc 0x2000 ∧ bitsOf (d.getD 0 0) 0 4 = 1 ∧ badHead d = false ∧
      bitsOf (d.getD 0 0) 4 2 = 1 ∧ bitsOf (d.getD 2 0) 0 13 < u.nMembers 1 ∧
      [(⟨tRec, [], 0, [], false, [], []⟩ : Stage)].any (fun x => u.badStage 1 x) = false ∧
      (pick (fun i => (mget u.pipelines i).isNone) (upTo 1024)).isSome = true ∧
      ((mget u.parts (u.partOf 1)).map (fun x => (mget x.streams (d.getD 1 0)).isSome)) = some true ∧
      (s.holdings 1).length + 1 ≤ 65536 ∧ s.estate.length + 1 ≤ 1048576 := by decide +kernel

theorem test_witness_PipelineResult : let s := tRegs tPipe [(2, 3 * 2 ^ 32 + 3)]
    s.calm = true ∧ (s.pipe ((s.w 2).toNat % 2 ^ 32)).map (fun p => p.group) = some s.cx.group ∧
      ((tRegs tPipe [(2, 4)]).calm = true ∧ (tRegs tPipe [(2, 4)]).pipe 4 = none) ∧
      (let m := s.member 1 0
       let g : Stage := ⟨tRec, [3], 0, [], false, [], []⟩
       (s.pipe 3).map (fun p => p.stage 0) = some g ∧ m.ring g.outRing = some (0x5000, 0x200000 + 0x6000) ∧ g.attached ≠ [] ∧
         m.pst = 0 ∧ s.bound m g.outRing = true ∧ s.ringCount m.pcore 0x5000 = 1 ∧
         (s.handAll (fun r => (s.slotAt m.pcore (0x200000 + 0x6000) 0 0 0 0).copyTo 3 0 r) (s.successors g 0)).2 = ([(1, 0, 3)], [(1, 0, 3)]) ∧
         (s.grp 1).any ended = false ∧
         s.successors g 0 = [(1, 0, 3)]) := by decide +kernel

/-- An item of the stream, for partition 1. -/
def tItem : List Byte := [0, 0, 1, 0, 0, 0, 0, 0] ++ List.replicate 248 0

theorem test_witness_PipelineResult_source :
    ((tPipe.pipe 3).map (fun p => (tPipe.firstStages p, p.srcWait.isNone))) = some ([(1, 0, 3)], true) ∧
      (tPipe.handAll (fun r => slotMsg r.1 r.2.1 r.2.2 (dwOf tItem 0) (dwOf tItem 1) (dwOf tItem 2) (dwOf tItem 3)
        ((tItem.drop 32).take 224)) [(1, 0, 3)]).2 = ([(1, 0, 3)], [(1, 0, 3)]) ∧
      (tPipe.pipe 3).map (fun p => (tPipe.sourceUp p, ({ tPipe with ports := [(0, false)] } : State).sourceUp p)) =
        some (true, false) := by decide +kernel

theorem test_witness_PipelineResult_kept :
      (let kept := tPipe.updPipe 3 (fun p => { p with srcWait := some (tItem, []) })
       (kept.pipe 3).map (fun p => (decide (p.stages.length ≤ 1), p.srcWait.isSome)) = some (true, true)) := by decide +kernel

theorem test_pipelines :
    (tShow (exec (.pbind 1 2 0 0) tPipe0) (fun t => (t.pipelines.length, t.cx.pc))) = some (1, 0x404) ∧
    tShow (exec (.punbind 1 2 0 0) (tRegs tPipe [(2, 3)])) (fun t => (t.w 1, t.pipelines.length)) = some (0, 0) ∧
    tShow (exec (.pstat 1 2 0 0) (tRegs tPipe [(2, 4)])) (fun t => t.w 1) = some 0 ∧
    tShow (exec (.relayForward 3 0) tPipe) (fun t => (t.ringHead 0 0x5000, t.ringCount 0 0x5040, t.rdS 0 0x7000 8)) =
      some (1, 1, 0x10000) ∧
    tShow (exec (.sourceItem 3 tItem) tPipe) (fun t => (t.ringCount 0 0x5040, (t.pipe 3).map (fun p => p.srcNext))) =
      some (1, some 1) := by decide +kernel

/-! ## Members that move -/

/-- w2 names member 1's window. -/
def tGo (m : Member) : State :=
  tRegs { tState with groups := [(1, { tGroup with members := [tMember 0, m] })] } [(2, 0x400000020000)]

/-- Group 1 with another list of commands, other members and a context at rest. -/
def tMoving (st : GState) (pre : List Nat) (ms : List Member) (im : List Saved) : State :=
  { tState.setCx { tCtx with state := .ready } with
    groups := [(1, { tGroup with state := st, pre := pre, members := ms, images := im })] }

theorem test_witness_MoveResult :
    let s := tGo (tMember 1)
    let own := tRegs tState [(2, 0x100)]
    let land : State := tFly { tState with ctxs := [] } (.migrate 1 3 tCtx [1, 2, 3] 0)
    (s.calm = true ∧ s.cx.depth = 0 ∧ s.cx.get 0x043 = 0 ∧ s.cx.fld 0x042 32 16 = 0 ∧ s.cx.fld 0x038 0 4 = 0) ∧
      (own.calm = true ∧ rngOf (own.w 2).toNat = .loc 0x100 ∧ own.cx.depth = 0) ∧
      (rngOf (s.w 2).toNat = .win 1 0 ∧ 1 < s.nMembers s.cx.group ∧ 1 ≠ s.cx.vcore ∧ (s.grp s.cx.group).isSome = true) ∧
      ((s.member 1 1).pst = 0 ∧ ((s.grp 1).bind (fun g => s.slotFor g (s.member 1 1).qbase 1 s.cx.foot)).isSome = true ∧
        s.enginesInto s.cx.group s.cx.vcore = false ∧ ((s.endFwd s.cur).core s.here).fwd.length + s.movingFrom s.here < 16) ∧
      (((tGo { tMember 1 with pst := 1 }).member 1 1).pst = 1 ∧ (tGo { tMember 1 with pst := 1 }).calm = true) ∧
      (let full := tGo { tMember 1 with pst := 3 }
       let u : State := { full with ctxs := full.ctxs ++ (upTo 8).map (fun i => (8 + i, tCtx)) }
       (u.member 1 1).pst ≠ 1 ∧ u.calm = true ∧ (u.grp 1).bind (fun g => u.slotFor g (u.member 1 1).qbase 1 u.cx.foot) = none ∧
         (u.grp 1).isSome = true) ∧
      (land.flight 9 = some (.migrate 1 3 tCtx [1, 2, 3] 0) ∧ land.grp tCtx.group = some tGroup ∧ ended tGroup = false ∧
        (land.core 1).stop = false) := by decide +kernel

/-- w2 names a page of the user window that the core's TLB holds: physical 2^30 + 24 * 256, whose home slice is on die 1. -/
def tFarPage : State :=
  (tRegs tState [(2, 0x100001800)]).setCore 0 { Core.blank with tlb := [⟨1, 0x100000000, 2 ^ 30, 2 ^ 30, 7, 0, true, true⟩] }

theorem test_witness_MoveResult_codes :
    let at_ (w : Word) := tRegs tState [(2, w)]
    ((tCrs tState [(0x000, 0x100C)]).calm = true ∧ (tCrs tState [(0x000, 0x100C)]).cx.depth ≠ 0) ∧
      (rngOf ((at_ 0x400000000000).w 2).toNat = .win 0 0 ∧ 0 < (at_ 0x400000000000).nMembers 1 ∧ 0 = tCtx.vcore ∧
        (at_ 0x400000000000).calm = true) ∧
      (rngOf ((at_ 0x400000040000).w 2).toNat = .win 2 0 ∧ (at_ 0x400000040000).nMembers 1 ≤ 2 ∧
        (at_ 0x400000040000).calm = true) ∧
      (tFarPage.calm = true ∧ rngOf (tFarPage.w 2).toNat = .user ∧
        tFarPage.locateAll 2 [⟨(tFarPage.w 2).toNat, 1, .load, 0, 0, false⟩] = .ok [.hbm 0x40001800] ∧
        (tFarPage.grp tFarPage.cx.group).bind (fun g => memberOnDie g (sliceOf 0x40001800 / 24)) = none) := by decide +kernel

theorem test_witness_MoveResult_steps :
    let two := [tMember 0, tMember 1]
    let s := tMoving .running [] two []
    let one := tMoving .running [0] [tMember 0, { tMember 1 with pst := 3 }] []
    let mv := tMoving .running [3] two []
    let here := tMoving .running [1] two []
    let go := tMoving .running [3] [{ tMember 0 with pst := 1 }, tMember 1] []
    let im : Saved := ⟨0, 0, [], [], [], []⟩
    let saved := tMoving .saved [] [{ tMember 0 with pst := 2 }, { tMember 1 with pst := 2 }] [im]
    let g (s : State) : Group := (s.grp 1).getD tGroup
    ((tFly s (.placeUpd 1 0 2 0 0)).flight 9 = some (.placeUpd 1 0 2 0 0) ∧
        (tFly s (.placeAck 1 0 2)).flight 9 = some (.placeAck 1 0 2)) ∧
      (s.grp 1 = some (g s) ∧ (g s).state = .running ∧ (g s).pre.head? ≠ some 0 ∧ s.rectIn (g s).part (g s).hdr 2 = true ∧
        s.rectIn (g s).part (g s).hdr 3 = false) ∧
      (one.grp 1 = some (g one) ∧ (g one).pre.head? = some 0 ∧ placedMembers (g one) = [0] ∧ one.memberReady 1 0 = true) ∧
      (mv.grp 1 = some (g mv) ∧ ended (g mv) = false ∧ moveTarget (g mv) 0 = some 2 ∧ (mv.member 1 0).pst = 0 ∧
        (mv.member 1 0).pcore ≠ 2 ∧ (g mv).members.any (fun m => m.pst == 1) = false ∧ moveDone (g mv) = false ∧
        mv.canReceive (g mv) 0 2 = true) ∧
      (moveTarget (g here) 0 = some 0 ∧ moveDone (g here) = true ∧ (g saved).state ≠ .running ∧ (g mv).state ≠ .saved) ∧
      (moveTarget (g go) 0 = some 2 ∧ moveDone (g go) = false ∧ (go.member 1 0).pst = 1 ∧ go.memberReady 1 0 = true ∧ 0 < (g go).members.length ∧ (g go).handle = 1 ∧
        go.grp 1 = some (g go)) ∧
      (saved.grp 1 = some (g saved) ∧ (g saved).state = .saved ∧ saved.rectIn (g saved).part (g saved).hdr 2 = true ∧
        (g saved).images.all (fun z => saved.canRestore (g saved) (((g saved).hdr.coresAt 2).getD z.vcore 6144) z) = true ∧
        (g saved).overflow = [] ∧ (g saved).overflowFills = [] ∧ (g saved).overflowBcasts = [] ∧ im.vcore < (g saved).members.length) := by
  decide +kernel

theorem test_moves_member :
    tShow (exec (.migrate 1 2 0 0) (tGo (tMember 1))) (fun t => (t.flights.map (fun f => match f.cargo with
      | .migrate core slot c _ from_ => [core, slot, c.pc.toNat, from_]
      | _ => []), (mget t.ctxs 0).isSome)) = some ([[1, 0, 0x404, 0]], false) ∧
    tShow (exec (.migrate 1 2 0 0) (tGo { tMember 1 with pst := 1 })) (fun t => t.cx.get 0x002) = some 0x15 ∧
    tShow (exec (.migrate 1 2 0 0) { tGo (tMember 1) with ctxs := (tGo (tMember 1)).ctxs ++ (upTo 8).map (fun i => (8 + i, tCtx)) })
      (fun t => t.w 1) = some 0x8000000000000003 ∧
    tShow (exec (.migrate 1 2 0 0) (tRegs tState [(2, 0x100)])) (fun t => (t.w 1, t.cx.pc)) = some (0, 0x404) ∧
    tShow (exec (.migrationArrival 9) (tFly { tState with ctxs := [] } (.migrate 1 3 tCtx [1, 2, 3] 0)))
      (fun t => ((mget t.ctxs 11).isSome, t.rdS 1 (0x1000 - 64) 3)) = some (true, 0x030201) ∧
    tShow (exec (.save 1) (tMoving .running [0] [tMember 0, { tMember 1 with pst := 3 }] [])) (fun t =>
      (t.grp 1).map (fun g => (g.state == .saved, g.images.length))) = some (some (true, 1)) ∧
    tShow (exec (.memberMoveInstall 1 0) (tMoving .running [3] [{ tMember 0 with pst := 1 }, tMember 1] [])) (fun t =>
      (t.member 1 0).pcore) = some 2 := by decide +kernel

/-! ## The probe and the recorder -/

/-- A supervisor on core 0; w2 names core 1 by its number. -/
def tProbe : State := tRegs tState [(2, 2 ^ 15 + 1)]

theorem test_witness_ProbeResult : let s := tProbe
    let st := s.setCore 1 { Core.blank with stop := true }
    let x : State := { s with ctxs := [(0, tCtx), (8, { tCtx with state := .stopped none false })] }
    let lg := s.setCore 1 { Core.blank with log := ⟨true, 0x40000000, 64, 0, 0, 0, false⟩ }
    let arm := tRegs tState [(2, 0x30000)]
    let no := { arm with recorders := [(0, ⟨false, false, false, true, [0, 3], [], 0, none⟩)] }
    (s.calm = true ∧ bitsOf (s.w 2).toNat 13 2 = 0 ∧ bitsOf (s.w 2).toNat 19 45 = 0 ∧ s.probeTarget (s.w 2).toNat = .inr 1 ∧
        (s.core 1).stop = false ∧ s.cx.sup = true ∧ (s.core 1).log.on = false) ∧
      (st.calm = true ∧ (st.core 1).stop = true ∧ st.probeTarget (st.w 2).toNat = .inr 1) ∧
      (x.calm = true ∧ (mget x.ctxs (1 * 8 + 0)).isSome = true ∧ (x.ctx 8).isStopped = true) ∧
      (lg.calm = true ∧ (lg.core 1).log.on = true ∧ (lg.cidsOn 1).any (fun i => i != lg.cur && (lg.ctx i).call.isSome) = false) ∧
      ((tRegs tUser [(2, 2 ^ 15 + 1)]).calm = true ∧ (tRegs tUser [(2, 2 ^ 15 + 1)]).probeTarget (2 ^ 15 + 1) = .inl 1) ∧
      (arm.calm = true ∧ bitsOf (arm.w 2).toNat 9 7 = 0 ∧ bitsOf (arm.w 2).toNat 32 32 = 0 ∧ bitsOf (arm.w 2).toNat 0 9 < Config.clusters ∧
        arm.partOnDie 1 (dieOfCluster 0) = true ∧ ((mget arm.parts 1).map (fun p => p.clus.contains 0)) = some true ∧
        arm.unread (dieOfCluster 0) = false ∧ no.unread (dieOfCluster 0) = true ∧ no.calm = true ∧
        (tRegs tUser [(2, 0x30000)]).cx.sup = false) ∧
      ((tRegs tState [(2, 0)]).calm = true ∧ (tRegs tState [(2, 0)]).partOnDie 1 0 = true) := by decide +kernel

theorem test_witness_ProbeResult_codes :
    let s := tProbe
    let r : State := { s with ctxs := [(0, tCtx), (8, { tCtx with state := .ready })] }
    let u := tRegs tUser [(2, 2 ^ 15 + 1)]
    ((tRegs tState [(2, 2 ^ 13)]).calm = true ∧ bitsOf ((tRegs tState [(2, 2 ^ 13)]).w 2).toNat 13 2 ≠ 0) ∧
      (u.calm = true ∧ u.cx.sup = false ∧ bitsOf (u.w 2).toNat 13 2 = 0 ∧ bitsOf (u.w 2).toNat 19 45 = 0) ∧
      mget s.ctxs (1 * 8 + 0) = none ∧
      (r.calm = true ∧ r.probeTarget (r.w 2).toNat = .inr 1 ∧ (mget r.ctxs 8).isSome = true ∧ (r.ctx 8).isStopped = false) ∧
      ((tRegs tUser [(2, 0x30000)]).calm = true ∧ bitsOf ((tRegs tUser [(2, 0x30000)]).w 2).toNat 9 7 = 0) := by decide +kernel

theorem test_probe :
    tShow (exec (.probeStop 1 2 0) tProbe) (fun t => ((t.core 1).stop, t.w 1)) = some (true, 0) ∧
    tShow (exec (.probeResume 1 2 0) tProbe) (fun t => t.w 1) = some 0x8000000000000002 ∧
    tShow (exec (.probeStop 1 2 0) (tRegs tUser [(2, 2 ^ 15 + 1)])) (fun t => t.w 1) = some 0x8000000000000001 ∧
    tShow (exec (.probeStep 1 2 0) { tProbe with ctxs := [(0, tCtx), (8, { tCtx with state := .stopped none false })] })
      (fun t => ((t.ctx 8).stepping, t.w 1)) = some (true, 0) ∧
    tShow (exec (.probeRarm 1 2 0) (tRegs tState [(2, 0x30000)])) (fun t => (mget t.recorders 0).map (fun r => (r.armed, r.cfg))) =
      some (some (true, [0, 3])) ∧
    tShow (exec (.probeCkpt 1 2 0) tProbe) (fun t => t.w 1) = some 0x8000000000000004 := by decide +kernel

theorem test_witness_RecorderAndReadout :
    let r : Recorder := ⟨false, false, true, false, [0, 3], [[1, 2]], 0, none⟩
    let s : State := { tState with recorders := [(0, r)] }
    let z : State := { tState with recorders := [(0, { r with frozen := true })] }
    let st : State := { tState with ctxs := [(8, { tCtx with state := .stopped none false })] }
    let re := (tState.setCore 1 { Core.blank with log := ⟨true, 0x1000, 64, 32, 1, 0, false⟩, replay := some 0 }).wrH 0x100F 1 1
    (mget s.recorders 0 = some r ∧ r.triggered = true ∧ r.left = 0 ∧ r.frozen = false ∧ (mget z.recorders 0).map (fun x => x.frozen) = some true) ∧
      (bitsOf 0x30000 0 9 < Config.clusters ∧ dieOfCluster (bitsOf 0x30000 0 9) = 0 ∧ s.unread 0 = false) ∧
      ((st.ctx 8).isStopped = true ∧ (mget st.ctxs 8).isSome = true) ∧
      ((0x40000000#64).toNat + 64 ≤ Config.hbmBytes ∧ (s.core 0).replay = none) ∧
      ((re.core 1).replay = some 0 ∧ 32 * (0 + 1) ≤ (re.core 1).log.size ∧ re.rdH 0x100F 1 ≠ 0 ∧
        re.rdH 0x1000 8 ≤ (re.core 1).log.cyc) ∧
      (coreOfCid 8 < Config.cores ∧ Config.cores ≤ coreOfCid (copyBase + 6144) ∧ 0 < Config.cores ∧ Config.cores ≤ 6144) ∧
      0 + 2 ≤ 1048576 := by decide +kernel

theorem test_recorder :
    tShow (exec (.recorderFreeze 0) { tState with recorders := [(0, ⟨true, false, true, false, [0, 3], [[1, 2]], 0, none⟩)] }) (fun t =>
      (mget t.recorders 0).map (fun r => (r.armed, r.frozen))) = some (some (false, true)) ∧
    tShow (exec (.record 0 2 0) { tState with recorders := [(0, ⟨false, false, true, true, [0, 3], [[1, 2]], 0, none⟩)] }) (fun t => t.hostOut) =
      some [[0, 0, 1, 2]] ∧
    tShow (exec (.hostProbe 8 4 64 0x40000000) tState) (fun t => (t.core 1).log.base) = some 0x40000000 ∧
    tShow (exec (.estateRead 0 1) tState) (fun t => t.hostOut) = some [[0, 0, 0, 0, 0, 0]] := by decide +kernel

/-! ## The host -/

/-- A policy of partition 1, version 1. -/
def tPolicy : List Byte := [1, 0, 1, 0, 1, 0, 0, 0, 2, 0, 0, 0, 0, 0, 0, 0, 10] ++ List.replicate 47 0

/-- A launch header's bytes: one member at core 2, entry 0x402, scratchpad range whole, workspace 0x1000, handler workspace 0x3000. -/
def tLaunchBytes : List Byte :=
  ([0x402, 2 * 2 ^ 32 + 257, 0x20000 * 2 ^ 32, 0x1000, 0, 0, 0, 0, 0, 0, 0x3000, 0, 0, 0, 0, 0].map (leBytes 8)).flatten

theorem test_witness_HostCommands :
    let down : State := { tState with boot := .waiting }
    mget tState.parts 1 = some tPart ∧ (({ down with parts := [] } : State).parts = [] ∧ down.boot = .waiting) ∧
      (0x2000 % 4096 = 0 ∧ 0x2000 < Config.hbmBytes) ∧ 4095 < 4096 ∧ 3 < 4 ∧
      (mget tState.parts 2 = none ∧ tState.parts.length < 256 ∧ 383 < Config.clusters ∧
        tState.parts.any (fun q => q.2.clus.contains 383) = false) ∧
      (∀ x ∈ ((0x3000, [(4095, 7)]) : Nat × List (Nat × Nat)).2, x.1 < 4096) ∧ tState.boot = .up ∧
      (tPart.state = .live ∧ ({ tState with groups := [] } : State).groups = []) ∧
      (policyCheck 1 tPart [] [] ≠ 0) ∧
      (tState.launchCode ((upTo 16).map (dwOf tLaunchBytes)) 1 true none = 0 ∧
        tState.launchCode ((upTo 16).map (dwOf [])) 1 true none ≠ 0) ∧
      tState.grp 1 = some tGroup ∧ tState.reqs = [] ∧
      ((tReqs { tReq .issued with loc := .hbm 0x40000000, va := 0x100000000 }).reqs.filter (fun r => r.group == 1 && r.unperformed &&
        isHbm r.loc && [(0x100000000, 4096)].any (fun x => overlap r.va.toNat r.size x.1 x.2)) ≠ []) ∧ ({ tState with sigsLeft := 3 } : State).sigsLeft ≠ 0 ∧
      (List.replicate 32 (0 : Byte)).length = 32 ∧ 0x1000 + [(1 : Byte), 2].length ≤ Config.hbmBytes := by decide +kernel

/-- A partition whose key is of LMS_SHA256_M32_H10 with LMOTS_SHA256_N32_W8, and a signature of that set. -/
def tKeyed : Part := { tPart with pub := [0, 0, 0, 6, 0, 0, 0, 4] ++ List.replicate 48 0 }

def tSig : List Byte := [0, 0, 0, 0, 0, 0, 0, 4] ++ List.replicate 1120 0 ++ [0, 0, 0, 6] ++ List.replicate 320 0

/-- A policy whose fields are good and whose signature is of a supported set passes its checks if and only if its signature does: the model fixes no signature's verdict (27 R390). -/
theorem test_policy_signature : policyCheck 1 tKeyed tPolicy tSig = if Config.lmsVerify tKeyed.pub tPolicy tSig = true then 0 else 4 := by
  have h : badPolicy tPolicy = false := by decide +kernel
  have h2 : polByte (some tPolicy) 0 + 256 * polByte (some tPolicy) 1 = 1 := by decide +kernel
  have h3 : lmsSet tKeyed.pub tSig = true := by decide +kernel
  have h4 : tKeyed.policy = none := rfl
  cases hv : Config.lmsVerify tKeyed.pub tPolicy tSig <;> simp [policyCheck, h, h2, h3, h4, hv]

/-- A key of no supported set fails the fourth check whatever its signature (27 R390). -/
theorem test_policy_set : policyCheck 1 tPart tPolicy [] = 4 := by decide +kernel

theorem test_host :
    tShow (exec (.root 0x2000) tState) (fun t => (t.superRoot, t.hostOut)) = some (0x2000, [[0, 0]]) ∧
    tShow (exec (.root 0x2001) tState) (fun t => (t.superRoot, t.hostOut)) = some (0, [[0, 1]]) ∧
    tShow (exec (.policy 1 [] []) tState) (fun t => t.hostOut) = some [[0, 1]] ∧
    tShow (exec (.invalidate 1 0 4096) tState) (fun t => (t.hostOut, t.invals)) = some ([[0, 0]], []) ∧
    tShow (exec (.hostKill 1) tState) (fun t => (t.grp 1).map (fun g => (g.state == .exiting, g.cause))) = some (some (true, 2)) ∧
    tShow (exec (.bulkWrite 0x1000 [1, 2]) tState) (fun t => t.rdH 0x1000 2) = some 0x0201 ∧
    tShow (exec (.bulkRead 0x1000 2) tState) (fun t => t.hostOut) = some [[0, 0, 0, 0]] := by decide +kernel

theorem test_partition : tShow (exec (.partitionCreate 2 [] [383] (0x3000, [(5, 7)])) tState) (fun t =>
    (mget t.parts 2).map (fun p => (p.clus, p.root, p.handles))) = some (some ([383], 0x3000, [(5, 7)])) := by decide +kernel

theorem test_witness_PowerAndReset :
    let going (p : Power) : State := tState.setCluster 5 { Cluster.blank with going := some p }
    (5 < Config.clusters ∧ tState.clusterBusy 5 = false) ∧ ((going .off).cluster 5).going = some .off ∧
      ((going .off).clusterBusy 5 = false) ∧ (0 < 2 ∧ 2 < 4) ∧
      (({ tState with darkening := [2] } : State).darkening.contains 2 = true ∧ tState.reqs = [] ∧ tState.hops = []) ∧ 5 < 12 ∧
      (tState.portUp 2 = true ∧ 3 < 4 ∧ 3 ≠ 2 ∧ ({ tState with ports := [(2, false)] } : State).portUp 2 = false) ∧
      (mget tState.parts 1).isSome = true ∧
      (((tLink .lit).link 5).st 0 = .lit ∧ ((tLink .parked).link 5).st 0 = .parked ∧ ((tLink .failed).link 5).st 0 = .failed) ∧
      (∃ g ∈ (tLink .lit).grants, g.id = 3) := by decide +kernel

theorem test_power :
    tShow (exec (.powerCluster 5 1) tState) (fun t => ((t.cluster 5).going, (t.cluster 5).power)) = some (some .gated, .on) ∧
    tShow (exec (.powerTransitionComplete 0 5) (tState.setCluster 5 { Cluster.blank with going := some .gated })) (fun t =>
      ((t.cluster 5).going, (t.cluster 5).power)) = some (none, .gated) ∧
    tShow (exec (.planeDarkEffect 2) { tState with darkening := [2] }) (fun t => mget t.planes 2) = some (some false) ∧
    tShow (exec (.grantExpiry 3) { tLink .lit with time := 100 }) (fun t => t.grants.length) = some 0 ∧
    tShow (exec (.wavelengthReset 5 0) (tLink .failed)) (fun t => (t.link 5).st 0) = some .waking ∧
    tShow (exec .deviceReset tState) (fun t => (t.boot == .waiting, t.ctxs.length, t.bbFrozen)) = some (true, 0, true) ∧
    tShow (exec .supplyLoss tState) (fun t => t.powered) = some false := by decide +kernel


theorem test_witness_AluFrame :
    aluOf tState (.add 1 2 3 0) = some ([2, 3], 1, tState.w 2 + tState.w 3) ∧ tState.regBad [2, 3] = none ∧ tState.cx.rep = none ∧
      tState.cx.wp + 128 ≤ 0x20000 ∧ (tShow (exec (.add 1 2 3 0) tState) (fun t => t.cur)).isSome = true ∧ (2 : BitVec 4) ≠ 1 := by
  decide +kernel

theorem test_witness_VectorLanes : 15 < 16 ∧ tState.cx.wp + 2192 ≤ 0x20000 ∧ ¬ span 0 (tState.cx.vOff 31) 64 0 0 ∧
    tState.active 0 15 = true :=
  ⟨by decide, by decide +kernel, fun h => absurd h.2.1 (by decide +kernel), by decide +kernel⟩

end
end

