-- ==== Sys2Proof/Proofs/NanLayout.lean ====
section
/-! PROOFS. The fields of an FP32 NaN that the device creates (02 R34). `mkNan` is a sum of field values at their places; each field is read back by splitting that sum there. -/

namespace Sys2Proof.Machine

/-- A field is read back from a word that is the fields above it, the field at its place, and the bits below it. -/
theorem bitsOf_of_split {w hi v low lo n : Nat} (hw : w = (hi * 2 ^ n + v) * 2 ^ lo + low)
    (hv : v < 2 ^ n) (hlow : low < 2 ^ lo) : bitsOf w lo n = v := by
  have hdiv : w / 2 ^ lo = hi * 2 ^ n + v := by
    rw [hw, Nat.add_comm, Nat.add_mul_div_right _ _ (Nat.two_pow_pos lo), Nat.div_eq_of_lt hlow, Nat.zero_add]
  rw [bitsOf, hdiv, Nat.mul_add_mod', Nat.mod_eq_of_lt hv]

/-- The bits of a created NaN below its quiet bit: ORIGIN above KIDX. -/
theorem mkNan_payload_lt (origin kidx : Nat) : origin % 8192 * 512 + min kidx 511 < 2 ^ 22 := by omega

theorem mkNan_lt (origin kidx : Nat) : mkNan origin kidx < 2 ^ 31 := by
  have hpay := mkNan_payload_lt origin kidx
  rw [mkNan]
  omega

@[simp] theorem mkNan_sign (origin kidx : Nat) : bitsOf (mkNan origin kidx) 31 1 = 0 :=
  bitsOf_of_split (hi := 0) (by omega) (by decide) (mkNan_lt origin kidx)

@[simp] theorem mkNan_exponent (origin kidx : Nat) : bitsOf (mkNan origin kidx) 23 8 = 0xFF := by
  have hpay := mkNan_payload_lt origin kidx
  refine bitsOf_of_split (hi := 0) (low := 2 ^ 22 + (origin % 8192 * 512 + min kidx 511)) ?_ (by decide) ?_
  · rw [mkNan]
    omega
  · omega

@[simp] theorem mkNan_quiet (origin kidx : Nat) : bitsOf (mkNan origin kidx) 22 1 = 1 := by
  refine bitsOf_of_split (hi := 0xFF) (low := origin % 8192 * 512 + min kidx 511) ?_ (by decide)
    (mkNan_payload_lt origin kidx)
  rw [mkNan]
  omega

@[simp] theorem mkNan_origin (origin kidx : Nat) : bitsOf (mkNan origin kidx) 9 13 = origin % 8192 := by
  refine bitsOf_of_split (hi := 0x1FF) (low := min kidx 511) ?_ (Nat.mod_lt _ (by decide)) ?_
  · rw [mkNan]
    omega
  · omega

@[simp] theorem mkNan_kidx (origin kidx : Nat) : bitsOf (mkNan origin kidx) 0 9 = min kidx 511 := by
  refine bitsOf_of_split (hi := 0x3FE000 + origin % 8192) (low := 0) ?_ ?_ (by decide)
  · rw [mkNan]
    omega
  · omega

/-- Settles O60: each field of `mkNan` read back at its place; a core's number fits the 13 bits of ORIGIN. -/
theorem nanLayout : Obligations.NanLayout := by
  unfold Obligations.NanLayout
  intro core k hcore
  have horigin : core % 8192 = core := Nat.mod_eq_of_lt (by omega)
  have hlt := mkNan_lt core k
  exact ⟨mkNan_sign core k, mkNan_exponent core k, mkNan_quiet core k, (mkNan_origin core k).trans horigin,
    mkNan_kidx core k, by omega⟩

end Sys2Proof.Machine
end

/-! PROOFS. The decoding of a line (03 R49, R50), where the PC goes next (03 R60, R61), and the jumps that enter no line (03 R62). The decoder's two refusals and the running end of its tails are said as equations about the line's heads; a transfer of control goes by what the fetch of its target answers. -/

namespace Sys2Proof

/-! ## The line (03 R49, R50) -/

/-- Bytes of the tail that a head announces (03 R48). -/
def tailSize (head : Nat) : Nat := 2 * (head % 4)

/-- Bytes of the tails of the first `i` heads. -/
def tailsBefore (bs : List Byte) (i : Nat) : Nat :=
  ((List.range i).map (fun j => tailSize (headAt bs (j + 1)))).sum

/-- The heads that a line's descriptor counts, in slot order. -/
def lineHeads (bs : List Byte) : List Nat := (List.range (headAt bs 0 % 32)).map (fun i => headAt bs (i + 1))

@[simp] theorem length_lineHeads (bs : List Byte) : (lineHeads bs).length = headAt bs 0 % 32 := by simp [lineHeads]

theorem getElem?_lineHeads {bs : List Byte} {i : Nat} (h : i < headAt bs 0 % 32) :
    (lineHeads bs)[i]? = some (headAt bs (i + 1)) := by
  simp [lineHeads, List.getElem?_range h]

theorem sum_tailSize_take_lineHeads {bs : List Byte} {i : Nat} (h : i ≤ headAt bs 0 % 32) :
    (((lineHeads bs).take i).map tailSize).sum = tailsBefore bs i := by
  simp [lineHeads, tailsBefore, ← List.map_take, List.take_range, h, Function.comp_def]

theorem sum_tailSize_lineHeads (bs : List Byte) :
    ((lineHeads bs).map tailSize).sum = tailsBefore bs (headAt bs 0 % 32) := by
  simp [lineHeads, tailsBefore, Function.comp_def]

theorem decodeLine_eq_none_iff (bs : List Byte) :
    decodeLine bs = none ↔ headAt bs 0 % 32 = 0 ∨ 32 ≤ headAt bs 0 ∨
      64 < 2 + 2 * (headAt bs 0 % 32) + tailsBefore bs (headAt bs 0 % 32) := by
  rw [← sum_tailSize_lineHeads, ← or_assoc]
  unfold decodeLine
  dsimp only
  split
  case isTrue h => exact iff_of_true rfl (.inl h)
  case isFalse h =>
    split
    case isTrue h64 => exact iff_of_true rfl (.inr h64)
    case isFalse h64 => exact iff_of_false (by simp) (not_or.2 ⟨h, h64⟩)

theorem decodeLine_eq_some {bs : List Byte} {l : LineBits} (h : decodeLine bs = some l) :
    l = ⟨lineHeads bs, tailsOf bs (lineHeads bs) 64⟩ := by
  unfold decodeLine at h
  dsimp only at h
  split at h
  case isTrue => cases h
  case isFalse =>
    split at h
    case isTrue => cases h
    case isFalse => exact (Option.some.inj h).symm

@[simp] theorem length_tailsOf (bs : List Byte) (hs : List Nat) : ∀ e, (tailsOf bs hs e).length = hs.length := by
  induction hs with
  | nil => intro e; rfl
  | cons h r ih => intro e; simp [tailsOf, ih]

/-- The tail in a slot ends where the tails of the heads before it begin. -/
theorem getElem?_tailsOf (bs : List Byte) (hs : List Nat) : ∀ (e i h : Nat), hs[i]? = some h →
    (tailsOf bs hs e)[i]? = some (tailAt bs (e - ((hs.take i).map tailSize).sum) (tailSize h)) := by
  induction hs with
  | nil => intro e i h hi; cases hi
  | cons x r ih =>
    intro e i h hi
    cases i with
    | zero =>
      obtain rfl : x = h := by simpa using hi
      rfl
    | succ i =>
      have hstart : e - tailSize x - ((r.take i).map tailSize).sum = e - (((x :: r).take (i + 1)).map tailSize).sum := by
        simp [Nat.sub_sub]
      rw [← hstart]
      exact ih (e - tailSize x) i h hi

/-- Settles O53: the three illegal cases are the two refusals of `decodeLine`, and each tail of a legal line is found from the top of the line by induction on the heads before it. -/
theorem lineDecoding : Obligations.LineDecoding := by
  unfold Obligations.LineDecoding
  intro bs _ head n size before
  have hzero : 32 ≤ head 0 ↔ head 0 / 32 ≠ 0 := by omega
  refine ⟨(decodeLine_eq_none_iff bs).trans (or_congr_right (or_congr_left hzero)), fun l hl => ?_⟩
  obtain rfl := decodeLine_eq_some hl
  refine ⟨length_lineHeads bs, (length_tailsOf bs _ 64).trans (length_lineHeads bs), fun i hi => ?_⟩
  have hhead := getElem?_lineHeads (bs := bs) hi
  refine ⟨hhead, (getElem?_tailsOf bs _ 64 i _ hhead).trans ?_⟩
  rw [sum_tailSize_take_lineHeads (Nat.le_of_lt hi)]
  rfl

end Sys2Proof

namespace Sys2Proof.Machine

variable {s : State}

/-! ## Addresses in a line (03 R60, R61) -/

/-- Clearing the low six bits of an address is rounding it down to a multiple of 64. -/
theorem and_not_63_eq_toWord (pc : Word) : pc &&& ~~~63#64 = toWord (pc.toNat / 64 * 64) := by
  have hmask : ~~~63#64 = BitVec.allOnes 64 <<< 6 := by decide
  rw [hmask, ← BitVec.shiftLeft_ushiftRight]
  apply BitVec.eq_of_toNat_eq
  simp [toNat_toWord, Nat.shiftLeft_eq, Nat.shiftRight_eq_div_pow]

theorem toWord_add (m n : Nat) : toWord (m + n) = toWord m + toWord n := BitVec.ofNat_add m n

theorem succPc_some (l : Line) (pc : Word) :
    succPc (some l) pc = if pc.toNat % 64 / 2 < l.heads.length then pc + 2 else (pc &&& ~~~63#64) + 66 := by
  rw [and_not_63_eq_toWord]
  exact if_congr Iff.rfl rfl (toWord_add (pc.toNat / 64 * 64) 66)

theorem target_eq (pc : Word) (d : BitVec 27) (k : BitVec 5) :
    target pc d k = (pc &&& ~~~63#64) + d.signExtend 64 * 64 + k.setWidth 64 * 2 := by
  have hslot : toWord (2 * k.toNat) = k.setWidth 64 * 2 := by
    rw [toWord, Nat.mul_comm, BitVec.ofNat_mul, BitVec.ofNat_toNat]
    rfl
  rw [target, and_not_63_eq_toWord, hslot]

/-! ## Transfers of control (06 R132 to R134) -/

@[simp] theorem Ctx.completed_wp (c : Ctx) : c.completed.wp = c.wp := by
  obtain ⟨cr, n, h⟩ := c.completed_eq
  rw [h]

/-- Where the target's line is fetched, the transfer stands at the target, and a link is the successor in w15. -/
theorem enterAndLink_enters {x : Word} {l : Line} {u : State} (hf : s.fetch s.cur x.toNat = .ok l u) (link : Bool) :
    ∃ t, enterAndLink s x link = .next t ∧ t.cx.pc = x ∧
      (link = true → t.w 15 = succPc s.cx.line s.cx.pc) := by
  refine ⟨_, enterAndLink_ok s hf, by simp, ?_⟩
  rintro rfl
  exact (State.w_setCx _ (by simp) 15).trans (u.w_setW_self 15 _)

theorem exec_jr (a b c : BitVec 4) (imm : BitVec 6) : exec (.jr a b c imm) s = execJr a b c imm s := by rfl

theorem exec_callr (a b c : BitVec 4) (imm : BitVec 6) : exec (.callr a b c imm) s = execCallr a b c imm s := by rfl

theorem exec_jr_sound (hs : s.sound = true) (a b c : BitVec 4) (imm : BitVec 6) :
    exec (.jr a b c imm) s = enterAndLink s (s.w a) false := by
  rw [exec_jr, execJr, reading_sound s hs]

theorem exec_callr_sound (hs : s.sound = true) (a b c : BitVec 4) (imm : BitVec 6) :
    exec (.callr a b c imm) s = enterAndLink s (s.w a) true := by
  rw [exec_callr, execCallr, reading_sound s hs]

section branches

variable (a b : BitVec 4) (d : BitVec 27) (k : BitVec 5)

theorem exec_b : exec (.b a b d k) s = enterAndLink s (target s.cx.pc d k) false := by rfl

theorem exec_call : exec (.call a b d k) s = enterAndLink s (target s.cx.pc d k) true := by rfl

theorem exec_bz : exec (.bz a b d k) s = branch (fun x _ => x == 0) [a] a b d k s := by rfl

theorem exec_bnz : exec (.bnz a b d k) s = branch (fun x _ => x != 0) [a] a b d k s := by rfl

theorem exec_blt : exec (.blt a b d k) s = branch (fun x y => x.slt y) [a, b] a b d k s := by rfl

theorem exec_bge : exec (.bge a b d k) s = branch (fun x y => !x.slt y) [a, b] a b d k s := by rfl

theorem exec_bltN : exec (.bltN a b d k) s = branch (fun x y => x.ult y) [a, b] a b d k s := by rfl

theorem exec_bgeN : exec (.bgeN a b d k) s = branch (fun x y => !x.ult y) [a, b] a b d k s := by rfl

variable {p : Word → Word → Bool} {a b : BitVec 4} (hs : s.sound = true) (rs : List (BitVec 4))

include hs

theorem branch_taken (hp : p (s.w a) (s.w b) = true) :
    branch p rs a b d k s = enterAndLink s (target s.cx.pc d k) false := by
  rw [branch, reading_sound s hs, if_pos hp]

theorem branch_untaken (hp : p (s.w a) (s.w b) = false) : branch p rs a b d k s = .next s.advance := by
  rw [branch, reading_sound s hs, hp]
  rfl

end branches

/-- A conditional branch that is not taken goes to the successor: its condition, as the instruction reads it, is false. -/
theorem exec_jumpOf_untaken (hs : s.sound = true) {i : Instr} {rs : List (BitVec 4)} {x : Word} {link : Bool}
    (h : jumpOf s i = some (rs, false, x, link)) : exec i s = .next s.advance := by
  unfold jumpOf at h
  split at h <;> simp only [Option.some.injEq, Prod.mk.injEq, decide_eq_false_iff_not, Bool.true_eq_false, false_and,
    and_false, reduceCtorEq] at h
  all_goals obtain ⟨-, hcond, -, -⟩ := h
  case h_5 a b d k => exact (exec_bz a b d k).trans (branch_untaken d k hs _ (by simpa using hcond))
  case h_6 a b d k => exact (exec_bnz a b d k).trans (branch_untaken d k hs _ (by simpa using hcond))
  case h_7 a b d k => exact (exec_blt a b d k).trans (branch_untaken d k hs _ (by simpa [BitVec.slt] using hcond))
  case h_8 a b d k => exact (exec_bge a b d k).trans (branch_untaken d k hs _ (by simpa [BitVec.slt] using hcond))
  case h_9 a b d k => exact (exec_bltN a b d k).trans (branch_untaken d k hs _ (by simpa [BitVec.ult] using hcond))
  case h_10 a b d k => exact (exec_bgeN a b d k).trans (branch_untaken d k hs _ (by simpa [BitVec.ult] using hcond))

/-- Settles O54: the two address equations, `advance_pc` for the successor, and the entry of a line that the fetch answers for the branches taken. -/
theorem sequentialFlow : Obligations.SequentialFlow := by
  unfold Obligations.SequentialFlow
  intro s l a b c d k hline hrep hs pc base next dest
  have hnext : succPc s.cx.line s.cx.pc = next := by rw [hline, succPc_some]
  have hdest : target s.cx.pc d k = dest := target_eq _ d k
  refine ⟨(s.advance_pc hrep).trans hnext, hdest, fun _ _ _ _ h => exec_jumpOf_untaken hs h, fun m u hf => ?_,
    fun m u hf => ?_⟩
  · obtain ⟨t, ht, hpc, -⟩ := enterAndLink_enters hf false
    obtain ⟨t', ht', hpc', hw'⟩ := enterAndLink_enters hf true
    rw [exec_b, exec_call, hdest]
    refine ⟨⟨t, ht, hpc⟩, fun ha => ⟨t, ?_, hpc⟩, t', ht', hpc', (hw' rfl).trans hnext⟩
    rw [exec_bz, branch_taken d k hs _ (by simp [ha]), hdest, ht]
  · obtain ⟨t, ht, hpc, hw⟩ := enterAndLink_enters hf true
    exact ⟨t, (exec_callr_sound hs a b c 0).trans ht, hpc, (hw rfl).trans hnext⟩

/-! ## Jumps to no instruction (03 R62) -/

/-- A fetch reads no scratchpad but that of the core that fetches. -/
theorem State.fetchAt_spad_core {cid base core off : Nat} (h : s.fetchAt cid base = .to (.spad core off)) :
    core = coreOfCid cid := by
  unfold State.fetchAt at h
  dsimp only at h
  split at h
  case h_1 =>
    injection h with hloc
    injection hloc with hcore
    exact hcore.symm
  case h_2 => cases h
  case h_3 => cases h
  case h_4 =>
    split at h
    case isTrue => cases h
    case isFalse =>
      split at h
      case h_1 => cases h
      case h_2 => cases h
      case h_3 => split at h <;> cases h

/-- A line that may be fetched now and is legal holds no instruction in a slot above its H. -/
theorem State.fetch_slotAboveH {pc : Nat} {bs : List Byte} {l : LineBits} (hline : s.lineAt (pc / 64 * 64) bs)
    (hl : decodeLine bs = some l) (hslot : l.heads.length < pc % 64 / 2) :
    s.fetch s.cur pc = .bad xIllegalLine pc := by
  by_cases hpc : pc % 2 ≠ 0 ∨ pc % 64 = 0
  · exact s.fetch_badSlot hpc
  · have hfrom : lineFrom bs (pc / 64 * 64) = some ⟨pc / 64 * 64, l.heads, l.tails⟩ := by simp [lineFrom, hl]
    have hcore : coreOfCid s.cur = s.here := rfl
    rw [State.fetch, if_neg hpc]
    unfold State.lineAt at hline
    split at hline
    case h_1 => exact hline.elim
    case h_2 => exact hline.elim
    case h_3 core off hat =>
      obtain ⟨hheld, hway, hgood, rfl⟩ := hline
      obtain rfl : core = s.here := State.fetchAt_spad_core hat
      simp [hat, hheld, hcore, hway, Option.isNone_iff_eq_none.1 hgood, hfrom, hslot]
    case h_4 pa hat =>
      obtain ⟨hheld, hway, hgood, rfl⟩ := hline
      simp [hat, hheld, hcore, hway, Option.isNone_iff_eq_none.1 hgood, hfrom, hslot]

theorem enterAndLink_illegalLine {x : Word} (hf : s.fetch s.cur x.toNat = .bad xIllegalLine x.toNat) (link : Bool) :
    enterAndLink s x link = .next (s.takeTrap 0x01 x s.cx.pc) := by
  rw [enterAndLink_bad s hf, toWord_toNat]
  rfl

/-- Settles O55: in each of the three cases the fetch of the target answers X_ILLEGAL_LINE, and nothing of the jump is done. -/
theorem jumpChecks : Obligations.JumpChecks := by
  unfold Obligations.JumpChecks
  intro s a b c hs t hbad
  have hf : s.fetch s.cur t = .bad xIllegalLine t := by
    obtain hodd | hzero | ⟨bs, l, hline, hl, hslot⟩ := hbad
    · exact s.fetch_badSlot (.inl (by omega))
    · exact s.fetch_badSlot (.inr hzero)
    · exact State.fetch_slotAboveH hline hl hslot
  exact ⟨(exec_jr_sound hs a b c 0).trans (enterAndLink_illegalLine hf false),
    (exec_callr_sound hs a b c 0).trans (enterAndLink_illegalLine hf true)⟩

end Sys2Proof.Machine

/-! PROOFS. Division (06 R124) and the pair minors (06 R125). The model's quotients and remainders of a divisor other than 0 are the library's operations on words; an instruction that reads scalar registers and writes one or two of them completes with its corrected errors counted. -/

namespace Sys2Proof.Machine

/-! ## Quotients and remainders (06 R124) -/

section quotients

variable {x y : Word}

theorem divS_eq_sdiv (hy : y ≠ 0) : divS x y = x.sdiv y := by
  rw [divS, if_neg hy]
  apply BitVec.eq_of_toInt_eq
  rw [BitVec.toInt_ofInt, BitVec.toInt_sdiv]

theorem remS_eq_srem (hy : y ≠ 0) : remS x y = x.srem y := by
  rw [remS, if_neg hy, ← BitVec.toInt_srem, BitVec.ofInt_toInt]

theorem divN_eq_udiv (hy : y ≠ 0) : divN x y = x / y := by
  rw [divN, if_neg hy, BitVec.udiv_def, toWord]

theorem remN_eq_umod (hy : y ≠ 0) : remN x y = x % y := by
  rw [remN, if_neg hy, BitVec.umod_def, toWord]

/-- The dividend is quotient times divisor plus remainder: so it is of the integers, and a word keeps sums and products. In the overflow case too. -/
theorem divS_mul_add_remS (hy : y ≠ 0) : divS x y * y + remS x y = x := by
  have hint := Int.tdiv_mul_add_tmod x.toInt y.toInt
  calc divS x y * y + remS x y
      = BitVec.ofInt 64 (x.toInt.tdiv y.toInt * y.toInt + x.toInt.tmod y.toInt) := by
        rw [divS, remS, if_neg hy, if_neg hy, BitVec.ofInt_add, BitVec.ofInt_mul, BitVec.ofInt_toInt]
    _ = x := by rw [hint, BitVec.ofInt_toInt]

theorem toWord_mul (m n : Nat) : toWord (m * n) = toWord m * toWord n := BitVec.ofNat_mul m n

theorem divN_mul_add_remN (hy : y ≠ 0) : divN x y * y + remN x y = x := by
  calc divN x y * y + remN x y
      = toWord (x.toNat / y.toNat * y.toNat + x.toNat % y.toNat) := by
        rw [divN, remN, if_neg hy, if_neg hy, toWord_add, toWord_mul, toWord_toNat]
    _ = x := by rw [Nat.div_add_mod', toWord_toNat]

/-- Truncation toward zero: outside the overflow case the magnitudes divide. -/
theorem natAbs_toInt_divS (hy : y ≠ 0) (hov : ¬ (x.toInt = -(2 ^ 63) ∧ y.toInt = -1)) :
    (divS x y).toInt.natAbs = x.toInt.natAbs / y.toInt.natAbs := by
  have hfits : x ≠ BitVec.intMin 64 ∨ y ≠ -1#64 := by
    rw [← not_and_or]
    rintro ⟨rfl, rfl⟩
    exact hov (by decide)
  rw [divS_eq_sdiv hy, BitVec.toInt_sdiv_of_ne_or_ne x y hfits, Int.natAbs_tdiv]
  rfl

theorem toInt_remS (hy : y ≠ 0) : (remS x y).toInt = x.toInt.tmod y.toInt := by
  rw [remS_eq_srem hy, BitVec.toInt_srem]

theorem toInt_remS_neg_iff (hy : y ≠ 0) (hr : remS x y ≠ 0) : (remS x y).toInt < 0 ↔ x.toInt < 0 := by
  have hdvd : ¬ y.toInt ∣ x.toInt := by
    intro hd
    refine hr (BitVec.eq_of_toInt_eq ?_)
    rw [toInt_remS hy, Int.tmod_eq_zero_of_dvd hd]
    rfl
  rw [toInt_remS hy, ← Int.sign_eq_neg_one_iff_neg, Int.sign_tmod, if_neg hdvd, Int.sign_eq_neg_one_iff_neg]

theorem natAbs_toInt_remS_lt (hy : y ≠ 0) : (remS x y).toInt.natAbs < y.toInt.natAbs := by
  have hpos : 0 < y.toInt.natAbs := Int.natAbs_pos.2 fun h => hy (BitVec.eq_of_toInt_eq h)
  rw [toInt_remS hy, Int.natAbs_tmod]
  exact Nat.mod_lt _ hpos

theorem toNat_divN (hy : y ≠ 0) : (divN x y).toNat = x.toNat / y.toNat := by
  rw [divN_eq_udiv hy, BitVec.toNat_udiv]

theorem toNat_remN_lt (hy : y ≠ 0) : (remN x y).toNat < y.toNat := by
  have hpos : 0 < y.toNat := Nat.pos_of_ne_zero fun h => hy (BitVec.eq_of_toNat_eq h)
  rw [remN_eq_umod hy, BitVec.toNat_umod]
  exact Nat.mod_lt _ hpos

end quotients

@[simp] theorem divS_zero (x : Word) : divS x 0 = BitVec.allOnes 64 := by
  rw [divS, if_pos rfl]
  exact BitVec.neg_one_eq_allOnes

@[simp] theorem divN_zero (x : Word) : divN x 0 = BitVec.allOnes 64 := by
  rw [divN, if_pos rfl]
  exact BitVec.neg_one_eq_allOnes

@[simp] theorem remS_zero (x : Word) : remS x 0 = x := if_pos rfl

@[simp] theorem remN_zero (x : Word) : remN x 0 = x := if_pos rfl

/-! ## Reading registers, then completing (06 R118) -/

/-- An instruction that reads sound registers and completes has the corrected errors of its reads counted on its own core. -/
theorem reading_done {s : State} {rs : List (BitVec 4)} {k : State → State} (h : s.regBad rs = none)
    (hcur : (k s).cur = s.cur) (hinstrs : (k s).cx.instrs = s.cx.instrs) :
    reading rs s (fun s => done (k s)) = .next ((k s).advance.addCerrOn s.here (s.softRegs rs)) :=
  (reading_ok s h _).trans (counting_done s hcur hinstrs)

theorem alu2_completes {s : State} (f : Word → Word → Word) (a : BitVec 4) {b c : BitVec 4} (h : s.regBad [b, c] = none) :
    alu2 f a b c s =
      .next ((s.setW a (f (s.w b) (s.w c))).advance.addCerrOn s.here (s.softRegs [b, c])) :=
  reading_done h rfl rfl

section divisions

variable (a b c : BitVec 4) (imm : BitVec 6) (s : State)

theorem exec_div : exec (.div a b c imm) s = alu2 divS a b c s := by rfl

theorem exec_divN : exec (.divN a b c imm) s = alu2 divN a b c s := by rfl

theorem exec_rem : exec (.rem a b c imm) s = alu2 remS a b c s := by rfl

theorem exec_remN : exec (.remN a b c imm) s = alu2 remN a b c s := by rfl

end divisions

/-- Settles O57: the four instructions complete as their form does; quotients and remainders are read as integers, where they divide with truncation, and the corners are evaluated. -/
theorem divisionRule : Obligations.DivisionRule := by
  unfold Obligations.DivisionRule
  intro s a b c x y
  refine ⟨fun h => ?_, fun hy hov => ?_, fun hy => ?_, divS_zero x, divN_zero x, remS_zero x, remN_zero x,
    by decide, by decide⟩
  · exact ⟨(exec_div a b c 0 s).trans (alu2_completes divS a h), (exec_rem a b c 0 s).trans (alu2_completes remS a h),
      (exec_divN a b c 0 s).trans (alu2_completes divN a h), (exec_remN a b c 0 s).trans (alu2_completes remN a h)⟩
  · exact ⟨natAbs_toInt_divS hy hov, (divS_mul_add_remS hy).symm, toInt_remS_neg_iff hy, natAbs_toInt_remS_lt hy⟩
  · exact ⟨toNat_divN hy, (divN_mul_add_remN hy).symm, toNat_remN_lt hy⟩

/-! ## Register pairs (03 R69) -/

theorem pairHi_ne (a : BitVec 4) : pairHi a ≠ a := by
  intro h
  rw [pairHi] at h
  bv_omega

theorem State.wPair_eq (s : State) (b : BitVec 4) :
    s.wPair b = (s.w b).toNat + 2 ^ 64 * (s.w (pairHi b)).toNat := by
  rw [State.wPair, Nat.add_comm, Nat.mul_comm]

@[simp] theorem State.w_setPair_lo (s : State) (a : BitVec 4) (n : Nat) : (s.setPair a n).w a = toWord n :=
  ((s.setW a (toWord n)).w_setW_ne _ (pairHi_ne a)).trans (s.w_setW_self a _)

@[simp] theorem State.w_setPair_hi (s : State) (a : BitVec 4) (n : Nat) :
    (s.setPair a n).w (pairHi a) = toWord (n / 2 ^ 64) :=
  (s.setW a (toWord n)).w_setW_self (pairHi a) _

theorem aluPair_completes {s : State} (f : Nat → Nat → Nat) (a : BitVec 4) {b c : BitVec 4}
    (h : s.regBad [b, pairHi b, c, pairHi c] = none) :
    aluPair f a b c s = .next ((s.setPair a (f (s.wPair b) (s.wPair c) % 2 ^ 128)).advance.addCerrOn s.here
      (s.softRegs [b, pairHi b, c, pairHi c])) :=
  reading_done h rfl rfl

/-! ## The pair minors (06 R125) -/

section pairs

variable (a b c : BitVec 4) (imm : BitVec 6) (s : State)

theorem exec_addw : exec (.addw a b c imm) s =
    checked (.addw a b c imm) s (aluPair (fun x y => x + y) a b c s) := by rfl

theorem exec_subw : exec (.subw a b c imm) s =
    checked (.subw a b c imm) s (aluPair (fun x y => x + 2 ^ 128 - y) a b c s) := by rfl

theorem exec_mulw : exec (.mulw a b c imm) s =
    checked (.mulw a b c imm) s (reading [b, c] s fun s => done (s.setPair a ((s.w b).toNat * (s.w c).toNat))) := by rfl

theorem decodeCause_addw : decodeCause s (.addw a b c imm) = opIf (odd a || odd b || odd c) := by rfl

theorem decodeCause_subw : decodeCause s (.subw a b c imm) = opIf (odd a || odd b || odd c) := by rfl

theorem decodeCause_mulw : decodeCause s (.mulw a b c imm) = opIf (odd a) := by rfl

end pairs

theorem checked_opIf_false {s : State} {i : Instr} {bad : Bool} (h : decodeCause s i = opIf bad) (hbad : bad = false)
    (k : Out) : checked i s k = k :=
  checked_ok s (by rw [h, hbad]; rfl) k

theorem checked_opIf_true {s : State} {i : Instr} {bad : Bool} (h : decodeCause s i = opIf bad) (hbad : bad = true)
    (k : Out) : checked i s k = .next (s.takeTrap xOperand (s.asWritten (encWord i)) s.cx.pc) :=
  checked_trap s (by rw [h, hbad]; rfl) (by decide) k

/-! ## The signed high word (06 R123) -/

/-- 1 where a word is negative as a signed number, else 0. -/
def signOf (x : Word) : Int := if x.toInt < 0 then 1 else 0

theorem toInt_eq_toNat_sub_signOf (x : Word) : x.toInt = x.toNat - signOf x * 2 ^ 64 := by
  have hx := x.isLt
  rw [signOf, BitVec.toInt_eq_toNat_cond]
  split <;> split <;> omega

theorem ofInt_signOf_mul (x y : Word) :
    BitVec.ofInt 64 (signOf x * y.toNat) = if x.toInt < 0 then y else 0 := by
  rw [signOf]
  split
  · rw [one_mul, BitVec.ofInt_natCast, ← toWord, toWord_toNat]
  · rw [zero_mul]
    rfl

/-- Each factor is its natural value, less 2^64 where it is negative. The natural product is corrected by a multiple of 2^64, so the correction divides exactly; where both are negative it also holds 2^64 once more, which a word drops. -/
theorem mulHigh_eq (x y : Word) : mulHigh x y =
    toWord (x.toNat * y.toNat / 2 ^ 64) - (if x.toInt < 0 then y else 0) - (if y.toInt < 0 then x else 0) := by
  have hprod : x.toInt * y.toInt = (x.toNat * y.toNat : Nat) +
      (-(signOf x * y.toNat) + -(signOf y * x.toNat) + signOf x * signOf y * 2 ^ 64) * 2 ^ 64 := by
    rw [toInt_eq_toNat_sub_signOf x, toInt_eq_toNat_sub_signOf y]
    push_cast
    ring
  have hwrap : BitVec.ofInt 64 (2 ^ 64) = 0 := by decide
  have hnat : BitVec.ofInt 64 ((x.toNat * y.toNat : Nat) / 2 ^ 64) = toWord (x.toNat * y.toNat / 2 ^ 64) :=
    BitVec.ofInt_natCast 64 _
  rw [mulHigh, hprod, Int.add_mul_ediv_right _ _ (by decide)]
  simp only [BitVec.ofInt_add, BitVec.ofInt_neg, BitVec.ofInt_mul _ (2 ^ 64), ofInt_signOf_mul, hwrap, hnat, mul_zero,
    add_zero]
  rw [← add_assoc, ← sub_eq_add_neg, ← sub_eq_add_neg]

/-- Settles O58: with even fields the check passes and the form completes, with an odd one the check is X_OPERAND; the pair's two words are read back from its two writes. -/
theorem pairRule : Obligations.PairRule := by
  unfold Obligations.PairRule
  intro s a b c x y ends all
  refine ⟨fun ha hb hc hall => ?_, fun ha hbc => ?_, fun hodd => ?_, fun ha => ?_, fun _ => s.wPair_eq b,
    fun n _ _ => ⟨s.w_setPair_lo a n, s.w_setPair_hi a n⟩, mulHigh_eq x y⟩
  · have heven : (odd a || odd b || odd c) = false := by rw [ha, hb, hc]; rfl
    rw [exec_addw, exec_subw, checked_opIf_false (decodeCause_addw a b c 0 s) heven,
      checked_opIf_false (decodeCause_subw a b c 0 s) heven]
    exact ⟨aluPair_completes _ a hall, aluPair_completes _ a hall⟩
  · rw [exec_mulw, checked_opIf_false (decodeCause_mulw a b c 0 s) ha]
    exact reading_done hbc rfl rfl
  · have hbad : (odd a || odd b || odd c) = true := by simpa [or_assoc] using hodd
    rw [exec_addw, exec_subw]
    exact ⟨checked_opIf_true (decodeCause_addw a b c 0 s) hbad _, checked_opIf_true (decodeCause_subw a b c 0 s) hbad _⟩
  · rw [exec_mulw]
    exact checked_opIf_true (decodeCause_mulw a b c 0 s) ha _

end Sys2Proof.Machine

/-! PROOFS. The capability list (29 R415 to R417). An S-form pair that the encoder writes is read back field by field; CAPB is a constant that no write moves; CAPR completes as an instruction that reads one register. -/

namespace Sys2Proof

/-! ## Reading an S-form pair back (03 R55) -/

theorem fieldOf_of_split {n w hi lo low : Nat} {v : BitVec n} (hw : w = (hi * 2 ^ n + v.toNat) * 2 ^ lo + low)
    (hlow : low < 2 ^ lo) : fieldOf n w lo = v := by
  rw [fieldOf, Machine.bitsOf_of_split hw v.isLt hlow, BitVec.ofNat_toNat, BitVec.setWidth_eq]

section fields

variable (a b c : BitVec 4) (imm : BitVec 6) {maj minor tl : Nat}

theorem bitsOf_headOf_major (hmaj : maj < 64) (htl : tl < 4) : bitsOf (headOf a b maj tl) 2 6 = maj := by
  refine Machine.bitsOf_of_split (hi := a.toNat * 16 + b.toNat) (low := tl) ?_ hmaj htl
  rw [headOf]
  omega

/-- The five fields that the S form takes from a head and a tail are those the encoder put there. -/
theorem formS_encS (f : Nat → BitVec 4 → BitVec 4 → BitVec 4 → BitVec 6 → Option Instr) (hmaj : maj < 64)
    (hminor : minor < 64) : formS f (encS maj minor a b c imm).1 (encS maj minor a b c imm).2 = f minor a b c imm := by
  have hb := b.isLt
  have hc := c.isLt
  have himm := imm.isLt
  have htail : headOf a b maj 1 % 4 = 1 := by rw [headOf]; omega
  have hfieldA : fieldOf 4 (headOf a b maj 1) 12 = a :=
    fieldOf_of_split (hi := 0) (low := b.toNat * 256 + maj * 4 + 1) (by rw [headOf]; omega) (by omega)
  have hfieldB : fieldOf 4 (headOf a b maj 1) 8 = b :=
    fieldOf_of_split (hi := a.toNat) (low := maj * 4 + 1) (by rw [headOf]; omega) (by omega)
  have hfieldMinor : bitsOf (minor * 1024 + c.toNat * 64 + imm.toNat) 10 6 = minor :=
    Machine.bitsOf_of_split (hi := 0) (low := c.toNat * 64 + imm.toNat) (by omega) hminor (by omega)
  have hfieldC : fieldOf 4 (minor * 1024 + c.toNat * 64 + imm.toNat) 6 = c :=
    fieldOf_of_split (hi := minor) (low := imm.toNat) (by omega) himm
  have hfieldImm : fieldOf 6 (minor * 1024 + c.toNat * 64 + imm.toNat) 0 = imm :=
    fieldOf_of_split (hi := minor * 16 + c.toNat) (low := 0) (by omega) (by decide)
  simp only [formS, encS, if_pos htail, hfieldA, hfieldB, hfieldMinor, hfieldC, hfieldImm]

/-- Major 0x3F is the system family. -/
theorem decodeRaw_encS_sys (hminor : minor < 64) :
    decodeRaw (encS 0x3F minor a b c imm).1 (encS 0x3F minor a b c imm).2 = decSys minor a b c imm := by
  have hmajor : bitsOf (encS 0x3F minor a b c imm).1 2 6 = 0x3F := bitsOf_headOf_major a b (by decide) (by decide)
  rw [decodeRaw, hmajor]
  exact formS_encS a b c imm decSys (by decide) hminor

/-- The pair of CAPR is an instruction where its immediate is 0 only. -/
theorem decode_encS_capr : decode (encS 0x3F 5 a b c imm).1 (encS 0x3F 5 a b c imm).2 =
    if imm = 0 then some (.capr a b c imm) else none := by
  have hraw : decodeRaw (encS 0x3F 5 a b c imm).1 (encS 0x3F 5 a b c imm).2 = some (.capr a b c imm) :=
    decodeRaw_encS_sys a b c imm (by decide)
  have hwf : wellFormed (.capr a b c imm) = (imm == 0) := rfl
  simp only [decode, hraw, hwf, beq_iff_eq]

/-- The pair as R417 writes it. -/
theorem encS_capr : encS 0x3F 5 a b c imm =
    (a.toNat * 4096 + b.toNat * 256 + 0xFD, 0x1400 + c.toNat * 64 + imm.toNat) := rfl

theorem decode_capr_zero :
    decode (a.toNat * 4096 + b.toNat * 256 + 0xFD) (0x1400 + c.toNat * 64) = some (.capr a b c 0) :=
  decode_encS_capr a b c 0

theorem decode_capr_nonzero {x : Nat} (hpos : 0 < x) (hx : x < 64) :
    decode (a.toNat * 4096 + b.toNat * 256 + 0xFD) (0x1400 + c.toNat * 64 + x) = none := by
  have hnat : (BitVec.ofNat 6 x).toNat = x := (BitVec.toNat_ofNat x 6).trans (Nat.mod_eq_of_lt hx)
  have hne : BitVec.ofNat 6 x ≠ 0 := fun h => hpos.ne' (hnat.symm.trans (congrArg BitVec.toNat h))
  have hdec := decode_encS_capr a b c (BitVec.ofNat 6 x)
  rwa [if_neg hne, encS_capr, hnat] at hdec

end fields

end Sys2Proof

namespace Sys2Proof.Machine

/-! ## CAPB (29 R415) -/

@[simp] theorem State.readCr_capb (s : State) : s.readCr 0x0F1 = 0x000018000001000A := by rfl

@[simp] theorem State.writeCr_capb (s : State) (new : Word) : s.writeCr 0x0F1 new = .ok s := by rfl

/-! ## The list and CAPR (29 R416, R417) -/

theorem capEntry_beyond {i : Nat} (h : 10 ≤ i) : capEntry i = 0 := by
  have hnone : capSizes[i]? = none := List.getElem?_eq_none h
  rw [capEntry, hnone]

section capr

variable {s : State} (a : BitVec 4) {b : BitVec 4} (c : BitVec 4) (imm : BitVec 6)

theorem exec_capr : exec (.capr a b c imm) s =
    reading [b] s fun s => done (s.setW a (toWord (capEntry (s.w b).toNat))) := by rfl

theorem exec_capr_completes (h : s.regBad [b] = none) : exec (.capr a b c imm) s =
    .next ((s.setW a (toWord (capEntry (s.w b).toNat))).advance.addCerrOn s.here (s.softRegs [b])) := by
  rw [exec_capr]
  exact reading_done h rfl rfl

theorem exec_capr_ecc {x : Nat} (h : s.regBad [b] = some x) :
    exec (.capr a b c imm) s = .next (s.takeTrap xEcc (toWord x) s.cx.pc) := by
  rw [exec_capr]
  exact reading_trap s h _

end capr

/-- Settles O59: CAPB is a constant and the ten entries are evaluated; the pair of CAPR is decoded for every immediate, and its one register read decides between completion and X_ECC. -/
theorem capabilities : Obligations.Capabilities := by
  unfold Obligations.Capabilities
  intro s a b c new r
  have hr : r = 0x000018000001000A := congrArg BitVec.toNat s.readCr_capb
  refine ⟨?_, by decide, fun i => capEntry_beyond, decode_capr_zero a b c, fun x => decode_capr_nonzero a b c,
    exec_capr_completes a c 0, fun x => exec_capr_ecc a c 0⟩
  rw [hr]
  exact ⟨by decide, by decide, by decide, s.writeCr_capb new⟩

end Sys2Proof.Machine

/-! PROOFS. The encoding round trips (03 R55, R75). Each form's fields are read back from the numbers the encoder writes, and each word is the sum of the fields read from it; the opcode map sends a major to one form and one family of minors, which the encoder inverts. -/

namespace Sys2Proof

/-! ## The families of each form, by major (03 R75) -/

/-- The families whose tails have the S form. -/
noncomputable def decodeS (maj : Nat) : Nat → BitVec 4 → BitVec 4 → BitVec 4 → BitVec 6 → Option Instr :=
  match maj with
  | 0x01 => decAlu | 0x06 => decCtx | 0x07 => decSel | 0x0F => decJump | 0x1A => decLdx | 0x1B => decStx
  | 0x20 => decAmo | 0x21 => decFence | 0x23 => decRed | 0x25 => decPort | 0x28 => decCodelet | 0x29 => decRing
  | 0x2A => decQctl | 0x2C => decBar | 0x2D => decLocks | 0x2E => decEstate | 0x2F => decCopy | 0x3B => decKernel
  | 0x3C => decRow | 0x3D => decLearn | 0x3E => decLink | 0x3F => decSys
  | _ => fun _ _ _ _ _ => none

/-- The families whose tails have the M form. -/
def decodeM (maj : Nat) : Nat → BitVec 4 → BitVec 4 → BitVec 4 → BitVec 22 → Option Instr :=
  match maj with
  | 0x02 => decAlui | 0x05 => decCr | 0x18 => decLd | 0x19 => decSt | 0x24 => decFe | 0x37 => decRep
  | _ => fun _ _ _ _ _ => none

/-- The families whose tails have the V form. -/
def decodeV (maj : Nat) :
    Nat → BitVec 4 → BitVec 4 → BitVec 5 → BitVec 5 → BitVec 5 → BitVec 3 → BitVec 8 → Option Instr :=
  match maj with
  | 0x30 => decVint | 0x31 => decVfp | 0x32 => decVcmp | 0x33 => decVcvt | 0x34 => decVmem | 0x35 => decVperm
  | 0x36 => decVscan | 0x38 => decMma | 0x39 => decTile
  | _ => fun _ _ _ _ _ _ _ _ => none

/-- The branches. -/
def decodeB (maj : Nat) : Option (BitVec 4 → BitVec 4 → BitVec 27 → BitVec 5 → Instr) :=
  match maj with
  | 0x10 => some .b | 0x11 => some .call | 0x12 => some .bz | 0x13 => some .bnz | 0x14 => some .blt | 0x15 => some .bge
  | 0x16 => some .bltN | 0x17 => some .bgeN
  | _ => none

section

variable {hd tl maj minor : Nat} {a b c : BitVec 4} {i : Instr}

theorem decodeRaw_formS (hmaj : bitsOf hd 2 6 = maj) {imm : BitVec 6} (h : decodeS maj minor a b c imm = some i) :
    decodeRaw hd tl = formS (decodeS maj) hd tl := by
  unfold decodeS at h
  split at h
  case h_23 => cases h
  all_goals
    rw [decodeRaw, decodeNear, hmaj]
    rfl

theorem decodeRaw_formM (hmaj : bitsOf hd 2 6 = maj) {imm : BitVec 22} (h : decodeM maj minor a b c imm = some i) :
    decodeRaw hd tl = formM (decodeM maj) hd tl := by
  unfold decodeM at h
  split at h
  case h_7 => cases h
  all_goals
    rw [decodeRaw, decodeNear, hmaj]
    rfl

theorem decodeRaw_formV (hmaj : bitsOf hd 2 6 = maj) {vd va vb : BitVec 5} {k : BitVec 3} {md : BitVec 8}
    (h : decodeV maj minor a b vd va vb k md = some i) : decodeRaw hd tl = formV (decodeV maj) hd tl := by
  unfold decodeV at h
  split at h
  case h_10 => cases h
  all_goals
    rw [decodeRaw, decodeNear, hmaj]
    rfl

theorem decodeRaw_formL (hmaj : bitsOf hd 2 6 = 0x03) : decodeRaw hd tl = formL decLi hd tl := by
  rw [decodeRaw, decodeNear, hmaj]
  rfl

theorem decodeRaw_formB (hmaj : bitsOf hd 2 6 = maj) {f : BitVec 4 → BitVec 4 → BitVec 27 → BitVec 5 → Instr}
    (h : decodeB maj = some f) : decodeRaw hd tl = formB f hd tl := by
  unfold decodeB at h
  split at h
  case h_9 => cases h
  all_goals
    cases h
    rw [decodeRaw, decodeNear, hmaj]
    rfl

end

/-! ## Fields read back from what the encoder writes (03 R55) -/

section

variable (a b c : BitVec 4) {maj minor : Nat}

theorem headOf_mod_four {n : Nat} (hn : n < 4) : headOf a b maj n % 4 = n := by
  rw [headOf]
  omega

theorem fieldOf_headOf_a {n : Nat} (hmaj : maj < 64) (hn : n < 4) : fieldOf 4 (headOf a b maj n) 12 = a :=
  fieldOf_of_split (hi := 0) (low := b.toNat * 256 + maj * 4 + n) (by rw [headOf]; omega) (by omega)

theorem fieldOf_headOf_b {n : Nat} (hmaj : maj < 64) (hn : n < 4) : fieldOf 4 (headOf a b maj n) 8 = b :=
  fieldOf_of_split (hi := a.toNat) (low := maj * 4 + n) (by rw [headOf]; omega) (by omega)

theorem formM_encM (f : Nat → BitVec 4 → BitVec 4 → BitVec 4 → BitVec 22 → Option Instr) (imm : BitVec 22)
    (hmaj : maj < 64) (hminor : minor < 64) :
    formM f (encM maj minor a b c imm).1 (encM maj minor a b c imm).2 = f minor a b c imm := by
  have hc := c.isLt
  have himm := imm.isLt
  have hfieldMinor : bitsOf (encM maj minor a b c imm).2 26 6 = minor :=
    Machine.bitsOf_of_split (hi := 0) (low := c.toNat * 4194304 + imm.toNat) (by rw [encM]; omega) hminor (by omega)
  have hfieldC : fieldOf 4 (encM maj minor a b c imm).2 22 = c :=
    fieldOf_of_split (hi := minor) (low := imm.toNat) (by rw [encM]; omega) himm
  have hfieldImm : fieldOf 22 (encM maj minor a b c imm).2 0 = imm :=
    fieldOf_of_split (hi := minor * 16 + c.toNat) (low := 0) (by rw [encM]; omega) (by decide)
  have hhead : (encM maj minor a b c imm).1 = headOf a b maj 2 := rfl
  rw [formM, hhead, if_pos (headOf_mod_four a b (by decide)), fieldOf_headOf_a a b hmaj (by decide),
    fieldOf_headOf_b a b hmaj (by decide), hfieldMinor, hfieldC, hfieldImm]

theorem formL_encL (f : Nat → BitVec 4 → BitVec 4 → BitVec 4 → BitVec 32 → Option Instr) (imm : BitVec 32)
    (hmaj : maj < 64) (hminor : minor < 64) :
    formL f (encL maj minor a b c imm).1 (encL maj minor a b c imm).2 = f minor a b c imm := by
  have hc := c.isLt
  have himm := imm.isLt
  have hfieldMinor : bitsOf (encL maj minor a b c imm).2 42 6 = minor :=
    Machine.bitsOf_of_split (hi := 0) (low := c.toNat * 274877906944 + imm.toNat) (by rw [encL]; omega) hminor (by omega)
  have hfieldC : fieldOf 4 (encL maj minor a b c imm).2 38 = c :=
    fieldOf_of_split (hi := minor) (low := imm.toNat) (by rw [encL]; omega) (by omega)
  have hzero : bitsOf (encL maj minor a b c imm).2 32 6 = 0 :=
    Machine.bitsOf_of_split (hi := minor * 16 + c.toNat) (low := imm.toNat) (by rw [encL]; omega) (by decide) himm
  have hfieldImm : fieldOf 32 (encL maj minor a b c imm).2 0 = imm :=
    fieldOf_of_split (hi := (minor * 16 + c.toNat) * 64) (low := 0) (by rw [encL]; omega) (by decide)
  have hhead : (encL maj minor a b c imm).1 = headOf a b maj 3 := rfl
  rw [formL, hhead, if_pos ⟨headOf_mod_four a b (by decide), hzero⟩, fieldOf_headOf_a a b hmaj (by decide),
    fieldOf_headOf_b a b hmaj (by decide), hfieldMinor, hfieldC, hfieldImm]

theorem formV_encV
    (f : Nat → BitVec 4 → BitVec 4 → BitVec 5 → BitVec 5 → BitVec 5 → BitVec 3 → BitVec 8 → Option Instr)
    (vd va vb : BitVec 5) (k : BitVec 3) (md : BitVec 8) (hmaj : maj < 64) (hminor : minor < 64) :
    formV f (encV maj minor a b vd va vb k md).1 (encV maj minor a b vd va vb k md).2 = f minor a b vd va vb k md := by
  have hvd := vd.isLt
  have hva := va.isLt
  have hvb := vb.isLt
  have hk := k.isLt
  have hmd := md.isLt
  rw [encV]
  obtain ⟨t, ht⟩ : ∃ t, t = minor * 67108864 + vd.toNat * 2097152 + va.toNat * 65536 + vb.toNat * 2048 + k.toNat * 256 +
    md.toNat := ⟨_, rfl⟩
  have hfieldMinor : bitsOf t 26 6 = minor := Machine.bitsOf_of_split (hi := 0)
    (low := vd.toNat * 2097152 + va.toNat * 65536 + vb.toNat * 2048 + k.toNat * 256 + md.toNat) (by rw [ht]; omega) hminor (by omega)
  have hfieldVd : fieldOf 5 t 21 = vd := fieldOf_of_split (hi := minor)
    (low := va.toNat * 65536 + vb.toNat * 2048 + k.toNat * 256 + md.toNat) (by rw [ht]; omega) (by omega)
  have hfieldVa : fieldOf 5 t 16 = va := fieldOf_of_split (hi := minor * 32 + vd.toNat)
    (low := vb.toNat * 2048 + k.toNat * 256 + md.toNat) (by rw [ht]; omega) (by omega)
  have hfieldVb : fieldOf 5 t 11 = vb := fieldOf_of_split (hi := (minor * 32 + vd.toNat) * 32 + va.toNat)
    (low := k.toNat * 256 + md.toNat) (by rw [ht]; omega) (by omega)
  have hfieldK : fieldOf 3 t 8 = k := fieldOf_of_split
    (hi := ((minor * 32 + vd.toNat) * 32 + va.toNat) * 32 + vb.toNat) (low := md.toNat) (by rw [ht]; omega) (by omega)
  have hfieldMd : fieldOf 8 t 0 = md := fieldOf_of_split
    (hi := (((minor * 32 + vd.toNat) * 32 + va.toNat) * 32 + vb.toNat) * 8 + k.toNat) (low := 0) (by rw [ht]; omega) (by decide)
  rw [← ht, formV, if_pos (headOf_mod_four a b (by decide)), fieldOf_headOf_a a b hmaj (by decide),
    fieldOf_headOf_b a b hmaj (by decide), hfieldMinor, hfieldVd, hfieldVa, hfieldVb, hfieldK, hfieldMd]

theorem formB_encB (f : BitVec 4 → BitVec 4 → BitVec 27 → BitVec 5 → Instr) (disp : BitVec 27) (slot : BitVec 5)
    (hmaj : maj < 64) : formB f (encB maj a b disp slot).1 (encB maj a b disp slot).2 = some (f a b disp slot) := by
  have hslot := slot.isLt
  have hfieldDisp : fieldOf 27 (encB maj a b disp slot).2 5 = disp :=
    fieldOf_of_split (hi := 0) (low := slot.toNat) (by rw [encB]; omega) (by omega)
  have hfieldSlot : fieldOf 5 (encB maj a b disp slot).2 0 = slot :=
    fieldOf_of_split (hi := disp.toNat) (low := 0) (by rw [encB]; omega) (by decide)
  have hhead : (encB maj a b disp slot).1 = headOf a b maj 2 := rfl
  rw [formB, hhead, if_pos (headOf_mod_four a b (by decide)), fieldOf_headOf_a a b hmaj (by decide),
    fieldOf_headOf_b a b hmaj (by decide), hfieldDisp, hfieldSlot]

theorem formN_headOf (f : BitVec 4 → BitVec 4 → Instr) (hmaj : maj < 64) : formN f (headOf a b maj 0) = some (f a b) := by
  rw [formN, if_pos (headOf_mod_four a b (by decide)), fieldOf_headOf_a a b hmaj (by decide),
    fieldOf_headOf_b a b hmaj (by decide)]

/-- The tail of WAITC is its four fields. -/
theorem formW_encode (wl ws wc wm : BitVec 4) (hmaj : maj < 64) :
    formW (headOf a b maj 1) (wl.toNat * 4096 + ws.toNat * 256 + wc.toNat * 16 + wm.toNat) = some (.waitc a b wl ws wc wm) := by
  have hws := ws.isLt
  have hwc := wc.isLt
  have hwm := wm.isLt
  obtain ⟨t, ht⟩ : ∃ t, t = wl.toNat * 4096 + ws.toNat * 256 + wc.toNat * 16 + wm.toNat := ⟨_, rfl⟩
  have hfieldWl : fieldOf 4 t 12 = wl :=
    fieldOf_of_split (hi := 0) (low := ws.toNat * 256 + wc.toNat * 16 + wm.toNat) (by rw [ht]; omega) (by omega)
  have hfieldWs : fieldOf 4 t 8 = ws :=
    fieldOf_of_split (hi := wl.toNat) (low := wc.toNat * 16 + wm.toNat) (by rw [ht]; omega) (by omega)
  have hfieldWc : fieldOf 4 t 4 = wc :=
    fieldOf_of_split (hi := wl.toNat * 16 + ws.toNat) (low := wm.toNat) (by rw [ht]; omega) (by omega)
  have hfieldWm : fieldOf 4 t 0 = wm :=
    fieldOf_of_split (hi := (wl.toNat * 16 + ws.toNat) * 16 + wc.toNat) (low := 0) (by rw [ht]; omega) (by decide)
  rw [← ht, formW, if_pos (headOf_mod_four a b (by decide)), fieldOf_headOf_a a b hmaj (by decide),
    fieldOf_headOf_b a b hmaj (by decide), hfieldWl, hfieldWs, hfieldWc, hfieldWm]

end

/-! ## Decoding what is encoded -/

section

variable {h t maj minor : Nat} {a b c : BitVec 4} {i : Instr}

theorem decodeRaw_of_encS {imm : BitVec 6} (he : some (encS maj minor a b c imm) = some (h, t))
    (hi : decodeS maj minor a b c imm = some i) (hmaj : maj < 64) (hminor : minor < 64) : decodeRaw h t = some i := by
  cases he
  rw [decodeRaw_formS (bitsOf_headOf_major a b hmaj (by decide)) hi, ← hi]
  exact formS_encS a b c imm _ hmaj hminor

theorem decodeRaw_of_encM {imm : BitVec 22} (he : some (encM maj minor a b c imm) = some (h, t))
    (hi : decodeM maj minor a b c imm = some i) (hmaj : maj < 64) (hminor : minor < 64) : decodeRaw h t = some i := by
  cases he
  rw [decodeRaw_formM (bitsOf_headOf_major a b hmaj (by decide)) hi, ← hi]
  exact formM_encM a b c _ imm hmaj hminor

theorem decodeRaw_of_encL {imm : BitVec 32} (he : some (encL 0x03 minor a b c imm) = some (h, t))
    (hi : decLi minor a b c imm = some i) (hminor : minor < 64) : decodeRaw h t = some i := by
  cases he
  rw [decodeRaw_formL (bitsOf_headOf_major a b (by decide) (by decide)), ← hi]
  exact formL_encL a b c (maj := 0x03) _ imm (by decide) hminor

theorem decodeRaw_of_encV {vd va vb : BitVec 5} {k : BitVec 3} {md : BitVec 8}
    (he : some (encV maj minor a b vd va vb k md) = some (h, t)) (hi : decodeV maj minor a b vd va vb k md = some i)
    (hmaj : maj < 64) (hminor : minor < 64) : decodeRaw h t = some i := by
  cases he
  rw [decodeRaw_formV (bitsOf_headOf_major a b hmaj (by decide)) hi, ← hi]
  exact formV_encV a b _ vd va vb k md hmaj hminor

theorem decodeRaw_of_encB {f : BitVec 4 → BitVec 4 → BitVec 27 → BitVec 5 → Instr} {disp : BitVec 27} {slot : BitVec 5}
    (he : some (encB maj a b disp slot) = some (h, t)) (hf : decodeB maj = some f) (hmaj : maj < 64) :
    decodeRaw h t = some (f a b disp slot) := by
  cases he
  rw [decodeRaw_formB (bitsOf_headOf_major a b hmaj (by decide)) hf]
  exact formB_encB a b f disp slot hmaj

/-- The instructions of each form decode by their form, those not named here by form S; events and host commands have no encoding. -/
theorem decodeRaw_encode (he : encode i = some (h, t)) : decodeRaw h t = some i := by
  cases i with
  | nop a b | mov a b =>
    cases he
    rw [decodeRaw, decodeNear, bitsOf_headOf_major a b (by decide) (by decide)]
    exact formN_headOf a b _ (by decide)
  | waitc a b wl ws wc wm =>
    cases he
    rw [decodeRaw, decodeNear, bitsOf_headOf_major a b (by decide) (by decide)]
    exact formW_encode a b wl ws wc wm (by decide)
  | li | lih | liz | la => exact decodeRaw_of_encL he rfl (by decide : (_ : Nat) < 64)
  | b | call | bz | bnz | blt | bge | bltN | bgeN => exact decodeRaw_of_encB he rfl (by decide)
  | addi | andi | ori | xori | shli | shri | sari | roli | muli | slti | sltiN | seqi | crr | crw | crs | crc | ldB
  | ldBn | ldH | ldHn | ldW | ldWn | ldD | ldQ | stB | stH | stW | stD | stQ | ldf | ldfe | fill | fillX | empty
  | feq | rep =>
    exact decodeRaw_of_encM he rfl (by decide) (by decide)
  | vadd | vsub | vmul | vmin | vmax | vand | vor | vxor | vshl | vshr | vsar | vadds | vsubs | vabs | vfadd | vfsub
  | vfmul | vfma | vfmin | vfmax | vrcp | vrsq | vexp2 | vlog2 | vfneg | vfabs | vcmpEq | vcmpLt | vcmpLe | vcmpNe
  | vblend | kand | kor | kxor | knot | kpop | vcvt | vpack | vunpk | vrnd | vld | vst | vlds | vsts | vgath | vscat
  | vstk | vldb | vshuf | vbcast | vext | vrot | vins | vscanAdd | vscanMax | vscanLin | vredAdd | vredMax | vcarry
  | mma | mmau | mmas | mmaus | mzero | mlda | msta | mstm | mdrain =>
    exact decodeRaw_of_encV he rfl (by decide) (by decide)
  | qbaseWrite | portbWrite | barrierRegisterWrite | satcntWrite | fadeEtaWrite | bmodeWrite | pctlWrite
  | fprogvAbandon | deferredTrap | resultLands | tileOpTaken | tileOpComplete | pageWalkComplete | withyPass
  | requestPerform | responseArrival | wakeArrival | longWaitExpiry | cpopParkExpiry | bcastRequestArrival
  | bcastAnswerArrival | broadcastReceive | broadcastAccept | sweepWalk | retirementReportArrival | messageArrival
  | ringRefusalRetry | bounceArrival | counterDecrement | stealRound | portDeposit | portAck | barrierArrivalHop
  | barrierReleaseHop | dbarTokenArrival | copyCommandStart | copyCommandComplete | migrationArrival
  | placementUpdate | placementUpdateAck | requestRedirect | memberMoveInstall | groupPlacement | estateWalkStart
  | estateWalkHolding | watchdogCheck | lddAnswer | lddTimeout | remoteStoreTimeout | remoteAccessPerform
  | dataFlitReceive | nackReceive | ackReceive | widthControlReceive | errorWindowEnd | lossOfLight | lockReached
  | wakeTimeout | trainingPass | retrainTimeout | multicastForward | reductionContribution | reductionTimeout
  | relayForward | sourceItem | recorderFreeze | replayInject | grantExpiry | planeDarkEffect | thermalTrip
  | supplyLoss | deviceReset | unsupportedPacket | bulkWrite | bulkRead | image | root | invalidate | routing
  | handle | linkErrt | wavelengthReset | partitionCreate | partitionDestroy | policy | stream | hostLaunch
  | hostKill | save | move | resume | powerCluster | planeLight | planeDarken | powerStack | wavelengthPark
  | wavelengthLight | wavelengthRetrain | powerPort | grantIssue | grantRevoke | timeAdjust | hostProbe | record
  | readout | blackBoxRead | estateRead | quote | powerTransitionComplete => cases he
  | _ => exact decodeRaw_of_encS he rfl (by decide) (by decide)

end

/-- Settles O2: the instruction is read back by its form, and it is well formed by hypothesis. -/
theorem encodeThenDecode : Obligations.EncodeThenDecode := by
  unfold Obligations.EncodeThenDecode
  intro i h t hwf he
  rw [decode, decodeRaw_encode he]
  exact if_pos hwf

/-! ## Encoding what is decoded -/

section

variable {h t maj minor : Nat} {a b c : BitVec 4} {i : Instr}

theorem eq_ofNat_of_toNat {w n : Nat} {x : BitVec w} (hx : x.toNat = n) : x = BitVec.ofNat w n := by
  rw [← hx, BitVec.ofNat_toNat, BitVec.setWidth_eq]

/-- LNKCTL and PROBE name their selector in the immediate; every other minor keeps it. -/
theorem encode_of_decLink {imm : BitVec 6} (hi : decLink minor a b c imm = some i) :
    encode i = some (encS 0x3E minor a b c imm) := by
  unfold decLink at hi
  split at hi
  case h_4 =>
    split at hi
    case h_6 => cases hi
    all_goals
      rename_i himm
      obtain rfl := eq_ofNat_of_toNat himm
      cases hi
      rfl
  case h_10 => cases hi
  all_goals
    cases hi
    rfl

theorem encode_of_decSys {imm : BitVec 6} (hi : decSys minor a b c imm = some i) :
    encode i = some (encS 0x3F minor a b c imm) := by
  unfold decSys at hi
  split at hi
  case h_8 =>
    split at hi
    case h_7 => cases hi
    all_goals
      rename_i himm
      obtain rfl := eq_ofNat_of_toNat himm
      cases hi
      rfl
  case h_10 => cases hi
  all_goals
    cases hi
    rfl

theorem encode_of_decodeS {imm : BitVec 6} (hi : decodeS maj minor a b c imm = some i) :
    encode i = some (encS maj minor a b c imm) := by
  unfold decodeS at hi
  split at hi
  case h_21 => exact encode_of_decLink hi
  case h_22 => exact encode_of_decSys hi
  case h_23 => cases hi
  all_goals
    simp only [decAlu, decCtx, decSel, decJump, decLdx, decStx, decAmo, decFence, decRed, decPort, decCodelet, decRing,
      decQctl, decBar, decLocks, decEstate, decCopy, decKernel, decRow, decLearn] at hi
    split at hi <;> cases hi <;> rfl

theorem encode_of_decodeM {imm : BitVec 22} (hi : decodeM maj minor a b c imm = some i) :
    encode i = some (encM maj minor a b c imm) := by
  unfold decodeM at hi
  split at hi
  case h_7 => cases hi
  all_goals
    simp only [decAlui, decCr, decLd, decSt, decFe, decRep] at hi
    split at hi <;> cases hi <;> rfl

theorem encode_of_decLi {imm : BitVec 32} (hi : decLi minor a b c imm = some i) :
    encode i = some (encL 0x03 minor a b c imm) := by
  unfold decLi at hi
  split at hi <;> cases hi <;> rfl

theorem encode_of_decodeV {vd va vb : BitVec 5} {k : BitVec 3} {md : BitVec 8}
    (hi : decodeV maj minor a b vd va vb k md = some i) : encode i = some (encV maj minor a b vd va vb k md) := by
  unfold decodeV at hi
  split at hi
  case h_10 => cases hi
  all_goals
    simp only [decVint, decVfp, decVcmp, decVcvt, decVmem, decVperm, decVscan, decMma, decTile] at hi
    split at hi <;> cases hi <;> rfl

theorem encode_of_decodeB {f : BitVec 4 → BitVec 4 → BitVec 27 → BitVec 5 → Instr} (hf : decodeB maj = some f)
    (disp : BitVec 27) (slot : BitVec 5) : encode (f a b disp slot) = some (encB maj a b disp slot) := by
  unfold decodeB at hf
  split at hf <;> cases hf <;> rfl

/-! ## A word is the sum of its fields -/

theorem toNat_fieldOf (n x lo : Nat) : (fieldOf n x lo).toNat = bitsOf x lo n := by
  rw [fieldOf, BitVec.toNat_ofNat]
  exact Nat.mod_eq_of_lt (Nat.mod_lt _ (Nat.two_pow_pos n))

/-- A head of 16 bits is the sum of its two registers, its major and its tail's length. -/
theorem headOf_fieldOf (hh : h < 65536) (hmaj : bitsOf h 2 6 = maj) {n : Nat} (hlen : h % 4 = n) :
    headOf (fieldOf 4 h 12) (fieldOf 4 h 8) maj n = h := by
  rw [headOf, toNat_fieldOf, toNat_fieldOf, ← hmaj, ← hlen]
  simp only [bitsOf]
  omega

theorem encode_of_formS (hh : h < 65536) (ht : t < 65536 ^ (h % 4)) (hmaj : bitsOf h 2 6 = maj)
    (hi : formS (decodeS maj) h t = some i) : encode i = some (h, t) := by
  rw [formS] at hi
  split at hi
  case isFalse => cases hi
  case isTrue hlen =>
    rw [hlen] at ht
    have hhead := headOf_fieldOf hh hmaj hlen
    have htail : bitsOf t 10 6 * 1024 + bitsOf t 6 4 * 64 + bitsOf t 0 6 = t := by simp only [bitsOf]; omega
    rw [encode_of_decodeS hi, encS, hhead, toNat_fieldOf, toNat_fieldOf, htail]

theorem encode_of_formM (hh : h < 65536) (ht : t < 65536 ^ (h % 4)) (hmaj : bitsOf h 2 6 = maj)
    (hi : formM (decodeM maj) h t = some i) : encode i = some (h, t) := by
  rw [formM] at hi
  split at hi
  case isFalse => cases hi
  case isTrue hlen =>
    rw [hlen] at ht
    have hhead := headOf_fieldOf hh hmaj hlen
    have htail : bitsOf t 26 6 * 67108864 + bitsOf t 22 4 * 4194304 + bitsOf t 0 22 = t := by simp only [bitsOf]; omega
    rw [encode_of_decodeM hi, encM, hhead, toNat_fieldOf, toNat_fieldOf, htail]

theorem encode_of_formL (hh : h < 65536) (ht : t < 65536 ^ (h % 4)) (hmaj : bitsOf h 2 6 = 0x03)
    (hi : formL decLi h t = some i) : encode i = some (h, t) := by
  rw [formL] at hi
  split at hi
  case isFalse => cases hi
  case isTrue hpair =>
    obtain ⟨hlen, hzero⟩ := hpair
    rw [hlen] at ht
    have hhead := headOf_fieldOf hh hmaj hlen
    have htail : bitsOf t 42 6 * 4398046511104 + bitsOf t 38 4 * 274877906944 + bitsOf t 0 32 = t := by
      simp only [bitsOf] at hzero ⊢
      omega
    rw [encode_of_decLi hi, encL, hhead, toNat_fieldOf, toNat_fieldOf, htail]

theorem encode_of_formV (hh : h < 65536) (ht : t < 65536 ^ (h % 4)) (hmaj : bitsOf h 2 6 = maj)
    (hi : formV (decodeV maj) h t = some i) : encode i = some (h, t) := by
  rw [formV] at hi
  split at hi
  case isFalse => cases hi
  case isTrue hlen =>
    rw [hlen] at ht
    have hhead := headOf_fieldOf hh hmaj hlen
    have htail : bitsOf t 26 6 * 67108864 + bitsOf t 21 5 * 2097152 + bitsOf t 16 5 * 65536 + bitsOf t 11 5 * 2048 +
        bitsOf t 8 3 * 256 + bitsOf t 0 8 = t := by simp only [bitsOf]; omega
    rw [encode_of_decodeV hi, encV, hhead]
    simp only [toNat_fieldOf, htail]

theorem encode_of_formB {f : BitVec 4 → BitVec 4 → BitVec 27 → BitVec 5 → Instr} (hh : h < 65536)
    (ht : t < 65536 ^ (h % 4)) (hmaj : bitsOf h 2 6 = maj) (hf : decodeB maj = some f) (hi : formB f h t = some i) :
    encode i = some (h, t) := by
  rw [formB] at hi
  split at hi
  case isFalse => cases hi
  case isTrue hlen =>
    cases hi
    rw [hlen] at ht
    have hhead := headOf_fieldOf hh hmaj hlen
    have htail : bitsOf t 5 27 * 32 + bitsOf t 0 5 = t := by simp only [bitsOf]; omega
    rw [encode_of_decodeB hf, encB, hhead, toNat_fieldOf, toNat_fieldOf, htail]

theorem encode_of_formW (hh : h < 65536) (ht : t < 65536 ^ (h % 4)) (hmaj : bitsOf h 2 6 = 0x22)
    (hi : formW h t = some i) : encode i = some (h, t) := by
  rw [formW] at hi
  split at hi
  case isFalse => cases hi
  case isTrue hlen =>
    cases hi
    rw [hlen] at ht
    have hhead := headOf_fieldOf hh hmaj hlen
    have htail : bitsOf t 12 4 * 4096 + bitsOf t 8 4 * 256 + bitsOf t 4 4 * 16 + bitsOf t 0 4 = t := by
      simp only [bitsOf]
      omega
    rw [encode, hhead]
    simp only [toNat_fieldOf, htail]

/-- A head without a tail leaves no bit for one. -/
theorem encode_of_formN {f : BitVec 4 → BitVec 4 → Instr} (hh : h < 65536) (ht : t < 65536 ^ (h % 4))
    (hmaj : bitsOf h 2 6 = maj) (hf : ∀ a b, encode (f a b) = some (headOf a b maj 0, 0)) (hi : formN f h = some i) :
    encode i = some (h, t) := by
  rw [formN] at hi
  split at hi
  case isFalse => cases hi
  case isTrue hlen =>
    cases hi
    rw [hlen, Nat.pow_zero, Nat.lt_one_iff] at ht
    have hhead := headOf_fieldOf hh hmaj hlen
    rw [hf, hhead, ht]

/-- Each major reads one form, whose fields the encoder puts back. -/
theorem encode_of_decodeRaw (hh : h < 65536) (ht : t < 65536 ^ (h % 4)) (hi : decodeRaw h t = some i) :
    encode i = some (h, t) := by
  rw [decodeRaw, decodeNear] at hi
  split at hi
  case h_1 hmaj | h_2 hmaj => exact encode_of_formS hh ht hmaj hi
  case h_3 =>
    split at hi
    case h_1 hmaj | h_5 hmaj => exact encode_of_formN hh ht hmaj (fun _ _ => rfl) hi
    case h_4 hmaj => exact encode_of_formL hh ht hmaj hi
    case h_24 hmaj => exact encode_of_formW hh ht hmaj hi
    case h_10 hmaj | h_11 hmaj | h_12 hmaj | h_13 hmaj | h_14 hmaj | h_15 hmaj | h_16 hmaj | h_17 hmaj =>
      exact encode_of_formB hh ht hmaj rfl hi
    case h_3 hmaj | h_6 hmaj | h_18 hmaj | h_19 hmaj | h_26 hmaj | h_42 hmaj => exact encode_of_formM hh ht hmaj hi
    case h_35 hmaj | h_36 hmaj | h_37 hmaj | h_38 hmaj | h_39 hmaj | h_40 hmaj | h_41 hmaj | h_43 hmaj | h_44 hmaj =>
      exact encode_of_formV hh ht hmaj hi
    case h_48 => cases hi
    case h_2 hmaj | h_7 hmaj | h_8 hmaj | h_9 hmaj | h_20 hmaj | h_21 hmaj | h_22 hmaj | h_23 hmaj | h_25 hmaj | h_27 hmaj
      | h_28 hmaj | h_29 hmaj | h_30 hmaj | h_31 hmaj | h_32 hmaj | h_33 hmaj | h_34 hmaj | h_45 hmaj | h_46 hmaj
      | h_47 hmaj =>
      exact encode_of_formS hh ht hmaj hi

end

/-- Settles O3: what the decoder accepts is well formed by its own check, and the encoder inverts the opcode map. -/
theorem decodeThenEncode : Obligations.DecodeThenEncode := by
  unfold Obligations.DecodeThenEncode
  intro i h t hh ht hi
  rw [decode] at hi
  split at hi
  case h_1 j hraw =>
    split at hi
    case isTrue hwf =>
      cases hi
      exact ⟨hwf, encode_of_decodeRaw hh ht hraw⟩
    case isFalse => cases hi
  case h_2 => cases hi

/-- Settles O1: each word is evaluated. -/
theorem decodeWords : Obligations.DecodeWords := by
  unfold Obligations.DecodeWords
  decide

end Sys2Proof

/-! PROOFS. The machine as a whole: reset (29 R418), the step that runs the decoded instruction (03 R50, 05 R112), and the fetch of a line that a context lacks (03 R63). -/

namespace Sys2Proof.Machine

variable {s : State}

/-- Settles O7: every clause is a field of the literal that `State.reset` is. -/
theorem resetState : Obligations.ResetState :=
  ⟨⟨rfl, rfl, rfl, rfl, rfl, fun _ => rfl, rfl, rfl, rfl, rfl⟩, State.reset_memOk, rfl, rfl⟩

/-! ## Contexts with a slot -/

section

variable {core slot : Nat} (hcore : core < 6144) (hslot : slot < 8)

include hcore hslot

theorem lt_copyBase_of_slot : core * 8 + slot < copyBase := by
  rw [copyBase]
  omega

theorem coreOfCid_slot : coreOfCid (core * 8 + slot) = core := by
  rw [coreOfCid, if_pos (lt_copyBase_of_slot hcore hslot)]
  omega

theorem isCopy_slot : isCopy (core * 8 + slot) = false :=
  decide_eq_false (Nat.not_le.2 (lt_copyBase_of_slot hcore hslot))

omit hcore in
theorem slotOfCid_slot : slotOfCid (core * 8 + slot) = slot := by
  rw [slotOfCid]
  omega

end

/-! ## The turn of a strand -/

/-- With its line at hand and nothing that holds it, an instruction that may issue does. -/
theorem State.issueAt_go {h t : Nat} {i : Instr} (hcopy : isCopy s.cur = false) (hbits : s.bits = some (h, t))
    (hi : decode h t = some i) (hbkp : decodeCause s i = none → s.cx.bkpHit = none) (hheld : s.held h t = false) :
    s.issueAt = .go i s := by
  have hhit : (if decodeCause s i = none then s.cx.bkpHit else none) = none := by
    split
    case isTrue h => exact hbkp h
    case isFalse => rfl
  simp [State.issueAt, hbits, hi, hcopy, hhit, hheld]

/-- A focus without deferred work issues from the line it has. -/
theorem State.issue_line (hb : s.boundary = none) (hwalk : s.cx.walk = []) (hrep : s.repWaits = false)
    (hline : s.cx.line.isSome = true) : s.issue = s.issueAt := by
  obtain ⟨l, hl⟩ := Option.isSome_iff_exists.1 hline
  simp [State.issue, hb, hwalk, hrep, hl]

/-- The focus on a context. -/
theorem State.strandTurn_go {u : State} {cid : Nat} {i : Instr} (hu : ({ s with cur := cid } : State).issue = .go i u)
    (hlog : u.waitsLog i = false) :
    s.strandTurn cid =
      (⟨coreOfCid cid, if (u.whyOf (exec i u)).isSome then 2 else 1, slotOfCid cid, (u.whyOf (exec i u)).getD 0 % 4,
          ({ s with cur := cid } : State).cx.issuePc.toNat⟩,
        onNext (exec i u) fun v => (((v.mute u (coreOfCid cid)).logTurn u i).setStall cid (u.whyOf (exec i u))).endStep cid
          ({ s with cur := cid } : State).cx) := by
  simp [State.strandTurn, hu, hlog]

theorem State.coreTurn_runs {core slot : Nat} (hrun : (s.core core).running = some slot)
    (hstay : (s.leaving (s.ctx (core * 8 + slot)).group (s.ctx (core * 8 + slot)).vcore &&
      (s.ctx (core * 8 + slot)).call.isNone && !(s.ctx (core * 8 + slot)).stepping &&
      (s.ctx (core * 8 + slot)).lddRes.isNone) = false) :
    s.coreTurn core = s.strandTurn (core * 8 + slot) := by
  simp only [State.coreTurn, hrun, hstay]
  rfl

theorem State.takeTurn_core {core : Nat} (hboot : s.boot = .up)
    (hturn : s.turns[s.turn % s.turns.length]? = some (core, false)) :
    s.takeTurn = ({ s with turn := s.turn + 1, engine := true } : State).coreTurn core := by
  simp [State.takeTurn, hboot, hturn]

theorem State.choose_takeTurn (ha : s.agenda = []) (he : s.engine = false) : s.choose = s.takeTurn := by
  simp [State.choose, ha, pick, he]

theorem step_powered (hp : s.powered = true) :
    step s = onNext s.choose.2 (fun u => (u.tick s.choose.1).endInvals.latch) := by
  simp [step, State.run, hp]

theorem onNext_onNext (o : Out) (f g : State → State) : onNext (onNext o f) g = onNext o (fun v => g (f v)) := by
  cases o <;> rfl

/-- Settles O4: the schedule gives the turn to the core, the strand issues the decoded instruction, and its turn ends as the statement says. -/
theorem stepRunsDecoded : Obligations.StepRunsDecoded := by
  unfold Obligations.StepRunsDecoded
  intro s core slot h t i hpow hagenda hengine hboot hcore hslot hturn hrun u hleave hb hwalk hrep hline hbits hi hbkp hheld
    hlog why
  have hissue : u.issue = .go i u :=
    (State.issue_line hb hwalk hrep hline).trans
      (State.issueAt_go (isCopy_slot hcore hslot) hbits hi hbkp hheld)
  have hchoose : s.choose = ({ s with turn := s.turn + 1, engine := true } : State).strandTurn (core * 8 + slot) :=
    calc s.choose
      _ = s.takeTurn := State.choose_takeTurn hagenda hengine
      _ = ({ s with turn := s.turn + 1, engine := true } : State).coreTurn core := State.takeTurn_core hboot hturn
      _ = _ := State.coreTurn_runs hrun hleave
  rw [step_powered hpow, hchoose, State.strandTurn_go hissue hlog, onNext_onNext, coreOfCid_slot hcore hslot,
    slotOfCid_slot hslot]

/-! ## The line that the focus lacks (03 R63 to R65) -/

theorem rngOf_local {a : Nat} (h : a < 0x20000) : rngOf a = .loc a := if_pos h

/-- The own scratchpad is on no channel of the weave, and in no stack. -/
theorem State.wayOpen_own (s : State) (core off : Nat) : s.wayOpen core (.spad core off) = true := by
  simp [State.wayOpen, chanOf, State.awake]

theorem State.badS_nil (h : s.badSpad = []) (core off n : Nat) : s.badS core off n = none := by
  simp [State.badS, h, pick_none]

theorem State.softRead_spad_nil (h : s.softSpad = []) (core c off n : Nat) : s.softRead core (.spad c off) n = s := by
  simp [State.softRead, State.softAt, State.softS, h]

/-- A line of the local window that nothing holds, whose words are sound and legal, is fetched from its own bytes. -/
theorem State.fetch_local {pc : Nat} {lb : LineBits} (hwin : pc < 0x20000) (hodd : pc % 2 = 0) (hslot : pc % 64 ≠ 0)
    (hheld : s.fetchHeld s.cur (.spad s.here (pc / 64 * 64)) = false) (hbad : s.badSpad = []) (hsoft : s.softSpad = [])
    (hdec : decodeLine (readBytes s.spad (spadKey s.here (pc / 64 * 64)) 64) = some lb)
    (hin : pc % 64 / 2 ≤ lb.heads.length) : s.fetch s.cur pc = .ok ⟨pc / 64 * 64, lb.heads, lb.tails⟩ s := by
  have hpc : ¬ (pc % 2 ≠ 0 ∨ pc % 64 = 0) := by omega
  have hcore : coreOfCid s.cur = s.here := rfl
  have hat : s.fetchAt s.cur (pc / 64 * 64) = .to (.spad s.here (pc / 64 * 64)) := by
    rw [State.fetchAt, rngOf_local (by omega)]
    rfl
  rw [State.fetch, if_neg hpc]
  simp [hat, hheld, hcore, s.wayOpen_own, State.badS_nil hbad, State.softRead_spad_nil hsoft, lineFrom,
    hdec, Nat.not_lt.2 hin]

/-- Settles O5: the fetch passes its checks and answers the line's own bytes, from which the focus issues. -/
theorem lineFetched : Obligations.LineFetched := by
  unfold Obligations.LineFetched
  intro s lb hb hwalk hrep hline hheld hwin hodd hslot hbad hsoft hdec hin
  have hfetch := State.fetch_local hwin hodd hslot hheld hbad hsoft hdec hin
  simp [State.issue, hb, hwalk, hrep, hline, hfetch]

end Sys2Proof.Machine

/-! PROOFS. Traps (11 R231 to R233): control registers of a context, what an entry of the black box and a fetch leave alone, the header in memory, and the two outcomes of a trap. -/

namespace Sys2Proof.Machine

variable {s : State}

/-! ## Control registers of a context -/

section

variable (c : Ctx)

@[simp] theorem Ctx.get_set_self (n : Nat) (v : Word) : (c.set n v).get n = v := by
  unfold Ctx.set Ctx.get
  split
  case isTrue h => simp [mgetD, h]
  case isFalse => simp

theorem Ctx.get_set_ne {m n : Nat} (v : Word) (h : m ≠ n) : (c.set m v).get n = c.get n := by
  unfold Ctx.set Ctx.get
  split
  case isTrue => simp [mgetD, mget_mdel_ne _ h]
  case isFalse => exact mgetD_mput_ne _ _ _ h

/-- Beside the event counters, no control register moves with a count. -/
theorem Ctx.get_count {n : Nat} (h : n < 0x024 ∨ 0x027 < n) (code k : Nat) : (c.count code k).get n = c.get n := by
  have hset (d : Ctx) (i : Nat) (hi : i ∈ upTo 4) (v : Word) : (d.set (0x024 + i) v).get n = d.get n := by
    have hlt : i < 4 := List.mem_range.1 hi
    exact d.get_set_ne v (by omega)
  have hfold : ∀ (is : List Nat) (d : Ctx), (∀ i ∈ is, i ∈ upTo 4) → (is.foldl (fun c i =>
      if c.fld 0x021 (8 * i) 8 = code then c.set (0x024 + i) (c.get (0x024 + i) + toWord k) else c) d).get n = d.get n := by
    intro is
    induction is with
    | nil => exact fun _ _ => rfl
    | cons i r ih =>
      intro d hmem
      rw [List.foldl_cons, ih _ fun j hj => hmem j (List.mem_cons_of_mem _ hj)]
      split
      · exact hset d i (hmem i List.mem_cons_self) _
      · rfl
  unfold Ctx.count
  split
  case isTrue => rfl
  case isFalse => exact hfold _ _ fun _ hi => hi

theorem Ctx.fld_count {n : Nat} (h : n < 0x024 ∨ 0x027 < n) (code k lo w : Nat) :
    (c.count code k).fld n lo w = c.fld n lo w := by
  rw [Ctx.fld, Ctx.fld, c.get_count h]

theorem Ctx.fld_set_ne {m n : Nat} (v : Word) (h : m ≠ n) (lo w : Nat) : (c.set m v).fld n lo w = c.fld n lo w := by
  rw [Ctx.fld, Ctx.fld, c.get_set_ne v h]

end

/-! ## Fields of a number -/

/-- A field just set reads back, in a word that has room for it. -/
theorem bitsOf_setBits_self {x lo n v : Nat} : bitsOf (setBits x lo n v) lo n = v % 2 ^ n := by
  refine bitsOf_of_split (hi := x / 2 ^ (lo + n)) (low := x % 2 ^ lo) ?_ (Nat.mod_lt _ (Nat.two_pow_pos n))
    (Nat.mod_lt _ (Nat.two_pow_pos lo))
  rw [setBits, Nat.pow_add]
  ring

theorem bitsOf_setBits_below {x lo n v lo' n' : Nat} (h : lo' + n' ≤ lo) :
    bitsOf (setBits x lo n v) lo' n' = bitsOf x lo' n' := by
  obtain ⟨d, rfl⟩ := Nat.exists_eq_add_of_le h
  have hlow : setBits x (lo' + n' + d) n v % 2 ^ (lo' + n') = x % 2 ^ (lo' + n') := by
    have hsplit : setBits x (lo' + n' + d) n v =
        x % 2 ^ (lo' + n' + d) + 2 ^ (lo' + n') * (2 ^ d * (x / 2 ^ (lo' + n' + d + n) * 2 ^ n + v % 2 ^ n)) := by
      simp only [setBits, Nat.pow_add]
      ring
    rw [hsplit, Nat.add_mul_mod_self_left, Nat.mod_mod_of_dvd _ (pow_dvd_pow 2 (Nat.le_add_right _ _))]
  have hfield (y : Nat) : bitsOf y lo' n' = y % 2 ^ (lo' + n') / 2 ^ lo' := by
    rw [bitsOf, Nat.pow_add, Nat.mod_mul_right_div_self]
  rw [hfield, hfield, hlow]

theorem mul_add_lt_mul {q m a b : Nat} (hq : q < a) (hm : m < b) : q * b + m < a * b :=
  calc q * b + m < q * b + b := Nat.add_lt_add_left hm _
    _ = (q + 1) * b := (Nat.succ_mul q b).symm
    _ ≤ a * b := Nat.mul_le_mul_right b hq

/-- A field set within a word of 64 bits leaves a word of 64 bits. -/
theorem setBits_lt {x lo n v : Nat} (hx : x < 2 ^ 64) (h : lo + n ≤ 64) : setBits x lo n v < 2 ^ 64 := by
  obtain ⟨d, hd⟩ := Nat.exists_eq_add_of_le h
  have hhi : x / 2 ^ (lo + n) < 2 ^ d := by
    rw [Nat.div_lt_iff_lt_mul (Nat.two_pow_pos _), ← Nat.pow_add, Nat.add_comm, ← hd]
    exact hx
  have hmid : v % 2 ^ n < 2 ^ n := Nat.mod_lt _ (Nat.two_pow_pos n)
  have hlow : x % 2 ^ lo < 2 ^ lo := Nat.mod_lt _ (Nat.two_pow_pos lo)
  have hpow : 2 ^ 64 = 2 ^ d * 2 ^ n * 2 ^ lo := by rw [hd, Nat.pow_add, Nat.pow_add]; ring
  have hsum : setBits x lo n v = (x / 2 ^ (lo + n) * 2 ^ n + v % 2 ^ n) * 2 ^ lo + x % 2 ^ lo := by
    simp only [setBits, Nat.pow_add]
    ring
  rw [hpow, hsum]
  exact mul_add_lt_mul (mul_add_lt_mul hhi hmid) hlow

theorem Ctx.fld_setFld_self (c : Ctx) {n lo w v : Nat} (h : lo + w ≤ 64) : (c.setFld n lo w v).fld n lo w = v % 2 ^ w := by
  rw [Ctx.fld, Ctx.setFld, Ctx.get_set_self, toNat_toWord, Nat.mod_eq_of_lt (setBits_lt (c.get n).isLt h),
    bitsOf_setBits_self]

theorem Ctx.fld_setFld_below (c : Ctx) {n lo w v lo' w' : Nat} (h : lo + w ≤ 64) (hb : lo' + w' ≤ lo) :
    (c.setFld n lo w v).fld n lo' w' = c.fld n lo' w' := by
  rw [Ctx.fld, Ctx.setFld, Ctx.get_set_self, toNat_toWord, Nat.mod_eq_of_lt (setBits_lt (c.get n).isLt h),
    bitsOf_setBits_below hb]
  rfl

/-! ## Entries of the black box (28 R410) -/

/-- A partition without its presence windows. -/
def Part.unseen (p : Part) : Part := { p with windows := [] }

/-- At most the black box and the partitions' presence windows differ. -/
structure BoxOnly (s t : State) : Prop where
  eq : t = { s with parts := t.parts, blackBox := t.blackBox, bbSeq := t.bbSeq }
  parts : ∀ k, (mget t.parts k).map Part.unseen = (mget s.parts k).map Part.unseen

theorem BoxOnly.refl (s : State) : BoxOnly s s := ⟨rfl, fun _ => rfl⟩

theorem BoxOnly.trans {s t u : State} (h : BoxOnly s t) (h' : BoxOnly t u) : BoxOnly s u := by
  refine ⟨?_, fun k => (h'.parts k).trans (h.parts k)⟩
  rw [h'.eq, h.eq]

theorem State.boxOnly_bbPut (s : State) (t kind cause key mid val aux : Nat) :
    BoxOnly s (s.bbPut t kind cause key mid val aux) := by
  unfold State.bbPut
  split
  · exact .refl s
  · exact ⟨rfl, fun _ => rfl⟩

theorem State.boxOnly_markPresent (s : State) (part cat : Nat) : BoxOnly s (s.markPresent part cat) := by
  unfold State.markPresent
  split
  case h_1 p hp =>
    split
    · exact .refl s
    · refine ⟨rfl, fun k => ?_⟩
      by_cases hk : part = k
      · subst hk
        simp [hp, Part.unseen]
      · simp [mget_mput_ne _ _ hk]
  case h_2 => exact .refl s

theorem State.boxOnly_bbox (s : State) (kind cause key mid val aux : Nat) : BoxOnly s (s.bbox kind cause key mid val aux) := by
  unfold State.bbox
  split
  · exact s.boxOnly_bbPut ..
  · split
    · exact .refl s
    · split
      · exact .refl s
      · exact (s.boxOnly_markPresent _ _).trans (State.boxOnly_bbPut _ ..)
    · exact s.boxOnly_bbPut ..
    · exact s.boxOnly_bbPut ..

theorem State.boxOnly_boxEcc (s : State) (cause : Nat) (tval : Word) : BoxOnly s (s.boxEcc cause tval) := by
  unfold State.boxEcc
  split
  · exact s.boxOnly_bbox ..
  · exact .refl s

/-! ## Accesses of the link engine, seen as requests (24 R363) -/

theorem walkFrom_congr {s t : State} (hh : t.hbm = s.hbm) (hb : t.badHbm = s.badHbm) (va : Nat) (acc : Acc) (sup : Bool)
    (level : Nat) : walkFrom t va acc sup level = walkFrom s va acc sup level := by
  have hrd : t.rdH = s.rdH := by
    funext pa n
    rw [State.rdH, State.rdH, hh]
  have hbad : t.badH = s.badH := by
    funext pa n
    rw [State.badH, State.badH, hb]
  induction level with
  | zero => rfl
  | succ level ih =>
    funext table
    unfold walkFrom
    rw [hrd, hbad, ih]

/-- The bytes of a core's scratchpad that a request of a strand has still to reach. -/
def onWay (cid core : Nat) (r : Req) : Option (Nat × Nat) :=
  match r.loc with
  | .spad c off => if r.cid = cid ∧ c = core ∧ r.unperformed then some (off, r.size) else none
  | _ => none

theorem State.onTheWay_eq (s : State) (cid core : Nat) :
    s.onTheWay cid core = s.reqs.filterMap (onWay cid core) ++ s.flights.filterMap fun f => (s.asReq f).bind (onWay cid core) :=
  calc s.onTheWay cid core
    _ = (s.reqs ++ s.linkReqs).filterMap (onWay cid core) := rfl
    _ = _ := by rw [List.filterMap_append, State.linkReqs, List.filterMap_filterMap]

/-- The scratchpad bytes that a remote access leads to. -/
def Far.near : Far → Option (Nat × Nat)
  | .to (.spad c off) => some (c, off)
  | _ => none

/-- The place and the size of an access seen as a request: no bytes where it leads to no place of this device. -/
def Far.place : Far → Loc
  | .to l => l
  | _ => .hbm 0

def Far.bytes (n : Nat) : Far → Nat
  | .to _ => n
  | _ => 0

theorem onWay_of_far {r : Req} {l : Far} {n : Nat} (hloc : r.loc = l.place) (hsize : r.size = l.bytes n) (cid core : Nat) :
    onWay cid core r = l.near.bind fun p => if r.cid = cid ∧ p.1 = core ∧ r.unperformed then some (p.2, n) else none := by
  rw [onWay, hloc, hsize]
  obtain l | _ | _ := l
  · cases l <;> rfl
  · rfl
  · rfl

/-- What the place of a remote access depends on beside HBM. -/
structure SameWays (s t : State) : Prop where
  flights : t.flights = s.flights
  devNum : t.devNum = s.devNum
  groups : t.groups = s.groups
  parts : ∀ k, (mget t.parts k).map Part.unseen = (mget s.parts k).map Part.unseen
  fwd : ∀ n, (t.core n).fwd = (s.core n).fwd

namespace SameWays

variable {t : State} (h : SameWays s t)

include h

theorem grp (g : Nat) : t.grp g = s.grp g := by rw [State.grp, State.grp, h.groups]

theorem member (g v : Nat) : t.member g v = s.member g v := by rw [State.member, State.member, h.grp]

theorem part_map {α : Type} (f : Part → α) (hf : ∀ p, f p = f p.unseen) (k : Nat) :
    (mget t.parts k).map f = (mget s.parts k).map f := by
  have hk (o : Option Part) : o.map f = (o.map Part.unseen).map f := by
    rw [Option.map_map]
    exact congrArg (fun g => o.map g) (funext hf)
  rw [hk, h.parts, ← hk]

theorem partKey (g : Nat) : t.partKey g = s.partKey g := by rw [State.partKey, State.partKey, h.grp]

theorem handleTarget (part group k : Nat) : t.handleTarget part group k = s.handleTarget part group k := by
  have hid (o : Option Part) : o.bind (fun p => mget p.handles k) = (o.map (fun p => mget p.handles k)).bind id := by
    cases o <;> rfl
  have hbind : (mget t.parts part).bind (fun p => mget p.handles k) = (mget s.parts part).bind (fun p => mget p.handles k) := by
    rw [hid, hid, h.part_map (fun p => mget p.handles k) (fun _ => rfl)]
  rw [State.handleTarget, State.handleTarget, hbind, h.devNum]

theorem farRoot (part group : Nat) : t.farRoot part group = s.farRoot part group := by
  rw [State.farRoot, State.farRoot, h.part_map (fun p => p.root) (fun _ => rfl), h.grp]

theorem homeward (asker group : Nat) (l : Loc) (n : Nat) (vc : Option Nat) :
    t.homeward asker group l n vc = s.homeward asker group l n vc := by
  simp only [State.homeward, State.fwdFor, State.inTransit, h.fwd, h.flights, h.member, h.grp]
  rfl

theorem nMembers (g : Nat) : t.nMembers g = s.nMembers g := by rw [State.nMembers, State.nMembers, h.grp]

/-- Where HBM has not changed either, remote accesses lead where they led. -/
theorem farLoc (hh : t.hbm = s.hbm) (hb : t.badHbm = s.badHbm) (part group : Nat) (sup : Bool) (va size : Nat) (acc : Acc) :
    t.farLoc part group sup va size acc = s.farLoc part group sup va size acc := by
  simp only [State.farLoc, h.farRoot, h.homeward, h.member, h.nMembers, h.grp, walkFrom_congr hh hb]

theorem linkReqs (hh : t.hbm = s.hbm) (hb : t.badHbm = s.badHbm) : t.linkReqs = s.linkReqs := by
  have hreq : t.asReq = s.asReq := by
    funext f
    simp only [State.asReq, h.partKey, h.handleTarget, h.devNum, h.farLoc hh hb]
  rw [State.linkReqs, State.linkReqs, h.flights, hreq]

theorem near_farLoc (part group : Nat) (sup : Bool) (va size : Nat) (acc : Acc) :
    (t.farLoc part group sup va size acc).near = (s.farLoc part group sup va size acc).near := by
  have hpage (u : State) (o : Option Walk) : (match o with
      | some (.ok pa n _ _ _) => Far.to (.hbm (pa + va % n))
      | _ => .fail).near = none := by
    split <;> rfl
  unfold State.farLoc
  split
  case isTrue => rfl
  case isFalse =>
    split
    case h_1 => exact (hpage t _).trans (hpage s _).symm
    case h_2 => rw [h.grp, h.nMembers, h.member, h.homeward]
    case h_3 => rfl

theorem asReq_onWay (f : Flight) (cid core : Nat) :
    (t.asReq f).bind (onWay cid core) = (s.asReq f).bind (onWay cid core) := by
  have hnear (p : Prop) [Decidable p] (part group : Nat) (sup : Bool) (va size : Nat) (acc : Acc) :
      (if p then t.farLoc part group sup va size acc else .fail).near =
        (if p then s.farLoc part group sup va size acc else .fail).near := by
    split
    · exact h.near_farLoc ..
    · rfl
  unfold State.asReq
  dsimp only
  split
  case h_4 => rfl
  case' h_3 => split
  case h_3.isTrue => rfl
  all_goals
    rw [Option.bind_some, Option.bind_some, onWay_of_far rfl rfl, onWay_of_far rfl rfl, h.partKey, h.handleTarget, h.devNum,
      hnear]
    rfl

/-- Whatever HBM holds, the bytes of scratchpads that a strand's accesses have still to reach are the same: pages lie in HBM. -/
theorem onTheWay (hreqs : t.reqs = s.reqs) (cid core : Nat) : t.onTheWay cid core = s.onTheWay cid core := by
  simp only [State.onTheWay_eq, hreqs, h.flights, h.asReq_onWay]

end SameWays

/-! ## What a fetch leaves alone (03 R63) -/

/-- Between two states of one focus a fetch or an entry of the black box has passed: the contexts, the scratchpads and what is on its way there are the same. -/
structure SameFocus (s t : State) : Prop extends SameWays s t where
  ctxs : t.ctxs = s.ctxs
  cur : t.cur = s.cur
  spad : t.spad = s.spad
  reqs : t.reqs = s.reqs

theorem SameFocus.trans {s t u : State} (h : SameFocus s t) (h' : SameFocus t u) : SameFocus s u where
  flights := h'.flights.trans h.flights
  devNum := h'.devNum.trans h.devNum
  groups := h'.groups.trans h.groups
  parts k := (h'.parts k).trans (h.parts k)
  fwd n := (h'.fwd n).trans (h.fwd n)
  ctxs := h'.ctxs.trans h.ctxs
  cur := h'.cur.trans h.cur
  spad := h'.spad.trans h.spad
  reqs := h'.reqs.trans h.reqs

theorem SameFocus.refl (s : State) : SameFocus s s := ⟨⟨rfl, rfl, rfl, fun _ => rfl, fun _ => rfl⟩, rfl, rfl, rfl, rfl⟩

theorem BoxOnly.sameFocus {t : State} (h : BoxOnly s t) : SameFocus s t := by
  have hp := h.parts
  rw [h.eq]
  exact ⟨⟨rfl, rfl, rfl, hp, fun _ => rfl⟩, rfl, rfl, rfl, rfl⟩

theorem State.sameFocus_setCore {n : Nat} {k : Core} (hk : k.fwd = (s.core n).fwd) : SameFocus s (s.setCore n k) := by
  refine ⟨⟨rfl, rfl, rfl, fun _ => rfl, fun m => ?_⟩, rfl, rfl, rfl, rfl⟩
  by_cases hm : n = m
  · subst hm
    rw [s.core_setCore_self, hk]
  · rw [s.core_setCore_ne k hm]

theorem State.sameFocus_setCluster (n : Nat) (k : Cluster) : SameFocus s (s.setCluster n k) :=
  ⟨⟨rfl, rfl, rfl, fun _ => rfl, fun _ => rfl⟩, rfl, rfl, rfl, rfl⟩

theorem State.sameFocus_wrH (pa n v : Nat) : SameFocus s (s.wrH pa n v) :=
  ⟨⟨rfl, rfl, rfl, fun _ => rfl, fun _ => rfl⟩, rfl, rfl, rfl, rfl⟩

theorem State.sameFocus_addCerrOn (core n : Nat) : SameFocus s (s.addCerrOn core n) := by
  unfold State.addCerrOn
  split
  · exact .refl s
  · exact State.sameFocus_setCore rfl

theorem State.sameFocus_useXl (core h va : Nat) (acc : Acc) : SameFocus s (s.useXl core h va acc) := by
  unfold State.useXl
  split
  case h_1 => exact .refl s
  case h_2 t _ =>
    have hbits (b : Nat) : SameFocus s (if b = 0 then s else s.wrH t.leaf 1 (Nat.lor (s.rdH t.leaf 1) b)) := by
      split
      · exact .refl s
      · exact State.sameFocus_wrH _ _ _
    have hcore {u : State} (hu : SameFocus s u) (k : Core) (hk : k.fwd = (u.core core).fwd) :
        SameFocus s (u.setCore core k) := hu.trans (State.sameFocus_setCore hk)
    dsimp only
    split
    · exact hcore (hbits _) _ rfl
    · refine SameFocus.trans ?_ (State.sameFocus_setCluster _ _)
      exact hcore (hbits _) _ rfl

/-- A fetch that answers a line has used its translation and counted corrected errors. -/
theorem State.fetch_ok_sameFocus {cid pc : Nat} {l : Line} {t : State} (h : s.fetch cid pc = .ok l t) : SameFocus s t := by
  have hfin {bs : List Byte} {base : Nat} {u v : State} {pc : Nat} (hv : (match lineFrom bs base with
      | none => Fetched.bad xIllegalLine pc
      | some l => if l.heads.length < pc % 64 / 2 then .bad xIllegalLine pc else .ok l u) = .ok l v) : v = u := by
    split at hv
    · cases hv
    · split at hv
      · cases hv
      · cases hv
        rfl
  unfold State.fetch at h
  split at h
  case isTrue => cases h
  case isFalse =>
    dsimp only at h
    split at h
    case h_1 => cases h
    case h_2 => cases h
    case h_3 loc _ =>
      split at h
      case isTrue => cases h
      case isFalse =>
        split at h
        case isTrue => cases h
        case isFalse =>
          split at h
          case h_1 core off =>
            split at h
            case isTrue => cases h
            case isFalse =>
              rw [hfin h]
              exact State.sameFocus_addCerrOn _ _
          case h_2 pa =>
            split at h
            case isTrue => cases h
            case isFalse =>
              rw [hfin h]
              exact (State.sameFocus_useXl _ _ _ _).trans (State.sameFocus_addCerrOn _ _)

namespace BoxOnly

variable {t : State} (h : BoxOnly s t)

include h

theorem exists_eq : ∃ ps bb n, t = { s with parts := ps, blackBox := bb, bbSeq := n } := ⟨_, _, _, h.eq⟩

theorem fetchHeld (cid : Nat) (l : Loc) : t.fetchHeld cid l = s.fetchHeld cid l := by
  have hlink : t.linkReqs = s.linkReqs := by
    obtain ⟨ps, bb, n, rfl⟩ := h.exists_eq
    exact h.sameFocus.linkReqs rfl rfl
  obtain ⟨ps, bb, n, rfl⟩ := h.exists_eq
  simp only [State.fetchHeld, State.gated, State.gates, State.pendingOf, hlink]
  rfl

/-- An entry of the black box changes nothing of what a fetch checks. -/
theorem fetch_ok {cid pc : Nat} {l : Line} {s' : State} (hf : s.fetch cid pc = .ok l s') :
    ∃ t', t.fetch cid pc = .ok l t' := by
  have hheld := h.fetchHeld cid
  obtain ⟨ps, bb, n, rfl⟩ := h.exists_eq
  have hat : State.fetchAt { s with parts := ps, blackBox := bb, bbSeq := n } cid = s.fetchAt cid := rfl
  have hway : State.wayOpen { s with parts := ps, blackBox := bb, bbSeq := n } = s.wayOpen := rfl
  have hbadS : State.badS { s with parts := ps, blackBox := bb, bbSeq := n } = s.badS := rfl
  have hbadH : State.badH { s with parts := ps, blackBox := bb, bbSeq := n } = s.badH := rfl
  have hfin {bs : List Byte} {base pc : Nat} {u u' v : State} (hv : (match lineFrom bs base with
      | none => Fetched.bad xIllegalLine pc
      | some l => if l.heads.length < pc % 64 / 2 then .bad xIllegalLine pc else .ok l u) = .ok l v) :
      (match lineFrom bs base with
      | none => Fetched.bad xIllegalLine pc
      | some l => if l.heads.length < pc % 64 / 2 then .bad xIllegalLine pc else .ok l u') = .ok l u' := by
    split at hv
    · cases hv
    case h_2 l' _ =>
      split at hv
      · cases hv
      case isFalse hslot =>
        cases hv
        exact if_neg hslot
  unfold State.fetch at hf ⊢
  rw [hat, hway, hbadS, hbadH]
  simp only [hheld]
  split at hf
  case isTrue => cases hf
  case isFalse hpc =>
    rw [if_neg hpc]
    dsimp only at hf ⊢
    split at hf
    case h_1 => cases hf
    case h_2 => cases hf
    case h_3 loc _ =>
      split at hf
      case isTrue => cases hf
      case isFalse hh =>
        rw [if_neg hh]
        split at hf
        case isTrue => cases hf
        case isFalse hw =>
          rw [if_neg hw]
          split at hf
          case h_1 core off =>
            split at hf
            case isTrue => cases hf
            case isFalse hb => exact ⟨_, (if_neg hb).trans (hfin hf)⟩
          case h_2 pa =>
            split at hf
            case isTrue => cases hf
            case isFalse hb => exact ⟨_, (if_neg hb).trans (hfin hf)⟩

end BoxOnly

end Sys2Proof.Machine

/-! PROOFS. Taking a trap (11 R231 to R233): the nesting record in memory, the entry into the handler, and the failure to enter it. -/

namespace Sys2Proof.Machine

variable {s : State}

/-! ## Doublewords in a row -/

theorem State.rdS_wrDws_ne (core : Nat) (ds : List Word) : ∀ (s : State) (off : Nat) {core' off' n : Nat},
    (spadKey core' off' + n ≤ spadKey core off ∨ spadKey core off + 8 * ds.length ≤ spadKey core' off') →
    (s.wrDws core off ds).rdS core' off' n = s.rdS core' off' n := by
  induction ds with
  | nil => exact fun _ _ _ _ _ _ => rfl
  | cons d r ih =>
    intro s off core' off' n h
    have hkey : spadKey core (off + 8) = spadKey core off + 8 := by rw [spadKey, spadKey]; omega
    rw [List.length_cons] at h
    rw [State.wrDws, ih _ _ (by omega), State.rdS_wrS_ne _ (by omega)]

/-- Each doubleword of a row is read back at its place. -/
theorem State.rdS_wrDws (core : Nat) (ds : List Word) : ∀ (s : State) (off j : Nat), j < ds.length →
    toWord ((s.wrDws core off ds).rdS core (off + 8 * j) 8) = ds.getD j 0 := by
  induction ds with
  | nil => exact fun _ _ _ h => absurd h (Nat.not_lt_zero _)
  | cons d r ih =>
    intro s off j hj
    cases j with
    | zero =>
      have hkey : spadKey core (off + 8 * 0) + 8 ≤ spadKey core (off + 8) := by rw [spadKey, spadKey]; omega
      have hmod : d.toNat % 256 ^ 8 = d.toNat := Nat.mod_eq_of_lt d.isLt
      rw [State.wrDws, State.rdS_wrDws_ne core r _ _ (.inl hkey), Nat.mul_zero, Nat.add_zero, s.rdS_wrS_self, hmod,
        toWord_toNat]
      rfl
    | succ j =>
      have hoff : off + 8 * (j + 1) = off + 8 + 8 * j := by omega
      rw [State.wrDws, hoff, ih _ _ j (Nat.lt_of_succ_lt_succ hj)]
      rfl

/-! ## The nesting record (05 R97, 11 R232) -/

theorem State.onTheWay_wrS (core off n v cid core' : Nat) :
    (s.wrS core off n v).onTheWay cid core' = s.onTheWay cid core' :=
  SameWays.onTheWay ⟨rfl, rfl, rfl, fun _ => rfl, fun _ => rfl⟩ rfl cid core'

/-- Behind nothing that is on its way, the core writes at once. -/
theorem State.wrOwn_clear {cid off v : Nat} (h : touches [(off, 8)] (s.onTheWay cid (coreOfCid cid)) = false) :
    s.wrOwn cid off v = s.wrS (coreOfCid cid) off 8 v := by
  simp [State.wrOwn, h]

theorem touches_sub {off n off' n' : Nat} {ys : List (Nat × Nat)} (h : touches [(off, n)] ys = false) (hlo : off ≤ off')
    (hhi : off' + n' ≤ off + n) : touches [(off', n')] ys = false := by
  simp only [touches, List.any_cons, List.any_nil, Bool.or_false, List.any_eq_false, overlap, decide_eq_true_eq] at h ⊢
  intro y hy
  have := h y hy
  omega

theorem State.foldl_wrOwn_clear {cid base : Nat} (xs : List (Word × Nat)) : ∀ (s : State),
    touches [(base, 64)] (s.onTheWay cid (coreOfCid cid)) = false → (∀ x ∈ xs, x.2 < 8) →
    xs.foldl (fun s x => s.wrOwn cid (base + 8 * x.2) x.1.toNat) s =
      xs.foldl (fun s x => s.wrS (coreOfCid cid) (base + 8 * x.2) 8 x.1.toNat) s := by
  induction xs with
  | nil => exact fun _ _ _ => rfl
  | cons x r ih =>
    intro s h hx
    have hx8 : x.2 < 8 := hx x List.mem_cons_self
    have hclear := touches_sub h (off' := base + 8 * x.2) (n' := 8) (by omega) (by omega)
    rw [List.foldl_cons, List.foldl_cons, State.wrOwn_clear hclear]
    exact ih _ (by rwa [State.onTheWay_wrS]) fun y hy => hx y (List.mem_cons_of_mem _ hy)

/-- Where nothing of the strand is on its way to it, the nesting record is the header written at once. -/
theorem State.putRecord_clear {cid : Nat} {pc : Word}
    (h : touches [((s.ctx cid).wp - 64, 64)] (s.onTheWay cid (coreOfCid cid)) = false) :
    s.putRecord cid pc = s.putHeader cid pc := by
  rw [State.putRecord, State.putHeader]
  have hidx : ∀ x ∈ ((s.ctx cid).header pc).zip (upTo 8), x.2 < 8 := fun x hx => List.mem_range.1 (List.of_mem_zip hx).2
  rw [State.foldl_wrOwn_clear _ s h hidx]
  simp [Ctx.header, upTo, List.range_succ, State.wrDws, Nat.add_assoc]

theorem State.hdr_putHeader {cid j : Nat} {pc : Word} (hj : j < 8) :
    toWord ((s.putHeader cid pc).rdS (coreOfCid cid) ((s.ctx cid).wp - 64 + 8 * j) 8) = ((s.ctx cid).header pc).getD j 0 :=
  State.rdS_wrDws _ _ s _ j hj

theorem State.wrDws_ctxs (core : Nat) (ds : List Word) : ∀ (s : State) (off : Nat), (s.wrDws core off ds).ctxs = s.ctxs := by
  induction ds with
  | nil => exact fun _ _ => rfl
  | cons d r ih => exact fun s off => (ih _ _).trans rfl

theorem State.wrDws_cur (core : Nat) (ds : List Word) : ∀ (s : State) (off : Nat), (s.wrDws core off ds).cur = s.cur := by
  induction ds with
  | nil => exact fun _ _ => rfl
  | cons d r ih => exact fun s off => (ih _ _).trans rfl

theorem State.wrDws_parts (core : Nat) (ds : List Word) : ∀ (s : State) (off : Nat), (s.wrDws core off ds).parts = s.parts := by
  induction ds with
  | nil => exact fun _ _ => rfl
  | cons d r ih => exact fun s off => (ih _ _).trans rfl

theorem State.wrDws_groups (core : Nat) (ds : List Word) : ∀ (s : State) (off : Nat), (s.wrDws core off ds).groups = s.groups := by
  induction ds with
  | nil => exact fun _ _ => rfl
  | cons d r ih => exact fun s off => (ih _ _).trans rfl

@[simp] theorem State.putHeader_ctx (cid : Nat) (pc : Word) (cid' : Nat) : (s.putHeader cid pc).ctx cid' = s.ctx cid' := by
  rw [State.ctx, State.ctx, State.putHeader, State.wrDws_ctxs]

@[simp] theorem State.putHeader_cur (cid : Nat) (pc : Word) : (s.putHeader cid pc).cur = s.cur := State.wrDws_cur ..

@[simp] theorem State.putHeader_cx (cid : Nat) (pc : Word) : (s.putHeader cid pc).cx = s.cx := by
  rw [State.cx, State.putHeader_cur, State.putHeader_ctx]
  rfl

/-! ## The entry (11 R232) -/

/-- The context as the handler finds it. -/
def Ctx.entered (c : Ctx) (wp cause : Nat) (tval tpc : Word) (l : Line) : Ctx :=
  let d := { c with
    wp := wp, pc := c.get 0x005, line := some l, walk := [], walkFault := [], noPermit := false, call := none,
    skipBkp := false, tileWait := [] }
  let d := (d.set 0x004 (d.get 0x000)).set 0x001 tpc
  let d := (d.set 0x002 (toWord cause)).set 0x003 tval
  let d := d.set 0x006 (toWord c.wp)
  (d.setFld 0x000 12 4 (d.depth + 1)).count 11 1

theorem SameFocus.ctx {t : State} (h : SameFocus s t) (cid : Nat) : t.ctx cid = s.ctx cid := by
  rw [State.ctx, State.ctx, h.ctxs]

theorem SameFocus.cx {t : State} (h : SameFocus s t) : t.cx = s.cx := by
  rw [State.cx, State.cx, h.cur, h.ctx]

/-- A trap that can be entered, of a context that neither serves nor runs REP. -/
theorem State.takeTrap_enters {cause : Nat} {tval tpc : Word} {l : Line} {s' : State} (hcopy : isCopy s.cur = false)
    (hserv : s.cx.serving = false) (hrep : s.cx.rep = none) (hdepth : s.cx.depth < 15)
    (hfoot : s.footOk s.cx.handlerWp = true)
    (hway : touches [(s.cx.wp - 64, 64)] (s.onTheWay s.cur s.here) = false)
    (hfetch : s.fetch s.cur (s.cx.get 0x005).toNat = .ok l s') (hland : s.unlanded s.cur = false) :
    ∃ u, SameFocus s u ∧ s.takeTrap cause tval tpc =
      (u.putHeader s.cur tpc).setCx (s.cx.entered s.cx.handlerWp cause tval tpc l) := by
  have hentry : ¬ (s.cx.depth = 15 ∨ ¬ s.footOk s.cx.handlerWp = true) := by
    rintro (h | h)
    · exact absurd h hdepth.ne
    · exact h hfoot
  have hwait : s.trapWait = none := by
    simp [State.trapWait, hcopy, hfetch, hland]
  have hfreeze : s.freezeFor cause tval tpc = s := by simp [State.freezeFor, hserv]
  have hbox := s.boxOnly_boxEcc cause tval
  obtain ⟨u, hu⟩ := hbox.fetch_ok hfetch
  have hfocus := hbox.sameFocus.trans (State.fetch_ok_sameFocus hu)
  have hctx := hfocus.ctx s.cur
  have hleave : u.leaveRep s.cur = u := u.leaveRep_none (by rw [hctx]; exact hrep)
  have hrec : u.putRecord s.cur tpc = u.putHeader s.cur tpc := by
    refine State.putRecord_clear ?_
    rw [hctx, hfocus.onTheWay hfocus.reqs]
    exact hway
  have hfoot' : (s.boxEcc cause tval).footOk s.cx.handlerWp = s.footOk s.cx.handlerWp := by
    rw [State.footOk, State.footOk, hbox.sameFocus.cx]
  refine ⟨u, hfocus, ?_⟩
  simp only [State.takeTrap, hcopy, hwait, hfreeze, hbox.sameFocus.cx, hbox.sameFocus.cur, hfoot', if_neg hentry, hu, hleave,
    hrec, State.putHeader_cx, hfocus.cx, Bool.false_eq_true, if_false]
  rfl

section

variable (c : Ctx) (wp cause : Nat) (tval tpc : Word) (l : Line)

/-- Beside ST's DEPTH, the seven trap registers and the event counters, the handler finds every control register as it was. -/
theorem Ctx.get_entered {n : Nat} (h : n < 0x024 ∨ 0x027 < n) (h0 : n ≠ 0) : (c.entered wp cause tval tpc l).get n =
    if n = 6 then toWord c.wp else if n = 3 then tval else if n = 2 then toWord cause else if n = 1 then tpc
      else if n = 4 then c.get 0x000 else c.get n := by
  have hne {m : Nat} (hm : ¬ n = m) : m ≠ n := Ne.symm hm
  rw [Ctx.entered, Ctx.get_count _ h, Ctx.setFld, Ctx.get_set_ne _ _ (hne h0)]
  split_ifs with h6 h3 h2 h1 h4
  · rw [h6, Ctx.get_set_self]
  · rw [Ctx.get_set_ne _ _ (hne h6), h3, Ctx.get_set_self]
  · rw [Ctx.get_set_ne _ _ (hne h6), Ctx.get_set_ne _ _ (hne h3), h2, Ctx.get_set_self]
  · rw [Ctx.get_set_ne _ _ (hne h6), Ctx.get_set_ne _ _ (hne h3), Ctx.get_set_ne _ _ (hne h2), h1, Ctx.get_set_self]
  · rw [Ctx.get_set_ne _ _ (hne h6), Ctx.get_set_ne _ _ (hne h3), Ctx.get_set_ne _ _ (hne h2), Ctx.get_set_ne _ _ (hne h1),
      h4, Ctx.get_set_self]
    rfl
  · rw [Ctx.get_set_ne _ _ (hne h6), Ctx.get_set_ne _ _ (hne h3), Ctx.get_set_ne _ _ (hne h2), Ctx.get_set_ne _ _ (hne h1),
      Ctx.get_set_ne _ _ (hne h4)]
    rfl

/-- The fields of ST below DEPTH stay. -/
theorem Ctx.fld_st_entered {lo w : Nat} (h : lo + w ≤ 12) :
    (c.entered wp cause tval tpc l).fld 0x000 lo w = c.fld 0x000 lo w := by
  rw [Ctx.entered, Ctx.fld_count _ (by decide), Ctx.fld_setFld_below _ (by decide) h]
  iterate 5 rw [Ctx.fld_set_ne _ _ (by decide)]
  rfl

theorem Ctx.depth_entered (hd : c.depth < 15) : (c.entered wp cause tval tpc l).depth = c.depth + 1 := by
  rw [Ctx.depth, Ctx.entered, Ctx.fld_count _ (by decide), Ctx.fld_setFld_self _ (by decide), Ctx.depth]
  iterate 5 rw [Ctx.fld_set_ne _ _ (by decide)]
  exact Nat.mod_eq_of_lt (Nat.succ_lt_succ hd)

theorem Ctx.entered_fields : (c.entered wp cause tval tpc l).pc = c.get 0x005 ∧ (c.entered wp cause tval tpc l).wp = wp ∧
    (c.entered wp cause tval tpc l).line = some l := by
  rw [Ctx.entered]
  obtain ⟨cr, h⟩ := Ctx.count_eq _ 11 1
  rw [h]
  exact ⟨rfl, rfl, rfl⟩

end

/-- Settles O8: the entry writes the header behind nothing, and the handler's registers are read off the entered context. -/
theorem trapEntry : Obligations.TrapEntry := by
  unfold Obligations.TrapEntry
  intro s s' cause tval tpc l hcopy hserv hrep hdepth hfoot _ hway hfetch hland t
  obtain ⟨u, hu, ht⟩ := State.takeTrap_enters (cause := cause) (tval := tval) (tpc := tpc) hcopy hserv hrep hdepth hfoot hway
    hfetch hland
  have hcx : t.cx = s.cx.entered s.cx.handlerWp cause tval tpc l := by rw [show t = _ from ht, State.cx_setCx]
  have hget {n : Nat} (h : n < 0x024) (h0 : n ≠ 0) := s.cx.get_entered s.cx.handlerWp cause tval tpc l (.inl h) h0
  obtain ⟨hpc, hwp, hline⟩ := s.cx.entered_fields s.cx.handlerWp cause tval tpc l
  rw [hcx]
  refine ⟨hpc, hwp, hline, hget (by decide) (by decide), hget (by decide) (by decide), hget (by decide) (by decide),
    hget (by decide) (by decide), hget (by decide) (by decide), s.cx.depth_entered _ _ _ _ _ hdepth, ?_, ?_, fun j hj => ?_⟩
  · rw [Ctx.sup, s.cx.fld_st_entered _ _ _ _ _ (by decide)]
    rfl
  · rw [Ctx.vx, s.cx.fld_st_entered _ _ _ _ _ (by decide)]
    rfl
  · rw [show t = _ from ht, State.rdS_setCx]
    have hctx := hu.ctx s.cur
    have hdr := State.hdr_putHeader (s := u) (cid := s.cur) (pc := tpc) hj
    rw [hctx] at hdr
    exact hdr

/-! ## The entry that fails (11 R233) -/

/-- Leaving a core changes nothing but the core. -/
theorem State.unrun_cases (s : State) (cid : Nat) : s.unrun cid = s ∨ ∃ k, s.unrun cid = s.setCore (coreOfCid cid) k := by
  unfold State.unrun
  split
  · exact .inl rfl
  · dsimp only
    split
    · exact .inr ⟨_, rfl⟩
    · exact .inl rfl

/-- Outside a run of REP, a departure writes the header, moves the context's state and may change the core that ran it. -/
theorem State.depart_cases {cid : Nat} (hrep : (s.ctx cid).rep = none) (pc : Word) (st : CtxState) :
    let u := (s.putHeader cid pc).setCtx cid
      { (s.ctx cid) with pc := pc, state := st, line := none, walkFault := [], noPermit := false }
    s.depart cid pc st = u ∨ ∃ k, s.depart cid pc st = u.setCore (coreOfCid cid) k := by
  rw [State.depart, s.leaveRep_none hrep, State.putHeader_ctx]
  exact State.unrun_cases _ cid

/-- A record to a supervisor moves nothing but the partitions. -/
theorem State.supRec_eq (s : State) (part : Nat) (r : Rec) : ∃ ps, s.supRec part r = { s with parts := ps } := by
  have hmark : ∃ ps, s.markPresent part 4 = { s with parts := ps } := by
    unfold State.markPresent
    split
    · split
      · exact ⟨_, rfl⟩
      · exact ⟨_, rfl⟩
    · exact ⟨_, rfl⟩
  obtain ⟨ps, hps⟩ := hmark
  have hopen : ∃ ps, (if s.gran part 4 = 1 then s.markPresent part 4 else s) = { s with parts := ps } := by
    split
    · exact ⟨ps, hps⟩
    · exact ⟨_, rfl⟩
  obtain ⟨qs, hqs⟩ := hopen
  unfold State.supRec
  simp only [hqs]
  split
  · exact ⟨_, rfl⟩
  · exact ⟨_, rfl⟩

theorem Part.queue_eq_of_unseen {o o' : Option Part} (h : o.map Part.unseen = o'.map Part.unseen) {p : Part}
    (hp : o' = some p) : ∃ q, o = some q ∧ q.queue = p.queue := by
  subst hp
  cases o with
  | none => cases h
  | some q =>
    have hqueue : q.unseen.queue = p.unseen.queue := congrArg Part.queue (Option.some.inj h)
    exact ⟨q, rfl, hqueue⟩

/-- The record goes behind those that the supervisor's queue holds. -/
theorem State.supRec_queue {part : Nat} {p : Part} (hp : mget s.parts part = some p) (r : Rec) :
    ∃ q, mget (s.supRec part r).parts part = some q ∧ q.queue = p.queue ++ [r] := by
  have hopen : ∃ q, mget (if s.gran part 4 = 1 then s.markPresent part 4 else s).parts part = some q ∧
      q.queue = p.queue := by
    split
    · exact Part.queue_eq_of_unseen ((s.boxOnly_markPresent part 4).parts part) hp
    · exact ⟨p, hp, rfl⟩
  obtain ⟨q, hq, hqueue⟩ := hopen
  simp only [State.supRec, hq, mget_mput_self, Option.some.injEq, exists_eq_left', hqueue]

theorem State.partOf_congr {t : State} (h : t.groups = s.groups) (g : Nat) : t.partOf g = s.partOf g := by
  rw [State.partOf, State.partOf, State.grp, State.grp, h]

/-- A departure outside a run of REP keeps groups and partitions; the context has departed, and the scratchpads hold its header. -/
theorem State.depart_focus (hrep : s.cx.rep = none) (pc : Word) (st : CtxState) :
    (s.depart s.cur pc st).groups = s.groups ∧ (s.depart s.cur pc st).parts = s.parts ∧ (s.depart s.cur pc st).cur = s.cur ∧
      (s.depart s.cur pc st).spad = (s.putHeader s.cur pc).spad ∧
      (s.depart s.cur pc st).cx =
        { s.cx with pc := pc, state := st, line := none, walkFault := [], noPermit := false } := by
  have hcx (u : State) (c : Ctx) (hu : u.cur = s.cur) (hc : u.ctxs = mput (s.putHeader s.cur pc).ctxs s.cur c) : u.cx = c := by
    rw [State.cx, State.ctx, hu, hc, mgetD_mput_self]
  obtain h | ⟨k, h⟩ := State.depart_cases (cid := s.cur) hrep pc st <;> rw [h]
  · exact ⟨State.wrDws_groups .., State.wrDws_parts .., State.wrDws_cur .., rfl, hcx _ _ (State.wrDws_cur ..) rfl⟩
  · exact ⟨State.wrDws_groups .., State.wrDws_parts .., State.wrDws_cur .., rfl, hcx _ _ (State.wrDws_cur ..) rfl⟩

/-- Settles O9: the context departs into STOPPED, its header below its registers, and the record goes behind the supervisor's others. -/
theorem entryFailure : Obligations.EntryFailure := by
  unfold Obligations.EntryFailure
  intro s cause tval tpc p hcopy hserv hrep hfail hwp hcause hfoot hp t
  have ht : t = s.entryFailure cause tval tpc := s.takeTrap_entryFailure hcopy hserv hfail hcause tval tpc
  obtain ⟨hgroups, hparts, hcur, hspad, hcx⟩ := State.depart_focus hrep tpc (.stopped none true)
  have hhere : (s.depart s.cur tpc (.stopped none true)).here = s.here := by rw [State.here, hcur]; rfl
  rw [State.entryFailure] at ht
  rw [State.partOf_congr hgroups, hhere] at ht
  generalize s.depart s.cur tpc (.stopped none true) = v at *
  obtain ⟨q, hq, hqueue⟩ := State.supRec_queue (s := v) (part := s.partOf s.cx.group) (p := p) (by rw [hparts]; exact hp)
    ⟨xEntry, tval, tpc, [cause, s.cx.depth, s.here, s.cx.group]⟩
  obtain ⟨ps, hps⟩ := v.supRec_eq (s.partOf s.cx.group) ⟨xEntry, tval, tpc, [cause, s.cx.depth, s.here, s.cx.group]⟩
  have hbox : BoxOnly (v.supRec (s.partOf s.cx.group) ⟨xEntry, tval, tpc, [cause, s.cx.depth, s.here, s.cx.group]⟩) t :=
    ht ▸ State.boxOnly_bbox ..
  have htcx : t.cx = v.cx := by rw [hbox.sameFocus.cx, hps]; rfl
  have htspad : t.spad = v.spad := by rw [hbox.sameFocus.spad, hps]
  have hthere : t.here = s.here := by rw [State.here, hbox.sameFocus.cur, hps, State.here]; exact congrArg coreOfCid hcur
  obtain ⟨q', hq', hqueue'⟩ := Part.queue_eq_of_unseen (hbox.parts (s.partOf s.cx.group)) hq
  rw [htcx, hcx]
  refine ⟨rfl, rfl, rfl, fun i => ?_, q', hq', hqueue'.trans hqueue⟩
  have hreg : (s.putHeader s.cur tpc).rdS s.here (s.cx.wOff i.toNat) 8 = s.rdS s.here (s.cx.wOff i.toNat) 8 := by
    refine State.rdS_wrDws_ne _ _ s _ (.inr ?_)
    have hwp' : 64 ≤ (s.ctx s.cur).wp := hwp
    have hoff : s.cx.wOff i.toNat = (s.ctx s.cur).wp + 8 * i.toNat := rfl
    simp only [spadKey, Ctx.header, List.length_cons, List.length_nil, hoff, State.here]
    omega
  have hrd : t.rdS s.here = (s.putHeader s.cur tpc).rdS s.here := by
    funext off n
    rw [State.rdS, State.rdS, htspad, hspad]
  rw [State.w, hthere, htcx, hcx, hrd]
  exact congrArg toWord hreg

end Sys2Proof.Machine

/-! PROOFS. The instructions that only compute (06 R118 to R131): the model's values against their rules, the bit counts and reversals by induction on the bits, and what the writes leave alone. -/

namespace Sys2Proof.Machine

variable {s : State}

/-! ## Counting and reversing bits (06 R126) -/

theorem clzGo_le (n x : Nat) : clzGo n x ≤ n := by
  induction n with
  | zero => exact Nat.le_refl 0
  | succ n ih =>
    rw [clzGo]
    split <;> omega

theorem clzGo_zero (n : Nat) : clzGo n 0 = n := by
  induction n with
  | zero => rfl
  | succ n ih => simp [clzGo, bitAt, ih, Nat.add_comm]

/-- The leading one stands just below the leading zeros. -/
theorem clzGo_bounds (n x : Nat) (hx : x ≠ 0) (hlt : x < 2 ^ n) :
    2 ^ (n - 1 - clzGo n x) ≤ x ∧ x < 2 ^ (n - clzGo n x) := by
  induction n with
  | zero => exact absurd (Nat.lt_one_iff.1 hlt) hx
  | succ n ih =>
    rw [clzGo]
    split
    case isTrue h =>
      have hle : 2 ^ n ≤ x := by
        by_contra hcon
        simp [bitAt, Nat.div_eq_of_lt (Nat.lt_of_not_le hcon)] at h
      exact ⟨hle, hlt⟩
    case isFalse h =>
      have hlt' : x < 2 ^ n := by
        by_contra hcon
        have hone : x / 2 ^ n = 1 := Nat.div_eq_of_lt_le (by omega) (by rw [Nat.pow_succ] at hlt; omega)
        simp [bitAt, hone] at h
      have hle := clzGo_le n x
      have hsub : n + 1 - 1 - (1 + clzGo n x) = n - 1 - clzGo n x := by omega
      have hsub' : n + 1 - (1 + clzGo n x) = n - clzGo n x := by omega
      rw [hsub, hsub']
      exact ih hlt'

theorem ctzGo_le (n x : Nat) : ctzGo n x ≤ n := by
  induction n generalizing x with
  | zero => exact Nat.le_refl 0
  | succ n ih =>
    have := ih (x / 2)
    rw [ctzGo]
    split <;> omega

theorem ctzGo_zero (n : Nat) : ctzGo n 0 = n := by
  induction n with
  | zero => rfl
  | succ n ih => simp [ctzGo, ih, Nat.add_comm]

/-- The trailing one stands just above the trailing zeros. -/
theorem ctzGo_dvd (n x : Nat) (hx : x ≠ 0) (hlt : x < 2 ^ n) : 2 ^ ctzGo n x ∣ x ∧ ¬ 2 ^ (ctzGo n x + 1) ∣ x := by
  induction n generalizing x with
  | zero => exact absurd (Nat.lt_one_iff.1 hlt) hx
  | succ n ih =>
    rw [ctzGo]
    split
    case isTrue h => exact ⟨one_dvd x, by rw [Nat.zero_add, Nat.pow_one]; omega⟩
    case isFalse h =>
      obtain ⟨y, rfl⟩ : 2 ∣ x := by omega
      have hhalf : 2 * y / 2 = y := Nat.mul_div_cancel_left y (by decide)
      obtain ⟨hd, hn⟩ := ih y (by omega) (by rw [Nat.pow_succ] at hlt; omega)
      rw [hhalf, Nat.add_comm 1, Nat.pow_succ', Nat.pow_succ' (n := ctzGo n y + 1)]
      exact ⟨Nat.mul_dvd_mul_left 2 hd, fun h => hn (Nat.dvd_of_mul_dvd_mul_left (by decide) h)⟩

theorem popGo_eq (n x : Nat) : popGo n x = ((List.range n).filter (fun i => x.testBit i)).length := by
  induction n generalizing x with
  | zero => rfl
  | succ n ih =>
    have hshift : (fun i => x.testBit i) ∘ Nat.succ = fun i => (x / 2).testBit i := by
      funext i
      exact Nat.testBit_succ x i
    have hbit : x.testBit 0 = decide (x % 2 = 1) := Nat.testBit_zero x
    rw [popGo, ih, List.range_succ_eq_map, List.filter_cons, List.filter_map, hshift, hbit]
    split
    case isTrue h =>
      rw [List.length_cons, List.length_map, of_decide_eq_true h, Nat.add_comm]
    case isFalse h =>
      have hmod : x % 2 = 0 := by
        have := of_decide_eq_false (Bool.not_eq_true _ ▸ h)
        omega
      rw [List.length_map, hmod, Nat.zero_add]

theorem popGo_le (n x : Nat) : popGo n x ≤ n := by
  rw [popGo_eq]
  exact (List.length_filter_le _ _).trans (by rw [List.length_range])

theorem revGo_lt (n x : Nat) : revGo n x < 2 ^ n := by
  induction n generalizing x with
  | zero => exact Nat.one_pos
  | succ n ih =>
    have := ih (x / 2)
    have : x % 2 * 2 ^ n ≤ 1 * 2 ^ n := Nat.mul_le_mul_right _ (by omega)
    rw [revGo, Nat.pow_succ]
    omega

theorem testBit_revGo (n x i : Nat) (hi : i < n) : (revGo n x).testBit i = x.testBit (n - 1 - i) := by
  induction n generalizing x i with
  | zero => exact absurd hi (Nat.not_lt_zero i)
  | succ n ih =>
    rw [revGo, Nat.mul_comm, Nat.testBit_two_pow_mul_add _ (revGo_lt n _)]
    split
    case isTrue h =>
      have hidx : n + 1 - 1 - i = n - 1 - i + 1 := by omega
      rw [ih _ _ h, hidx, Nat.testBit_succ]
    case isFalse h =>
      obtain rfl : i = n := by omega
      simp [Nat.testBit_zero]

theorem swapGo_lt (n x : Nat) : swapGo n x < 256 ^ n := by
  induction n generalizing x with
  | zero => exact Nat.one_pos
  | succ n ih =>
    rw [swapGo, Nat.pow_succ, Nat.mul_comm (256 ^ n)]
    exact mul_add_lt_mul (Nat.mod_lt x (by decide)) (ih _)

/-- Byte `i` of the reversed bytes. -/
theorem byte_swapGo (n x i : Nat) (hi : i < n) : swapGo n x / 256 ^ i % 256 = x / 256 ^ (n - 1 - i) % 256 := by
  induction n generalizing x i with
  | zero => exact absurd hi (Nat.not_lt_zero i)
  | succ n ih =>
    rw [swapGo]
    by_cases h : i < n
    · obtain ⟨d, rfl⟩ := Nat.exists_eq_add_of_lt h
      have hidx : i + d + 1 + 1 - 1 - i = i + d + 1 - 1 - i + 1 := by omega
      have hsplit : x % 256 * 256 ^ (i + d + 1) + swapGo (i + d + 1) (x / 256) =
          swapGo (i + d + 1) (x / 256) + 256 ^ i * (256 * (x % 256 * 256 ^ d)) := by
        rw [Nat.pow_succ, Nat.pow_add]
        ring
      rw [hsplit, Nat.add_mul_div_left _ _ (Nat.pow_pos (by decide)), Nat.add_mul_mod_self_left, ih _ _ h, hidx,
        Nat.pow_succ', Nat.div_div_eq_div_mul]
    · obtain rfl : i = n := by omega
      rw [Nat.add_comm, Nat.add_mul_div_right _ _ (Nat.pow_pos (by decide)), Nat.div_eq_of_lt (swapGo_lt i _)]
      simp

theorem toNat_toWord_of_lt {n : Nat} (h : n < 2 ^ 64) : (toWord n).toNat = n := by
  rw [toNat_toWord, Nat.mod_eq_of_lt h]

section

variable (x : Word)

theorem toNat_clz : (clz x).toNat = clzGo 64 x.toNat := toNat_toWord_of_lt (by have := clzGo_le 64 x.toNat; omega)

theorem toNat_ctz : (ctz x).toNat = ctzGo 64 x.toNat := toNat_toWord_of_lt (by have := ctzGo_le 64 x.toNat; omega)

theorem toNat_popc : (popc x).toNat = popGo 64 x.toNat := toNat_toWord_of_lt (by have := popGo_le 64 x.toNat; omega)

theorem getLsbD_brev {n : Nat} (hn : n < 64) : (brev x).getLsbD n = x.getLsbD (63 - n) := by
  have hrev : (brev x).toNat = revGo 64 x.toNat := toNat_toWord_of_lt (revGo_lt 64 _)
  rw [BitVec.getLsbD, hrev, testBit_revGo 64 _ n hn]
  rfl

theorem extract_bswap {n : Nat} (hn : n < 8) : (bswap x).extractLsb' (8 * n) 8 = x.extractLsb' (8 * (7 - n)) 8 := by
  have hswap : (bswap x).toNat = swapGo 8 x.toNat := toNat_toWord_of_lt (swapGo_lt 8 _)
  have hpow (k : Nat) : 2 ^ (8 * k) = 256 ^ k := Nat.pow_mul 2 8 k
  apply BitVec.eq_of_toNat_eq
  rw [BitVec.extractLsb'_toNat, BitVec.extractLsb'_toNat, hswap, Nat.shiftRight_eq_div_pow, Nat.shiftRight_eq_div_pow, hpow,
    hpow]
  exact byte_swapGo 8 _ n hn

end

/-! ## The model's values and the rules' (06 R123, R124, R131, 14 R267) -/

section

variable (x y : Word)

theorem minS_eq : minS x y = lower x y := by
  rw [minS, lower, BitVec.slt]
  by_cases h : x.toInt < y.toInt
  · rw [if_pos (decide_eq_true h), if_pos (Int.le_of_lt h)]
  · rw [if_neg (by simpa using h)]
    split
    case isTrue hle => exact BitVec.eq_of_toInt_eq (by omega)
    case isFalse => rfl

theorem maxS_eq : maxS x y = upper x y := by
  rw [maxS, upper, BitVec.slt]
  by_cases h : x.toInt < y.toInt
  · rw [if_pos (decide_eq_true h), if_pos (Int.le_of_lt h)]
  · rw [if_neg (by simpa using h)]
    split
    case isTrue hle => exact BitVec.eq_of_toInt_eq (by omega)
    case isFalse => rfl

theorem minN_eq : minN x y = lowerN x y := by
  rw [minN, lowerN]
  by_cases h : x.toNat < y.toNat
  · rw [if_pos h, if_pos (Nat.le_of_lt h)]
  · rw [if_neg h]
    split
    case isTrue hle => exact BitVec.eq_of_toNat_eq (by omega)
    case isFalse => rfl

theorem maxN_eq : maxN x y = upperN x y := by
  rw [maxN, upperN]
  by_cases h : x.toNat < y.toNat
  · rw [if_pos h, if_pos (Nat.le_of_lt h)]
  · rw [if_neg h]
    split
    case isTrue hle => exact BitVec.eq_of_toNat_eq (by omega)
    case isFalse => rfl

theorem flag_decide (p : Prop) [Decidable p] : flag (decide p) = truth p := by
  rw [flag, truth]
  by_cases h : p <;> simp [h]

theorem flag_beq : flag (x == y) = truth (x = y) := flag_decide (x = y)

theorem clamp64_eq (i : Int) : clamp64 i = clampWord i := by
  rw [clamp64, clampWord, clampInt]
  congr 1
  split
  · dsimp only; omega
  · split <;> dsimp only <;> omega

theorem divS_eq : divS x y = if y = 0 then BitVec.allOnes 64 else x.sdiv y := by
  split
  case isTrue h => rw [h, divS_zero]
  case isFalse h => exact divS_eq_sdiv h

theorem divN_eq : divN x y = if y = 0 then BitVec.allOnes 64 else x / y := by
  split
  case isTrue h => rw [h, divN_zero]
  case isFalse h => exact divN_eq_udiv h

theorem remS_eq : remS x y = if y = 0 then x else x.srem y := by
  split
  case isTrue h => rw [h, remS_zero]
  case isFalse h => exact remS_eq_srem h

theorem remN_eq : remN x y = if y = 0 then x else x % y := by
  split
  case isTrue h => rw [h, remN_zero]
  case isFalse h => exact remN_eq_umod h

theorem sh6_signExtend (imm : BitVec 22) : sh6 (imm.signExtend 64) = imm.toNat % 64 := by
  have hlow : (imm.signExtend 64).setWidth 6 = imm.setWidth 6 := by
    apply BitVec.eq_of_getLsbD_eq
    intro i hi
    rw [BitVec.getLsbD_setWidth, BitVec.getLsbD_setWidth, BitVec.getLsbD_signExtend, if_pos (by omega : i < 22),
      decide_eq_true (by omega : i < 64), Bool.true_and]
  have := congrArg BitVec.toNat hlow
  rwa [BitVec.toNat_setWidth, BitVec.toNat_setWidth] at this

/-- A field of no bits is 0. -/
theorem ite_bitsOf_width (a lo wd : Nat) : (if wd = 0 then 0 else bitsOf a lo wd) = bitsOf a lo wd := by
  split
  case isTrue h => rw [h, bitsOf, Nat.pow_zero, Nat.mod_one]
  case isFalse => rfl

end

/-! ## Each computing instruction reads, writes and completes (06 R118) -/

/-- Reading no register reads nothing. -/
theorem reading_nil (s : State) (k : State → Out) : reading [] s k = k s :=
  (reading_ok s rfl k).trans (counting_zero s _)

theorem reading_congr {s : State} {rs : List (BitVec 4)} {k l : State → Out} (h : k s = l s) :
    reading rs s k = reading rs s l := by
  unfold reading
  rw [h]

section

variable (s : State) (a b c : BitVec 4)

theorem alu2_eq (f : Word → Word → Word) :
    alu2 f a b c s = reading [b, c] s (fun t => done (t.setW a (f (s.w b) (s.w c)))) := reading_congr rfl

theorem alu1_eq (f : Word → Word) : alu1 f a b s = reading [b] s (fun t => done (t.setW a (f (s.w b)))) :=
  reading_congr rfl

theorem aluI_eq (f : Word → Word → Word) (imm : BitVec 22) :
    aluI f a b imm s = reading [b] s (fun t => done (t.setW a (f (s.w b) (imm.signExtend 64)))) := reading_congr rfl

end

section

variable (s : State) (a b c : BitVec 4)

theorem exec_lih (imm : BitVec 32) : exec (.lih a b c imm) s =
    reading [a] s (fun s => done (s.setW a (toWord (imm.toNat * 2 ^ 32 + (s.w a).toNat % 2 ^ 32)))) := by rfl

theorem exec_mov : exec (.mov a b) s = reading [b] s (fun s => done (s.setW a (s.w b))) := by rfl

theorem exec_sel (imm : BitVec 6) : exec (.sel a b c imm) s = reading [b, c, imm.setWidth 4] s
    (fun s => done (s.setW a (if s.w (imm.setWidth 4) ≠ 0 then s.w b else s.w c))) := by rfl

theorem exec_selz (imm : BitVec 6) : exec (.selz a b c imm) s = reading [b, c, imm.setWidth 4] s
    (fun s => done (s.setW a (if s.w (imm.setWidth 4) = 0 then s.w b else s.w c))) := by rfl

theorem exec_wfld (imm : BitVec 6) : exec (.wfld a b c imm) s = reading [b] s (fun s => done (s.setW a (toWord
    (if widW (s.cx.get 0x014).toNat (imm.toNat - 1) = 0 then 0
     else bitsOf (s.w b).toNat (widLo (s.cx.get 0x014).toNat imm.toNat)
      (widW (s.cx.get 0x014).toNat (imm.toNat - 1)))))) := by rfl

end

/-- An instruction that only computes reads its registers, writes its value and completes. -/
theorem exec_of_aluOf {i : Instr} {rs : List (BitVec 4)} {d : BitVec 4} {v : Word} (h : aluOf s i = some (rs, d, v)) :
    exec i s = reading rs s (fun s => done (s.setW d v)) := by
  cases i
  case add a b c imm =>
    cases h
    exact alu2_eq s d b c (fun x y => x + y)
  case sub a b c imm =>
    cases h
    exact alu2_eq s d b c (fun x y => x - y)
  case and a b c imm =>
    cases h
    exact alu2_eq s d b c (fun x y => x &&& y)
  case or a b c imm =>
    cases h
    exact alu2_eq s d b c (fun x y => x ||| y)
  case xor a b c imm =>
    cases h
    exact alu2_eq s d b c (fun x y => x ^^^ y)
  case andn a b c imm =>
    cases h
    exact alu2_eq s d b c (fun x y => x &&& ~~~y)
  case shl a b c imm =>
    cases h
    exact alu2_eq s d b c (fun x y => x <<< sh6 y)
  case shr a b c imm =>
    cases h
    exact alu2_eq s d b c (fun x y => x >>> sh6 y)
  case sar a b c imm =>
    cases h
    exact alu2_eq s d b c (fun x y => x.sshiftRight (sh6 y))
  case rol a b c imm =>
    cases h
    exact alu2_eq s d b c (fun x y => x.rotateLeft (sh6 y))
  case mul a b c imm =>
    cases h
    exact alu2_eq s d b c (fun x y => x * y)
  case mulh a b c imm =>
    cases h
    exact alu2_eq s d b c mulHigh
  case mulhN a b c imm =>
    cases h
    exact alu2_eq s d b c mulHighN
  case clz | ctz | popc | brev | bswap =>
    cases h
    exact alu1_eq s _ _ _
  case addi | andi | ori | xori | muli =>
    cases h
    exact aluI_eq s _ _ _ _
  case shli a b c imm =>
    cases h
    rw [← sh6_signExtend]
    exact aluI_eq s d b (fun x y => x <<< sh6 y) imm
  case shri a b c imm =>
    cases h
    rw [← sh6_signExtend]
    exact aluI_eq s d b (fun x y => x >>> sh6 y) imm
  case sari a b c imm =>
    cases h
    rw [← sh6_signExtend]
    exact aluI_eq s d b (fun x y => x.sshiftRight (sh6 y)) imm
  case roli a b c imm =>
    cases h
    rw [← sh6_signExtend]
    exact aluI_eq s d b (fun x y => x.rotateLeft (sh6 y)) imm
  case min a b c imm =>
    cases h
    rw [← minS_eq]
    exact alu2_eq s d b c minS
  case max a b c imm =>
    cases h
    rw [← maxS_eq]
    exact alu2_eq s d b c maxS
  case minN a b c imm =>
    cases h
    rw [← minN_eq]
    exact alu2_eq s d b c minN
  case maxN a b c imm =>
    cases h
    rw [← maxN_eq]
    exact alu2_eq s d b c maxN
  case slt a b c imm =>
    cases h
    rw [← flag_decide]
    exact alu2_eq s d b c (fun x y => flag (x.slt y))
  case sltN a b c imm =>
    cases h
    rw [← flag_decide]
    exact alu2_eq s d b c (fun x y => flag (x.ult y))
  case sltiN a b c imm =>
    cases h
    rw [← flag_decide]
    exact aluI_eq s d b (fun x y => flag (x.ult y)) imm
  case slti a b c imm =>
    cases h
    rw [← flag_decide, ← BitVec.toInt_signExtend_of_le (by decide : 22 ≤ 64)]
    exact aluI_eq s d b (fun x y => flag (x.slt y)) imm
  case seq a b c imm =>
    cases h
    rw [← flag_beq]
    exact alu2_eq s d b c (fun x y => flag (x == y))
  case seqi a b c imm =>
    cases h
    rw [← flag_beq]
    exact aluI_eq s d b (fun x y => flag (x == y)) imm
  case div a b c imm =>
    cases h
    rw [← divS_eq]
    exact alu2_eq s d b c divS
  case divN a b c imm =>
    cases h
    rw [← divN_eq]
    exact alu2_eq s d b c divN
  case rem a b c imm =>
    cases h
    rw [← remS_eq]
    exact alu2_eq s d b c remS
  case remN a b c imm =>
    cases h
    rw [← remN_eq]
    exact alu2_eq s d b c remN
  case adds a b c imm =>
    cases h
    rw [← clamp64_eq]
    exact alu2_eq s d b c addSat
  case subs a b c imm =>
    cases h
    rw [← clamp64_eq]
    exact alu2_eq s d b c subSat
  case li | liz | la | wpget =>
    cases h
    rw [reading_nil]
    rfl
  case lih =>
    cases h
    rw [exec_lih]
    exact reading_congr rfl
  case mov =>
    cases h
    rw [exec_mov]
    exact reading_congr rfl
  case selz =>
    cases h
    rw [exec_selz]
    exact reading_congr rfl
  case sel =>
    cases h
    rw [exec_sel, ← ite_not]
    exact reading_congr rfl
  case wfld =>
    cases h
    rw [exec_wfld, ← ite_bitsOf_width]
    exact reading_congr rfl
  all_goals cases h

/-- Settles O10: every row of the table is the instruction, and the bit counts and reversals go by induction on the bits. -/
theorem aluResult : Obligations.AluResult := by
  unfold Obligations.AluResult
  refine ⟨fun s i rs d v h hb => ?_, fun x => ⟨⟨?_, ?_⟩, fun hx => ?_, fun hx => ?_, ?_, fun n hn => getLsbD_brev x hn,
    fun n hn => extract_bswap x hn⟩⟩
  · rw [exec_of_aluOf h]
    exact reading_done hb rfl rfl
  · exact BitVec.eq_of_toNat_eq ((toNat_clz 0).trans (clzGo_zero 64))
  · exact BitVec.eq_of_toNat_eq ((toNat_ctz 0).trans (ctzGo_zero 64))
  · rw [toNat_clz]
    exact clzGo_bounds 64 x.toNat (fun h => hx (BitVec.eq_of_toNat_eq h)) x.isLt
  · rw [toNat_ctz]
    exact ctzGo_dvd 64 x.toNat (fun h => hx (BitVec.eq_of_toNat_eq h)) x.isLt
  · rw [toNat_popc]
    exact popGo_eq 64 x.toNat

/-! ## What stays (05 R101, 06 R118) -/

/-- Completion moves no control register but the event counters. -/
theorem Ctx.get_completed (c : Ctx) {n : Nat} (h : n < 0x024 ∨ 0x027 < n) : c.completed.get n = c.get n := by
  have hone : ({ c.count 2 1 with instrs := c.instrs + 1, skipBkp := false, tileWait := [], noPermit := false } : Ctx).get n =
      c.get n := c.get_count h 2 1
  unfold Ctx.completed
  dsimp only
  split
  · rw [Ctx.get_count _ h, hone]
  · exact hone

theorem Kept.trans {s t u : State} {dst tg dst' tg' : Nat → Nat → Prop} (h : Kept s t dst tg) (h' : Kept t u dst' tg')
    (hcur : t.cur = s.cur) (hdst : ∀ c o, dst' c o → dst c o) (htg : ∀ c o, tg' c o → tg c o) : Kept s u dst tg := by
  have hhere : t.here = s.here := congrArg coreOfCid hcur
  refine { spad := fun c o ho hn => (h'.spad c o ho fun hd => hn (hdst c o hd)).trans (h.spad c o ho hn)
           tags := fun c o hn => (h'.tags c o fun hd => hn (htg c o hd)).trans (h.tags c o hn)
           hbm := h'.hbm.trans h.hbm
           ctxs := fun cid hn => (h'.ctxs cid (hcur ▸ hn)).trans (h.ctxs cid hn)
           cores := fun n hn => (h'.cores n (hhere ▸ hn)).trans (h.cores n hn)
           tiles := (hhere ▸ h'.tiles).trans h.tiles
           satcnt := (hhere ▸ h'.satcnt).trans h.satcnt
           wp := h'.wp.trans h.wp
           crs := fun n hn => (h'.crs n hn).trans (h.crs n hn)
           groups := fun g => (h'.groups g).trans (h.groups g)
           parts := h'.parts.trans h.parts
           estate := h'.estate.trans h.estate
           learn := h'.learn.trans h.learn
           clusters := h'.clusters.trans h.clusters
           links := h'.links.trans h.links
           reductions := h'.reductions.trans h.reductions
           pipelines := h'.pipelines.trans h.pipelines
           inFlight := ?_
           host := ?_ }
  · obtain ⟨hr, hl, hf⟩ := h.inFlight
    obtain ⟨hr', hl', hf'⟩ := h'.inFlight
    exact ⟨hr'.trans hr, hl'.trans hl, hf'.trans hf⟩
  · obtain ⟨ho, hb, hx, hs⟩ := h.host
    obtain ⟨ho', hb', hx', hs'⟩ := h'.host
    exact ⟨ho'.trans ho, hb'.trans hb, hx'.trans hx, hs'.trans hs⟩

/-- Writing bytes of a scratchpad keeps everything else. -/
theorem kept_wrS (s : State) {core off n : Nat} (v : Nat) (hfit : off + n ≤ 131072) :
    Kept s (s.wrS core off n v) (span core off n) nowhere where
  spad c o ho hn := by
    refine State.byteAt_wrS_ne s ?_
    have hout : ¬ (c = core ∧ off ≤ o ∧ o < off + n) := hn
    simp only [spadKey]
    omega
  tags _ _ _ := rfl
  hbm := rfl
  ctxs _ _ := rfl
  cores _ _ := rfl
  tiles := rfl
  satcnt := rfl
  wp := rfl
  crs _ _ := rfl
  groups _ := rfl
  parts := rfl
  estate := rfl
  learn := rfl
  clusters := rfl
  links := rfl
  reductions := rfl
  pipelines := rfl
  inFlight := ⟨rfl, rfl, rfl⟩
  host := ⟨rfl, rfl, rfl, rfl⟩

/-- A change of the focus's context that keeps its workspace and its control registers keeps everything else. -/
theorem kept_setCx (s : State) {c : Ctx} (hwp : c.wp = s.cx.wp) (hcr : ∀ n, n < 0x024 ∨ 0x027 < n → c.get n = s.cx.get n) :
    Kept s (s.setCx c) nowhere nowhere where
  spad _ _ _ _ := rfl
  tags _ _ _ := rfl
  hbm := rfl
  ctxs _ hn := State.ctx_setCtx_ne s c (Ne.symm hn)
  cores _ _ := rfl
  tiles := rfl
  satcnt := rfl
  wp := by simpa using hwp
  crs n hn := by simpa using hcr n hn
  groups _ := rfl
  parts := rfl
  estate := rfl
  learn := rfl
  clusters := rfl
  links := rfl
  reductions := rfl
  pipelines := rfl
  inFlight := ⟨rfl, rfl, rfl⟩
  host := ⟨rfl, rfl, rfl, rfl⟩

/-- A change of the own core that keeps its tiles and saturation counters keeps everything else. -/
theorem kept_setCore (s : State) {k : Core} (ht : k.tiles = (s.core s.here).tiles) (hs : k.satcnt = (s.core s.here).satcnt) :
    Kept s (s.setCore s.here k) nowhere nowhere where
  spad _ _ _ _ := rfl
  tags _ _ _ := rfl
  hbm := rfl
  ctxs _ _ := rfl
  cores _ hn := mgetD_mput_ne s.cores k Core.blank (Ne.symm hn)
  tiles := (congrArg Core.tiles (mgetD_mput_self s.cores s.here k Core.blank)).trans ht
  satcnt := (congrArg Core.satcnt (mgetD_mput_self s.cores s.here k Core.blank)).trans hs
  wp := rfl
  crs _ _ := rfl
  groups _ := rfl
  parts := rfl
  estate := rfl
  learn := rfl
  clusters := rfl
  links := rfl
  reductions := rfl
  pipelines := rfl
  inFlight := ⟨rfl, rfl, rfl⟩
  host := ⟨rfl, rfl, rfl, rfl⟩

theorem kept_refl (s : State) : Kept s s nowhere nowhere where
  spad _ _ _ _ := rfl
  tags _ _ _ := rfl
  hbm := rfl
  ctxs _ _ := rfl
  cores _ _ := rfl
  tiles := rfl
  satcnt := rfl
  wp := rfl
  crs _ _ := rfl
  groups _ := rfl
  parts := rfl
  estate := rfl
  learn := rfl
  clusters := rfl
  links := rfl
  reductions := rfl
  pipelines := rfl
  inFlight := ⟨rfl, rfl, rfl⟩
  host := ⟨rfl, rfl, rfl, rfl⟩

theorem kept_addCerrOn (s : State) (n : Nat) : Kept s (s.addCerrOn s.here n) nowhere nowhere := by
  unfold State.addCerrOn
  split
  · exact kept_refl s
  · exact kept_setCore s rfl rfl

/-- Going on to the successor, outside a run of REP, keeps everything else. -/
theorem kept_advance (s : State) (h : s.cx.rep = none) : Kept s s.advance nowhere nowhere := by
  obtain ⟨cr, n, e⟩ := s.cx.completed_eq
  rw [s.advance_eq h]
  refine kept_setCx s ?_ fun m hm => s.cx.get_completed hm
  rw [e]

/-- Writing a register of a workspace inside the scratchpad and going on keeps all but that register. -/
theorem kept_setW_advance (s : State) (d : BitVec 4) (v : Word) (n : Nat) (hr : s.cx.rep = none) (hwp : s.cx.wp + 128 ≤ 0x20000) :
    Kept s ((s.setW d v).advance.addCerrOn s.here n) (span s.here (s.cx.wOff d.toNat) 8) nowhere := by
  have hfit : s.cx.wOff d.toNat + 8 ≤ 131072 := by
    have := d.isLt
    simp only [Ctx.wOff]
    omega
  have hcur : (s.setW d v).advance.cur = s.cur := by
    rw [(s.setW d v).advance_eq hr]
    rfl
  have hhere : (s.setW d v).advance.here = s.here := congrArg coreOfCid hcur
  refine ((kept_wrS s v.toNat hfit).trans (kept_advance (s.setW d v) hr) rfl ?_ fun _ _ h => h).trans
    (hhere ▸ kept_addCerrOn _ n) hcur ?_ fun _ _ h => h
  · exact fun _ _ h => h.elim
  · exact fun _ _ h => h.elim

/-- Settles O11: the write touches the destination's eight bytes, completion the focus's context and the count of corrected errors the own core. -/
theorem aluFrame : Obligations.AluFrame := by
  unfold Obligations.AluFrame
  refine ⟨fun s t i rs d v h hb hr hwp ht => ?_, fun s a b hr => ⟨rfl, s.advance_pc hr, kept_advance s hr⟩⟩
  have hdone : exec i s = .next ((s.setW d v).advance.addCerrOn s.here (s.softRegs rs)) := by
    rw [exec_of_aluOf h]
    exact reading_done hb rfl rfl
  rw [hdone] at ht
  cases ht
  refine ⟨?_, kept_setW_advance s d v _ hr hwp, fun e he => ?_⟩
  · rw [State.addCerrOn_w, (s.setW d v).advance_w hr, State.w_setW_self]
  · rw [State.addCerrOn_w, (s.setW d v).advance_w hr, State.w_setW_ne _ _ (Ne.symm he)]

/-! ## Transfers of control (06 R133, R134) -/

theorem branch_eq (p : Word → Word → Bool) (rs : List (BitVec 4)) (a b : BitVec 4) (d : BitVec 27) (k : BitVec 5) (s : State) :
    branch p rs a b d k s =
      reading rs s (fun t => if p (s.w a) (s.w b) then enterAndLink t (target s.cx.pc d k) false else done t) :=
  reading_congr rfl

theorem beq_eq_decide (x y : Word) : (x == y) = decide (x = y) := rfl

theorem bne_eq_decide (x y : Word) : (x != y) = decide (x ≠ y) := by
  rw [bne, beq_eq_decide, decide_not]

theorem not_slt_eq_decide (x y : Word) : (!x.slt y) = decide (y.toInt ≤ x.toInt) := by
  rw [BitVec.slt, ← decide_not, decide_eq_decide, Int.not_lt]

theorem not_ult_eq_decide (x y : Word) : (!x.ult y) = decide (y.toNat ≤ x.toNat) := by
  rw [BitVec.ult, ← decide_not, decide_eq_decide, Nat.not_lt]

theorem some_quad_inj {α β γ δ : Type} {a a' : α} {b b' : β} {c c' : γ} {d d' : δ}
    (h : some (a, b, c, d) = some (a', b', c', d')) : a' = a ∧ b' = b ∧ c' = c ∧ d' = d := by
  cases h
  exact ⟨rfl, rfl, rfl, rfl⟩

/-- A transfer reads its registers; taken it enters its target, else it completes. -/
theorem exec_of_jumpOf {i : Instr} {rs : List (BitVec 4)} {taken : Bool} {t : Word} {link : Bool}
    (h : jumpOf s i = some (rs, taken, t, link)) :
    exec i s = reading rs s (fun s => if taken then enterAndLink s t link else done s) := by
  cases i
  case jr =>
    obtain ⟨hrs, htaken, ht, hlink⟩ := some_quad_inj h
    rw [hrs, htaken, ht, hlink, exec_jr, execJr]
    refine reading_congr ?_
    simp only [↓reduceIte]
  case callr =>
    obtain ⟨hrs, htaken, ht, hlink⟩ := some_quad_inj h
    rw [hrs, htaken, ht, hlink, exec_callr, execCallr]
    refine reading_congr ?_
    simp only [↓reduceIte]
  case b =>
    obtain ⟨hrs, htaken, ht, hlink⟩ := some_quad_inj h
    rw [hrs, htaken, ht, hlink, exec_b, reading_nil]
    simp only [↓reduceIte]
  case call =>
    obtain ⟨hrs, htaken, ht, hlink⟩ := some_quad_inj h
    rw [hrs, htaken, ht, hlink, exec_call, reading_nil]
    simp only [↓reduceIte]
  case bz =>
    obtain ⟨hrs, htaken, ht, hlink⟩ := some_quad_inj h
    rw [hrs, htaken, ht, hlink, exec_bz, branch_eq, beq_eq_decide]
  case bnz =>
    obtain ⟨hrs, htaken, ht, hlink⟩ := some_quad_inj h
    rw [hrs, htaken, ht, hlink, exec_bnz, branch_eq, bne_eq_decide]
  case blt =>
    obtain ⟨hrs, htaken, ht, hlink⟩ := some_quad_inj h
    rw [hrs, htaken, ht, hlink, exec_blt, branch_eq, BitVec.slt]
  case bge =>
    obtain ⟨hrs, htaken, ht, hlink⟩ := some_quad_inj h
    rw [hrs, htaken, ht, hlink, exec_bge, branch_eq, not_slt_eq_decide]
  case bltN =>
    obtain ⟨hrs, htaken, ht, hlink⟩ := some_quad_inj h
    rw [hrs, htaken, ht, hlink, exec_bltN, branch_eq, BitVec.ult]
  case bgeN =>
    obtain ⟨hrs, htaken, ht, hlink⟩ := some_quad_inj h
    rw [hrs, htaken, ht, hlink, exec_bgeN, branch_eq, not_ult_eq_decide]
  all_goals cases h

/-- A state whose focus has completed an instruction is over. -/
theorem State.over_setCx {v : State} {c : Ctx} (hcur : v.cur = s.cur) (hi : c.instrs = s.cx.instrs + 1) :
    s.over (v.setCx c) = true := by
  have hget : mget (v.setCx c).ctxs s.cur = some c := by simp [State.setCx, State.setCtx, hcur]
  simp [State.over, hget, hi]

/-- A transfer that is taken has its corrected errors counted once its target is entered. -/
theorem counting_enterAndLink {n : Nat} {t : Word} {link : Bool} {l : Line} {u : State} (hf : s.fetch s.cur t.toNat = .ok l u) :
    counting n s (enterAndLink s t link) =
      .next ((let v := if link then u.setW 15 (succPc s.cx.line s.cx.pc) else u
        v.setCx { v.cx.completed with pc := t, line := some l, walkFault := [] }).addCerrOn s.here n) := by
  have hfocus := State.fetch_ok_sameFocus hf
  rw [enterAndLink_ok s hf]
  refine counting_over s (State.over_setCx ?_ ?_)
  · split <;> exact hfocus.cur
  · have hinstrs : (if link then u.setW 15 (succPc s.cx.line s.cx.pc) else u).cx.instrs = s.cx.instrs := by
      split <;> exact congrArg Ctx.instrs hfocus.cx
    exact (Ctx.completed_instrs _).trans (congrArg (· + 1) hinstrs)

/-- Settles O12: every row of the table is the instruction; entering the target and going on both complete. -/
theorem transferResult : Obligations.TransferResult := by
  unfold Obligations.TransferResult
  refine ⟨fun s i rs t link l u h hb hf => ?_, fun s i rs t link h hb => ?_⟩
  · rw [exec_of_jumpOf h, reading_ok s hb]
    exact counting_enterAndLink hf
  · rw [exec_of_jumpOf h, reading_ok s hb]
    exact counting_done s rfl rfl

/-! ## MOV, SEL and SELZ (06 R130, R131) -/

/-- Major 0x07 is the selecting family. -/
theorem decodeRaw_encS_sel {n : Nat} (hn : n < 64) (a b c : BitVec 4) (imm : BitVec 6) :
    decodeRaw (encS 0x07 n a b c imm).1 (encS 0x07 n a b c imm).2 = decSel n a b c imm := by
  have hmajor : bitsOf (encS 0x07 n a b c imm).1 2 6 = 0x07 := bitsOf_headOf_major a b (by decide) (by decide)
  rw [decodeRaw, hmajor, decodeNear, hmajor]
  exact formS_encS a b c imm decSel (by decide : 0x07 < 64) hn

theorem decode_encS_sel {n : Nat} (hn : n < 64) (a b c : BitVec 4) (imm : BitVec 6) :
    decode (encS 0x07 n a b c imm).1 (encS 0x07 n a b c imm).2 =
      if bitsOf imm.toNat 4 2 = 0 then if n = 0 then some (.sel a b c imm) else if n = 1 then some (.selz a b c imm) else none
      else none := by
  rw [decode, decodeRaw_encS_sel hn]
  match n with
  | 0 =>
    have hwf : wellFormed (.sel a b c imm) = (bitsOf imm.toNat 4 2 == 0) := rfl
    simp [decSel, hwf]
  | 1 =>
    have hwf : wellFormed (.selz a b c imm) = (bitsOf imm.toNat 4 2 == 0) := rfl
    simp [decSel, hwf]
  | n + 2 => simp [decSel]

theorem toNat_setWidth_of_le {v w : Nat} (d : BitVec v) (h : v ≤ w) : (d.setWidth w).toNat = d.toNat := by
  rw [BitVec.toNat_setWidth, Nat.mod_eq_of_lt (d.isLt.trans_le (Nat.pow_le_pow_right (by decide) h))]

theorem decode_sel {n : Nat} (hn : n < 64) (a b c d : BitVec 4) :
    decode (a.toNat * 4096 + b.toNat * 256 + 0x07 * 4 + 1) (n * 1024 + c.toNat * 64 + d.toNat) =
      if n = 0 then some (.sel a b c (d.setWidth 6)) else if n = 1 then some (.selz a b c (d.setWidth 6)) else none := by
  have hd := toNat_setWidth_of_le d (by decide : 4 ≤ 6)
  have hclear : bitsOf (d.setWidth 6).toNat 4 2 = 0 := by
    rw [hd, bitsOf, Nat.div_eq_of_lt d.isLt]
    rfl
  have hdec := decode_encS_sel hn a b c (d.setWidth 6)
  rwa [if_pos hclear, encS, hd] at hdec

theorem decode_sel_reserved {n x : Nat} (hn : n < 64) (hlo : 16 ≤ x) (hx : x < 64) (a b c : BitVec 4) :
    decode (a.toNat * 4096 + b.toNat * 256 + 0x07 * 4 + 1) (n * 1024 + c.toNat * 64 + x) = none := by
  have hnat : (BitVec.ofNat 6 x).toNat = x := (BitVec.toNat_ofNat x 6).trans (Nat.mod_eq_of_lt hx)
  have hset : bitsOf (BitVec.ofNat 6 x).toNat 4 2 ≠ 0 := by
    rw [hnat, bitsOf]
    omega
  have hdec := decode_encS_sel hn a b c (BitVec.ofNat 6 x)
  rwa [if_neg hset, encS, hnat] at hdec

/-- Settles O56: the pairs are decoded field by field; the registers read decide between completion and X_ECC. -/
theorem moveAndSelect : Obligations.MoveAndSelect := by
  unfold Obligations.MoveAndSelect
  intro s a b c d h imm ends
  have hd : imm.setWidth 4 = d := by
    rw [BitVec.setWidth_setWidth_of_le _ (by decide), BitVec.setWidth_eq]
  refine ⟨encodeThenDecode (.mov a b) _ _ rfl rfl, encodeThenDecode (.mov 4 3) _ _ rfl rfl, fun n hn => decode_sel hn a b c d,
    fun n x hn hlo hx => decode_sel_reserved hn hlo hx a b c, decode_sel (n := 0) (by decide) 1 2 3 4,
    decode_sel (n := 1) (by decide) 1 2 3 4, fun hb => ?_, fun x hb => ?_, fun hb => ⟨?_, ?_⟩, fun x hb => ⟨?_, ?_⟩⟩
  · rw [exec_mov]
    exact reading_done hb rfl rfl
  · rw [exec_mov]
    exact reading_trap s hb _
  · rw [exec_sel, hd]
    exact reading_done hb rfl rfl
  · rw [exec_selz, hd]
    exact reading_done hb rfl rfl
  · rw [exec_sel, hd]
    exact reading_trap s hb _
  · rw [exec_selz, hd]
    exact reading_trap s hb _

end Sys2Proof.Machine

/-! PROOFS. Control registers, the writes that stand as steps of their own, and the workspace pointer (05 R101 to R110). -/

namespace Sys2Proof.Machine

variable {s : State}

/-! ## What a register write leaves of the focus (05 R103) -/

theorem State.cx_of_ctxs {t : State} (hctxs : t.ctxs = s.ctxs) (hcur : t.cur = s.cur) : t.cx = s.cx := by
  rw [State.cx, State.cx, State.ctx, State.ctx, hctxs, hcur]

@[simp] theorem State.updMember_ctxs (s : State) (h v : Nat) (f : Member → Member) : (s.updMember h v f).ctxs = s.ctxs := by
  unfold State.updMember
  split <;> rfl

@[simp] theorem State.updMember_cur (s : State) (h v : Nat) (f : Member → Member) : (s.updMember h v f).cur = s.cur := by
  unfold State.updMember
  split <;> rfl

@[simp] theorem State.updMem_ctxs (s : State) (f : Member → Member) : (s.updMem f).ctxs = s.ctxs := s.updMember_ctxs _ _ f

@[simp] theorem State.updMem_cur (s : State) (f : Member → Member) : (s.updMem f).cur = s.cur := s.updMember_cur _ _ f

@[simp] theorem State.register_ctxs (s : State) (h kind heir : Nat) (o : Nat × Nat) : (s.register h kind heir o).1.ctxs = s.ctxs := by
  unfold State.register
  split <;> rfl

@[simp] theorem State.register_cur (s : State) (h kind heir : Nat) (o : Nat × Nat) : (s.register h kind heir o).1.cur = s.cur := by
  unfold State.register
  split <;> rfl

/-- What each step of a fold keeps, the fold keeps. -/
theorem foldl_keeps {α β γ : Type} {f : α → β → α} {p : α → γ} (h : ∀ x y, p (f x y) = p x) (l : List β) (x : α) :
    p (l.foldl f x) = p x := by
  induction l generalizing x with
  | nil => rfl
  | cons y r ih => exact (ih (f x y)).trans (h x y)

/-- The focus's context is at hand and counts as many instructions as before. -/
def SameCount (s t : State) : Prop := t.cur = s.cur ∧ t.cx.instrs = s.cx.instrs

theorem SameCount.of_ctxs {t : State} (hctxs : t.ctxs = s.ctxs) (hcur : t.cur = s.cur) : SameCount s t :=
  ⟨hcur, congrArg Ctx.instrs (State.cx_of_ctxs hctxs hcur)⟩

theorem SameCount.setCx {c : Ctx} (h : c.instrs = s.cx.instrs) : SameCount s (s.setCx c) := ⟨rfl, by simpa using h⟩

theorem Ctx.writePctl_instrs (c : Ctx) (v : Word) : (c.writePctl v).instrs = c.instrs := by
  unfold Ctx.writePctl
  split <;> rfl

theorem State.writeRate_ok {n : Nat} {v : Word} {t : State} (h : s.writeRate n v = .ok t) : SameCount s t := by
  unfold State.writeRate at h
  split at h
  · cases h
    exact .setCx rfl
  · cases h

theorem State.writePortb_ok {v : Word} {t : State} (h : s.writePortb v = .ok t) : SameCount s t := by
  unfold State.writePortb at h
  split at h
  · cases h
    exact ⟨rfl, rfl⟩
  · dsimp only at h
    split at h
    · cases h
    · cases h
      exact .of_ctxs (State.updMem_ctxs s _) (State.updMem_cur s _)

theorem State.writeBar_ok {n : Nat} {v : Word} {t : State} (h : s.writeBar n v = .ok t) : SameCount s t := by
  unfold State.writeBar at h
  split at h
  · cases h
    exact ⟨rfl, rfl⟩
  · dsimp only at h
    split at h
    · cases h
    · split at h
      · cases h
      · cases h
        exact .of_ctxs (State.updMem_ctxs s _) (State.updMem_cur s _)

/-- The holding of a queue area that is given up. -/
def State.dropArea (s : State) : State :=
  if qbaseEn s.mem.qbase then
    match s.holderOf 6 (0, spadLoc s.cx.group s.cx.vcore (qbaseAddr s.mem.qbase)) with
    | some e => s.unregister e.1
    | none => s
  else s

@[simp] theorem State.dropArea_ctxs (s : State) : s.dropArea.ctxs = s.ctxs := by
  unfold State.dropArea
  split
  · split <;> rfl
  · rfl

@[simp] theorem State.dropArea_cur (s : State) : s.dropArea.cur = s.cur := by
  unfold State.dropArea
  split
  · split <;> rfl
  · rfl

@[simp] theorem State.wrBytesS_ctxs (s : State) (core off : Nat) (bs : List Byte) : (s.wrBytesS core off bs).ctxs = s.ctxs := by
  unfold State.wrBytesS
  split <;> rfl

@[simp] theorem State.wrBytesS_cur (s : State) (core off : Nat) (bs : List Byte) : (s.wrBytesS core off bs).cur = s.cur := by
  unfold State.wrBytesS
  split <;> rfl

/-- An area with its bytes and tags cleared (16 R285). -/
def State.clearArea (s : State) (core a : Nat) : State :=
  (upTo 272).foldl (fun s i => s.setTag core (a + 8 * i) false) (s.wrBytesS core a (List.replicate 2176 0))

@[simp] theorem State.clearArea_ctxs (s : State) (core a : Nat) : (s.clearArea core a).ctxs = s.ctxs := by
  unfold State.clearArea
  exact (foldl_keeps (f := fun (s : State) i => s.setTag core (a + 8 * i) false) (p := State.ctxs) (fun _ _ => rfl) _ _).trans
    (State.wrBytesS_ctxs ..)

@[simp] theorem State.clearArea_cur (s : State) (core a : Nat) : (s.clearArea core a).cur = s.cur := by
  unfold State.clearArea
  exact (foldl_keeps (f := fun (s : State) i => s.setTag core (a + 8 * i) false) (p := State.cur) (fun _ _ => rfl) _ _).trans
    (State.wrBytesS_cur ..)

theorem ite_bad_ok {p : Prop} [Decidable p] {o : CrOut} {t : State} (h : (if p then .bad else o) = .ok t) : o = .ok t := by
  split at h
  · cases h
  · exact h

theorem ite_wait_ok {p : Prop} [Decidable p] {o : CrOut} {t : State} (h : (if p then .wait else o) = .ok t) : o = .ok t := by
  split at h
  · cases h
  · exact h

/-- An accepted write of QBASE gives up the old area and, where it enables one, clears and registers the new. -/
theorem State.writeQbase_cases {v : Word} {t : State} (h : s.writeQbase v = .ok t) :
    t = s.dropArea.updMem (fun m => { m with qbase := v }) ∨
      t = (((s.dropArea.clearArea s.here (qbaseAddr v)).updMem (fun m => { m with qbase := v, qever := true })).register
        s.cx.group 6 0 (0, spadLoc s.cx.group s.cx.vcore (qbaseAddr v))).1 := by
  unfold State.writeQbase at h
  dsimp only at h
  replace h := ite_bad_ok h
  split at h
  case isTrue => exact .inl (CrOut.ok.inj h).symm
  case isFalse => exact .inr (CrOut.ok.inj (ite_wait_ok (ite_bad_ok (ite_bad_ok h)))).symm

theorem State.writeQbase_ok {v : Word} {t : State} (h : s.writeQbase v = .ok t) : SameCount s t := by
  obtain rfl | rfl := State.writeQbase_cases h
  · exact .of_ctxs (by simp) (by simp)
  · exact .of_ctxs (by simp) (by simp)

/-- An accepted register write keeps the focus and counts no instruction. -/
theorem State.writeCr_ok {n : Nat} {v : Word} {t : State} (h : s.writeCr n v = .ok t) : SameCount s t := by
  unfold State.writeCr at h
  dsimp only at h
  split at h
  · cases h
    exact .setCx (s.cx.writePctl_instrs v)
  · split at h
    · cases h
      exact .of_ctxs rfl rfl
    · split at h
      · cases h
        exact .setCx rfl
      · split at h
        · cases h
          split
          · exact .setCx rfl
          · exact ⟨rfl, rfl⟩
        · split at h
          · exact State.writeRate_ok h
          · split at h
            · exact State.writeQbase_ok h
            · split at h
              · exact State.writePortb_ok h
              · split at h
                · exact State.writeBar_ok h
                · split at h
                  · cases h
                    exact ⟨rfl, rfl⟩
                  · cases h
                    exact .setCx rfl

/-! ## The four instructions (05 R103) -/

theorem bitsOf_add_mul_pow {hi x lo w k : Nat} (h : lo + w ≤ k) : bitsOf (hi * 2 ^ k + x) lo w = bitsOf x lo w := by
  obtain ⟨d, rfl⟩ := Nat.exists_eq_add_of_le h
  have hsplit : hi * 2 ^ (lo + w + d) + x = x + 2 ^ lo * (2 ^ w * (hi * 2 ^ d)) := by
    rw [Nat.pow_add, Nat.pow_add]
    ring
  rw [bitsOf, bitsOf, hsplit, Nat.add_mul_div_left _ _ (Nat.two_pow_pos lo), Nat.add_mul_mod_self_left]

/-- The register's number stands in the low bits of the tail. -/
theorem bitsOf_tail_crNo (minor : Nat) (c : BitVec 4) (imm : BitVec 22) :
    bitsOf (minor * 67108864 + c.toNat * 4194304 + imm.toNat) 0 12 = crNo imm := by
  have hsplit : minor * 67108864 + c.toNat * 4194304 + imm.toNat = (minor * 16 + c.toNat) * 2 ^ 22 + imm.toNat := by omega
  rw [hsplit]
  exact bitsOf_add_mul_pow (by decide)

theorem checked_privilege {i : Instr} {h t : Nat} (hd : decodeCause s i = some xPrivilege) (he : encode i = some (h, t)) (k : Out) :
    checked i s k = .next (s.takeTrap xPrivilege (toWord (bitsOf t 0 12)) s.cx.pc) := by
  simp [checked, hd, he, trap]

section

variable (a b c : BitVec 4) (imm : BitVec 22) (s : State)

theorem exec_crr : exec (.crr a b c imm) s = checked (.crr a b c imm) s (done (s.setW a (s.readCr (crNo imm)))) := by rfl

theorem exec_crw : exec (.crw a b c imm) s = checked (.crw a b c imm) s
    (reading [a] s fun s => crWrite (.crw a b c imm) (crNo imm) (s.w a) id s) := by rfl

theorem exec_crs : exec (.crs a b c imm) s = checked (.crs a b c imm) s (reading [b] s fun s =>
    crWrite (.crs a b c imm) (crNo imm) (s.readCr (crNo imm) ||| s.w b) (fun t => t.setW a (s.readCr (crNo imm))) s) := by rfl

theorem exec_crc : exec (.crc a b c imm) s = checked (.crc a b c imm) s (reading [b] s fun s =>
    crWrite (.crc a b c imm) (crNo imm) (s.readCr (crNo imm) &&& ~~~(s.w b)) (fun t => t.setW a (s.readCr (crNo imm))) s) := by
  rfl

end

theorem crPriv_none {n : Nat} (h : (n ≠ 0x011 ∧ n ≠ 0x023) ∨ s.cx.sup = true) : crPriv s n = none := by
  rw [crPriv, if_neg]
  rintro ⟨hn, hu⟩
  obtain ⟨h1, h2⟩ | h := h
  · exact hn.elim h1 h2
  · exact hu h

theorem crPriv_some {n : Nat} (hn : n = 0x011 ∨ n = 0x023) (hu : s.cx.sup = false) : crPriv s n = some xPrivilege := by
  rw [crPriv, if_pos ⟨hn, by simp [hu]⟩]

/-- Whether a change of a register is open to the focus (05 R101). -/
def State.mayChange (s : State) (n : Nat) (new : Word) : Prop :=
  s.cx.sup = true ∨ (s.readCr n ^^^ new) &&& toWord (crRs n) = 0

theorem crWrite_ok {i : Instr} {n : Nat} {new : Word} {after : State → State} {t : State} (hm : s.mayChange n new)
    (h : s.writeCr n new = .ok t) : crWrite i n new after s = done (after t) := by
  rw [crWrite, if_neg, h]
  rintro ⟨hu, hne⟩
  exact hm.elim hu hne

theorem crWrite_denied {i : Instr} {n : Nat} {new : Word} {after : State → State} (hm : ¬ s.mayChange n new) :
    crWrite i n new after s = .next (s.takeTrap xPrivilege (toWord n) s.cx.pc) := by
  rw [crWrite, if_pos (not_or.1 hm)]
  rfl

/-- A register write that is accepted completes, with the corrected errors of its reads counted. -/
theorem reading_crWrite_ok {i : Instr} {rs : List (BitVec 4)} {n : Nat} {new : State → Word} {after : State → State → State}
    {t : State} (hb : s.regBad rs = none) (hm : s.mayChange n (new s)) (h : s.writeCr n (new s) = .ok t)
    (hafter : SameCount t (after s t)) :
    reading rs s (fun s => crWrite i n (new s) (after s) s) =
      .next ((after s t).advance.addCerrOn s.here (s.softRegs rs)) := by
  obtain ⟨hcur, hinstrs⟩ := State.writeCr_ok h
  obtain ⟨hcur', hinstrs'⟩ := hafter
  rw [reading_ok s hb, crWrite_ok hm h]
  exact counting_done s (hcur'.trans hcur) (hinstrs'.trans hinstrs)

theorem reading_crWrite_denied {i : Instr} {rs : List (BitVec 4)} {n : Nat} {new : State → Word} {after : State → State → State}
    (hb : s.regBad rs = none) (hm : ¬ s.mayChange n (new s)) :
    reading rs s (fun s => crWrite i n (new s) (after s) s) =
      counting (s.softRegs rs) s (.next (s.takeTrap xPrivilege (toWord n) s.cx.pc)) := by
  rw [reading_ok s hb, crWrite_denied hm]

/-! ## What a write leaves in its register (05 R101, R103) -/

/-- A register without a rule of its own takes the writable bits. -/
theorem State.writeCr_plain {n : Nat} (new : Word) (hn : n < 0x021) (hm : crMask n ≠ 0) (hr : s.readCr n = s.cx.get n) :
    ∃ t, s.writeCr n new = .ok t ∧
      t.cx.get n = (new &&& toWord (crMask n)) ||| (s.cx.get n &&& ~~~(toWord (crMask n))) := by
  have hwrite : s.writeCr n new =
      .ok (s.setCx (s.cx.set n ((new &&& toWord (crMask n)) ||| (s.cx.get n &&& ~~~(toWord (crMask n)))))) := by
    have h1 : n ≠ 0x021 := by omega
    have h2 : n ≠ 0x037 := by omega
    have h3 : n ≠ 0x045 := by omega
    have h4 : n ≠ 0x047 := by omega
    have h5 : ¬ (0x050 ≤ n ∧ n ≤ 0x06F) := by omega
    have h6 : n ≠ 0x082 := by omega
    have h7 : n ≠ 0x0A0 := by omega
    have h8 : ¬ (0x0B0 ≤ n ∧ n ≤ 0x0B7) := by omega
    simp only [State.writeCr, hr, if_neg h1, if_neg h2, if_neg h3, if_neg h4, if_neg h5, if_neg h6, if_neg h7, if_neg h8,
      if_neg hm]
  exact ⟨_, hwrite, by simp⟩

theorem State.writeCr_whole {n : Nat} (new : Word) (hn : n ∈ [0x001, 0x003, 0x004, 0x005, 0x006]) :
    ∃ t, s.writeCr n new = .ok t ∧ t.cx.get n = new := by
  have hmask : crMask n = 0xFFFFFFFFFFFFFFFF ∧ n < 0x021 ∧ s.readCr n = s.cx.get n := by
    fin_cases hn <;> exact ⟨rfl, by decide, rfl⟩
  obtain ⟨hm, hlt, hr⟩ := hmask
  obtain ⟨t, ht, hget⟩ := State.writeCr_plain new hlt (by rw [hm]; decide) hr
  have hall : toWord 0xFFFFFFFFFFFFFFFF = BitVec.allOnes 64 := by decide
  refine ⟨t, ht, hget.trans ?_⟩
  rw [hm, hall, BitVec.and_allOnes, BitVec.not_allOnes, BitVec.and_zero, BitVec.or_zero]

theorem State.writeCr_kept {n : Nat} (new : Word) (hn : n ∈ [0x010, 0x011, 0x012, 0x013, 0x014, 0x020, 0x0F1]) :
    s.writeCr n new = .ok s := by
  fin_cases hn <;> rfl

/-- Settles O13: the privilege check comes first, an accepted write completes, and each register's mask says which bits it takes. -/
theorem crAccess : Obligations.CrAccess := by
  unfold Obligations.CrAccess
  refine ⟨fun s a b c imm => ⟨fun hp => ?_, fun hn hu => ?_⟩, fun s t a b c imm hp => ?_, fun s new => ?_⟩
  · rw [exec_crr, checked_ok s (i := .crr a b c imm) (crPriv_none hp)]
    rfl
  · have hpriv := crPriv_some hn hu
    refine ⟨?_, ?_, ?_, ?_⟩
    · rw [exec_crr, checked_privilege (i := .crr a b c imm) hpriv rfl, bitsOf_tail_crNo]
      rfl
    · rw [exec_crw, checked_privilege (i := .crw a b c imm) hpriv rfl, bitsOf_tail_crNo]
      rfl
    · rw [exec_crs, checked_privilege (i := .crs a b c imm) hpriv rfl, bitsOf_tail_crNo]
      rfl
    · rw [exec_crc, checked_privilege (i := .crc a b c imm) hpriv rfl, bitsOf_tail_crNo]
      rfl
  · have hpriv := crPriv_none hp
    refine ⟨fun hb => ⟨fun hm hw => ?_, fun hm => ?_⟩, fun hb => ⟨fun hm hw => ?_, fun hm => ?_, fun hm hw => ?_, fun hm => ?_⟩⟩
    · rw [exec_crw, checked_ok s (i := .crw a b c imm) hpriv]
      exact reading_crWrite_ok (new := fun s => s.w a) (after := fun _ => id) hb hm hw ⟨rfl, rfl⟩
    · rw [exec_crw, checked_ok s (i := .crw a b c imm) hpriv]
      exact reading_crWrite_denied (new := fun s => s.w a) (after := fun _ => id) hb hm
    · rw [exec_crs, checked_ok s (i := .crs a b c imm) hpriv]
      exact reading_crWrite_ok (new := fun s => s.readCr (crNo imm) ||| s.w b) hb hm hw ⟨rfl, rfl⟩
    · rw [exec_crs, checked_ok s (i := .crs a b c imm) hpriv]
      exact reading_crWrite_denied (new := fun s => s.readCr (crNo imm) ||| s.w b) hb hm
    · rw [exec_crc, checked_ok s (i := .crc a b c imm) hpriv]
      exact reading_crWrite_ok (new := fun s => s.readCr (crNo imm) &&& ~~~(s.w b)) hb hm hw ⟨rfl, rfl⟩
    · rw [exec_crc, checked_ok s (i := .crc a b c imm) hpriv]
      exact reading_crWrite_denied (new := fun s => s.readCr (crNo imm) &&& ~~~(s.w b)) hb hm
  · exact ⟨State.writeCr_plain new (by decide) (by decide) rfl, State.writeCr_plain new (by decide) (by decide) rfl,
      fun n hn => State.writeCr_whole new hn, fun n hn => State.writeCr_kept new hn⟩

/-! ## Writes as steps of their own (95) -/

theorem forCid_next {cid : Nat} (h : (mget s.ctxs cid).isSome = true) (f : State → State) :
    forCid cid s f = .next { f (s.asCid cid) with cur := s.cur } := if_pos h

theorem forCid_orElse {cid : Nat} (h : (mget s.ctxs cid).isSome = true) {f : State → CrOut} {t : State}
    (hf : f (s.asCid cid) = .ok t) : forCid cid s (fun s => (f s).orElse s) = .next { t with cur := s.cur } := by
  rw [forCid_next h, hf]
  rfl

theorem Ctx.get_writePctl (c : Ctx) (v : Word) :
    (c.writePctl v).get 0x021 &&& 0x80000000FFFFFFFF = v &&& 0x80000000FFFFFFFF := by
  have hself : (v &&& 0x80000000FFFFFFFF) &&& 0x80000000FFFFFFFF = v &&& 0x80000000FFFFFFFF := by
    rw [BitVec.and_assoc, BitVec.and_self]
  unfold Ctx.writePctl
  split
  · rw [Ctx.get_set_ne _ _ (by decide), Ctx.get_set_self, hself]
  · have hout : (0x4000000000000000 &&& 0x80000000FFFFFFFF : Word) = 0 := by decide
    rw [Ctx.get_set_self, BitVec.and_or_distrib_right, hself, BitVec.and_assoc, hout]
    simp

section

variable (s : State) (cid : Nat) (v : Word)

theorem exec_satcntWrite : exec (.satcntWrite cid v) s = forCid cid s (fun s => s.writeSatcnt v) := by rfl

theorem exec_bmodeWrite : exec (.bmodeWrite cid v) s = forCid cid s (fun s => s.writeBmode v) := by rfl

theorem exec_pctlWrite : exec (.pctlWrite cid v) s = forCid cid s (fun s => s.setCx (s.cx.writePctl v)) := by rfl

theorem exec_fprogvAbandon : exec (.fprogvAbandon cid) s = forCid cid s (fun s => s.abandonFstep) := by rfl

end

/-- Settles O14: each step is the register write for its context, with the focus put back. -/
theorem registerWriteSteps : Obligations.RegisterWriteSteps := by
  unfold Obligations.RegisterWriteSteps
  intro s t cid n v hctx u
  refine ⟨fun h => forCid_orElse (f := fun s => s.writeCr 0x082 v) hctx h,
    fun h => forCid_orElse (f := fun s => s.writeCr 0x0A0 v) hctx h,
    fun h => forCid_orElse (f := fun s => s.writeCr (0x0B0 + n % 8) v) hctx h,
    fun h => forCid_orElse (f := fun s => s.writeRate (0x050 + n % 32) v) hctx h,
    ⟨_, (exec_satcntWrite ..).trans (forCid_next hctx _), rfl, ?_⟩, ⟨_, (exec_bmodeWrite ..).trans (forCid_next hctx _), rfl, ?_⟩,
    ⟨_, (exec_pctlWrite ..).trans (forCid_next hctx _), rfl, ?_⟩, ⟨_, (exec_fprogvAbandon ..).trans (forCid_next hctx _), rfl, ?_⟩⟩
  · have hcore : (u.writeSatcnt v).core u.here =
        { u.core u.here with satcnt := mput (u.core u.here).satcnt (u.cx.fld 0x035 0 6) (v.toNat % 2 ^ 32) } :=
      u.core_setCore_self u.here _
    exact (congrArg (fun k => mget k.satcnt (u.cx.fld 0x035 0 6)) hcore).trans (mget_mput_self _ _ _)
  · have hctx' : (u.writeBmode v).ctx cid = u.cx.set 0x045 (v &&& 1) := u.ctx_setCtx_self cid _
    exact (congrArg (fun c => c.get 0x045) hctx').trans (u.cx.get_set_self _ _)
  · have hctx' : (u.setCx (u.cx.writePctl v)).ctx cid = u.cx.writePctl v := u.ctx_setCtx_self cid _
    exact (congrArg (fun c => c.get 0x021 &&& 0x80000000FFFFFFFF) hctx').trans (u.cx.get_writePctl v)
  · have hctx' : u.abandonFstep.ctx cid = u.cx.setFld 0x047 0 1 0 := u.ctx_setCtx_self cid _
    exact (congrArg (fun c => c.fld 0x047 0 1) hctx').trans (u.cx.fld_setFld_self (by decide))

/-! ## WPSET and YIELD (05 R109, R110) -/

/-- WPSET of a word, once its register is read. -/
def State.moveWp (s : State) (n : Nat) : Out :=
  if n % 128 ≠ 0 then trap s xMisalign (toWord n)
  else if n < 128 ∨ 0x20000 < n + s.cx.foot then trap s xAccess (toWord n)
  else
    match inArea s.mem.qbase (n - 64) (64 + s.cx.foot) with
    | some x => trap s xAccess (toWord x)
    | none =>
      if ¬ (s.lockBytes s.cur).isEmpty ∨ s.unlanded s.cur then stall s
      else done (s.setCx { s.cx with wp := n })

theorem exec_wpset (a b c : BitVec 4) (imm : BitVec 6) (s : State) :
    exec (.wpset a b c imm) s = reading [a] s (fun s => s.moveWp (s.w a).toNat) := by rfl

theorem exec_yield (a b c : BitVec 4) (imm : BitVec 6) (s : State) : exec (.yield a b c imm) s =
    if s.otherReady s.cur then .next (s.advance.depart s.advance.cur s.advance.cx.pc .ready) else .next s.advance := by
  rfl

theorem State.moveWp_ok (h : s.calm = true) {n : Nat} (hal : n % 128 = 0) (hlo : 128 ≤ n) (hhi : n + s.cx.foot ≤ 0x20000)
    (harea : inArea s.mem.qbase (n - 64) (64 + s.cx.foot) = none) :
    s.moveWp n = .next (s.setCx { s.cx with wp := n }).advance := by
  have hfree : ¬ (¬ (s.lockBytes s.cur).isEmpty = true ∨ s.unlanded s.cur = true) := by
    simp [s.calm_lockBytes h, s.calm_unlanded h]
  rw [State.moveWp, if_neg (not_not.2 hal), if_neg (by omega), harea]
  exact if_neg hfree

theorem State.moveWp_misaligned {n : Nat} (hal : n % 128 ≠ 0) :
    s.moveWp n = .next (s.takeTrap xMisalign (toWord n) s.cx.pc) := if_pos hal

theorem State.moveWp_outside {n : Nat} (hal : n % 128 = 0) (hout : n < 128 ∨ 0x20000 < n + s.cx.foot) :
    s.moveWp n = .next (s.takeTrap xAccess (toWord n) s.cx.pc) := by
  rw [State.moveWp, if_neg (not_not.2 hal), if_pos hout]
  rfl

/-- Settles O15: with a calm focus nothing is locked or in flight; YIELD asks whether another context is READY. -/
theorem workspaceAndYield : Obligations.WorkspaceAndYield := by
  unfold Obligations.WorkspaceAndYield
  intro s a b c imm h
  have hrep := s.calm_rep h
  have hread (k : State → Out) := reading_calm s h [a] k
  refine ⟨⟨fun hal hlo hhi harea => ?_, fun hal => ?_, fun hal hout => ?_⟩, fun hr => ?_, fun hr => ?_⟩
  · rw [exec_wpset, hread]
    exact State.moveWp_ok h hal hlo hhi harea
  · rw [exec_wpset, hread, State.moveWp_misaligned hal, toWord_toNat]
    rfl
  · rw [exec_wpset, hread, State.moveWp_outside hal hout, toWord_toNat]
    rfl
  · rw [exec_yield, hr]
    rfl
  · rw [exec_yield, hr, if_pos rfl, s.advance_eq hrep]
    rfl

end Sys2Proof.Machine

/-! PROOFS. Loads, stores, atomics and reductions (08 R168 to R177): each is one form that is aligned and then accesses memory, and an access leaves the count of instructions to the completion. -/

namespace Sys2Proof.Machine

variable {s : State}

/-! ## What an access leaves of the focus -/

theorem SameCount.refl (s : State) : SameCount s s := ⟨rfl, rfl⟩

theorem SameCount.trans {s t u : State} (h : SameCount s t) (h' : SameCount t u) : SameCount s u :=
  ⟨h'.1.trans h.1, h'.2.trans h.2⟩

theorem SameFocus.sameCount {t : State} (h : SameFocus s t) : SameCount s t := .of_ctxs h.ctxs h.cur

/-- What each step keeps of the focus's count, a fold keeps. -/
theorem SameCount.foldl {β : Type} {f : State → β → State} (h : ∀ t x, SameCount t (f t x)) (l : List β) (s : State) :
    SameCount s (l.foldl f s) := by
  induction l generalizing s with
  | nil => exact .refl s
  | cons x r ih => exact (h s x).trans (ih (f s x))

theorem State.sameCount_store (s : State) (l : Loc) (n v : Nat) : SameCount s (s.store l n v) := by
  cases l with
  | spad core off => exact .of_ctxs (State.wrBytesS_ctxs ..) (State.wrBytesS_cur ..)
  | hbm pa => exact .of_ctxs rfl rfl

theorem State.sameCount_performAt (s : State) (op : ReqOp) (l : Loc) (size origin : Nat) :
    SameCount s (s.performAt op l size origin).1 := by
  unfold State.performAt
  split
  · exact s.sameCount_store l size _
  · exact .refl s

theorem State.sameCount_softRead (s : State) (core : Nat) (l : Loc) (n : Nat) : SameCount s (s.softRead core l n) :=
  (State.sameFocus_addCerrOn _ _).sameCount

theorem State.sameCount_opRead (s : State) (op : ReqOp) (core : Nat) (l : Loc) (n : Nat) :
    SameCount s (s.opRead op core l n) := by
  unfold State.opRead
  split
  · exact s.sameCount_softRead core l n
  · exact .refl s

theorem State.sameCount_readPerform (s : State) (op : ReqOp) (core : Nat) (l : Loc) (n origin : Nat) :
    SameCount s ((s.opRead op core l n).performAt op l n origin).1 :=
  (s.sameCount_opRead op core l n).trans (State.sameCount_performAt _ op l n origin)

theorem State.sameCount_usePlace (s : State) (a : At) : SameCount s (s.usePlace a) := by
  unfold State.usePlace State.placeFill
  split
  · split
    · exact .refl s
    · dsimp only
      split
      · exact .refl s
      · exact .of_ctxs rfl rfl
  · exact .refl s

theorem State.sameCount_useTlb (s : State) (e : Elem) (a : At) : SameCount s (s.useTlb e a) := by
  unfold State.useTlb
  split
  · exact (State.sameFocus_useXl _ _ _ _).sameCount
  · exact .refl s

theorem State.sameCount_countEv (s : State) (code n : Nat) : SameCount s (s.countEv code n) :=
  .setCx (s.cx.count_instrs code n)

theorem State.sameCount_putReq (s : State) (r : Req) : SameCount s (s.putReq r) := by
  have hput : SameCount s { s with reqs := s.reqs ++ [r], uid := s.uid + 1 } := .of_ctxs rfl rfl
  unfold State.putReq
  dsimp only
  split
  · exact hput
  · have hstall (t : State) (cl p : Nat) : SameCount t (t.countPermitStall cl p) := .of_ctxs rfl rfl
    split
    · exact (hput.trans (hstall _ _ _)).trans (State.sameCount_countEv _ 8 1)
    · exact hput.trans (hstall _ _ _)

theorem State.sameCount_sendElem (s : State) (batch scope : Nat) (after : List Nat) (x : Elem × At) :
    SameCount s (s.sendElem batch scope after x) := by
  have huse : SameCount s ((s.usePlace x.2).useTlb x.1 x.2) := (s.sameCount_usePlace x.2).trans (State.sameCount_useTlb _ _ _)
  unfold State.sendElem
  dsimp only
  split
  · split
    · exact huse.trans (State.sameCount_readPerform _ _ _ _ _ _)
    · exact (huse.trans (State.sameCount_readPerform _ _ _ _ _ _)).trans (.of_ctxs rfl rfl)
  · exact huse.trans (State.sameCount_putReq _ _)

theorem State.sameCount_landAll (s : State) (core : Nat) (ws : List (Nat × Nat × Nat)) : SameCount s (s.landAll core ws) :=
  .foldl (f := fun s (w : Nat × Nat × Nat) => s.wrS core w.1 w.2.1 w.2.2) (fun _ _ => .of_ctxs rfl rfl) ws s

theorem State.sameCount_nearAll (s : State) (scope : Nat) (xs : List (Elem × At)) : SameCount s (s.nearAll scope xs) := by
  have hgo (p : State × List (Nat × Nat × Nat)) (h : SameCount s p.1) :
      SameCount s (xs.foldl (fun (p : State × List (Nat × Nat × Nat)) x =>
        let l := p.1.locOf x.2
        let q := (p.1.opRead x.1.op s.here l x.1.size).performAt x.1.op l x.1.size (originAt l s.here scope)
        (q.1, if x.1.dsize = 0 then p.2
          else p.2 ++ [(x.1.dst, x.1.dsize, extendTo x.1.sx x.1.size x.1.dsize q.2)])) p).1 := by
    induction xs generalizing p with
    | nil => exact h
    | cons x r ih =>
      exact ih _ (h.trans (State.sameCount_readPerform _ _ _ _ _ _))
  unfold State.nearAll
  exact (hgo (s, []) (.refl s)).trans (State.sameCount_landAll _ _ _)

theorem State.sameCount_releaseAt (s : State) (scope : Nat) : SameCount s (s.releaseAt scope) := by
  unfold State.releaseAt
  split <;> exact .of_ctxs rfl rfl

theorem State.sameCount_progress (s : State) (h : Nat) : SameCount s (s.progress h) := by
  unfold State.progress
  split <;> exact .of_ctxs rfl rfl

theorem State.sameCount_noteBrvAt (s : State) (l : Loc) (a : Word) : SameCount s (s.noteBrvAt l a) := by
  unfold State.noteBrvAt
  split
  · exact .setCx rfl
  · exact .refl s

theorem State.sameCount_namesWords (s : State) (xs : List (Elem × At)) : SameCount s (s.namesWords xs) := by
  unfold State.namesWords
  split
  · exact .refl s
  · exact .foldl (f := fun (s : State) (w : Loc × Nat) => s.noteBrvAt w.1 (toWord w.2))
      (fun t w => t.sameCount_noteBrvAt w.1 _) _ s

/-- An access that passed its checks has not yet been counted as an instruction. -/
theorem State.sameCount_commit (s : State) (scope : Nat) (acq rel : Bool) (xs : List (Elem × At)) :
    SameCount s (s.commit scope acq rel xs) := by
  unfold State.commit
  dsimp only
  generalize hu : (if rel = true then s.releaseAt scope else s) = u
  have h0 : SameCount s u := by
    rw [← hu]
    split
    · exact s.sameCount_releaseAt scope
    · exact .refl s
  generalize hv : (if (xs.all fun x => u.atOnce x.1 x.2) = true then u.nearAll scope xs
    else u.sendAll scope (s.afterOf scope rel (xs.any fun x => x.1.op.reads) (xs.any fun x => x.1.op.writes)) xs) = v
  have h1 : SameCount s v := by
    rw [← hv]
    split
    · exact h0.trans (u.sameCount_nearAll scope xs)
    · exact h0.trans (.foldl (fun t x => t.sameCount_sendElem _ scope _ x) xs u)
  generalize hw : (if acq = true ∧ 1 ≤ scope then v.setCx (v.cx.gate
      ((v.reqs.filter fun r => decide (s.uid ≤ r.id) && r.unperformed && r.cid == s.cur).map fun r => r.id)
      ((v.reqs.filter fun r => decide (s.uid ≤ r.id) && r.unperformed && r.cid == s.cur).map fun r => r.id)) else v) = w
  have h2 : SameCount s w := by
    rw [← hw]
    split
    · exact h1.trans (.setCx rfl)
    · exact h1
  have h3 (y : Option (Nat × Nat × Nat × Nat)) : SameCount s (w.setCx { w.cx with walkFault := [], repLoad := y }) :=
    h2.trans (.setCx rfl)
  refine SameCount.trans ?_ (State.sameCount_namesWords _ xs)
  split
  · exact (h3 _).trans (State.sameCount_progress _ _)
  · exact h3 _

/-! ## The forms (08 R169 to R173) -/

theorem aligned_of_le {n addr : Nat} (hn : n ≤ 8) (k : Out) :
    aligned n addr s k = if addr % n ≠ 0 then trap s xMisalign (toWord addr) else k := by
  have hmin : min n 8 = n := Nat.min_eq_left hn
  have hne : n ≠ 16 := by omega
  rw [aligned, hmin, if_neg fun h : ¬ oneRange addr n = true ∧ n = 16 => hne h.2]

/-- What an instruction of a form does: it reads its registers, is aligned, and accesses memory. -/
def MemForm.run (f : MemForm) (s : State) : Out :=
  reading f.regs s fun _ => aligned f.n f.addr.toNat s (access f.scope f.acq f.rel f.es id s)

section

variable (s : State) (n : Nat) (sx : Bool) (a b c : BitVec 4)

theorem ldM_eq (imm : BitVec 22) : ldM n sx a b imm s = (ldForm s [b] n sx a (s.w b + imm.signExtend 64)).run s :=
  reading_congr rfl

theorem stM_eq (imm : BitVec 22) : stM n a b imm s = (stForm s [b] n a (s.w b + imm.signExtend 64)).run s :=
  reading_congr rfl

theorem ldS_eq : ldS n sx a b c s = (ldForm s [b, c] n sx a (s.w b + toWord n * s.w c)).run s := by
  rw [mul_comm]
  exact reading_congr rfl

theorem stS_eq : stS n a b c s = (stForm s [b, c] n a (s.w b + toWord n * s.w c)).run s := by
  rw [mul_comm]
  exact reading_congr rfl

theorem amoSize_le (imm : BitVec 6) : amoSize imm ≤ 8 := by
  unfold amoSize
  split <;> decide

theorem amo_eq (op : Nat) (imm : BitVec 6) : amo op a b c imm s = (amoForm s op a b c imm).run s := by
  unfold amo MemForm.run amoForm
  refine reading_congr ?_
  dsimp only
  rw [aligned_of_le (amoSize_le imm)]

theorem red_eq (op : Nat) (imm : BitVec 6) : red op b c imm s = (redForm s op b c imm).run s := by
  unfold red MemForm.run redForm
  refine reading_congr ?_
  dsimp only
  rw [aligned_of_le (amoSize_le imm)]

end

/-- A quadword of an odd register has no form, another passes the check of its pair. -/
theorem some_of_odd {a : BitVec 4} {f g : MemForm} (h : (if odd a then none else some f) = some g) : odd a = false ∧ f = g := by
  split at h
  case isTrue => cases h
  case isFalse ha => exact ⟨by simpa using ha, Option.some.inj h⟩

theorem checked_even {i : Instr} {a : BitVec 4} (hi : decodeCause s i = opIf (odd a)) (ha : odd a = false) (k : Out) :
    checked i s k = k := checked_opIf_false hi ha k

/-- Every instruction of the table is its form. -/
theorem exec_of_memOf {i : Instr} {f : MemForm} (h : memOf s i = some f) : exec i s = f.run s := by
  cases i
  case ldB a b c imm =>
    obtain rfl := Option.some.inj h
    exact ldM_eq s 1 true a b imm
  case ldBn a b c imm =>
    obtain rfl := Option.some.inj h
    exact ldM_eq s 1 false a b imm
  case ldH a b c imm =>
    obtain rfl := Option.some.inj h
    exact ldM_eq s 2 true a b imm
  case ldHn a b c imm =>
    obtain rfl := Option.some.inj h
    exact ldM_eq s 2 false a b imm
  case ldW a b c imm =>
    obtain rfl := Option.some.inj h
    exact ldM_eq s 4 true a b imm
  case ldWn a b c imm =>
    obtain rfl := Option.some.inj h
    exact ldM_eq s 4 false a b imm
  case ldD a b c imm =>
    obtain rfl := Option.some.inj h
    exact ldM_eq s 8 false a b imm
  case ldQ a b c imm =>
    obtain ⟨ha, rfl⟩ := some_of_odd h
    exact (checked_even (i := .ldQ a b c imm) rfl ha _).trans (ldM_eq s 16 false a b imm)
  case stB a b c imm =>
    obtain rfl := Option.some.inj h
    exact stM_eq s 1 a b imm
  case stH a b c imm =>
    obtain rfl := Option.some.inj h
    exact stM_eq s 2 a b imm
  case stW a b c imm =>
    obtain rfl := Option.some.inj h
    exact stM_eq s 4 a b imm
  case stD a b c imm =>
    obtain rfl := Option.some.inj h
    exact stM_eq s 8 a b imm
  case stQ a b c imm =>
    obtain ⟨ha, rfl⟩ := some_of_odd h
    exact (checked_even (i := .stQ a b c imm) rfl ha _).trans (stM_eq s 16 a b imm)
  case ldxB a b c imm =>
    obtain rfl := Option.some.inj h
    rw [← one_mul (s.w c)]
    exact ldS_eq s 1 true a b c
  case ldxBn a b c imm =>
    obtain rfl := Option.some.inj h
    rw [← one_mul (s.w c)]
    exact ldS_eq s 1 false a b c
  case ldxH a b c imm =>
    obtain rfl := Option.some.inj h
    exact ldS_eq s 2 true a b c
  case ldxHn a b c imm =>
    obtain rfl := Option.some.inj h
    exact ldS_eq s 2 false a b c
  case ldxW a b c imm =>
    obtain rfl := Option.some.inj h
    exact ldS_eq s 4 true a b c
  case ldxWn a b c imm =>
    obtain rfl := Option.some.inj h
    exact ldS_eq s 4 false a b c
  case ldxD a b c imm =>
    obtain rfl := Option.some.inj h
    exact ldS_eq s 8 false a b c
  case ldxQ a b c imm =>
    obtain ⟨ha, rfl⟩ := some_of_odd h
    exact (checked_even (i := .ldxQ a b c imm) rfl ha _).trans (ldS_eq s 16 false a b c)
  case stxB a b c imm =>
    obtain rfl := Option.some.inj h
    rw [← one_mul (s.w c)]
    exact stS_eq s 1 a b c
  case stxH a b c imm =>
    obtain rfl := Option.some.inj h
    exact stS_eq s 2 a b c
  case stxW a b c imm =>
    obtain rfl := Option.some.inj h
    exact stS_eq s 4 a b c
  case stxD a b c imm =>
    obtain rfl := Option.some.inj h
    exact stS_eq s 8 a b c
  case stxQ a b c imm =>
    obtain ⟨ha, rfl⟩ := some_of_odd h
    exact (checked_even (i := .stxQ a b c imm) rfl ha _).trans (stS_eq s 16 a b c)
  case amoSwap a b c imm =>
    obtain rfl := Option.some.inj h
    exact amo_eq s a b c 0 imm
  case amoAdd a b c imm =>
    obtain rfl := Option.some.inj h
    exact amo_eq s a b c 1 imm
  case amoAnd a b c imm =>
    obtain rfl := Option.some.inj h
    exact amo_eq s a b c 2 imm
  case amoOr a b c imm =>
    obtain rfl := Option.some.inj h
    exact amo_eq s a b c 3 imm
  case amoXor a b c imm =>
    obtain rfl := Option.some.inj h
    exact amo_eq s a b c 4 imm
  case amoMin a b c imm =>
    obtain rfl := Option.some.inj h
    exact amo_eq s a b c 5 imm
  case amoMax a b c imm =>
    obtain rfl := Option.some.inj h
    exact amo_eq s a b c 6 imm
  case amoMinN a b c imm =>
    obtain rfl := Option.some.inj h
    exact amo_eq s a b c 7 imm
  case amoMaxN a b c imm =>
    obtain rfl := Option.some.inj h
    exact amo_eq s a b c 8 imm
  case amoCas a b c imm =>
    obtain rfl := Option.some.inj h
    exact amo_eq s a b c 9 imm
  case amoFadd a b c imm =>
    obtain rfl := Option.some.inj h
    exact amo_eq s a b c 10 imm
  case redAdd a b c imm =>
    obtain rfl := Option.some.inj h
    exact red_eq s b c 0 imm
  case redAnd a b c imm =>
    obtain rfl := Option.some.inj h
    exact red_eq s b c 1 imm
  case redOr a b c imm =>
    obtain rfl := Option.some.inj h
    exact red_eq s b c 2 imm
  case redXor a b c imm =>
    obtain rfl := Option.some.inj h
    exact red_eq s b c 3 imm
  case redMin a b c imm =>
    obtain rfl := Option.some.inj h
    exact red_eq s b c 4 imm
  case redMax a b c imm =>
    obtain rfl := Option.some.inj h
    exact red_eq s b c 5 imm
  case redFadd a b c imm =>
    obtain rfl := Option.some.inj h
    exact red_eq s b c 6 imm
  all_goals cases h

/-- Settles O16: every instruction of the table is its form; alignment comes first, and a form that may issue completes. -/
theorem memoryResult : Obligations.MemoryResult := by
  unfold Obligations.MemoryResult
  refine ⟨fun s i f as hf hr => ?_, fun s i f hs hf hal => ?_⟩
  · obtain ⟨hb, hal, hq, hl, hd, hh, hg, hc, hu⟩ := hr
    have hheld : (f.es.zip as).any (fun x => s.elemHeld x.1 x.2) = false := by simpa using hh
    obtain ⟨hcur, hinstrs⟩ := s.sameCount_commit f.scope f.acq f.rel (f.es.zip as)
    rw [exec_of_memOf hf, MemForm.run, reading_ok s hb, aligned_ok s hal (fun h => by rw [h]; exact hq h), access_ok s id hl hd hheld hg hc hu]
    exact counting_done s hcur hinstrs
  · rw [exec_of_memOf hf, MemForm.run, reading_sound s hs, aligned_bad s hal, toWord_toNat]
    rfl

end Sys2Proof.Machine

/-! PROOFS. Accesses through the local window (08 R154, R168 to R175): where they lead, what a load, a store and an atomic leave there, and what they leave alone. -/

namespace Sys2Proof.Machine

variable {s : State}

/-! ## Bytes of a number, bytes of memory -/

theorem writeBytes_leBytes (n : Nat) : ∀ (m : List Host.Cell) (a v : Nat), writeBytes m a (leBytes n v) = writeN m a n v := by
  induction n with
  | zero => exact fun _ _ _ => rfl
  | succ n ih => exact fun m a v => ih _ _ _

@[simp] theorem length_leBytes (n v : Nat) : (leBytes n v).length = n := by
  induction n generalizing v with
  | zero => rfl
  | succ n ih => exact congrArg (· + 1) (ih (v / 256))

theorem getElem_readBytes (m : List Host.Cell) (a n i : Nat) (h : i < (readBytes m a n).length) :
    (readBytes m a n)[i] = byteAt m (a + i) := by
  induction n generalizing a i with
  | zero => exact absurd h (Nat.not_lt_zero i)
  | succ n ih =>
    cases i with
    | zero => rfl
    | succ i =>
      have hidx : a + (i + 1) = a + 1 + i := by omega
      rw [hidx]
      exact ih (a + 1) i _

/-- Equal bytes are an equal number. -/
theorem readN_eq_of_readBytes_eq {m m' : List Host.Cell} (n : Nat) : ∀ a, readBytes m a n = readBytes m' a n →
    readN m a n = readN m' a n := by
  induction n with
  | zero => exact fun _ _ => rfl
  | succ n ih =>
    intro a h
    obtain ⟨hb, hr⟩ := List.cons.inj h
    rw [readN, readN, hb, ih (a + 1) hr]

/-- Software's write of bytes that are all the hardware's writes what stands there. -/
theorem State.keepHw_all {core off : Nat} {bs : List Byte} (h : ∀ j, j < bs.length → s.ringHw core (off + j) = true) :
    s.keepHw core off bs = readBytes s.spad (spadKey core off) bs.length := by
  have hl : (upTo bs.length).length = bs.length := by simp [upTo]
  apply List.ext_getElem
  · simp [State.keepHw, hl]
  · intro i h₁ h₂
    have hi : i < bs.length := by simpa using h₂
    have hkey : spadKey core (off + i) = spadKey core off + i := by rw [spadKey, spadKey, Nat.add_assoc]
    have hup : (upTo bs.length)[i]'(by omega) = i := by simp [upTo]
    rw [getElem_readBytes]
    simp [State.keepHw, hup, h i hi, hkey]

theorem State.length_keepHw (core off : Nat) (bs : List Byte) : (s.keepHw core off bs).length = bs.length := by
  simp [State.keepHw, upTo]

theorem State.rdS_wrBytesS (core off : Nat) (bs : List Byte) (h : bs ≠ []) (n : Nat) :
    (s.wrBytesS core off bs).rdS core off n = readN (writeBytes s.spad (spadKey core off) bs) (spadKey core off) n := by
  rw [State.wrBytesS, if_neg (by simpa using h)]
  rfl

/-- Software's store of bytes of which none is the hardware's leaves its value. -/
theorem State.rdS_storeS_plain {core off n v : Nat} (hn : 0 < n) (h : ∀ j, j < n → s.ringHw core (off + j) = false) :
    (s.storeS core off (leBytes n v)).rdS core off n = v % 256 ^ n := by
  have hne : leBytes n v ≠ [] := List.ne_nil_of_length_pos (by rwa [length_leBytes])
  rw [s.storeS_plain (by simpa using h), State.rdS_wrBytesS _ _ _ hne, writeBytes_leBytes, readN_writeN_self]

/-- One of bytes that all are leaves them. -/
theorem State.rdS_storeS_hardware {core off n v : Nat} (hn : 0 < n) (h : ∀ j, j < n → s.ringHw core (off + j) = true) :
    (s.storeS core off (leBytes n v)).rdS core off n = s.rdS core off n := by
  have hbs : s.keepHw core off (leBytes n v) = readBytes s.spad (spadKey core off) n := by
    rw [State.keepHw_all (by simpa using h), length_leBytes]
  have hne : readBytes s.spad (spadKey core off) n ≠ [] := List.ne_nil_of_length_pos (by rwa [readBytes_length])
  rw [State.storeS, hbs, State.rdS_wrBytesS _ _ _ hne]
  refine readN_eq_of_readBytes_eq n _ ?_
  have hself := readBytes_writeBytes_self (readBytes s.spad (spadKey core off) n) s.spad (spadKey core off)
  rwa [readBytes_length] at hself

/-! ## The shapes of the forms -/

/-- A form is a load's, a store's, an atomic's or a reduction's. -/
inductive MemForm.Shape (s : State) : MemForm → Prop
  | load (regs : List (BitVec 4)) (n : Nat) (sx : Bool) (a : BitVec 4) (addr : Word) (hn : n ∈ [1, 2, 4, 8, 16])
    (ha : n = 16 → odd a = false) : Shape s (ldForm s regs n sx a addr)
  | store (regs : List (BitVec 4)) (n : Nat) (a : BitVec 4) (addr : Word) (hn : n ∈ [1, 2, 4, 8, 16]) :
    Shape s (stForm s regs n a addr)
  | amo (op : Nat) (a b c : BitVec 4) (imm : BitVec 6) : Shape s (amoForm s op a b c imm)
  | red (op : Nat) (b c : BitVec 4) (imm : BitVec 6) : Shape s (redForm s op b c imm)

theorem shape_of_memOf {i : Instr} {f : MemForm} (h : memOf s i = some f) : f.Shape s := by
  cases i
  case ldB | ldBn | ldH | ldHn | ldW | ldWn | ldD | ldxB | ldxBn | ldxH | ldxHn | ldxW | ldxWn | ldxD =>
    obtain rfl := Option.some.inj h
    exact .load _ _ _ _ _ (by decide) fun hn => absurd hn (by decide)
  case ldQ | ldxQ =>
    obtain ⟨ha, rfl⟩ := some_of_odd h
    exact .load _ _ _ _ _ (by decide) fun _ => ha
  case stB | stH | stW | stD | stxB | stxH | stxW | stxD =>
    obtain rfl := Option.some.inj h
    exact .store _ _ _ _ (by decide)
  case stQ | stxQ =>
    obtain ⟨-, rfl⟩ := some_of_odd h
    exact .store _ _ _ _ (by decide)
  case amoSwap | amoAdd | amoAnd | amoOr | amoXor | amoMin | amoMax | amoMinN | amoMaxN | amoCas | amoFadd =>
    obtain rfl := Option.some.inj h
    exact .amo _ _ _ _ _
  case redAdd | redAnd | redOr | redXor | redMin | redMax | redFadd =>
    obtain rfl := Option.some.inj h
    exact .red _ _ _ _
  all_goals cases h

theorem elems_single {n addr dst : Nat} {sx ld : Bool} {op : Nat → ReqOp} {e : Elem} (h : elems n addr dst sx op ld = [e]) :
    e = ⟨addr, n, op 2, dst, if ld then max n 8 else 0, sx⟩ := by
  unfold elems at h
  split at h
  case isTrue => cases h
  case isFalse => exact (List.singleton_inj.1 h).symm

theorem ldForm_single {regs : List (BitVec 4)} {n : Nat} {sx : Bool} {a : BitVec 4} {addr : Word} {e : Elem}
    (h : (ldForm s regs n sx a addr).es = [e]) : e = ⟨addr.toNat, n, .load, s.cx.wOff a.toNat, max n 8, sx⟩ :=
  elems_single (op := fun _ => .load) (ld := true) h

theorem odd_eq_false {a : BitVec 4} (h : odd a = false) : a.toNat ≤ 14 := by
  have := a.isLt
  simp only [odd, bitAt, Nat.pow_zero, Nat.div_one, beq_eq_false_iff_ne] at h
  omega

section

variable {f : MemForm} {e : Elem} (hsh : f.Shape s) (hes : f.es = [e])

include hsh hes

/-- The one element of a form has its address and its size. -/
theorem MemForm.Shape.elem : e.va = f.addr.toNat ∧ e.size = f.n ∧ 0 < f.n ∧ f.n ≤ 16 := by
  have hle {n : Nat} (h : n ∈ [1, 2, 4, 8, 16]) : 0 < n ∧ n ≤ 16 := by fin_cases h <;> decide
  have hamo (imm : BitVec 6) : 0 < amoSize imm ∧ amoSize imm ≤ 16 := by
    unfold amoSize
    split <;> decide
  cases hsh with
  | load regs n sx a addr hn ha =>
    rw [ldForm_single hes]
    exact ⟨rfl, rfl, hle hn⟩
  | store regs n a addr hn =>
    rw [elems_single hes]
    exact ⟨rfl, rfl, hle hn⟩
  | amo op a b c imm =>
    obtain rfl := List.singleton_inj.1 hes
    exact ⟨rfl, rfl, hamo imm⟩
  | red op b c imm =>
    obtain rfl := List.singleton_inj.1 hes
    exact ⟨rfl, rfl, hamo imm⟩

theorem MemForm.Shape.of_load (hop : e.op = .load) : f.scope = 2 ∧ f.acq = false ∧ f.rel = false ∧ 8 ≤ e.dsize ∧ f.n ≤ e.dsize ∧
    e.dst + e.dsize ≤ s.cx.wp + 128 := by
  cases hsh with
  | load regs n sx a addr hn ha =>
    rw [ldForm_single hes]
    refine ⟨rfl, rfl, rfl, Nat.le_max_right n 8, Nat.le_max_left n 8, ?_⟩
    have hsize : n ≤ 8 ∨ n = 16 := by fin_cases hn <;> decide
    obtain h | rfl := hsize
    · have := a.isLt
      simp only [Ctx.wOff, Nat.max_eq_right h]
      omega
    · have := odd_eq_false (ha rfl)
      simp only [Ctx.wOff, Nat.max_eq_left (by decide : 8 ≤ 16)]
      omega
  | store regs n a addr hn =>
    rw [elems_single hes] at hop
    cases hop
  | amo op a b c imm =>
    obtain rfl := List.singleton_inj.1 hes
    cases hop
  | red op b c imm =>
    obtain rfl := List.singleton_inj.1 hes
    cases hop

theorem MemForm.Shape.of_store {v : Nat} (hop : e.op = .store v) : f.scope = 2 ∧ f.acq = false ∧ f.rel = false ∧ e.dsize = 0 := by
  cases hsh with
  | load regs n sx a addr hn ha =>
    rw [ldForm_single hes] at hop
    cases hop
  | store regs n a addr hn =>
    rw [elems_single hes]
    exact ⟨rfl, rfl, rfl, rfl⟩
  | amo op a b c imm =>
    obtain rfl := List.singleton_inj.1 hes
    cases hop
  | red op b c imm =>
    obtain rfl := List.singleton_inj.1 hes
    cases hop

theorem MemForm.Shape.of_atomic (hop : e.op.atomic = true) : f.n ≤ 8 := by
  cases hsh with
  | load regs n sx a addr hn ha =>
    rw [ldForm_single hes] at hop
    cases hop
  | store regs n a addr hn =>
    rw [elems_single hes] at hop
    cases hop
  | amo op a b c imm => exact amoSize_le imm
  | red op b c imm => exact amoSize_le imm

end

/-! ## An element in the local window -/

theorem oneRange_local {a n : Nat} (hn : 0 < n) (hfit : a + n ≤ 0x20000) : oneRange a n = true := by
  rw [oneRange, rngOf_local (by omega : a < 0x20000), rngOf_local (by omega : a + n - 1 < 0x20000)]

section

variable {e : Elem} (hn : 0 < e.size) (hfit : e.va + e.size ≤ 0x20000) (hfwd : s.fwdFor s.here s.cx.group e.va e.size = none)

include hn hfit hfwd in
theorem State.locateAll_local (scope : Nat) : s.locateAll scope [e] = .ok [.loc e.va] := by
  have hat : s.locate scope e = .to (.loc e.va) := by
    rw [State.locate, if_neg (not_not.2 (oneRange_local hn hfit)), rngOf_local (by omega)]
    simp [hfwd]
  simp [State.locateAll, State.locateGo, hat]

/-- Of a sound machine's own bytes only the queue area refuses a write. -/
theorem State.dataBad_local (hs : s.sound = true) (ha : e.op.writes = true → inArea s.mem.qbase e.va e.size = none) :
    s.dataBad [(e, .loc e.va)] = none := by
  have hown : s.ownArea e (.loc e.va) = none := by
    unfold State.ownArea
    split
    · rfl
    case isFalse h => simp [ha (not_not.1 h)]
  have hremote : s.remoteBad false e (.loc e.va) = false := Bool.and_false _
  have hbad : s.elemBad false e (.loc e.va) = none := by
    rw [State.elemBad, hremote, if_neg (by decide), State.eccOf]
    simp [s.badS_sound hs]
  simp [State.dataBad, hown, hbad]

theorem State.classFull_calm (h : s.calm = true) (xs : List (Elem × At)) : s.classFull xs = false := by
  simp [State.classFull, s.calm_classL h, s.calm_classS h]

end

/-- A form of one element in the local window, of a calm focus, is committed there and completes. -/
theorem exec_local {i : Instr} {f : MemForm} {e : Elem} (h : s.calm = true) (hf : memOf s i = some f) (hes : f.es = [e])
    (hal : f.addr.toNat % min f.n 8 = 0) (hfit : f.addr.toNat + f.n ≤ 0x20000)
    (hfwd : s.fwdFor s.here s.cx.group f.addr.toNat f.n = none)
    (harea : e.op.writes = true → inArea s.mem.qbase f.addr.toNat f.n = none) :
    exec i s = .next (s.commit f.scope f.acq f.rel [(e, .loc f.addr.toNat)]).advance := by
  obtain ⟨hva, hsize, hpos, -⟩ := (shape_of_memOf hf).elem hes
  rw [← hva, ← hsize] at hal hfit hfwd harea
  rw [← hsize] at hpos
  have hloc := State.locateAll_local hpos hfit hfwd f.scope
  have hzip : [e].zip [At.loc e.va] = [(e, .loc e.va)] := rfl
  rw [exec_of_memOf hf, MemForm.run, reading_calm s h, ← hva, ← hsize,
    aligned_ok s hal (fun _ => oneRange_local hpos hfit), hes, access_ok s id hloc, hzip]
  · rfl
  · rw [hzip]
    exact State.dataBad_local (s.calm_sound h) harea
  · simp [s.calm_elemHeld h]
  · exact s.calm_gated h _ _ _
  · exact State.classFull_calm h _
  · exact s.calm_unwatched h

/-! ## What the commit leaves of the focus -/

/-- The focus stands where it stood: its context, PC, line and run of REP. -/
structure SamePoint (s t : State) : Prop where
  cur : t.cur = s.cur
  pc : t.cx.pc = s.cx.pc
  line : t.cx.line = s.cx.line
  rep : t.cx.rep = s.cx.rep

theorem SamePoint.trans {s t u : State} (h : SamePoint s t) (h' : SamePoint t u) : SamePoint s u :=
  ⟨h'.cur.trans h.cur, h'.pc.trans h.pc, h'.line.trans h.line, h'.rep.trans h.rep⟩

theorem SamePoint.of_ctxs {t : State} (hctxs : t.ctxs = s.ctxs) (hcur : t.cur = s.cur) : SamePoint s t := by
  have hcx := State.cx_of_ctxs hctxs hcur
  exact ⟨hcur, congrArg Ctx.pc hcx, congrArg Ctx.line hcx, congrArg Ctx.rep hcx⟩

theorem SamePoint.setCx {c : Ctx} (hpc : c.pc = s.cx.pc) (hline : c.line = s.cx.line) (hrep : c.rep = s.cx.rep) :
    SamePoint s (s.setCx c) := ⟨rfl, by simpa using hpc, by simpa using hline, by simpa using hrep⟩

/-- The state with a pending bereavement of the focus. -/
def State.withBrv (s : State) (y : Option Word) : State := s.setCx { s.cx with pendBrv := y }

theorem State.withBrv_withBrv (s : State) (y z : Option Word) : (s.withBrv y).withBrv z = s.withBrv z := by
  simp [State.withBrv]

/-- A note that the focus has named a bereaved object is all that the check of names leaves. -/
theorem State.namesWords_cases (s : State) (xs : List (Elem × At)) :
    s.namesWords xs = s ∨ ∃ y, s.namesWords xs = s.withBrv y := by
  have hone (t : State) (l : Loc) (a : Word) : t.noteBrvAt l a = t ∨ ∃ y, t.noteBrvAt l a = t.withBrv y := by
    unfold State.noteBrvAt
    split
    · exact .inr ⟨_, rfl⟩
    · exact .inl rfl
  have hfold (l : List (Loc × Nat)) (t : State) : l.foldl (fun s w => s.noteBrvAt w.1 (toWord w.2)) t = t ∨
      ∃ y, l.foldl (fun s w => s.noteBrvAt w.1 (toWord w.2)) t = t.withBrv y := by
    induction l generalizing t with
    | nil => exact .inl rfl
    | cons w r ih =>
      rw [List.foldl_cons]
      obtain h | ⟨y, h⟩ := hone t w.1 (toWord w.2)
      · rw [h]
        exact ih t
      · rw [h]
        obtain h' | ⟨z, h'⟩ := ih (t.withBrv y)
        · exact .inr ⟨y, h'⟩
        · exact .inr ⟨z, h'.trans (t.withBrv_withBrv y z)⟩
  unfold State.namesWords
  split
  · exact .inl rfl
  · exact hfold _ s

section

variable (s : State) (xs : List (Elem × At))

theorem State.samePoint_namesWords : SamePoint s (s.namesWords xs) := by
  obtain h | ⟨y, h⟩ := s.namesWords_cases xs
  · rw [h]
    exact .of_ctxs rfl rfl
  · rw [h]
    exact .setCx rfl rfl rfl

theorem kept_namesWords : Kept s (s.namesWords xs) nowhere nowhere := by
  obtain h | ⟨y, h⟩ := s.namesWords_cases xs
  · rw [h]
    exact kept_refl s
  · rw [h]
    exact kept_setCx s rfl fun _ _ => rfl

theorem State.namesWords_keeps {α : Type} (p : State → α) (hp : ∀ y, p (s.withBrv y) = p s) : p (s.namesWords xs) = p s := by
  obtain h | ⟨y, h⟩ := s.namesWords_cases xs
  · rw [h]
  · rw [h, hp]

@[simp] theorem State.namesWords_spad : (s.namesWords xs).spad = s.spad :=
  s.namesWords_keeps xs State.spad fun _ => rfl

@[simp] theorem State.namesWords_hbm : (s.namesWords xs).hbm = s.hbm :=
  s.namesWords_keeps xs State.hbm fun _ => rfl

@[simp] theorem State.namesWords_tags : (s.namesWords xs).tags = s.tags :=
  s.namesWords_keeps xs State.tags fun _ => rfl

@[simp] theorem State.namesWords_reqs : (s.namesWords xs).reqs = s.reqs :=
  s.namesWords_keeps xs State.reqs fun _ => rfl

end

/-- Restarting a watchdog count keeps everything else. -/
theorem kept_progress (s : State) (h : Nat) : Kept s (s.progress h) nowhere nowhere := by
  unfold State.progress
  split
  case h_2 => exact kept_refl s
  case h_1 g hg =>
    refine { kept_refl s with groups := fun h' => ?_ }
    have hkey : mget s.groups (g.handle % 4096) = some g := by
      unfold State.grp at hg
      split at hg
      · split at hg
        case isTrue hh => cases hg; rw [hh]; assumption
        case isFalse => cases hg
      · cases hg
    unfold State.grp State.setGrp
    by_cases hk : g.handle % 4096 = h' % 4096
    · dsimp only
      rw [← hk, mget_mput_self, hkey]
      dsimp only
      split <;> rfl
    · dsimp only
      rw [mget_mput_ne _ _ hk]

theorem State.samePoint_progress (s : State) (h : Nat) : SamePoint s (s.progress h) := by
  unfold State.progress
  split <;> exact .of_ctxs rfl rfl

/-! ## A load, a store and an atomic in the local window -/

theorem State.softRead_sound (h : s.sound = true) (core : Nat) (l : Loc) (n : Nat) : s.softRead core l n = s := by
  unfold State.softRead
  rw [s.softAt_sound h]
  rfl

theorem State.opRead_sound (h : s.sound = true) (op : ReqOp) (core : Nat) (l : Loc) (n : Nat) : s.opRead op core l n = s := by
  unfold State.opRead
  split
  · exact s.softRead_sound h core l n
  · rfl

section

variable {e : Elem} {a : Nat} (h : s.calm = true)

include h

/-- A load at issue writes its value, extended, to its destination. -/
theorem State.nearAll_load (hop : e.op = .load) (hd : e.dsize ≠ 0) (scope : Nat) : s.nearAll scope [(e, .loc a)] =
    s.wrS s.here e.dst e.dsize (extendTo e.sx e.size e.dsize (s.rdS s.here a e.size)) := by
  have hop' : s.performAt e.op (.spad s.here a) e.size (originAt (.spad s.here a) s.here scope) =
      (s, s.rdS s.here a e.size) := by rw [hop]; rfl
  simp only [State.nearAll, List.foldl_cons, List.foldl_nil, State.locOf, State.opRead_sound (s.calm_sound h), hop', if_neg hd,
    List.nil_append, State.landAll]

/-- A store at issue writes its bytes, but for the hardware's. -/
theorem State.nearAll_store {v : Nat} (hop : e.op = .store v) (hd : e.dsize = 0) (scope : Nat) :
    s.nearAll scope [(e, .loc a)] = s.storeS s.here a (leBytes e.size v) := by
  have hop' : s.performAt e.op (.spad s.here a) e.size (originAt (.spad s.here a) s.here scope) =
      (s.storeS s.here a (leBytes e.size v), 0) := by rw [hop]; rfl
  simp only [State.nearAll, List.foldl_cons, List.foldl_nil, State.locOf, State.opRead_sound (s.calm_sound h), hop', if_pos hd,
    State.landAll]

end

/-! ## The commit in two halves -/

/-- The first half of a commit: a release is marked, then the elements are performed at issue, or sent. -/
def State.issueAll (s : State) (scope : Nat) (rel : Bool) (xs : List (Elem × At)) : State :=
  let u := if rel then s.releaseAt scope else s
  if xs.all (fun x => u.atOnce x.1 x.2) then u.nearAll scope xs
  else u.sendAll scope (s.afterOf scope rel (xs.any fun x => x.1.op.reads) (xs.any fun x => x.1.op.writes)) xs

section

variable (s : State) (scope : Nat) (acq rel : Bool) (xs : List (Elem × At))

/-- The second half changes the focus's gates and notes, and restarts a watchdog count. -/
theorem State.commit_eq : ∃ c : Ctx, ∃ t : State,
    (t = (s.issueAll scope rel xs).setCx c ∨ ∃ h, t = ((s.issueAll scope rel xs).setCx c).progress h) ∧
    (c.pc = (s.issueAll scope rel xs).cx.pc ∧ c.line = (s.issueAll scope rel xs).cx.line ∧
      c.rep = (s.issueAll scope rel xs).cx.rep ∧ c.wp = (s.issueAll scope rel xs).cx.wp ∧
      c.cr = (s.issueAll scope rel xs).cx.cr) ∧
    s.commit scope acq rel xs = t.namesWords xs := by
  have hgo (v : State) (ids : List Nat) (y : Option (Nat × Nat × Nat × Nat)) : ∃ c : Ctx, (c.pc = v.cx.pc ∧ c.line = v.cx.line ∧
      c.rep = v.cx.rep ∧ c.wp = v.cx.wp ∧ c.cr = v.cx.cr) ∧
      (let w := if acq = true ∧ 1 ≤ scope then v.setCx (v.cx.gate ids ids) else v
       w.setCx { w.cx with walkFault := [], repLoad := y }) = v.setCx c := by
    dsimp only
    split
    · exact ⟨{ v.cx.gate ids ids with walkFault := [], repLoad := y }, ⟨rfl, rfl, rfl, rfl, rfl⟩,
        by rw [State.setCx_setCx, State.cx_setCx]⟩
    · exact ⟨{ v.cx with walkFault := [], repLoad := y }, ⟨rfl, rfl, rfl, rfl, rfl⟩, rfl⟩
  obtain ⟨c, hc, he⟩ := hgo (s.issueAll scope rel xs) (((s.issueAll scope rel xs).reqs.filter fun r =>
    decide (s.uid ≤ r.id) && r.unperformed && r.cid == s.cur).map fun r => r.id) (s.repGoes (xs.any fun x => x.1.op.reads)
      (if acq = true ∧ 1 ≤ scope then (s.issueAll scope rel xs).setCx ((s.issueAll scope rel xs).cx.gate
        (((s.issueAll scope rel xs).reqs.filter fun r => decide (s.uid ≤ r.id) && r.unperformed && r.cid == s.cur).map fun r => r.id)
        (((s.issueAll scope rel xs).reqs.filter fun r => decide (s.uid ≤ r.id) && r.unperformed && r.cid == s.cur).map fun r => r.id))
        else s.issueAll scope rel xs).uid)
  have hcommit : s.commit scope acq rel xs =
      (if xs.any (fun x => s.outside x) then ((s.issueAll scope rel xs).setCx c).progress ((s.issueAll scope rel xs).setCx c).cx.group
        else (s.issueAll scope rel xs).setCx c).namesWords xs := by
    rw [← he]
    rfl
  split at hcommit
  · exact ⟨c, _, .inr ⟨_, rfl⟩, hc, hcommit⟩
  · exact ⟨c, _, .inl rfl, hc, hcommit⟩

/-- What no change of a context and no restart of a watchdog count moves, the second half keeps. -/
theorem State.commit_keeps {α : Type} (p : State → α) (hset : ∀ (t : State) (c : Ctx), p (t.setCx c) = p t)
    (hprog : ∀ (t : State) (h : Nat), p (t.progress h) = p t) : p (s.commit scope acq rel xs) = p (s.issueAll scope rel xs) := by
  obtain ⟨c, t, ht, -, he⟩ := s.commit_eq scope acq rel xs
  rw [he, State.namesWords_keeps _ _ p fun y => hset _ _]
  obtain rfl | ⟨h, rfl⟩ := ht
  · exact hset _ c
  · exact (hprog _ h).trans (hset _ c)

theorem State.samePoint_commit (h : SamePoint s (s.issueAll scope rel xs)) : SamePoint s (s.commit scope acq rel xs) := by
  obtain ⟨c, t, ht, ⟨hpc, hline, hrep, -, -⟩, he⟩ := s.commit_eq scope acq rel xs
  rw [he]
  have hset := h.trans (SamePoint.setCx hpc hline hrep)
  refine SamePoint.trans ?_ (State.samePoint_namesWords t xs)
  obtain rfl | ⟨g, rfl⟩ := ht
  · exact hset
  · exact hset.trans (State.samePoint_progress _ g)

theorem kept_commit {dst : Nat → Nat → Prop} (hcur : (s.issueAll scope rel xs).cur = s.cur)
    (h : Kept s (s.issueAll scope rel xs) dst nowhere) : Kept s (s.commit scope acq rel xs) dst nowhere := by
  obtain ⟨c, t, ht, ⟨-, -, -, hwp, hcr⟩, he⟩ := s.commit_eq scope acq rel xs
  rw [he]
  have hno : ∀ c o, nowhere c o → dst c o := fun _ _ h => h.elim
  have hset : Kept s ((s.issueAll scope rel xs).setCx c) dst nowhere := by
    refine h.trans (kept_setCx _ hwp fun n _ => ?_) hcur hno fun _ _ h => h
    rw [Ctx.get, Ctx.get, hcr]
  have htcur : t.cur = s.cur := by
    obtain rfl | ⟨g, rfl⟩ := ht
    · exact hcur
    · exact (State.samePoint_progress _ g).cur.trans hcur
  refine Kept.trans ?_ (kept_namesWords t xs) htcur hno fun _ _ h => h
  obtain rfl | ⟨g, rfl⟩ := ht
  · exact hset
  · exact hset.trans (kept_progress _ g) hcur hno fun _ _ h => h

end

/-! ## Settling the local accesses -/

theorem State.issueAll_near {e : Elem} {a : Nat} (h : s.calm = true) (hop : e.op.atomic = false) (scope : Nat) :
    s.issueAll scope false [(e, .loc a)] = s.nearAll scope [(e, .loc a)] := by
  have hnow : [(e, At.loc a)].all (fun x => s.atOnce x.1 x.2) = true := by simp [s.calm_atOnce h hop]
  unfold State.issueAll
  simp only [Bool.false_eq_true, if_false, if_pos hnow]

theorem State.advance_keeps {α : Type} (p : State → α) (hset : ∀ (t : State) (c : Ctx), p (t.setCx c) = p t)
    (h : s.cx.rep = none) : p s.advance = p s := by
  rw [s.advance_eq h, hset]

/-- An access that left the focus where it stood completes at its successor. -/
theorem SamePoint.advance_pc {t : State} (h : SamePoint s t) (hr : s.cx.rep = none) :
    t.cx.rep = none ∧ t.advance.cx.pc = succPc s.cx.line s.cx.pc := by
  have hrep := h.rep.trans hr
  exact ⟨hrep, by rw [t.advance_pc hrep, h.line, h.pc]⟩

theorem State.progress_keeps {α : Type} (p : State → α) (hset : ∀ (t : State) (g : Group), p (t.setGrp g) = p t)
    (s : State) (h : Nat) : p (s.progress h) = p s := by
  unfold State.progress
  split
  · exact hset s _
  · rfl

theorem State.commit_spad (s : State) (scope : Nat) (acq rel : Bool) (xs : List (Elem × At)) :
    (s.commit scope acq rel xs).spad = (s.issueAll scope rel xs).spad :=
  s.commit_keeps scope acq rel xs State.spad (fun _ _ => rfl) (State.progress_keeps _ fun _ _ => rfl)

theorem wrapInt_lt (w : Nat) (i : Int) : wrapInt w i < 2 ^ w := by
  have hpos : (0 : Int) < 2 ^ w := by positivity
  have hlt := Int.emod_lt_of_pos i hpos
  have hnn := Int.emod_nonneg i hpos.ne'
  unfold wrapInt
  zify
  rw [Int.toNat_of_nonneg hnn]
  exact hlt

/-- A value extended to more bytes fits in them. -/
theorem extendTo_lt {sx : Bool} {size dsize v : Nat} (hv : v < 256 ^ size) (hle : size ≤ dsize) : extendTo sx size dsize v < 256 ^ dsize := by
  unfold extendTo
  split
  · have hpow : (256 : Nat) ^ dsize = 2 ^ (8 * dsize) := (Nat.pow_mul 2 8 dsize).symm
    rw [hpow]
    exact wrapInt_lt _ _
  · exact hv.trans_le (Nat.pow_le_pow_right (by decide) hle)

/-- A local load lands in its destination and touches nothing else. -/
theorem local_load {i : Instr} {f : MemForm} {e : Elem} (h : s.calm = true) (hf : memOf s i = some f) (hes : f.es = [e])
    (hop : e.op = .load) (hal : f.addr.toNat % min f.n 8 = 0) (hfit : f.addr.toNat + f.n ≤ 0x20000)
    (hwp : s.cx.wp + 128 ≤ 0x20000) (hfwd : s.fwdFor s.here s.cx.group f.addr.toNat f.n = none) :
    ∃ t, exec i s = .next t ∧ t.rdS s.here e.dst e.dsize = extendTo e.sx f.n e.dsize (s.rdS s.here f.addr.toNat f.n) ∧
      t.cx.pc = succPc s.cx.line s.cx.pc ∧ Kept s t (span s.here e.dst e.dsize) nowhere := by
  have hrep := s.calm_rep h
  obtain ⟨hva, hsize, -, -⟩ := (shape_of_memOf hf).elem hes
  obtain ⟨hscope, hacq, hrel, hd8, hdn, hdst⟩ := (shape_of_memOf hf).of_load hes hop
  have hissue : s.issueAll 2 false [(e, .loc f.addr.toNat)] =
      s.wrS s.here e.dst e.dsize (extendTo e.sx e.size e.dsize (s.rdS s.here f.addr.toNat e.size)) :=
    (State.issueAll_near h (by rw [hop]; rfl) 2).trans (State.nearAll_load h hop (by omega) 2)
  have hpoint : SamePoint s (s.commit 2 false false [(e, .loc f.addr.toNat)]) := by
    refine s.samePoint_commit 2 false false _ ?_
    rw [hissue]
    exact .of_ctxs rfl rfl
  obtain ⟨hrep', hpc⟩ := hpoint.advance_pc hrep
  refine ⟨_, exec_local h hf hes hal hfit hfwd (by rw [hop]; exact fun h => absurd h (by decide)), ?_, ?_, ?_⟩
  · have hspad : (s.commit 2 false false [(e, .loc f.addr.toNat)]).advance.spad =
        (s.wrS s.here e.dst e.dsize (extendTo e.sx e.size e.dsize (s.rdS s.here f.addr.toNat e.size))).spad :=
      ((State.advance_keeps State.spad (fun _ _ => rfl) hrep').trans (s.commit_spad 2 false false _)).trans (congrArg State.spad hissue)
    rw [hscope, hacq, hrel, State.rdS, hspad, ← State.rdS, s.rdS_wrS_self, hsize]
    exact Nat.mod_eq_of_lt (extendTo_lt (readN_lt _ _ _) hdn)
  · rw [hscope, hacq, hrel, hpc]
  · rw [hscope, hacq, hrel]
    have hkept : Kept s (s.issueAll 2 false [(e, .loc f.addr.toNat)]) (span s.here e.dst e.dsize) nowhere := by
      rw [hissue]
      exact kept_wrS s _ (by omega)
    have hcur : (s.issueAll 2 false [(e, .loc f.addr.toNat)]).cur = s.cur := by
      rw [hissue]
      rfl
    exact (kept_commit s 2 false false _ hcur hkept).trans (kept_advance _ hrep') hpoint.cur (fun _ _ h => h.elim) fun _ _ h => h

/-- Writing a list of bytes of a scratchpad keeps everything else. -/
theorem kept_wrBytesS (s : State) {core off : Nat} (bs : List Byte) (hfit : off + bs.length ≤ 131072) :
    Kept s (s.wrBytesS core off bs) (span core off bs.length) nowhere := by
  unfold State.wrBytesS
  split
  case isTrue =>
    exact { kept_refl s with spad := fun _ _ _ _ => rfl }
  case isFalse =>
    refine { kept_refl s with spad := fun c o ho hn => ?_ }
    have hout : ¬ (c = core ∧ off ≤ o ∧ o < off + bs.length) := hn
    refine byteAt_writeBytes_ne bs _ _ _ ?_
    simp only [spadKey]
    omega

theorem kept_storeS (s : State) {core off n : Nat} (v : Nat) (hfit : off + n ≤ 131072) :
    Kept s (s.storeS core off (leBytes n v)) (span core off n) nowhere := by
  have hlen : (s.keepHw core off (leBytes n v)).length = n := by rw [State.length_keepHw, length_leBytes]
  have hkept := kept_wrBytesS s (core := core) (off := off) (s.keepHw core off (leBytes n v)) (by rwa [hlen])
  rwa [hlen] at hkept

/-- A local store writes its bytes, but for the hardware's, and touches nothing else. -/
theorem local_store {i : Instr} {f : MemForm} {e : Elem} {v : Nat} (h : s.calm = true) (hf : memOf s i = some f)
    (hes : f.es = [e]) (hop : e.op = .store v) (hal : f.addr.toNat % min f.n 8 = 0) (hfit : f.addr.toNat + f.n ≤ 0x20000)
    (harea : inArea s.mem.qbase f.addr.toNat f.n = none) (hfwd : s.fwdFor s.here s.cx.group f.addr.toNat f.n = none) :
    ∃ t, exec i s = .next t ∧ t.spad = (s.storeS s.here f.addr.toNat (leBytes f.n v)).spad ∧
      t.cx.pc = succPc s.cx.line s.cx.pc ∧ Kept s t (span s.here f.addr.toNat f.n) nowhere := by
  have hrep := s.calm_rep h
  obtain ⟨hva, hsize, -, -⟩ := (shape_of_memOf hf).elem hes
  obtain ⟨hscope, hacq, hrel, hd⟩ := (shape_of_memOf hf).of_store hes hop
  have hissue : s.issueAll 2 false [(e, .loc f.addr.toNat)] = s.storeS s.here f.addr.toNat (leBytes f.n v) := by
    rw [← hsize]
    exact (State.issueAll_near h (by rw [hop]; rfl) 2).trans (State.nearAll_store h hop hd 2)
  have hcur : (s.issueAll 2 false [(e, .loc f.addr.toNat)]).cur = s.cur := by
    rw [hissue]
    exact State.wrBytesS_cur ..
  have hpoint : SamePoint s (s.commit 2 false false [(e, .loc f.addr.toNat)]) := by
    refine s.samePoint_commit 2 false false _ (.of_ctxs ?_ hcur)
    rw [hissue]
    exact State.wrBytesS_ctxs ..
  obtain ⟨hrep', hpc⟩ := hpoint.advance_pc hrep
  have hkept : Kept s (s.issueAll 2 false [(e, .loc f.addr.toNat)]) (span s.here f.addr.toNat f.n) nowhere := by
    rw [hissue]
    exact kept_storeS s v hfit
  refine ⟨_, exec_local h hf hes hal hfit hfwd fun _ => harea, ?_, ?_, ?_⟩
  · rw [hscope, hacq, hrel]
    exact ((State.advance_keeps State.spad (fun _ _ => rfl) hrep').trans (s.commit_spad 2 false false _)).trans
      (congrArg State.spad hissue)
  · rw [hscope, hacq, hrel, hpc]
  · rw [hscope, hacq, hrel]
    exact (kept_commit s 2 false false _ hcur hkept).trans (kept_advance _ hrep') hpoint.cur (fun _ _ h => h.elim) fun _ _ h => h

/-! ## An atomic goes to its place (08 R173) -/

@[simp] theorem State.putReq_reqs (s : State) (r : Req) : (s.putReq r).reqs = s.reqs ++ [r] := by
  unfold State.putReq
  dsimp only
  split
  · rfl
  · split <;> rfl

@[simp] theorem State.putReq_tags (s : State) (r : Req) : (s.putReq r).tags = s.tags := by
  unfold State.putReq
  dsimp only
  split
  · rfl
  · split <;> rfl

theorem State.samePoint_putReq (s : State) (r : Req) : SamePoint s (s.putReq r) := by
  have hcount (t : State) (code n : Nat) : SamePoint t (t.countEv code n) := by
    obtain ⟨cr, hc⟩ := t.cx.count_eq code n
    exact .setCx (by rw [hc]) (by rw [hc]) (by rw [hc])
  unfold State.putReq
  dsimp only
  split
  · exact .of_ctxs rfl rfl
  · split
    · refine SamePoint.trans ?_ (hcount _ 8 1)
      exact .of_ctxs rfl rfl
    · exact .of_ctxs rfl rfl

/-- An atomic of the own scratchpad is sent to its place, whatever its scope. -/
theorem State.issueAll_atomic {e : Elem} {a : Nat} (h : s.calm = true) (hop : e.op.atomic = true) (scope : Nat) (rel : Bool) :
    ∃ u q, s.issueAll scope rel [(e, .loc a)] = u.putReq q ∧ SamePoint s u ∧ u.spad = s.spad ∧ u.tags = s.tags ∧ u.hbm = s.hbm ∧
      u.reqs = [] ∧ q.op = e.op ∧ q.loc = .spad s.here a ∧ q.size = e.size ∧ q.scope = scope ∧ q.dst = e.dst ∧
      q.dsize = e.dsize ∧ q.phase = .issued := by
  obtain ⟨hreqs, -⟩ := s.calm_parts h
  have hrelease : ∃ u, (if rel then s.releaseAt scope else s) = u ∧ SamePoint s u ∧ u.here = s.here ∧ u.spad = s.spad ∧
      u.tags = s.tags ∧ u.hbm = s.hbm ∧ u.reqs = [] := by
    refine ⟨_, rfl, ?_⟩
    split
    · unfold State.releaseAt
      split
      · exact ⟨.of_ctxs rfl rfl, rfl, rfl, rfl, rfl, congrArg (List.map _) hreqs⟩
      · exact ⟨.of_ctxs rfl rfl, rfl, rfl, rfl, rfl, hreqs⟩
    · exact ⟨.of_ctxs rfl rfl, rfl, rfl, rfl, rfl, hreqs⟩
  obtain ⟨u, hu, hpoint, hhere, hspad, htags, hhbm, hur⟩ := hrelease
  have hnow : u.atOnce e (.loc a) = false := by simp [State.atOnce, hop]
  refine ⟨u, u.newReq u.uid scope (s.afterOf scope rel e.op.reads e.op.writes) e (.loc a), ?_, hpoint, hspad, htags, hhbm, hur, rfl,
    by rw [← hhere]; rfl, rfl, rfl, rfl, rfl, rfl⟩
  unfold State.issueAll
  simp [hu, hnow, State.sendAll, State.sendElem, State.usePlace, State.useTlb]

theorem local_atomic {i : Instr} {f : MemForm} {e : Elem} (h : s.calm = true) (hf : memOf s i = some f) (hes : f.es = [e])
    (hop : e.op.atomic = true) (hal : f.addr.toNat % f.n = 0) (hfit : f.addr.toNat + f.n ≤ 0x20000)
    (harea : inArea s.mem.qbase f.addr.toNat f.n = none) (hfwd : s.fwdFor s.here s.cx.group f.addr.toNat f.n = none) :
    ∃ t r, exec i s = .next t ∧ t.reqs = [r] ∧ r.op = e.op ∧ r.loc = .spad s.here f.addr.toNat ∧ r.size = f.n ∧
      r.scope = f.scope ∧ r.dst = e.dst ∧ r.dsize = e.dsize ∧ r.phase = .issued ∧ t.spad = s.spad ∧ t.tags = s.tags ∧
      t.hbm = s.hbm ∧ t.cx.pc = succPc s.cx.line s.cx.pc := by
  have hmin : min f.n 8 = f.n := Nat.min_eq_left ((shape_of_memOf hf).of_atomic hes hop)
  obtain ⟨-, hsize, -, -⟩ := (shape_of_memOf hf).elem hes
  obtain ⟨u, q, hissue, hpu, hspad, htags, hhbm, hreqs, hqop, hloc, hqsize, hscope, hdst, hdsize, hphase⟩ :=
    State.issueAll_atomic (a := f.addr.toNat) h hop f.scope f.rel
  have hpoint : SamePoint s (s.commit f.scope f.acq f.rel [(e, .loc f.addr.toNat)]) := by
    refine s.samePoint_commit _ _ _ _ ?_
    rw [hissue]
    exact hpu.trans (u.samePoint_putReq q)
  obtain ⟨hrep', hpc⟩ := hpoint.advance_pc (s.calm_rep h)
  have hkeeps {α : Type} (p : State → α) (hset : ∀ (t : State) (c : Ctx), p (t.setCx c) = p t)
      (hprog : ∀ (t : State) (h : Nat), p (t.progress h) = p t) :
      p (s.commit f.scope f.acq f.rel [(e, .loc f.addr.toNat)]).advance = p (u.putReq q) :=
    ((State.advance_keeps p hset hrep').trans (s.commit_keeps _ _ _ _ p hset hprog)).trans (congrArg p hissue)
  refine ⟨_, q, exec_local h hf hes (by rwa [hmin]) hfit hfwd fun _ => harea, ?_, hqop, hloc, hqsize.trans hsize, hscope, hdst, hdsize,
    hphase, ?_, ?_, ?_, hpc⟩
  · rw [hkeeps State.reqs (fun _ _ => rfl) (State.progress_keeps _ fun _ _ => rfl), State.putReq_reqs, hreqs]
    rfl
  · rw [hkeeps State.spad (fun _ _ => rfl) (State.progress_keeps _ fun _ _ => rfl), State.putReq_spad, hspad]
  · rw [hkeeps State.tags (fun _ _ => rfl) (State.progress_keeps _ fun _ _ => rfl), State.putReq_tags, htags]
  · rw [hkeeps State.hbm (fun _ _ => rfl) (State.progress_keeps _ fun _ _ => rfl), State.putReq_hbm, hhbm]

/-! ## An atomic at its place: a read, then a write (08 R173, R175) -/

theorem State.req_single {r : Req} (h : s.reqs = [r]) : s.req r.id = some r := by
  simp [State.req, h, pick]

theorem State.setReq_single {r q : Req} (h : s.reqs = [r]) (hid : q.id = r.id) : (s.setReq q).reqs = [q] := by
  simp [State.setReq, h, hid]

/-- A forwarding entry that ends changes cores only. -/
theorem State.endMemberFwd_keeps {α : Type} (p : State → α) (hset : ∀ (t : State) (c : Map Core), p { t with cores := c } = p t)
    (s : State) : p s.endMemberFwd = p s := hset s _

/-- A ripe request that is met by its place is performed there. -/
theorem exec_requestPerform_here {r : Req} (hreqs : s.reqs = [r]) (hripe : s.ripe r = true) (hserve : s.serve r = .here) :
    ∃ t, exec (.requestPerform r.id) s = .next t ∧ t.reqs = (s.perform r).reqs ∧ t.spad = (s.perform r).spad ∧
      t.hbm = (s.perform r).hbm := by
  have hexec : exec (.requestPerform r.id) s = .next (if r.redir then (s.perform r).endMemberFwd else s.perform r) := by
    have h0 : exec (.requestPerform r.id) s = execRequestPerform r.id s := by rfl
    rw [h0, execRequestPerform, State.req_single hreqs]
    simp [hripe, hserve]
  refine ⟨_, hexec, ?_⟩
  split
  · exact ⟨rfl, rfl, rfl⟩
  · exact ⟨rfl, rfl, rfl⟩

/-- Its read leaves it between its read and its write. -/
theorem State.perform_read {r : Req} (hreqs : s.reqs = [r]) (hop : r.op.atomic = true) (hphase : r.phase = .issued) :
    s.perform r = s.setReq { r with phase := .readDone, val := s.rd r.loc r.size, seen := s.rd r.loc r.size } := by
  have hbusy : s.atomBusy r = false := by simp [State.atomBusy, hreqs]
  simp only [State.perform, hop, hphase, hbusy, if_true, Bool.false_eq_true, if_false]

theorem ite_keeps {α : Type} {p : State → α} {c : Prop} [Decidable c] {t u : State} {x : α} (ht : p t = x) (hu : p u = x) :
    p (if c then t else u) = x := by
  split
  · exact ht
  · exact hu

/-- The log of a core's bank stands in HBM; what it notes leaves the scratchpads and the requests alone. -/
theorem State.logServed_keeps (s : State) (r : Req) :
    (s.logServed r).reqs = s.reqs ∧ (s.logServed r).rd r.loc r.size = s.rd r.loc r.size := by
  have hlog {α : Type} (p : State → α) (hcore : ∀ (u : State) (n : Nat) (k : Core), p (u.setCore n k) = p u)
      (hhbm : ∀ (u : State) (m : List Host.Cell), p { u with hbm := m } = p u)
      (hparts : ∀ (u : State) (ps : Map Part), p { u with parts := ps } = p u)
      (htell : ∀ (u : State) (x : List Nat), p (u.tell x) = p u)
      (core kind : Nat) (o : Origin) (val : Nat) (ext : List Byte) : p (s.logRx core kind o val ext) = p s := by
    have hwr (u : State) (pa n v : Nat) : p (u.wrH pa n v) = p u := hhbm u _
    have hpresent (part i : Nat) : p (s.markPresent part i) = p s := by
      unfold State.markPresent
      split
      · exact ite_keeps rfl (hparts s _)
      · rfl
    unfold State.logRx
    refine ite_keeps rfl (ite_keeps (hpresent _ _) (ite_keeps ((htell _ _).trans (hcore s _ _)) ?_))
    rw [hcore, hhbm, hwr, hwr, hwr, hwr]
  unfold State.logServed
  split
  case h_1 core off hloc =>
    split
    · exact ⟨rfl, rfl⟩
    · refine ⟨hlog State.reqs (fun _ _ _ => rfl) (fun _ _ => rfl) (fun _ _ => rfl) (fun _ _ => rfl) core _ _ _ _, ?_⟩
      rw [hloc]
      exact hlog (fun u => u.rdS core off r.size) (fun _ _ _ => rfl) (fun _ _ => rfl) (fun _ _ => rfl) (fun _ _ => rfl) core _ _ _ _
  case h_2 => exact ⟨rfl, rfl⟩

theorem State.addCerrOn_keeps {α : Type} (p : State → α) (hset : ∀ (t : State) (n : Nat) (k : Core), p (t.setCore n k) = p t)
    (s : State) (core n : Nat) : p (s.addCerrOn core n) = p s := by
  obtain h | ⟨k, h⟩ := s.addCerrOn_cases core n
  · rw [h]
  · rw [h, hset]

theorem State.opRead_keeps {α : Type} (p : State → α) (hset : ∀ (t : State) (n : Nat) (k : Core), p (t.setCore n k) = p t)
    (s : State) (op : ReqOp) (core : Nat) (l : Loc) (n : Nat) : p (s.opRead op core l n) = p s := by
  unfold State.opRead
  split
  · exact State.addCerrOn_keeps p hset s _ _
  · rfl

theorem State.rd_setReq (s : State) (q : Req) (l : Loc) (n : Nat) : (s.setReq q).rd l n = s.rd l n := by
  cases l <;> rfl

theorem State.rd_lt (s : State) (l : Loc) (n : Nat) : s.rd l n < 256 ^ n := by
  cases l <;> exact readN_lt _ _ _

/-- A store at a place reads back, but for the hardware's words. -/
theorem State.rd_store_self (s : State) (l : Loc) {n : Nat} (v : Nat)
    (hfree : ∀ core off j, l = .spad core off → j < n → s.ringHw core (off + j) = false) :
    (s.store l n v).rd l n = v % 256 ^ n := by
  cases l with
  | spad core off =>
    obtain rfl | hn := Nat.eq_zero_or_pos n
    · exact (Nat.mod_one v).symm
    · exact State.rdS_storeS_plain hn fun j hj => hfree core off j rfl hj
  | hbm pa => exact readN_writeN_self n s.hbm pa v

/-- Its write leaves the new value, and keeps the old one for the answer. -/
theorem State.perform_write {r : Req} {x : Option Nat × Nat} (hreqs : s.reqs = [r]) (hop : r.op.atomic = true)
    (hphase : r.phase = .readDone) (hval : r.val = s.rd r.loc r.size) (hseen : r.seen = s.rd r.loc r.size)
    (hx : x = r.op.act (originAt r.loc r.core r.scope) (s.rd r.loc r.size)) :
    (s.perform r).reqs = [{ r with phase := .performed, val := x.2 }] ∧
      ((∀ core off j, r.loc = .spad core off → j < r.size → s.ringHw core (off + j) = false) →
        (s.perform r).rd r.loc r.size = (x.1.getD (s.rd r.loc r.size)) % 256 ^ r.size) := by
  set m := s.rd r.loc r.size with hm
  set t := (match x.1 with
    | some v => s.overtake (s.store r.loc r.size v) r
    | none => s) with ht
  have hperf : s.perform r = ((t.setReq { r with phase := .performed, val := x.2 }).opRead r.op r.core r.loc r.size).logServed r := by
    have hne : ¬ Phase.readDone = Phase.issued := by decide
    simp only [State.perform, hop, hphase, ← hm, hseen, hval, if_true, if_neg hne, ← hx]
    rfl
  have htr : t.reqs = [r] := by
    rw [ht]
    cases x.1 with
    | none => exact hreqs
    | some v =>
      have hstore : (s.store r.loc r.size v).reqs = [r] := by
        cases r.loc with
        | spad core off =>
          refine Eq.trans ?_ hreqs
          unfold State.store State.storeS State.wrBytesS
          dsimp only
          split <;> rfl
        | hbm pa => exact hreqs
      simp [State.overtake, hstore]
  obtain ⟨hlr, hld⟩ := State.logServed_keeps ((t.setReq { r with phase := .performed, val := x.2 }).opRead r.op r.core r.loc r.size) r
  rw [hperf]
  refine ⟨?_, fun hfree => ?_⟩
  · rw [hlr, State.opRead_keeps State.reqs (fun _ _ _ => rfl)]
    exact State.setReq_single htr rfl
  · rw [hld, State.opRead_keeps (fun u => u.rd r.loc r.size) (fun u n k => by cases r.loc <;> rfl), State.rd_setReq, ht]
    cases hx1 : x.1 with
    | none => exact (Nat.mod_eq_of_lt (s.rd_lt _ _)).symm
    | some v =>
      have hover : (s.overtake (s.store r.loc r.size v) r).rd r.loc r.size = (s.store r.loc r.size v).rd r.loc r.size := by
        cases r.loc <;> rfl
      exact hover.trans (s.rd_store_self r.loc v hfree)

/-- Settles O17: a calm focus's load or store through the local window is performed at issue, an atomic is sent to its place, and there it is performed in its two steps. -/
theorem localAccess : Obligations.LocalAccess := by
  unfold Obligations.LocalAccess
  refine ⟨fun s i f e h hf hes hop hal hfit hwp hfwd => local_load h hf hes hop hal hfit hwp hfwd,
    fun s i f e v h hf hes hop hal hfit harea hfwd => ?_,
    fun s i f e h hf hes hop hal hfit harea hfwd => local_atomic h hf hes hop hal hfit harea hfwd,
    fun s r m x hreqs hop hripe hserve hm => ⟨fun hphase => ?_, fun hphase hval hseen hx => ?_⟩⟩
  · obtain ⟨t, ht, hspad, hpc, hkept⟩ := local_store h hf hes hop hal hfit harea hfwd
    obtain ⟨-, -, hpos, -⟩ := (shape_of_memOf hf).elem hes
    have hrd : t.rdS s.here f.addr.toNat f.n = (s.storeS s.here f.addr.toNat (leBytes f.n v)).rdS s.here f.addr.toNat f.n := by
      rw [State.rdS, State.rdS, hspad]
    exact ⟨t, ht, fun hfree => hrd.trans (State.rdS_storeS_plain hpos hfree),
      fun hhw => hrd.trans (State.rdS_storeS_hardware hpos hhw), hpc, hkept⟩
  · obtain ⟨t, ht, hr, hsp, hh⟩ := exec_requestPerform_here hreqs hripe hserve
    rw [State.perform_read hreqs hop hphase] at hr hsp hh
    exact ⟨t, ht, by rw [hr, hm]; exact State.setReq_single hreqs rfl, hsp, hh⟩
  · obtain ⟨t, ht, hr, hsp, hh⟩ := exec_requestPerform_here hreqs hripe hserve
    obtain ⟨hr', hrd⟩ := State.perform_write hreqs hop hphase (hval.trans hm) (hseen.trans hm) (hm ▸ hx)
    refine ⟨t, ht, hr.trans hr', fun hfree => ?_⟩
    have hsame : t.rd r.loc r.size = (s.perform r).rd r.loc r.size := by
      cases r.loc with
      | spad core off => exact congrArg (fun c => readN c (spadKey core off) r.size) hsp
      | hbm pa => exact congrArg (fun c => readN c pa r.size) hh
    rw [hsame, hrd hfree, hm]

end Sys2Proof.Machine

/-! PROOFS. Fences and WAITC (09 R184, R197 to R199). -/

namespace Sys2Proof.Machine

variable {s : State}

/-! ## What a fence leaves -/

theorem State.releaseAt_cx (s : State) (scope : Nat) : (s.releaseAt scope).cx = s.cx := by
  unfold State.releaseAt
  split <;> rfl

theorem State.releaseAt_reqs (s : State) (scope : Nat) :
    (s.releaseAt scope).reqs = if scope ≤ 1 then (s.markRel s.cur scope).reqs else s.reqs := by
  unfold State.releaseAt
  split <;> rfl

/-- The gates that a fence adds: of loads it holds back, of all that a release covers, and of stores. -/
theorem State.fenceAt_cx (s : State) (acq rel full : Bool) (scope : Nat) : (s.fenceAt acq rel full scope).cx = s.cx.gate
    ((if acq ∧ 1 ≤ scope then s.mine s.cur (scope == 3) (fun r => r.reads) else []) ++
      if full && decide (2 ≤ scope) then s.mine s.cur (scope == 3) (fun r => r.writes) else [])
    ((if acq ∧ 1 ≤ scope then s.mine s.cur (scope == 3) (fun r => r.reads) else []) ++
      if rel && decide (2 ≤ scope) then s.covered s.cur (scope == 3) else []) := by
  unfold State.fenceAt
  dsimp only
  refine (ite_keeps (p := State.cx) (x := _) ?_ rfl).trans (State.cx_setCx _ _)
  exact State.releaseAt_cx _ scope

theorem State.fenceAt_reqs (s : State) (acq rel full : Bool) (scope : Nat) : (s.fenceAt acq rel full scope).reqs =
    if rel = true ∧ scope ≤ 1 then (s.markRel s.cur scope).reqs else s.reqs := by
  unfold State.fenceAt
  dsimp only
  cases rel with
  | false => simp
  | true =>
    simp only [if_true, true_and]
    exact State.releaseAt_reqs _ scope

@[simp] theorem Ctx.gate_nil (c : Ctx) : c.gate [] [] = c := by simp [Ctx.gate]

@[simp] theorem Ctx.gateLd_gate (c : Ctx) (ld st : List Nat) : (c.gate ld st).gateLd = c.gateLd ++ ld := rfl

@[simp] theorem Ctx.gateSt_gate (c : Ctx) (ld st : List Nat) : (c.gate ld st).gateSt = c.gateSt ++ st := rfl

/-! ## WAITC -/

section

variable (a b wl ws wc wm : BitVec 4)

theorem exec_waitc (s : State) : exec (.waitc a b wl ws wc wm) s = execWaitc a b wl ws wc wm s := by rfl

theorem exec_waitc_met (h : s.waitcMet wl ws wc wm = true) (hf : s.cx.failures = []) :
    exec (.waitc a b wl ws wc wm) s = .next s.advance := by
  rw [exec_waitc, execWaitc, if_neg (not_not.2 h), hf]
  rfl

/-- Once the counts are met the oldest remote failure is reported, at the successor. -/
theorem exec_waitc_failed {x : Word} {r : List Word} (h : s.waitcMet wl ws wc wm = true) (hf : s.cx.failures = x :: r)
    (hw : s.trapWait = none) : exec (.waitc a b wl ws wc wm) s =
      .next ((s.setCx { s.cx with failures := r }).advance.takeTrap xRemote x (s.setCx { s.cx with failures := r }).advance.cx.pc) := by
  rw [exec_waitc, execWaitc, if_neg (not_not.2 h), hf, hw]

theorem exec_waitc_unmet (h : s.waitcMet wl ws wc wm = false) : exec (.waitc a b wl ws wc wm) s =
    .next ((if met (s.classM s.cur) wm then s else s.setCx (s.cx.waitTiles (s.tileIds s.cur))).block
      (.waitc wl.toNat ws.toNat wc.toNat wm.toNat)) := by
  rw [exec_waitc, execWaitc, if_pos (by simp [h])]
  rfl

end

/-- Settles O18: a fence's gates are those of its kind at its scope, and WAITC's cases are its own. -/
theorem fencesAndWaitc : Obligations.FencesAndWaitc := by
  unfold Obligations.FencesAndWaitc
  intro s a b c imm wl ws wc wm sc full acq rel lds sts all
  have hfull : full.cx = _ := s.fenceAt_cx true true true sc
  have hacq : acq.cx = _ := s.fenceAt_cx true false false sc
  have hrel : rel.cx = _ := s.fenceAt_cx false true false sc
  have hfullR : full.reqs = _ := s.fenceAt_reqs true true true sc
  have hacqR : acq.reqs = _ := s.fenceAt_reqs true false false sc
  have hrelR : rel.reqs = _ := s.fenceAt_reqs false true false sc
  rw [hfull, hacq, hrel, hfullR, hacqR, hrelR]
  refine ⟨by rfl, by rfl, by rfl, fun h0 => ?_, fun h1 => ?_, fun h => ?_, fun h => ?_, fun h => ?_,
    exec_waitc_met a b wl ws wc wm, fun x r => exec_waitc_failed a b wl ws wc wm, exec_waitc_unmet a b wl ws wc wm⟩
  · simp [h0]
  · have hnear : ¬ 2 ≤ sc := by omega
    simp [h1, hnear]
  · have hpos : 1 ≤ sc := by omega
    simp [hpos, lds]
  · simp [h, lds]
  · have hpos : 1 ≤ sc := by omega
    have hfar : ¬ sc ≤ 1 := by omega
    simp [h, hpos, hfar, lds, sts, all]

end Sys2Proof.Machine

/-! PROOFS. Futures (18 R311 to R317): the six instructions act at the word's place, where the tag, the value and the bereaved list decide. -/

namespace Sys2Proof.Machine

variable {s : State}

/-! ## Going on, within a run of REP too -/

theorem State.putReq_keeps {α : Type} (p : State → α) (hreq : ∀ (t : State) (q : List Req) (n : Nat), p { t with reqs := q, uid := n } = p t)
    (hset : ∀ (t : State) (c : Ctx), p (t.setCx c) = p t) (hcl : ∀ (t : State) (n : Nat) (k : Cluster), p (t.setCluster n k) = p t)
    (s : State) (r : Req) : p (s.putReq r) = p s := by
  unfold State.putReq
  refine ite_keeps (hreq s _ _) (ite_keeps ?_ ?_)
  · exact (hset _ _).trans ((hcl _ _ _).trans (hreq s _ _))
  · exact (hcl _ _ _).trans (hreq s _ _)

theorem State.wrOwn_keeps {α : Type} (p : State → α) (hreq : ∀ (t : State) (q : List Req) (n : Nat), p { t with reqs := q, uid := n } = p t)
    (hset : ∀ (t : State) (c : Ctx), p (t.setCx c) = p t) (hcl : ∀ (t : State) (n : Nat) (k : Cluster), p (t.setCluster n k) = p t)
    (hwr : ∀ (t : State) (core off n v : Nat), p (t.wrS core off n v) = p t) (s : State) (cid off v : Nat) :
    p (s.wrOwn cid off v) = p s := by
  unfold State.wrOwn
  exact ite_keeps (State.putReq_keeps p hreq hset hcl s _) (hwr s _ _ _ _)

theorem State.advance_keeps_all {α : Type} (p : State → α)
    (hreq : ∀ (t : State) (q : List Req) (n : Nat), p { t with reqs := q, uid := n } = p t)
    (hset : ∀ (t : State) (c : Ctx), p (t.setCx c) = p t) (hcl : ∀ (t : State) (n : Nat) (k : Cluster), p (t.setCluster n k) = p t)
    (hwr : ∀ (t : State) (core off n v : Nat), p (t.wrS core off n v) = p t) (s : State) : p s.advance = p s := by
  unfold State.advance
  dsimp only
  split
  · refine ite_keeps (hset s _) (ite_keeps (hset s _) ?_)
    exact (State.wrOwn_keeps p hreq hset hcl hwr _ _ _ _).trans (hset s _)
  · exact hset s _

@[simp] theorem State.full_advance (s : State) (core off : Nat) : s.advance.full core off = s.full core off :=
  State.advance_keeps_all (fun t => t.full core off) (fun _ _ _ => rfl) (fun _ _ => rfl) (fun _ _ _ => rfl)
    (fun _ _ _ _ _ => rfl) s

@[simp] theorem State.bereavedAt_advance (s : State) (core off : Nat) : s.advance.bereavedAt core off = s.bereavedAt core off :=
  State.advance_keeps_all (fun t => t.bereavedAt core off) (fun _ _ _ => rfl) (fun _ _ => rfl) (fun _ _ _ => rfl)
    (fun _ _ _ _ _ => rfl) s

/-! ## What notes and removals keep -/

theorem State.named_keeps {α : Type} (p : State → α) (hset : ∀ (t : State) (c : Ctx), p (t.setCx c) = p t) (s : State) (l : Loc)
    (a : Word) : p (s.named l a) = p s := by
  unfold State.named State.noteBrvAt
  exact ite_keeps (hset s _) rfl

theorem State.dropFuture_keeps {α : Type} (p : State → α) (hest : ∀ (t : State) (e : Map Holding), p { t with estate := e } = p t)
    (s : State) (core off : Nat) : p (s.dropFuture core off) = p s := by
  unfold State.dropFuture
  split
  · exact hest s _
  · rfl

/-- An ended entry of the bereaved list is gone. -/
@[simp] theorem State.bereavedAt_endBereaved (s : State) (core off : Nat) : (s.endBereaved core off).bereavedAt core off = false := by
  have hcore : (s.endBereaved core off).core core =
      { s.core core with bereaved := (s.core core).bereaved.filter (fun x => x.1 != off) } := s.core_setCore_self core _
  rw [State.bereavedAt, hcore]
  simp [List.any_filter]

@[simp] theorem State.full_endBereaved (s : State) (core off c o : Nat) : (s.endBereaved core off).full c o = s.full c o := rfl

/-! ## Giving slots back (16 R299) -/

section

variable {α : Type} (p : State → α) (hcore : ∀ (t : State) (n : Nat) (k : Core), p (t.setCore n k) = p t)
  (hparts : ∀ (t : State) (ps : Map Part), p { t with parts := ps } = p t)

include hparts

theorem State.markPresent_keeps (s : State) (part cat : Nat) : p (s.markPresent part cat) = p s := by
  unfold State.markPresent
  split
  · exact ite_keeps rfl (hparts s _)
  · rfl

include hcore

theorem State.noteGiven_keeps (s : State) (core slot : Nat) : p (s.noteGiven core slot) = p s := by
  unfold State.noteGiven
  dsimp only
  split
  case h_1 =>
    split
    · exact hcore s _ _
    · exact (State.markPresent_keeps p hparts _ _ _).trans (hcore s _ _)
    · exact (hcore _ _ _).trans (hcore s _ _)
    · exact (hcore _ _ _).trans (hcore s _ _)
  case h_2 => rfl

variable (hwr : ∀ (t : State) (core off n v : Nat), p (t.wrS core off n v) = p t)

include hwr

/-- Giving slots back moves HEAD and notes times. -/
theorem State.giveBack_keeps (core d f n : Nat) (s : State) : p (s.giveBack core d f n) = p s := by
  induction n generalizing s with
  | zero => rfl
  | succ n ih =>
    rw [State.giveBack]
    refine ite_keeps rfl ?_
    rw [ih, State.noteGiven_keeps p hcore hparts]
    exact (hwr _ _ _ _ _).trans (State.addCerrOn_keeps p hcore s _ _)

theorem State.slotEmptied_keeps (s : State) (core off : Nat) : p (s.slotEmptied core off) = p s := by
  unfold State.slotEmptied
  split
  · rfl
  · exact foldl_keeps (fun t r => ite_keeps (State.giveBack_keeps p hcore hparts hwr _ _ _ _ t) rfl) _ s

end

theorem State.slotEmptied_tags (s : State) (core off : Nat) : (s.slotEmptied core off).tags = s.tags :=
  State.slotEmptied_keeps State.tags (fun _ _ _ => rfl) (fun _ _ => rfl) (fun _ _ _ _ _ => rfl) s core off

@[simp] theorem State.full_emptyTag (s : State) (core off : Nat) : (s.emptyTag core off).full core off = false := by
  rw [State.full, State.emptyTag, State.slotEmptied_tags]
  exact s.full_setTag core off false

@[simp] theorem State.full_engineW (s : State) (core off v : Nat) : (s.engineW core off v).full core off = true :=
  State.full_setTag _ core off true

@[simp] theorem State.bereavedAt_engineW (s : State) (core off v : Nat) : (s.engineW core off v).bereavedAt core off = false :=
  State.bereavedAt_endBereaved _ core off

theorem State.rdS_engineW (s : State) (core off v : Nat) : (s.engineW core off v).rdS core off 8 = v % 256 ^ 8 :=
  s.rdS_wrS_self core off 8 v

theorem State.keepW_lt (s : State) (core off : Nat) (v : Word) : s.keepW core off v.toNat < 256 ^ 8 := by
  unfold State.keepW
  split
  · exact readN_lt 8 _ _
  · exact v.isLt

/-! ## A word operation on a future -/

/-- A word of a scratchpad is reached through the local or the group window only. -/
theorem windowOnly_of_wordAt {scope n addr core off : Nat} {counts wr rel : Bool} {u : State}
    (h : s.wordAt scope n counts wr rel addr (.spad core off) u) (k : Out) : windowOnly addr s k = k := by
  obtain ⟨-, -, ⟨a, hloc, hplace, -⟩, -⟩ := h
  set e : Elem := ⟨addr, n, probeOp wr, 0, 0, false⟩ with he
  have hto : s.locate 2 e = .to a := by
    unfold State.locateAll State.locateGo at hloc
    split at hloc
    case h_1 b hb =>
      have hab : b = a := by simpa [State.locateGo] using hloc
      rw [hb, hab]
    case h_2 => simp at hloc
    case h_3 =>
      split at hloc
      · simp at hloc
      · simp [State.locateGo] at hloc
  have hpaged (pa : Nat) : a ≠ .hbm pa := by
    rintro rfl
    cases hplace
  have hnot (hr : rngOf addr = .user ∨ rngOf addr = .sup) : False := by
    unfold State.locate at hto
    dsimp only at hto
    split at hto
    · cases hto
    · have hgo : (match s.xlate s.here s.cx.group e.va (accOf e.op) s.cx.sup with
          | .hit pa => Res.to (.hbm pa)
          | .fault k => .bad k e.va
          | .miss => .miss) = .to a → False := by
        split
        · intro h
          exact hpaged _ (Res.to.inj h).symm
        · intro h
          cases h
        · intro h
          cases h
      obtain hr | hr := hr
      · rw [hr] at hto
        dsimp only at hto
        split at hto
        · cases hto
        · exact hgo hto
      · rw [hr] at hto
        dsimp only at hto
        split at hto
        · cases hto
        · split at hto
          · cases hto
          · exact hgo hto
  unfold windowOnly
  split
  case h_1 hr => exact (hnot (.inl hr)).elim
  case h_2 hr => exact (hnot (.inr hr)).elim
  case h_3 => rfl

/-- An operation on a future whose checks pass acts at its word. -/
theorem fe_ok {wr rel : Bool} {watch : Bool × Bool} {b : BitVec 4} {imm : BitVec 22} {core off : Nat} {u : State}
    (act : Nat → Nat → Word → State → Out)
    (h : s.wordAt 2 8 (decide (0x20000 ≤ (s.w b + imm.signExtend 64).toNat)) wr rel (s.w b + imm.signExtend 64).toNat
      (.spad core off) u) : fe wr rel watch b imm s act = act core off (s.w b + imm.signExtend 64) u := by
  unfold fe
  rw [windowOnly_of_wordAt h, atWord_ok s h, toWord_toNat]

/-- A map with its values changed. -/
theorem mget_map {α β : Type} (f : α → β) (m : Map α) (i : Nat) : mget (m.map fun x => (x.1, f x.2)) i = (mget m i).map f := by
  induction m with
  | nil => rfl
  | cons x r ih =>
    obtain ⟨k, v⟩ := x
    rw [List.map_cons, mget, mget]
    split
    · rfl
    · exact ih

/-- What the arrival of a context's access leaves of a core's forwarding entries for it: none. -/
def Core.dropFwd (cid : Nat) (k : Core) : Core := { k with fwd := k.fwd.filter fun f => f.cid != some cid }

theorem State.core_endFwd (s : State) (cid n : Nat) : (s.endFwd cid).core n = (s.core n).dropFwd cid := by
  have h : mget (s.endFwd cid).cores n = (mget s.cores n).map (Core.dropFwd cid) := mget_map (Core.dropFwd cid) s.cores n
  rw [State.core, State.core, mgetD, mgetD, h]
  cases mget s.cores n <;> rfl

@[simp] theorem State.bereavedAt_endFwd (s : State) (cid core off : Nat) :
    (s.endFwd cid).bereavedAt core off = s.bereavedAt core off := by
  rw [State.bereavedAt, State.core_endFwd]
  rfl

section

variable (a b c : BitVec 4) (imm : BitVec 22) (s : State)

theorem exec_ldf : exec (.ldf a b c imm) s = execLdf a b c imm s := by rfl

theorem exec_ldfe : exec (.ldfe a b c imm) s = execLdfe a b c imm s := by rfl

theorem exec_fill : exec (.fill a b c imm) s = execFill a b c imm s := by rfl

theorem exec_fillX : exec (.fillX a b c imm) s = execFillX a b c imm s := by rfl

theorem exec_empty : exec (.empty a b c imm) s = execEmpty a b c imm s := by rfl

theorem exec_feq : exec (.feq a b c imm) s = execFeq a b c imm s := by rfl

end

theorem State.samePoint_named (s : State) (l : Loc) (x : Word) : SamePoint s (s.named l x) := by
  unfold State.named State.noteBrvAt
  split
  · exact .setCx rfl rfl rfl
  · exact .of_ctxs rfl rfl

theorem State.samePoint_dropFuture (s : State) (core off : Nat) : SamePoint s (s.dropFuture core off) :=
  .of_ctxs (State.dropFuture_keeps State.ctxs (fun _ _ => rfl) _ _ _) (State.dropFuture_keeps State.cur (fun _ _ => rfl) _ _ _)

/-- The state of a word that the engine has written, before its holding is removed and its waiters are told. -/
def State.filledX (u : State) (core off : Nat) (v addr : Word) : State :=
  ((u.engineW core off (u.keepW core off v.toNat)).endFwd u.cur).named (.spad core off) addr

/-- What FILL.x leaves. -/
def State.filledXDone (u : State) (core off : Nat) (v addr : Word) : State :=
  ((u.filledX core off v addr).dropFuture core off).progress u.cx.group

section

variable (u : State) (core off : Nat) (v addr : Word)

/-- A part of the state that a focus, the estate and the groups do not hold is what the engine's write left. -/
theorem State.filledXDone_keeps {α : Type} (p : State → α) (hset : ∀ (t : State) (c : Ctx), p (t.setCx c) = p t)
    (hest : ∀ (t : State) (e : Map Holding), p { t with estate := e } = p t) (hgrp : ∀ (t : State) (g : Group), p (t.setGrp g) = p t) :
    p (u.filledXDone core off v addr) = p ((u.engineW core off (u.keepW core off v.toNat)).endFwd u.cur) := by
  rw [State.filledXDone, State.progress_keeps p hgrp, State.dropFuture_keeps p hest, State.filledX, State.named_keeps p hset]

theorem State.samePoint_filledXDone : SamePoint u (u.filledXDone core off v addr) := by
  have hwrite : SamePoint u ((u.engineW core off (u.keepW core off v.toNat)).endFwd u.cur) := .of_ctxs rfl rfl
  exact ((hwrite.trans (State.samePoint_named _ _ _)).trans (State.samePoint_dropFuture _ _ _)).trans (State.samePoint_progress _ _)

theorem State.full_filledXDone : (u.filledXDone core off v addr).advance.full core off = true := by
  rw [State.full_advance, State.filledXDone_keeps u core off v addr (fun t => t.full core off) (fun _ _ => rfl) (fun _ _ => rfl)
    (fun _ _ => rfl)]
  exact State.full_engineW u core off _

theorem State.bereavedAt_filledXDone : (u.filledXDone core off v addr).advance.bereavedAt core off = false := by
  rw [State.bereavedAt_advance, State.filledXDone_keeps u core off v addr (fun t => t.bereavedAt core off) (fun _ _ => rfl)
    (fun _ _ => rfl) (fun _ _ => rfl), State.bereavedAt_endFwd, State.bereavedAt_engineW]

theorem State.rdS_filledXDone (hrep : u.cx.rep = none) :
    (u.filledXDone core off v addr).advance.rdS core off 8 = u.keepW core off v.toNat := by
  rw [State.advance_keeps (fun t => t.rdS core off 8) (fun _ _ => rfl) ((u.samePoint_filledXDone core off v addr).rep.trans hrep),
    State.filledXDone_keeps u core off v addr (fun t => t.rdS core off 8) (fun _ _ => rfl) (fun _ _ => rfl) (fun _ _ => rfl)]
  exact (State.rdS_engineW u core off _).trans (Nat.mod_eq_of_lt (u.keepW_lt core off v))

end

/-- What EMPTY leaves of a word: empty, and no longer bereaved. -/
theorem empty_leaves (u : State) (core off : Nat) (addr : Word) :
    let t := (((u.emptyTag core off).endBereaved core off).named (.spad core off) addr).dropFuture core off
    t.advance.full core off = false ∧ t.advance.bereavedAt core off = false := by
  intro t
  have hkeeps {α : Type} (p : State → α) (hset : ∀ (t : State) (c : Ctx), p (t.setCx c) = p t)
      (hest : ∀ (t : State) (e : Map Holding), p { t with estate := e } = p t) :
      p t = p ((u.emptyTag core off).endBereaved core off) :=
    (State.dropFuture_keeps p hest _ _ _).trans (State.named_keeps p hset _ _ _)
  refine ⟨?_, ?_⟩
  · rw [State.full_advance, hkeeps (fun t => t.full core off) (fun _ _ => rfl) (fun _ _ => rfl), State.full_endBereaved,
      State.full_emptyTag]
  · rw [State.bereavedAt_advance, hkeeps (fun t => t.bereavedAt core off) (fun _ _ => rfl) (fun _ _ => rfl),
      State.bereavedAt_endBereaved]

/-- The state at a word's place has the focus's own run of REP. -/
theorem rep_of_wordAt {scope n addr : Nat} {counts wr rel : Bool} {l : Loc} {u : State}
    (h : s.wordAt scope n counts wr rel addr l u) : u.cx.rep = s.cx.rep := by
  obtain ⟨-, -, ⟨a, -, -, -, -, -, -, rfl⟩, -⟩ := h
  rw [State.atUse, State.cx_setCx]

section

variable {a b : BitVec 4} {imm : BitVec 22} (c : BitVec 4) {s u : State} {core off : Nat} (hs : s.sound = true)

/-- The checks of a word operation of the futures on the word at offset `off` of the scratchpad of `core` pass and leave `u`. -/
def State.futureAt (s : State) (b : BitVec 4) (imm : BitVec 22) (wr rel : Bool) (core off : Nat) (u : State) : Prop :=
  s.wordAt 2 8 (decide (0x20000 ≤ (s.w b + imm.signExtend 64).toNat)) wr rel (s.w b + imm.signExtend 64).toNat (.spad core off) u

include hs

theorem exec_ldf_at (h : s.futureAt b imm false false core off u) :
    exec (.ldf a b c imm) s =
      if u.bereavedAt core off then .next (u.takeTrap 0x13 (s.w b + imm.signExtend 64) u.cx.pc)
      else if ¬ u.full core off then .next (u.block (.future core off))
      else .next ((u.setW a (toWord (u.rdS core off 8))).named (.spad core off) (s.w b + imm.signExtend 64)).advance := by
  rw [exec_ldf, execLdf, reading_sound s hs, fe_ok _ h]
  rfl

theorem exec_ldfe_at (h : s.futureAt b imm true false core off u) :
    exec (.ldfe a b c imm) s =
      if u.bereavedAt core off then .next (u.takeTrap 0x13 (s.w b + imm.signExtend 64) u.cx.pc)
      else if ¬ u.full core off then .next (u.block (.future core off))
      else .next (((u.emptyTag core off).setW a (toWord (u.rdS core off 8))).named (.spad core off)
        (s.w b + imm.signExtend 64)).advance := by
  rw [exec_ldfe, execLdfe, reading_sound s hs, fe_ok _ h]
  rfl

theorem exec_fill_at (h : s.futureAt b imm true true core off u) :
    exec (.fill a b c imm) s =
      if u.bereavedAt core off then .next (u.takeTrap 0x13 (s.w b + imm.signExtend 64) u.cx.pc)
      else if u.full core off then .next (u.takeTrap 0x10 (s.w b + imm.signExtend 64) u.cx.pc)
      else .next (((((u.wrS core off 8 (u.keepW core off (u.w a).toNat)).setTag core off true).endFwd u.cur).named (.spad core off)
        (s.w b + imm.signExtend 64)).progress u.cx.group).advance := by
  rw [exec_fill, execFill, reading_sound s hs, fe_ok _ h]
  rfl

theorem exec_fillX_at (h : s.futureAt b imm true true core off u) :
    exec (.fillX a b c imm) s = .next (u.filledXDone core off (u.w a) (s.w b + imm.signExtend 64)).advance := by
  rw [exec_fillX, execFillX, reading_sound s hs, fe_ok _ h]
  rfl

theorem exec_empty_at (h : s.futureAt b imm true false core off u) :
    exec (.empty a b c imm) s = .next ((((u.emptyTag core off).endBereaved core off).named (.spad core off)
      (s.w b + imm.signExtend 64)).dropFuture core off).advance := by
  rw [exec_empty, execEmpty, reading_sound s hs, fe_ok _ h]
  rfl

theorem exec_feq_at (h : s.futureAt b imm false false core off u) :
    exec (.feq a b c imm) s =
      .next ((u.setW a (toWord (if u.full core off then 1 else if u.bereavedAt core off then 2 else 0))).named (.spad core off)
        (s.w b + imm.signExtend 64)).advance := by
  rw [exec_feq, execFeq, reading_sound s hs, fe_ok _ h]
  rfl

end

/-- FILL.x leaves its word full and, outside a run of REP, with the value. -/
theorem fillX_leaves {s u : State} {a b : BitVec 4} {imm : BitVec 22} (c : BitVec 4) {core off : Nat} (hs : s.sound = true)
    (h : s.futureAt b imm true true core off u) :
    ∃ t, exec (.fillX a b c imm) s = .next t ∧ t.full core off = true ∧ t.bereavedAt core off = false ∧
      (s.cx.rep = none → t.rdS core off 8 = u.keepW core off (u.w a).toNat) :=
  ⟨_, exec_fillX_at c hs h, State.full_filledXDone .., State.bereavedAt_filledXDone ..,
    fun hrep => State.rdS_filledXDone _ _ _ _ _ ((rep_of_wordAt h).trans hrep)⟩

/-- Settles O19: each instruction reaches its word, and then takes the branch that the word's tag and bereavement name. -/
theorem futureResult : Obligations.FutureResult := by
  unfold Obligations.FutureResult
  refine ⟨?_, ?_⟩
  · intro s u a b c imm core off hs addr far hb
    refine ⟨fun h => ⟨fun hf => ?_, ?_⟩, fun h => ⟨fun hf => ?_, exec_empty_at c hs h⟩, fun h => ⟨fun hf => ?_, ?_⟩⟩
    · rw [exec_ldf_at c hs h, if_neg (by simp [hb]), if_neg (by simp [hf])]
    · rw [exec_feq_at c hs h, if_neg (c := u.bereavedAt core off = true) (by simp [hb])]
      cases u.full core off <;> rfl
    · rw [exec_ldfe_at c hs h, if_neg (by simp [hb]), if_neg (by simp [hf])]
    · rw [exec_fill_at c hs h, if_neg (by simp [hb]), if_neg (by simp [hf])]
    · obtain ⟨t, ht, hfull, -, hval⟩ := fillX_leaves (a := a) c hs h
      exact ⟨t, ht, hfull, hval⟩
  · intro s u a b c imm core off hs addr far
    refine ⟨fun hb hf => ⟨fun h => ?_, fun h => ?_⟩, fun hb hf h => ?_,
      fun hb => ⟨fun h => ⟨?_, fun hf => ?_⟩, fun h => ⟨?_, ?_⟩, fun h => ⟨?_, fillX_leaves c hs h⟩⟩⟩
    · rw [exec_ldf_at c hs h, if_neg (by simp [hb]), if_pos (by simp [hf])]
    · rw [exec_ldfe_at c hs h, if_neg (by simp [hb]), if_pos (by simp [hf])]
    · rw [exec_fill_at c hs h, if_neg (by simp [hb]), if_pos hf]
    · rw [exec_ldf_at c hs h, if_pos hb]
    · rw [exec_feq_at c hs h, if_neg (c := u.full core off = true) (by simp [hf]), if_pos hb]
      rfl
    · rw [exec_ldfe_at c hs h, if_pos hb]
    · exact ⟨_, exec_empty_at c hs h, empty_leaves u core off addr⟩
    · rw [exec_fill_at c hs h, if_pos hb]

end Sys2Proof.Machine

/-! PROOFS. Ports (18 R318 to R321): the three instructions between neighbours, the deposit at the target and its acknowledgement. -/

namespace Sys2Proof.Machine

/-! ## The log of a core's inbound events -/

/-- The log of a core stands in HBM; noting an event leaves what the memories, the cores, the partitions and the host's messages do not hold. -/
theorem State.logRx_keeps {α : Type} (p : State → α) (hcore : ∀ (u : State) (n : Nat) (k : Core), p (u.setCore n k) = p u)
    (hhbm : ∀ (u : State) (m : List Host.Cell), p { u with hbm := m } = p u)
    (hparts : ∀ (u : State) (ps : Map Part), p { u with parts := ps } = p u)
    (htell : ∀ (u : State) (x : List Nat), p (u.tell x) = p u)
    (s : State) (core kind : Nat) (o : Origin) (val : Nat) (ext : List Byte) : p (s.logRx core kind o val ext) = p s := by
  have hwr (u : State) (pa n v : Nat) : p (u.wrH pa n v) = p u := hhbm u _
  have hpresent (part i : Nat) : p (s.markPresent part i) = p s := by
    unfold State.markPresent
    split
    · exact ite_keeps rfl (hparts s _)
    · rfl
  unfold State.logRx
  refine ite_keeps rfl (ite_keeps (hpresent _ _) (ite_keeps ((htell _ _).trans (hcore s _ _)) ?_))
  rw [hcore, hhbm, hwr, hwr, hwr, hwr]

/-- A core without a log notes nothing. -/
theorem State.logRx_off {s : State} {core : Nat} (h : (s.core core).log.on = false) (kind : Nat) (o : Origin) (val : Nat)
    (ext : List Byte) : s.logRx core kind o val ext = s := by
  unfold State.logRx
  exact if_pos (.inl (by simp [h]))

/-! ## The own cell -/

section

variable {s : State}

theorem State.linkReqs_nil (hf : s.flights = []) : s.linkReqs = [] := by
  rw [State.linkReqs, hf]
  rfl

/-- Nothing on its way waits for nothing. -/
theorem State.localHeld_idle (hr : s.reqs = []) (hl : s.landings = []) (hf : s.flights = []) (hq : (s.core s.here).mq = [])
    (rd wr : Bool) (rs : List (Nat × Nat)) : s.localHeld rd wr rs = false := by
  have hlink := State.linkReqs_nil hf
  have hq' : (s.core (coreOfCid s.cur)).mq = [] := hq
  simp [State.localHeld, State.dstBytes, State.tileRanges, State.nearClear, State.gated, State.gates, State.pendingOf, hr, hl, hf,
    hlink, hq', putRanges, touches]

theorem withPort_ok {d n : Nat} (h : s.portAt d n) (k : Nat → Out) : withPort d s k = k n := by
  obtain ⟨hn, hmine, htheirs⟩ := h
  unfold withPort
  rw [hn]
  exact if_pos ⟨hmine, htheirs⟩

theorem ownCell_ok {d n : Nat} (hs : s.sound = true) (h : s.portAt d n) (hr : s.reqs = []) (hl : s.landings = [])
    (hf : s.flights = []) (hq : (s.core s.here).mq = []) (wr : Bool) (k : Nat → Out) :
    ownCell d wr s k = k (s.mem.cell d) := by
  unfold ownCell
  rw [withPort_ok h]
  simp only [State.localHeld_idle hr hl hf hq, s.badS_sound hs, s.softS_sound hs, counting_zero]
  rfl

end

/-! ## PASS -/

theorem exec_pass (a b c : BitVec 4) (imm : BitVec 6) (s : State) : exec (.pass a b c imm) s = execPass a b c imm s := by rfl

theorem exec_take (a b c : BitVec 4) (imm : BitVec 6) (s : State) : exec (.take a b c imm) s = execTake a b c imm s := by rfl

theorem exec_peek (a b c : BitVec 4) (imm : BitVec 6) (s : State) : exec (.peek a b c imm) s = execPeek a b c imm s := by rfl

theorem exec_portDeposit (id : Nat) (s : State) : exec (.portDeposit id) s = execPortDeposit id s := by rfl

theorem exec_portAck (id : Nat) (s : State) : exec (.portAck id) s = execPortAck id s := by rfl

/-- A placement copy that a member's use brings in. -/
theorem State.placeFill_keeps {α : Type} (p : State → α) (hcore : ∀ (u : State) (n : Nat) (k : Core), p (u.setCore n k) = p u)
    (s : State) (core h v : Nat) : p (s.placeFill core h v) = p s := by
  unfold State.placeFill
  exact ite_keeps rfl (hcore s _ _)

/-- The state of a strand whose PASS has set out. -/
def State.passed (s : State) (n cell : Nat) (v : Word) : State :=
  let t := s.placeFill s.here s.cx.group n
  (t.setCx { s.cx with call := some ⟨t.uid, [(0, none)], false, 0⟩ }).fly (.pass t.cur t.uid s.cx.group n cell v)

theorem pass_sends {a b c : BitVec 4} {imm : BitVec 6} {s : State} {n : Nat} (hs : s.sound = true)
    (hport : s.portAt (portDir imm) n) (hcall : s.cx.call = none) (hpst : (s.member s.cx.group n).pst = 0)
    (hplace : (s.placeOf s.here s.cx.group n).1 = 0) (hgate : s.gated s.cur false true = false)
    (hempty : s.full (s.member s.cx.group n).pcore ((s.member s.cx.group n).cell ((portDir imm + 2) % 4)) = false) :
    exec (.pass a b c imm) s = .next (s.passed n ((portDir imm + 2) % 4) (s.w a)) := by
  rw [exec_pass, execPass]
  simp only [hcall, reading_sound s hs, withPort_ok hport]
  rw [if_neg (by simp [hpst]), if_neg (by simp [hpst, hplace]), if_neg (by simp [hgate]), if_neg (by simp [hempty])]
  have hw : (s.placeFill s.here s.cx.group n).w a = s.w a := State.placeFill_keeps (fun t => t.w a) (fun _ _ _ => rfl) _ _ _ _
  rw [hw]
  rfl

theorem State.passed_leaves (s : State) (n cell : Nat) (v : Word) :
    (s.passed n cell v).flights = s.flights ++ [⟨s.uid, .pass s.cur s.uid s.cx.group n cell v⟩] ∧
      (s.passed n cell v).cx = { s.cx with call := some ⟨s.uid, [(0, none)], false, 0⟩ } := by
  have hflights := State.placeFill_keeps State.flights (fun _ _ _ => rfl) s s.here s.cx.group n
  have huid := State.placeFill_keeps State.uid (fun _ _ _ => rfl) s s.here s.cx.group n
  have hcur := State.placeFill_keeps State.cur (fun _ _ _ => rfl) s s.here s.cx.group n
  unfold State.passed State.fly State.flyFrom
  dsimp only
  refine ⟨?_, ?_⟩
  · rw [State.setCx_flights, State.setCx_uid, hflights, huid, hcur]
  · rw [huid]
    exact State.cx_setCx _ _

theorem pass_answered {a b c : BitVec 4} {imm : BitVec 6} {s : State} (h : s.answered 0) :
    exec (.pass a b c imm) s = .next (s.setCx { s.cx with call := none }).advance := by
  obtain ⟨id, st, r, hcall⟩ := h
  rw [exec_pass, execPass]
  simp only [hcall]
  rfl

/-! ## The deposit and its acknowledgement -/

theorem portDeposit_leaves {s : State} {id cid call group vc cell : Nat} {v : Word} {g : Group}
    (hf : s.flight id = some (.pass cid call group vc cell v)) (hg : s.grp group = some g) (hpst : (s.member group vc).pst = 0)
    (hen : (s.member group vc).portEn = true)
    (hempty : s.full (s.member group vc).pcore ((s.member group vc).cell cell) = false) :
    ∃ t, exec (.portDeposit id) s = .next t ∧
      t.full (s.member group vc).pcore ((s.member group vc).cell cell) = true ∧
      t.rdS (s.member group vc).pcore ((s.member group vc).cell cell) 8 = v.toNat := by
  rw [exec_portDeposit, execPortDeposit, hf]
  dsimp only
  rw [if_neg (by simp [hg, hpst]), if_neg (by simp [hpst]), if_neg (by simp [hen]), if_neg (by simp [hempty])]
  refine ⟨_, rfl, ?_, ?_⟩
  · refine Eq.trans (State.logRx_keeps (fun t => t.full _ _) (fun _ _ _ => rfl) (fun _ _ => rfl) (fun _ _ => rfl)
      (fun _ _ => rfl) _ _ _ _ _ _) ?_
    exact State.full_engineW s _ _ _
  · refine Eq.trans (State.logRx_keeps (fun t => t.rdS _ _ 8) (fun _ _ _ => rfl) (fun _ _ => rfl) (fun _ _ => rfl)
      (fun _ _ => rfl) _ _ _ _ _ _) ?_
    exact (State.rdS_engineW s _ _ _).trans (Nat.mod_eq_of_lt v.isLt)

/-- The answer to a call that a strand still holds is noted in it. -/
theorem State.answer_own {s : State} {cid call : Nat} {k : Call} (hcall : (s.ctx cid).call = some k) (hid : k.id = call)
    (idx v : Nat) : s.answer cid call idx v = s.setCtx cid { s.ctx cid with
      call := some { k with answers := k.answers.map (fun x => if x.1 = idx then (idx, some v) else x) } } := by
  unfold State.answer
  dsimp only
  rw [hcall]
  exact if_pos hid

theorem portAck_leaves {s : State} {id cid call group vc r : Nat} {k : Call} (hf : s.flight id = some (.passAck cid call group vc r))
    (hcall : (s.ctx cid).call = some k) (hid : k.id = call) (hans : k.answers = [(0, none)])
    (hlog : (s.core (coreOfCid cid)).log.on = false) :
    ∃ t, exec (.portAck id) s = .next t ∧ t.flight id = none ∧
      (t.ctx cid).call = some { k with answers := [(0, some r)] } := by
  have hctx : ((s.land id).ctx cid).call = some k := hcall
  rw [exec_portAck, execPortAck, hf]
  dsimp only
  rw [State.answer_own hctx hid, State.logRx_off (by exact hlog), hans]
  exact ⟨_, rfl, s.flight_land id, by rw [State.ctx_setCtx_self]; rfl⟩

/-- Settles O20: each instruction, with nothing on its way to the cell, acts on the cell; the deposit and the acknowledgement then act on the target and on the strand. -/
theorem portResult : Obligations.PortResult := by
  unfold Obligations.PortResult
  intro s a b c imm n hs hport d m mine
  refine ⟨fun hcall hpst hplace hgate hempty => ?_, pass_answered, fun hr hl hf hq => ⟨fun hfull => ⟨?_, ?_⟩, fun hfull => ⟨?_, ?_⟩⟩,
    fun id cid call group vc cell v g hf hg hpst hen hempty _ => portDeposit_leaves hf hg hpst hen hempty,
    fun id cid call group vc r k hf hcall hid hans hlog => portAck_leaves hf hcall hid hans hlog⟩
  · obtain ⟨hflights, hcx⟩ := s.passed_leaves n ((portDir imm + 2) % 4) (s.w a)
    exact ⟨_, pass_sends hs hport hcall hpst hplace hgate hempty, hflights, by rw [hcx], by rw [hcx]⟩
  · rw [exec_take, execTake, ownCell_ok (d := portDir imm) hs hport hr hl hf hq]
    exact if_neg (not_not_intro hfull)
  · rw [exec_peek, execPeek, ownCell_ok (d := portDir imm) hs hport hr hl hf hq]
    exact if_pos hfull
  · rw [exec_peek, execPeek, ownCell_ok (d := portDir imm) hs hport hr hl hf hq]
    exact if_neg (by rw [show s.full s.here (s.mem.cell (portDir imm)) = false from hfull]; decide)
  · rw [exec_take, execTake, ownCell_ok (d := portDir imm) hs hport hr hl hf hq]
    exact if_pos (by rw [show s.full s.here (s.mem.cell (portDir imm)) = false from hfull]; decide)

end Sys2Proof.Machine

/-! PROOFS. Locks and the estate instructions (21 R341 to R344): what each does at its object, by the lock word or by the caller's entry. -/

namespace Sys2Proof.Machine

variable {s u : State} {a b : BitVec 4} (c : BitVec 4) {imm : BitVec 6} {l : Loc}

/-! ## Locks -/

theorem exec_lock (a b c : BitVec 4) (imm : BitVec 6) (s : State) : exec (.lock a b c imm) s = execLock a b c imm s := by rfl

theorem exec_trylock (a b c : BitVec 4) (imm : BitVec 6) (s : State) :
    exec (.trylock a b c imm) s = execTrylock a b c imm s := by rfl

theorem exec_unlock (a b c : BitVec 4) (imm : BitVec 6) (s : State) : exec (.unlock a b c imm) s = execUnlock a b c imm s := by rfl

/-- LOCK at its word. -/
theorem exec_lock_at (hs : s.sound = true) (h : s.wordAt (lockScope imm) 8 true true false (s.w b).toNat l u) :
    exec (.lock a b c imm) s = takeLock false a (s.w b) l u := by
  rw [exec_lock, execLock, reading_sound s hs, atWord_ok s h]

/-- TRYLOCK at its word. -/
theorem exec_trylock_at (hs : s.sound = true) (h : s.wordAt (lockScope imm) 8 true true false (s.w b).toNat l u) :
    exec (.trylock a b c imm) s = takeLock true a (s.w b) l u := by
  rw [exec_trylock, execTrylock, reading_sound s hs, atWord_ok s h]

/-- UNLOCK at its word. -/
theorem exec_unlock_at (hs : s.sound = true) (h : s.wordAt (lockScope imm) 8 false true true (s.w b).toNat l u) :
    exec (.unlock a b c imm) s =
      let w := u.rd l 8
      if ¬ lkHeld w ∨ lkOwner w ≠ u.cx.group then .next (u.takeTrap 0x08 (s.w b) u.cx.pc)
      else .next ((((((u.named l (s.w b)).wr l 8 (lkWord w (lkOwner w) (lkBrv w) false false w)).dropLock l).wakeLock l
        (fun _ => true))).releaseAt (lockScope imm)).advance := by
  rw [exec_unlock, execUnlock, reading_sound s hs, atWord_ok s h]
  rfl

/-- A lock that nobody holds is taken, if the table can register it. -/
theorem takeLock_free {try_ : Bool} {addr : Word} {o : Nat × Nat} {v : State} (hheld : lkHeld (u.rd l 8) = false)
    (hobj : u.objOf l = some o) (hreg : u.register u.cx.group 0 0 o = (v, 0)) :
    takeLock try_ a addr l u = .next (((v.wr l 8 (lkWord (u.rd l 8) u.cx.group false true false u.cx.vcore)).setW a
      (toWord (if lkBrv (u.rd l 8) then 2 ^ 62 + lkOwner (u.rd l 8) else 0))).named l addr).advance := by
  unfold takeLock
  simp only [hheld, hobj, hreg]
  rfl

/-- A lock that another holds is busy. -/
theorem takeLock_busy {try_ : Bool} {addr : Word} (hheld : lkHeld (u.rd l 8) = true)
    (hother : lkCnv (u.rd l 8) = false ∨ lkOwner (u.rd l 8) ≠ u.cx.group) :
    takeLock try_ a addr l u = if try_ then .next ((u.setW a 0x8000000000000001).named l addr).advance
      else .next (u.block (lockWait l)) := by
  have hmine : ¬ (lkCnv (u.rd l 8) && lkOwner (u.rd l 8) == u.cx.group) = true := by
    rw [Bool.and_eq_true, beq_iff_eq]
    rintro ⟨hcnv, howner⟩
    obtain h | h := hother
    · rw [h] at hcnv
      cases hcnv
    · exact h howner
  unfold takeLock
  dsimp only
  rw [if_pos ⟨hheld, hmine⟩]
  rfl

/-- A lock conveyed to the own group is claimed. -/
theorem takeLock_claim {try_ : Bool} {addr : Word} {i : Nat} {e : Holding} (hheld : lkHeld (u.rd l 8) = true)
    (hcnv : lkCnv (u.rd l 8) = true) (howner : lkOwner (u.rd l 8) = u.cx.group)
    (hentry : u.heldAt u.cx.group (some 0) l = some (i, e)) :
    takeLock try_ a addr l u = .next (((u.wr l 8 (lkWord (u.rd l 8) (lkOwner (u.rd l 8)) (lkBrv (u.rd l 8)) true false
      u.cx.vcore)).setW a (toWord (2 ^ 62 + e.former))).named l addr).advance := by
  have hmine : (lkCnv (u.rd l 8) && lkOwner (u.rd l 8) == u.cx.group) = true := by
    rw [Bool.and_eq_true, beq_iff_eq]
    exact ⟨hcnv, howner⟩
  unfold takeLock
  dsimp only
  rw [if_neg (fun h => h.2 hmine), if_pos hheld, hentry]
  rfl

/-- Settles O21: the lock word read at the place chooses the branch. -/
theorem lockResult : Obligations.LockResult := by
  unfold Obligations.LockResult
  intro s u v a b c imm l o hs sc w
  refine ⟨fun h hheld hobj hreg => ?_, fun h hheld hother => ?_, fun i e h hheld hcnv howner hentry => ?_,
    fun h hheld howner => ?_, fun h hother => ?_⟩
  · rw [exec_lock_at c hs h, exec_trylock_at c hs h]
    exact ⟨takeLock_free hheld hobj hreg, takeLock_free hheld hobj hreg⟩
  · rw [exec_lock_at c hs h, exec_trylock_at c hs h]
    exact ⟨takeLock_busy hheld hother, takeLock_busy hheld hother⟩
  · rw [exec_lock_at c hs h, exec_trylock_at c hs h]
    exact ⟨takeLock_claim hheld hcnv howner hentry, takeLock_claim hheld hcnv howner hentry⟩
  · rw [exec_unlock_at c hs h]
    exact if_neg (fun hbad => hbad.elim (fun hfree => hfree hheld) (fun hne => hne howner))
  · rw [exec_unlock_at c hs h]
    exact if_pos (hother.imp (fun hfree hyes => by rw [show lkHeld (u.rd l 8) = false from hfree] at hyes; cases hyes) id)

/-! ## The estate instructions -/

theorem exec_heir (a b c : BitVec 4) (imm : BitVec 6) (s : State) : exec (.heir a b c imm) s = execHeir a b c imm s := by rfl

theorem exec_disown (a b c : BitVec 4) (imm : BitVec 6) (s : State) :
    exec (.disown a b c imm) s = execDisown a b c imm s := by rfl

theorem exec_estq (a b c : BitVec 4) (imm : BitVec 6) (s : State) : exec (.estq a b c imm) s = execEstq a b c imm s := by rfl

theorem exec_ack (a b c : BitVec 4) (imm : BitVec 6) (s : State) : exec (.ack a b c imm) s = execAck a b c imm s := by rfl

/-- An object at an address is reached as a word is. -/
theorem withObject_near {x : Word} (hplain : s.handleEntry x = none) (h : s.wordAt 2 8 false false false x.toNat l u)
    (far : Nat → Holding → Out) (near : Loc → State → Out) : withObject x s far near = near l u := by
  rw [withObject, hplain]
  exact atWord_ok s h (false, false) near

/-- A handle's object is the entry itself. -/
theorem withObject_far {x : Word} {i : Nat} {e : Holding} (hentry : s.handleEntry x = some (i, e))
    (far : Nat → Holding → Out) (near : Loc → State → Out) : withObject x s far near = far i e := by
  rw [withObject, hentry]

/-- An heir that is valid is noted in the entry of a kind that can have one. -/
theorem heirAt_held {k h i : Nat} {addr : Word} {e : Holding} (hentry : u.entryAt l = some (i, e)) (hk : k = e.kind)
    (hlt : e.kind < 5) (hheir : u.badHeir h = false) :
    heirAt a k h addr l u =
      .next ((({ u with estate := mput u.estate i { e with heir := h } }).setW a 0).named l addr).advance := by
  unfold heirAt
  dsimp only
  rw [if_neg (by rw [hheir]; decide), if_neg (by omega), hentry]
  exact if_neg (by simp [hk])

theorem heirFar_held {k h : Nat} {e : Holding} (hk : k = e.kind) (hlt : e.kind < 5) (hheir : s.badHeir h = false) :
    heirFar a k h e s = .next (((s.updHandle e (fun x => { x with heir := h })).setW a 0).namedEntry e).advance := by
  unfold heirFar
  dsimp only
  rw [if_neg (by rw [hheir]; decide), if_neg (by omega)]
  rfl

/-- Settles O22: the caller's entry for the object, at an address or by a handle, decides each answer. -/
theorem estateResult : Obligations.EstateResult := by
  unfold Obligations.EstateResult
  intro s u a b c imm l i e hs h
  refine ⟨fun hplain hword => ⟨fun hentry => ⟨fun hk hlt hheir => ?_, fun hkind => ?_, ?_, ?_⟩, fun hnone => ⟨?_, ?_, ?_⟩⟩,
    fun hentry => ⟨fun hk hlt hheir => ?_, ?_, ?_, ?_⟩⟩
  · rw [exec_heir, execHeir, reading_sound s hs, if_neg (by omega), withObject_near hplain hword]
    exact heirAt_held hentry hk hlt hheir
  · rw [exec_disown, execDisown, reading_sound s hs, withObject_near hplain hword, hentry]
    exact if_pos hkind
  · rw [exec_estq, execEstq, reading_sound s hs, withObject_near hplain hword, hentry]
    rfl
  · rw [exec_ack, execAck, reading_sound s hs, withObject_near hplain hword, hentry]
    rfl
  · rw [exec_disown, execDisown, reading_sound s hs, withObject_near hplain hword, hnone]
    rfl
  · rw [exec_estq, execEstq, reading_sound s hs, withObject_near hplain hword, hnone]
    rfl
  · rw [exec_ack, execAck, reading_sound s hs, withObject_near hplain hword, hnone]
    rfl
  · rw [exec_heir, execHeir, reading_sound s hs, if_neg (by omega), withObject_far hentry]
    exact heirFar_held hk hlt hheir
  · rw [exec_disown, execDisown, reading_sound s hs, withObject_far hentry]
    rfl
  · rw [exec_estq, execEstq, reading_sound s hs, withObject_far hentry]
    rfl
  · rw [exec_ack, execAck, reading_sound s hs, withObject_far hentry]
    rfl

end Sys2Proof.Machine

/-! PROOFS. What the machine's notes leave alone: counts, copies, translations, logs, records and the black box stand in the cores, the clusters, the partitions, HBM and the host's messages, and a part of the state that is none of these keeps its value through them. -/

namespace Sys2Proof.Machine

/-! ## Bits beside those that are set -/

theorem bitsOf_setBits_above {x lo n v lo' n' : Nat} (h : lo + n ≤ lo') : bitsOf (setBits x lo n v) lo' n' = bitsOf x lo' n' := by
  obtain ⟨d, rfl⟩ := Nat.exists_eq_add_of_le h
  have hlow : v % 2 ^ n * 2 ^ lo + x % 2 ^ lo < 2 ^ (lo + n) := by
    have hv := Nat.mod_lt v (Nat.two_pow_pos n)
    have hx := Nat.mod_lt x (Nat.two_pow_pos lo)
    have hmul : (v % 2 ^ n + 1) * 2 ^ lo ≤ 2 ^ n * 2 ^ lo := Nat.mul_le_mul_right _ hv
    rw [Nat.add_mul, Nat.one_mul] at hmul
    rw [Nat.pow_add, Nat.mul_comm (2 ^ lo)]
    omega
  have hdiv : setBits x lo n v / 2 ^ (lo + n) = x / 2 ^ (lo + n) := by
    rw [setBits, Nat.add_assoc, Nat.mul_comm, Nat.mul_add_div (Nat.two_pow_pos _), Nat.div_eq_of_lt hlow, Nat.add_zero]
  rw [bitsOf, bitsOf, Nat.pow_add, ← Nat.div_div_eq_div_mul, ← Nat.div_div_eq_div_mul, hdiv]

theorem bitAt_eq_bitsOf (x i : Nat) : bitAt x i = (bitsOf x i 1 == 1) := rfl

/-- A bit that is set to a value has it. -/
theorem bitAt_setBits_self (x i : Nat) (b : Bool) : bitAt (setBits x i 1 (if b then 1 else 0)) i = b := by
  rw [bitAt_eq_bitsOf, bitsOf_setBits_self]
  cases b <;> rfl

theorem bitAt_setBits_ne {x lo n v i : Nat} (h : i < lo ∨ lo + n ≤ i) : bitAt (setBits x lo n v) i = bitAt x i := by
  rw [bitAt_eq_bitsOf, bitAt_eq_bitsOf]
  obtain h | h := h
  · rw [bitsOf_setBits_below h]
  · rw [bitsOf_setBits_above h]

theorem bitsOf_lt (x lo n : Nat) : bitsOf x lo n < 2 ^ n := Nat.mod_lt _ (Nat.two_pow_pos n)

/-! ## Parts of the state that notes leave alone -/

/-- A part of the state that looks at no core, no cluster, no partition, not at HBM, the black box and the host's messages. -/
structure Aside {α : Type} (p : State → α) : Prop where
  cores : ∀ (t : State) (x : Map Core), p { t with cores := x } = p t
  clusters : ∀ (t : State) (x : Map Cluster), p { t with clusters := x } = p t
  parts : ∀ (t : State) (x : Map Part), p { t with parts := x } = p t
  hbm : ∀ (t : State) (x : List Host.Cell), p { t with hbm := x } = p t
  box : ∀ (t : State) (x : Map (List Nat)) (n : Nat), p { t with blackBox := x, bbSeq := n } = p t
  host : ∀ (t : State) (x : List (List Nat)), p { t with hostOut := x } = p t

theorem aside_spad : Aside State.spad := by constructor <;> intros <;> rfl
theorem aside_tags : Aside State.tags := by constructor <;> intros <;> rfl
theorem aside_flights : Aside State.flights := by constructor <;> intros <;> rfl
theorem aside_hops : Aside State.hops := by constructor <;> intros <;> rfl
theorem aside_reqs : Aside State.reqs := by constructor <;> intros <;> rfl
theorem aside_landings : Aside State.landings := by constructor <;> intros <;> rfl
theorem aside_ctxs : Aside State.ctxs := by constructor <;> intros <;> rfl
theorem aside_cur : Aside State.cur := by constructor <;> intros <;> rfl
theorem aside_uid : Aside State.uid := by constructor <;> intros <;> rfl
theorem aside_groups : Aside State.groups := by constructor <;> intros <;> rfl
theorem aside_estate : Aside State.estate := by constructor <;> intros <;> rfl
theorem aside_sound : Aside State.sound := by constructor <;> intros <;> rfl
theorem aside_cx : Aside State.cx := by constructor <;> intros <;> rfl
theorem aside_ctx (cid : Nat) : Aside (fun t => t.ctx cid) := by constructor <;> intros <;> rfl
theorem aside_grp (h : Nat) : Aside (fun t => t.grp h) := by constructor <;> intros <;> rfl
theorem aside_member (h v : Nat) : Aside (fun t => t.member h v) := by constructor <;> intros <;> rfl
theorem aside_rdS (core off n : Nat) : Aside (fun t => t.rdS core off n) := by constructor <;> intros <;> rfl
theorem aside_full (core off : Nat) : Aside (fun t => t.full core off) := by constructor <;> intros <;> rfl
theorem aside_w (i : BitVec 4) : Aside (fun t => t.w i) := by constructor <;> intros <;> rfl
theorem aside_flight (id : Nat) : Aside (fun t => t.flight id) := by constructor <;> intros <;> rfl

namespace Aside

variable {α : Type} {p : State → α} (hp : Aside p)

include hp

theorem setCore (t : State) (n : Nat) (k : Core) : p (t.setCore n k) = p t := hp.cores t _

theorem setCluster (t : State) (n : Nat) (k : Cluster) : p (t.setCluster n k) = p t := hp.clusters t _

theorem wrH (t : State) (pa n v : Nat) : p (t.wrH pa n v) = p t := hp.hbm t _

theorem tell (t : State) (x : List Nat) : p (t.tell x) = p t := hp.host t _

theorem endFwd (t : State) (cid : Nat) : p (t.endFwd cid) = p t := hp.cores t _

theorem endBereaved (t : State) (core off : Nat) : p (t.endBereaved core off) = p t := hp.setCore t _ _

theorem addCerrOn (t : State) (core n : Nat) : p (t.addCerrOn core n) = p t := State.addCerrOn_keeps p hp.setCore t core n

theorem softRead (t : State) (core : Nat) (l : Loc) (n : Nat) : p (t.softRead core l n) = p t := hp.addCerrOn t _ _

theorem niRead (t : State) (core off n : Nat) : p (t.niRead core off n) = p t := hp.softRead t _ _ _

theorem placeFill (t : State) (core h v : Nat) : p (t.placeFill core h v) = p t := State.placeFill_keeps p hp.setCore t core h v

theorem markPresent (t : State) (part cat : Nat) : p (t.markPresent part cat) = p t := State.markPresent_keeps p hp.parts t part cat

theorem logRx (t : State) (core kind : Nat) (o : Origin) (val : Nat) (ext : List Byte) : p (t.logRx core kind o val ext) = p t :=
  State.logRx_keeps p hp.setCore hp.hbm hp.parts hp.tell t core kind o val ext

theorem logWrite (t : State) (core kind : Nat) (o : Origin) (off : Nat) (full : Bool) (bs : List Byte) :
    p (t.logWrite core kind o off full bs) = p t := hp.logRx t _ _ _ _ _

theorem logDiff (s t : State) (core kind : Nat) (o : Origin) : p (s.logDiff t core kind o) = p t := by
  unfold State.logDiff
  refine ite_keeps rfl ?_
  exact foldl_keeps (fun u off => hp.logRx u _ _ _ _ _) _ t

theorem bbPut (t : State) (at_ kind cause key mid val aux : Nat) : p (t.bbPut at_ kind cause key mid val aux) = p t := by
  unfold State.bbPut
  exact ite_keeps rfl (hp.box t _ _)

theorem bbox (t : State) (kind cause key mid val aux : Nat) : p (t.bbox kind cause key mid val aux) = p t := by
  unfold State.bbox
  refine ite_keeps (hp.bbPut t _ _ _ _ _ _ _) ?_
  split
  · rfl
  · exact ite_keeps rfl ((hp.bbPut _ _ _ _ _ _ _ _).trans (hp.markPresent t _ _))
  · exact hp.bbPut t _ _ _ _ _ _ _
  · exact hp.bbPut t _ _ _ _ _ _ _

theorem supRec (t : State) (part : Nat) (r : Rec) : p (t.supRec part r) = p t := by
  have hmark : p (if t.gran part 4 = 1 then t.markPresent part 4 else t) = p t := ite_keeps (hp.markPresent t _ _) rfl
  unfold State.supRec
  dsimp only
  split
  · exact (hp.parts _ _).trans hmark
  · exact hmark

theorem useXl (t : State) (core h va : Nat) (acc : Acc) : p (t.useXl core h va acc) = p t := by
  unfold State.useXl
  split
  · rfl
  · have hbits (b : Nat) (x y : Nat) : p (if b = 0 then t else t.wrH x 1 y) = p t := ite_keeps rfl (hp.wrH t _ _ _)
    dsimp only
    exact ite_keeps ((hp.setCore _ _ _).trans (hbits _ _ _))
      ((hp.setCluster _ _ _).trans ((hp.setCore _ _ _).trans (hbits _ _ _)))

theorem usePlace (t : State) (a : At) : p (t.usePlace a) = p t := by
  unfold State.usePlace
  split
  · exact ite_keeps rfl (hp.placeFill t _ _ _)
  · rfl

theorem useTlb (t : State) (e : Elem) (a : At) : p (t.useTlb e a) = p t := by
  unfold State.useTlb
  split
  · exact hp.useXl t _ _ _ _
  · rfl

theorem useNow (t : State) (e : Elem) (a : At) : p (t.useNow e a) = p t := by
  have huse : p ((t.usePlace a).useTlb e a) = p t := (hp.useTlb _ e a).trans (hp.usePlace t a)
  unfold State.useNow
  dsimp only
  split
  · exact (hp.softRead _ _ _ _).trans huse
  · exact huse

theorem slotEmptied (hwr : ∀ (t : State) (core off n v : Nat), p (t.wrS core off n v) = p t) (t : State) (core off : Nat) :
    p (t.slotEmptied core off) = p t := State.slotEmptied_keeps p hp.setCore hp.parts hwr t core off

end Aside

/-- Reads of memory without errors count nothing. -/
theorem State.niRead_sound {s : State} (hs : s.sound = true) (core off n : Nat) : s.niRead core off n = s :=
  s.softRead_sound hs core _ n

/-! ## The state at a word's place -/

/-- The state that has used the translations and the placement copies of some accesses of the focus. -/
structure Used (s u : State) : Prop where
  aside {α : Type} (p : State → α) (hp : Aside p) (hset : ∀ (t : State) (c : Ctx), p (t.setCx c) = p t) : p u = p s
  cx : u.cx = { s.cx with walkFault := [] }

theorem State.used_atUse (s : State) (e : Elem) (a : At) : Used s (s.atUse e a) where
  aside _ hp hset := (hset _ _).trans (hp.useNow s e a)
  cx := State.cx_setCx _ _

theorem State.wordAt.used {s u : State} {scope n addr : Nat} {counts wr rel : Bool} {l : Loc}
    (h : s.wordAt scope n counts wr rel addr l u) : Used s u := by
  obtain ⟨-, -, ⟨a, -, -, -, -, -, -, rfl⟩, -⟩ := h
  exact s.used_atUse _ a

namespace Used

variable {s u : State} (h : Used s u)

include h

theorem cur : u.cur = s.cur := h.aside State.cur aside_cur (fun _ _ => rfl)

theorem here : u.here = s.here := by rw [State.here, State.here, h.cur]

theorem spad : u.spad = s.spad := h.aside State.spad aside_spad (fun _ _ => rfl)

theorem rdS (core off n : Nat) : u.rdS core off n = s.rdS core off n := by rw [State.rdS, State.rdS, h.spad]

theorem w (i : BitVec 4) : u.w i = s.w i := by
  rw [State.w, State.w, h.here, h.cx, h.rdS]
  rfl

theorem flights : u.flights = s.flights := h.aside State.flights aside_flights (fun _ _ => rfl)

theorem uid : u.uid = s.uid := h.aside State.uid aside_uid (fun _ _ => rfl)

theorem sound : u.sound = s.sound := h.aside State.sound aside_sound (fun _ _ => rfl)

theorem member (g v : Nat) : u.member g v = s.member g v := h.aside (fun t => t.member g v) (aside_member g v) (fun _ _ => rfl)

theorem samePoint : SamePoint s u := ⟨h.cur, by rw [h.cx], by rw [h.cx], by rw [h.cx]⟩

end Used

end Sys2Proof.Machine

/-! PROOFS. Codelets (16 R287 to R295, R302 to R305): counter words, the deque's pushes, serving, decrements and the steal round. -/

namespace Sys2Proof.Machine

/-! ## Instructions by name -/

section

variable (a b c : BitVec 4) (imm : BitVec 6) (s : State)

theorem exec_carm : exec (.carm a b c imm) s = execCarm a b c imm s := by rfl

theorem exec_cdec : exec (.cdec a b c imm) s = execCdec a b c imm s := by rfl

theorem exec_cready : exec (.cready a b c imm) s = execCready a b c imm s := by rfl

theorem exec_cpop : exec (.cpop a b c imm) s = execCpop a b c imm s := by rfl

theorem exec_cdone : exec (.cdone a b c imm) s = execCdone a b c imm s := by rfl

theorem exec_counterDecrement (id : Nat) : exec (.counterDecrement id) s = execCounterDecrement id s := by rfl

theorem exec_stealRound (cid : Nat) : exec (.stealRound cid) s = execStealRound cid s := by rfl

end

/-! ## CARM -/

/-- The counter word that CARM writes over an old one. -/
def armed (old n prio : Nat) (stl arm : Bool) : Nat :=
  cwBit (cwBit (cwBit (setBits (setBits old 0 32 n) 32 2 prio) 34 stl) 37 false) 35 arm

theorem armed_lt {old : Nat} (h : old < 2 ^ 64) (n prio : Nat) (stl arm : Bool) : armed old n prio stl arm < 2 ^ 64 := by
  unfold armed cwBit
  exact setBits_lt (setBits_lt (setBits_lt (setBits_lt (setBits_lt h (by decide)) (by decide)) (by decide)) (by decide)) (by decide)

theorem armed_fields (old n prio : Nat) (stl arm : Bool) :
    cwCnt (armed old n prio stl arm) = n % 2 ^ 32 ∧ cwPrio (armed old n prio stl arm) = prio % 2 ^ 2 ∧
      cwStl (armed old n prio stl arm) = stl ∧ cwArm (armed old n prio stl arm) = arm ∧
      bitAt (armed old n prio stl arm) 37 = false := by
  unfold armed cwBit
  refine ⟨?_, ?_, ?_, ?_, ?_⟩
  · rw [cwCnt, bitsOf_setBits_below (by decide), bitsOf_setBits_below (by decide), bitsOf_setBits_below (by decide),
      bitsOf_setBits_below (by decide), bitsOf_setBits_self]
  · rw [cwPrio, bitsOf_setBits_below (by decide), bitsOf_setBits_below (by decide), bitsOf_setBits_below (by decide),
      bitsOf_setBits_self]
  · rw [cwStl, bitAt_setBits_ne (by decide), bitAt_setBits_ne (by decide), bitAt_setBits_self]
  · rw [cwArm, bitAt_setBits_self]
  · rw [bitAt_setBits_ne (by decide), bitAt_setBits_self (b := false)]

theorem carm_leaves {s u : State} {a b : BitVec 4} (c : BitVec 4) {imm : BitVec 6} {core off : Nat} (hs : s.calm = true)
    (hal : (s.w b).toNat % 16 = 0) (h : s.wordAt 2 8 false true true (s.w b).toNat (.spad core off) u)
    (hlocal : (s.w b).toNat < 0x20000) (hen : qbaseEn s.mem.qbase = true) (hn : (s.w a).toNat % 2 ^ 32 ≠ 0) :
    ∃ t, exec (.carm a b c imm) s = .next t ∧
      t.rdS core off 8 = armed (s.rdS core off 8) ((s.w a).toNat % 2 ^ 32) (bitsOf imm.toNat 0 2) (bitAt imm.toNat 2) true := by
  have hu := h.used
  have hn' : (u.w a).toNat % 2 ^ 32 ≠ 0 := by rw [hu.w]; exact hn
  rw [exec_carm, execCarm, reading_calm s hs]
  dsimp only
  rw [if_neg (by omega), if_neg (by omega), if_neg (not_not_intro hen), atWord_ok s h]
  dsimp only
  rw [if_neg hn']
  refine ⟨_, rfl, ?_⟩
  have hrep : ((u.wrS core off 8 (armed (u.rdS core off 8) ((u.w a).toNat % 2 ^ 32) (bitsOf imm.toNat 0 2) (bitAt imm.toNat 2)
      ((u.w a).toNat % 2 ^ 32 != 0))).endFwd u.cur).cx.rep = none := by
    rw [(aside_cx).endFwd, State.cx_wrS, hu.samePoint.rep, s.calm_rep hs]
  refine (State.advance_keeps (fun t => t.rdS core off 8) (fun _ _ => rfl) hrep).trans ?_
  have harm : ((u.w a).toNat % 2 ^ 32 != 0) = true := by simpa using hn'
  rw [(aside_rdS core off 8).endFwd, State.rdS_wrS_self, harm, hu.rdS, hu.w]
  exact Nat.mod_eq_of_lt (armed_lt (readN_lt 8 _ _) _ _ _ _)

/-! ## What a push leaves of the focus -/

/-- A map with its values changed, each by its own key. -/
theorem mget_map_keys {α : Type} {f : Nat × α → Nat × α} (hf : ∀ x, (f x).1 = x.1) (m : Map α) (i : Nat) :
    mget (m.map f) i = (mget m i).map fun v => (f (i, v)).2 := by
  induction m with
  | nil => rfl
  | cons x r ih =>
    obtain ⟨k, v⟩ := x
    have hx : f (k, v) = (k, (f (k, v)).2) := Prod.ext (hf (k, v)) rfl
    rw [List.map_cons, hx, mget, mget]
    split
    next hk =>
      subst hk
      rfl
    next => exact ih

/-- A parked CPOP that a push wakes. -/
def wakePop (h v : Nat) (stl : Bool) (x : Nat × Ctx) : Nat × Ctx :=
  match x.2.waits with
  | some (.cpop nost) => if x.2.group = h ∧ (x.2.vcore = v ∨ (stl ∧ ¬ nost)) then (x.1, { x.2 with woken := true }) else x
  | _ => x

theorem wakePop_eq (h v : Nat) (stl : Bool) (x : Nat × Ctx) : ∃ w, wakePop h v stl x = (x.1, { x.2 with woken := w }) := by
  unfold wakePop
  split
  · split
    · exact ⟨_, rfl⟩
    · exact ⟨_, rfl⟩
  · exact ⟨_, rfl⟩

/-- Waking the parked CPOPs changes at most a context's wake mark. -/
theorem State.wakePops_ctx (s : State) (h v : Nat) (stl : Bool) (cid : Nat) :
    ∃ w, (s.wakePops h v stl).ctx cid = { s.ctx cid with woken := w } := by
  have hctxs : (s.wakePops h v stl).ctxs = s.ctxs.map (wakePop h v stl) := by rfl
  have hkey (x : Nat × Ctx) : (wakePop h v stl x).1 = x.1 := by
    obtain ⟨w, hw⟩ := wakePop_eq h v stl x
    rw [hw]
  rw [State.ctx, State.ctx, mgetD, mgetD, hctxs, mget_map_keys hkey]
  cases mget s.ctxs cid with
  | none => exact ⟨_, rfl⟩
  | some c =>
    obtain ⟨w, hw⟩ := wakePop_eq h v stl (cid, c)
    exact ⟨w, congrArg Prod.snd hw⟩

/-- What a push may change of the focus: at most its wake mark. -/
structure Woken (s t : State) : Prop where
  cur : t.cur = s.cur
  cx : ∃ w, t.cx = { s.cx with woken := w }

theorem Woken.of_ctxs {s t : State} (hctxs : t.ctxs = s.ctxs) (hcur : t.cur = s.cur) : Woken s t :=
  ⟨hcur, _, State.cx_of_ctxs hctxs hcur⟩

theorem Woken.trans {s t u : State} (h : Woken s t) (h' : Woken t u) : Woken s u := by
  obtain ⟨w, hw⟩ := h.cx
  obtain ⟨w', hw'⟩ := h'.cx
  exact ⟨h'.cur.trans h.cur, w', by rw [hw', hw]⟩

theorem Woken.samePoint {s t : State} (h : Woken s t) : SamePoint s t := by
  obtain ⟨w, hw⟩ := h.cx
  exact ⟨h.cur, by rw [hw], by rw [hw], by rw [hw]⟩

theorem State.woken_wrS (s : State) (core off n v : Nat) : Woken s (s.wrS core off n v) := .of_ctxs rfl rfl

theorem State.woken_endFwd (s : State) (cid : Nat) : Woken s (s.endFwd cid) := .of_ctxs rfl rfl

theorem State.woken_wakePops (s : State) (h v : Nat) (stl : Bool) : Woken s (s.wakePops h v stl) :=
  ⟨rfl, s.wakePops_ctx h v stl s.cur⟩

theorem State.woken_freeze (s : State) (h v cause entry tval tpc vcore : Nat) :
    Woken s (s.freeze h v cause entry tval tpc vcore) := by
  have hctxs : (s.freeze h v cause entry tval tpc vcore).ctxs = s.ctxs := by
    unfold State.freeze
    exact ite_keeps rfl (ite_keeps (aside_ctxs.niRead _ _ _ _) (aside_ctxs.niRead _ _ _ _))
  have hcur : (s.freeze h v cause entry tval tpc vcore).cur = s.cur := by
    unfold State.freeze
    exact ite_keeps rfl (ite_keeps (aside_cur.niRead _ _ _ _) (aside_cur.niRead _ _ _ _))
  exact .of_ctxs hctxs hcur

theorem State.woken_lostPush (s : State) (h v entry tval tpc vcore : Nat) : Woken s (s.lostPush h v entry tval tpc vcore) := by
  unfold State.lostPush
  dsimp only
  split
  · exact s.woken_freeze _ _ _ _ _ _ _
  · exact .of_ctxs (aside_ctxs.bbox _ _ _ _ _ _ _) (aside_cur.bbox _ _ _ _ _ _ _)

theorem State.woken_pushAt {s t : State} {h v l entry : Nat} (ht : s.pushAt h v l entry = some t) : Woken s t := by
  unfold State.pushAt at ht
  dsimp only at ht
  split at ht
  · cases ht
  · rw [← Option.some.inj ht]
    have hread : Woken s (s.niRead (s.member h v).pcore (qbaseAddr (s.member h v).qbase + 8 * l) 8) :=
      .of_ctxs (aside_ctxs.niRead _ _ _ _) (aside_cur.niRead _ _ _ _)
    exact ((hread.trans (State.woken_wrS _ _ _ _ _)).trans (State.woken_wrS _ _ _ _ _)).trans (State.woken_wakePops _ _ _ _)

theorem State.woken_pushBlock (s : State) (h v off tval tpc vcore : Nat) : Woken s (s.pushBlock h v off tval tpc vcore) := by
  unfold State.pushBlock
  dsimp only
  split
  next t ht => exact (State.woken_pushAt ht).trans (State.woken_wrS _ _ _ _ _)
  next => exact (State.woken_wrS _ _ _ _ _).trans (State.woken_lostPush _ _ _ _ _ _ _)

/-! ## CDEC and CREADY -/

theorem aside_vcoreOn (h core : Nat) : Aside (fun t => t.vcoreOn h core) := by constructor <;> intros <;> rfl

theorem Used.vcoreAt {s u : State} (h : Used s u) (core : Nat) : u.vcoreAt core = s.vcoreAt core := by
  have hon : u.vcoreOn s.cx.group core = s.vcoreOn s.cx.group core :=
    h.aside (fun t => t.vcoreOn s.cx.group core) (aside_vcoreOn _ _) (fun _ _ => rfl)
  rw [State.vcoreAt, State.vcoreAt, h.cx]
  exact congrArg (fun o => o.getD s.cx.vcore) hon

/-- A decrement's answer that is a count. -/
theorem cdecAnswer_count {a b : BitVec 4} {r : Nat} (h : r < 2 ^ 32) (s : State) :
    cdecAnswer a b r s = done (((s.setCx { s.cx with call := none }).setW a (toWord r)).progress s.cx.group) := by
  have hcause : decCause r = none := by
    unfold decCause decFail decGone
    rw [if_neg (by omega), if_neg (by omega), if_neg (by omega)]
  unfold cdecAnswer
  dsimp only
  rw [hcause]
  have hgroup : (s.setCx { s.cx with call := none }).cx.group = s.cx.group := by rw [State.cx_setCx]; rfl
  dsimp only
  rw [hgroup]

/-- dec(block) of a count above 1. -/
theorem State.decAt_above {s : State} {h v off tval tpc issuer : Nat} (hcnt : 1 < cwCnt (s.rdS (s.member h v).pcore off 8)) :
    s.decAt h v off tval tpc issuer =
      (s.wrS (s.member h v).pcore off 8 (setBits (s.rdS (s.member h v).pcore off 8) 0 32
        (cwCnt (s.rdS (s.member h v).pcore off 8) - 1)), some (cwCnt (s.rdS (s.member h v).pcore off 8) - 1)) := by
  unfold State.decAt
  dsimp only
  rw [if_neg (by omega), if_neg (by omega)]

theorem cwCnt_lt (w : Nat) : cwCnt w < 2 ^ 32 := bitsOf_lt w 0 32

/-- The word with its count less one, as memory holds it. -/
theorem cwCnt_decremented {w : Nat} (hw : w < 2 ^ 64) : cwCnt (setBits w 0 32 (cwCnt w - 1) % 256 ^ 8) = cwCnt w - 1 := by
  have hlt := cwCnt_lt w
  have hmod : setBits w 0 32 (cwCnt w - 1) % 256 ^ 8 = setBits w 0 32 (cwCnt w - 1) :=
    Nat.mod_eq_of_lt (setBits_lt hw (by decide))
  rw [hmod]
  exact bitsOf_setBits_self.trans (Nat.mod_eq_of_lt (by omega))

/-- What an instruction leaves that writes a register, restarts the watchdog and goes on. -/
theorem setW_progress_advance {t : State} (hrep : t.cx.rep = none) (a : BitVec 4) (v : Word) (g : Nat) :
    (((t.setW a v).progress g).advance).w a = v ∧ (((t.setW a v).progress g).advance).cx.pc = succPc t.cx.line t.cx.pc ∧
      ∀ off n, (off + n ≤ t.cx.wOff a.toNat ∨ t.cx.wOff a.toNat + 8 ≤ off) →
        (((t.setW a v).progress g).advance).rdS t.here off n = t.rdS t.here off n := by
  have hset : SamePoint t (t.setW a v) := .of_ctxs rfl rfl
  have hpoint : SamePoint t ((t.setW a v).progress g) := hset.trans (State.samePoint_progress _ _)
  have hrep' := hpoint.rep.trans hrep
  refine ⟨?_, ?_, ?_⟩
  · rw [State.advance_w _ hrep', State.progress_keeps (fun t => t.w a) (fun _ _ => rfl), State.w_setW_self]
  · rw [State.advance_pc _ hrep', hpoint.line, hpoint.pc]
  · intro off n hapart
    rw [State.advance_keeps (fun x => x.rdS t.here off n) (fun _ _ => rfl) hrep',
      State.progress_keeps (fun x => x.rdS t.here off n) (fun _ _ => rfl)]
    exact State.rdS_wrS_ne _ (by simp only [spadKey]; omega)

/-- What the answer of a decrement leaves. -/
theorem cdecAnswer_leaves {a b : BitVec 4} {r : Nat} {s : State} (hr : r < 2 ^ 32) (hrep : s.cx.rep = none) :
    ∃ t, cdecAnswer a b r s = .next t ∧ t.w a = toWord r ∧ t.cx.pc = succPc s.cx.line s.cx.pc ∧
      ∀ off n, (off + n ≤ s.cx.wOff a.toNat ∨ s.cx.wOff a.toNat + 8 ≤ off) → t.rdS s.here off n = s.rdS s.here off n := by
  have hcx : (s.setCx { s.cx with call := none }).cx = { s.cx with call := none } := State.cx_setCx _ _
  obtain ⟨hw, hpc, hkeep⟩ := setW_progress_advance (t := s.setCx { s.cx with call := none }) (by rw [hcx]; exact hrep) a
    (toWord r) s.cx.group
  refine ⟨_, cdecAnswer_count hr s, hw, by rw [hpc, hcx], fun off n hapart => ?_⟩
  exact hkeep off n (by rw [hcx]; exact hapart)

theorem cdec_near {s u : State} {a b : BitVec 4} (c : BitVec 4) {imm : BitVec 6} {core off : Nat} (hs : s.calm = true)
    (hal : (s.w b).toNat % 16 = 0) (h : s.wordAt 2 8 true true true (s.w b).toNat (.spad core off) u) (hhere : core = s.here)
    (hmember : (s.member s.cx.group (s.vcoreAt core)).pcore = core) (hcnt : 1 < cwCnt (s.rdS core off 8))
    (hapart : off + 8 ≤ s.cx.wOff a.toNat ∨ s.cx.wOff a.toNat + 8 ≤ off) :
    ∃ t, exec (.cdec a b c imm) s = .next t ∧ t.w a = toWord (cwCnt (s.rdS core off 8) - 1) ∧
      cwCnt (t.rdS core off 8) = cwCnt (s.rdS core off 8) - 1 ∧ t.cx.pc = succPc s.cx.line s.cx.pc := by
  have hu := h.used
  have hcx : (u.endFwd u.cur).cx = u.cx := rfl
  have hgroup : u.cx.group = s.cx.group := by rw [hu.cx]; rfl
  have hv : (u.endFwd u.cur).vcoreAt core = s.vcoreAt core := hu.vcoreAt core
  have hpcore : ((u.endFwd u.cur).member s.cx.group (s.vcoreAt core)).pcore = core := by
    rw [(aside_member _ _).endFwd, hu.member, hmember]
  have hrd : (u.endFwd u.cur).rdS core off 8 = s.rdS core off 8 := hu.rdS core off 8
  have hhere' : core = (u.endFwd u.cur).here := hhere.trans hu.here.symm
  have hlt := cwCnt_lt (s.rdS core off 8)
  have hdec := State.decAt_above (s := u.endFwd u.cur) (h := s.cx.group) (v := s.vcoreAt core) (off := off)
    (tval := (s.w b).toNat) (tpc := u.cx.pc.toNat) (issuer := u.cx.vcore) (by rw [hpcore, hrd]; exact hcnt)
  rw [hpcore, hrd] at hdec
  rw [exec_cdec, execCdec]
  simp only [s.calm_call hs]
  rw [reading_calm s hs, if_neg (by omega), windowOnly_of_wordAt h, atWord_ok s h]
  dsimp only
  rw [if_pos hhere', hcx, hgroup, hv, hdec]
  dsimp only
  have hrep : u.cx.rep = none := hu.samePoint.rep.trans (s.calm_rep hs)
  have hwrite : Woken u ((u.endFwd u.cur).wrS core off 8 (setBits (s.rdS core off 8) 0 32 (cwCnt (s.rdS core off 8) - 1))) :=
    (u.woken_endFwd u.cur).trans (State.woken_wrS _ _ _ _ _)
  obtain ⟨t, ht, hw, hpc, hkeep⟩ := cdecAnswer_leaves (a := a) (b := b) (r := cwCnt (s.rdS core off 8) - 1) (by omega)
    (hwrite.samePoint.rep.trans hrep)
  have hpoint := hu.samePoint.trans hwrite.samePoint
  refine ⟨t, ht, hw, ?_, by rw [hpc, hpoint.line, hpoint.pc]⟩
  have hk := hkeep off 8 (by rw [Ctx.wOff, State.cx_wrS, hcx, hu.cx]; exact hapart)
  rw [State.here_wrS, ← hhere', State.rdS_wrS_self] at hk
  rw [hk]
  exact cwCnt_decremented (readN_lt 8 _ _)

/-- CDEC at another core's bank sends its decrement and holds. -/
theorem cdec_far {s u : State} {a b : BitVec 4} (c : BitVec 4) {imm : BitVec 6} {core off : Nat} (hs : s.calm = true)
    (hal : (s.w b).toNat % 16 = 0) (h : s.wordAt 2 8 true true true (s.w b).toNat (.spad core off) u) (hfar : core ≠ s.here) :
    ∃ t, exec (.cdec a b c imm) s = .next t ∧ t.cx.pc = s.cx.pc ∧ t.cx.call = some ⟨u.uid, [(0, none)], false, 0⟩ ∧
      t.flights = [⟨u.uid, .dec s.cur u.uid 0 s.cx.group (s.vcoreAt core) off s.cx.vcore (s.w b) s.cx.pc⟩] := by
  have hu := h.used
  have hv : (u.endFwd u.cur).vcoreAt core = s.vcoreAt core := hu.vcoreAt core
  have hfar' : core ≠ (u.endFwd u.cur).here := fun he => hfar (he.trans hu.here)
  have hcx : (u.endFwd u.cur).cx = { s.cx with walkFault := [] } := hu.cx
  rw [exec_cdec, execCdec]
  simp only [s.calm_call hs]
  rw [reading_calm s hs, if_neg (by omega), windowOnly_of_wordAt h, atWord_ok s h]
  dsimp only
  rw [if_neg hfar', hv]
  refine ⟨_, rfl, ?_, ?_, ?_⟩
  · refine (congrArg Ctx.pc (State.cx_setCx _ _)).trans ?_
    exact hu.samePoint.pc
  · exact congrArg Ctx.call (State.cx_setCx _ _)
  · have hflights : ((u.endFwd u.cur).placeFill (u.endFwd u.cur).here (u.endFwd u.cur).cx.group (s.vcoreAt core)).flights = [] := by
      rw [aside_flights.placeFill, aside_flights.endFwd, hu.flights]
      exact (s.calm_parts hs).2.2.1
    have huid' : ((u.endFwd u.cur).placeFill (u.endFwd u.cur).here (u.endFwd u.cur).cx.group (s.vcoreAt core)).uid = u.uid := by
      rw [aside_uid.placeFill, aside_uid.endFwd]
    have hcur : (u.endFwd u.cur).cur = s.cur := hu.cur
    unfold State.fly State.flyFrom
    dsimp only
    rw [State.setCx_flights, State.setCx_uid, hflights, huid', hcur, hcx, toWord_toNat]
    rfl

/-- CREADY at its word. -/
theorem cready_at {s u : State} {a b : BitVec 4} (c : BitVec 4) {imm : BitVec 6} {core off : Nat} (hs : s.calm = true)
    (hal : (s.w b).toNat % 16 = 0) (h : s.wordAt 2 8 true true true (s.w b).toNat (.spad core off) u) :
    ∃ t, exec (.cready a b c imm) s = .next t ∧ t.w a = (if cwQueued (s.rdS core off 8) then 0 else 1) ∧
      t.cx.pc = succPc s.cx.line s.cx.pc := by
  have hu := h.used
  have hrep : u.cx.rep = none := hu.samePoint.rep.trans (s.calm_rep hs)
  have hrd : (u.endFwd u.cur).rdS core off 8 = s.rdS core off 8 := hu.rdS core off 8
  have hleaves {t : State} (ht : SamePoint u t) (v : Word) (g : Nat) :
      (((t.setW a v).progress g).advance).w a = v ∧ (((t.setW a v).progress g).advance).cx.pc = succPc s.cx.line s.cx.pc := by
    have hpoint := hu.samePoint.trans ht
    obtain ⟨hw, hpc, -⟩ := setW_progress_advance (ht.rep.trans hrep) a v g
    exact ⟨hw, by rw [hpc, hpoint.line, hpoint.pc]⟩
  rw [exec_cready, execCready, reading_calm s hs]
  dsimp only
  rw [if_neg (by omega), windowOnly_of_wordAt h, atWord_ok s h]
  dsimp only
  rw [hrd]
  have hend := u.woken_endFwd u.cur
  split
  · exact ⟨_, rfl, hleaves hend.samePoint _ _⟩
  · exact ⟨_, rfl, hleaves ((hend.trans (State.woken_wrS _ _ _ _ _)).trans (State.woken_pushBlock _ _ _ _ _ _ _)).samePoint _ _⟩

/-! ## The end of serving -/

/-- What CSRC holds after serving has ended: VALID is clear, the rest is open (16 R293). -/
def State.leftCsrc (s : State) : Word := toWord (bitsOf (Config.freeWord s.uid 0).toNat 0 49)

/-- The focus after its serving has ended. -/
def State.unserved (s : State) : Ctx := { s.cx.set 0x085 s.leftCsrc with srvMsg := false }

/-- Ending the focus's serving changes of its context CSRC alone, and nothing where it does not serve. -/
theorem State.endServing_cx (s : State) :
    (s.endServing s.cur).cur = s.cur ∧
      (s.endServing s.cur).cx = if s.cx.serving then s.unserved else s.cx := by
  have hempty {α : Type} (p : State → α) (hp : Aside p) (htag : ∀ (t : State) (x : List Nat), p { t with tags := x } = p t)
      (hwr : ∀ (t : State) (core off n v : Nat), p (t.wrS core off n v) = p t) (t : State) (core off : Nat) :
      p (t.emptyTag core off) = p t := (hp.slotEmptied hwr _ _ _).trans (htag t _)
  unfold State.endServing
  dsimp only
  by_cases hserv : s.cx.serving = true
  · have hserv' : (s.ctx s.cur).serving = true := hserv
    rw [if_neg (not_not_intro hserv'), if_pos hserv]
    refine ⟨?_, ?_⟩
    · exact ite_keeps (hempty State.cur aside_cur (fun _ _ => rfl) (fun _ _ _ _ _ => rfl) _ _ _) rfl
    · have hset : { s.setCtx s.cur { (s.ctx s.cur).set 0x085 s.leftCsrc with srvMsg := false } with uid := s.uid + 1 }.cx =
          s.unserved := State.ctx_setCtx_self _ _ _
      exact ite_keeps ((hempty State.cx aside_cx (fun _ _ => rfl) (fun _ _ _ _ _ => rfl) _ _ _).trans hset) hset
  · have hserv' : ¬ (s.ctx s.cur).serving = true := hserv
    rw [if_pos hserv', if_neg hserv]
    exact ⟨rfl, rfl⟩

theorem State.samePoint_endServing (s : State) : SamePoint s (s.endServing s.cur) := by
  obtain ⟨hcur, hcx⟩ := s.endServing_cx
  split at hcx
  · exact ⟨hcur, by rw [hcx]; rfl, by rw [hcx]; rfl, by rw [hcx]; rfl⟩
  · exact ⟨hcur, by rw [hcx], by rw [hcx], by rw [hcx]⟩

theorem State.unserved_serving (s : State) : s.unserved.serving = false := by
  have hget : s.unserved.get 0x085 = s.leftCsrc := Ctx.get_set_self _ _ _
  have hlt : s.leftCsrc.toNat < 2 ^ 63 := by
    have hbits := bitsOf_lt (Config.freeWord s.uid 0).toNat 0 49
    have hword : s.leftCsrc.toNat = bitsOf (Config.freeWord s.uid 0).toNat 0 49 % 2 ^ 64 := BitVec.toNat_ofNat _ _
    omega
  have hbit : bitsOf s.leftCsrc.toNat 63 1 = 0 := by
    rw [bitsOf, Nat.div_eq_of_lt hlt, Nat.zero_mod]
  rw [Ctx.serving, Ctx.fld, hget, hbit]
  rfl

theorem State.endServing_serving (s : State) : (s.endServing s.cur).cx.serving = false := by
  obtain ⟨-, hcx⟩ := s.endServing_cx
  split at hcx
  · rw [hcx]
    exact s.unserved_serving
  next h => rw [hcx]; simpa using h

/-! ## CPOP -/

/-- The focus that begins a wait, counted, before it departs. -/
def State.waiting (s : State) (w : Wait) : State :=
  let long := tabled w && decide (256 ≤ s.parked (clusterOf s.here))
  let t := if long then
      s.setCluster (clusterOf s.here)
        { (s.cluster (clusterOf s.here)) with waitOvf := min ((s.cluster (clusterOf s.here)).waitOvf + 1) 0xFFFFFFFF }
    else s
  t.setCx { t.cx.count 4 1 with parkLong := long, woken := false, parkRun := 0 }

theorem State.waiting_rep (s : State) (w : Wait) : (s.waiting w).cx.rep = s.cx.rep := by
  unfold State.waiting
  dsimp only
  have hkeep (t : State) (ht : t.cx = s.cx) (long : Bool) :
      (t.setCx { t.cx.count 4 1 with parkLong := long, woken := false, parkRun := 0 }).cx.rep = s.cx.rep := by
    obtain ⟨cr, hcount⟩ := s.cx.count_eq 4 1
    rw [State.cx_setCx, ht, hcount]
  exact hkeep _ (ite_keeps (aside_cx.setCluster s _ _) rfl) _

/-- The focus has departed into its wait. -/
def State.departWaiting (s : State) (w : Wait) : State :=
  s.depart s.cur s.cx.pc (if (s.core s.here).stop && !s.cx.stepping then .stopped (some w) false else .blocked w)

theorem State.departWaiting_waits {s : State} (hrep : s.cx.rep = none) (w : Wait) : (s.departWaiting w).cx.waits = some w := by
  obtain ⟨-, -, -, -, hcx⟩ := State.depart_focus hrep s.cx.pc
    (if (s.core s.here).stop && !s.cx.stepping then .stopped (some w) false else .blocked w)
  rw [State.departWaiting, hcx]
  cases (s.core s.here).stop && !s.cx.stepping <;> rfl

/-- A wait that the focus begins is the one it then has. -/
theorem State.block_waits {s : State} (hrep : s.cx.rep = none) (w : Wait) : (s.block w).cx.waits = some w := by
  have hblock : s.block w =
      let t := (s.waiting w).departWaiting w
      if isCopy t.cur then t.setSeq t.here (fun q => { q with state := .blocked }) else t := rfl
  rw [hblock]
  dsimp only
  have hwaits := State.departWaiting_waits ((s.waiting_rep w).trans hrep) w
  exact ite_keeps (p := fun t => t.cx.waits) hwaits hwaits

theorem cpop_body {s : State} {a b : BitVec 4} (c : BitVec 4) {imm : BitVec 6} (hs : s.calm = true)
    (hen : qbaseEn s.mem.qbase = true) (hfrz : bitAt (s.rdS s.here (qbaseAddr s.mem.qbase + 32) 8) 0 = false) :
    exec (.cpop a b c imm) s =
      let u := s.endServing s.cur
      match u.popOwn u.cx.group u.cx.vcore with
      | some (t, e) => .next (t.serveEntry a b u.cx.vcore e).advance
      | none =>
        if bitAt imm.toNat 1 then cpopNone a b imm u
        else .next { u.setCx { u.cx with call := some ⟨u.uid, [(0, none)], true, 0⟩ } with uid := u.uid + 1 } := by
  rw [exec_cpop, execCpop]
  simp only [s.calm_call hs]
  rw [if_neg (not_not_intro hen), if_neg (by rw [hfrz]; decide), if_neg (by rw [s.calm_gated hs]; decide),
    State.niRead_sound (s.calm_sound hs)]
  rfl

theorem bitAt_one_of_two_le {x : Nat} (h : 2 ≤ bitsOf x 0 2) : bitAt x 1 = true := by
  simp only [bitsOf, bitAt] at h ⊢
  simp
  omega

theorem not_bitAt_one_of_lt_two {x : Nat} (h : bitsOf x 0 2 < 2) : ¬ bitAt x 1 = true := by
  simp only [bitsOf, bitAt] at h ⊢
  simp
  omega

/-- CPOP with NOST that finds no entry and does not block answers 0. -/
theorem cpopNone_zero {s : State} {a b : BitVec 4} {imm : BitVec 6} (hrep : s.cx.rep = none) (himm : bitsOf imm.toNat 0 2 = 2) :
    ∃ v, cpopNone a b imm s = .next v ∧ (a = b ∨ v.w a = 0) ∧ v.w b = 0 := by
  have hblock : bitAt imm.toNat 0 = false := by
    simp only [bitsOf, bitAt] at himm ⊢
    simp
    omega
  unfold cpopNone
  dsimp only
  rw [if_neg (by rw [hblock]; decide)]
  have hrep' : (((s.setCx { s.cx with call := none }).setW a 0).setW b 0).cx.rep = none := by
    rw [State.cx_setW, State.cx_setW, State.cx_setCx]
    exact hrep
  refine ⟨_, rfl, ?_, ?_⟩
  · by_cases hab : b = a
    · exact .inl hab.symm
    · right
      rw [State.advance_w _ hrep', State.w_setW_ne _ _ hab, State.w_setW_self]
  · rw [State.advance_w _ hrep', State.w_setW_self]

/-- CPOP with NOST that finds no entry and may block waits for its own deque. -/
theorem cpopNone_waits {s : State} {a b : BitVec 4} {imm : BitVec 6} (hrep : s.cx.rep = none) (himm : bitsOf imm.toNat 0 2 = 3) :
    ∃ v, cpopNone a b imm s = .next v ∧ v.cx.waits = some (.cpop true) := by
  have hblock : bitAt imm.toNat 0 = true := by
    simp only [bitsOf, bitAt] at himm ⊢
    simp
    omega
  have hnost : bitAt imm.toNat 1 = true := bitAt_one_of_two_le (by omega)
  unfold cpopNone
  dsimp only
  rw [if_pos hblock, hnost]
  exact ⟨_, rfl, State.block_waits (by rw [State.cx_setCx]; exact hrep) _⟩

/-! ## CDONE -/

/-- A CDONE whose decrements are all answered without a failure. -/
theorem cdoneEnd_good {s : State} {as : List Nat} {rs : List (Nat × Option Nat)}
    (hbad : rs.findSome? (fun r => (r.2.bind decCause).map (fun k => (r.1, k))) = none) :
    cdoneEnd as rs s =
      .next ((((s.setCx { s.cx with call := none }).endServing s.cur).progress
        ((s.setCx { s.cx with call := none }).endServing s.cur).cx.group).advance) := by
  unfold cdoneEnd
  dsimp only
  rw [hbad]
  rfl

theorem cdoneEnd_bad {s : State} {as : List Nat} {rs : List (Nat × Option Nat)} {x : Nat × Nat}
    (hbad : rs.findSome? (fun r => (r.2.bind decCause).map (fun k => (r.1, k))) = some x) (hwait : s.trapWait = none) :
    cdoneEnd as rs s =
      .next (((s.setCx { s.cx with call := none }).endServing s.cur).takeTrap x.2 (toWord (as.getD x.1 0))
        ((s.setCx { s.cx with call := none }).endServing s.cur).cx.pc) := by
  unfold cdoneEnd
  dsimp only
  rw [hbad]
  unfold whenLanded
  rw [hwait]
  rfl

theorem State.samePoint_uncall (s : State) : SamePoint s (s.setCx { s.cx with call := none }) := .setCx rfl rfl rfl

/-- Going on counts events and moves no other control register. -/
theorem State.get_advance {s : State} (hrep : s.cx.rep = none) {n : Nat} (hn : n < 0x024 ∨ 0x027 < n) :
    s.advance.cx.get n = s.cx.get n := by
  rw [State.advance_eq s hrep, State.cx_setCx]
  exact s.cx.get_completed hn

/-- CDONE without successors ends the serving and completes. -/
theorem cdone_alone {s : State} {a b c : BitVec 4} {imm : BitVec 6} (hs : s.calm = true)
    (has : s.cx.successors (bitsOf (s.w a).toNat 0 16) (bitsOf (s.w a).toNat 16 16) = []) :
    ∃ v, exec (.cdone a b c imm) s = .next v ∧ v.cx.serving = false ∧ v.cx.pc = succPc s.cx.line s.cx.pc := by
  rw [exec_cdone, execCdone, reading_calm s hs]
  dsimp only
  rw [has]
  simp only [s.calm_call hs]
  rw [if_neg (by rw [s.calm_drained hs]; decide), if_pos (by rfl), cdoneEnd_good (by rfl)]
  refine ⟨_, rfl, ?_⟩
  generalize hu : (s.endFwd s.cur).setCx { (s.endFwd s.cur).cx with call := none } = u
  have hpoint : SamePoint s u := by
    rw [← hu]
    exact (s.woken_endFwd s.cur).samePoint.trans (State.samePoint_uncall _)
  have hcur : (s.endFwd s.cur).cur = u.cur := by rw [← hu]; rfl
  rw [hcur]
  have hend := (hpoint.trans u.samePoint_endServing).trans (State.samePoint_progress _ (u.endServing u.cur).cx.group)
  have hrep := hend.rep.trans (s.calm_rep hs)
  refine ⟨?_, ?_⟩
  · have hget := State.get_advance hrep (n := 0x085) (by decide)
    have hserv := u.endServing_serving
    rw [Ctx.serving, Ctx.fld] at hserv ⊢
    rw [hget, State.progress_keeps State.cx (fun _ _ => rfl)]
    exact hserv
  · rw [State.advance_pc _ hrep, hend.line, hend.pc]

/-- What a CDONE waits for where no address fails its checks: one answer for each successor. -/
theorem State.cdoneAnswers_good {s : State} {as : List Nat} (h : as.filterMap (fun x => s.counterBad x) = []) :
    s.cdoneAnswers as = (List.range as.length).map fun i => (i, none) := by
  have hgood (x : Nat) (hx : x ∈ as) : s.counterBad x = none := List.filterMap_eq_nil_iff.1 h x hx
  have hmap : s.cdoneAnswers as = ((as.zip (upTo as.length)).map Prod.snd).map fun i => (i, none) := by
    rw [State.cdoneAnswers, List.map_map]
    refine List.map_congr_left fun x hx => ?_
    have hmem : x.1 ∈ as := (List.of_mem_zip hx).1
    rw [hgood x.1 hmem]
    rfl
  rw [hmap, List.map_snd_zip (by simp [upTo])]
  rfl

theorem Aside.counterRead {α : Type} {p : State → α} (hp : Aside p) (s : State) (addr : Nat) : p (s.counterRead addr) = p s := by
  unfold State.counterRead
  dsimp only
  split
  · split
    · exact hp.softRead s _ _ _
    · rfl
  · rfl

/-- The decrement of one successor that sets out. -/
def State.sendDec (s : State) (call addr idx : Nat) : State :=
  ((s.counterRead addr).placeFill s.here s.cx.group (s.ownerVcore addr)).fly
    (.dec s.cur call idx s.cx.group (s.ownerVcore addr) (addr % 131072) s.cx.vcore (toWord addr) s.cx.pc)

theorem State.sendDec_leaves (s : State) (call addr idx : Nat) :
    (s.sendDec call addr idx).flights.length = s.flights.length + 1 ∧ (s.sendDec call addr idx).cx = s.cx := by
  unfold State.sendDec State.fly State.flyFrom
  refine ⟨?_, ?_⟩
  · dsimp only
    rw [List.length_append, aside_flights.placeFill, aside_flights.counterRead]
    rfl
  · exact (aside_cx.placeFill _ _ _ _).trans (aside_cx.counterRead _ _)

/-- Each unanswered decrement of a CDONE sets out, and the focus stays as it is. -/
theorem State.sendDecs_leaves {call : Nat} {as : List Nat} {rs : List (Nat × Option Nat)} (hrs : ∀ r ∈ rs, r.2 = none)
    (hlen : as.length = rs.length) (s : State) :
    (s.sendDecs call as rs).flights.length = s.flights.length + as.length ∧ (s.sendDecs call as rs).cx = s.cx := by
  induction as generalizing rs s with
  | nil => exact ⟨rfl, rfl⟩
  | cons x as ih =>
    cases rs with
    | nil => cases hlen
    | cons r rs =>
      have hr : r.2.isSome = false := by rw [hrs r List.mem_cons_self]; rfl
      have hstep : s.sendDecs call (x :: as) (r :: rs) = (s.sendDec call x r.1).sendDecs call as rs := by
        have hone : (if r.2.isSome then s else s.sendDec call x r.1) = s.sendDec call x r.1 := if_neg (by rw [hr]; decide)
        exact congrArg (fun t : State => t.sendDecs call as rs) hone
      obtain ⟨hflights, hcx⟩ := ih (rs := rs) (fun q hq => hrs q (List.mem_cons_of_mem r hq)) (Nat.succ.inj hlen)
        (s.sendDec call x r.1)
      obtain ⟨hone, honecx⟩ := s.sendDec_leaves call x r.1
      rw [hstep, hflights, hcx, hone, honecx, List.length_cons]
      exact ⟨by omega, rfl⟩

/-- CDONE with successors that pass their checks sends a decrement to each and waits. -/
theorem cdone_sends {s : State} {a b c : BitVec 4} {imm : BitVec 6} {as : List Nat} (hs : s.calm = true)
    (has : s.cx.successors (bitsOf (s.w a).toNat 0 16) (bitsOf (s.w a).toNat 16 16) = as) (hne : as ≠ [])
    (hgood : as.filterMap (fun x => (s.endFwd s.cur).counterBad x) = []) :
    ∃ v, exec (.cdone a b c imm) s = .next v ∧ v.flights.length = as.length ∧
      v.cx.call = some ⟨s.uid, (List.range as.length).map (fun i => (i, none)), false, 0⟩ := by
  have hopen : ((List.range as.length).map fun i => ((i, none) : Nat × Option Nat)).all (fun r => r.2.isSome) = false := by
    cases as with
    | nil => exact absurd rfl hne
    | cons x r => simp [List.range_succ]
  rw [exec_cdone, execCdone, reading_calm s hs]
  dsimp only
  rw [has]
  simp only [s.calm_call hs]
  rw [if_neg (by rw [s.calm_drained hs]; decide), State.cdoneAnswers_good hgood, if_neg (by rw [hopen]; decide)]
  refine ⟨_, rfl, ?_⟩
  obtain ⟨hflights, hcx⟩ := State.sendDecs_leaves (call := (s.endFwd s.cur).uid) (as := as)
    (rs := (List.range as.length).map fun i => (i, none)) (fun r hr => by
      obtain ⟨i, -, rfl⟩ := List.mem_map.1 hr
      rfl) (by simp)
    ({ s.endFwd s.cur with uid := (s.endFwd s.cur).uid + 1 }.setCx { ({ s.endFwd s.cur with uid := (s.endFwd s.cur).uid + 1 } : State).cx
      with call := some ⟨(s.endFwd s.cur).uid, (List.range as.length).map fun i => (i, none), false, 0⟩ })
  refine ⟨hflights.trans ?_, ?_⟩
  · have hnone : s.flights = [] := (s.calm_parts hs).2.2.1
    exact (congrArg (fun l => List.length l + as.length) hnone).trans (Nat.zero_add _)
  · rw [hcx, State.cx_setCx]
    rfl

/-! ## The decrement at its bank -/

theorem State.flight_single {s : State} {id : Nat} {x : Cargo} (hf : s.flights = [⟨id, x⟩]) (hhop : s.hopping id = false) :
    s.flight id = some x := by
  rw [State.flight, hhop, hf]
  simp [pick]

/-- The answer of a decrement leaves the bank, lands its item and stands in the call of its strand. -/
theorem State.decAnswer_leaves (s : State) (id cid call idx v : Nat) :
    (s.decAnswer id cid call idx v).flights = s.flights.filter (fun f => f.id != id) ∧
      (∀ core off, (s.decAnswer id cid call idx v).rdS core off 8 = s.rdS core off 8) ∧
      ∀ k, (s.ctx cid).call = some k → k.id = call → k.answers = [(idx, none)] →
        ((s.decAnswer id cid call idx v).ctx cid).call = some { k with answers := [(idx, some v)] } := by
  have hanswer {α : Type} (p : State → α) (hctx : ∀ (t : State) (i : Nat) (c : Ctx), p (t.setCtx i c) = p t) (t : State) :
      p (t.answer cid call idx v) = p t := by
    unfold State.answer
    dsimp only
    split
    · exact ite_keeps (hctx t _ _) rfl
    · rfl
  refine ⟨?_, fun core off => ?_, fun k hcall hid hans => ?_⟩
  · exact (aside_flights.logRx _ _ _ _ _ _).trans (hanswer State.flights (fun _ _ _ => rfl) _)
  · exact ((aside_rdS core off 8).logRx _ _ _ _ _ _).trans (hanswer (fun t => t.rdS core off 8) (fun _ _ _ => rfl) _)
  · have hlog := (aside_ctx cid).logRx ((s.land id).answer cid call idx v) (coreOfCid cid) rxAnswer
      (match s.flight id with
        | some (.dec _ _ _ g vc _ _ _ _) => s.byMember g vc
        | _ => s.byMember 0 0) v []
    have hland : ((s.land id).ctx cid).call = some k := hcall
    refine (congrArg Ctx.call hlog).trans ?_
    rw [State.answer_own hland hid, State.ctx_setCtx_self, hans]
    simp

theorem counterDecrement_leaves {s : State} {id cid call idx group v off issuer : Nat} {va tpc : Word} {k : Call} {core o : Nat}
    (hf : s.flights = [⟨id, .dec cid call idx group v off issuer va tpc⟩]) (hhop : s.hopping id = false)
    (hplace : (s.placeOf (coreOfCid cid) group v).1 ≠ 1)
    (hhome : s.homeward (coreOfCid cid) group (.spad (s.member group v).pcore off) 8 (some v) = .to (.spad core o))
    (hcore : (s.member group ((s.vcoreOn group core).getD v)).pcore = core) (hcnt : 1 < cwCnt (s.rdS core o 8)) :
    ∃ t, exec (.counterDecrement id) s = .next t ∧ t.flights = [] ∧
      cwCnt (t.rdS core o 8) = cwCnt (s.rdS core o 8) - 1 ∧
      ((s.ctx cid).call = some k → k.id = call → k.answers = [(idx, none)] →
        (t.ctx cid).call = some { k with answers := [(idx, some (cwCnt (s.rdS core o 8) - 1))] }) := by
  have hdec := State.decAt_above (s := s) (h := group) (v := (s.vcoreOn group core).getD v) (off := o) (tval := va.toNat)
    (tpc := tpc.toNat) (issuer := issuer) (by rw [hcore]; exact hcnt)
  rw [hcore] at hdec
  rw [exec_counterDecrement, execCounterDecrement, State.flight_single hf hhop]
  dsimp only
  rw [if_neg (by
    rw [hf]
    rintro (h | h)
    · simp at h
    · exact hplace h), hhome]
  dsimp only
  rw [hdec]
  dsimp only
  have hx := cwCnt_decremented (w := s.rdS core o 8) (readN_lt 8 _ _)
  generalize setBits (s.rdS core o 8) 0 32 (cwCnt (s.rdS core o 8) - 1) = x at hx ⊢
  refine ⟨_, rfl, ?_⟩
  obtain ⟨hflights, hrd, hcall⟩ := (s.logDiff (s.wrS core o 8 x) core rxAccess (s.byMember group issuer)).decAnswer_leaves id cid
    call idx ((some (cwCnt (s.rdS core o 8) - 1)).getD decFail)
  refine ⟨?_, ?_, fun hk hid hans => ?_⟩
  · rw [hflights, aside_flights.logDiff, State.wrS_flights, hf]
    simp
  · rw [hrd, (aside_rdS core o 8).logDiff, State.rdS_wrS_self, hx]
  · have hctx := (aside_ctx cid).logDiff s (s.wrS core o 8 x) core rxAccess (s.byMember group issuer)
    rw [State.ctx_wrS] at hctx
    exact hcall k ((congrArg Ctx.call hctx).trans hk) hid hans

/-! ## The steal round -/

theorem Aside.hubReads {α : Type} {p : State → α} (hp : Aside p) (s : State) (h : Nat) (vs : List Nat) :
    p (s.hubReads h vs) = p s :=
  foldl_keeps (fun t _ => ite_keeps rfl ((hp.niRead _ _ _ _).trans (hp.niRead t _ _ _))) vs s

/-- Taking an entry from a member's deque moves no context. -/
theorem State.stealFrom_ctxs {s t : State} {h v e : Nat} (ht : s.stealFrom h v = some (t, e)) : t.ctxs = s.ctxs := by
  have htake (u : State) (core a l j : Nat) : (u.takeAt core a l j).ctxs = u.ctxs := by
    rw [State.takeAt, State.setLvl, State.wrQ, State.wrS_ctxs]
    refine foldl_keeps (p := State.ctxs) (fun x i => ?_) _ u
    rw [State.wrQ, State.wrS_ctxs, aside_ctxs.niRead]
  have hunqueue (u : State) (core x : Nat) : (u.unqueue core x).ctxs = u.ctxs := by
    unfold State.unqueue
    refine ite_keeps ?_ rfl
    rw [State.wrS_ctxs, aside_ctxs.niRead]
  unfold State.stealFrom at ht
  dsimp only at ht
  split at ht
  · cases ht
  · split at ht
    · cases ht
    · have hst := congrArg Prod.fst (Option.some.inj ht)
      dsimp only at hst
      rw [← hst, hunqueue, htake, aside_ctxs.niRead]

section

variable {s : State} {cid : Nat} {c : Ctx} {k : Call} (hc : mget s.ctxs cid = some c) (hcall : c.call = some k)
  (hsteal : k.steal = true) (hans : k.answers = [(0, none)])

/-- The cluster that the steal round of a thief asks now. -/
def State.stealCluster (s : State) (cid : Nat) (c : Ctx) (k : Call) : Nat :=
  roundCluster (clusterOf (coreOfCid cid)) k.round (s.groupClusters c.group)

/-- The state in which the hub of that cluster has looked at its members. -/
def State.hubLooked (s : State) (cid : Nat) (c : Ctx) (k : Call) : State :=
  s.hubReads c.group (s.membersIn c.group (s.stealCluster cid c k))

include hc in
theorem State.ctx_hubLooked : (s.hubLooked cid c k).ctx cid = c := by
  rw [State.hubLooked, (aside_ctx cid).hubReads, State.ctx, mgetD, hc]
  rfl

include hcall hans in
/-- An answer to a steal round's call. -/
theorem State.call_stealAnswer {t : State} (ht : t.ctx cid = c) (v : Nat) :
    ((t.answer cid k.id 0 v).ctx cid).call = some { k with answers := [(0, some v)] } := by
  rw [State.answer_own (k := k) (by rw [ht]; exact hcall) rfl, State.ctx_setCtx_self, hans]
  rfl

include hc hcall hsteal hans

theorem exec_stealRound_at :
    exec (.stealRound cid) s =
      let r := s.hubLooked cid c k
      match (r.hubPick c.group (s.stealCluster cid c k)).bind (fun v => (r.stealFrom c.group v).map (fun x => (v, x))) with
      | some (v, t, e) =>
        .next (((r.logDiff t (r.member c.group v).pcore rxAccess (r.byMember c.group c.vcore)).logRx (coreOfCid cid) rxSteal
          (r.byMember c.group v) e []).answer cid k.id 0 (v * 2 ^ 64 + e))
      | none =>
        if k.round + 1 < (s.groupClusters c.group).length then
          .next (r.setCtx cid { c with call := some { k with round := k.round + 1 } })
        else .next (r.answer cid k.id 0 noEntry) := by
  rw [exec_stealRound, execStealRound, hc]
  dsimp only
  rw [hcall]
  dsimp only
  rw [hsteal, hans]
  rfl

theorem stealRound_takes {w e : Nat} {u : State}
    (hpick : (s.hubLooked cid c k).hubPick c.group (s.stealCluster cid c k) = some w)
    (hfrom : (s.hubLooked cid c k).stealFrom c.group w = some (u, e)) :
    ∃ t, exec (.stealRound cid) s = .next t ∧ (t.ctx cid).call = some { k with answers := [(0, some (w * 2 ^ 64 + e))] } := by
  rw [exec_stealRound_at hc hcall hsteal hans]
  dsimp only
  rw [hpick, Option.bind_some, hfrom]
  refine ⟨_, rfl, State.call_stealAnswer hcall hans ?_ _⟩
  rw [(aside_ctx cid).logRx, (aside_ctx cid).logDiff, State.ctx, State.stealFrom_ctxs hfrom]
  exact State.ctx_hubLooked hc

theorem stealRound_none (hpick : (s.hubLooked cid c k).hubPick c.group (s.stealCluster cid c k) = none) :
    (k.round + 1 < (s.groupClusters c.group).length → exec (.stealRound cid) s =
      .next ((s.hubLooked cid c k).setCtx cid { c with call := some { k with round := k.round + 1 } })) ∧
    ((s.groupClusters c.group).length ≤ k.round + 1 → ∃ t, exec (.stealRound cid) s = .next t ∧
      (t.ctx cid).call = some { k with answers := [(0, some noEntry)] }) := by
  rw [exec_stealRound_at hc hcall hsteal hans]
  dsimp only
  rw [hpick, Option.bind_none]
  refine ⟨fun hmore => if_pos hmore, fun hlast => ?_⟩
  dsimp only
  rw [if_neg (by omega)]
  exact ⟨_, rfl, State.call_stealAnswer hcall hans (State.ctx_hubLooked hc) _⟩

end

/-- Settles O23: each instruction reaches its counter word, deque or call, and the steps act at the bank and the hub. -/
theorem codeletResult : Obligations.CodeletResult := by
  unfold Obligations.CodeletResult
  refine ⟨?_, ?_, ?_, ?_⟩
  · intro s u a b c imm core off hs hal w v apart
    refine ⟨fun h hlocal hen hn => ?_, fun h hhere hmember hcnt hapart => cdec_near c hs hal h hhere hmember hcnt hapart,
      fun h hfar => cdec_far c hs hal h hfar, fun h => cready_at c hs hal h⟩
    obtain ⟨t, ht, hrd⟩ := carm_leaves c hs hal h hlocal hen hn
    obtain ⟨hcnt, hprio, hstl, harm, hlost⟩ := armed_fields (s.rdS core off 8) ((s.w a).toNat % 2 ^ 32) (bitsOf imm.toNat 0 2)
      (bitAt imm.toNat 2) true
    rw [← hrd] at hcnt hprio hstl harm hlost
    exact ⟨t, ht, hcnt.trans (Nat.mod_mod _ _), hprio.trans (Nat.mod_mod _ _), hstl, harm, hlost⟩
  · intro s t a b c imm e hs
    refine ⟨fun hen hfrz => ⟨fun hpop => ?_, fun hpop hcall => ?_⟩, fun has => ?_, fun hne hgood => ?_⟩
    · rw [cpop_body c hs hen hfrz]
      dsimp only
      rw [hpop]
    · have hrep : (s.endServing s.cur).cx.rep = none := s.samePoint_endServing.rep.trans (s.calm_rep hs)
      rw [cpop_body c hs hen hfrz]
      dsimp only
      rw [hpop]
      refine ⟨fun himm => ?_, fun himm => ?_, fun himm => ?_⟩
      · rw [if_pos (bitAt_one_of_two_le (by omega))]
        exact cpopNone_zero hrep himm
      · rw [if_pos (bitAt_one_of_two_le (by omega))]
        exact cpopNone_waits hrep himm
      · rw [if_neg (not_bitAt_one_of_lt_two himm)]
        exact ⟨_, rfl, congrArg Ctx.call (State.cx_setCx _ _)⟩
    · exact cdone_alone hs has
    · exact cdone_sends hs rfl hne hgood
  · intro s a b c imm k hs hcall hall as t bad
    have hbody : exec (.cdone a b c imm) s = cdoneEnd as k.answers s := by
      rw [exec_cdone, execCdone, reading_sound s hs]
      dsimp only
      rw [hcall]
      exact if_pos hall
    rw [hbody]
    exact ⟨fun hbad => cdoneEnd_good hbad, fun x hbad hwait => cdoneEnd_bad hbad hwait⟩
  · intro s id cid call idx group v off issuer va tpc k
    refine ⟨fun core o hf hhop hplace hhome hcore hcnt _ => counterDecrement_leaves hf hhop hplace hhome hcore hcnt,
      fun c hc hcall hsteal hans _ => ⟨fun w e u hpick hfrom => stealRound_takes hc hcall hsteal hans hpick hfrom,
        fun hpick => stealRound_none hc hcall hsteal hans hpick⟩⟩

end Sys2Proof.Machine

/-! PROOFS. Sending, rings and queue control (16 R295 to R308): SEND, the RING instructions, the freeze record and WFM. -/

namespace Sys2Proof.Machine

section

variable (a b c : BitVec 4) (imm : BitVec 6) (s : State)

theorem exec_send : exec (.send a b c imm) s = execSend a b c imm s := by rfl
theorem exec_rpoll : exec (.rpoll a b c imm) s = execRpoll a b c imm s := by rfl
theorem exec_rwait : exec (.rwait a b c imm) s = execRwait a b c imm s := by rfl
theorem exec_radv : exec (.radv a b c imm) s = execRadv a b c imm s := by rfl
theorem exec_rbind : exec (.rbind a b c imm) s = execRbind a b c imm s := by rfl
theorem exec_rclose : exec (.rclose a b c imm) s = execRclose a b c imm s := by rfl
theorem exec_qrec : exec (.qrec a b c imm) s = execQrec a b c imm s := by rfl
theorem exec_qthaw : exec (.qthaw a b c imm) s = execQthaw a b c imm s := by rfl
theorem exec_qfreeze : exec (.qfreeze a b c imm) s = execQfreeze a b c imm s := by rfl
theorem exec_wfm : exec (.wfm a b c imm) s = execWfm a b c imm s := by rfl

end

variable {s : State}

/-- A calm focus's own read of its scratchpad waits for nothing. -/
theorem State.localHeld_calm (h : s.calm = true) (rd wr : Bool) (rs : List (Nat × Nat)) : s.localHeld rd wr rs = false := by
  obtain ⟨hr, hl, hf, -, -, -, hm, -⟩ := s.calm_parts h
  exact State.localHeld_idle hr hl hf hm rd wr rs

/-! ## Parts of a number in memory -/

theorem readN_add (m : List Host.Cell) (i n : Nat) : ∀ a, readN m a (i + n) = readN m a i + 256 ^ i * readN m (a + i) n := by
  induction i with
  | zero => intro a; simp [readN]
  | succ i ih =>
    intro a
    have hnext : a + 1 + i = a + (i + 1) := by omega
    rw [Nat.succ_add, readN, readN, ih (a + 1), hnext, Nat.pow_succ]
    ring

/-- A part of a number in memory. -/
theorem State.rdS_part (s : State) (core off : Nat) {n i k : Nat} (h : i + k ≤ n) :
    s.rdS core (off + i) k = s.rdS core off n / 256 ^ i % 256 ^ k := by
  obtain ⟨r, rfl⟩ := Nat.exists_eq_add_of_le h
  have hkey : spadKey core (off + i) = spadKey core off + i := (Nat.add_assoc _ _ _).symm
  rw [State.rdS, State.rdS, hkey, Nat.add_assoc, readN_add, readN_add s.spad k r, Nat.add_mul_div_left _ _ (Nat.pow_pos (by decide)),
    Nat.div_eq_of_lt (readN_lt i _ _), Nat.zero_add, Nat.add_mul_mod_self_left, Nat.mod_eq_of_lt (readN_lt k _ _)]

/-! ## Notes of the focus -/

theorem State.noteBrv_keeps {α : Type} (p : State → α) (hset : ∀ (t : State) (c : Ctx), p (t.setCx c) = p t) (s : State)
    (o : Option (Nat × Nat)) (a : Word) : p (s.noteBrv o a) = p s := by
  unfold State.noteBrv
  split
  · rfl
  · exact ite_keeps (hset s _) rfl

theorem State.namedRing_keeps {α : Type} (p : State → α) (hset : ∀ (t : State) (c : Ctx), p (t.setCx c) = p t) (s : State)
    (h v d : Nat) : p (s.namedRing h v d) = p s := State.noteBrv_keeps p hset s _ _

theorem State.namedMsg_keeps {α : Type} (p : State → α) (hset : ∀ (t : State) (c : Ctx), p (t.setCx c) = p t) (s : State)
    (m : Msg) : p (s.namedMsg m) = p s := by
  unfold State.namedMsg
  refine ite_keeps rfl ?_
  split
  · exact State.namedRing_keeps p hset s _ _ _
  · rfl

theorem State.samePoint_noteBrv (s : State) (o : Option (Nat × Nat)) (a : Word) : SamePoint s (s.noteBrv o a) := by
  unfold State.noteBrv
  split
  · exact .of_ctxs rfl rfl
  · split
    · exact .setCx rfl rfl rfl
    · exact .of_ctxs rfl rfl

theorem State.samePoint_namedRing (s : State) (h v d : Nat) : SamePoint s (s.namedRing h v d) := s.samePoint_noteBrv _ _

theorem State.samePoint_namedMsg (s : State) (m : Msg) : SamePoint s (s.namedMsg m) := by
  unfold State.namedMsg
  split
  · exact .of_ctxs rfl rfl
  · split
    · exact s.samePoint_namedRing _ _ _
    · exact .of_ctxs rfl rfl

theorem State.samePoint_countEv (s : State) (code n : Nat) : SamePoint s (s.countEv code n) := by
  obtain ⟨cr, hc⟩ := s.cx.count_eq code n
  exact .setCx (by rw [hc]) (by rw [hc]) (by rw [hc])

/-! ## SEND -/

theorem aside_links : Aside State.links := by constructor <;> intros <;> rfl

theorem aside_routing : Aside State.routing := by constructor <;> intros <;> rfl

/-- What a link carries is told by the links and the routing table alone. -/
theorem State.sendTo_links {t : State} (hl : t.links = s.links) (hr : t.routing = s.routing) (code id : Nat) (ws : List Nat) :
    (t.sendTo code id ws).links = (s.sendTo code id ws).links := by
  cases code with
  | zero => exact hl
  | succ d =>
    simp only [State.sendTo, State.sendFlits, State.setLink, State.link, State.routeTo, hl, hr]

theorem State.sendTo_keeps {α : Type} (p : State → α) (hlinks : ∀ (t : State) (x : Map Link), p { t with links := x } = p t)
    (s : State) (code id : Nat) (ws : List Nat) : p (s.sendTo code id ws) = p s := by
  cases code with
  | zero => rfl
  | succ d => exact hlinks s _

/-- The state that has the placement copy which a message to this device needs. -/
def State.filledFor (s : State) (m : Msg) : State := if m.ddev = 0 then s.placeFill s.here m.dgrp m.dvc else s

/-- The message that has set out, before the instruction goes on. -/
def State.sent (s : State) (m : Msg) : State :=
  let t := s.filledFor m
  ((((t.flyTo m.ddev m.words (.msg m false)).endFwd t.cur).countEv 12 1).namedMsg m).progress t.cx.group

theorem State.sent_leaves (s : State) (m : Msg) :
    (s.sent m).flights = s.flights ++ [⟨s.uid, .msg m false⟩] ∧ (s.sent m).links = (s.sendTo m.ddev s.uid m.words).links ∧
      (s.sent m).spad = s.spad ∧ (s.sent m).tags = s.tags ∧ SamePoint s (s.sent m) := by
  have hfill {α : Type} (p : State → α) (hp : Aside p) : p (s.filledFor m) = p s :=
    ite_keeps (hp.placeFill s _ _ _) rfl
  have hend {α : Type} (p : State → α) (hp : Aside p) (hset : ∀ (t : State) (c : Ctx), p (t.setCx c) = p t)
      (hgrp : ∀ (t : State) (g : Group), p (t.setGrp g) = p t) (t : State) (cid g : Nat) :
      p ((((t.endFwd cid).countEv 12 1).namedMsg m).progress g) = p t := by
    rw [State.progress_keeps p hgrp, State.namedMsg_keeps p hset]
    exact (hset _ _).trans (hp.endFwd t cid)
  have hsend {α : Type} (p : State → α) (hlinks : ∀ (t : State) (x : Map Link), p { t with links := x } = p t) (t : State) :
      p (t.flyTo m.ddev m.words (.msg m false)) = p (t.fly (.msg m false)) := State.sendTo_keeps p hlinks _ _ _ _
  have huid := hfill State.uid aside_uid
  unfold State.sent
  dsimp only
  generalize s.filledFor m = t at *
  refine ⟨?_, ?_, ?_, ?_, ?_⟩
  · rw [hend State.flights aside_flights (fun _ _ => rfl) (fun _ _ => rfl), hsend State.flights (fun _ _ => rfl)]
    have hflights := hfill State.flights aside_flights
    rw [State.fly, State.flyFrom, hflights, huid]
  · rw [hend State.links aside_links (fun _ _ => rfl) (fun _ _ => rfl), State.flyTo, huid]
    refine State.sendTo_links ?_ ?_ _ _ _
    · exact hfill State.links aside_links
    · exact hfill State.routing aside_routing
  · rw [hend State.spad aside_spad (fun _ _ => rfl) (fun _ _ => rfl), hsend State.spad (fun _ _ => rfl)]
    exact hfill State.spad aside_spad
  · rw [hend State.tags aside_tags (fun _ _ => rfl) (fun _ _ => rfl), hsend State.tags (fun _ _ => rfl)]
    exact hfill State.tags aside_tags
  · have hstart : SamePoint s t :=
      .of_ctxs (hfill State.ctxs aside_ctxs) (hfill State.cur aside_cur)
    have hfly : SamePoint t (t.flyTo m.ddev m.words (.msg m false)) :=
      .of_ctxs (hsend State.ctxs (fun _ _ => rfl) t) (hsend State.cur (fun _ _ => rfl) t)
    exact ((((hstart.trans hfly).trans (State.woken_endFwd _ _).samePoint).trans (State.samePoint_countEv _ _ _)).trans
      (State.samePoint_namedMsg _ _)).trans (State.samePoint_progress _ _)

theorem aside_softHere (off n : Nat) : Aside (fun t => t.softS t.here off n) := by constructor <;> intros <;> rfl

/-- Settles O24: the buffer's checks pass, and the message sets out from it. -/
theorem sendResult : Obligations.SendResult := by
  unfold Obligations.SendResult
  intro s a b c imm hs buf wc dev len m hal hlt hlen hfit hhead hzero hown hfar
  dsimp only [buf, wc, dev, len] at hal hlt hlen hfit hzero hown hfar
  obtain ⟨hflights, hlinks, hspad, htags, hpoint⟩ := s.sent_leaves m
  have hrep := hpoint.rep.trans (s.calm_rep hs)
  have hnone : s.flights = [] := (s.calm_parts hs).2.2.1
  refine ⟨(s.sent m).advance, ?_, ?_, ?_, ?_, ?_, ?_⟩
  · rw [exec_send, execSend, reading_calm s hs]
    dsimp only
    rw [if_neg (not_not_intro hal), if_neg (by omega), State.localHeld_calm hs, if_neg (by decide), if_pos hlen,
      if_neg (by omega), State.localHeld_calm hs, if_neg (by decide), s.badS_sound (s.calm_sound hs)]
    dsimp only
    rw [if_neg (by rw [s.calm_drained hs]; decide), if_neg (by
        rintro (h | h | h)
        · omega
        · rw [hhead] at h
          cases h
        · exact h hzero),
      if_neg (by
        rintro ⟨hdev, hbad⟩
        have := hown hdev
        omega),
      if_neg (by
        rintro ⟨hdev, hbad⟩
        have := hfar hdev
        rw [Option.isNone_iff_eq_none] at hbad
        rw [hbad] at this
        cases this),
      if_neg (by rw [s.calm_classS hs]; decide), watched_unwatched s (s.calm_unwatched hs)]
    have hsoft (n : Nat) : (s.filledFor m).softS (s.filledFor m).here (s.w b).toNat n = 0 := by
      have hfill : (s.filledFor m).softS (s.filledFor m).here (s.w b).toNat n = s.softS s.here (s.w b).toNat n :=
        ite_keeps (p := fun t => t.softS t.here (s.w b).toNat n) (c := m.ddev = 0) ((aside_softHere _ n).placeFill s _ _ _) rfl
      rw [hfill, s.softS_sound (s.calm_sound hs)]
    change counting ((s.filledFor m).softS (s.filledFor m).here (s.w b).toNat _) (s.filledFor m) (done (s.sent m)) = _
    rw [hsoft, counting_zero]
    rfl
  · rw [State.advance_keeps State.flights (fun _ _ => rfl) hrep, hflights, hnone]
    rfl
  · rw [State.advance_keeps State.links (fun _ _ => rfl) hrep, hlinks]
  · rw [State.advance_pc _ hrep, hpoint.line, hpoint.pc]
  · rw [State.advance_keeps State.spad (fun _ _ => rfl) hrep, hspad]
  · rw [State.advance_keeps State.tags (fun _ _ => rfl) hrep, htags]

/-! ## Rings -/

theorem State.softRing_sound (hs : s.sound = true) (n d : Nat) : s.softRing n d = 0 := by
  rw [State.softRing, s.softS_sound hs, s.softS_sound hs]

theorem withRing_ok {n d f : Nat} (hs : s.sound = true) (h : s.ringAt n d f) (i : Instr) (k : Nat → Nat → Out) :
    withRing i n s k = k d f := by
  obtain ⟨hring, hbound⟩ := h
  unfold withRing
  rw [hring]
  dsimp only
  rw [if_pos hbound, State.softRing_sound hs, counting_zero]

theorem withRing_unbound {n : Nat} (h : s.mem.ring n = none ∨ s.bound s.mem n = false) (i : Instr) (k : Nat → Nat → Out) :
    withRing i n s k = operandTrap s i := by
  unfold withRing
  split
  · obtain h | h := h
    next hring => rw [h] at hring; cases hring
    next => exact if_neg (by rw [h]; decide)
  · rfl

theorem ite_gates_calm (hs : s.calm = true) (o : Out) :
    (if ¬ (s.gates s.cur true false).isEmpty then stall s else o) = o := if_neg (by rw [s.calm_gates hs]; decide)

/-- Slots given back note times and accounts alone. -/
theorem State.giveSlots_keeps {α : Type} {p : State → α} (hp : Aside p) (s : State) (core f head n : Nat) :
    p (s.giveSlots core f head n) = p s :=
  foldl_keeps (fun t _ => State.noteGiven_keeps p hp.setCore hp.parts t _ _) _ s

/-- HEAD that RADV has moved, before the instruction goes on. -/
def State.advancedHead (s : State) (d f n : Nat) : State :=
  ((((s.wrQ4 s.here (d + 8) (s.ringHead s.here d + n)).giveSlots s.here f (s.ringHead s.here d) n).endFwd s.cur).namedRing
    s.cx.group s.cx.vcore d)

theorem State.advancedHead_leaves (s : State) (d f n : Nat) :
    SamePoint s (s.advancedHead d f n) ∧
      (s.advancedHead d f n).ringHead s.here d = (s.ringHead s.here d + n) % 2 ^ 32 := by
  unfold State.advancedHead
  generalize hw : s.wrQ4 s.here (d + 8) (s.ringHead s.here d + n) = w
  have hpoint : SamePoint s w := by
    rw [← hw]
    exact (s.woken_wrS _ _ _ _).samePoint
  have hgive : SamePoint w (w.giveSlots s.here f (s.ringHead s.here d) n) :=
    .of_ctxs (State.giveSlots_keeps aside_ctxs w _ _ _ _) (State.giveSlots_keeps aside_cur w _ _ _ _)
  refine ⟨((hpoint.trans hgive).trans (State.woken_endFwd _ _).samePoint).trans (State.samePoint_namedRing _ _ _ _), ?_⟩
  refine (State.namedRing_keeps (fun t => t.rdS s.here (d + 8) 4) (fun _ _ => rfl) _ _ _ _).trans ?_
  rw [(aside_rdS s.here (d + 8) 4).endFwd, State.giveSlots_keeps (aside_rdS s.here (d + 8) 4), ← hw, State.wrQ4]
  exact State.rdS_wrS_self s _ _ _ _

theorem radv_ok {a b c : BitVec 4} {imm : BitVec 6} {d f : Nat} (hs : s.calm = true) (h : s.ringAt (ringNo imm) d f)
    (hdisp : ringDisp f = false) (hpos : 0 < (s.w a).toNat) (hcnt : (s.w a).toNat ≤ s.ringCount s.here d)
    (hrelay : s.isRelay s.cx.group s.cx.vcore (ringNo imm) = false) :
    exec (.radv a b c imm) s = .next (s.advancedHead d f (s.w a).toNat).advance := by
  rw [exec_radv, execRadv, reading_calm s hs, withRing_ok (s.calm_sound hs) h]
  dsimp only
  rw [if_neg (by
      rw [hdisp, hrelay]
      rintro (h | h | h | h)
      · cases h
      · omega
      · omega
      · cases h), if_neg (by rw [s.calm_drained hs]; decide)]
  rfl

/-- The state in which RCLOSE has cleared BOUND, before the holding is removed. -/
def State.closedRing (s : State) (n d : Nat) : State :=
  (s.namedRing s.cx.group s.cx.vcore d).wrQ4 s.here (qbaseAddr s.mem.qbase + 64 + 4 * n)
    (setBits (s.rdS s.here (qbaseAddr s.mem.qbase + 64 + 4 * n) 4) 31 1 0)

/-- A holding that is removed where there is one. -/
def State.dropHolding (s : State) (o : Option (Nat × Holding)) : State :=
  match o with
  | some e => s.unregister e.1
  | none => s

theorem State.dropHolding_keeps {α : Type} (p : State → α) (hest : ∀ (t : State) (e : Map Holding), p { t with estate := e } = p t)
    (s : State) (o : Option (Nat × Holding)) : p (s.dropHolding o) = p s := by
  cases o with
  | none => rfl
  | some e => exact hest s _

theorem bitAt_clearedBound {w : Nat} (hw : w < 2 ^ 32) : bitAt (setBits w 31 1 0 % 256 ^ 4) 31 = false := by
  have hlt : setBits w 31 1 0 < 256 ^ 4 := by
    simp only [setBits]
    omega
  rw [Nat.mod_eq_of_lt hlt]
  exact bitAt_setBits_self w 31 false

theorem rclose_ok {a b c : BitVec 4} {imm : BitVec 6} {d f : Nat} (hs : s.calm = true) (h : s.ringAt (ringNo imm) d f) :
    ∃ t, exec (.rclose a b c imm) s = .next t ∧
      bitAt (t.ringWord s.here (qbaseAddr s.mem.qbase) (ringNo imm)) 31 = false ∧ t.cx.pc = succPc s.cx.line s.cx.pc := by
  have hexec : exec (.rclose a b c imm) s = .next ((s.closedRing (ringNo imm) d).dropHolding
      ((s.closedRing (ringNo imm) d).holderOf 3 (0, spadLoc s.cx.group s.cx.vcore d))).advance := by
    rw [exec_rclose, execRclose, withRing_ok (s.calm_sound hs) h]
    rfl
  generalize (s.closedRing (ringNo imm) d).holderOf 3 (0, spadLoc s.cx.group s.cx.vcore d) = o at hexec
  have hclosed : SamePoint s (s.closedRing (ringNo imm) d) :=
    (s.samePoint_namedRing _ _ _).trans (State.woken_wrS _ _ _ _ _).samePoint
  have hpoint : SamePoint s ((s.closedRing (ringNo imm) d).dropHolding o) :=
    hclosed.trans (.of_ctxs (State.dropHolding_keeps State.ctxs (fun _ _ => rfl) _ _)
      (State.dropHolding_keeps State.cur (fun _ _ => rfl) _ _))
  have hrep := hpoint.rep.trans (s.calm_rep hs)
  refine ⟨_, hexec, ?_, ?_⟩
  · rw [State.ringWord, State.advance_keeps (fun t => t.rdS s.here _ 4) (fun _ _ => rfl) hrep,
      State.dropHolding_keeps (fun t => t.rdS s.here _ 4) (fun _ _ => rfl), State.closedRing, State.wrQ4, State.rdS_wrS_self]
    exact bitAt_clearedBound (readN_lt 4 _ _)
  · rw [State.advance_pc _ hrep, hpoint.line, hpoint.pc]

/-- The state in which RBIND has written the descriptor, the ring table and the member's rings. -/
def State.tabledRing (s : State) (n d f : Nat) : State :=
  (((s.wrQ s.here (d + 8) 0).wrQ s.here (d + 16) 0).wrQ4 s.here (qbaseAddr s.mem.qbase + 64 + 4 * n) (d + 2 ^ 30 + 2 ^ 31)).updMem
    (fun m => { m with rings := mput m.rings n (d, f), deadRings := ndel m.deadRings n })

/-- The state in which RBIND has registered its ring, before what was kept for the ring sets out. -/
def State.boundRing (s : State) (n d f : Nat) : State :=
  let u := s.tabledRing n d f
  (u.register u.cx.group 3 0 (0, spadLoc u.cx.group u.cx.vcore d)).1

theorem State.register_keeps {α : Type} (p : State → α) (hest : ∀ (t : State) (e : Map Holding), p { t with estate := e } = p t)
    (s : State) (h kind heir : Nat) (o : Nat × Nat) : p (s.register h kind heir o).1 = p s := by
  unfold State.register
  split
  · rfl
  · exact hest s _

theorem State.updMember_keeps {α : Type} (p : State → α) (hgrp : ∀ (t : State) (g : Group), p (t.setGrp g) = p t)
    (s : State) (h v : Nat) (f : Member → Member) : p (s.updMember h v f) = p s := by
  unfold State.updMember
  split
  · exact hgrp s _
  · rfl

theorem State.sendUnplaced_keeps {α : Type} (p : State → α) (hgrp : ∀ (t : State) (g : Group), p (t.setGrp g) = p t)
    (hfly : ∀ (t : State) (fs : List Flight) (n : Nat), p { t with flights := fs, uid := n } = p t)
    (s : State) (h v n : Nat) : p (s.sendUnplaced h v n) = p s := by
  unfold State.sendUnplaced
  split
  · rfl
  · exact (hfly _ _ _).trans (hgrp s _)

theorem State.boundRing_leaves (s : State) (n d f : Nat) (hn : n < 16)
    (happart : d + 64 ≤ qbaseAddr s.mem.qbase ∨ qbaseAddr s.mem.qbase + 2176 ≤ d) :
    SamePoint s (s.boundRing n d f) ∧ (s.boundRing n d f).rdS s.here (d + 8) 4 = 0 ∧ (s.boundRing n d f).rdS s.here (d + 12) 4 = 0 ∧
      (s.boundRing n d f).ringWord s.here (qbaseAddr s.mem.qbase) n = (d + 2 ^ 30 + 2 ^ 31) % 2 ^ 32 := by
  unfold State.boundRing State.tabledRing
  dsimp only
  generalize ht : ((s.wrQ s.here (d + 8) 0).wrQ s.here (d + 16) 0).wrQ4 s.here (qbaseAddr s.mem.qbase + 64 + 4 * n)
    (d + 2 ^ 30 + 2 ^ 31) = t
  have hpoint : SamePoint s t := by
    rw [← ht]
    exact (((s.woken_wrS _ _ _ _).trans (State.woken_wrS _ _ _ _ _)).trans (State.woken_wrS _ _ _ _ _)).samePoint
  have hkeep {α : Type} (p : State → α) (hgrp : ∀ (t : State) (g : Group), p (t.setGrp g) = p t)
      (hest : ∀ (t : State) (e : Map Holding), p { t with estate := e } = p t) (f' : Member → Member) :
      p ((t.updMem f').register (t.updMem f').cx.group 3 0
        (0, spadLoc (t.updMem f').cx.group (t.updMem f').cx.vcore d)).1 = p t :=
    (State.register_keeps p hest _ _ _ _ _).trans (State.updMember_keeps p hgrp _ _ _ _)
  have hqueue : t.rdS s.here (d + 8) 8 = 0 := by
    rw [← ht, State.wrQ4, State.rdS_wrS_ne _ (by simp only [spadKey]; omega), State.wrQ,
      State.rdS_wrS_ne _ (by simp only [spadKey]; omega), State.wrQ, State.rdS_wrS_self, Nat.zero_mod]
  refine ⟨hpoint.trans (.of_ctxs (hkeep State.ctxs (fun _ _ => rfl) (fun _ _ => rfl) _)
    (hkeep State.cur (fun _ _ => rfl) (fun _ _ => rfl) _)), ?_, ?_, ?_⟩
  · rw [hkeep (fun t => t.rdS s.here (d + 8) 4) (fun _ _ => rfl) (fun _ _ => rfl)]
    exact (t.rdS_part s.here (d + 8) (n := 8) (i := 0) (k := 4) (by decide)).trans (by rw [hqueue, Nat.zero_div, Nat.zero_mod])
  · rw [hkeep (fun t => t.rdS s.here (d + 12) 4) (fun _ _ => rfl) (fun _ _ => rfl)]
    exact (t.rdS_part s.here (d + 8) (n := 8) (i := 4) (k := 4) (by decide)).trans (by rw [hqueue, Nat.zero_div, Nat.zero_mod])
  · rw [State.ringWord, hkeep (fun t => t.rdS s.here _ 4) (fun _ _ => rfl) (fun _ _ => rfl), ← ht, State.wrQ4]
    exact State.rdS_wrS_self _ _ _ _ _

theorem ringNo_lt (imm : BitVec 6) : ringNo imm < 16 := bitsOf_lt imm.toNat 0 4

/-- The word of a bound ring in the ring table. -/
theorem boundWord_fields {d : Nat} (h : d < 2 ^ 17) :
    bitsOf ((d + 2 ^ 30 + 2 ^ 31) % 2 ^ 32) 30 2 = 3 ∧ bitsOf ((d + 2 ^ 30 + 2 ^ 31) % 2 ^ 32) 0 17 = d := by
  simp only [bitsOf]
  omega

/-- The state in which RBIND has bound its ring and what was kept for it has set out, before the instruction goes on. -/
def State.ringBound (s : State) (n d f : Nat) : State :=
  let cx := (s.tabledRing n d f).cx
  ((s.boundRing n d f).sendUnplaced cx.group cx.vcore n).namedRing cx.group cx.vcore d

theorem touches_disjoint {a n x k : Nat} {r : List (Nat × Nat)} (hn : 0 < n) (hk : 0 < k)
    (h : touches [(a, n)] ((x, k) :: r) = false) : x + k ≤ a ∨ a + n ≤ x := by
  simp only [touches, overlap, List.any_cons, List.any_nil, Bool.or_false, Bool.or_eq_false_iff] at h
  obtain ⟨h, -⟩ := h
  simp at h
  omega

theorem rbind_ok {a b c : BitVec 4} {imm : BitVec 6} {d f : Nat} (hs : s.calm = true) (hd : d = (s.w b).toNat)
    (hf : f = s.rdS s.here d 8) (hen : qbaseEn s.mem.qbase = true) (hfree : s.bound s.mem (ringNo imm) = false)
    (hal : d % 64 = 0) (hfit : d + 64 ≤ 0x20000) (h48 : bitsOf f 48 16 = 0) (h28 : bitsOf f 28 4 = 0) (h17 : bitsOf f 17 3 = 0)
    (hlo : 1 ≤ ringLogn f) (hhi : ringLogn f ≤ 8) (hslots : ringSlots f % 256 = 0)
    (hroom : ringSlots f + 256 * 2 ^ ringLogn f ≤ 0x20000)
    (happart : touches [(qbaseAddr s.mem.qbase, 2176)] [(d, 64), (ringSlots f, 256 * 2 ^ ringLogn f)] = false) :
    exec (.rbind a b c imm) s = .next (s.ringBound (ringNo imm) d f).advance := by
  rw [exec_rbind, execRbind, reading_calm s hs]
  dsimp only
  rw [← hd, if_neg (by
      rintro (h | h)
      · exact h hen
      · rw [hfree] at h
        cases h), if_neg (not_not_intro hal), if_neg (by omega), State.localHeld_calm hs, if_neg (by decide),
    s.badS_sound (s.calm_sound hs), ← hf]
  dsimp only
  rw [if_neg (by
      rw [h48, h28, h17, hslots, happart]
      rintro (h | h | h | h | h | h | h | h)
      · exact h rfl
      · exact h rfl
      · exact h rfl
      · omega
      · omega
      · exact h rfl
      · omega
      · cases h), watched_unwatched s (s.calm_unwatched hs), s.softRead_sound (s.calm_sound hs)]
  rfl

theorem State.ringBound_leaves (s : State) (n d f : Nat) (hn : n < 16)
    (happart : d + 64 ≤ qbaseAddr s.mem.qbase ∨ qbaseAddr s.mem.qbase + 2176 ≤ d) :
    SamePoint s (s.ringBound n d f) ∧ (s.ringBound n d f).ringHead s.here d = 0 ∧ (s.ringBound n d f).ringTail s.here d = 0 ∧
      (s.ringBound n d f).ringWord s.here (qbaseAddr s.mem.qbase) n = (d + 2 ^ 30 + 2 ^ 31) % 2 ^ 32 := by
  obtain ⟨hpoint, hhead, htail, hword⟩ := s.boundRing_leaves n d f hn happart
  have hkeep (core off k : Nat) : (s.ringBound n d f).rdS core off k = (s.boundRing n d f).rdS core off k :=
    (State.namedRing_keeps (fun t => t.rdS core off k) (fun _ _ => rfl) _ _ _ _).trans
      (State.sendUnplaced_keeps (fun t => t.rdS core off k) (fun _ _ => rfl) (fun _ _ _ => rfl) _ _ _ _)
  have hsend (t : State) (h v : Nat) : SamePoint t (t.sendUnplaced h v n) :=
    .of_ctxs (State.sendUnplaced_keeps State.ctxs (fun _ _ => rfl) (fun _ _ _ => rfl) _ _ _ _)
      (State.sendUnplaced_keeps State.cur (fun _ _ => rfl) (fun _ _ _ => rfl) _ _ _ _)
  refine ⟨(hpoint.trans (hsend _ _ _)).trans (State.samePoint_namedRing _ _ _ _), ?_, ?_, ?_⟩
  · rw [State.ringHead, hkeep, hhead]
  · rw [State.ringTail, hkeep, htail]
  · rw [State.ringWord, hkeep, ← State.ringWord, hword]

/-- Settles O25: on a bound ring each instruction acts on its descriptor and its slots; RBIND binds a legal one. -/
theorem ringResult : Obligations.RingResult := by
  unfold Obligations.RingResult
  intro s a b c imm d f hs n area cnt
  refine ⟨fun h => ⟨?_, fun hcnt => ?_, fun hcnt => ?_, fun hdisp hpos hle hrelay => ?_, fun _ _ => rclose_ok hs h⟩,
    fun h => ⟨?_, ?_, ?_, ?_⟩, ?_⟩
  · rw [exec_rpoll, execRpoll, withRing_ok (n := ringNo imm) (s.calm_sound hs) h, ite_gates_calm hs]
    rfl
  · rw [exec_rwait, execRwait, withRing_ok (n := ringNo imm) (s.calm_sound hs) h, ite_gates_calm hs]
    exact if_pos hcnt
  · rw [exec_rwait, execRwait, withRing_ok (n := ringNo imm) (s.calm_sound hs) h, ite_gates_calm hs]
    exact if_neg hcnt
  · obtain ⟨hpoint, hhead⟩ := s.advancedHead_leaves d f (s.w a).toNat
    have hrep := hpoint.rep.trans (s.calm_rep hs)
    refine ⟨_, radv_ok hs h hdisp hpos hle hrelay, ?_, ?_⟩
    · rw [State.ringHead, State.advance_keeps (fun t => t.rdS s.here (d + 8) 4) (fun _ _ => rfl) hrep, ← State.ringHead, hhead]
    · rw [State.advance_pc _ hrep, hpoint.line, hpoint.pc]
  · rw [exec_rpoll, execRpoll, withRing_unbound (n := ringNo imm) h]
    rfl
  · rw [exec_rwait, execRwait, withRing_unbound (n := ringNo imm) h]
    rfl
  · rw [exec_radv, execRadv, reading_calm s hs, withRing_unbound (n := ringNo imm) h]
    rfl
  · rw [exec_rclose, execRclose]
    dsimp only
    rw [withRing_unbound (n := ringNo imm) h]
    rfl
  · intro e g hen hfree hal hfit _ h48 h28 h17 hlo hhi hslots hroom happart
    obtain ⟨hpoint, hhead, htail, hword⟩ := s.ringBound_leaves n e g (ringNo_lt imm)
      (touches_disjoint (by decide) (by decide) happart)
    have hrep := hpoint.rep.trans (s.calm_rep hs)
    have hkeep (core off k : Nat) : (s.ringBound n e g).advance.rdS core off k = (s.ringBound n e g).rdS core off k :=
      State.advance_keeps (fun t => t.rdS core off k) (fun _ _ => rfl) hrep
    obtain ⟨h30, h0⟩ := boundWord_fields (d := e) (by omega)
    refine ⟨(s.ringBound n e g).advance, rbind_ok hs rfl rfl hen hfree hal hfit h48 h28 h17 hlo hhi hslots hroom happart, ?_, ?_, ?_, ?_, ?_⟩
    · rw [State.ringWord, hkeep, ← State.ringWord]
      exact (congrArg (fun w => bitsOf w 30 2) hword).trans h30
    · rw [State.ringWord, hkeep, ← State.ringWord]
      exact (congrArg (fun w => bitsOf w 0 17) hword).trans h0
    · rw [State.ringHead, hkeep, ← State.ringHead, hhead]
    · rw [State.ringTail, hkeep, ← State.ringTail, htail]
    · rw [State.advance_pc _ hrep, hpoint.line, hpoint.pc]

/-! ## Queue control -/

theorem withArea_ok (h : qbaseEn s.mem.qbase = true) (i : Instr) (k : Nat → Out) : withArea i s k = k (qbaseAddr s.mem.qbase) :=
  if_pos h

theorem withArea_none (h : qbaseEn s.mem.qbase = false) (i : Instr) (k : Nat → Out) : withArea i s k = operandTrap s i :=
  if_neg (by rw [h]; decide)

/-- The state whose freeze record is cleared, before the instruction goes on. -/
def State.thawed (s : State) (area : Nat) : State :=
  (((s.wrQ s.here (area + 32) 0).wrQ s.here (area + 40) 0).wrQ s.here (area + 48) 0).wrQ s.here (area + 56) 0

theorem State.thawed_leaves (s : State) (area : Nat) : SamePoint s (s.thawed area) ∧ (s.thawed area).rdS s.here (area + 32) 32 = 0 := by
  refine ⟨((((s.woken_wrS _ _ _ _).trans (State.woken_wrS _ _ _ _ _)).trans (State.woken_wrS _ _ _ _ _)).trans
    (State.woken_wrS _ _ _ _ _)).samePoint, ?_⟩
  have h0 : (s.thawed area).rdS s.here (area + 32) 8 = 0 := by
    rw [State.thawed, State.wrQ, State.rdS_wrS_ne _ (by simp only [spadKey]; omega), State.wrQ,
      State.rdS_wrS_ne _ (by simp only [spadKey]; omega), State.wrQ, State.rdS_wrS_ne _ (by simp only [spadKey]; omega), State.wrQ,
      State.rdS_wrS_self, Nat.zero_mod]
  have h1 : (s.thawed area).rdS s.here (area + 40) 8 = 0 := by
    rw [State.thawed, State.wrQ, State.rdS_wrS_ne _ (by simp only [spadKey]; omega), State.wrQ,
      State.rdS_wrS_ne _ (by simp only [spadKey]; omega), State.wrQ, State.rdS_wrS_self, Nat.zero_mod]
  have h2 : (s.thawed area).rdS s.here (area + 48) 8 = 0 := by
    rw [State.thawed, State.wrQ, State.rdS_wrS_ne _ (by simp only [spadKey]; omega), State.wrQ, State.rdS_wrS_self, Nat.zero_mod]
  have h3 : (s.thawed area).rdS s.here (area + 56) 8 = 0 := by
    rw [State.thawed, State.wrQ, State.rdS_wrS_self, Nat.zero_mod]
  rw [State.rdS] at h0 h1 h2 h3 ⊢
  have hkey (i : Nat) : spadKey s.here (area + 32 + i) = spadKey s.here (area + 32) + i := (Nat.add_assoc _ _ _).symm
  rw [hkey 8] at h1
  rw [hkey 16] at h2
  rw [hkey 24] at h3
  rw [readN_add _ 8 24, readN_add _ 8 16, readN_add _ 8 8, h0, h1, Nat.add_assoc (spadKey s.here (area + 32)) 8 8, h2, Nat.add_assoc, h3, Nat.mul_zero, Nat.add_zero, Nat.mul_zero, Nat.add_zero, Nat.mul_zero]

/-- What QFREEZE leaves of the freeze record. -/
theorem State.freeze_leaves {h v cause entry tval tpc vcore : Nat} (hs : s.sound = true)
    (hen : qbaseEn (s.member h v).qbase = true)
    (hfrz : bitAt (s.rdS (s.member h v).pcore (qbaseAddr (s.member h v).qbase + 32) 8) 0 = false) :
    (s.freeze h v cause entry tval tpc vcore).rdS (s.member h v).pcore (qbaseAddr (s.member h v).qbase + 32) 8 =
        (1 + cause % 256 * 256 + vcore % 8192 * 65536) % 256 ^ 8 ∧
      (s.freeze h v cause entry tval tpc vcore).rdS (s.member h v).pcore (qbaseAddr (s.member h v).qbase + 40) 8 =
        entry % 256 ^ 8 := by
  unfold State.freeze
  dsimp only
  rw [if_neg (not_not_intro hen), State.niRead_sound hs, if_neg (by rw [hfrz]; decide)]
  refine ⟨?_, ?_⟩
  · rw [State.wrQ, State.rdS_wrS_ne _ (by simp only [spadKey]; omega), State.wrQ,
      State.rdS_wrS_ne _ (by simp only [spadKey]; omega), State.wrQ, State.rdS_wrS_ne _ (by simp only [spadKey]; omega), State.wrQ,
      State.rdS_wrS_self]
  · rw [State.wrQ, State.rdS_wrS_ne _ (by simp only [spadKey]; omega), State.wrQ,
      State.rdS_wrS_ne _ (by simp only [spadKey]; omega), State.wrQ, State.rdS_wrS_self]

theorem State.softWfm_sound (hs : s.sound = true) (m : Nat) : s.softWfm m = 0 := by
  unfold State.softWfm
  rw [s.softS_sound hs, ite_self, Nat.add_zero, List.sum_eq_zero]
  intro x hx
  obtain ⟨n, -, rfl⟩ := List.mem_map.1 hx
  split
  · exact State.softRing_sound hs _ _
  · rfl

/-- The record that QFREEZE writes names its cause and marks the deque frozen. -/
theorem freezeWord_fields (vcore : Nat) :
    bitAt ((1 + 0xFF % 256 * 256 + vcore % 8192 * 65536) % 256 ^ 8) 0 = true ∧
      bitsOf ((1 + 0xFF % 256 * 256 + vcore % 8192 * 65536) % 256 ^ 8) 8 8 = 0xFF := by
  have hlt : vcore % 8192 < 8192 := Nat.mod_lt _ (by decide)
  simp only [bitAt, bitsOf]
  constructor
  · simp
    omega
  · omega

/-- Settles O27: the freeze record is read, cleared and written at the member's queue area; WFM tells the conditions that hold. -/
theorem queueControl : Obligations.QueueControl := by
  unfold Obligations.QueueControl
  intro s a b c imm hs area
  refine ⟨fun hen _ => ⟨?_, ?_, fun hfrz hcore => ?_⟩, fun hen => ⟨?_, ?_, ?_⟩, fun hne => ?_, fun hz => ?_⟩
  · rw [exec_qrec, execQrec, withArea_ok hen, ite_gates_calm hs]
    dsimp only
    rw [State.niRead_sound (s.calm_sound hs)]
    rfl
  · obtain ⟨hpoint, hrd⟩ := s.thawed_leaves area
    have hrep := hpoint.rep.trans (s.calm_rep hs)
    refine ⟨(s.thawed area).advance, ?_, ?_, ?_⟩
    · rw [exec_qthaw, execQthaw, withArea_ok hen]
      rfl
    · rw [State.advance_keeps (fun t => t.rdS s.here (area + 32) 32) (fun _ _ => rfl) hrep, hrd]
    · rw [State.advance_pc _ hrep, hpoint.line, hpoint.pc]
  · obtain ⟨hrec, hentry⟩ := State.freeze_leaves (h := s.cx.group) (v := s.cx.vcore) (cause := 0xFF) (entry := (s.w a).toNat)
      (tval := 0) (tpc := s.cx.pc.toNat) (vcore := s.cx.vcore) (s.calm_sound hs) hen (by
        have hmem : s.member s.cx.group s.cx.vcore = s.mem := rfl
        rw [hmem, hcore]
        exact hfrz)
    have hpoint := (s.woken_freeze s.cx.group s.cx.vcore 0xFF (s.w a).toNat 0 s.cx.pc.toNat s.cx.vcore).samePoint
    have hrep := hpoint.rep.trans (s.calm_rep hs)
    have hcore' : (s.member s.cx.group s.cx.vcore).pcore = s.here := hcore
    have harea : qbaseAddr (s.member s.cx.group s.cx.vcore).qbase = area := rfl
    have hexec : exec (.qfreeze a b c imm) s =
        .next (s.freeze s.cx.group s.cx.vcore 0xFF (s.w a).toNat 0 s.cx.pc.toNat s.cx.vcore).advance := by
      rw [exec_qfreeze, execQfreeze, reading_calm s hs, withArea_ok hen]
      rfl
    rw [hcore', harea] at hrec hentry
    generalize s.freeze s.cx.group s.cx.vcore 0xFF (s.w a).toNat 0 s.cx.pc.toNat s.cx.vcore = t at *
    have hkeep (off k : Nat) : t.advance.rdS s.here off k = t.rdS s.here off k :=
      State.advance_keeps (fun t => t.rdS s.here off k) (fun _ _ => rfl) hrep
    obtain ⟨hbit, hcause⟩ := freezeWord_fields s.cx.vcore
    refine ⟨t.advance, hexec, ?_, ?_, ?_, ?_⟩
    · rw [hkeep, hrec, hbit]
    · rw [hkeep, hrec, hcause]
    · rw [hkeep, hentry]
      exact Nat.mod_eq_of_lt (s.w a).isLt
    · rw [State.advance_pc _ hrep, hpoint.line, hpoint.pc]
  · rw [exec_qrec, execQrec, withArea_none hen]
    rfl
  · rw [exec_qthaw, execQthaw, withArea_none hen]
    rfl
  · rw [exec_qfreeze, execQfreeze, reading_calm s hs, withArea_none hen]
    rfl
  · rw [exec_wfm, execWfm, reading_calm s hs]
    dsimp only
    rw [if_neg hne, State.softWfm_sound (s.calm_sound hs), counting_zero]
    rfl
  · rw [exec_wfm, execWfm, reading_calm s hs]
    exact if_pos hz

end Sys2Proof.Machine

/-! PROOFS. Messages (16 R297 to R300): the arrival of a message by its fate, and what a deposit leaves of its ring. -/

namespace Sys2Proof.Machine

theorem exec_messageArrival (id : Nat) (s : State) : exec (.messageArrival id) s = execMessageArrival id s := by rfl

theorem exec_ringRefusalRetry (id : Nat) (s : State) : exec (.ringRefusalRetry id) s = execRingRefusalRetry id s := by rfl

theorem exec_bounceArrival (id : Nat) (s : State) : exec (.bounceArrival id) s = execBounceArrival id s := by rfl

variable {s : State}

/-! ## Arrivals -/

/-- The only item in flight stands behind none. -/
theorem State.behind_single {id : Nat} {x : Cargo} (hf : s.flights = [⟨id, x⟩]) (m : Msg) : s.behind id m = false := by
  unfold State.behind
  rw [hf]
  split
  next f hp =>
    have hmem := (pick_some hp).2
    rw [List.mem_singleton] at hmem
    rw [hmem]
    simp
  · rfl

/-- What reaches its NI for this device arrives. -/
theorem State.atNi_here {m : Msg} (hdev : m.ddev = 0) (id : Nat) : s.atNi id m = s.arrive id m := if_neg (not_not_intro hdev)

theorem messageArrival_single {id : Nat} {m : Msg} (hf : s.flights = [⟨id, .msg m false⟩]) (hhop : s.hopping id = false) :
    exec (.messageArrival id) s = .next (s.atNi id m) := by
  rw [exec_messageArrival, execMessageArrival, State.flight_single hf hhop]
  dsimp only
  rw [State.behind_single hf, if_neg (by decide)]

theorem ringRefusalRetry_single {id : Nat} {m : Msg} (hf : s.flights = [⟨id, .msg m true⟩]) (hhop : s.hopping id = false) :
    exec (.ringRefusalRetry id) s = .next (s.atNi id m) := by
  rw [exec_ringRefusalRetry, execRingRefusalRetry, State.flight_single hf hhop]
  dsimp only
  rw [State.behind_single hf, if_neg (by decide)]

theorem bounceArrival_single {id : Nat} {m : Msg} (hf : s.flights = [⟨id, .bounce m false⟩]) (hhop : s.hopping id = false) :
    exec (.bounceArrival id) s = .next (s.atNi id m) := by
  rw [exec_bounceArrival, execBounceArrival, State.flight_single hf hhop]

/-- An arrival that its fate deposits. -/
theorem State.arrive_deposit {m : Msg} {d f : Nat} (h : s.fate m = .deposit d f) (id : Nat) :
    s.arrive id m = ((s.land id).deposit m.dgrp m.dvc d f m).copyArrived m := by
  unfold State.arrive
  rw [h]

/-- Putting another cargo in the place of the only item in flight. -/
theorem State.refly_single {id : Nat} {x : Cargo} (hf : s.flights = [⟨id, x⟩]) (y : Cargo) : (s.refly id y).flights = [⟨id, y⟩] := by
  rw [State.refly, hf]
  simp

theorem State.countRefusal_flights (s : State) (m : Msg) : (s.countRefusal m).flights = s.flights := by
  unfold State.countRefusal
  dsimp only
  split
  · refine ite_keeps ?_ rfl
    rw [State.bumpQ, State.wrQ4, State.wrS_flights, aside_flights.niRead, aside_flights.niRead, aside_flights.niRead]
  · rfl

theorem State.countBounce_flights (s : State) (m : Msg) : (s.countBounce m).flights = s.flights := by
  unfold State.countBounce
  dsimp only
  split
  · refine ite_keeps ?_ rfl
    rw [State.bumpQ, State.wrQ4, State.wrS_flights, aside_flights.niRead]
  · rfl

/-- An arrival at a full ring is kept, refused. -/
theorem State.arrive_refuse {id : Nat} {m : Msg} {x : Cargo} (hf : s.flights = [⟨id, x⟩]) (h : s.fate m = .refuse) :
    (s.arrive id m).flights = [⟨id, m.cargo true⟩] := by
  unfold State.arrive
  rw [h]
  exact State.refly_single ((s.countRefusal_flights m).trans hf) _

/-- An arrival that is turned away sets out to its sender. -/
theorem State.arrive_bounce {id k : Nat} {m : Msg} {x : Cargo} (hf : s.flights = [⟨id, x⟩]) (h : s.fate m = .bounce k)
    (hmsg : m.isBounce = false) : (s.arrive id m).flights = [⟨id, .bounce (s.back m k) false⟩] := by
  unfold State.arrive
  rw [h]
  dsimp only
  rw [hmsg, if_neg (by decide), State.bounceBack, State.sendTo_keeps State.flights (fun _ _ => rfl)]
  exact State.refly_single ((s.countBounce_flights m).trans hf) _

/-- A message for another device waits while a flit of it has not gone out. -/
theorem messageArrival_unsent {id : Nat} {m : Msg} (hf : s.flights = [⟨id, .msg m false⟩]) (hdev : m.ddev ≠ 0)
    (hunsent : s.unsent id = true) : exec (.messageArrival id) s = .next s := by
  by_cases hhop : s.hopping id = true
  · rw [exec_messageArrival, execMessageArrival, State.flight, if_pos hhop]
  · rw [messageArrival_single hf (by simpa using hhop), State.atNi, if_pos hdev, State.arriveAway, if_pos hunsent]

/-! ## Engine writes of a list of bytes -/

theorem writeBytes_append (xs ys : List Byte) : ∀ (m : List Host.Cell) (a : Nat),
    writeBytes m a (xs ++ ys) = writeBytes (writeBytes m a xs) (a + xs.length) ys := by
  induction xs with
  | nil => intros; rfl
  | cons x xs ih =>
    intro m a
    rw [List.cons_append, writeBytes, writeBytes, ih, List.length_cons, Nat.add_right_comm, Nat.add_assoc]

/-- A part of a list of bytes is where it was written. -/
theorem readBytes_writeBytes_part (m : List Host.Cell) (a : Nat) (xs ys zs : List Byte) :
    readBytes (writeBytes m a (xs ++ ys ++ zs)) (a + xs.length) ys.length = ys := by
  rw [writeBytes_append, writeBytes_append, List.length_append]
  refine (readBytes_congr ys.length _ (writeBytes (writeBytes m a xs) (a + xs.length) ys) _ fun i hi => ?_).trans
    (readBytes_writeBytes_self ys _ _)
  exact byteAt_writeBytes_ne zs _ _ _ (by omega)

/-- The tags and the bereaved list that an engine's write of bytes leaves stand beside the bytes. -/
theorem State.engineBytes_spad (s : State) (core off : Nat) (bs : List Byte) :
    (s.engineBytes core off bs).spad = (s.wrBytesS core off bs).spad := by
  unfold State.engineBytes
  exact ite_keeps rfl (foldl_keeps (p := State.spad)
    (f := fun (t : State) i => (t.setTag core ((off / 8 + i) * 8) true).endBereaved core ((off / 8 + i) * 8)) (fun _ _ => rfl) _ _)

theorem State.full_setTag_mono {core off : Nat} (h : s.full core off = true) (c o : Nat) : (s.setTag c o true).full core off = true := by
  rw [State.full] at h ⊢
  simp [State.setTag, nmem_nins, h]

/-- An engine's write of bytes sets the tags of all the words it touches. -/
theorem State.full_engineBytes (s : State) (core off : Nat) {bs : List Byte} (hbs : bs ≠ []) :
    (s.engineBytes core off bs).full core (off / 8 * 8) = true := by
  have hstay (l : List Nat) (t : State) (h : t.full core (off / 8 * 8) = true) :
      (l.foldl (fun t i => (t.setTag core ((off / 8 + i) * 8) true).endBereaved core ((off / 8 + i) * 8)) t).full core (off / 8 * 8) = true := by
    induction l generalizing t with
    | nil => exact h
    | cons i l ih => exact ih _ (State.full_setTag_mono h core _)
  unfold State.engineBytes
  dsimp only
  rw [if_neg (by simpa using hbs), upTo, List.range_succ_eq_map, List.foldl_cons]
  exact hstay _ _ (by rw [State.full_endBereaved]; exact State.full_setTag _ core _ true)

/-! ## The deposit -/

/-- A message's bytes: its header, its payload and the bytes that round it up. -/
theorem Msg.bytes_eq (m : Msg) (tag : Nat) :
    ∃ hd pad : List Byte, m.bytes tag = hd ++ m.payload ++ pad ∧ hd.length = 32 ∧ pad.length = (8 - m.payload.length % 8) % 8 := by
  refine ⟨leBytes 8 m.h0 ++ leBytes 8 m.h1 ++ leBytes 8 m.h2 ++ leBytes 8 m.h3, _, rfl, ?_, ?_⟩
  · simp only [List.length_append, length_leBytes]
  · rw [List.length_map, upTo, List.length_range]

theorem Aside.noteDeposit {α : Type} {p : State → α} (hp : Aside p) (s : State) (core slot sender sts : Nat) :
    p (s.noteDeposit core slot sender sts) = p s := by
  have hopen : p (s.openAccount core sender) = p s := ite_keeps rfl (hp.setCore s _ _)
  exact (hp.setCore _ _ _).trans hopen

/-- The state in which a message stands in its slot and TAIL has moved. -/
def State.slotted (s : State) (core slot d tag : Nat) (m : Msg) : State :=
  { s.engineBytes core slot (m.bytes tag) with uid := (s.engineBytes core slot (m.bytes tag)).uid + 1 }.bumpQ core (d + 12)

theorem State.slotted_leaves (s : State) {core slot d tag : Nat} {m : Msg} (hlen : m.payload.length ≤ 224) (hslot : slot % 256 = 0)
    (hapart : d + 64 ≤ slot ∨ slot + 256 ≤ d) :
    (s.slotted core slot d tag m).ringTail core d = (s.ringTail core d + 1) % 2 ^ 32 ∧
      readBytes (s.slotted core slot d tag m).spad (spadKey core (slot + 32)) m.payload.length = m.payload ∧
      (s.slotted core slot d tag m).full core slot = true := by
  obtain ⟨hd, pad, hbytes, hhd, hpad⟩ := m.bytes_eq tag
  have htotal : (m.bytes tag).length ≤ 256 := by
    rw [hbytes, List.length_append, List.length_append, hhd, hpad]
    omega
  have hne : m.bytes tag ≠ [] := by
    intro h
    have := congrArg List.length (hbytes.symm.trans h)
    rw [List.length_append, List.length_append, hhd, List.length_nil] at this
    omega
  have hspad : (s.engineBytes core slot (m.bytes tag)).spad = writeBytes s.spad (spadKey core slot) (m.bytes tag) := by
    rw [State.engineBytes_spad, State.wrBytesS, if_neg (by simpa using hne)]
  have htail : (s.engineBytes core slot (m.bytes tag)).rdS core (d + 12) 4 = s.rdS core (d + 12) 4 := by
    rw [State.rdS, State.rdS, hspad]
    exact readN_congr 4 _ _ _ fun i hi => byteAt_writeBytes_ne _ _ _ _ (by simp only [spadKey]; omega)
  refine ⟨?_, ?_, ?_⟩
  · rw [State.slotted, State.bumpQ, State.wrQ4, State.ringTail, State.rdS_wrS_self]
    exact congrArg (fun n => (n + 1) % 256 ^ 4) htail
  · have hkey : spadKey core (slot + 32) = spadKey core slot + hd.length := by rw [hhd]; exact (Nat.add_assoc _ _ _).symm
    have hwrite : (s.slotted core slot d tag m).spad =
        writeN (s.engineBytes core slot (m.bytes tag)).spad (spadKey core (d + 12)) 4
          ((s.engineBytes core slot (m.bytes tag)).rdS core (d + 12) 4 + 1) := rfl
    rw [hwrite, hspad]
    refine (readBytes_congr _ _ (writeBytes s.spad (spadKey core slot) (m.bytes tag)) _ fun i hi => ?_).trans ?_
    · exact byteAt_writeN_ne 4 _ _ _ _ (by simp only [spadKey]; omega)
    · rw [hkey, hbytes]
      exact readBytes_writeBytes_part _ _ _ _ _
  · have hfull := s.full_engineBytes core slot hne
    rw [Nat.div_mul_cancel (by omega)] at hfull
    exact hfull

theorem State.deposit_leaves {h v d f : Nat} {m : Msg} (hdisp : ringDisp f = false) (hlen : m.payload.length ≤ 224)
    (hslot : slotAddr f (s.ringTail (s.member h v).pcore d) % 256 = 0)
    (hapart : d + 64 ≤ slotAddr f (s.ringTail (s.member h v).pcore d) ∨ slotAddr f (s.ringTail (s.member h v).pcore d) + 256 ≤ d) :
    (s.deposit h v d f m).ringTail (s.member h v).pcore d = (s.ringTail (s.member h v).pcore d + 1) % 2 ^ 32 ∧
      readBytes (s.deposit h v d f m).spad
        (spadKey (s.member h v).pcore (slotAddr f (s.ringTail (s.member h v).pcore d) + 32)) m.payload.length = m.payload ∧
      (s.deposit h v d f m).full (s.member h v).pcore (slotAddr f (s.ringTail (s.member h v).pcore d)) = true := by
  generalize hcore : (s.member h v).pcore = core at *
  generalize hn : (s.niRead core (qbaseAddr (s.member h v).qbase + 64 + 4 * m.ring) 4).niRead core (d + 8) 8 = n
  have hread {α : Type} (p : State → α) (hp : Aside p) : p n = p s := by
    rw [← hn, hp.niRead, hp.niRead]
  have htail : n.ringTail core d = s.ringTail core d := hread (fun t => t.rdS core (d + 12) 4) (aside_rdS _ _ _)
  have hdep {α : Type} (p : State → α) (hp : Aside p) : p (s.deposit h v d f m) =
      p (n.slotted core (slotAddr f (s.ringTail core d)) d n.uid m) := by
    unfold State.deposit
    dsimp only
    rw [hdisp, if_neg (by decide), hp.logRx, hp.noteDeposit, hcore, hn, htail]
    rfl
  obtain ⟨h1, h2, h3⟩ := n.slotted_leaves (core := core) (d := d) (tag := n.uid) hlen hslot hapart
  rw [htail] at h1
  refine ⟨?_, ?_, ?_⟩
  · exact (hdep (fun t => t.rdS core (d + 12) 4) (aside_rdS _ _ _)).trans h1
  · rw [hdep State.spad aside_spad]
    exact h2
  · exact (hdep (fun t => t.full core _) (aside_full _ _)).trans h3

/-- Settles O26: the fate of what arrives decides what becomes of its item; a deposit writes the slot and moves TAIL. -/
theorem messageSteps : Obligations.MessageSteps := by
  unfold Obligations.MessageSteps
  refine ⟨fun s id d f m hfate hdev hhop => ⟨fun hf => ?_, fun hf => ?_, fun hf => ?_⟩,
    fun s id m hf => ⟨fun hdev hunsent => messageArrival_unsent hf hdev hunsent,
      fun hdev hhop => ⟨fun hfate => ?_, fun k hfate hmsg => ?_, fun h hfate => ?_⟩⟩,
    fun s h v d f m hdisp hlen _ _ _ hslot hapart => State.deposit_leaves hdisp hlen hslot hapart⟩
  · rw [messageArrival_single hf hhop, State.atNi_here hdev, State.arrive_deposit hfate]
  · rw [ringRefusalRetry_single hf hhop, State.atNi_here hdev, State.arrive_deposit hfate]
  · rw [bounceArrival_single hf hhop, State.atNi_here hdev, State.arrive_deposit hfate]
  · exact ⟨_, messageArrival_single hf hhop, by rw [State.atNi_here hdev]; exact State.arrive_refuse hf hfate⟩
  · exact ⟨_, messageArrival_single hf hhop, by rw [State.atNi_here hdev]; exact State.arrive_bounce hf hfate hmsg⟩
  · rw [messageArrival_single hf hhop, State.atNi_here hdev, State.arrive, hfate]

end Sys2Proof.Machine

/-! PROOFS. Barriers (19): the arrivals and waits of both kinds, and the steps of their messages. -/

namespace Sys2Proof.Machine

section

variable (a b c : BitVec 4) (imm : BitVec 6) (s : State)

theorem exec_barSync : exec (.barSync a b c imm) s = execBarSync a b c imm s := by rfl
theorem exec_barArrive : exec (.barArrive a b c imm) s = execBarArrive a b c imm s := by rfl
theorem exec_barWait : exec (.barWait a b c imm) s = execBarWait a b c imm s := by rfl
theorem exec_dbarSync : exec (.dbarSync a b c imm) s = execDbarSync a b c imm s := by rfl
theorem exec_dbarArrive : exec (.dbarArrive a b c imm) s = execDbarArrive a b c imm s := by rfl
theorem exec_dbarWait : exec (.dbarWait a b c imm) s = execDbarWait a b c imm s := by rfl
theorem exec_barrierArrivalHop (id : Nat) : exec (.barrierArrivalHop id) s = execBarrierArrivalHop id s := by rfl
theorem exec_barrierReleaseHop (id : Nat) : exec (.barrierReleaseHop id) s = execBarrierReleaseHop id s := by rfl
theorem exec_dbarTokenArrival (id : Nat) : exec (.dbarTokenArrival id) s = execDbarTokenArrival id s := by rfl

end

variable {s : State}

/-! ## A member that is changed -/

theorem getD_modAt {α : Type} (f : α → α) (l : List α) (v w : Nat) (d : α) :
    (modAt f l v).getD w d = f (l.getD w d) ∨ (modAt f l v).getD w d = l.getD w d := by
  induction l generalizing v w with
  | nil => exact .inr rfl
  | cons x r ih =>
    cases v with
    | zero =>
      cases w with
      | zero => exact .inl rfl
      | succ w => exact .inr rfl
    | succ v =>
      cases w with
      | zero => exact .inr rfl
      | succ w => exact ih v w

/-- A group that is written in the place of itself changes no other. -/
theorem State.grp_setGrp_ne {g g' : Group} (hg : s.grp g.handle = some g) (hh : g'.handle = g.handle) {h : Nat} (hne : h ≠ g.handle) :
    (s.setGrp g').grp h = s.grp h := by
  unfold State.grp State.setGrp
  dsimp only
  rw [hh]
  by_cases hslot : g.handle % 4096 = h % 4096
  · have hold : mget s.groups (h % 4096) = some g := by
      unfold State.grp at hg
      rw [hslot] at hg
      split at hg
      next x hx =>
        split at hg
        · rw [hx, ← hg]
        · cases hg
      next => cases hg
    rw [hslot, mget_mput_self, hold]
    dsimp only
    rw [if_neg (fun e => hne (by rw [← e, hh])), if_neg (fun e => hne e.symm)]
  · rw [mget_mput_ne _ _ hslot]

/-- A member after a change of one of them: changed itself, or as it was. -/
theorem State.member_updMember (s : State) (h v : Nat) (f : Member → Member) (h' v' : Nat) :
    (s.updMember h v f).member h' v' = f (s.member h' v') ∨ (s.updMember h v f).member h' v' = s.member h' v' := by
  unfold State.updMember
  split
  next g hg =>
    have hhandle : g.handle = h := s.grp_handle hg
    by_cases hsame : h' = g.handle
    · have hset : (s.setGrp { g with members := modAt f g.members v }).grp h' = some { g with members := modAt f g.members v } := by
        rw [hsame]
        exact s.grp_setGrp_self { g with members := modAt f g.members v }
      rw [State.member, State.member, hset, hsame, hhandle, hg]
      exact getD_modAt f g.members v v' Member.blank
    · right
      rw [State.member, State.member, State.grp_setGrp_ne (g := g) (g' := { g with members := modAt f g.members v })
        (by rw [hhandle]; exact hg) rfl hsame]
  next => exact .inr rfl

/-- A part of every member that a change of one keeps. -/
theorem State.member_updMember_keeps {α : Type} (q : Member → α) {f : Member → Member} (hq : ∀ m, q (f m) = q m) (s : State)
    (h v h' v' : Nat) : q ((s.updMember h v f).member h' v') = q (s.member h' v') := by
  obtain e | e := s.member_updMember h v f h' v'
  · rw [e, hq]
  · rw [e]

/-- Progress restarts a watchdog and moves no member. -/
theorem State.member_progress (s : State) (x h v : Nat) : (s.progress x).member h v = s.member h v := by
  unfold State.progress
  split
  next g hg =>
    have hhandle : g.handle = x := s.grp_handle hg
    by_cases hsame : h = g.handle
    · have hset : (s.setGrp { g with wdCount := 0 }).grp h = some { g with wdCount := 0 } := by
        rw [hsame]
        exact s.grp_setGrp_self { g with wdCount := 0 }
      rw [State.member, State.member, hset, hsame, hhandle, hg]
    · rw [State.member, State.member, State.grp_setGrp_ne (g := g) (g' := { g with wdCount := 0 })
        (by rw [hhandle]; exact hg) rfl hsame]
  next => rfl

/-! ## Rectangle barriers -/

theorem remoteOr_none (h : s.cx.failures = []) (tpc : Word) (k : Out) : remoteOr tpc s k = k := by
  unfold remoteOr
  rw [h]

theorem arriving_calm (hs : s.calm = true) (sys : Bool) (k : State → Out) : arriving sys s k = k s := by
  obtain ⟨-, -, -, -, -, -, -, -, hfail, -⟩ := s.calm_parts hs
  unfold arriving
  rw [if_neg (by rw [s.calm_classS hs]; decide), remoteOr_none hfail, if_neg (by rw [s.calm_drained hs]; decide)]

theorem withBar_ok {n : Nat} {g : Group} (hg : s.grp s.cx.group = some g) (hen : bEn (mgetD s.mem.bars n 0) = true)
    (hhas : bHas (mgetD s.mem.bars n 0) (posOf g s.cx.vcore) = true) (i : Instr) (k : Out) : withBar i n s k = k := by
  unfold withBar
  dsimp only
  rw [hg]
  exact if_pos ⟨hen, hhas⟩

/-- EPOCH of a barrier register of a member. -/
def State.epochAt (s : State) (h v b : Nat) : Nat := bEpoch (mgetD (s.member h v).bars b 0)

theorem State.epochAt_setBarFld (s : State) (h v b : Nat) {lo w x : Nat} (hlo : lo + w ≤ 48) (hw : lo + w ≤ 64) :
    (s.setBarFld h v b lo w x).epochAt h v b = s.epochAt h v b := by
  refine State.member_updMember_keeps (fun m => bEpoch (mgetD m.bars b 0)) (fun m => ?_) s h v h v
  have hlt : setBits (mgetD m.bars b 0).toNat lo w x < 2 ^ 64 := setBits_lt (BitVec.isLt _) hw
  rw [mgetD_mput_self, bEpoch, bEpoch, toNat_toWord, Nat.mod_eq_of_lt hlt, bitsOf_setBits_above hlo]

theorem State.tryPass_keeps {α : Type} (p : State → α) (hmem : ∀ (t : State) (h v : Nat) (f : Member → Member),
    (∀ m, (f m).bars = m.bars) → p (t.updMember h v f) = p t)
    (hfly : ∀ (t : State) (fs : List Flight) (hs : List Hop) (n : Nat), p { t with flights := fs, hops := hs, uid := n } = p t)
    (s : State) (h v b : Nat) : p (s.tryPass h v b) = p s := by
  unfold State.tryPass
  split
  · refine ite_keeps ?_ rfl
    unfold State.passOn
    refine ite_keeps ?_ (ite_keeps ?_ ?_)
    · exact (hfly _ _ _ _).trans (hmem s _ _ _ (fun _ => rfl))
    · exact (hfly _ _ _ _).trans (hmem s _ _ _ (fun _ => rfl))
    · exact (hfly _ _ _ _).trans (hmem s _ _ _ (fun _ => rfl))
  · rfl

/-- Passing a combined arrival on leaves every EPOCH as it is. -/
theorem State.epochAt_tryPass (s : State) (h v b h' v' b' : Nat) : (s.tryPass h v b).epochAt h' v' b' = s.epochAt h' v' b' :=
  State.tryPass_keeps (fun t => t.epochAt h' v' b')
    (fun t h v f hf => State.member_updMember_keeps (fun m => bEpoch (mgetD m.bars b' 0)) (fun m => by rw [hf]) t h v h' v')
    (fun _ _ _ _ => rfl) s h v b

/-- The state in which an arrival has joined the open episode. -/
def State.joined (s : State) (n : Nat) : State :=
  (s.arrived.setBarFld s.cx.group s.cx.vcore n 40 4 (bArr (mgetD s.mem.bars n 0) + 1)).tryPass s.cx.group s.cx.vcore n

theorem State.arrived_keeps {α : Type} {p : State → α} (hp : Aside p) (hgrp : ∀ (t : State) (g : Group), p (t.setGrp g) = p t)
    (s : State) : p s.arrived = p s := (State.progress_keeps p hgrp _ _).trans (hp.endFwd s _)

theorem State.joined_keeps {α : Type} {p : State → α} (hp : Aside p) (hgrp : ∀ (t : State) (g : Group), p (t.setGrp g) = p t)
    (hfly : ∀ (t : State) (fs : List Flight) (hs : List Hop) (n : Nat), p { t with flights := fs, hops := hs, uid := n } = p t)
    (s : State) (n : Nat) : p (s.joined n) = p s := by
  have hmem (t : State) (h v : Nat) (f : Member → Member) : p (t.updMember h v f) = p t := State.updMember_keeps p hgrp t h v f
  exact (State.tryPass_keeps p (fun t h v f _ => hmem t h v f) hfly _ _ _ _).trans
    ((hmem _ _ _ _).trans (State.arrived_keeps hp hgrp s))

theorem State.epochAt_arrived (s : State) (h v b : Nat) : s.arrived.epochAt h v b = s.epochAt h v b :=
  congrArg (fun m : Member => bEpoch (mgetD m.bars b 0)) ((State.member_progress _ _ h v).trans ((aside_member h v).endFwd s _))

theorem State.epochAt_joined (s : State) (n : Nat) :
    (s.joined n).epochAt s.cx.group s.cx.vcore n = s.epochAt s.cx.group s.cx.vcore n := by
  rw [State.joined, State.epochAt_tryPass, State.epochAt_setBarFld _ _ _ _ (by decide) (by decide), State.epochAt_arrived]

theorem barArriveAt_open {n : Nat} (hs : s.calm = true) (hopen : bArr (mgetD s.mem.bars n 0) < bCnt (mgetD s.mem.bars n 0) + 1)
    (k : Nat → State → Out) : barArriveAt n s k = k ((bEpoch (mgetD s.mem.bars n 0) + 1) % 256) (s.joined n) := by
  unfold barArriveAt
  rw [arriving_calm hs]
  exact if_pos hopen

theorem barArriveAt_next {n : Nat} (hs : s.calm = true) (hfull : bArr (mgetD s.mem.bars n 0) = bCnt (mgetD s.mem.bars n 0) + 1)
    (hnext : bNxt (mgetD s.mem.bars n 0) < bCnt (mgetD s.mem.bars n 0) + 1) (k : Nat → State → Out) :
    barArriveAt n s k = k ((bEpoch (mgetD s.mem.bars n 0) + 2) % 256)
      (s.arrived.setBarFld s.cx.group s.cx.vcore n 44 4 (bNxt (mgetD s.mem.bars n 0) + 1)) := by
  unfold barArriveAt
  rw [arriving_calm hs]
  dsimp only
  rw [if_neg (by omega), if_pos hnext]

theorem barArriveAt_full {n : Nat} (hs : s.calm = true) (hfull : bArr (mgetD s.mem.bars n 0) = bCnt (mgetD s.mem.bars n 0) + 1)
    (hnext : bNxt (mgetD s.mem.bars n 0) = bCnt (mgetD s.mem.bars n 0) + 1) (k : Nat → State → Out) :
    barArriveAt n s k = blocked s (.barFull n) := by
  unfold barArriveAt
  rw [arriving_calm hs]
  dsimp only
  rw [if_neg (by omega), if_neg (by omega)]

theorem barWaitFor_released {a : BitVec 4} {n e : Nat} (h : notYet (bEpoch (mgetD s.mem.bars n 0)) e = false) :
    barWaitFor a n e s = waited a (bBrv (mgetD s.mem.bars n 0)) e s := by
  unfold barWaitFor
  dsimp only
  rw [if_neg (by rw [h]; decide)]

theorem barWaitFor_waits {a : BitVec 4} {n e : Nat} (h : notYet (bEpoch (mgetD s.mem.bars n 0)) e = true) :
    barWaitFor a n e s = .next (s.block (.bar n e)) := by
  unfold barWaitFor
  dsimp only
  rw [if_pos h]
  rfl

/-- The episode after the one that EPOCH names is not released. -/
theorem notYet_succ {e : Nat} (h : e < 256) : notYet e ((e + 1) % 256) = true := by
  unfold notYet
  rw [decide_eq_true_eq]
  omega

/-- BARW names the barrier that it was set to. -/
theorem Ctx.barwNames_setBarw (c : Ctx) {kind who e : Nat} (hkind : kind < 2) (hwho : who < 2 ^ 17) (he : e < 256) :
    (c.setBarw kind who e).barwNames kind who = true := by
  have hget : (c.setBarw kind who e).get 0x0B8 = toWord (2 ^ 63 + kind * 2 ^ 62 + e * 2 ^ 32 + who) := Ctx.get_set_self _ _ _
  have hmod : (toWord (2 ^ 63 + kind * 2 ^ 62 + e * 2 ^ 32 + who)).toNat = 2 ^ 63 + kind * 2 ^ 62 + e * 2 ^ 32 + who := by
    rw [toNat_toWord]
    omega
  have h63 : bitsOf (2 ^ 63 + kind * 2 ^ 62 + e * 2 ^ 32 + who) 63 1 = 1 := by simp only [bitsOf]; omega
  have h62 : bitsOf (2 ^ 63 + kind * 2 ^ 62 + e * 2 ^ 32 + who) 62 1 = kind := by simp only [bitsOf]; omega
  have h0 : bitsOf (2 ^ 63 + kind * 2 ^ 62 + e * 2 ^ 32 + who) 0 17 = who := by simp only [bitsOf]; omega
  rw [Ctx.barwNames, Ctx.fld, Ctx.fld, Ctx.fld, hget, hmod, h63, h62, h0]
  simp

/-- A wait begins without a change of the control registers that count no events. -/
theorem State.get_block {s : State} (hrep : s.cx.rep = none) (w : Wait) {n : Nat} (hn : n < 0x024 ∨ 0x027 < n) :
    (s.block w).cx.get n = s.cx.get n := by
  have hblock : s.block w =
      let t := (s.waiting w).departWaiting w
      if isCopy t.cur then t.setSeq t.here (fun q => { q with state := .blocked }) else t := rfl
  have hwaiting : (s.waiting w).cx.get n = s.cx.get n := by
    unfold State.waiting
    dsimp only
    have hkeep (t : State) (ht : t.cx = s.cx) (long : Bool) :
        (t.setCx { t.cx.count 4 1 with parkLong := long, woken := false, parkRun := 0 }).cx.get n = s.cx.get n := by
      rw [State.cx_setCx, ht]
      exact s.cx.get_count hn 4 1
    exact hkeep _ (ite_keeps (aside_cx.setCluster s _ _) rfl) _
  have hdepart : ((s.waiting w).departWaiting w).cx.get n = s.cx.get n := by
    obtain ⟨-, -, -, -, hcx⟩ := State.depart_focus ((s.waiting_rep w).trans hrep) (s.waiting w).cx.pc
      (if ((s.waiting w).core (s.waiting w).here).stop && !(s.waiting w).cx.stepping then .stopped (some w) false else .blocked w)
    rw [State.departWaiting, hcx]
    exact hwaiting
  rw [hblock]
  dsimp only
  exact ite_keeps (p := fun t => t.cx.get n) hdepart hdepart

theorem Ctx.barwNames_congr {c d : Ctx} (h : c.get 0x0B8 = d.get 0x0B8) (kind who : Nat) :
    c.barwNames kind who = d.barwNames kind who := by
  rw [Ctx.barwNames, Ctx.barwNames, Ctx.fld, Ctx.fld, Ctx.fld, Ctx.fld, Ctx.fld, Ctx.fld, h]

theorem barNo_lt (imm : BitVec 6) : barNo imm < 8 := bitsOf_lt imm.toNat 0 3

theorem Ctx.group_setBarw (c : Ctx) (kind who e : Nat) : (c.setBarw kind who e).group = c.group := by
  rw [Ctx.group, Ctx.group, Ctx.setBarw, c.get_set_ne _ (by decide)]

theorem Ctx.vcore_setBarw (c : Ctx) (kind who e : Nat) : (c.setBarw kind who e).vcore = c.vcore := by
  rw [Ctx.vcore, Ctx.vcore, Ctx.setBarw, c.get_set_ne _ (by decide)]

theorem Ctx.rep_set (c : Ctx) (n : Nat) (v : Word) : (c.set n v).rep = c.rep := rfl

theorem Ctx.rep_setBarw (c : Ctx) (kind who e : Nat) : (c.setBarw kind who e).rep = c.rep := c.rep_set _ _

/-- The state in which the arrival of a sync is recorded in BARW. -/
def State.syncing (s : State) (n : Nat) : State :=
  (s.joined n).setCx ((s.joined n).cx.setBarw 0 n ((bEpoch (mgetD s.mem.bars n 0) + 1) % 256))

theorem State.syncing_cx (s : State) (n : Nat) :
    (s.syncing n).cx = s.cx.setBarw 0 n ((bEpoch (mgetD s.mem.bars n 0) + 1) % 256) := by
  have hcx : (s.joined n).cx = s.cx := State.joined_keeps aside_cx (fun _ _ => rfl) (fun _ _ _ _ => rfl) s n
  rw [State.syncing, State.cx_setCx, hcx]

theorem State.syncing_epoch (s : State) (n : Nat) :
    bEpoch (mgetD (s.syncing n).mem.bars n 0) = bEpoch (mgetD s.mem.bars n 0) := by
  have hmem : (s.syncing n).mem = (s.syncing n).member s.cx.group s.cx.vcore := by
    rw [State.mem, s.syncing_cx, Ctx.group_setBarw, Ctx.vcore_setBarw]
  rw [hmem]
  exact s.epochAt_joined n

/-- A sync that arrives records itself in BARW and waits for the episode it joined. -/
theorem barSync_joins {a b c : BitVec 4} {imm : BitVec 6} {g : Group} (hs : s.calm = true) (hg : s.grp s.cx.group = some g)
    (hen : bEn (mgetD s.mem.bars (barNo imm) 0) = true)
    (hhas : bHas (mgetD s.mem.bars (barNo imm) 0) (posOf g s.cx.vcore) = true)
    (hopen : bArr (mgetD s.mem.bars (barNo imm) 0) < bCnt (mgetD s.mem.bars (barNo imm) 0) + 1)
    (hnew : s.cx.barwNames 0 (barNo imm) = false) :
    ∃ t, exec (.barSync a b c imm) s = .next t ∧
      t.cx.waits = some (.bar (barNo imm) ((bEpoch (mgetD s.mem.bars (barNo imm) 0) + 1) % 256)) ∧
      t.cx.barwNames 0 (barNo imm) = true := by
  have hnlt := barNo_lt imm
  have hlt : bEpoch (mgetD s.mem.bars (barNo imm) 0) < 256 := bitsOf_lt _ 48 8
  have hrep : (s.syncing (barNo imm)).cx.rep = none := by rw [s.syncing_cx, Ctx.rep_setBarw]; exact s.calm_rep hs
  have hexec : exec (.barSync a b c imm) s = .next ((s.syncing (barNo imm)).block
      (.bar (barNo imm) ((bEpoch (mgetD s.mem.bars (barNo imm) 0) + 1) % 256))) := by
    rw [exec_barSync, execBarSync, withBar_ok hg hen hhas, if_neg (by rw [hnew]; decide), barArriveAt_open hs hopen]
    exact barWaitFor_waits (s := s.syncing (barNo imm)) (by rw [s.syncing_epoch]; exact notYet_succ hlt)
  refine ⟨_, hexec, State.block_waits hrep _, ?_⟩
  rw [Ctx.barwNames_congr (State.get_block hrep _ (by decide)), s.syncing_cx]
  exact Ctx.barwNames_setBarw _ (by decide) (by omega) (Nat.mod_lt _ (by decide))

/-! ## Dissemination barriers -/

theorem withDesc_ok (hs : s.calm = true) {b : BitVec 4} (halign : (s.w b).toNat % 32 = 0) (hlt : (s.w b).toNat < 0x20000)
    (hzero : bitsOf (s.rdS s.here (s.w b).toNat 8) 34 30 = 0)
    (hrank : bitsOf (s.rdS s.here (s.w b).toNat 8) 16 16 < bitsOf (s.rdS s.here (s.w b).toNat 8) 0 16) (i : Instr)
    (k : Nat → State → Out) : withDesc i b s k = k (s.w b).toNat s := by
  unfold withDesc
  rw [reading_calm s hs]
  dsimp only
  rw [if_neg (by omega), if_neg (by omega), s.badS_sound (s.calm_sound hs)]
  dsimp only
  rw [s.localHeld_calm hs, if_neg (by decide), s.softS_sound (s.calm_sound hs), counting_zero, if_neg (by omega),
    watched_unwatched s (s.calm_unwatched hs)]

/-- The entries of the partners that a descriptor names. -/
def State.partnersAt (s : State) (d : Nat) : List Elem :=
  partnerElems (toWord (s.rdS s.here (d + 8) 8)) (bitsOf (s.rdS s.here d 8) 0 16) (bitsOf (s.rdS s.here d 8) 16 16)

theorem withPartners_ok {u : State} {ps : List Nat} {d : Nat} (hal : ∀ e ∈ s.partnersAt d, e.va % 8 = 0)
    (hread : s.readsAt (s.partnersAt d) ps u) (hvalid : ∀ y ∈ ps, bitAt y 31 = false) (i : Instr)
    (k : List (Nat × Nat × Nat) → State → Out) : withPartners i d s k = k (ps.map rankEntry) u := by
  have hpick : pick (fun (e : Elem) => e.va % 8 != 0) (s.partnersAt d) = none := pick_none.2 fun e he => by simp [hal e he]
  have hload := loadingAt_ok s hread fun xs s => if xs.any (fun x => bitAt x 31) then operandTrap s i else k (xs.map rankEntry) s
  rw [if_neg (by simpa using hvalid)] at hload
  unfold withPartners
  dsimp only
  rw [← State.partnersAt, hpick]
  exact hload

/-- Loads of doublewords leave what the use of their translations leaves. -/
theorem State.readsAt.used {es : List Elem} {d : List Nat} {u : State} (h : s.readsAt es d u) : Used s u := by
  obtain ⟨as, -, -, -, -, -, -, -, rfl⟩ := h
  have hfold {α : Type} (p : State → α) (hp : Aside p) : p ((es.zip as).foldl (fun t x => t.useNow x.1 x.2) s) = p s :=
    foldl_keeps (f := fun t x => t.useNow x.1 x.2) (p := p) (fun t x => hp.useNow t x.1 x.2) (es.zip as) s
  exact ⟨fun p hp hset => (hset _ _).trans (hfold p hp), by rw [State.noFault, State.cx_setCx, hfold State.cx aside_cx]⟩

/-- An arrival with nothing on its way and no failure pending waits for nothing. -/
theorem arriving_idle (hr : s.reqs = []) (hf : s.flights = []) (hfail : s.cx.failures = []) (sys : Bool) (k : State → Out) :
    arriving sys s k = k s := by
  have hclass : s.classS s.cur = 0 := by simp [State.classS, batches, hr, hf]
  have hdrained : s.drained s.cur sys = true := by simp [State.drained, State.covered, hr, State.linkReqs_nil hf]
  unfold arriving
  rw [if_neg (by rw [hclass]; decide), remoteOr_none hfail, if_neg (by rw [hdrained]; decide)]

theorem waited_eq (a : BitVec 4) (brv : Bool) (e : Nat) (s : State) : waited a brv e s =
    .next ((s.setCx (s.cx.setFld 0x0B8 63 1 0)).setW a (toWord ((if brv then 2 ^ 63 else 0) + e))).advance := rfl

theorem State.w_named (s : State) (l : Loc) (x : Word) (i : BitVec 4) : (s.named l x).w i = s.w i := by
  unfold State.named State.noteBrvAt
  split
  · exact s.w_setCx (c := { s.cx with pendBrv := some x }) (by rfl) i
  · rfl

theorem dbarWaitFor_released {a : BitVec 4} {d e : Nat} (h : notYet (s.rdS s.here (d + 16) 2 % 256) e = false) :
    dbarWaitFor a d e s = waited a (bitAt (s.rdS s.here (d + 16) 2) 8) e (s.named (.spad s.here d) (toWord d)) := by
  unfold dbarWaitFor
  dsimp only
  rw [if_neg (by rw [h]; decide)]

theorem dbarWaitFor_waits {a : BitVec 4} {d e : Nat} (h : notYet (s.rdS s.here (d + 16) 2 % 256) e = true) :
    dbarWaitFor a d e s = .next (s.block (.dbar d e)) := by
  unfold dbarWaitFor
  dsimp only
  rw [if_pos h]
  rfl

/-- The state in which the membership of the focus's party stands in the estate table. -/
def State.enrolled (s : State) (d : Nat) : State :=
  if s.isMember s.cx.group s.cx.vcore d then s else (s.register s.cx.group 1 0 (0, spadLoc s.cx.group s.cx.vcore d)).1

/-- The episode after the one that EPOCH of a descriptor names. -/
def State.nextEp (s : State) (core d : Nat) : Nat := (s.rdS core (d + 16) 1 + 1) % 256

/-- The state in which the focus's party has arrived for an episode. -/
def State.dArrived (s : State) (d e : Nat) (ps : List Nat) : State :=
  (s.enrolled d).arrived.dArrive s.cx.group s.cx.vcore d (s.partyOf d e (ps.map rankEntry))

/-- The state in which it has arrived for the next episode of its descriptor. -/
def State.arrivedAt (s : State) (core d : Nat) (ps : List Nat) : State := s.dArrived d (s.nextEp core d) ps

theorem dbarArriveAt_ok (hr : s.reqs = []) (hf : s.flights = []) (hfail : s.cx.failures = []) {d : Nat} {ps : List Nat}
    (hidle : ((s.party s.cx.group s.cx.vcore d).map (fun p => p.active)).getD false = false) (k : Nat → State → Out) :
    dbarArriveAt d (ps.map rankEntry) s k = k (s.nextEp s.here d) (s.dArrived d (s.nextEp s.here d) ps) := by
  unfold dbarArriveAt
  rw [arriving_idle hr hf hfail]
  dsimp only
  rw [if_neg (by rw [hidle]; decide)]
  rfl

section

variable {α : Type} {p : State → α} (hgrp : ∀ (t : State) (g : Group), p (t.setGrp g) = p t)
  (hfly : ∀ (t : State) (fs : List Flight) (hs : List Hop) (n : Nat), p { t with flights := fs, hops := hs, uid := n } = p t)
  (hlinks : ∀ (t : State) (x : Map Link), p { t with links := x } = p t)
  (hwr : ∀ (t : State) (core off n v : Nat), p (t.wrS core off n v) = p t)

include hfly hlinks in
theorem State.sendToken_keeps (s : State) (h w d : Nat) (q : Party) : p (s.sendToken h w d q) = p s := by
  unfold State.sendToken
  split
  · exact (State.sendTo_keeps p hlinks _ _ _ _).trans (hfly _ _ _ _)
  · rfl

include hgrp hwr in
theorem State.dRelease_keeps (s : State) (h v d : Nat) (q : Party) : p (s.dRelease h v d q) = p s := by
  unfold State.dRelease
  refine ite_keeps (State.updMember_keeps p hgrp _ _ _ _) ?_
  exact (State.updMember_keeps p hgrp _ _ _ _).trans ((hwr _ _ _ _ _).trans (hwr _ _ _ _ _))

include hgrp hfly hlinks hwr

theorem State.runParty_keeps (h v d n : Nat) : ∀ s : State, p (s.runParty h v d n) = p s := by
  induction n with
  | zero => exact fun _ => rfl
  | succ n ih =>
    intro s
    have hmove (q : Party) : p (((s.setParty h v d q).sendToken h v d q).runParty h v d n) = p s :=
      (ih _).trans ((State.sendToken_keeps hfly hlinks _ _ _ _ _).trans (State.updMember_keeps p hgrp _ _ _ _))
    rw [State.runParty]
    split
    · rfl
    · dsimp only
      exact ite_keeps (hmove _) (ite_keeps rfl (ite_keeps ((ih _).trans (State.dRelease_keeps hgrp hwr _ _ _ _ _))
        (ite_keeps (hmove _) (State.updMember_keeps p hgrp _ _ _ _))))

theorem State.dArrived_keeps (hp : Aside p) (hest : ∀ (t : State) (e : Map Holding), p { t with estate := e } = p t)
    (s : State) (d e : Nat) (ps : List Nat) : p (s.dArrived d e ps) = p s := by
  have henrolled : p (s.enrolled d) = p s := ite_keeps rfl (State.register_keeps p hest _ _ _ _ _)
  exact (State.runParty_keeps hgrp hfly hlinks hwr _ _ _ _ _).trans ((State.sendToken_keeps hfly hlinks _ _ _ _ _).trans
    ((State.updMember_keeps p hgrp _ _ _ _).trans ((State.arrived_keeps hp hgrp _).trans henrolled)))

end

theorem State.dArrived_ctxs (s : State) (d e : Nat) (ps : List Nat) : (s.dArrived d e ps).ctxs = s.ctxs :=
  State.dArrived_keeps (fun _ _ => rfl) (fun _ _ _ _ => rfl) (fun _ _ => rfl) (fun _ _ _ _ _ => rfl) aside_ctxs (fun _ _ => rfl) s d e ps

theorem State.dArrived_cur (s : State) (d e : Nat) (ps : List Nat) : (s.dArrived d e ps).cur = s.cur :=
  State.dArrived_keeps (fun _ _ => rfl) (fun _ _ _ _ => rfl) (fun _ _ => rfl) (fun _ _ _ _ _ => rfl) aside_cur (fun _ _ => rfl) s d e ps

/-- Arriving moves neither the focus nor its context. -/
theorem State.samePoint_dArrived (s : State) (d e : Nat) (ps : List Nat) : SamePoint s (s.dArrived d e ps) :=
  .of_ctxs (s.dArrived_ctxs d e ps) (s.dArrived_cur d e ps)

/-! ## The settling theorem -/

section

variable {a b c : BitVec 4} {imm : BitVec 6} {g : Group} (hg : s.grp s.cx.group = some g)
  (hen : bEn (mgetD s.mem.bars (barNo imm) 0) = true)
  (hhas : bHas (mgetD s.mem.bars (barNo imm) 0) (posOf g s.cx.vcore) = true)

include hg hen hhas

theorem barArrive_eq : exec (.barArrive a b c imm) s = barArriveAt (barNo imm) s fun e s => done (s.setW a (toWord e)) := by
  rw [exec_barArrive, execBarArrive, withBar_ok hg hen hhas]

theorem barSync_pending (hpend : s.cx.barwNames 0 (barNo imm) = true) :
    exec (.barSync a b c imm) s = barWaitFor a (barNo imm) (s.cx.fld 0x0B8 32 8) s := by
  rw [exec_barSync, execBarSync, withBar_ok hg hen hhas, if_pos hpend]

theorem barWait_eq (hs : s.calm = true) : exec (.barWait a b c imm) s = barWaitFor a (barNo imm) ((s.w a).toNat % 256) s := by
  rw [exec_barWait, execBarWait, reading_calm s hs]
  exact withBar_ok hg hen hhas _ _

end

/-- What DBAR demands of a descriptor and its partners' entries, read by a calm focus. -/
structure State.descAt (s : State) (d : Nat) (ps : List Nat) (u : State) : Prop where
  align : d % 32 = 0
  low : d < 0x20000
  zero : bitsOf (s.rdS s.here d 8) 34 30 = 0
  rank : bitsOf (s.rdS s.here d 8) 16 16 < bitsOf (s.rdS s.here d 8) 0 16
  entries : ∀ e ∈ s.partnersAt d, e.va % 8 = 0
  read : s.readsAt (s.partnersAt d) ps u
  valid : ∀ y ∈ ps, bitAt y 31 = false

section

variable {u : State} {a b c : BitVec 4} {imm : BitVec 6} {ps : List Nat} (hs : s.calm = true) (h : s.descAt (s.w b).toNat ps u)

include hs h

theorem withParty_ok (i : Instr) (k : Nat → List (Nat × Nat × Nat) → State → Out) :
    (withDesc i b s fun d s => withPartners i d s fun ps s => k d ps s) = k (s.w b).toNat (ps.map rankEntry) u := by
  rw [withDesc_ok hs h.align h.low h.zero h.rank]
  exact withPartners_ok h.entries h.read h.valid _ _

theorem dbarWait_eq : exec (.dbarWait a b c imm) s = dbarWaitFor a (s.w b).toNat ((u.w a).toNat % 256) u := by
  rw [exec_dbarWait, execDbarWait, reading_calm s hs]
  exact withParty_ok hs h _ (fun d _ s => dbarWaitFor a d ((s.w a).toNat % 256) s)

theorem dbarSync_pending (hpend : u.cx.barwNames 1 (s.w b).toNat = true) :
    exec (.dbarSync a b c imm) s = dbarWaitFor a (s.w b).toNat (u.cx.fld 0x0B8 32 8) u := by
  rw [exec_dbarSync, execDbarSync]
  refine (withParty_ok hs h _ (fun d ps s => if s.cx.barwNames 1 d then dbarWaitFor a d (s.cx.fld 0x0B8 32 8) s
    else dbarArriveAt d ps s fun e s => dbarWaitFor a d e (s.setCx (s.cx.setBarw 1 d e)))).trans ?_
  exact if_pos hpend

theorem State.descAt.arrives (hidle : ((u.party u.cx.group u.cx.vcore (s.w b).toNat).map (fun p => p.active)).getD false = false)
    (k : Nat → State → Out) : dbarArriveAt (s.w b).toNat (ps.map rankEntry) u k =
      k (u.nextEp s.here (s.w b).toNat) (u.arrivedAt s.here (s.w b).toNat ps) := by
  obtain ⟨hr, -, -, -, -, -, -, -, hfail, -⟩ := s.calm_parts hs
  obtain ⟨-, -, hf, -⟩ := s.calm_parts hs
  have hused := h.read.used
  have hureqs : u.reqs = [] := (hused.aside State.reqs aside_reqs (fun _ _ => rfl)).trans hr
  have hufail : u.cx.failures = [] := by rw [hused.cx]; exact hfail
  rw [dbarArriveAt_ok hureqs (hused.flights.trans hf) hufail hidle, hused.here]
  rfl

theorem dbarSync_joins (hidle : ((u.party u.cx.group u.cx.vcore (s.w b).toNat).map (fun p => p.active)).getD false = false)
    (hnew : u.cx.barwNames 1 (s.w b).toNat = false) :
    exec (.dbarSync a b c imm) s = dbarWaitFor a (s.w b).toNat (u.nextEp s.here (s.w b).toNat)
      ((u.arrivedAt s.here (s.w b).toNat ps).setCx ((u.arrivedAt s.here (s.w b).toNat ps).cx.setBarw 1 (s.w b).toNat
        (u.nextEp s.here (s.w b).toNat))) := by
  rw [exec_dbarSync, execDbarSync]
  refine (withParty_ok hs h _ (fun d ps s => if s.cx.barwNames 1 d then dbarWaitFor a d (s.cx.fld 0x0B8 32 8) s
    else dbarArriveAt d ps s fun e s => dbarWaitFor a d e (s.setCx (s.cx.setBarw 1 d e)))).trans ?_
  exact (if_neg (by rw [hnew]; decide)).trans (h.arrives hs hidle _)

theorem dbarArrive_eq (hidle : ((u.party u.cx.group u.cx.vcore (s.w b).toNat).map (fun p => p.active)).getD false = false) :
    exec (.dbarArrive a b c imm) s =
      .next (((u.arrivedAt s.here (s.w b).toNat ps).setW a (toWord (u.nextEp s.here (s.w b).toNat))).named
        (.spad s.here (s.w b).toNat) (toWord (s.w b).toNat)).advance := by
  rw [exec_dbarArrive, execDbarArrive]
  refine (withParty_ok hs h _ (fun d ps s => dbarArriveAt d ps s fun e s =>
    done ((s.setW a (toWord e)).named (.spad s.here d) (toWord d)))).trans ?_
  have hhere : (u.arrivedAt s.here (s.w b).toNat ps).here = s.here := by
    rw [State.arrivedAt, State.here, u.dArrived_cur, ← State.here, h.read.used.here]
  rw [h.arrives hs hidle, hhere]
  rfl

theorem dbarArrive_leaves {v : Word} : SamePoint s (((u.arrivedAt s.here (s.w b).toNat ps).setW a v).named
      (.spad s.here (s.w b).toNat) (toWord (s.w b).toNat)) ∧
    (((u.arrivedAt s.here (s.w b).toNat ps).setW a v).named (.spad s.here (s.w b).toNat) (toWord (s.w b).toNat)).advance.w a = v := by
  have hpoint := ((h.read.used.samePoint.trans (u.samePoint_dArrived (s.w b).toNat (u.nextEp s.here (s.w b).toNat) ps)).trans
    (.of_ctxs (State.setW_ctxs _ a v) rfl)).trans (State.samePoint_named _ (.spad s.here (s.w b).toNat) (toWord (s.w b).toNat))
  refine ⟨hpoint, ?_⟩
  rw [State.arrivedAt, State.advance_w _ (hpoint.rep.trans (s.calm_rep hs)), State.w_named, State.w_setW_self]

end

/-- Settles O28: an arrival joins its episode and a wait goes by EPOCH, for both kinds of barrier; a message does what its step says. -/
theorem barrierResult : Obligations.BarrierResult := by
  unfold Obligations.BarrierResult
  refine ⟨?_, ?_, ?_⟩
  · intro s a b c imm g hs hg n r done hen hhas e u v
    refine ⟨fun hopen => ?_, fun hfull hnext => ?_, fun hfull hnext => ?_, fun hopen hnew => barSync_joins hs hg hen hhas hopen hnew,
      fun hpend hrel => ?_, fun hrel => ?_, fun hwait => ?_⟩
    · exact (barArrive_eq hg hen hhas).trans (barArriveAt_open hs hopen _)
    · exact (barArrive_eq hg hen hhas).trans (barArriveAt_next hs hfull hnext _)
    · exact (barArrive_eq hg hen hhas).trans (barArriveAt_full hs hfull hnext _)
    · exact (barSync_pending hg hen hhas hpend).trans (barWaitFor_released hrel)
    · exact (barWait_eq hg hen hhas hs).trans (barWaitFor_released hrel)
    · exact (barWait_eq hg hen hhas hs).trans (barWaitFor_waits hwait)
  · intro s u a b c imm ps hs done d w x es me hal hlt hzero hrank hent hread hvalid
    have hdesc : s.descAt (s.w b).toNat ps u := ⟨hal, hlt, hzero, hrank, hent, hread, hvalid⟩
    have hhere : u.here = s.here := hread.used.here
    have hx : u.rdS u.here ((s.w b).toNat + 16) 2 = u.rdS s.here ((s.w b).toNat + 16) 2 := by rw [hhere]
    refine ⟨fun hrel => ?_, fun hwait => ?_, fun hpend hrel => ?_, fun hidle => ⟨?_, fun hnew hwait => ?_⟩, fun hone hnone => ?_⟩
    · rw [dbarWait_eq hs hdesc, dbarWaitFor_released (by rw [hx]; exact hrel), hx, hhere, waited_eq]
    · rw [dbarWait_eq hs hdesc, dbarWaitFor_waits (by rw [hx]; exact hwait)]
    · rw [dbarSync_pending hs hdesc hpend, dbarWaitFor_released (by rw [hx]; exact hrel), hx, hhere, waited_eq]
    · exact dbarArrive_eq hs hdesc hidle
    · rw [dbarSync_joins hs hdesc hidle hnew]
      refine dbarWaitFor_waits ?_
      have hz : (u.arrivedAt s.here (s.w b).toNat ps).here = s.here := by
        rw [State.arrivedAt, State.here, u.dArrived_cur, ← State.here, hhere]
      rw [State.here_setCx, hz]
      exact hwait
    · have hparty : u.party u.cx.group u.cx.vcore (s.w b).toNat = none := by
        rw [State.party, hread.used.cx, hread.used.member]
        exact hnone
      obtain ⟨hpoint, hw⟩ := dbarArrive_leaves (a := a) hs hdesc
      exact ⟨_, dbarArrive_eq hs hdesc (by rw [hparty]; rfl), hw.trans (by rw [State.nextEp, hread.used.rdS]),
        (hpoint.advance_pc (s.calm_rep hs)).2⟩
  · intro s id h b v brv north g hg
    refine ⟨fun hf => ?_, fun hf => ?_, fun d k e hf hheir hrun hpst => ?_, fun d k e x hf hheir => ?_, fun dev d k e p hf hdev => ?_⟩
    · rw [exec_barrierArrivalHop, execBarrierArrivalHop, hf]
    · have hland : (s.land id).grp h = some g := hg
      rw [exec_barrierReleaseHop, execBarrierReleaseHop, hf]
      dsimp only
      rw [hland]
    · rw [exec_dbarTokenArrival, execDbarTokenArrival, hf]
      dsimp only
      rw [if_neg (by decide), hg]
      dsimp only
      rw [if_neg (by simp), hheir]
      dsimp only
      rw [if_neg (by rw [hrun, hpst]; decide), hpst, if_neg (by simp)]
    · rw [exec_dbarTokenArrival, execDbarTokenArrival, hf]
      dsimp only
      rw [if_neg (by decide), hg]
      dsimp only
      rw [if_neg (by simp), hheir]
    · rw [exec_dbarTokenArrival, execDbarTokenArrival, hf]
      dsimp only
      rw [if_pos hdev]

end Sys2Proof.Machine

/-! PROOFS. The copy stream (20): the copy strand, the commands it queues, and the steps of a command. -/

namespace Sys2Proof.Machine

section

variable (a b c : BitVec 4) (imm : BitVec 6) (s : State)

theorem exec_fork : exec (.fork a b c imm) s = execFork a b c imm s := by rfl
theorem exec_rdv : exec (.rdv a b c imm) s = execRdv a b c imm s := by rfl
theorem exec_cpy : exec (.cpy a b c imm) s = execCpy a b c imm s := by rfl
theorem exec_cpyt : exec (.cpyt a b c imm) s = execCpyt a b c imm s := by rfl
theorem exec_cevq : exec (.cevq a b c imm) s = execCevq a b c imm s := by rfl
theorem exec_copyCommandStart (core : Nat) : exec (.copyCommandStart core) s = execCopyCommandStart core s := by rfl
theorem exec_copyCommandComplete (core id : Nat) : exec (.copyCommandComplete core id) s = execCopyCommandComplete core id s := by rfl

theorem decodeCause_cevq : decodeCause s (.cevq a b c imm) = opIf (odd a) := by rfl

end

variable {s : State}

/-! ## What the use of translations and placement copies keeps of a core -/

section

variable {α : Type} {q : Core → α}

theorem State.core_setCore_keeps {n : Nat} {k : Core} (h : q k = q (s.core n)) (j : Nat) : q ((s.setCore n k).core j) = q (s.core j) := by
  by_cases hj : n = j
  · rw [← hj, State.core_setCore_self, h]
  · rw [State.core_setCore_ne _ _ hj]

variable (hcerr : ∀ (k : Core) (x : Nat), q { k with cerr := x } = q k)

include hcerr in
theorem State.core_softRead (s : State) (core : Nat) (l : Loc) (n j : Nat) : q ((s.softRead core l n).core j) = q (s.core j) := by
  unfold State.softRead State.addCerrOn
  exact ite_keeps (p := fun t : State => q (t.core j)) rfl (State.core_setCore_keeps (hcerr _ _) j)

variable (htlb : ∀ (k : Core) (x : List Tlb), q { k with tlb := x } = q k)

include htlb in
theorem State.core_useXl (s : State) (core h va : Nat) (acc : Acc) (j : Nat) : q ((s.useXl core h va acc).core j) = q (s.core j) := by
  unfold State.useXl
  split
  · rfl
  · have hbits (b x y : Nat) : q ((if b = 0 then s else s.wrH x 1 y).core j) = q (s.core j) :=
      ite_keeps (p := fun t : State => q (t.core j)) rfl rfl
    dsimp only
    exact ite_keeps (p := fun t : State => q (t.core j)) ((State.core_setCore_keeps (htlb _ _) j).trans (hbits _ _ _))
      ((State.core_setCore_keeps (htlb _ _) j).trans (hbits _ _ _))

variable (hplace : ∀ (k : Core) (x : List (Nat × Nat × Nat)), q { k with pcache := x } = q k)

include hplace in
theorem State.core_placeFill (s : State) (core h v j : Nat) : q ((s.placeFill core h v).core j) = q (s.core j) := by
  unfold State.placeFill
  exact ite_keeps (p := fun t : State => q (t.core j)) rfl (State.core_setCore_keeps (hplace _ _) j)

include hcerr htlb hplace

theorem State.core_useNow (s : State) (e : Elem) (a : At) (j : Nat) : q ((s.useNow e a).core j) = q (s.core j) := by
  have hplaced : q ((s.usePlace a).core j) = q (s.core j) := by
    unfold State.usePlace
    split
    · exact ite_keeps (p := fun t : State => q (t.core j)) rfl (State.core_placeFill hplace _ _ _ _ j)
    · rfl
  have htranslated : q (((s.usePlace a).useTlb e a).core j) = q (s.core j) := by
    refine Eq.trans ?_ hplaced
    unfold State.useTlb
    split
    · exact State.core_useXl htlb _ _ _ _ _ j
    · rfl
  unfold State.useNow
  dsimp only
  split
  · exact (State.core_softRead hcerr _ _ _ _ j).trans htranslated
  · exact htranslated

theorem State.readsAt.core {es : List Elem} {d : List Nat} {u : State} (h : s.readsAt es d u) (j : Nat) : q (u.core j) = q (s.core j) := by
  obtain ⟨as, -, -, -, -, -, -, -, rfl⟩ := h
  exact foldl_keeps (f := fun t x => t.useNow x.1 x.2) (p := fun t : State => q (t.core j))
    (fun t x => State.core_useNow hcerr htlb hplace t x.1 x.2 j) (es.zip as) s

end

/-! ## The copy strand -/

/-- The state in which the copy strand has ended with its result. -/
def State.strandEnded (s : State) (a : BitVec 4) : State :=
  (s.depart s.cur s.cx.pc (.stopped none false)).setSeq (s.depart s.cur s.cx.pc (.stopped none false)).here
    (fun q => { q with state := .ended, result := s.w a })

theorem rdv_copy {a b c : BitVec 4} {imm : BitVec 6} (hs : s.calm = true) (hcopy : isCopy s.cur = true) :
    exec (.rdv a b c imm) s = .next (s.strandEnded a) := by
  obtain ⟨hr, -, hf, -, -, -, hm, hc, -⟩ := s.calm_parts hs
  have hmet : s.waitcMet 0 0 0 0 = true := by
    have hcopies : s.classC s.cur = 0 := by
      rw [State.classC]
      exact congrArg (fun l : List Copy => (l.filter (fun c => c.cid == s.cur)).length) hc
    have htiles : s.classM s.cur = 0 := by
      rw [State.classM]
      exact congrArg (fun l : List TileOp => (l.filter (fun o => o.cid == s.cur)).length) hm
    rw [State.waitcMet, s.calm_classL hs, s.calm_classS hs, hcopies, htiles]
    rfl
  rw [exec_rdv, execRdv, if_pos hcopy, reading_calm s hs, rdvCopy, if_neg (by rw [hmet]; decide)]
  rfl

theorem State.strandEnded_seq (hrep : s.cx.rep = none) (a : BitVec 4) :
    ((s.strandEnded a).core s.here).seq.state = .ended ∧ ((s.strandEnded a).core s.here).seq.result = s.w a := by
  obtain ⟨-, -, hcur, -⟩ := State.depart_focus hrep s.cx.pc (.stopped none false)
  have hhere : (s.depart s.cur s.cx.pc (.stopped none false)).here = s.here := by rw [State.here, hcur]; rfl
  rw [State.strandEnded, hhere, State.setSeq, State.core_setCore_self]
  exact ⟨rfl, rfl⟩

theorem State.cx_setCtx_ne {cid : Nat} (h : s.cur ≠ cid) (x : Ctx) : (s.setCtx cid x).cx = s.cx := s.ctx_setCtx_ne x h.symm

theorem State.w_setCtx_ne {cid : Nat} (h : s.cur ≠ cid) (x : Ctx) (i : BitVec 4) : (s.setCtx cid x).w i = s.w i := by
  rw [State.w, State.w, State.cx_setCtx_ne h]
  rfl

/-- The copy strand of a core is not the focus where that is no copy strand. -/
theorem State.cur_ne_strand (h : isCopy s.cur = false) (core : Nat) : s.cur ≠ copyBase + core := by
  rw [isCopy, decide_eq_false_iff_not] at h
  omega

/-- The state in which the copy strand has started. -/
def State.forking (s : State) (a : BitVec 4) (wc : Nat) (pc : Word) : State :=
  (((s.setW a 0).setCtx (copyBase + s.here) (s.cx.forked wc pc)).endFwd s.cur).setSeq s.here (fun _ => ⟨.running, s.cur, wc, 0⟩)

/-- What FORK demands of the strand's workspace. -/
structure State.forkable (s : State) (wc : Nat) : Prop where
  align : wc % 128 = 0
  low : 128 ≤ wc
  high : wc + 128 ≤ 0x20000
  queue : inArea s.mem.qbase (wc - 64) 192 = none
  free : touches [(wc - 64, 192)] ((s.cidsOn s.here).map (fun i => ((s.ctx i).wp - 64, 64 + (s.ctx i).foot))) = false

section

variable {a b c : BitVec 4} {imm : BitVec 6} (hs : s.calm = true)

include hs

theorem fork_eq (h : s.forkable (s.w c).toNat) : exec (.fork a b c imm) s =
    if (s.core s.here).seq.state ≠ .idle ∨ s.seqReserved s.here then done (s.setW a (toWord (2 ^ 63 + 1)))
    else done (s.forking a (s.w c).toNat (s.w b)) := by
  obtain ⟨halign, hlow, hhigh, hqueue, hfree⟩ := h
  rw [exec_fork, execFork, reading_calm s hs]
  dsimp only
  rw [if_neg (by omega), if_neg (by rw [hfree]; simp; omega), hqueue]
  dsimp only
  rw [if_neg (c := ¬ s.drained s.cur = true) (by rw [s.calm_drained hs]; decide)]
  rfl

theorem State.forking_leaves (hcopy : isCopy s.cur = false) (wc : Nat) (pc : Word) :
    (s.forking a wc pc).advance.w a = 0 ∧ ((s.forking a wc pc).advance.core s.here).seq = ⟨.running, s.cur, wc, 0⟩ ∧
      (s.forking a wc pc).advance.ctx (copyBase + s.here) = s.cx.forked wc pc ∧
      (s.forking a wc pc).advance.cx.pc = succPc s.cx.line s.cx.pc := by
  have hne := State.cur_ne_strand hcopy s.here
  have hcx : (s.forking a wc pc).cx = s.cx :=
    (aside_cx.setCore _ _ _).trans ((aside_cx.endFwd _ _).trans ((s.setW a 0).cx_setCtx_ne hne _))
  have hpoint : SamePoint s (s.forking a wc pc) := ⟨rfl, by rw [hcx], by rw [hcx], by rw [hcx]⟩
  have hrep := hpoint.rep.trans (s.calm_rep hs)
  refine ⟨?_, ?_, ?_, (hpoint.advance_pc (s.calm_rep hs)).2⟩
  · rw [State.advance_w _ hrep]
    exact ((aside_w a).setCore _ _ _).trans (((aside_w a).endFwd _ _).trans (((s.setW a 0).w_setCtx_ne hne _ a).trans (s.w_setW_self a 0)))
  · rw [State.advance_keeps (fun t => t.core s.here) (fun _ _ => rfl) hrep, State.forking, State.setSeq, State.core_setCore_self]
  · rw [State.advance_eq _ hrep, State.ctx_setCx_ne (s := s.forking a wc pc) _ hne]
    exact ((aside_ctx _).setCore _ _ _).trans (((aside_ctx _).endFwd _ _).trans (State.ctx_setCtx_self _ _ _))

end

theorem rdv_holder {a b c : BitVec 4} {imm : BitVec 6} (hcopy : isCopy s.cur = false) :
    exec (.rdv a b c imm) s = rdvHolder a s := by
  rw [exec_rdv, execRdv, hcopy, if_neg (by decide)]

theorem Ctx.forked_fields (c : Ctx) (wc : Nat) (pc : Word) :
    (c.forked wc pc).pc = pc ∧ (c.forked wc pc).wp = wc ∧ (c.forked wc pc).state = .running := ⟨rfl, rfl, rfl⟩

/-- The state in which the copy strand of the core is gone and its result written. -/
def State.rendezvous (s : State) (a : BitVec 4) : State := (s.freeSeq s.here).setW a (s.core s.here).seq.result

theorem State.rendezvous_leaves (hrep : s.cx.rep = none) (hcopy : isCopy s.cur = false) (a : BitVec 4) :
    (s.rendezvous a).advance.w a = (s.core s.here).seq.result ∧ ((s.rendezvous a).advance.core s.here).seq.state = .idle ∧
      mget (s.rendezvous a).advance.ctxs (copyBase + s.here) = none := by
  have hne := State.cur_ne_strand hcopy s.here
  have hcx : (s.rendezvous a).cx = s.cx := congrArg (fun o => o.getD Ctx.blank) (mget_mdel_ne s.ctxs hne.symm)
  have hr : (s.rendezvous a).cx.rep = none := by rw [hcx]; exact hrep
  refine ⟨?_, ?_, ?_⟩
  · rw [State.advance_w _ hr, State.rendezvous, State.w_setW_self]
  · rw [State.advance_keeps (fun t => t.core s.here) (fun _ _ => rfl) hr]
    exact congrArg (fun k : Core => k.seq.state) (State.core_setCore_self _ _ _)
  · rw [State.advance_eq _ hr]
    exact (mget_mput_ne _ _ hne).trans (mget_mdel_self _ _)

/-! ## Commands are queued, and their outcomes read -/

/-- The state in which a command is queued. -/
def State.withCopy (s : State) (x : Copy) : State :=
  { (s.endFwd s.cur).setCore s.here
      { (s.endFwd s.cur).core s.here with copies := ((s.endFwd s.cur).core s.here).copies ++ [x] } with uid := s.uid + 1 }

theorem State.withCopy_copies (s : State) (x : Copy) : ((s.withCopy x).core s.here).copies = (s.core s.here).copies ++ [x] := by
  have hself : (s.withCopy x).core s.here =
      { (s.endFwd s.cur).core s.here with copies := ((s.endFwd s.cur).core s.here).copies ++ [x] } := State.core_setCore_self _ _ _
  rw [hself, State.core_endFwd]
  rfl

theorem State.samePoint_withCopy (s : State) (x : Copy) : SamePoint s (s.withCopy x) := .of_ctxs rfl rfl

theorem State.drained_idle (hr : s.reqs = []) (hf : s.flights = []) (cid : Nat) (sys : Bool) : s.drained cid sys = true := by
  simp [State.drained, State.covered, hr, State.linkReqs_nil hf]

theorem copyIssue_ok {u : State} {i : Instr} {tr : Bool} {a b : BitVec 4} {r : List Nat} (hs : s.calm = true)
    (hal : (s.w b).toNat % 32 = 0) (hread : s.readsDws (s.w b).toNat 4 r u)
    (hlegal : (u.command tr ((s.w a).toNat % 2 ^ 32) r).illegal (r.getD 3 0) = false)
    (hstraight : (u.command tr ((s.w a).toNat % 2 ^ 32) r).crooked = none)
    (hdev : (u.command tr ((s.w a).toNat % 2 ^ 32) r).dev = 0 ∨
      (u.handleOf (u.command tr ((s.w a).toNat % 2 ^ 32) r).dev).isSome = true) (hroom : u.classC u.cur < 16) :
    copyIssue i tr a b s = .next (u.withCopy (u.command tr ((s.w a).toNat % 2 ^ 32) r)).advance := by
  obtain ⟨hr, -, hf, -⟩ := s.calm_parts hs
  have hused := State.readsAt.used hread
  have hw : u.w a = s.w a := hused.w a
  have hureqs : u.reqs = [] := (hused.aside State.reqs aside_reqs (fun _ _ => rfl)).trans hr
  have hvalid (h : (u.command tr ((s.w a).toNat % 2 ^ 32) r).dev ≠ 0 ∧
      (u.handleOf (u.command tr ((s.w a).toNat % 2 ^ 32) r).dev).isNone = true) : False :=
    hdev.elim h.1 fun hsome => by
      rw [Option.isNone_iff_eq_none] at h
      rw [h.2] at hsome
      cases hsome
  unfold copyIssue
  rw [reading_calm s hs]
  dsimp only
  rw [if_neg (by omega), loading_ok s hread]
  rw [hw, hlegal, hstraight]
  dsimp only
  rw [if_neg (by decide), if_neg hvalid, State.drained_idle hureqs (hused.flights.trans hf), if_neg (by simp; exact hroom)]
  rfl

theorem copyIssue_leaves {u : State} {r : List Nat} {addr n : Nat} (hs : s.calm = true) (hread : s.readsDws addr n r u) (x : Copy) :
    ((u.withCopy x).advance.core s.here).copies = [x] ∧ (u.withCopy x).advance.cx.pc = succPc s.cx.line s.cx.pc := by
  obtain ⟨-, -, -, -, -, -, -, hc, -⟩ := s.calm_parts hs
  have hused := State.readsAt.used hread
  have hpoint := hused.samePoint.trans (u.samePoint_withCopy x)
  have hcopies : (u.core s.here).copies = (s.core s.here).copies :=
    State.readsAt.core (q := fun k : Core => k.copies) (fun _ _ => rfl) (fun _ _ => rfl) (fun _ _ => rfl) hread s.here
  refine ⟨?_, (hpoint.advance_pc (s.calm_rep hs)).2⟩
  rw [State.advance_keeps (fun t => t.core s.here) (fun _ _ => rfl) (hpoint.rep.trans (s.calm_rep hs)), ← hused.here,
    State.withCopy_copies, hused.here, hcopies, hc, List.nil_append]

theorem cevq_eq {a b c : BitVec 4} {imm : BitVec 6} (hs : s.calm = true) (hodd : odd a = false) : exec (.cevq a b c imm) s =
    if (s.ctx s.evqCid).fld 0x081 32 16 ≠ (s.ctx s.evqCid).fld 0x081 48 16 then
      done ((s.setCtx s.evqCid ((s.ctx s.evqCid).setFld 0x081 32 16 ((s.ctx s.evqCid).fld 0x081 32 16 + 1))).setPair a
        (s.rdS s.here (evqAt ((s.ctx s.evqCid).get 0x081) ((s.ctx s.evqCid).fld 0x081 32 16)) 16))
    else if bitAt imm.toNat 0 then blocked s .cevq
    else done (s.setPair a (2 ^ 64 - 1)) := by
  rw [exec_cevq, execCevq, checked_opIf_false (decodeCause_cevq a b c imm s) hodd, s.calm_gated hs, if_neg (by decide)]
  dsimp only
  rw [s.badS_sound (s.calm_sound hs), s.softS_sound (s.calm_sound hs)]
  dsimp only
  rw [counting_zero]

/-! ## The steps of a command -/

theorem copyStart_ok {core : Nat} {c : Copy} (hpick : pick (fun x => !x.started && x.outcome.isNone) (s.core core).copies = some c)
    (hstill : (upTo c.count).any (fun i => (c.accs i).any (fun a => s.sideOf c a.2.2 == .here &&
        s.engAt { c with left := upTo c.count, due := s.cycles + c.due } a.1 a.2.1 a.2.2 == .wait)) = false) :
    exec (.copyCommandStart core) s =
      if c.overlaps then
        .next (s.setCopy core { c with
          started := true, left := [], walk := [], due := s.cycles + c.due, outcome := some (3, c.dst.toNat) })
      else
        let d : Copy := { c with started := true, left := upTo c.count, due := s.cycles + c.due }
        let x := (s.engOut d).engSeek d
        let y := x.1.engMove x.2 (Config.copyWrote c.id)
        .next (y.1.setCopy core y.2) := by
  rw [exec_copyCommandStart, execCopyCommandStart, hpick]
  dsimp only
  exact if_neg (by rw [Bool.not_eq_true]; exact hstill)

theorem copyComplete_reports {core : Nat} {c : Copy} {o : Nat × Nat} {t : State}
    (hpick : pick (fun x => x.id == c.id) (s.core core).copies = some c) (ho : c.outcome = some o) (ht : s.report core c o = some t) :
    exec (.copyCommandComplete core c.id) s = .next (t.endCopy core c) := by
  rw [exec_copyCommandComplete, execCopyCommandComplete, hpick]
  dsimp only
  rw [ho]
  dsimp only
  rw [ht]

theorem State.endCopy_core (t : State) (core : Nat) (c : Copy) :
    (t.endCopy core c).core core = { t.core core with copies := (t.core core).copies.filter (fun x => x.id != c.id) } := by
  rw [State.endCopy, State.progress_keeps (fun u => u.core core) (fun _ _ => rfl)]
  exact State.core_setCore_self _ _ _

/-- A command all of whose doublewords are moved seeks nothing more. -/
theorem State.engSeek_nil {c : Copy} (hleft : c.left = []) : s.engSeek c = (s, { c with walk := [], xl := c.xl.eraseDups }) := by
  unfold State.engSeek
  rw [hleft]
  simp

theorem State.engMove_nil {c : Copy} (hleft : c.left = []) (p : Nat → Bool) : s.engMove c p = (s, c) := by
  unfold State.engMove
  simp only [hleft, List.filter_nil, List.foldl_nil]
  exact congrArg (fun l => (s, { c with left := l })) hleft.symm

theorem State.copyEnd_here {c : Copy} (hleft : c.left = []) (hsrc : s.sideOf c .load = .here) (hdst : s.sideOf c .store = .here) :
    s.copyEnd c = some (0, c.count) := by
  unfold State.copyEnd
  rw [hsrc, hdst, hleft]
  rfl

theorem copyComplete_moved {core : Nat} {c : Copy} {t : State}
    (hpick : pick (fun x => x.id == c.id) (s.core core).copies = some c) (ho : c.outcome = none) (hstart : c.started = true)
    (hleft : c.left = []) (hsrc : s.sideOf c .load = .here) (hdst : s.sideOf c .store = .here)
    (ht : s.report core { c with walk := [], xl := c.xl.eraseDups, outcome := some (0, c.count) } (0, c.count) = some t) :
    exec (.copyCommandComplete core c.id) s =
      .next (t.endCopy core { c with walk := [], xl := c.xl.eraseDups, outcome := some (0, c.count) }) := by
  have hbad : s.copyBad c = none := by rw [State.copyBad, hleft]; rfl
  have hend : s.copyEnd { c with walk := [], xl := c.xl.eraseDups } = some (0, c.count) :=
    State.copyEnd_here hleft hsrc hdst
  have hout : s.copyOut core { c with walk := [], xl := c.xl.eraseDups } (0, c.count) =
      (s, { c with walk := [], xl := c.xl.eraseDups, outcome := some (0, c.count) }) := by
    rw [State.copyOut, if_neg (show ¬ 0 = 4 by decide), ← hleft]
  rw [exec_copyCommandComplete, execCopyCommandComplete, hpick]
  dsimp only
  rw [ho]
  dsimp only
  rw [if_neg (by rw [hstart]; decide), hbad]
  dsimp only
  rw [State.engSeek_nil hleft]
  dsimp only
  rw [State.engMove_nil (c := { c with walk := [], xl := c.xl.eraseDups }) hleft]
  dsimp only
  rw [hend]
  dsimp only
  rw [hout]
  dsimp only
  rw [ht]

/-- Settles O29: the copy strand starts and ends, a command is queued as its record says, and a step of it does what the engine does. -/
theorem copyResult : Obligations.CopyResult := by
  unfold Obligations.CopyResult
  refine ⟨?_, ?_, ?_⟩
  · intro s a b c imm hs q wc
    refine ⟨fun hcopy => ?_, fun hcopy hal hlow hhigh hqueue hfree => ?_, fun hcopy hnone => ?_, fun hcopy hended hmine => ?_,
      fun hcopy hruns hmine => ?_⟩
    · exact ⟨_, rdv_copy hs hcopy, State.strandEnded_seq (s.calm_rep hs) a⟩
    · have hfork : s.forkable (s.w c).toNat := ⟨hal, hlow, hhigh, hqueue, hfree⟩
      refine ⟨fun hidle hkept => ?_, fun hbusy => ?_⟩
      · obtain ⟨hw, hseq, hstrand, hpc⟩ := State.forking_leaves (a := a) hs hcopy (s.w c).toNat (s.w b)
        obtain ⟨hspc, hswp, hsstate⟩ := s.cx.forked_fields (s.w c).toNat (s.w b)
        refine ⟨(s.forking a (s.w c).toNat (s.w b)).advance, ?_, hw, hseq, by rw [hstrand, hspc], by rw [hstrand, hswp],
          by rw [hstrand, hsstate], hpc⟩
        rw [fork_eq hs hfork, if_neg (by rw [hkept]; simpa using hidle), done_eq]
      · rw [fork_eq hs hfork, if_pos hbusy, done_eq]
        rfl
    · rw [rdv_holder hcopy, rdvHolder]
      exact if_pos hnone
    · obtain ⟨hw, hseq, hgone⟩ := State.rendezvous_leaves (s.calm_rep hs) hcopy a
      refine ⟨(s.rendezvous a).advance, ?_, hw, hseq, hgone⟩
      rw [rdv_holder hcopy, rdvHolder, if_neg (by rw [hended, hmine]; simp), hended]
      rfl
    · have hblock (st : SeqState) (hst : (s.core s.here).seq.state = st) (h : st = .running ∨ st = .blocked) :
          rdvHolder a s = .next (s.block .rdv) := by
        rw [rdvHolder, hst, if_neg (by rw [hmine]; rcases h with rfl | rfl <;> simp)]
        rcases h with rfl | rfl <;> rfl
      exact (rdv_holder hcopy).trans (hblock _ rfl hruns)
  · intro s u a b c imm tr r hs
    refine ⟨?_, ?_⟩
    · intro addr x hal hread hlegal hstraight hdev hroom
      refine ⟨_, ?_, copyIssue_leaves hs hread x⟩
      cases tr
      · exact copyIssue_ok hs hal hread hlegal hstraight hdev hroom
      · exact copyIssue_ok hs hal hread hlegal hstraight hdev hroom
    · intro hodd h q
      refine ⟨fun hsome => ?_, fun hempty => ⟨fun hpoll => ?_, fun hwait => ?_⟩⟩
      · rw [cevq_eq hs hodd, if_pos hsome, done_eq]
      · rw [cevq_eq hs hodd, if_neg (not_not.2 hempty), if_neg (by rw [hpoll]; decide), done_eq]
      · rw [cevq_eq hs hodd, if_neg (not_not.2 hempty), if_pos hwait, blocked_eq]
  · intro s t core c
    refine ⟨?_, ?_, ?_⟩
    · intro hpick d hstill
      refine ⟨fun hover => ?_, fun hclear => ?_⟩
      · exact (copyStart_ok hpick hstill).trans (if_pos hover)
      · exact (copyStart_ok hpick hstill).trans (if_neg (by rw [hclear]; decide))
    · exact fun o hpick ho ht => ⟨copyComplete_reports hpick ho ht, t.endCopy_core core c⟩
    · exact fun hpick ho hstart hleft hsrc hdst => copyComplete_moved hpick ho hstart hleft hsrc hdst

end Sys2Proof.Machine

/-! PROOFS. Vector instructions (07 R135 to R150): what those that compute leave, and the trap of a context without the extension. -/

namespace Sys2Proof.Machine

variable {s : State} {i : Instr}

/-! ## The forms -/

theorem checked_vec {bad : Bool} (hvx : s.cx.vx = true) (hd : decodeCause s i = vecThen s bad) (hbad : bad = false) (k : Out) :
    checked i s k = k :=
  checked_ok s (by rw [hd, vecThen, if_neg (by rw [hvx]; decide), hbad]; rfl) k

theorem readingV_calm (hs : s.calm = true) (offs : List (Nat × Nat)) (k : State → Out) : readingV offs s k = k s := by
  have hpick : pick (fun o : Nat × Nat => (s.badS s.here o.1 o.2).isSome) offs = none :=
    pick_none.2 fun o _ => by rw [s.badS_sound (s.calm_sound hs)]; rfl
  have hsoft : (offs.eraseDups.map (fun o => s.softS s.here o.1 o.2)).sum = 0 := by
    rw [List.sum_eq_zero]
    intro x hx
    obtain ⟨o, -, rfl⟩ := List.mem_map.1 hx
    exact s.softS_sound (s.calm_sound hs) _ _ _
  unfold readingV
  rw [hpick]
  dsimp only
  rw [hsoft, counting_zero]

/-- An instruction that passes its checks is its body. -/
theorem exec_checked {bad : Bool} {k : Out} (hvx : s.cx.vx = true) (hd : decodeCause s i = vecThen s bad) (hbad : bad = false)
    (he : exec i s = checked i s k) : exec i s = k := he.trans (checked_vec hvx hd hbad k)

/-- It leaves what its body leaves. -/
theorem vec_leaves {bad : Bool} {k : Out} {t u : State} (hvx : s.cx.vx = true) (hd : decodeCause s i = vecThen s bad)
    (hbad : bad = false) (he : exec i s = checked i s k) (hk : k = .next u.advance) (hu : some u = some t) :
    exec i s = .next t.advance := by
  rw [exec_checked hvx hd hbad he, hk, Option.some.inj hu]

section

variable (hs : s.calm = true)

include hs

theorem readingV_done (offs : List (Nat × Nat)) (f : State → State) : readingV offs s (fun s => done (f s)) = .next (f s).advance := by
  rw [readingV_calm hs, done_eq]

theorem vreading_done (k : BitVec 3) (srcs : List (BitVec 5)) (f : State → State) :
    vreading k srcs s (fun s => done (f s)) = .next (f s).advance := readingV_done hs _ f

theorem reading_vreading_done (rs : List (BitVec 4)) (k : BitVec 3) (srcs : List (BitVec 5)) (f : State → State) :
    reading rs s (vreading k srcs · fun s => done (f s)) = .next (f s).advance := by
  rw [reading_calm s hs, vreading_done hs]

end

section

variable {a b : BitVec 4} {vd va vb : BitVec 5} {k : BitVec 3} {md : BitVec 8} {t : State} (hs : s.calm = true) (hvx : s.cx.vx = true)

include hs hvx

theorem exec_vpack (h : vecOf s (.vpack a b vd va vb k md) = some t) : exec (.vpack a b vd va vb k md) s = .next t.advance := by
  have hgroup : misgroup va (if md = 0 then 4 else 2) = false := by
    by_contra hbad
    rw [Bool.not_eq_false] at hbad
    rw [vecOf, if_pos hbad] at h
    cases h
  rw [vecOf, if_neg (by rw [hgroup]; decide)] at h
  refine (exec_checked hvx rfl hgroup rfl).trans ?_
  by_cases h0 : md = 0
  · rw [if_pos h0] at h ⊢
    rw [readingV_done hs, Option.some.inj h]
  · rw [if_neg h0] at h ⊢
    by_cases h1 : md = 1
    · rw [if_pos h1] at h ⊢
      rw [readingV_done hs, Option.some.inj h]
    · rw [if_neg h1] at h ⊢
      rw [reading_calm s hs, readingV_calm hs, ← Option.some.inj h]
      rfl

theorem exec_vunpk (h : vecOf s (.vunpk a b vd va vb k md) = some t) : exec (.vunpk a b vd va vb k md) s = .next t.advance := by
  have hgroup : misgroup vd (if bitsOf md.toNat 0 2 = 0 then 4 else 2) = false := by
    by_contra hbad
    rw [Bool.not_eq_false] at hbad
    rw [vecOf, if_pos hbad] at h
    cases h
  rw [vecOf, if_neg (by rw [hgroup]; decide)] at h
  refine (exec_checked hvx rfl hgroup rfl).trans ?_
  by_cases hq : bitsOf md.toNat 0 2 = 2
  · rw [if_pos hq] at h ⊢
    rw [reading_calm s hs, readingV_done hs, Option.some.inj h]
  · rw [if_neg hq] at h ⊢
    rw [← Option.some.inj h]
    exact readingV_done hs _ _

theorem exec_vrnd (h : vecOf s (.vrnd a b vd va vb k md) = some t) : exec (.vrnd a b vd va vb k md) s = .next t.advance := by
  rw [vecOf] at h
  refine (exec_checked hvx rfl rfl rfl).trans ?_
  rw [reading_calm s hs]
  by_cases hkeep : md = 2
  · rw [if_pos hkeep] at h ⊢
    rw [← Option.some.inj h, vreading, readingV_calm hs]
    exact readingV_done hs _ _
  · rw [if_neg hkeep] at h ⊢
    rw [← Option.some.inj h]
    exact vreading_done hs _ _ _

theorem exec_vscanLin (h : vecOf s (.vscanLin a b vd va vb k md) = some t) :
    exec (.vscanLin a b vd va vb k md) s = .next t.advance := by
  have hgroup : (misgroup vd 2 || misgroup va 2) = false := by
    by_contra hbad
    rw [Bool.not_eq_false] at hbad
    rw [vecOf, if_pos hbad] at h
    cases h
  rw [vecOf, if_neg (by rw [hgroup]; decide)] at h
  exact vec_leaves hvx rfl hgroup rfl (readingV_done hs _ _) h

theorem exec_vcarry (h : vecOf s (.vcarry a b vd va vb k md) = some t) : exec (.vcarry a b vd va vb k md) s = .next t.advance := by
  have hgroup : ¬ (md = 2 ∧ misgroup va 2 = true) := by
    intro hbad
    rw [vecOf, if_pos hbad] at h
    cases h
  rw [vecOf, if_neg hgroup] at h
  have hpair : (md == 2 && misgroup va 2) = false := by simpa using hgroup
  refine (exec_checked hvx rfl hpair rfl).trans ?_
  rw [reading_calm s hs, readingV_calm hs, ← Option.some.inj h]
  rfl

end

/-- What a vector instruction leaves is what its rule gives (07 R139 to R150). -/
theorem exec_vec {t : State} (hs : s.calm = true) (hvx : s.cx.vx = true) (h : vecOf s i = some t) : exec i s = .next t.advance := by
  unfold vecOf at h
  split at h
  -- lanes from the same lanes, comparisons, permutations, scans and reductions
  case h_1 | h_2 | h_3 | h_4 | h_5 | h_6 | h_7 | h_8 | h_9 | h_10 | h_11 | h_12 | h_13 | h_14 | h_15 | h_16 | h_17 | h_18 |
      h_19 | h_20 | h_21 | h_22 | h_23 | h_24 | h_25 | h_26 | h_27 | h_28 | h_29 | h_30 | h_31 | h_37 | h_41 | h_43 | h_44 |
      h_46 | h_47 | h_49 | h_50 =>
    exact vec_leaves hvx rfl rfl rfl (vreading_done hs _ _ _) h
  -- masks
  case h_32 | h_33 | h_34 | h_35 | h_36 => exact vec_leaves hvx rfl rfl rfl (readingV_done hs _ _) h
  case h_38 => exact exec_vpack hs hvx h
  case h_39 => exact exec_vunpk hs hvx h
  case h_40 => exact exec_vrnd hs hvx h
  case h_48 => exact exec_vscanLin hs hvx h
  case h_51 => exact exec_vcarry hs hvx h
  -- broadcast of a scalar register to the lanes, to one lane
  case h_42 => exact vec_leaves hvx rfl rfl rfl (reading_vreading_done hs _ _ _ _) h
  case h_45 => exact vec_leaves hvx rfl rfl rfl ((reading_calm s hs _ _).trans (done_eq _)) h
  case h_52 => cases h

/-! ## Without the extension -/

/-- An instruction whose checks begin with that of the vector extension (03 R72, R74). -/
def State.needsVector (s : State) (i : Instr) : Prop := ∃ bad k, decodeCause s i = vecThen s bad ∧ exec i s = checked i s k

theorem State.needsVector.refused (h : s.needsVector i) (hvx : s.cx.vx = false) :
    exec i s = .next (s.takeTrap 0x05 (s.asWritten (encWord i)) s.cx.pc) := by
  obtain ⟨bad, k, hd, he⟩ := h
  rw [he]
  exact checked_trap s (by rw [hd, vecThen, if_pos (by rw [hvx]; decide)]; rfl) (by decide) k

section

variable {n : Nat} {a b c : BitVec 4} {vd va vb : BitVec 5} {k : BitVec 3} {md : BitVec 8} {imm : BitVec 22}

theorem needsVector_decVint (h : decVint n a b vd va vb k md = some i) : s.needsVector i := by
  unfold decVint at h
  split at h <;> cases h <;> exact ⟨_, _, rfl, rfl⟩

theorem needsVector_decVfp (h : decVfp n a b vd va vb k md = some i) : s.needsVector i := by
  unfold decVfp at h
  split at h <;> cases h <;> exact ⟨_, _, rfl, rfl⟩

theorem needsVector_decVcmp (h : decVcmp n a b vd va vb k md = some i) : s.needsVector i := by
  unfold decVcmp at h
  split at h <;> cases h <;> exact ⟨_, _, rfl, rfl⟩

theorem needsVector_decVcvt (h : decVcvt n a b vd va vb k md = some i) : s.needsVector i := by
  unfold decVcvt at h
  split at h <;> cases h <;> exact ⟨_, _, rfl, rfl⟩

theorem needsVector_decVmem (h : decVmem n a b vd va vb k md = some i) : s.needsVector i := by
  unfold decVmem at h
  split at h <;> cases h <;> exact ⟨_, _, rfl, rfl⟩

theorem needsVector_decVperm (h : decVperm n a b vd va vb k md = some i) : s.needsVector i := by
  unfold decVperm at h
  split at h <;> cases h <;> exact ⟨_, _, rfl, rfl⟩

theorem needsVector_decVscan (h : decVscan n a b vd va vb k md = some i) : s.needsVector i := by
  unfold decVscan at h
  split at h <;> cases h <;> exact ⟨_, _, rfl, rfl⟩

theorem needsVector_decMma (h : decMma n a b vd va vb k md = some i) : s.needsVector i := by
  unfold decMma at h
  split at h <;> cases h <;> exact ⟨_, _, rfl, rfl⟩

theorem needsVector_decTile (h : decTile n a b vd va vb k md = some i) : s.needsVector i := by
  unfold decTile at h
  split at h <;> cases h <;> exact ⟨_, _, rfl, rfl⟩

theorem needsVector_decRep (h : decRep n a b c imm = some i) : s.needsVector i := by
  unfold decRep at h
  split at h <;> cases h
  exact ⟨_, _, rfl, rfl⟩

end

theorem formV_some {f : Nat → BitVec 4 → BitVec 4 → BitVec 5 → BitVec 5 → BitVec 5 → BitVec 3 → BitVec 8 → Option Instr}
    {hd tl : Nat} (h : formV f hd tl = some i) : ∃ n a b vd va vb k md, f n a b vd va vb k md = some i := by
  unfold formV at h
  split at h
  · exact ⟨_, _, _, _, _, _, _, _, h⟩
  · cases h

theorem formM_some {f : Nat → BitVec 4 → BitVec 4 → BitVec 4 → BitVec 22 → Option Instr} {hd tl : Nat}
    (h : formM f hd tl = some i) : ∃ n a b c imm, f n a b c imm = some i := by
  unfold formM at h
  split at h
  · exact ⟨_, _, _, _, _, h⟩
  · cases h

/-- Every instruction of majors 0x30 to 0x39 needs the extension (03 R75). -/
theorem needsVector_of_decodeRaw {hd tl : Nat} (h : decodeRaw hd tl = some i) (hlo : 0x30 ≤ bitsOf hd 2 6)
    (hhi : bitsOf hd 2 6 ≤ 0x39) : s.needsVector i := by
  have hform (f) (hf : formV f hd tl = some i) (hall : ∀ n a b vd va vb k md, f n a b vd va vb k md = some i → s.needsVector i) :
      s.needsVector i := by
    obtain ⟨n, a, b, vd, va, vb, k, md, hi⟩ := formV_some hf
    exact hall n a b vd va vb k md hi
  have hnear : decodeNear hd tl = some i := by
    unfold decodeRaw at h
    split at h
    next hmaj => omega
    next hmaj => omega
    next => exact h
  unfold decodeNear at hnear
  split at hnear
  case h_35 => exact hform _ hnear fun _ _ _ _ _ _ _ _ => needsVector_decVint
  case h_36 => exact hform _ hnear fun _ _ _ _ _ _ _ _ => needsVector_decVfp
  case h_37 => exact hform _ hnear fun _ _ _ _ _ _ _ _ => needsVector_decVcmp
  case h_38 => exact hform _ hnear fun _ _ _ _ _ _ _ _ => needsVector_decVcvt
  case h_39 => exact hform _ hnear fun _ _ _ _ _ _ _ _ => needsVector_decVmem
  case h_40 => exact hform _ hnear fun _ _ _ _ _ _ _ _ => needsVector_decVperm
  case h_41 => exact hform _ hnear fun _ _ _ _ _ _ _ _ => needsVector_decVscan
  case h_42 =>
    obtain ⟨n, a, b, c, imm, hi⟩ := formM_some hnear
    exact needsVector_decRep hi
  case h_43 => exact hform _ hnear fun _ _ _ _ _ _ _ _ => needsVector_decMma
  case h_44 => exact hform _ hnear fun _ _ _ _ _ _ _ _ => needsVector_decTile
  case h_48 => cases hnear
  all_goals omega

/-- Settles O30: each instruction goes by the form of its family; without the extension the first check refuses it. -/
theorem vectorResult : Obligations.VectorResult := by
  unfold Obligations.VectorResult
  exact ⟨fun s t i hs hvx ht => exec_vec hs hvx ht, fun s i h t he hlo hhi hvx =>
    (needsVector_of_decodeRaw (decodeRaw_encode he) hlo hhi).refused hvx⟩

/-! ## Lanes written and lanes kept -/

/-- One lane of a vector write. -/
def State.setLane (s : State) (r : Nat) (x : Option Nat × Nat) : State :=
  match x.1 with
  | some v => s.wrS s.here (s.cx.vOff r + 4 * x.2) 4 v
  | none => s

theorem State.setV_eq (s : State) (r : Nat) (vals : List (Option Nat)) :
    s.setV r vals = (vals.zip (upTo 16)).foldl (fun t x => t.setLane r x) s := rfl

/-- A part of the state that scratchpad writes keep. -/
theorem State.setLane_keeps {α : Type} {p : State → α} (hwr : ∀ (t : State) (core off n v : Nat), p (t.wrS core off n v) = p t)
    (s : State) (r : Nat) (x : Option Nat × Nat) : p (s.setLane r x) = p s := by
  unfold State.setLane
  split
  · exact hwr s _ _ _ _
  · rfl

theorem State.setV_keeps {α : Type} {p : State → α} (hwr : ∀ (t : State) (core off n v : Nat), p (t.wrS core off n v) = p t)
    (s : State) (r : Nat) (vals : List (Option Nat)) : p (s.setV r vals) = p s := by
  rw [State.setV_eq]
  exact foldl_keeps (f := fun t x => t.setLane r x) (p := p) (fun t x => State.setLane_keeps hwr t r x) (vals.zip (upTo 16)) s

/-- What lane j of a vector register holds. -/
def State.laneWord (s : State) (r j : Nat) : Nat := s.rdS s.here (s.cx.vOff r + 4 * j) 4

theorem State.laneWord_setLane_self (s : State) (r v j : Nat) : (s.setLane r (some v, j)).laneWord r j = v % 2 ^ 32 :=
  s.rdS_wrS_self _ _ 4 v

theorem State.laneWord_setLane_ne (s : State) (r : Nat) {x : Option Nat × Nat} {j : Nat} (h : x.2 ≠ j) :
    (s.setLane r x).laneWord r j = s.laneWord r j := by
  unfold State.setLane
  split
  next v _ =>
    have hne : (s.wrS s.here (s.cx.vOff r + 4 * x.2) 4 v).rdS s.here (s.cx.vOff r + 4 * j) 4 = s.rdS s.here (s.cx.vOff r + 4 * j) 4 :=
      State.rdS_wrS_ne s (by unfold spadKey; omega)
    exact hne
  next => rfl

/-- A lane that no entry names is kept. -/
theorem State.laneWord_foldl_keeps (r j : Nat) (xs : List (Option Nat × Nat)) (h : ∀ x ∈ xs, x.2 ≠ j) (s : State) :
    (xs.foldl (fun t x => t.setLane r x) s).laneWord r j = s.laneWord r j := by
  induction xs generalizing s with
  | nil => rfl
  | cons x xs ih =>
    rw [List.foldl_cons, ih (fun y hy => h y (List.mem_cons_of_mem x hy)), s.laneWord_setLane_ne r (h x List.mem_cons_self)]

/-- A lane that one entry names takes its value, or is kept where the entry has none. -/
theorem State.laneWord_foldl (r j : Nat) (xs : List (Option Nat × Nat)) (hnd : (xs.map (fun x => x.2)).Nodup) {y : Option Nat}
    (hy : (y, j) ∈ xs) (s : State) :
    (xs.foldl (fun t x => t.setLane r x) s).laneWord r j = (y.map (fun v => v % 2 ^ 32)).getD (s.laneWord r j) := by
  induction xs generalizing s with
  | nil => cases hy
  | cons x xs ih =>
    rw [List.map_cons, List.nodup_cons] at hnd
    obtain ⟨hnot, hrest⟩ := hnd
    rw [List.foldl_cons]
    rcases List.mem_cons.1 hy with rfl | hin
    · rw [State.laneWord_foldl_keeps r j xs fun z hz he => hnot (List.mem_map.2 ⟨z, hz, he⟩)]
      cases y with
      | some v => exact s.laneWord_setLane_self r v j
      | none => rfl
    · have hne : x.2 ≠ j := fun he => hnot (he ▸ List.mem_map.2 ⟨(y, j), hin, rfl⟩)
      rw [ih hrest hin, s.laneWord_setLane_ne r hne]

/-- The lanes of a vector register after a write of some of them. -/
theorem State.laneWord_setV (s : State) (r : Nat) (g : Nat → Option Nat) {j : Nat} (hj : j < 16) :
    (s.setV r ((upTo 16).map g)).laneWord r j = ((g j).map (fun v => v % 2 ^ 32)).getD (s.laneWord r j) := by
  have hzip : ((upTo 16).map g).zip (upTo 16) = (upTo 16).map (fun j => (g j, j)) := by
    rw [List.zip_map_left, ← List.map_id (upTo 16), List.zip_map', List.map_map, List.map_map]
    rfl
  rw [State.setV_eq, hzip]
  have hmem : (g j, j) ∈ (upTo 16).map (fun j => (g j, j)) := List.mem_map.2 ⟨j, List.mem_range.2 hj, rfl⟩
  refine State.laneWord_foldl r j _ ?_ hmem s
  have hid : (fun x : Option Nat × Nat => x.2) ∘ (fun j => (g j, j)) = id := rfl
  rw [List.map_map, hid, List.map_id]
  exact List.nodup_range

/-- No byte outside the register changes. -/
theorem State.byteAt_setV (s : State) (r : Nat) (g : Nat → Option Nat) (hfit : s.cx.vOff r + 64 ≤ 131072) {core off : Nat}
    (hoff : off < 131072) (hout : ¬ span s.here (s.cx.vOff r) 64 core off) :
    byteAt (s.setV r ((upTo 16).map g)).spad (spadKey core off) = byteAt s.spad (spadKey core off) := by
  have hlane (t : State) (hhere : t.here = s.here) (hcx : t.cx = s.cx) (x : Option Nat × Nat) (hx : x.2 < 16) :
      byteAt (t.setLane r x).spad (spadKey core off) = byteAt t.spad (spadKey core off) := by
    unfold State.setLane
    split
    · refine State.byteAt_wrS_ne t ?_
      rw [hhere, hcx]
      unfold span at hout
      unfold spadKey
      omega
    · rfl
  have hlanes (xs : List (Option Nat × Nat)) (hxs : ∀ x ∈ xs, x.2 < 16) (t : State) (hhere : t.here = s.here) (hcx : t.cx = s.cx) :
      byteAt (xs.foldl (fun t x => t.setLane r x) t).spad (spadKey core off) = byteAt t.spad (spadKey core off) := by
    induction xs generalizing t with
    | nil => rfl
    | cons x xs ih =>
      rw [List.foldl_cons, ih (fun y hy => hxs y (List.mem_cons_of_mem x hy)) _
        ((State.setLane_keeps (p := State.here) (fun _ _ _ _ _ => rfl) t r x).trans hhere)
        ((State.setLane_keeps (p := State.cx) (fun _ _ _ _ _ => rfl) t r x).trans hcx),
        hlane t hhere hcx x (hxs x List.mem_cons_self)]
  rw [State.setV_eq]
  refine hlanes _ (fun x hx => ?_) s rfl rfl
  exact List.mem_range.1 (List.of_mem_zip hx).2

/-- A part of every context that a change of one keeps. -/
theorem State.ctx_updCtx_keeps {α : Type} {q : Ctx → α} {f : Ctx → Ctx} (hf : ∀ c, q (f c) = q c) (s : State) (cid j : Nat) :
    q ((s.updCtx cid f).ctx j) = q (s.ctx j) := by
  unfold State.updCtx
  split
  next c hc =>
    by_cases hj : cid = j
    · have hctx : s.ctx j = c := by rw [← hj, State.ctx, mgetD, hc]; rfl
      rw [← hj, State.ctx_setCtx_self, hf, hj, hctx]
    · rw [State.ctx_setCtx_ne s _ hj]
  next => rfl

theorem Ctx.wp_countLater (c : Ctx) (code n : Nat) : (c.countLater code n).wp = c.wp := by
  obtain ⟨cr, hc⟩ := c.count_eq code n
  unfold Ctx.countLater
  split
  · rw [hc]
  · rfl

section

variable {α : Type} {p : State → α} (hcore : ∀ (t : State) (n : Nat) (k : Core), p (t.setCore n k) = p t)

include hcore

/-- Counting saturations adds to a counter of the core and notes events in a context. -/
theorem State.countSat_parts (hcount : ∀ (t : State) (cid n : Nat), p (t.updCtx cid (fun c => c.countLater 10 n)) = p t)
    (hpend : ∀ (t : State) (cid : Nat) (x : List (Nat × Option Nat)),
      p (t.updCtx cid (fun c => { c with pendSat := c.pendSat ++ x })) = p t)
    (s : State) (cid idx n : Nat) : p (s.countSat cid idx n) = p s := by
  unfold State.countSat State.countSatOf
  dsimp only
  have hcounted : p (if n = 0 then s else (s.setCore (coreOfCid cid) { s.core (coreOfCid cid) with
      satcnt := mput (s.core (coreOfCid cid)).satcnt idx (min (mgetD (s.core (coreOfCid cid)).satcnt idx 0 + n) 0xFFFFFFFF) }).updCtx cid
        (fun c => c.countLater 10 n)) = p s := ite_keeps rfl ((hcount _ _ _).trans (hcore _ _ _))
  exact ite_keeps ((hpend _ _ _).trans hcounted) hcounted

/-- It writes no memory. -/
theorem State.countSat_keeps (hctx : ∀ (t : State) (cid : Nat) (c : Ctx), p (t.setCtx cid c) = p t) (s : State) (cid idx n : Nat) :
    p (s.countSat cid idx n) = p s := by
  have hupd (t : State) (cid : Nat) (f : Ctx → Ctx) : p (t.updCtx cid f) = p t := by
    unfold State.updCtx
    split
    · exact hctx t _ _
    · rfl
  exact State.countSat_parts hcore (fun t cid n => hupd t cid _) (fun t cid x => hupd t cid _) s cid idx n

end

theorem State.cur_countSat (s : State) (cid idx n : Nat) : (s.countSat cid idx n).cur = s.cur :=
  State.countSat_keeps (p := State.cur) (fun _ _ _ => rfl) (fun _ _ _ => rfl) s cid idx n

theorem State.spad_countSat (s : State) (cid idx n : Nat) : (s.countSat cid idx n).spad = s.spad :=
  State.countSat_keeps (p := State.spad) (fun _ _ _ => rfl) (fun _ _ _ => rfl) s cid idx n

/-- It moves no workspace. -/
theorem State.wp_countSat (s : State) (cid idx n : Nat) : (s.countSat cid idx n).cx.wp = s.cx.wp := by
  have hwp : ((s.countSat cid idx n).ctx s.cur).wp = (s.ctx s.cur).wp :=
    State.countSat_parts (p := fun t => (t.ctx s.cur).wp) (fun _ _ _ => rfl)
      (fun t cid n => State.ctx_updCtx_keeps (q := Ctx.wp) (fun c => c.wp_countLater 10 n) t cid s.cur)
      (fun t cid x => State.ctx_updCtx_keeps (q := Ctx.wp) (f := fun c => { c with pendSat := c.pendSat ++ x }) (fun _ => rfl) t cid s.cur)
      s cid idx n
  rw [State.cx, s.cur_countSat]
  exact hwp

/-- The lanes that an instruction writes, with the saturations that it counts. -/
def State.laneVals (s : State) (k : BitVec 3) (f : Nat → Nat × Nat) (j : Nat) : Option (Nat × Nat) :=
  if s.active k j then some (f j) else none

theorem State.setLanes_eq (s : State) (k : BitVec 3) (vd : BitVec 5) (f : Nat → Nat × Nat) : s.setLanes k vd f =
    (s.setV vd.toNat ((upTo 16).map (fun j => (s.laneVals k f j).map (fun x => x.1)))).countSat s.cur s.satOf
      ((((upTo 16).map (s.laneVals k f)).filterMap (fun r => r.map (fun x => x.2))).sum) := by
  have hmap : ((upTo 16).map (s.laneVals k f)).map (fun r => r.map (fun x => x.1)) =
      (upTo 16).map (fun j => (s.laneVals k f j).map (fun x => x.1)) := by
    rw [List.map_map]
    rfl
  rw [← hmap]
  rfl

theorem State.getD_v (s : State) (r : Nat) {j : Nat} (hj : j < 16) : (s.v r).getD j 0 = s.laneWord r j := by
  unfold State.v upTo
  rw [List.getD_eq_getElem?_getD, List.getElem?_map, List.getElem?_range hj]
  rfl

/-- Settles O31: a write of lanes takes place lane by lane, each in its own four bytes of the register. -/
theorem vectorLanes : Obligations.VectorLanes := by
  unfold Obligations.VectorLanes
  intro s k vd f j hj hwp t
  have hvd : vd.toNat < 32 := vd.isLt
  have hfit : s.cx.vOff vd.toNat + 64 ≤ 131072 := by unfold Ctx.vOff; omega
  have ht : t = _ := s.setLanes_eq k vd f
  generalize (((upTo 16).map (s.laneVals k f)).filterMap (fun r => r.map (fun x => x.2))).sum = n at ht
  have hkeep {α : Type} (p : State → α) (hcore : ∀ (t : State) (n : Nat) (k : Core), p (t.setCore n k) = p t)
      (hctx : ∀ (t : State) (cid : Nat) (c : Ctx), p (t.setCtx cid c) = p t)
      (hwr : ∀ (t : State) (core off n v : Nat), p (t.wrS core off n v) = p t) : p t = p s := by
    rw [ht, State.countSat_keeps hcore hctx, State.setV_keeps hwr]
  have hspad : t.spad = (s.setV vd.toNat ((upTo 16).map (fun j => (s.laneVals k f j).map (fun x => x.1)))).spad := by
    rw [ht, State.spad_countSat]
  have htwp : t.cx.wp = s.cx.wp := by
    rw [ht, State.wp_countSat, State.setV_keeps (p := fun t => t.cx.wp) (fun _ _ _ _ _ => rfl)]
  have hhere : t.here = s.here := by
    have hcur : t.cur = s.cur := hkeep State.cur (fun _ _ _ => rfl) (fun _ _ _ => rfl) (fun _ _ _ _ _ => rfl)
    rw [State.here, hcur]
    rfl
  refine ⟨?_, fun core off hoff hout => ?_, hkeep State.tags (fun _ _ _ => rfl) (fun _ _ _ => rfl) (fun _ _ _ _ _ => rfl),
    hkeep State.hbm (fun _ _ _ => rfl) (fun _ _ _ => rfl) (fun _ _ _ _ _ => rfl),
    hkeep State.reqs (fun _ _ _ => rfl) (fun _ _ _ => rfl) (fun _ _ _ _ _ => rfl)⟩
  · have hlane := s.laneWord_setV vd.toNat (fun j => (s.laneVals k f j).map (fun x => x.1)) hj
    have hsame : t.laneWord vd.toNat j = (s.setV vd.toNat ((upTo 16).map (fun j => (s.laneVals k f j).map (fun x => x.1)))).laneWord
        vd.toNat j := by
      have hcx := State.setV_keeps (p := fun t => t.cx.wp) (fun _ _ _ _ _ => rfl) s vd.toNat
        ((upTo 16).map (fun j => (s.laneVals k f j).map (fun x => x.1)))
      have hh := State.setV_keeps (p := State.here) (fun _ _ _ _ _ => rfl) s vd.toNat
        ((upTo 16).map (fun j => (s.laneVals k f j).map (fun x => x.1)))
      rw [State.laneWord, State.laneWord, State.rdS, State.rdS, hspad, hhere, hh, Ctx.vOff, Ctx.vOff, htwp, hcx]
    rw [t.getD_v vd.toNat hj, hsame, hlane, State.lane, s.getD_v vd.toNat hj, State.laneVals]
    split <;> rfl
  · rw [hspad]
    exact s.byteAt_setV vd.toNat _ hfit hoff hout

/-! ## Loads and stores of lanes -/

/-- A vector access whose checks pass is performed or sent, and goes on. -/
theorem access_vec {es : List Elem} {as : List At} (hs : s.calm = true) (hl : s.locateAll 2 es = .ok as)
    (hd : s.dataBad (es.zip as) true = none) (hc : s.classFull (es.zip as) = false) :
    access 2 false false es id s (vec := true) = .next (s.commit 2 false false (es.zip as)).advance := by
  have hheld : (es.zip as).any (fun x => s.elemHeld x.1 x.2) = false := by simp [s.calm_elemHeld hs]
  simp [access, hl, hd, hheld, s.calm_gated hs, hc, watched_unwatched s (s.calm_unwatched hs), done]

theorem vaccess_ok {n : Nat} {es : List Elem} {as : List At} (hs : s.calm = true) (hal : ∀ e ∈ es, e.va % n = 0)
    (hl : s.locateAll 2 es = .ok as) (hd : s.dataBad (es.zip as) true = none) (hc : s.classFull (es.zip as) = false) :
    vaccess n es s = .next (s.commit 2 false false (es.zip as)).advance := by
  have hpick : pick (fun (e : Elem) => e.va % n != 0) es = none := pick_none.2 fun e he => by simp [hal e he]
  unfold vaccess
  rw [hpick]
  exact access_vec hs hl hd hc

theorem vaccess_misaligned {n : Nat} {es : List Elem} {e : Elem} (h : pick (fun e => e.va % n != 0) es = some e) :
    vaccess n es s = .next (s.takeTrap 0x06 (toWord e.va) s.cx.pc) := by
  unfold vaccess
  rw [h]
  rfl

/-- A vector access reads its registers and performs its elements. -/
theorem exec_vmem {n : Nat} {es : List Elem} (hs : s.calm = true) (hvx : s.cx.vx = true) (h : vmemOf s i = some (n, es)) :
    exec i s = vaccess n es s := by
  unfold vmemOf at h
  split at h
  case h_9 => cases h
  case h_7 =>
    cases h
    refine (exec_checked hvx rfl rfl rfl).trans ?_
    rw [reading_calm s hs, readingV_calm hs]
  case h_8 =>
    cases h
    refine (exec_checked hvx rfl rfl rfl).trans ?_
    rw [reading_calm s hs]
  all_goals
    cases h
    refine (exec_checked hvx rfl rfl rfl).trans ?_
    rw [reading_calm s hs, vreading, readingV_calm hs]

/-- Settles O32: the elements are those of the active lanes; alignment is checked first, then the access goes its way. -/
theorem vectorMemory : Obligations.VectorMemory := by
  unfold Obligations.VectorMemory
  intro s i n es hs hvx h
  refine ⟨fun as hal hl hd hc => ?_, fun e he => ?_⟩
  · rw [exec_vmem hs hvx h, vaccess_ok hs hal hl hd hc]
  · rw [exec_vmem hs hvx h, vaccess_misaligned he]

end Sys2Proof.Machine

/-! PROOFS. REP (07 R151 to R153): how a run begins and how it ends. -/

namespace Sys2Proof.Machine

theorem exec_rep (a b c : BitVec 4) (imm : BitVec 22) (s : State) : exec (.rep a b c imm) s = execRep a b c imm s := by rfl

variable {s : State}

section

variable {u : State} {a b c : BitVec 4} {imm : BitVec 22} {l : Line} {ps : List (Nat × Nat × Word)} {succ : Word}

/-- The run that REP begins. -/
def State.repRun (s u : State) (c : BitVec 4) (imm : BitVec 22) (ps : List (Nat × Nat × Word)) (succ : Word) : RepRun :=
  ⟨c.toNat, bitsOf imm.toNat 10 3, bitsOf imm.toNat 0 6, ps.map (fun x => (x.1, x.2.1)), ps.map (fun x => x.2.2), succ,
    bitsOf (s.w c).toNat 0 6, bitsOf (s.w c).toNat 6 4, u.cx.fld 0x035 0 6⟩

/-- What REP makes of the body that it has gathered. -/
def repBody (s u : State) (a b c : BitVec 4) (imm : BitVec 22) (ps : List (Nat × Nat × Word)) (succ : Word) : Out :=
  let bs := ps.map (fun x => (x.1, x.2.1))
  let real := bs.filter (fun x => isPair x.1 x.2)
  match pick (fun x => notInBody x.1) bs, pick (fun x => (scalarDst x.1 x.2).contains c.toNat) real with
  | some x, _ => trap s xIllegalOp (pairWord x)
  | none, some x => trap s xOperand (pairWord x)
  | none, none =>
    if real.any (fun x => !(upTo (bitsOf imm.toNat 0 6 + 1)).all (fun q => staggerFits x.1 x.2 (q * bitsOf imm.toNat 10 3))) then
      operandTrap s (.rep a b c imm)
    else .next (u.setCx { u.cx with rep := some (s.repRun u c imm ps succ), walkFault := [] })

theorem rep_gathers (hs : s.calm = true) (hvx : s.cx.vx = true) (hline : s.cx.line = some l)
    (hgather : s.gather (succPc (some l) s.cx.pc) l [] (bitsOf imm.toNat 6 4 + 1) = .ok ps succ u)
    (hzero : bitsOf (s.w c).toNat 10 54 = 0) (hpass : bitsOf (s.w c).toNat 0 6 ≤ bitsOf imm.toNat 0 6)
    (hinstr : bitsOf (s.w c).toNat 6 4 ≤ bitsOf imm.toNat 6 4) :
    exec (.rep a b c imm) s = repBody s u a b c imm ps succ := by
  refine (exec_checked hvx rfl rfl rfl).trans ?_
  rw [reading_calm s hs]
  dsimp only
  rw [if_neg (by omega), hline]
  dsimp only
  rw [hgather]
  rfl

theorem repBody_refused {x : Nat × Nat} (h : pick (fun x => notInBody x.1) (ps.map (fun x => (x.1, x.2.1))) = some x) :
    repBody s u a b c imm ps succ = .next (s.takeTrap 0x02 (pairWord x) s.cx.pc) := by
  unfold repBody
  dsimp only
  rw [h]
  rfl

theorem repBody_begins (hlegal : (ps.map (fun x => (x.1, x.2.1))).all (fun x => !notInBody x.1) = true)
    (hreal : ((ps.map (fun x => (x.1, x.2.1))).filter (fun x => isPair x.1 x.2)).all (fun x =>
      !(scalarDst x.1 x.2).contains c.toNat &&
      (upTo (bitsOf imm.toNat 0 6 + 1)).all (fun q => staggerFits x.1 x.2 (q * bitsOf imm.toNat 10 3))) = true) :
    repBody s u a b c imm ps succ = .next (u.setCx { u.cx with rep := some (s.repRun u c imm ps succ), walkFault := [] }) := by
  unfold repBody
  dsimp only
  generalize ps.map (fun x => (x.1, x.2.1)) = bs at *
  generalize bs.filter (fun x => isPair x.1 x.2) = real at *
  have hbody : pick (fun x : Nat × Nat => notInBody x.1) bs = none :=
    pick_none.2 fun x hx => by simpa using List.all_eq_true.1 hlegal x hx
  have hdst : pick (fun x : Nat × Nat => (scalarDst x.1 x.2).contains c.toNat) real = none := by
    refine pick_none.2 fun x hx => ?_
    have h := List.all_eq_true.1 hreal x hx
    rw [Bool.and_eq_true, Bool.not_eq_true'] at h
    exact h.1
  have hfit : real.any (fun x => !(upTo (bitsOf imm.toNat 0 6 + 1)).all
      (fun q => staggerFits x.1 x.2 (q * bitsOf imm.toNat 10 3))) = false := by
    rw [List.any_eq_false]
    intro x hx
    have h := List.all_eq_true.1 hreal x hx
    rw [Bool.and_eq_true] at h
    rw [h.2]
    decide
  rw [hbody, hdst]
  dsimp only
  rw [hfit, if_neg (by decide)]

end

/-- The context after the last body instruction of the last pass. -/
def Ctx.repEnded (c : Ctx) (r : RepRun) : Ctx :=
  { c.completed.count 2 1 with
    instrs := c.completed.instrs + 1
    rep := none
    pc := r.succ
    line := if decide (r.succ.toNat / 64 = c.completed.pc.toNat / 64) then (c.completed.count 2 1).line else none }

theorem State.advance_repEnds {r : RepRun} (hrep : s.cx.rep = some r) (hlast : r.body.length ≤ r.i + 1) (hpass : r.count ≤ r.p)
    (hway : touches [(s.cx.wOff r.wc, 8)] (s.onTheWay s.cur s.here) = false) :
    s.advance = (s.setCx (s.cx.repEnded r)).wrS s.here (s.cx.wOff r.wc) 8 0 := by
  obtain ⟨cr, n, hc⟩ := s.cx.completed_eq
  obtain ⟨cr', hc'⟩ := s.cx.completed.count_eq 2 1
  have hrep' : s.cx.completed.rep = some r := by rw [hc]; exact hrep
  have hoff : (s.cx.completed.count 2 1).wOff r.wc = s.cx.wOff r.wc := by rw [hc', hc]; rfl
  unfold State.advance
  dsimp only
  rw [hrep']
  dsimp only
  rw [if_neg (by omega), if_neg (by omega)]
  have hclear : (s.setCx (s.cx.repEnded r)).wrOwn s.cur (s.cx.wOff r.wc) 0 = (s.setCx (s.cx.repEnded r)).wrS s.here (s.cx.wOff r.wc) 8 0 :=
    State.wrOwn_clear hway
  rw [← hclear, ← hoff]
  rfl

/-- Settles O33: a legal body begins its run, an illegal word is the trap's, and the end of the run clears wC. -/
theorem repRuns : Obligations.RepRuns := by
  unfold Obligations.RepRuns
  intro s u a b c imm l ps succ r bs
  refine ⟨fun hs hvx hline hgather hzero hpass hinstr => ⟨fun hlegal hreal => ?_, fun x hx => ?_⟩, fun hrep hlast hpass hway => ?_⟩
  · rw [rep_gathers hs hvx hline hgather hzero hpass hinstr, repBody_begins hlegal hreal]
    rfl
  · rw [rep_gathers hs hvx hline hgather hzero hpass hinstr, repBody_refused hx]
  · rw [State.advance_repEnds hrep hlast hpass hway]
    refine ⟨?_, ?_, ?_⟩
    · rw [State.cx_wrS, State.cx_setCx]
      rfl
    · rw [State.cx_wrS, State.cx_setCx]
      rfl
    · rw [State.rdS_wrS_self, Nat.zero_mod]

end Sys2Proof.Machine

/-! PROOFS. The matrix unit (10): what its instructions queue, and the steps by which the unit takes and completes an operation. -/

namespace Sys2Proof.Machine

section

variable (a b : BitVec 4) (vd va vb : BitVec 5) (k : BitVec 3) (md : BitVec 8) (s : State)

theorem exec_mzero : exec (.mzero a b vd va vb k md) s = execMzero a b vd va vb k md s := by rfl
theorem exec_mlda : exec (.mlda a b vd va vb k md) s = execMlda a b vd va vb k md s := by rfl
theorem exec_msta : exec (.msta a b vd va vb k md) s = tileStore (.msta a b vd va vb k md) a none vd md s := by rfl
theorem exec_mstm : exec (.mstm a b vd va vb k md) s = tileStore (.mstm a b vd va vb k md) a (some b) vd md s := by rfl
theorem exec_mdrain : exec (.mdrain a b vd va vb k md) s = execMdrain a b vd va vb k md s := by rfl
theorem exec_mma : exec (.mma a b vd va vb k md) s = mmaForm (.mma a b vd va vb k md) 0 vd va vb s := by rfl
theorem exec_mmau : exec (.mmau a b vd va vb k md) s = mmaForm (.mmau a b vd va vb k md) 1 vd va vb s := by rfl
theorem exec_mmas : exec (.mmas a b vd va vb k md) s = mmaForm (.mmas a b vd va vb k md) 2 vd va vb s := by rfl
theorem exec_mmaus : exec (.mmaus a b vd va vb k md) s = mmaForm (.mmaus a b vd va vb k md) 3 vd va vb s := by rfl
theorem exec_tileOpTaken (core : Nat) : exec (.tileOpTaken core) s = execTileOpTaken core s := by rfl
theorem exec_tileOpComplete (core id : Nat) : exec (.tileOpComplete core id) s = execTileOpComplete core id s := by rfl

end

variable {s : State}

/-! ## Issue -/

section

variable (hs : s.calm = true)

include hs

theorem State.mq_calm : (s.core s.here).mq = [] := by
  obtain ⟨-, -, -, -, -, -, hm, -⟩ := s.calm_parts hs
  exact hm

theorem placed_calm (k : Out) : placed s k = k := by
  have hqueued : s.queued = 0 := by rw [State.queued, State.mq_calm hs]; rfl
  have hclass : s.classM s.cur = 0 := by
    rw [State.classM]
    exact congrArg (fun l : List TileOp => (l.filter (fun o => o.cid == s.cur)).length) (State.mq_calm hs)
  rw [placed, if_neg (by omega)]

theorem State.eccTrap_calm (off n : Nat) : s.eccTrap off n = none := by
  rw [State.eccTrap, s.badS_sound (s.calm_sound hs)]
  rfl

theorem State.softS_sum_calm (rs : List (Nat × Nat)) : (rs.map (fun (r : Nat × Nat) => s.softS s.here r.1 r.2)).sum = 0 := by
  rw [List.sum_eq_zero]
  intro x hx
  obtain ⟨r, -, rfl⟩ := List.mem_map.1 hx
  exact s.softS_sound (s.calm_sound hs) _ _ _

end

theorem unpoisoned_ok {t : Nat} (h : (s.tile s.here t).pois = none) (k : Out) : unpoisoned t s k = k := by
  unfold unpoisoned
  rw [h]

theorem tileAddr_ok {align n addr : Nat} (hal : addr % align = 0) (hfit : addr + n ≤ 131072) : tileAddr align n addr = none := by
  rw [tileAddr, if_neg (by omega), if_neg (by omega)]

/-- The operation that an issue queues, and the one that stands in an empty queue then. -/
def State.opOf (s : State) (t : Nat) (w : TileWork) : TileOp :=
  { id := s.uid, cid := s.cur, tile := t, work := w, rm := s.cx.fld 0x000 0 2, sat := s.satOf, taken := false }

theorem State.mq_queueOp (t : Nat) (w : TileWork) (hq : (s.core s.here).mq = []) :
    ((s.queueOp t w).core s.here).mq = [s.opOf t w] := by
  have hcore : (s.queueOp t w).core s.here = { (s.core s.here) with mq := (s.core s.here).mq ++ [s.opOf t w] } :=
    State.core_setCore_self _ _ _
  rw [hcore, hq]
  rfl

theorem State.samePoint_queueOp (s : State) (t : Nat) (w : TileWork) : SamePoint s (s.queueOp t w) := .of_ctxs rfl rfl

theorem exec_mzero_calm {a b : BitVec 4} {vd va vb : BitVec 5} {k : BitVec 3} {md : BitVec 8} (hs : s.calm = true)
    (hvx : s.cx.vx = true) (hown : ownsTile s.cx vd = true) :
    exec (.mzero a b vd va vb k md) s = .next ((s.unpoison vd.toNat).queueOp vd.toNat .zero).advance := by
  refine (exec_checked hvx rfl (by rw [hown]; rfl) rfl).trans ?_
  rw [placed_calm hs, done_eq]

theorem exec_mlda_calm {a b : BitVec 4} {vd va vb : BitVec 5} {k : BitVec 3} {md : BitVec 8} (hs : s.calm = true)
    (hvx : s.cx.vx = true) (hown : ownsTile s.cx vd = true) (hal : (s.w a).toNat % 64 = 0)
    (hfit : (s.w a).toNat + 256 * tySize (md.toNat % 16) ≤ 131072) :
    exec (.mlda a b vd va vb k md) s = .next ((s.unpoison vd.toNat).queueOp vd.toNat (.load ((upTo 256).map (fun n =>
      widen (md.toNat % 16) (s.rdS s.here ((s.w a).toNat + n * tySize (md.toNat % 16)) (tySize (md.toNat % 16))))))).advance := by
  refine (exec_checked hvx rfl (by rw [hown]; rfl) rfl).trans ?_
  rw [reading_calm s hs, placed_calm hs]
  dsimp only
  rw [tileAddr_ok hal hfit]
  dsimp only
  rw [State.eccTrap_calm hs]
  dsimp only
  rw [s.localHeld_calm hs, if_neg (by decide), watched_unwatched s (s.calm_unwatched hs), s.softS_sound (s.calm_sound hs),
    State.addCerrOn_zero, done_eq]

/-- A tile store whose ranges are aligned, in the window and outside the queue area meets no trap. -/
theorem tileStore_checks {n addr : Nat} {m : Option Nat} {q : Word} (hal : addr % 64 = 0) (hfit : addr + n ≤ 131072)
    (harea : inArea q addr n = none) (hmask : ∀ x ∈ m, x % 32 = 0 ∧ x + 32 ≤ 131072 ∧ inArea q x 32 = none) :
    ((tileAddr 64 n addr).or (m.bind (tileAddr 32 32))).or
      ((((addr, n) :: (m.toList.map (fun x => (x, 32)))).filterMap (fun r => inArea q r.1 r.2)).head?.map (fun t => (xAccess, t))) = none := by
  rw [tileAddr_ok hal hfit]
  cases m with
  | none => simp [harea]
  | some x =>
    obtain ⟨hxal, hxfit, hxarea⟩ := hmask x rfl
    simp [harea, hxarea, tileAddr_ok hxal hxfit]

/-- What a tile store queues. -/
theorem tileStore_queues {i : Instr} {a : BitVec 4} {b : Option (BitVec 4)} {vd : BitVec 5} {md : BitVec 8} (hs : s.calm = true)
    (hvx : s.cx.vx = true) {bad : Bool} (hd : decodeCause s i = vecThen s bad) (hbad : bad = false) (hpois : (s.tile s.here vd.toNat).pois = none)
    (hal : (s.w a).toNat % 64 = 0) (hfit : (s.w a).toNat + 256 * tySize (md.toNat / 16) ≤ 131072)
    (harea : inArea s.mem.qbase (s.w a).toNat (256 * tySize (md.toNat / 16)) = none)
    (hmask : ∀ r ∈ b, (s.w r).toNat % 32 = 0 ∧ (s.w r).toNat + 32 ≤ 131072 ∧ inArea s.mem.qbase (s.w r).toNat 32 = none) :
    ∃ t o, tileStore i a b vd md s = .next t ∧ (t.core s.here).mq = [o] ∧
      o.work = .store (md.toNat % 16) (md.toNat / 16) (s.w a).toNat (b.map (fun r => (s.w r).toNat)) ∧
      t.cx.pc = succPc s.cx.line s.cx.pc := by
  let w : TileWork := .store (md.toNat % 16) (md.toNat / 16) (s.w a).toNat (b.map (fun r => (s.w r).toNat))
  let q := s.queueOp vd.toNat w
  have hpoint : SamePoint s q := s.samePoint_queueOp vd.toNat w
  have hprog := hpoint.trans (q.samePoint_progress q.cx.group)
  have hmq : (q.core s.here).mq = [s.opOf vd.toNat w] := State.mq_queueOp vd.toNat w (State.mq_calm hs)
  have hrep := s.calm_rep hs
  have hbody : ∃ c : Bool, tileStore i a b vd md s = .next (if c then q else q.progress q.cx.group).advance := by
    refine ⟨(((s.w a).toNat, 256 * tySize (md.toNat / 16)) :: ((b.map (fun r => (s.w r).toNat)).toList.map (fun x => (x, 32)))).all
      (fun r => decide (q.cx.wp - 64 ≤ r.1 ∧ r.1 + r.2 ≤ q.cx.wp + q.cx.foot)), ?_⟩
    have hchecks := tileStore_checks (m := b.map (fun r => (s.w r).toNat)) hal hfit harea (fun x hx => by
      obtain ⟨r, hr, rfl⟩ := Option.map_eq_some_iff.1 hx
      exact hmask r hr)
    unfold tileStore
    rw [checked_vec hvx hd hbad, reading_calm s hs, unpoisoned_ok hpois, placed_calm hs]
    dsimp only
    rw [hchecks]
    dsimp only
    rw [s.localHeld_calm hs, if_neg (by decide), watched_unwatched s (s.calm_unwatched hs), done_eq]
  obtain ⟨c, hexec⟩ := hbody
  refine ⟨_, s.opOf vd.toNat w, hexec, ?_, rfl, ?_⟩
  · cases c
    · exact (congrArg Core.mq (State.advance_keeps (fun t => t.core s.here) (fun _ _ => rfl) (hprog.rep.trans hrep))).trans
        ((congrArg Core.mq (State.progress_keeps (fun t => t.core s.here) (fun _ _ => rfl) _ _)).trans hmq)
    · exact (congrArg Core.mq (State.advance_keeps (fun t => t.core s.here) (fun _ _ => rfl) (hpoint.rep.trans hrep))).trans hmq
  · cases c
    · exact (hprog.advance_pc hrep).2
    · exact (hpoint.advance_pc hrep).2

theorem exec_mdrain_calm {a b : BitVec 4} {vd va vb : BitVec 5} {k : BitVec 3} {md : BitVec 8} (hs : s.calm = true)
    (hvx : s.cx.vx = true) (hown : ownsTile s.cx vd = true) (hpois : ∀ t, t < 4 → (s.tile s.here t).pois = none) :
    exec (.mdrain a b vd va vb k md) s = .next s.advance := by
  have hvd : vd.toNat < 4 := by
    rw [ownsTile, Bool.and_eq_true, decide_eq_true_eq] at hown
    exact hown.1
  have hbad : (md == 0 && !ownsTile s.cx vd) = false := by rw [hown, Bool.not_true, Bool.and_false]
  have hclean (ts : List Nat) (hts : ∀ t ∈ ts, t < 4) : (ts.filterMap (fun t => (s.tile s.here t).pois)).head? = none := by
    rw [List.head?_eq_none_iff, List.filterMap_eq_nil_iff]
    exact fun t ht => hpois t (hts t ht)
  have htiles : ∀ t ∈ (if md = 0 then [vd.toNat] else (upTo 4).filter (fun t => bitAt (s.cx.fld 0x038 0 4) t)), t < 4 := by
    intro t ht
    split at ht
    · rw [List.mem_singleton.1 ht]
      exact hvd
    · exact List.mem_range.1 (List.mem_filter.1 ht).1
  refine (exec_checked hvx rfl hbad rfl).trans ?_
  dsimp only
  rw [hclean _ htiles]
  dsimp only
  rw [State.mq_calm hs, if_neg (by simp), done_eq]

/-! ## The MMA family -/

/-- The groups that are kept and the stream that the family's issue uses. -/
def State.skipOf (s : State) (skips : Bool) : Skip :=
  if skips then s.skip4 (s.cx.get 0x034).toNat else ⟨0, false, 0, 0, [], [true, true, true, true]⟩

/-- The operation that the family queues. -/
def State.mmaWork (s : State) (unf skips : Bool) (va vb : BitVec 5) : TileWork :=
  let af := s.cx.fld 0x030 0 4
  let bytes (n : Nat) : List Nat := if af == 5 then (upTo 16).map (fun j => s.rdS s.here (s.cx.fld n 0 17 + j) 1) else []
  .mma af (s.cx.fld 0x030 4 4)
    (if unf then s.unfolded (s.unfoldAt (s.cx.fld 0x033 0 17)) (mWidth af / 8) (s.cx.fld 0x033 32 32) (128 / mWidth af)
      (s.skipOf skips).keep else [])
    (if unf then none else some (s.cx.vOff va.toNat)) (s.cx.vOff vb.toNat) (s.skipOf skips).keep (bytes 0x031) (bytes 0x032)

/-- The context that the family's issue leaves: the scale addresses, KCUR and MSKIP moved on. -/
def State.mmaCx (s : State) (unf skips : Bool) : Ctx :=
  let c := if s.cx.fld 0x030 0 4 == 5 then (s.cx.advScale 0x031).advScale 0x032 else s.cx
  let c := if unf then c.setFld 0x033 32 32 (c.fld 0x033 32 32 + 128 / mWidth (s.cx.fld 0x030 0 4)) else c
  if skips then c.set 0x034 (toWord (s.skipOf skips).reg) else c

theorem mmaForm_ok {i : Instr} {minor : Nat} {vd va vb : BitVec 5} {bad : Bool} (hs : s.calm = true) (hvx : s.cx.vx = true)
    (hd : decodeCause s i = vecThen s bad) (hbad : bad = false) (hpois : (s.tile s.here vd.toNat).pois = none)
    (hfmt : mfmtOk (s.cx.fld 0x030 0 4) (s.cx.fld 0x030 4 4) = true)
    (hq4 : ¬ ((s.cx.fld 0x030 0 4 == 5) = true ∧ bitAt minor 0 = true))
    (hmma : s.mmaBad (s.cx.fld 0x030 0 4 == 5) (bitAt minor 1) (bitAt minor 0) i (s.cx.fld 0x030 0 4) (s.skipOf (bitAt minor 1))
      (s.unfoldAt (s.cx.fld 0x033 0 17)) = none) :
    mmaForm i minor vd va vb s = .next ((s.setCx (s.mmaCx (bitAt minor 0) (bitAt minor 1))).queueOp vd.toNat
      (s.mmaWork (bitAt minor 0) (bitAt minor 1) va vb)).advance := by
  unfold mmaForm
  rw [checked_vec hvx hd hbad, unpoisoned_ok hpois, placed_calm hs]
  dsimp only
  rw [if_neg (by rw [hfmt]; simpa using hq4), s.localHeld_calm hs, if_neg (by decide)]
  rw [← State.skipOf, hmma]
  dsimp only
  rw [s.localHeld_calm hs, if_neg (by decide), watched_unwatched s (s.calm_unwatched hs), State.softS_sum_calm hs,
    State.addCerrOn_zero, done_eq]
  rfl

section

variable {minor : Nat} {i : Instr} (hs : s.calm = true)

include hs

/-- Scale bytes and skip stream in order, no unfolding: no trap before the product is queued. -/
theorem State.mmaBad_plain {q4 skips : Bool} {af : Nat} {d : Unfold}
    (hscale : q4 = true → s.cx.fld 0x031 0 17 % 16 = 0 ∧ s.cx.fld 0x032 0 17 % 16 = 0)
    (hskip : skips = true → s.cx.fld 0x034 0 17 % 2 = 0) (sk : Skip) : s.mmaBad q4 skips false i af sk d = none := by
  have hreads : (sk.reads.filterMap (fun a => s.eccTrap a 2)).head? = none := by
    rw [List.head?_eq_none_iff, List.filterMap_eq_nil_iff]
    exact fun a _ => State.eccTrap_calm hs a 2
  cases q4 <;> cases skips <;> simp_all [State.mmaBad, State.eccTrap_calm hs]

/-- The same where A is unfolded by a legal descriptor. -/
theorem State.mmaBad_unfold {skips : Bool} {af : Nat} {d : Unfold} {sk : Skip} (hskip : skips = true → s.cx.fld 0x034 0 17 % 2 = 0)
    (hal : s.cx.fld 0x033 0 17 % 32 = 0) (hd : d.ok = true)
    (hbad : s.unfoldBad d (mWidth af / 8) (s.cx.fld 0x033 32 32) (128 / mWidth af) sk.keep = none) :
    s.mmaBad false skips true i af sk d = none := by
  have hreads : (sk.reads.filterMap (fun a => s.eccTrap a 2)).head? = none := by
    rw [List.head?_eq_none_iff, List.filterMap_eq_nil_iff]
    exact fun a _ => State.eccTrap_calm hs a 2
  cases skips <;> simp_all [State.mmaBad, State.eccTrap_calm hs]

/-- What is queued stands alone in the queue, and the focus goes on. -/
theorem State.queueOp_leaves {c : Ctx} (hpc : c.pc = s.cx.pc) (hline : c.line = s.cx.line) (hrep : c.rep = s.cx.rep) (t : Nat)
    (w : TileWork) : (((s.setCx c).queueOp t w).advance.core s.here).mq = [(s.setCx c).opOf t w] ∧
      ((s.setCx c).queueOp t w).advance.cx.pc = succPc s.cx.line s.cx.pc := by
  have hset : SamePoint s (s.setCx c) := .setCx hpc hline hrep
  have hpoint := hset.trans ((s.setCx c).samePoint_queueOp t w)
  have hq : ((s.setCx c).core (s.setCx c).here).mq = [] := by
    rw [State.core_setCx]
    exact State.mq_calm hs
  have hmq := State.mq_queueOp t w hq
  refine ⟨?_, (hpoint.advance_pc (s.calm_rep hs)).2⟩
  exact (congrArg Core.mq (State.advance_keeps (fun t => t.core s.here) (fun _ _ => rfl) (hpoint.rep.trans (s.calm_rep hs)))).trans hmq

end

/-- A context whose PC, line and run are those of another. -/
def Ctx.AtPoint (c d : Ctx) : Prop := d.pc = c.pc ∧ d.line = c.line ∧ d.rep = c.rep

theorem Ctx.AtPoint.trans {c d e : Ctx} (h : c.AtPoint d) (h' : d.AtPoint e) : c.AtPoint e :=
  ⟨h'.1.trans h.1, h'.2.1.trans h.2.1, h'.2.2.trans h.2.2⟩

theorem Ctx.atPoint_set (c : Ctx) (n : Nat) (v : Word) : c.AtPoint (c.set n v) := ⟨rfl, rfl, rfl⟩

theorem Ctx.atPoint_ite {p : Prop} [Decidable p] {c d e : Ctx} (h : c.AtPoint d) (h' : c.AtPoint e) :
    c.AtPoint (if p then d else e) := by
  split
  · exact h
  · exact h'

/-- The scale addresses, KCUR and MSKIP move on, the focus not. -/
theorem State.mmaCx_point (s : State) (unf skips : Bool) : s.cx.AtPoint (s.mmaCx unf skips) := by
  have hadv (c : Ctx) (n : Nat) : c.AtPoint (c.advScale n) := Ctx.atPoint_ite (c.atPoint_set _ _) ⟨rfl, rfl, rfl⟩
  have hscale : s.cx.AtPoint (if s.cx.fld 0x030 0 4 == 5 then (s.cx.advScale 0x031).advScale 0x032 else s.cx) :=
    Ctx.atPoint_ite ((hadv _ _).trans (hadv _ _)) ⟨rfl, rfl, rfl⟩
  unfold State.mmaCx
  dsimp only
  exact Ctx.atPoint_ite ((Ctx.atPoint_ite (hscale.trans (Ctx.atPoint_set _ _ _)) hscale).trans (Ctx.atPoint_set _ _ _))
    (Ctx.atPoint_ite (hscale.trans (Ctx.atPoint_set _ _ _)) hscale)

/-! ## The unit takes an operation -/

/-- The unit's list after it has taken an operation, with the work that is left. -/
def State.takenOp (s : State) (core : Nat) (o : TileOp) (w : TileWork) : State :=
  s.setCore core
    { (s.core core) with mq := (s.core core).mq.map (fun p => if p.id = o.id then { p with taken := true, work := w } else p) }

theorem State.takenOp_core (core : Nat) (o : TileOp) (w : TileWork) (hq : (s.core core).mq = [o]) :
    (s.takenOp core o w).core core = { (s.core core) with mq := [{ o with taken := true, work := w }] } := by
  rw [State.takenOp, State.core_setCore_self, hq]
  simp

theorem State.tile_takenOp (core : Nat) (o : TileOp) (w : TileWork) (t : Nat) : (s.takenOp core o w).tile core t = s.tile core t := by
  rw [State.tile, State.takenOp, State.core_setCore_self]
  rfl

theorem State.tile_setTile_self (core t : Nat) (x : Tile) : (s.setTile core t x).tile core t = x := by
  rw [State.tile, State.setTile, State.core_setCore_self]
  exact mgetD_mput_self _ _ _ _

theorem State.mq_setTile (core t : Nat) (x : Tile) : ((s.setTile core t x).core core).mq = (s.core core).mq := by
  rw [State.setTile, State.core_setCore_self]

/-- An operation taken that writes its tile. -/
theorem State.takenOp_leaves {core : Nat} {o : TileOp} (hq : (s.core core).mq = [o]) (x : Tile) (w : TileWork) :
    ((s.setTile core o.tile x).takenOp core o w).tile core o.tile = x ∧
      (((s.setTile core o.tile x).takenOp core o w).core core).mq = [{ o with taken := true, work := w }] := by
  refine ⟨?_, ?_⟩
  · rw [State.tile_takenOp, State.tile_setTile_self]
  · rw [State.takenOp_core core o w (by rw [State.mq_setTile, hq])]

/-- A list written out as a map from an index, its zeros left out. -/
def cellsFrom (k : Nat) (xs : List Nat) : List (Nat × Nat) := ((List.range' k xs.length).zip xs).filter (fun x => x.2 != 0)

theorem cellsFrom_cons (k x : Nat) (xs : List Nat) :
    cellsFrom k (x :: xs) = if x = 0 then cellsFrom (k + 1) xs else (k, x) :: cellsFrom (k + 1) xs := by
  unfold cellsFrom
  rw [List.length_cons, List.range'_succ, List.zip_cons_cons, List.filter_cons]
  by_cases hx : x = 0
  · rw [if_pos hx, if_neg (show ¬ (x != 0) = true by rw [hx]; decide)]
  · rw [if_neg hx, if_pos (by simpa using hx)]

theorem mgetD_cellsFrom_lt {j : Nat} (xs : List Nat) : ∀ k, j < k → mgetD (cellsFrom k xs) j 0 = 0 := by
  induction xs with
  | nil => exact fun _ _ => rfl
  | cons x xs ih =>
    intro k hj
    rw [cellsFrom_cons]
    split
    · exact ih (k + 1) (by omega)
    · rw [mgetD, mget, if_neg (by omega), ← mgetD]
      exact ih (k + 1) (by omega)

theorem mgetD_cellsFrom (xs : List Nat) : ∀ k n, mgetD (cellsFrom k xs) (k + n) 0 = xs.getD n 0 := by
  induction xs with
  | nil => exact fun _ _ => rfl
  | cons x xs ih =>
    intro k n
    rw [cellsFrom_cons]
    cases n with
    | zero =>
      split
      next hx => rw [mgetD_cellsFrom_lt xs (k + 1) (by omega), hx]; rfl
      next => rw [mgetD, mget, if_pos (Nat.add_zero k).symm]; rfl
    | succ n =>
      have hrest := ih (k + 1) n
      rw [Nat.add_right_comm, Nat.add_assoc] at hrest
      split
      next => exact hrest
      next =>
        rw [mgetD, mget, if_neg (by omega), ← mgetD]
        exact hrest

theorem cell_cellsOf {xs : List Nat} (h : xs.length = 256) (p : Option Nat) (n : Nat) :
    (Tile.mk (cellsOf xs) p).cell n = xs.getD n 0 := by
  have hcells : cellsOf xs = cellsFrom 0 xs := by rw [cellsOf, cellsFrom, h, upTo, List.range_eq_range']
  have hget := mgetD_cellsFrom xs 0 n
  rw [Nat.zero_add, ← hcells] at hget
  exact hget

section

variable {core : Nat} {o : TileOp} (hnext : s.nextOp core = some o)

include hnext

theorem tileOpTaken_zero (hwork : o.work = .zero) : exec (.tileOpTaken core) s =
    .next ((s.setTile core o.tile { s.tile core o.tile with cells := [] }).takenOp core o .zero) := by
  rw [exec_tileOpTaken, execTileOpTaken, hnext]
  dsimp only
  rw [hwork]
  rfl

theorem tileOpTaken_load {cells : List Nat} (hwork : o.work = .load cells) : exec (.tileOpTaken core) s =
    .next ((s.setTile core o.tile { s.tile core o.tile with cells := cellsOf cells }).takenOp core o .zero) := by
  rw [exec_tileOpTaken, execTileOpTaken, hnext]
  dsimp only
  rw [hwork]
  rfl

theorem tileOpTaken_store {ty d addr : Nat} {mask : Option Nat} {rs : List (Nat × Nat)} {all : List (Nat × List Byte)} {n : Nat}
    (hwork : o.work = .store ty d addr mask) (hput : storeWork (rmOf o.rm) ty d addr mask (s.tile core o.tile) = .put rs all n) :
    exec (.tileOpTaken core) s = .next ((s.putSome core rs all n).1.takenOp core o (s.putSome core rs all n).2) := by
  rw [exec_tileOpTaken, execTileOpTaken, hnext]
  dsimp only
  rw [hwork]
  dsimp only
  rw [hput]
  rfl

theorem tileOpTaken_mma {af bf : Nat} {a : List (List Nat)} {ra : Option Nat} {rb : Nat} {keep : List Bool} {sa sb : List Nat}
    (hwork : o.work = .mma af bf a ra rb keep sa sb)
    (hsound : ((keptParts keep (ra.toList ++ [rb])).filterMap (fun p => s.badS core p.1 p.2)).head? = none) :
    ∃ n, exec (.tileOpTaken core) s = .next (((s.addCerrOn core n).setTile core o.tile
      { s.tile core o.tile with cells := (s.addCerrOn core n).mmaRun core o af bf a ra rb keep sa sb }).takenOp core o .zero) := by
  refine ⟨(((keptParts keep (ra.toList ++ [rb])).map (fun p => p.1 / 8)).eraseDups.map (fun w => s.softS core (8 * w) 8)).sum, ?_⟩
  rw [exec_tileOpTaken, execTileOpTaken, hnext]
  dsimp only
  rw [hwork]
  dsimp only
  rw [hsound]
  rfl

theorem tileOpTaken_poisons {af bf : Nat} {a : List (List Nat)} {ra : Option Nat} {rb : Nat} {keep : List Bool} {sa sb : List Nat}
    {addr : Nat} (hwork : o.work = .mma af bf a ra rb keep sa sb)
    (hbad : ((keptParts keep (ra.toList ++ [rb])).filterMap (fun p => s.badS core p.1 p.2)).head? = some addr) :
    exec (.tileOpTaken core) s =
      .next (((s.dropOp core o.id).poison core o.tile addr).bbox 6 0 (s.partOf (s.ctx o.cid).group) core addr 0) := by
  rw [exec_tileOpTaken, execTileOpTaken, hnext]
  dsimp only
  rw [hwork]
  dsimp only
  rw [hbad]

end

theorem State.storeS_keeps {α : Type} {p : State → α}
    (hspad : ∀ (t : State) (m : List Host.Cell) (d : List Nat), p { t with spad := m, dirty := d } = p t) (s : State) (core off : Nat)
    (bs : List Byte) : p (s.storeS core off bs) = p s := by
  unfold State.storeS State.wrBytesS
  split
  · rfl
  · exact hspad s _ _

theorem State.core_storeAll (core j : Nat) (xs : List (Nat × List Byte)) (s : State) :
    (xs.foldl (fun s w => s.storeS core w.1 w.2) s).core j = s.core j :=
  foldl_keeps (f := fun (s : State) (w : Nat × List Byte) => s.storeS core w.1 w.2) (p := fun t => t.core j)
    (fun t w => State.storeS_keeps (p := fun t => t.core j) (fun _ _ _ => rfl) t core w.1 w.2) xs s

/-- A store that is taken keeps what it has not yet performed. -/
theorem State.putSome_leaves (core : Nat) (rs : List (Nat × Nat)) (all : List (Nat × List Byte)) (n : Nat) :
    (s.putSome core rs all n).1.core core = s.core core ∧
      ∃ left, (∀ x ∈ left, x ∈ all) ∧ (s.putSome core rs all n).2 = .put rs left n :=
  ⟨State.core_storeAll core core _ s, _, fun _ hx => (List.mem_filter.1 hx).1, rfl⟩

theorem State.mmaRun_addCerrOn (core : Nat) (o : TileOp) (n af bf : Nat) (a : List (List Nat)) (ra : Option Nat) (rb : Nat)
    (keep : List Bool) (sa sb : List Nat) :
    (s.addCerrOn core n).mmaRun core o af bf a ra rb keep sa sb = s.mmaRun core o af bf a ra rb keep sa sb := by
  unfold State.addCerrOn
  split
  · rfl
  · unfold State.mmaRun
    have htile (t : Nat) : (s.setCore core { s.core core with cerr := min ((s.core core).cerr + n) 0xFFFFFFFF }).tile core t =
        s.tile core t := by
      rw [State.tile, State.core_setCore_self]
      rfl
    dsimp only
    rw [htile]
    rfl

theorem State.core_bbox (kind cause key mid val aux j : Nat) : (s.bbox kind cause key mid val aux).core j = s.core j := by
  rw [(s.boxOnly_bbox kind cause key mid val aux).eq]
  rfl

theorem State.poisoned_leaves {core : Nat} {o : TileOp} (hq : (s.core core).mq = [o]) (addr : Nat) :
    (((s.dropOp core o.id).poison core o.tile addr).core core).mq = [] ∧
      ((s.dropOp core o.id).poison core o.tile addr).tile core o.tile = { s.tile core o.tile with pois := some addr } := by
  have hdrop : (s.dropOp core o.id).core core = { s.core core with mq := [] } := by
    rw [State.dropOp, State.core_setCore_self, hq]
    simp
  have htile : (s.dropOp core o.id).tile core o.tile = s.tile core o.tile := by rw [State.tile, hdrop]; rfl
  refine ⟨?_, ?_⟩
  · rw [State.poison, State.core_setCore_self, State.mq_setTile, hdrop]
    rfl
  · rw [State.poison, State.tile, State.core_setCore_self]
    exact (State.tile_setTile_self _ _ _).trans (by rw [htile])

/-! ## An operation completes -/

/-- The state in which a completed operation has left the unit. -/
def State.opLeft (s : State) (core : Nat) (o : TileOp) : State := (s.dropOp core o.id).updCtx o.cid (fun c => c.countLater 7 1)

theorem State.updCtx_keeps {α : Type} {p : State → α} (hctx : ∀ (t : State) (cid : Nat) (c : Ctx), p (t.setCtx cid c) = p t) (s : State)
    (cid : Nat) (f : Ctx → Ctx) : p (s.updCtx cid f) = p s := by
  unfold State.updCtx
  split
  · exact hctx s _ _
  · rfl

theorem tileOpComplete_eq {core : Nat} {o : TileOp} (hq : (s.core core).mq = [o]) (htaken : o.taken = true) :
    exec (.tileOpComplete core o.id) s =
      match o.work with
      | .put _ left n => .next ((left.foldl (fun s w => s.storeS core w.1 w.2) (s.opLeft core o)).countSatOf o.cid o.sat n (some o.id))
      | _ => .next (s.opLeft core o) := by
  have hpick : pick (fun p : TileOp => p.id == o.id && p.taken) [o] = some o := by simp [pick, htaken]
  rw [exec_tileOpComplete, execTileOpComplete, hq, hpick]
  rfl

section

variable {core : Nat} {o : TileOp} (hq : (s.core core).mq = [o])

include hq

theorem State.mq_opLeft : ((s.opLeft core o).core core).mq = [] := by
  rw [State.opLeft, State.updCtx_keeps (p := fun t => t.core core) (fun _ _ _ => rfl), State.dropOp, State.core_setCore_self, hq]
  simp

end

theorem State.opLeft_keeps {α : Type} {p : State → α} (hcore : ∀ (t : State) (n : Nat) (k : Core), p (t.setCore n k) = p t)
    (hctx : ∀ (t : State) (cid : Nat) (c : Ctx), p (t.setCtx cid c) = p t) (s : State) (core : Nat) (o : TileOp) :
    p (s.opLeft core o) = p s := (State.updCtx_keeps hctx _ _ _).trans (hcore _ _ _)

theorem State.satcnt_opLeft (s : State) (core : Nat) (o : TileOp) (j : Nat) :
    ((s.opLeft core o).core j).satcnt = (s.core j).satcnt := by
  rw [State.opLeft, State.updCtx_keeps (p := fun t => t.core j) (fun _ _ _ => rfl)]
  refine State.core_setCore_keeps (q := Core.satcnt) ?_ j
  rfl

section

variable (cid idx n : Nat) (op : Option Nat)

/-- A saturation counter of a core after it has counted. -/
def Core.counted (k : Core) (idx n : Nat) : Core :=
  { k with satcnt := mput k.satcnt idx (min (mgetD k.satcnt idx 0 + n) 0xFFFFFFFF) }

theorem State.countSatOf_core (s : State) (j : Nat) : (s.countSatOf cid idx n op).core j =
    if n = 0 then s.core j else (s.setCore (coreOfCid cid) ((s.core (coreOfCid cid)).counted idx n)).core j := by
  have hupd (t : State) (f : Ctx → Ctx) : (t.updCtx cid f).core j = t.core j :=
    State.updCtx_keeps (p := fun t => t.core j) (fun _ _ _ => rfl) t cid f
  have hcounted : (if n = 0 then s else (s.setCore (coreOfCid cid) ((s.core (coreOfCid cid)).counted idx n)).updCtx cid
      (fun c => c.countLater 10 n)).core j =
      if n = 0 then s.core j else (s.setCore (coreOfCid cid) ((s.core (coreOfCid cid)).counted idx n)).core j := by
    split
    · rfl
    · exact hupd _ _
  unfold State.countSatOf
  dsimp only
  rw [← hcounted]
  exact ite_keeps (p := fun t : State => t.core j) (hupd _ _) rfl

theorem State.countSatOf_spad (s : State) : (s.countSatOf cid idx n op).spad = s.spad := by
  have hupd (t : State) (f : Ctx → Ctx) : (t.updCtx cid f).spad = t.spad :=
    State.updCtx_keeps (p := State.spad) (fun _ _ _ => rfl) t cid f
  have hcounted : (if n = 0 then s else (s.setCore (coreOfCid cid) ((s.core (coreOfCid cid)).counted idx n)).updCtx cid
      (fun c => c.countLater 10 n)).spad = s.spad := by
    split
    · rfl
    · exact hupd _ _
  unfold State.countSatOf
  dsimp only
  refine Eq.trans ?_ hcounted
  exact ite_keeps (p := State.spad) (hupd _ _) rfl

end

/-- The state that the completion of a store leaves. -/
def State.putDone (s : State) (core : Nat) (o : TileOp) (left : List (Nat × List Byte)) (n : Nat) : State :=
  (left.foldl (fun s w => s.storeS core w.1 w.2) (s.opLeft core o)).countSatOf o.cid o.sat n (some o.id)

section

variable {core : Nat} {o : TileOp} (left : List (Nat × List Byte)) (n : Nat)

theorem State.mq_putDone (hq : (s.core core).mq = [o]) : ((s.putDone core o left n).core core).mq = [] := by
  have hstored : ((left.foldl (fun s w => s.storeS core w.1 w.2) (s.opLeft core o)).core core).mq = [] := by
    rw [State.core_storeAll]
    exact State.mq_opLeft hq
  rw [State.putDone, State.countSatOf_core]
  split
  · exact hstored
  · refine (State.core_setCore_keeps (q := Core.mq) ?_ core).trans hstored
    rfl

theorem State.satcnt_putDone : ((s.putDone core o left n).core (coreOfCid o.cid)).satcnt =
    if n = 0 then (s.core (coreOfCid o.cid)).satcnt
    else mput (s.core (coreOfCid o.cid)).satcnt o.sat (min (mgetD (s.core (coreOfCid o.cid)).satcnt o.sat 0 + n) 0xFFFFFFFF) := by
  have hstored : ((left.foldl (fun s w => s.storeS core w.1 w.2) (s.opLeft core o)).core (coreOfCid o.cid)).satcnt =
      (s.core (coreOfCid o.cid)).satcnt := by
    rw [State.core_storeAll, State.satcnt_opLeft]
  rw [State.putDone, State.countSatOf_core]
  split
  · exact hstored
  · rw [State.core_setCore_self, Core.counted, hstored]

theorem State.readBytes_putDone {addr : Nat} {bs : List Byte} (hne : bs ≠ [])
    (hsoft : ∀ j, j < bs.length → s.ringHw core (addr + j) = false) :
    readBytes (s.putDone core o [(addr, bs)] n).spad (spadKey core addr) bs.length = bs := by
  have hplain (j : Nat) (hj : j < bs.length) : (s.opLeft core o).ringHw core (addr + j) = false :=
    (State.opLeft_keeps (p := fun t => t.ringHw core (addr + j)) (fun _ _ _ => rfl) (fun _ _ _ => rfl) s core o).trans (hsoft j hj)
  rw [State.putDone, State.countSatOf_spad, List.foldl_cons, List.foldl_nil, State.storeS_plain _ hplain, State.wrBytesS,
    if_neg (by simpa using hne)]
  exact readBytes_writeBytes_self bs _ _

end

theorem tileOpComplete_put {core : Nat} {o : TileOp} {rs : List (Nat × Nat)} {left : List (Nat × List Byte)} {n : Nat}
    (hq : (s.core core).mq = [o]) (htaken : o.taken = true) (hwork : o.work = .put rs left n) :
    exec (.tileOpComplete core o.id) s = .next (s.putDone core o left n) := by
  rw [tileOpComplete_eq hq htaken, hwork]
  rfl

/-- What an operation that completes leaves: its list is empty, a store's bytes stand in memory and its saturations are counted. -/
theorem tileOpComplete_leaves {core : Nat} {o : TileOp} (hq : (s.core core).mq = [o]) (htaken : o.taken = true) :
    ∃ t, exec (.tileOpComplete core o.id) s = .next t ∧ (t.core core).mq = [] ∧
      (∀ rs addr bs n, o.work = .put rs [(addr, bs)] n → bs ≠ [] →
        (∀ j, j < bs.length → s.ringHw core (addr + j) = false) →
        readBytes t.spad (spadKey core addr) bs.length = bs) ∧
      (∀ rs left n, o.work = .put rs left n →
        (n ≠ 0 → mgetD (t.core (coreOfCid o.cid)).satcnt o.sat 0 =
          min (mgetD (s.core (coreOfCid o.cid)).satcnt o.sat 0 + n) 0xFFFFFFFF) ∧
        (n = 0 → (t.core (coreOfCid o.cid)).satcnt = (s.core (coreOfCid o.cid)).satcnt)) := by
  by_cases hput : ∃ rs left n, o.work = .put rs left n
  · obtain ⟨rs, left, n, hwork⟩ := hput
    have hcnt := State.satcnt_putDone (s := s) (core := core) (o := o) left n
    refine ⟨_, tileOpComplete_put hq htaken hwork, State.mq_putDone left n hq, fun rs' addr bs n' h hne hsoft => ?_, fun rs' left' n' h => ?_⟩
    · rw [hwork] at h
      obtain ⟨-, rfl, rfl⟩ := TileWork.put.inj h
      exact State.readBytes_putDone n hne hsoft
    · rw [hwork] at h
      obtain ⟨-, rfl, rfl⟩ := TileWork.put.inj h
      refine ⟨fun hn => ?_, fun hn => ?_⟩
      · rw [hcnt, if_neg hn, mgetD_mput_self]
      · rw [hcnt, if_pos hn]
  · refine ⟨s.opLeft core o, ?_, State.mq_opLeft hq, fun rs addr bs n h => absurd ⟨rs, _, n, h⟩ hput,
      fun rs left n h => absurd ⟨rs, left, n, h⟩ hput⟩
    rw [tileOpComplete_eq hq htaken]
    split
    next rs left n h => exact absurd ⟨rs, left, n, h⟩ hput
    next => rfl

section

variable {a b : BitVec 4} {vd va vb : BitVec 5} {k : BitVec 3} {md : BitVec 8} (hs : s.calm = true) (hvx : s.cx.vx = true)
  (hown : ownsTile s.cx vd = true) (hpois : (s.tile s.here vd.toNat).pois = none)

include hs hvx hown hpois

/-- MMA of q4 blocks keeps their scale bytes and moves the scale addresses on. -/
theorem exec_mma_q4 (haf : s.cx.fld 0x030 0 4 = 5) (hbf : s.cx.fld 0x030 4 4 = 5) (hva : misgroup va 4 = false)
    (hvb : misgroup vb 4 = false) (h31 : s.cx.fld 0x031 0 17 % 16 = 0) (h32 : s.cx.fld 0x032 0 17 % 16 = 0) :
    exec (.mma a b vd va vb k md) s = .next ((s.setCx ((s.cx.advScale 0x031).advScale 0x032)).queueOp vd.toNat
      (.mma (s.cx.fld 0x030 0 4) (s.cx.fld 0x030 4 4) [] (some (s.cx.vOff va.toNat)) (s.cx.vOff vb.toNat) [true, true, true, true]
        ((upTo 16).map (fun j => s.rdS s.here (s.cx.fld 0x031 0 17 + j) 1))
        ((upTo 16).map (fun j => s.rdS s.here (s.cx.fld 0x032 0 17 + j) 1)))).advance := by
  have hq4 : (s.cx.fld 0x030 0 4 == 5) = true := by rw [haf]; rfl
  have hwork : s.mmaWork false false va vb = .mma (s.cx.fld 0x030 0 4) (s.cx.fld 0x030 4 4) [] (some (s.cx.vOff va.toNat))
      (s.cx.vOff vb.toNat) [true, true, true, true] ((upTo 16).map (fun j => s.rdS s.here (s.cx.fld 0x031 0 17 + j) 1))
      ((upTo 16).map (fun j => s.rdS s.here (s.cx.fld 0x032 0 17 + j) 1)) := by
    unfold State.mmaWork
    dsimp only
    rw [hq4]
    rfl
  have hcx : s.mmaCx false false = (s.cx.advScale 0x031).advScale 0x032 := by
    unfold State.mmaCx
    rw [hq4]
    rfl
  rw [exec_mma, ← hwork, ← hcx]
  exact mmaForm_ok (minor := 0) hs hvx rfl (by rw [hown, hva, hvb]; rfl) hpois (by rw [haf, hbf]; decide) (fun h => absurd h.2 (by decide))
    (State.mmaBad_plain hs (fun _ => ⟨h31, h32⟩) (fun h => absurd h (by decide)) _)

variable (hfmt : mfmtOk (s.cx.fld 0x030 0 4) (s.cx.fld 0x030 4 4) = true) (hq4 : (s.cx.fld 0x030 0 4 == 5) = false)
  (hvb : misgroup vb 4 = false)

include hfmt hq4 hvb

/-- MMA of the other formats. -/
theorem exec_mma_plain (hva : misgroup va 4 = false) : exec (.mma a b vd va vb k md) s =
    .next ((s.setCx s.cx).queueOp vd.toNat (.mma (s.cx.fld 0x030 0 4) (s.cx.fld 0x030 4 4) [] (some (s.cx.vOff va.toNat))
      (s.cx.vOff vb.toNat) [true, true, true, true] [] [])).advance := by
  have hwork : s.mmaWork false false va vb = .mma (s.cx.fld 0x030 0 4) (s.cx.fld 0x030 4 4) [] (some (s.cx.vOff va.toNat))
      (s.cx.vOff vb.toNat) [true, true, true, true] [] [] := by
    unfold State.mmaWork
    dsimp only
    rw [hq4]
    rfl
  have hcx : s.mmaCx false false = s.cx := by
    unfold State.mmaCx
    rw [hq4]
    rfl
  rw [exec_mma, ← hwork]
  refine (mmaForm_ok (minor := 0) hs hvx rfl (by rw [hown, hva, hvb]; rfl) hpois hfmt (fun h => absurd h.2 (by decide))
    (State.mmaBad_plain hs (fun h => absurd (hq4.symm.trans h) (by decide)) (fun h => absurd h (by decide)) _)).trans ?_
  rw [← hcx]
  rfl

/-- MMAS takes its kept groups from the skip stream. -/
theorem exec_mmas_plain (hva : misgroup va 4 = false) (hal : s.cx.fld 0x034 0 17 % 2 = 0) : exec (.mmas a b vd va vb k md) s =
    .next ((s.setCx (s.cx.set 0x034 (toWord (s.skip4 (s.cx.get 0x034).toNat).reg))).queueOp vd.toNat
      (.mma (s.cx.fld 0x030 0 4) (s.cx.fld 0x030 4 4) [] (some (s.cx.vOff va.toNat)) (s.cx.vOff vb.toNat)
        (s.skip4 (s.cx.get 0x034).toNat).keep [] [])).advance := by
  have hwork : s.mmaWork false true va vb = .mma (s.cx.fld 0x030 0 4) (s.cx.fld 0x030 4 4) [] (some (s.cx.vOff va.toNat))
      (s.cx.vOff vb.toNat) (s.skip4 (s.cx.get 0x034).toNat).keep [] [] := by
    unfold State.mmaWork
    dsimp only
    rw [hq4]
    rfl
  have hcx : s.mmaCx false true = s.cx.set 0x034 (toWord (s.skip4 (s.cx.get 0x034).toNat).reg) := by
    unfold State.mmaCx
    rw [hq4]
    rfl
  rw [exec_mmas, ← hwork, ← hcx]
  exact mmaForm_ok (minor := 2) hs hvx rfl (by rw [hown, hva, hvb]; rfl) hpois hfmt (fun h => absurd h.2 (by decide))
    (State.mmaBad_plain hs (fun h => absurd (hq4.symm.trans h) (by decide)) (fun _ => hal) _)

end

/-- MMAU and MMAUS queue the unfolded A. -/
theorem mmaForm_unfolds {i : Instr} {minor : Nat} {bad : Bool} {vd u vb : BitVec 5} (hs : s.calm = true) (hvx : s.cx.vx = true)
    (hpois : (s.tile s.here vd.toNat).pois = none) (hfmt : mfmtOk (s.cx.fld 0x030 0 4) (s.cx.fld 0x030 4 4) = true)
    (hq4 : (s.cx.fld 0x030 0 4 == 5) = false) (hunf : bitAt minor 0 = true)
    (hd : decodeCause s i = vecThen s bad)
    (hbad : bad = false) (hskip : bitAt minor 1 = true → s.cx.fld 0x034 0 17 % 2 = 0) (hal : s.cx.fld 0x033 0 17 % 32 = 0)
    (hdesc : (s.unfoldAt (s.cx.fld 0x033 0 17)).ok = true)
    (hreads : s.unfoldBad (s.unfoldAt (s.cx.fld 0x033 0 17)) (mWidth (s.cx.fld 0x030 0 4) / 8) (s.cx.fld 0x033 32 32)
      (128 / mWidth (s.cx.fld 0x030 0 4)) (s.skipOf (bitAt minor 1)).keep = none) :
    ∃ t o, mmaForm i minor vd u vb s = .next t ∧ (t.core s.here).mq = [o] ∧
      o.work = .mma (s.cx.fld 0x030 0 4) (s.cx.fld 0x030 4 4) (s.unfolded (s.unfoldAt (s.cx.fld 0x033 0 17))
        (mWidth (s.cx.fld 0x030 0 4) / 8) (s.cx.fld 0x033 32 32) (128 / mWidth (s.cx.fld 0x030 0 4)) (s.skipOf (bitAt minor 1)).keep)
        none (s.cx.vOff vb.toNat) (s.skipOf (bitAt minor 1)).keep [] [] ∧ t.cx.pc = succPc s.cx.line s.cx.pc := by
  have hmma : s.mmaBad (s.cx.fld 0x030 0 4 == 5) (bitAt minor 1) (bitAt minor 0) i (s.cx.fld 0x030 0 4) (s.skipOf (bitAt minor 1))
      (s.unfoldAt (s.cx.fld 0x033 0 17)) = none := by
    rw [hq4, hunf]
    exact State.mmaBad_unfold hs hskip hal hdesc hreads
  obtain ⟨hpc, hline, hrep⟩ := s.mmaCx_point (bitAt minor 0) (bitAt minor 1)
  obtain ⟨hmq, hnext⟩ := State.queueOp_leaves hs hpc hline hrep vd.toNat (s.mmaWork (bitAt minor 0) (bitAt minor 1) u vb)
  refine ⟨_, _, mmaForm_ok hs hvx hd hbad hpois hfmt (by rw [hq4]; simp) hmma, hmq, ?_, hnext⟩
  rw [State.opOf, hunf]
  unfold State.mmaWork
  dsimp only
  rw [hq4]
  rfl

/-- Settles O34: each instruction queues its operation behind its checks, and the unit's steps do what the operation says. -/
theorem tileResult : Obligations.TileResult := by
  unfold Obligations.TileResult
  refine ⟨?_, fun s core o => ⟨fun hnext hq => ⟨fun hwork => ?_, fun cells hwork hlen => ?_, fun ty d addr mask rs all n hwork hput => ?_,
    fun af bf a ra rb keep sa sb hwork hsound => ?_, fun af bf a ra rb keep sa sb addr hwork hbad => ?_⟩,
    fun hq htaken => tileOpComplete_leaves hq htaken⟩⟩
  · intro s a b vd va vb k md hs hvx hown addr ld st af bf
    have hownBad : (!ownsTile s.cx vd) = false := by rw [hown]; rfl
    refine ⟨exec_mzero_calm hs hvx hown, fun hal hfit => exec_mlda_calm hs hvx hown hal hfit, fun hpois hal hfit harea => ⟨?_, ?_⟩,
      fun hpois => exec_mdrain_calm hs hvx hown hpois, ?_, ?_⟩
    · rw [exec_msta]
      exact tileStore_queues (b := none) hs hvx rfl hownBad hpois hal hfit harea (by simp)
    · intro hmal hmfit hmarea
      rw [exec_mstm]
      refine tileStore_queues (b := some b) hs hvx rfl hownBad hpois hal hfit harea fun r hr => ?_
      rw [← Option.mem_some.1 hr]
      exact ⟨hmal, hmfit, hmarea⟩
    · exact fun hpois haf hbf hva hvb h31 h32 => exec_mma_q4 hs hvx hown hpois haf hbf hva hvb h31 h32
    · intro hpois hfmt haf hva hvb
      have hq4 : (s.cx.fld 0x030 0 4 == 5) = false := by simpa using haf
      have hunfBad : (!ownsTile s.cx vd || misgroup vb 4) = false := by rw [hown, hvb]; rfl
      refine ⟨exec_mma_plain hs hvx hown hpois hfmt hq4 hvb hva, exec_mmas_plain hs hvx hown hpois hfmt hq4 hvb hva,
        fun hal hdesc => ⟨fun hreads => ?_, fun hskip hreads => ?_⟩⟩
      · rw [exec_mmau]
        exact mmaForm_unfolds (minor := 1) hs hvx hpois hfmt hq4 rfl rfl hunfBad (fun h => absurd h (by decide)) hal hdesc hreads
      · rw [exec_mmaus]
        exact mmaForm_unfolds (minor := 3) hs hvx hpois hfmt hq4 rfl rfl hunfBad (fun _ => hskip) hal hdesc hreads
  · obtain ⟨htile, hmq⟩ := State.takenOp_leaves hq { s.tile core o.tile with cells := [] } .zero
    refine ⟨_, tileOpTaken_zero hnext hwork, fun n => ?_, ?_⟩
    · rw [htile]
      rfl
    · rw [hmq, ← hwork]
  · obtain ⟨htile, hmq⟩ := State.takenOp_leaves hq { s.tile core o.tile with cells := cellsOf cells } .zero
    refine ⟨_, tileOpTaken_load hnext hwork, fun n _ => ?_, hmq⟩
    rw [htile]
    exact cell_cellsOf hlen _ n
  · obtain ⟨hcore, left, hleft, hw⟩ := State.putSome_leaves (s := s) core rs all n
    refine ⟨_, left, tileOpTaken_store hnext hwork hput, hleft, ?_⟩
    rw [State.takenOp_core core o _ (by rw [hcore, hq]), hw]
  · have hclean : ((keptParts keep (ra.toList ++ [rb])).filterMap (fun p => s.badS core p.1 p.2)).head? = none := by
      rw [List.head?_eq_none_iff, List.filterMap_eq_nil_iff]
      exact fun p _ => s.badS_nil hsound core p.1 p.2
    obtain ⟨n, hexec⟩ := tileOpTaken_mma hnext hwork hclean
    refine ⟨_, hexec, ?_⟩
    rw [State.tile_takenOp, State.tile_setTile_self, State.mmaRun_addCerrOn]
  · obtain ⟨hmq, htile⟩ := State.poisoned_leaves hq addr
    have hbox (j : Nat) := State.core_bbox (s := (s.dropOp core o.id).poison core o.tile addr) 6 0
      (s.partOf (s.ctx o.cid).group) core addr 0 j
    have hboxTile : (((s.dropOp core o.id).poison core o.tile addr).bbox 6 0 (s.partOf (s.ctx o.cid).group) core addr 0).tile core o.tile =
        ((s.dropOp core o.id).poison core o.tile addr).tile core o.tile := by rw [State.tile, hbox]; rfl
    refine ⟨_, tileOpTaken_poisons hnext hwork hbad, ?_, ?_, ?_⟩
    · rw [hboxTile, htile]
    · rw [hbox, hmq]
    · rw [hboxTile, htile]

end Sys2Proof.Machine

/-! PROOFS. TRAP, BREAK, HALT, TIME, CAPR and TRET (11 R234, R235), deferred traps (11 R226, R227) and wakes (05 R112, R113, 18 R313, R314). -/

namespace Sys2Proof.Machine

/-! ## TRAP, BREAK, HALT, TIME, CAPR -/

section
variable (s : State) (a b c : BitVec 4) (imm : BitVec 6)

theorem exec_trap : exec (.trap a b c imm) s = execTrap a b c imm s := by rfl
theorem exec_break : exec (.break a b c imm) s = execBreak a b c imm s := by rfl
theorem exec_halt : exec (.halt a b c imm) s = execHalt a b c imm s := by rfl
theorem exec_time : exec (.time a b c imm) s = execTime a b c imm s := by rfl
theorem exec_deferredTrap (cid : Nat) : exec (.deferredTrap cid) s = execDeferredTrap cid s := by rfl
theorem exec_wakeArrival (cid : Nat) : exec (.wakeArrival cid) s = execWakeArrival cid s := by rfl
theorem exec_longWaitExpiry (cid : Nat) : exec (.longWaitExpiry cid) s = execLongWaitExpiry cid s := by rfl
theorem exec_cpopParkExpiry (cid : Nat) : exec (.cpopParkExpiry cid) s = execCpopParkExpiry cid s := by rfl
theorem exec_tret : exec (.tret a b c imm) s = trapReturn s := by rfl

end

/-- The state that HALT leaves. -/
def State.halted (s : State) : State :=
  ((s.advance.depart s.cur s.advance.cx.pc (.stopped none false)).tell [1, s.cur]).supRec (s.partOf s.cx.group)
    ⟨xHalt, 0, s.cx.pc, []⟩

/-- Outside a run of REP, HALT stops the context at its successor, behind a record to the supervisor. -/
theorem State.halted_leaves {s : State} (hrep : s.cx.rep = none) : s.halted.cx.state = .stopped none false ∧
    s.halted.cx.pc = succPc s.cx.line s.cx.pc ∧
    ∀ p : Part, mget s.parts (s.partOf s.cx.group) = some p → ∃ q, mget s.halted.parts (s.partOf s.cx.group) = some q ∧
      q.queue = p.queue ++ [⟨xHalt, 0, s.cx.pc, []⟩] := by
  obtain ⟨cr, n, hc⟩ := s.cx.completed_eq
  have hadv := s.advance_eq hrep
  have hcur : s.advance.cur = s.cur := by rw [hadv]; rfl
  have hparts : s.advance.parts = s.parts := by rw [hadv]; rfl
  have hrep' : s.advance.cx.rep = none := by rw [hadv, cx_setCx, hc]; exact hrep
  obtain ⟨-, hdep, hdcur, -, hdcx⟩ := State.depart_focus hrep' s.advance.cx.pc (.stopped none false)
  rw [hcur] at hdep hdcur hdcx
  unfold State.halted
  generalize hu : s.advance.depart s.cur s.advance.cx.pc (.stopped none false) = u at *
  have hcx : ((u.tell [1, s.cur]).supRec (s.partOf s.cx.group) ⟨xHalt, 0, s.cx.pc, []⟩).cx = u.cx := by
    obtain ⟨ps, hps⟩ := (u.tell [1, s.cur]).supRec_eq (s.partOf s.cx.group) ⟨xHalt, 0, s.cx.pc, []⟩
    rw [hps]
    rfl
  rw [hcx, hdcx]
  refine ⟨rfl, s.advance_pc hrep, fun p hp => State.supRec_queue (s := u.tell [1, s.cur]) ?_ _⟩
  exact (congrArg (fun m => mget m _) (hdep.trans hparts)).trans hp

/-- Settles O35: with registers that are sound, each is its definition's own case. -/
theorem systemResult : Obligations.SystemResult := by
  unfold Obligations.SystemResult
  intro s a b c imm hs
  rw [exec_trap, exec_break, exec_halt, exec_time, exec_capr, execTrap, reading_calm s hs, reading_calm s hs]
  refine ⟨fun hwait => by rw [hwait], rfl, fun _ => ?_, fun h => by subst h; rfl, fun h => by subst h; rfl,
    fun h => by subst h; rfl, rfl⟩
  have hcur : s.advance.cur = s.cur := by rw [s.advance_eq (s.calm_rep hs)]; rfl
  obtain ⟨hstate, hpc, hqueue⟩ := State.halted_leaves (s.calm_rep hs)
  refine ⟨s.halted, ?_, hstate, hpc, hqueue⟩
  unfold execHalt State.halted
  dsimp only
  rw [hcur]

/-! ## TRET -/

/-- ST that TRET leaves: TST's with a depth and VX of the current one (11 R235). -/
def returnSt (tst depth vx : Nat) : Nat := setBits (setBits tst 12 4 depth) 3 1 vx

theorem returnSt_lt {tst : Nat} (h : tst < 2 ^ 64) (depth vx : Nat) : returnSt tst depth vx < 2 ^ 64 :=
  setBits_lt (setBits_lt h (by omega)) (by omega)

theorem returnSt_depth (tst depth vx : Nat) : bitsOf (returnSt tst depth vx) 12 4 = depth % 2 ^ 4 := by
  rw [returnSt, bitsOf_setBits_above (by omega), bitsOf_setBits_self]

theorem returnSt_vx (tst depth vx : Nat) : bitsOf (returnSt tst depth vx) 3 1 = vx % 2 ^ 1 := bitsOf_setBits_self

/-- The other fields below DEPTH are TST's. -/
theorem returnSt_below (tst depth vx : Nat) {lo n : Nat} (h : lo + n ≤ 3 ∨ 4 ≤ lo ∧ lo + n ≤ 12) :
    bitsOf (returnSt tst depth vx) lo n = bitsOf tst lo n := by
  rw [returnSt]
  obtain h | ⟨h, h'⟩ := h
  · rw [bitsOf_setBits_below h, bitsOf_setBits_below (by omega)]
  · rw [bitsOf_setBits_above h, bitsOf_setBits_below h']

/-- Seven control registers written as TRET writes them. -/
def Ctx.restored (c : Ctx) (st tpc cause tval tst twp tvec : Word) : Ctx :=
  ((((((c.set 0x000 st).set 0x001 tpc).set 0x002 cause).set 0x003 tval).set 0x004 tst).set 0x006 twp).set 0x005 tvec

section
variable (c : Ctx) (st tpc cause tval tst twp tvec : Word)

theorem Ctx.restored_gets : let d := c.restored st tpc cause tval tst twp tvec
    d.get 0x000 = st ∧ d.get 0x001 = tpc ∧ d.get 0x002 = cause ∧ d.get 0x003 = tval ∧ d.get 0x004 = tst ∧
      d.get 0x006 = twp ∧ d.get 0x005 = tvec := by
  simp [Ctx.restored, Ctx.get_set_ne]

theorem Ctx.restored_pc : (c.restored st tpc cause tval tst twp tvec).pc = c.pc := rfl
theorem Ctx.restored_wp : (c.restored st tpc cause tval tst twp tvec).wp = c.wp := rfl
theorem Ctx.restored_line : (c.restored st tpc cause tval tst twp tvec).line = c.line := rfl

/-- The fields of ST that the seven writes leave are those of the value for ST. -/
theorem Ctx.restored_fld (lo n : Nat) : (c.restored st tpc cause tval tst twp tvec).fld 0x000 lo n = bitsOf st.toNat lo n :=
  congrArg (fun v : Word => bitsOf v.toNat lo n) (c.restored_gets st tpc cause tval tst twp tvec).1

end

/-- A context whose instruction completes into another workspace. -/
def Ctx.enters (c : Ctx) (pc : Word) (wp : Nat) : Ctx := { c.completed with wp := wp, pc := pc, line := none, skipBkp := true }

/-- The context that TRET leaves. -/
def State.returnCx (s : State) : Ctx :=
  let c := s.cx
  let w := (c.get 0x006).toNat
  let hd (i : Nat) : Word := toWord (s.rdS s.here (w - 64 + 8 * i) 8)
  Ctx.restored (c.enters (c.get 0x001) w)
    (toWord (returnSt (c.get 0x004).toNat (c.depth - 1) (c.fld 0x000 3 1))) (hd 2) (hd 3 &&& 0xFF) (hd 4) (hd 5) (hd 6) (hd 7)

/-- A return whose checks pass. -/
theorem trapReturn_returns {s : State} (hdepth : s.cx.depth ≠ 0)
    (hzero : ¬ (bitsOf (s.cx.get 0x004).toNat 16 48 ≠ 0 ∨ bitsOf (s.cx.get 0x004).toNat 6 6 ≠ 0 ∨ bitAt (s.cx.get 0x004).toNat 4 = true))
    (hsup : ¬ (¬ s.cx.sup = true ∧ bitAt (s.cx.get 0x004).toNat 2 = true)) (hfoot : s.footOk (s.cx.get 0x006).toNat = true)
    (hway : touches [((s.cx.get 0x006).toNat - 64, 64)]
      (s.onTheWay s.cur s.here ++ s.dstBytes s.cur ++ s.tileRanges s.cur) = false) :
    trapReturn s = .next ((s.softRead s.here (.spad s.here ((s.cx.get 0x006).toNat - 64)) 64).setCx s.returnCx) := by
  unfold trapReturn
  dsimp only
  rw [if_neg hdepth, if_neg hzero, if_neg hsup, if_neg (not_not.2 hfoot), if_neg (by rw [hway]; exact Bool.false_ne_true)]
  rfl

/-- ST after a return: TST's fields but DEPTH, one less, and VX, kept. -/
theorem State.returnCx_fields (s : State) : s.returnCx.depth = s.cx.depth - 1 ∧ s.returnCx.vx = s.cx.vx ∧
    s.returnCx.sup = bitAt (s.cx.get 0x004).toNat 2 ∧ s.returnCx.bte = bitAt (s.cx.get 0x004).toNat 5 ∧
    s.returnCx.rm = rmOf (s.cx.get 0x004).toNat := by
  have hst : (toWord (returnSt (s.cx.get 0x004).toNat (s.cx.depth - 1) (s.cx.fld 0x000 3 1))).toNat =
      returnSt (s.cx.get 0x004).toNat (s.cx.depth - 1) (s.cx.fld 0x000 3 1) := by
    rw [toNat_toWord, Nat.mod_eq_of_lt (returnSt_lt (s.cx.get 0x004).isLt _ _)]
  have hfld (lo n : Nat) : s.returnCx.fld 0x000 lo n =
      bitsOf (returnSt (s.cx.get 0x004).toNat (s.cx.depth - 1) (s.cx.fld 0x000 3 1)) lo n := by
    rw [State.returnCx, Ctx.restored_fld, hst]
  have hdepth : s.cx.depth < 2 ^ 4 := bitsOf_lt ..
  have hvx : s.cx.fld 0x000 3 1 < 2 ^ 1 := bitsOf_lt ..
  rw [Ctx.depth, Ctx.vx, Ctx.sup, Ctx.bte, Ctx.rm, hfld, hfld, hfld, hfld, hfld, returnSt_depth, returnSt_vx,
    returnSt_below _ _ _ (by omega), returnSt_below _ _ _ (by omega), returnSt_below _ _ _ (by omega),
    Nat.mod_eq_of_lt (by omega), Nat.mod_eq_of_lt hvx]
  refine ⟨rfl, rfl, rfl, rfl, ?_⟩
  simp [rmOf, bitsOf]

/-- Settles O36: the context returned to is written from the registers and the header; each refusal is the first check that fails. -/
theorem trapReturn_holds : Obligations.TrapReturn := by
  unfold Obligations.TrapReturn
  refine ⟨?_, ?_⟩
  · intro s a b c imm tst w hd hdepth hhi hmid hbit hsup hfoot hway
    rw [exec_tret, trapReturn_returns hdepth (by simp [tst] at hhi hmid hbit; simp [hhi, hmid, hbit])
      (by rintro ⟨hs, ht⟩; exact hsup.elim hs (fun h => absurd (h.symm.trans ht) Bool.false_ne_true)) hfoot hway]
    obtain ⟨hd0, hvx, hsup', hbte, hrm⟩ := s.returnCx_fields
    obtain ⟨-, h1, h2, h3, h4, h6, h5⟩ := Ctx.restored_gets (s.cx.enters (s.cx.get 0x001) w)
      (toWord (returnSt tst (s.cx.depth - 1) (s.cx.fld 0x000 3 1))) (hd 2) (hd 3 &&& 0xFF) (hd 4) (hd 5) (hd 6) (hd 7)
    refine ⟨_, rfl, ?_⟩
    rw [State.cx_setCx]
    exact ⟨Ctx.restored_pc .., Ctx.restored_wp .., Ctx.restored_line .., hd0, hvx, hsup', hbte, hrm, h1, h2, h3, h4, h6, h5,
      aside_spad.softRead .., aside_tags.softRead ..⟩
  · intro s a b c imm tst
    rw [exec_tret]
    unfold trapReturn
    dsimp only
    refine ⟨fun h => by rw [if_pos h]; rfl, fun h h' => by rw [if_neg h, if_pos h']; rfl, fun h hhi hmid hbit hsup ht => ?_⟩
    rw [if_neg h, if_neg (by simp [tst] at hhi hmid hbit; simp [hhi, hmid, hbit]), if_pos ⟨by rw [hsup]; exact Bool.false_ne_true, ht⟩]
    rfl

/-! ## Deferred traps -/

/-- A context that exists steps with the focus on it, the focus then returning. -/
theorem forCid_runs {s : State} {cid : Nat} (h : (mget s.ctxs cid).isSome = true) (f : State → State) :
    forCid cid s f = .next { f (s.asCid cid) with cur := s.cur } := if_pos h

/-- A running context that holds for nothing has its due trap taken. -/
theorem execDeferredTrap_due {s : State} {cid : Nat} {t : State} (h : (mget s.ctxs cid).isSome = true)
    (hstate : (s.ctx cid).state = .running) (hcall : (s.ctx cid).call = none) (hload : (s.ctx cid).pendLoad = [])
    (hwalk : (s.ctx cid).walk = []) (hdue : (s.asCid cid).dueTrap = some t) :
    execDeferredTrap cid s = .next { t with cur := s.cur } := by
  have hcx : (s.asCid cid).cx = s.ctx cid := rfl
  rw [execDeferredTrap, forCid_runs h]
  dsimp only
  rw [hcx, if_neg (by simp [hstate, hcall, hload, hwalk]), hdue]
  rfl

/-- The first pending crossing whose operation no MDRAIN or WAITC waits for is due. -/
theorem State.dueTrap_sat {u : State} {x : Nat × Option Nat} {r : List (Nat × Option Nat)} (hload : u.cx.pendLoad = [])
    (hwait : u.trapWait = none) (hsat : u.cx.pendSat = x :: r) (htile : ∀ o, x.2 = some o → u.cx.tileWait.contains o = false) :
    u.dueTrap = some ((u.setCx { u.cx with pendSat := r }).takeTrap 0x18 (toWord x.1) u.cx.pc) := by
  have hready : ∃ q, u.cx.satReady = x :: q := by
    rw [Ctx.satReady, hsat]
    refine ⟨_, List.filter_cons_of_pos ?_⟩
    split
    · next o ho => rw [htile o ho]; rfl
    · rfl
  obtain ⟨q, hq⟩ := hready
  unfold State.dueTrap
  simp [hload, hwait, hq, hsat, xSatLimit]

/-- With no crossing pending, a pending bereavement is due. -/
theorem State.dueTrap_bereaved {u : State} {a : Word} (hload : u.cx.pendLoad = []) (hwait : u.trapWait = none)
    (hsat : u.cx.pendSat = []) (hbrv : u.cx.pendBrv = some a) :
    u.dueTrap = some ((u.setCx { u.cx with pendBrv := none }).takeTrap 0x14 a u.cx.pc) := by
  have hready : u.cx.satReady = [] := by rw [Ctx.satReady, hsat]; rfl
  unfold State.dueTrap
  simp [hload, hwait, hready, hbrv, xBereaved]

/-! ## Wakes -/

/-- A context that waits, is not on a long-wait list and whose wait is over is woken by the step. -/
theorem State.latch_woken {s : State} {cid : Nat} {c : Ctx} {w : Wait} (hc : mget s.ctxs cid = some c) (hw : c.waits = some w)
    (hlong : c.parkLong = false) (hwoken : c.woken = false) (hover : s.waitOver cid w = true) :
    (s.latch.ctx cid).woken = true := by
  rw [State.latch, State.ctx, mgetD]
  dsimp only
  rw [mget_map_keys (by
    intro x
    split
    · split <;> rfl
    · rfl), hc]
  simp [hw, hlong, hwoken, hover]

/-- A blocked context becomes READY, its PC kept. -/
theorem State.wake_ready {s : State} {cid : Nat} {w : Wait} (hstate : (s.ctx cid).state = .blocked w) (hcopy : isCopy cid = false) :
    ((s.wake cid).ctx cid).state = .ready ∧ ((s.wake cid).ctx cid).pc = (s.ctx cid).pc := by
  unfold State.wake
  simp [hstate, hcopy]

/-- A wake leaves the cores alone, unless it is a copy strand's. -/
theorem State.wake_core {s : State} {cid : Nat} (hcopy : isCopy cid = false) (n : Nat) : (s.wake cid).core n = s.core n := by
  unfold State.wake
  simp only [hcopy]
  split <;> rfl

/-- Settles O37: the pending trap at the head is the one due; a wait that is over latches a wake, which makes the context READY. -/
theorem deferredAndWake : Obligations.DeferredAndWake := by
  unfold Obligations.DeferredAndWake
  intro s cid n a w hsome c u
  refine ⟨fun hstate hcall hload hwalk hwait => ⟨fun o r hsat htile => ?_, fun hsat hbrv => ?_⟩, fun hstate hcopy hlog => ?_⟩
  · rw [exec_deferredTrap]
    exact execDeferredTrap_due hsome hstate hcall hload hwalk (State.dueTrap_sat (u := u) (x := (n, o)) hload hwait hsat htile)
  · rw [exec_deferredTrap]
    exact execDeferredTrap_due hsome hstate hcall hload hwalk (State.dueTrap_bereaved (u := u) hload hwait hsat hbrv)
  have hready := State.wake_ready hstate hcopy
  have hwaits : (s.ctx cid).waits = some w := by rw [Ctx.waits, hstate]
  refine ⟨fun hlong hwoken hover => ?_, fun hlong hwoken => ?_, fun hlong hrun => ?_, fun hlong hrun => ?_, fun nost hw hrun => ?_⟩
  · obtain ⟨c', hc'⟩ := Option.isSome_iff_exists.1 hsome
    have hcc : s.ctx cid = c' := by rw [State.ctx, mgetD, hc']; rfl
    subst hcc
    exact State.latch_woken hc' hwaits hlong hwoken hover
  · refine ⟨s.wake cid, ?_, hready⟩
    rw [exec_wakeArrival]
    unfold execWakeArrival
    dsimp only
    rw [if_neg (by simp [hwaits]; exact ⟨hlong, hwoken⟩), State.logRx_off (by rw [State.wake_core hcopy]; exact hlog)]
  · rw [exec_longWaitExpiry]
    unfold execLongWaitExpiry
    exact if_neg (fun h => absurd h.2.2 (Nat.not_le.2 hrun))
  · refine ⟨s.wake cid, ?_, hready⟩
    rw [exec_longWaitExpiry]
    unfold execLongWaitExpiry
    exact if_pos ⟨hlong, by rw [hwaits]; rfl, hrun⟩
  · refine ⟨s.wake cid, ?_, hready⟩
    rw [exec_cpopParkExpiry]
    unfold execCpopParkExpiry
    rw [hwaits, hw]
    exact if_pos hrun

end Sys2Proof.Machine

/-! PROOFS. Synapse rows (12 R238, R239, R250 to R253, R258, R259). -/

namespace Sys2Proof.Machine

section
variable (s : State) (a b c : BitVec 4) (imm : BitVec 6)

theorem exec_tick : exec (.tick a b c imm) s = execTick a b c imm s := by rfl
theorem exec_rfade : exec (.rfade a b c imm) s = execRfade a b c imm s := by rfl
theorem exec_rwgt : exec (.rwgt a b c imm) s = execRwgt a b c imm s := by rfl
theorem exec_rinit : exec (.rinit a b c imm) s = execRinit a b c imm s := by rfl
theorem exec_fstep : exec (.fstep a b c imm) s = execFstep a b c imm s := by rfl

end

/-! ## A state that differs only in the scratchpads -/

/-- The second state is the first but for the scratchpads' bytes and dirty bits. -/
def SpadOnly (s t : State) : Prop := ∃ m d, t = { s with spad := m, dirty := d }

namespace SpadOnly
variable {s t u : State}

theorem refl (s : State) : SpadOnly s s := ⟨s.spad, s.dirty, rfl⟩

theorem wrS (h : SpadOnly s t) (core off n v : Nat) : SpadOnly s (t.wrS core off n v) := by
  obtain ⟨m, d, rfl⟩ := h
  exact ⟨_, _, rfl⟩

theorem foldl {β : Type} {f : State → β → State} (hf : ∀ (t : State) (x : β), SpadOnly s t → SpadOnly s (f t x)) (l : List β)
    (h : SpadOnly s t) : SpadOnly s (l.foldl f t) := by
  induction l generalizing t with
  | nil => exact h
  | cons x r ih => exact ih (hf t x h)

theorem cx (h : SpadOnly s t) : t.cx = s.cx := by
  obtain ⟨m, d, rfl⟩ := h
  rfl

theorem cur (h : SpadOnly s t) : t.cur = s.cur := by
  obtain ⟨m, d, rfl⟩ := h
  rfl

theorem here (h : SpadOnly s t) : t.here = s.here := congrArg coreOfCid h.cur

theorem sound (h : SpadOnly s t) : t.sound = s.sound := by
  obtain ⟨m, d, rfl⟩ := h
  rfl

theorem samePoint (h : SpadOnly s t) : SamePoint s t := by
  obtain ⟨m, d, rfl⟩ := h
  exact .of_ctxs rfl rfl

end SpadOnly

/-- A fold of writes that each miss some bytes keeps them. -/
theorem State.rdS_foldl {β : Type} {f : State → β → State} {core off n : Nat} (l : List β)
    (hf : ∀ (t : State) (x : β), x ∈ l → (f t x).rdS core off n = t.rdS core off n) (s : State) :
    (l.foldl f s).rdS core off n = s.rdS core off n := by
  induction l generalizing s with
  | nil => rfl
  | cons x r ih =>
    exact (ih (fun t y hy => hf t y (List.mem_cons_of_mem _ hy)) (f s x)).trans (hf s x List.mem_cons_self)

/-- A write in the same scratchpad that misses some bytes keeps them. -/
theorem State.rdS_wrS_apart (s : State) {core off n v off' n' : Nat} (h : off' + n' ≤ off ∨ off + n ≤ off') :
    (s.wrS core off n v).rdS core off' n' = s.rdS core off' n' := by
  refine State.rdS_wrS_ne s ?_
  unfold spadKey
  omega

/-! ## The header of a row (12 R238) -/

/-- A field of a number in memory that starts and ends at bytes. -/
theorem State.bitsOf_rdS (s : State) (core off : Nat) {n i k : Nat} (h : i + k ≤ n) :
    bitsOf (s.rdS core off n) (8 * i) (8 * k) = s.rdS core (off + i) k := by
  rw [s.rdS_part core off h, bitsOf, Nat.pow_mul, Nat.pow_mul]

/-- A row is read from the sixteen bytes of its header. -/
theorem State.rowAt_congr {s t : State} {core a : Nat} (h : t.rdS core a 8 = s.rdS core a 8)
    (h' : t.rdS core (a + 8) 8 = s.rdS core (a + 8) 8) : t.rowAt core a = s.rowAt core a := by
  rw [State.rowAt, State.rowAt, h, h']

theorem State.rowAt_stamp (s : State) (core a : Nat) : (s.rowAt core a).stamp = s.rdS core (a + 4) 4 :=
  s.bitsOf_rdS core a (n := 8) (i := 4) (k := 4) (by omega)

theorem State.rowAt_applied (s : State) (core a : Nat) : (s.rowAt core a).applied = s.rdS core (a + 2) 1 :=
  s.bitsOf_rdS core a (n := 8) (i := 2) (k := 1) (by omega)

theorem State.spadOnly_stampRow (s : State) (core : Nat) (c : Ctx) (r : Row) (stamp : Nat) :
    SpadOnly s (s.stampRow core c r stamp) := ((SpadOnly.refl s).wrS ..).wrS ..

/-- A stamped row has the new stamp and the current sequence number. -/
theorem State.stampRow_fields (s : State) (core : Nat) (c : Ctx) (r : Row) {stamp : Nat} (h : stamp < 2 ^ 32) :
    (s.stampRow core c r stamp).rdS core (r.addr + 4) 4 = stamp ∧
      (s.stampRow core c r stamp).rdS core (r.addr + 2) 1 = c.fld 0x044 0 8 := by
  have hseq : c.fld 0x044 0 8 < 2 ^ 8 := bitsOf_lt ..
  unfold State.stampRow
  refine ⟨?_, ?_⟩
  · rw [State.rdS_wrS_apart _ (by omega), State.rdS_wrS_self, Nat.mod_eq_of_lt (by omega)]
  · rw [State.rdS_wrS_self, Nat.mod_eq_of_lt (by omega)]

/-- Bytes behind the header stay. -/
theorem State.rdS_stampRow (s : State) (core : Nat) (c : Ctx) (r : Row) (stamp : Nat) {off n : Nat}
    (h : r.addr + 16 ≤ off ∨ off + n ≤ r.addr) : (s.stampRow core c r stamp).rdS core off n = s.rdS core off n := by
  rw [State.stampRow, State.rdS_wrS_apart _ (by omega), State.rdS_wrS_apart _ (by omega)]

/-! ## RFADE and RWGT -/

theorem State.rowSoft_sound {s : State} (h : s.sound = true) (core : Nat) (c : Ctx) (r : Row) (post : Bool) (j0 j1 : Nat) :
    s.rowSoft core c r post j0 j1 = 0 := by
  unfold State.rowSoft
  refine List.sum_eq_zero fun x hx => ?_
  obtain ⟨i, -, rfl⟩ := List.mem_map.1 hx
  simp [s.softS_sound h]

theorem State.headHeld_calm {s : State} (hs : s.calm = true) (row : Nat) : s.headHeld row = false := by
  rw [State.headHeld, State.localHeld_calm hs, Bool.and_false]

/-- A row that passes its checks is caught up and faded, then read. -/
theorem rowFade_calm {s : State} (hs : s.calm = true) {row idx : Nat} (hok : s.rowBad row false idx = none)
    (fin : Row → State → State) :
    rowFade row idx fin s = done (fin (s.rowAt s.here row) (s.fadeRow s.here s.cx (s.rowAt s.here row))) := by
  have hsound := s.calm_sound hs
  have hsyn : s.synBad s.here (s.rowAt s.here row) = none := s.badS_sound hsound _ _ _
  unfold rowFade
  dsimp only
  rw [State.headHeld_calm hs, hok]
  dsimp only
  rw [State.localHeld_calm hs, hsyn]
  dsimp only
  rw [watched_unwatched s (s.calm_unwatched hs), s.softS_sound hsound, State.rowSoft_sound hsound, State.addCerrOn_zero]
  rfl

/-! ## RINIT (12 R259) -/

/-- The doublewords of a new header (12 R238). -/
def headWord (stamp et seq n : Nat) : Nat := stamp * 2 ^ 32 + et * 2 ^ 24 + seq * 65536 + n

theorem headWord_fields {stamp et seq n : Nat} (hstamp : stamp < 2 ^ 32) (het : et < 2 ^ 8) (hseq : seq < 2 ^ 8)
    (hn : n < 2 ^ 16) : headWord stamp et seq n < 256 ^ 8 ∧ bitsOf (headWord stamp et seq n) 32 32 = stamp ∧
      bitsOf (headWord stamp et seq n) 24 8 = et ∧ bitsOf (headWord stamp et seq n) 16 8 = seq ∧
      bitsOf (headWord stamp et seq n) 0 16 = n := by
  unfold headWord bitsOf
  omega

/-- A row with a new header and its traces cleared. -/
def State.rowWritten (s : State) (core row x y n : Nat) : State :=
  (upTo n).foldl (fun s j => s.wrS core (row + 16 + 8 * j) 3 0) ((s.wrS core row 8 x).wrS core (row + 8) 8 y)

/-- The writes of the traces are all to the same core. -/
theorem State.foldl_wrS_here (row : Nat) {core : Nat} (l : List Nat) : ∀ {t : State}, t.here = core →
    l.foldl (fun s j => s.wrS s.here (row + 16 + 8 * j) 3 0) t = l.foldl (fun s j => s.wrS core (row + 16 + 8 * j) 3 0) t := by
  induction l with
  | nil => exact fun _ => by rw [List.foldl_nil, List.foldl_nil]
  | cons i r ih =>
    intro t ht
    rw [List.foldl_cons, List.foldl_cons, ht]
    exact ih ht

section
variable (s : State) (core row x y n : Nat)

theorem State.spadOnly_rowWritten : SpadOnly s (s.rowWritten core row x y n) :=
  SpadOnly.foldl (fun _ _ h => h.wrS ..) _ (((SpadOnly.refl s).wrS ..).wrS ..)

/-- The traces' writes miss the header and what is behind each trace. -/
theorem State.rdS_rowWritten {off k : Nat} (h : ∀ j, j < n → off + k ≤ row + 16 + 8 * j ∨ row + 19 + 8 * j ≤ off) :
    (s.rowWritten core row x y n).rdS core off k = ((s.wrS core row 8 x).wrS core (row + 8) 8 y).rdS core off k :=
  State.rdS_foldl (upTo n) (fun t j hj => t.rdS_wrS_apart (by have := h j (List.mem_range.1 hj); omega)) _

theorem State.rowWritten_head (hx : x < 256 ^ 8) (hy : y < 256 ^ 8) :
    (s.rowWritten core row x y n).rdS core row 8 = x ∧ (s.rowWritten core row x y n).rdS core (row + 8) 8 = y := by
  refine ⟨?_, ?_⟩
  · rw [State.rdS_rowWritten _ _ _ _ _ _ (fun j _ => by omega), State.rdS_wrS_apart _ (by omega), State.rdS_wrS_self, Nat.mod_eq_of_lt hx]
  · rw [State.rdS_rowWritten _ _ _ _ _ _ (fun j _ => by omega), State.rdS_wrS_self, Nat.mod_eq_of_lt hy]

/-- Clearing the traces of some synapses leaves a trace clear that is among them or was. -/
theorem State.rdS_cleared (l : List Nat) {j : Nat} : ∀ {t : State}, (j ∈ l ∨ t.rdS core (row + 16 + 8 * j) 3 = 0) →
    (l.foldl (fun s j => s.wrS core (row + 16 + 8 * j) 3 0) t).rdS core (row + 16 + 8 * j) 3 = 0 := by
  induction l with
  | nil => exact fun h => h.resolve_left List.not_mem_nil
  | cons i r ih =>
    intro t h
    refine ih ?_
    by_cases hij : j = i
    · right
      rw [hij, State.rdS_wrS_self, Nat.zero_mod]
    · obtain h | h := h
      · exact .inl ((List.mem_cons.1 h).resolve_left hij)
      · right
        rw [State.rdS_wrS_apart _ (by omega), h]

/-- Each trace is clear, and the rest of its synapse is as it was. -/
theorem State.rowWritten_synapse {j : Nat} (hj : j < n) : (s.rowWritten core row x y n).rdS core (row + 16 + 8 * j) 3 = 0 ∧
    (s.rowWritten core row x y n).rdS core (row + 19 + 8 * j) 5 = s.rdS core (row + 19 + 8 * j) 5 := by
  refine ⟨State.rdS_cleared core row (upTo n) (.inl (List.mem_range.2 hj)), ?_⟩
  rw [State.rdS_rowWritten _ _ _ _ _ _ (fun i _ => by omega), State.rdS_wrS_apart _ (by omega), State.rdS_wrS_apart _ (by omega)]

end

/-- The row that RINIT writes, and FPROGV cleared where it names the row. -/
def State.rowInit (s : State) (row v : Nat) : State :=
  let t := s.rowWritten s.here row (headWord (s.cx.fld 0x040 0 32) (bitsOf v 16 8) (s.cx.fld 0x044 0 8) (bitsOf v 0 16))
    (bitsOf v 32 32 * 2 ^ 32) (bitsOf v 0 16)
  if s.cx.fld 0x047 0 1 = 1 ∧ s.cx.fld 0x046 3 13 = row / 16 then t.setCx (t.cx.setFld 0x047 0 1 0) else t

/-- RINIT of a legal size and exponent, at a row in the scratchpad and outside the queue area. -/
theorem execRinit_writes {s : State} (hs : s.calm = true) (a b c : BitVec 4) (imm : BitVec 6) (halign : (s.w b).toNat % 16 = 0)
    (hin : (s.w b).toNat + 16 + 8 * bitsOf (s.w a).toNat 0 16 ≤ 0x20000)
    (harea : inArea s.mem.qbase (s.w b).toNat (16 + 8 * bitsOf (s.w a).toNat 0 16) = none) (hn : bitsOf (s.w a).toNat 0 16 ≠ 0)
    (hlo : -64 ≤ sint 8 (bitsOf (s.w a).toNat 16 8)) (hhi : sint 8 (bitsOf (s.w a).toNat 16 8) ≤ 63) :
    execRinit a b c imm s = .next (s.rowInit (s.w b).toNat (s.w a).toNat).advance := by
  have hbad : ¬ (bitsOf (s.w a).toNat 0 16 = 0 ∨ sint 8 (bitsOf (s.w a).toNat 16 8) < -64 ∨
      63 < sint 8 (bitsOf (s.w a).toNat 16 8)) := by omega
  rw [execRinit, reading_calm s hs]
  dsimp only
  rw [if_neg (not_not.2 halign), if_neg (by omega), harea]
  dsimp only
  rw [if_neg hbad, s.badS_sound (s.calm_sound hs)]
  dsimp only
  rw [State.localHeld_calm hs, watched_unwatched s (s.calm_unwatched hs), if_neg Bool.false_ne_true, done,
    State.here_wrS, State.foldl_wrS_here (core := s.here) _ _ (by rw [State.here_wrS, State.here_wrS])]
  unfold State.rowInit State.rowWritten headWord
  rfl

/-- FPROGV apart, RINIT leaves the written row. -/
theorem State.rowInit_cases (s : State) (row v : Nat) :
    let t := s.rowWritten s.here row (headWord (s.cx.fld 0x040 0 32) (bitsOf v 16 8) (s.cx.fld 0x044 0 8) (bitsOf v 0 16))
      (bitsOf v 32 32 * 2 ^ 32) (bitsOf v 0 16)
    s.rowInit row v = t ∨ s.rowInit row v = t.setCx (t.cx.setFld 0x047 0 1 0) := by
  unfold State.rowInit
  dsimp only
  split
  · exact .inr rfl
  · exact .inl rfl

/-- The row has the header, cleared traces, and the focus stands where it stood. -/
theorem State.rowInit_leaves (s : State) (row v : Nat) :
    (s.rowInit row v).rowAt s.here row =
      ⟨row, s.cx.fld 0x040 0 32, sint 8 (bitsOf v 16 8), s.cx.fld 0x044 0 8, bitsOf v 0 16, bitsOf v 32 32, false, false⟩ ∧
    (∀ j, j < bitsOf v 0 16 → (s.rowInit row v).rdS s.here (row + 16 + 8 * j) 3 = 0 ∧
      (s.rowInit row v).rdS s.here (row + 19 + 8 * j) 5 = s.rdS s.here (row + 19 + 8 * j) 5) ∧
    SamePoint s (s.rowInit row v) := by
  have hpost : bitsOf v 32 32 < 2 ^ 32 := bitsOf_lt ..
  have hcases := s.rowInit_cases row v
  obtain ⟨hx, hstamp, het, hseq, hn⟩ := headWord_fields (stamp := s.cx.fld 0x040 0 32) (et := bitsOf v 16 8)
    (seq := s.cx.fld 0x044 0 8) (n := bitsOf v 0 16) (bitsOf_lt ..) (bitsOf_lt ..) (bitsOf_lt ..) (bitsOf_lt ..)
  generalize headWord (s.cx.fld 0x040 0 32) (bitsOf v 16 8) (s.cx.fld 0x044 0 8) (bitsOf v 0 16) = x at *
  dsimp only at hcases
  obtain ⟨hlow, hhigh⟩ := s.rowWritten_head s.here row x (bitsOf v 32 32 * 2 ^ 32) (bitsOf v 0 16) hx (by omega)
  have htrace (j : Nat) (hj : j < bitsOf v 0 16) := s.rowWritten_synapse s.here row x (bitsOf v 32 32 * 2 ^ 32) (bitsOf v 0 16) hj
  have hpoint := (s.spadOnly_rowWritten s.here row x (bitsOf v 32 32 * 2 ^ 32) (bitsOf v 0 16)).samePoint
  generalize s.rowWritten s.here row x (bitsOf v 32 32 * 2 ^ 32) (bitsOf v 0 16) = t at *
  generalize s.rowInit row v = u at *
  have hrd (off k : Nat) : u.rdS s.here off k = t.rdS s.here off k := by
    obtain h | h := hcases
    · rw [h]
    · rw [h, State.rdS_setCx]
  refine ⟨?_, fun j hj => by rw [hrd, hrd]; exact htrace j hj, ?_⟩
  · have hy : bitsOf (bitsOf v 32 32 * 2 ^ 32) 32 32 = bitsOf v 32 32 ∧ bitAt (bitsOf v 32 32 * 2 ^ 32) 0 = false ∧
        bitAt (bitsOf v 32 32 * 2 ^ 32) 1 = false := by
      generalize bitsOf v 32 32 = y at hpost
      rw [bitAt_eq_bitsOf, bitAt_eq_bitsOf]
      unfold bitsOf
      simp only [beq_eq_false_iff_ne]
      omega
    obtain ⟨hpo, hfrozen, hlag⟩ := hy
    rw [State.rowAt, hrd, hrd, hlow, hhigh, hstamp, het, hseq, hn, hpo, hfrozen, hlag]
  · obtain h | h := hcases
    · rw [h]
      exact hpoint
    · rw [h]
      exact hpoint.trans (SamePoint.setCx rfl rfl rfl)

/-! ## FSTEP (12 R252, R253) -/

/-- What the checks of R252 say of a row that passes them for FSTEP. -/
theorem State.rowBad_fstep {s : State} {row : Nat} (h : s.rowBad row true 0 = none) :
    row + (s.rowAt s.here row).size ≤ 0x20000 ∧
      s.cx.fld 0x041 0 17 + 8 * (s.rowAt s.here row).post + 8 * (s.rowAt s.here row).n ≤ 0x20000 := by
  generalize hr : s.rowAt s.here row = r
  unfold State.rowBad at h
  dsimp only at h
  rw [hr] at h
  split at h
  · cases h
  split at h
  · cases h
  split at h
  · cases h
  split at h
  · cases h
  next hsize =>
  split at h
  · cases h
  next hpost =>
  split at h
  · next hsome => rw [h] at hsome; cases hsome
  split at h
  · next hsome => rw [h] at hsome; exact absurd hsome.2.2 Bool.false_ne_true
  split at h
  · cases h
  next hrange =>
  have hn : r.n ≠ 0 := fun h0 => hrange (.inr (.inr (by omega)))
  have hpost' : ¬ 0x20000 < s.cx.fld 0x041 0 17 + 8 * r.post + 8 * r.n := fun hlt => hpost ⟨rfl, by omega, hlt⟩
  omega

/-- No held broadcast follows APPLIED where none is missing. -/
theorem Ctx.lastHeld_none {c : Ctx} {r : Row} (h : r.missing c = 0) : c.lastHeld r = [] := by
  refine List.filter_eq_nil_iff.2 fun b _ hb => ?_
  have := of_decide_eq_true hb
  omega

/-- A synapse that no broadcast catches up keeps its weight. -/
theorem synFade_weight (c : Ctx) (core j : Nat) (r : Row) (prev tick x : Nat) :
    bitsOf (synFade c core j r prev x [] tick) 32 32 = bitsOf x 32 32 := by
  have ht := wrapInt_lt 24 (fade (sint 24 (bitsOf x 0 24)) (c.fld (0x050 + bitsOf x 28 4) 0 16) (ticks prev tick))
  have hw : bitsOf x 32 32 < 2 ^ 32 := bitsOf_lt ..
  have hc : bitsOf x 24 8 < 2 ^ 8 := bitsOf_lt ..
  have hfade : synFade c core j r prev x [] tick = synWord x
      (wrapInt 24 (fade (sint 24 (bitsOf x 0 24)) (c.fld (0x050 + bitsOf x 28 4) 0 16) (ticks prev tick))) (bitsOf x 32 32) := rfl
  rw [hfade]
  generalize wrapInt 24 (fade (sint 24 (bitsOf x 0 24)) (c.fld (0x050 + bitsOf x 28 4) 0 16) (ticks prev tick)) = t at *
  unfold synWord
  generalize bitsOf x 32 32 = w at *
  generalize bitsOf x 24 8 = k at *
  unfold bitsOf
  omega

/-- Address of post entry j of a row (12 R239). -/
def Row.postAt (r : Row) (c : Ctx) (j : Nat) : Nat := c.fld 0x041 0 17 + 8 * r.post + 8 * j

/-- The accumulator of post entry j after a synapse word (12 R253). -/
def State.accOf (s : State) (core j x y w : Nat) : Nat :=
  roundF f32 .rne (fmaVals .rne (mkNan core j) (decodeF f32 (bitsOf w 32 32)) (decodeF f32 x) (decodeF f32 (s.rdS core y 4)))

/-- FSTEP's work on one synapse, its word and post entry sound, and the saturations it counts. -/
def State.fstepOne (s : State) (core : Nat) (c : Ctx) (r : Row) (x old tick : Nat) (bs : List Bcast) (j : Nat) : State × Nat :=
  let w := synFade c core j r old (s.rdS core (r.syn j) 8) bs tick
  let t := accumulate core j r.et x (s.rdS core (r.postAt c j + 4) 4) (sint 24 (bitsOf w 0 24))
  ((s.wrS core (r.postAt c j) 4 (s.accOf core j x (r.postAt c j) w)).wrS core (r.syn j) 8
    (synWord w (wrapInt 24 t.1) (bitsOf w 32 32)), t.2)

section
variable {core : Nat} {c : Ctx} {r : Row} (x old tick : Nat) (bs : List Bcast)

/-- One synapse's work writes the synapse and the post entry's accumulator. -/
theorem State.rdS_fstepOne (s : State) {j off n : Nat} (hpost : off + n ≤ r.postAt c j ∨ r.postAt c j + 4 ≤ off)
    (hsyn : off + n ≤ r.syn j ∨ r.syn j + 8 ≤ off) :
    (s.fstepOne core c r x old tick bs j).1.rdS core off n = s.rdS core off n :=
  (State.rdS_wrS_apart _ hsyn).trans (State.rdS_wrS_apart _ hpost)

theorem State.fstepOne_acc (s : State) {j : Nat} (hapart : r.postAt c j + 4 ≤ r.syn j ∨ r.syn j + 8 ≤ r.postAt c j) :
    (s.fstepOne core c r x old tick bs j).1.rdS core (r.postAt c j) 4 =
      s.accOf core j x (r.postAt c j) (synFade c core j r old (s.rdS core (r.syn j) 8) bs tick) % 2 ^ 32 :=
  (State.rdS_wrS_apart _ hapart).trans (State.rdS_wrS_self _ _ _ _ _)

/-- FSTEP's work on all synapses. -/
def State.fstepAll (s : State) (core : Nat) (c : Ctx) (r : Row) (x old tick : Nat) (bs : List Bcast) (js : List Nat) : State :=
  js.foldl (fun t j => (t.fstepOne core c r x old tick bs j).1) s

theorem State.spadOnly_fstepAll (s : State) (js : List Nat) : SpadOnly s (s.fstepAll core c r x old tick bs js) :=
  SpadOnly.foldl (fun _ _ h => (h.wrS ..).wrS ..) js (.refl s)

/-- The whole work keeps bytes apart from the synapses and post entries. -/
theorem State.rdS_fstepAll (s : State) (js : List Nat) {off n : Nat}
    (h : ∀ j ∈ js, (off + n ≤ r.postAt c j ∨ r.postAt c j + 4 ≤ off) ∧ (off + n ≤ r.syn j ∨ r.syn j + 8 ≤ off)) :
    (s.fstepAll core c r x old tick bs js).rdS core off n = s.rdS core off n :=
  State.rdS_foldl js (fun t j hj => t.rdS_fstepOne x old tick bs (h j hj).1 (h j hj).2) s

/-- Each accumulator is what its own synapse's work gives, from the bytes before the work. -/
theorem State.fstepAll_acc (hapart : ∀ i j, i < r.n → j < r.n → r.postAt c i + 8 ≤ r.syn j ∨ r.syn j + 8 ≤ r.postAt c i) {j : Nat}
    (hj : j < r.n) (js : List Nat) : ∀ s : State, j ∈ js → js.Nodup → (∀ i ∈ js, i < r.n) →
    (s.fstepAll core c r x old tick bs js).rdS core (r.postAt c j) 4 =
      s.accOf core j x (r.postAt c j) (synFade c core j r old (s.rdS core (r.syn j) 8) bs tick) % 2 ^ 32 := by
  have hsyn (i : Nat) (hi : i ≠ j) : r.syn j + 8 ≤ r.syn i ∨ r.syn i + 8 ≤ r.syn j := by
    unfold Row.syn
    omega
  have hpost (i : Nat) (hi : i ≠ j) : r.postAt c j + 4 ≤ r.postAt c i ∨ r.postAt c i + 4 ≤ r.postAt c j := by
    unfold Row.postAt
    omega
  induction js with
  | nil => exact fun _ h => absurd h List.not_mem_nil
  | cons i l ih =>
    intro s hmem hnodup hlt
    obtain ⟨hi, hl⟩ := List.nodup_cons.1 hnodup
    have hlt' := fun k hk => hlt k (List.mem_cons_of_mem _ hk)
    by_cases hij : i = j
    · subst hij
      have hrest := State.rdS_fstepAll (core := core) x old tick bs (s.fstepOne core c r x old tick bs i).1 l
        (off := r.postAt c i) (n := 4) fun k hk =>
          ⟨hpost k fun h => hi (h ▸ hk), by have := hapart i k hj (hlt' k hk); omega⟩
      have hown := hapart i i hj hj
      exact hrest.trans (s.fstepOne_acc x old tick bs (by omega))
    · have hown := hapart i j (hlt i List.mem_cons_self) hj
      have hown' := hapart j i hj (hlt i List.mem_cons_self)
      refine (ih (s.fstepOne core c r x old tick bs i).1 ((List.mem_cons.1 hmem).resolve_left (Ne.symm hij)) hl hlt').trans ?_
      rw [State.accOf, State.accOf, s.rdS_fstepOne x old tick bs (by omega) (hsyn i hij),
        s.rdS_fstepOne x old tick bs (hpost i hij) (by omega)]

end

/-- A fold that carries a count and never stops is its fold over the states. -/
theorem foldl_unstopped {σ β γ : Type} {F : σ × Nat × Option γ → β → σ × Nat × Option γ} {G : σ → β → σ × Nat} {P : σ → Prop}
    (hP : ∀ t j, P t → P (G t j).1) (l : List β)
    (hF : ∀ t k j, j ∈ l → P t → F (t, k, none) j = ((G t j).1, k + (G t j).2, none)) :
    ∀ t k, P t → ∃ n, l.foldl F (t, k, none) = (l.foldl (fun t j => (G t j).1) t, n, none) := by
  induction l with
  | nil => exact fun t k _ => ⟨k, rfl⟩
  | cons j l ih =>
    intro t k h
    rw [List.foldl_cons, List.foldl_cons, hF t k j List.mem_cons_self h]
    exact ih (fun t k i hi => hF t k i (List.mem_cons_of_mem _ hi)) _ _ (hP t j h)

/-- With all words sound and in the scratchpad, FSTEP's work stops at no synapse. -/
theorem State.fstepFrom_sound {s : State} (h : s.sound = true) {core : Nat} {c : Ctx} {r : Row} (x old tick : Nat) (bs : List Bcast)
    (hrow : r.addr + r.size ≤ 0x20000) (hpost : r.postAt c r.n ≤ 0x20000) :
    ∃ n, s.fstepFrom core c r x old tick 0 bs = (s.fstepAll core c r x old tick bs (upTo r.n), n, none) := by
  unfold State.fstepFrom
  simp only [Nat.sub_zero, Nat.zero_add, List.map_id']
  refine foldl_unstopped (G := fun t j => t.fstepOne core c r x old tick bs j) (P := fun t => t.sound = true)
    (fun t j ht => (((SpadOnly.refl t).wrS ..).wrS ..).sound.trans ht) (upTo r.n) (fun t k j hj ht => ?_) s 0 h
  have hj' : j < r.n := List.mem_range.1 hj
  have hsyn : r.syn j % 131072 = r.syn j := Nat.mod_eq_of_lt (by unfold Row.syn Row.size at *; omega)
  have hpo : (c.fld 0x041 0 17 + 8 * (r.post + j)) % 131072 = r.postAt c j := by
    unfold Row.postAt at *
    rw [Nat.mod_eq_of_lt (by omega)]
    omega
  dsimp only
  rw [hsyn, hpo, t.badS_sound ht, t.badS_sound ht]
  rfl

theorem Ctx.atPoint_countLater (c : Ctx) (code n : Nat) : c.AtPoint (c.countLater code n) := by
  obtain ⟨cr, hc⟩ := c.count_eq code n
  unfold Ctx.countLater
  split
  · rw [hc]
    exact ⟨rfl, rfl, rfl⟩
  · exact ⟨rfl, rfl, rfl⟩

/-- Where a context stands. -/
def Ctx.point (c : Ctx) : Word × Option Line × Option RepRun := (c.pc, c.line, c.rep)

theorem Ctx.AtPoint.point {c d : Ctx} (h : c.AtPoint d) : d.point = c.point := by
  obtain ⟨hpc, hline, hrep⟩ := h
  rw [Ctx.point, Ctx.point, hpc, hline, hrep]

/-- Counting saturations moves no point of execution. -/
theorem State.samePoint_countSat (s : State) (cid idx n : Nat) : SamePoint s (s.countSat cid idx n) := by
  have hpoint : ((s.countSat cid idx n).ctx s.cur).point = (s.ctx s.cur).point :=
    State.countSat_parts (p := fun t => (t.ctx s.cur).point) (fun _ _ _ => rfl)
      (fun t cid n => State.ctx_updCtx_keeps (q := Ctx.point) (fun c => (c.atPoint_countLater 10 n).point) t cid s.cur)
      (fun t cid x => State.ctx_updCtx_keeps (q := Ctx.point) (f := fun c => { c with pendSat := c.pendSat ++ x }) (fun _ => rfl)
        t cid s.cur)
      s cid idx n
  have hcx : (s.countSat cid idx n).cx = (s.countSat cid idx n).ctx s.cur := by rw [State.cx, s.cur_countSat]
  rw [← hcx] at hpoint
  exact ⟨s.cur_countSat cid idx n, congrArg Prod.fst hpoint, congrArg (fun x => x.2.1) hpoint, congrArg (fun x => x.2.2) hpoint⟩

/-- The state after FSTEP's work: the saturations counted, FPROGV clear. -/
def State.fstepEnd (t : State) (n : Nat) : State :=
  let t := t.countSat t.cur t.satOf n
  t.setCx { t.cx.setFld 0x047 0 1 0 with fsat := 0 }

theorem State.rdS_fstepEnd (t : State) (k core off n : Nat) : (t.fstepEnd k).rdS core off n = t.rdS core off n := by
  rw [State.fstepEnd, State.rdS_setCx, State.rdS, State.rdS, t.spad_countSat]

theorem State.samePoint_fstepEnd (t : State) (n : Nat) : SamePoint t (t.fstepEnd n) :=
  (t.samePoint_countSat _ _ _).trans (SamePoint.setCx rfl rfl rfl)

theorem fstepRun_sound {s : State} (h : s.sound = true) {r : Row} (x old tick : Nat) (bs : List Bcast)
    (hrow : r.addr + r.size ≤ 0x20000) (hpost : r.postAt s.cx r.n ≤ 0x20000) :
    ∃ n, fstepRun r x old tick 0 bs s = done ((s.fstepAll s.here s.cx r x old tick bs (upTo r.n)).fstepEnd n) := by
  obtain ⟨n, hn⟩ := State.fstepFrom_sound h x old tick bs hrow hpost (core := s.here)
  refine ⟨n + s.cx.fsat, ?_⟩
  unfold fstepRun
  dsimp only
  rw [hn, State.rowSoft_sound h, State.addCerrOn_zero]
  rfl

/-- FSTEP of a row that passes its checks stamps it and does its work. -/
theorem execFstep_steps {s : State} (hs : s.calm = true) (a b c : BitVec 4) (imm : BitVec 6) (hnew : s.cx.fld 0x047 0 1 = 0)
    (hok : s.rowBad (s.w b).toNat true 0 = none) :
    let r := s.rowAt s.here (s.w b).toNat
    let t := (s.stampRow s.here s.cx r (s.cx.fld 0x040 0 32)).setCx { s.cx with fsat := 0 }
    execFstep a b c imm s =
      fstepRun r (bitsOf (s.w a).toNat 0 32) r.stamp (s.cx.fld 0x040 0 32) 0 (s.cx.lastHeld r) t := by
  have hsound := s.calm_sound hs
  rw [execFstep, reading_calm s hs]
  dsimp only
  rw [if_neg (by omega), State.headHeld_calm hs, if_neg Bool.false_ne_true, hok]
  dsimp only
  rw [State.localHeld_calm hs, if_neg Bool.false_ne_true, watched_unwatched s (s.calm_unwatched hs), s.softS_sound hsound,
    State.addCerrOn_zero, (s.spadOnly_stampRow ..).cx]

/-- The state in which FSTEP has stamped its row. -/
def State.fstepStart (s : State) (r : Row) : State :=
  (s.stampRow s.here s.cx r (s.cx.fld 0x040 0 32)).setCx { s.cx with fsat := 0 }

/-- The state in which FSTEP has done its work. -/
def State.fstepped (s : State) (r : Row) (x : Nat) : State :=
  (s.fstepStart r).fstepAll s.here { s.cx with fsat := 0 } r x r.stamp (s.cx.fld 0x040 0 32) (s.cx.lastHeld r) (upTo r.n)

theorem State.samePoint_fstepped (s : State) (r : Row) (x : Nat) : SamePoint s (s.fstepped r x) :=
  have hstart : SamePoint s (s.fstepStart r) :=
    (s.spadOnly_stampRow s.here s.cx r (s.cx.fld 0x040 0 32)).samePoint.trans
      (SamePoint.setCx rfl rfl rfl)
  hstart.trans (State.spadOnly_fstepAll ..).samePoint

theorem State.rdS_fstepStart (s : State) {core : Nat} (r : Row) {off n : Nat} (hcore : core = s.here)
    (h : r.addr + 16 ≤ off ∨ off + n ≤ r.addr) : (s.fstepStart r).rdS core off n = s.rdS core off n := by
  rw [State.fstepStart, State.rdS_setCx, hcore, s.rdS_stampRow _ _ _ _ h]

section
variable {s : State} {r : Row} (x : Nat)
variable (hapart : s.cx.fld 0x041 0 17 + 8 * r.post + 8 * r.n ≤ r.addr ∨ r.addr + r.size ≤ s.cx.fld 0x041 0 17 + 8 * r.post)
include hapart

/-- The row's header keeps its stamp and number throughout the work on post entries apart from the row. -/
theorem State.fstepped_header : (s.fstepped r x).rdS s.here (r.addr + 4) 4 = s.cx.fld 0x040 0 32 ∧
    (s.fstepped r x).rdS s.here (r.addr + 2) 1 = s.cx.fld 0x044 0 8 := by
  have htick : s.cx.fld 0x040 0 32 < 2 ^ 32 := bitsOf_lt ..
  have hkeep {off n : Nat} (h : r.addr ≤ off) (h' : off + n ≤ r.addr + 16) :
      (s.fstepped r x).rdS s.here off n = (s.fstepStart r).rdS s.here off n := by
    refine State.rdS_fstepAll x _ _ _ _ _ fun j hj => ?_
    have hj' := List.mem_range.1 hj
    have hpost : r.postAt { s.cx with fsat := 0 } j = s.cx.fld 0x041 0 17 + 8 * r.post + 8 * j := rfl
    unfold Row.size at hapart
    rw [hpost, Row.syn]
    omega
  rw [hkeep (by omega) (by omega), hkeep (by omega) (by omega), State.fstepStart, State.rdS_setCx, State.rdS_setCx]
  exact State.stampRow_fields s s.here s.cx r htick

/-- With no broadcast missing, each accumulator has its synapse's weight times x added. -/
theorem State.fstepped_acc (hmissing : r.missing s.cx = 0) {j : Nat} (hj : j < r.n) :
    (s.fstepped r x).rdS s.here (s.cx.fld 0x041 0 17 + 8 * r.post + 8 * j) 4 =
      (roundF f32 .rne (fmaVals .rne (mkNan s.here j) (decodeF f32 (s.rdS s.here (r.syn j + 4) 4)) (decodeF f32 x)
        (decodeF f32 (s.rdS s.here (s.cx.fld 0x041 0 17 + 8 * r.post + 8 * j) 4)))) % 2 ^ 32 := by
  have hpost (i : Nat) : r.postAt { s.cx with fsat := 0 } i = s.cx.fld 0x041 0 17 + 8 * r.post + 8 * i := rfl
  have happart' (i k : Nat) (hi : i < r.n) (hk : k < r.n) :
      r.postAt { s.cx with fsat := 0 } i + 8 ≤ r.syn k ∨ r.syn k + 8 ≤ r.postAt { s.cx with fsat := 0 } i := by
    unfold Row.size at hapart
    rw [hpost, Row.syn]
    omega
  have hacc := State.fstepAll_acc (core := s.here) (c := { s.cx with fsat := 0 }) x r.stamp (s.cx.fld 0x040 0 32) (s.cx.lastHeld r)
    happart' hj (upTo r.n) (s.fstepStart r) (List.mem_range.2 hj) List.nodup_range fun i hi => List.mem_range.1 hi
  refine hacc.trans ?_
  unfold Row.size at hapart
  rw [Ctx.lastHeld_none hmissing, State.accOf, synFade_weight, s.rdS_fstepStart r rfl (by unfold Row.syn; omega),
    s.rdS_fstepStart r rfl (by rw [hpost]; omega), s.bitsOf_rdS s.here (r.syn j) (n := 8) (i := 4) (k := 4) (by omega), hpost]

end

/-- Settles O38: TICK and the fades are their definitions' own case; RINIT writes the header and clears the traces; FSTEP stamps the
row, and each accumulator is read and written by its own synapse's work only. -/
theorem rowResult : Obligations.RowResult := by
  unfold Obligations.RowResult
  intro s a b c imm hs row r tclk seq
  have hrep := s.calm_rep hs
  refine ⟨rfl, fun hok => ?_, ?_, ?_, ?_⟩
  · rw [exec_rfade, execRfade, reading_calm s hs, rowFade_calm hs hok]
    rfl
  · intro hok u
    rw [exec_rwgt, execRwgt, reading_calm s hs]
    dsimp only
    rw [rowFade_calm hs hok]
    rfl
  · intro v n et halign hin harea hn hlo hhi
    rw [exec_rinit, execRinit_writes hs a b c imm halign hin harea hn hlo hhi]
    obtain ⟨hrow, htrace, hpoint⟩ := s.rowInit_leaves row v
    obtain ⟨hrep', hpc⟩ := hpoint.advance_pc hrep
    generalize s.rowInit row v = t at *
    have hrd (core off k : Nat) : t.advance.rdS core off k = t.rdS core off k :=
      t.advance_keeps (fun t => t.rdS core off k) (fun _ _ => rfl) hrep'
    exact ⟨_, rfl, (State.rowAt_congr (hrd ..) (hrd ..)).trans hrow, fun j hj => by rw [hrd, hrd]; exact htrace j hj, hpc⟩
  · intro p hnew hok hapart
    rw [exec_fstep, execFstep_steps hs a b c imm hnew hok]
    obtain ⟨hsize, hposts⟩ := State.rowBad_fstep hok
    have hstamp := s.spadOnly_stampRow s.here s.cx r tclk
    obtain ⟨n, hrun⟩ := fstepRun_sound (s := s.fstepStart r) (r := r) (hstamp.sound.trans (s.calm_sound hs))
      (bitsOf (s.w a).toNat 0 32) r.stamp tclk (s.cx.lastHeld r) hsize (by rw [State.fstepStart, State.cx_setCx]; exact hposts)
    have hhere : (s.fstepStart r).here = s.here := hstamp.here
    rw [hhere, State.fstepStart, State.cx_setCx] at hrun
    have hpoint := (s.samePoint_fstepped r (bitsOf (s.w a).toNat 0 32)).trans (State.samePoint_fstepEnd _ n)
    obtain ⟨hrep', hpc⟩ := hpoint.advance_pc hrep
    have hrd (core off k : Nat) : ((s.fstepped r (bitsOf (s.w a).toNat 0 32)).fstepEnd n).advance.rdS core off k =
        (s.fstepped r (bitsOf (s.w a).toNat 0 32)).rdS core off k :=
      (State.advance_keeps (fun t => t.rdS core off k) (fun _ _ => rfl) hrep').trans (State.rdS_fstepEnd ..)
    obtain ⟨hhead, happlied⟩ := State.fstepped_header (bitsOf (s.w a).toNat 0 32) hapart
    refine ⟨((s.fstepped r (bitsOf (s.w a).toNat 0 32)).fstepEnd n).advance, hrun, ?_, ?_, fun hmissing j hj => ?_, hpc⟩
    · rw [State.rowAt_stamp, hrd]
      exact hhead
    · rw [State.rowAt_applied, hrd]
      exact happlied
    · rw [hrd]
      exact State.fstepped_acc (bitsOf (s.w a).toNat 0 32) hapart hmissing hj

end Sys2Proof.Machine

/-! PROOFS. Broadcasts of a learning group and their steps (12 R246 to R249, R256, R260). -/

namespace Sys2Proof.Machine

section
variable (s : State) (a b c : BitVec 4) (imm : BitVec 6) (id cid : Nat)

theorem exec_bcast : exec (.bcast a b c imm) s = execBcast a b c imm s := by rfl
theorem exec_bacc : exec (.bacc a b c imm) s = execBacc a b c imm s := by rfl
theorem exec_bwait : exec (.bwait a b c imm) s = execBwait a b c imm s := by rfl
theorem exec_bseq : exec (.bseq a b c imm) s = execBseq a b c imm s := by rfl
theorem exec_bcastRequestArrival : exec (.bcastRequestArrival id) s = execBcastRequestArrival id s := by rfl
theorem exec_bcastAnswerArrival : exec (.bcastAnswerArrival id) s = execBcastAnswerArrival id s := by rfl
theorem exec_broadcastReceive : exec (.broadcastReceive id) s = execBroadcastReceive id s := by rfl
theorem exec_broadcastAccept : exec (.broadcastAccept cid) s = execBroadcastAccept cid s := by rfl
theorem exec_sweepWalk : exec (.sweepWalk cid) s = execSweepWalk cid s := by rfl
theorem exec_retirementReportArrival : exec (.retirementReportArrival id) s = execRetirementReportArrival id s := by rfl

end

/-! ## The instructions -/

section
variable {s : State} {i : Instr} {k : Out}

theorem learning_some (h : s.cx.get 0x043 ≠ 0) : learning i s k = k := if_neg h

theorem learning_none (h : s.cx.get 0x043 = 0) :
    learning i s k = .next (s.takeTrap 0x04 (s.asWritten (encWord i)) s.cx.pc) := by
  rw [learning, if_pos h]
  rfl

end

/-- A calm strand has no broadcast on its way, and room in its class of loads. -/
theorem execBcast_calm {s : State} (hs : s.calm = true) (hlg : s.cx.get 0x043 ≠ 0) (a b c : BitVec 4) (imm : BitVec 6) :
    execBcast a b c imm s =
      let lg := (s.cx.get 0x043).toNat
      let r := bitsOf (s.w b).toNat 0 32
      let here := (s.lgroup lg).isSome
      let u := s.fly (.bcastReq lg s.cur (s.cx.wOff a.toNat) r)
      if ¬ here = true ∧ (mget s.mtrees lg).isNone = true then done (s.setW a (toWord (2 ^ 63)))
      else done ((if here then u else u.sendFlits (u.routeTo (Config.freeChoice s.uid)) s.uid [9, lg, r]).progress s.cx.group) := by
  obtain ⟨-, -, hflights, -⟩ := s.calm_parts hs
  rw [execBcast, learning_some hlg, reading_calm s hs]
  dsimp only
  rw [hflights, List.any_nil, if_neg Bool.false_ne_true, s.calm_classL hs, if_neg (show ¬ 64 ≤ 0 by decide)]

/-- A learning group's instructions: what each does with one, and that without one only BSEQ is legal. -/
theorem learning_instructions {s : State} (hs : s.calm = true) (a b c : BitVec 4) (imm : BitVec 6) :
    let lg := (s.cx.get 0x043).toNat
    (lg ≠ 0 →
      (s.lgroup lg = none → mget s.mtrees lg = none → exec (.bcast a b c imm) s = .next (s.setW a (toWord (2 ^ 63))).advance) ∧
      (∀ g, s.lgroup lg = some g → exec (.bcast a b c imm) s =
        .next ((s.fly (.bcastReq lg s.cur (s.cx.wOff a.toNat) (bitsOf (s.w b).toNat 0 32))).progress s.cx.group).advance) ∧
      (s.cx.fld 0x045 0 1 = 1 → s.cx.pend ≠ [] →
        exec (.bacc a b c imm) s = .next ((s.setCx s.cx.acceptOne).setW a 1).advance) ∧
      ((s.cx.fld 0x045 0 1 = 0 ∨ s.cx.pend = []) → exec (.bacc a b c imm) s = .next (s.setW a 0).advance) ∧
      (s.cx.fld 0x044 16 3 = 0 → exec (.bwait a b c imm) s = .next s.advance) ∧
      exec (.bseq a b c imm) s = .next (s.setW a (s.cx.get 0x044)).advance) ∧
    (lg = 0 → exec (.bseq a b c imm) s = .next (s.setW a 0).advance ∧
      exec (.bcast a b c imm) s = .next (s.takeTrap 0x04 (s.asWritten (encWord (.bcast a b c imm))) s.cx.pc) ∧
      exec (.bacc a b c imm) s = .next (s.takeTrap 0x04 (s.asWritten (encWord (.bacc a b c imm))) s.cx.pc) ∧
      exec (.bwait a b c imm) s = .next (s.takeTrap 0x04 (s.asWritten (encWord (.bwait a b c imm))) s.cx.pc)) := by
  intro lg
  rw [exec_bcast, exec_bacc, exec_bwait, exec_bseq]
  refine ⟨fun hne => ?_, fun h0 => ?_⟩
  · have hlg : s.cx.get 0x043 ≠ 0 := fun h => hne (by simp only [lg, h]; rfl)
    rw [execBcast_calm hs hlg, execBacc, execBwait, execBseq, learning_some hlg, learning_some hlg, if_neg hlg]
    dsimp only
    refine ⟨fun hnone htree => ?_, fun g hg => ?_, fun hmode hpend => ?_, fun hnone => ?_, fun hheld => ?_, rfl⟩
    · rw [hnone, htree, if_pos ⟨Bool.false_ne_true, rfl⟩]
      rfl
    · rw [hg, if_neg (fun h => h.1 rfl)]
      rfl
    · rw [if_neg fun h => h.elim (by omega) fun h => hpend (List.isEmpty_iff.1 h)]
      rfl
    · rw [if_pos (hnone.imp_right List.isEmpty_iff.2)]
      rfl
    · rw [if_pos hheld]
      rfl
  · have hlg : s.cx.get 0x043 = 0 := BitVec.eq_of_toNat_eq h0
    rw [execBcast, execBacc, execBwait, execBseq, learning_none hlg, learning_none hlg, learning_none hlg, if_pos hlg]
    exact ⟨rfl, rfl, rfl, rfl⟩

/-! ## Items in flight -/

/-- The first of a list stays the first of a longer one. -/
theorem pick_append {α : Type} {p : α → Bool} {l : List α} {x : α} (h : pick p l = some x) (r : List α) :
    pick p (l ++ r) = some x := by
  induction l with
  | nil => cases h
  | cons y l ih =>
    rw [List.cons_append, pick]
    rw [pick] at h
    split at h
    · next hp => rw [if_pos hp, h]
    · next hp => rw [if_neg hp, ih h]

/-- The cargo of the item with an identifier, whether it may arrive or not. -/
def State.cargoOf (s : State) (id : Nat) : Option Cargo := (pick (fun f => f.id == id) s.flights).map fun f => f.cargo

theorem State.cargoOf_flight {s : State} {id : Nat} {x : Cargo} (h : s.flight id = some x) : s.cargoOf id = some x := by
  rw [State.flight] at h
  split at h
  · cases h
  · exact h

theorem State.cargoOf_fly {s : State} {id : Nat} {x : Cargo} (h : s.cargoOf id = some x) (y : Cargo) : (s.fly y).cargoOf id = some x := by
  obtain ⟨f, hf, hx⟩ := Option.map_eq_some_iff.1 h
  exact Option.map_eq_some_iff.2 ⟨f, pick_append hf _, hx⟩

/-- The first of some items with an identifier, its cargo replaced. -/
theorem pick_reflown (id : Nat) (y : Cargo) : ∀ {l : List Flight} {f : Flight}, pick (fun f => f.id == id) l = some f →
    pick (fun f => f.id == id) (l.map fun f => if f.id = id then ⟨id, y⟩ else f) = some ⟨id, y⟩ := by
  intro l
  induction l with
  | nil => exact fun h => nomatch h
  | cons g l ih =>
    intro f h
    rw [List.map_cons, pick]
    rw [pick] at h
    by_cases hg : g.id = id
    · simp [hg]
    · simp only [if_neg hg, beq_iff_eq] at h ⊢
      exact ih h

/-- An item that is there has the cargo that takes its place. -/
theorem State.cargoOf_refly {s : State} {id : Nat} {x : Cargo} (h : s.cargoOf id = some x) (y : Cargo) :
    (s.refly id y).cargoOf id = some y := by
  obtain ⟨f, hf, -⟩ := Option.map_eq_some_iff.1 h
  exact Option.map_eq_some_iff.2 ⟨_, pick_reflown id y hf, rfl⟩

/-! ## The root (12 R246, R247) -/

/-- The copies of a broadcast for the members of this device. -/
def State.sendBcast (s : State) (lg : Nat) (g : LearnGroup) (r : Nat) (vs : List Nat) : State :=
  vs.foldl (fun s v => if s.liveMember g.group v ∧ (s.member g.group v).retired ≠ leftWindow
    then s.fly (.bcast lg g.group v g.next r) else s) s

/-- What every item put in flight keeps, the copies of a broadcast keep. -/
theorem State.sendBcast_ind {P : State → Prop} (h : ∀ (t : State) (c : Cargo), P t → P (t.fly c)) (lg : Nat) (g : LearnGroup) (r : Nat)
    (vs : List Nat) : ∀ {s : State}, P s → P (s.sendBcast lg g r vs) := by
  induction vs with
  | nil => exact id
  | cons v vs ih =>
    intro s hs
    refine ih ?_
    dsimp only
    split
    · exact h s _ hs
    · exact hs

theorem State.mcastAway_ind {P : State → Prop} (h : ∀ (t : State) (c : Cargo), P t → P (t.fly c)) {s : State} (hs : P s)
    (lg num r : Nat) : P (s.mcastAway lg num r) := by
  unfold State.mcastAway
  split
  · exact hs
  · exact h s _ hs

/-- The root's answer, the next number assigned. -/
def State.rootAnswers (s : State) (id lg cid dst : Nat) (g : LearnGroup) : State :=
  { s.reflyFrom ((s.rootCore lg).getD 6144) id (.bcastAns cid dst (some (g.next % 2 ^ 32))) with
    learn := mput s.learn (lg % 4096) { g with next := g.next + 1 } }

/-- The root's answer and multicast. -/
def State.rootSends (s : State) (id lg cid dst r : Nat) (g : LearnGroup) : State :=
  ((s.rootAnswers id lg cid dst g).sendBcast lg g r (upTo (s.nMembers g.group))).mcastAway lg g.next r

theorem State.rootSends_leaves {s : State} {id lg cid dst r : Nat} {g : LearnGroup} {x : Cargo} (h : s.cargoOf id = some x) :
    (s.rootSends id lg cid dst r g).cargoOf id = some (.bcastAns cid dst (some (g.next % 2 ^ 32))) ∧
      mget (s.rootSends id lg cid dst r g).learn (lg % 4096) = some { g with next := g.next + 1 } := by
  have hans : (s.rootAnswers id lg cid dst g).cargoOf id = some (.bcastAns cid dst (some (g.next % 2 ^ 32))) :=
    State.cargoOf_refly h _
  have hnext : mget (s.rootAnswers id lg cid dst g).learn (lg % 4096) = some { g with next := g.next + 1 } := mget_mput_self _ _ _
  unfold State.rootSends
  generalize s.rootAnswers id lg cid dst g = t at *
  have hfly (u : State) (c : Cargo) (hu : u.cargoOf id = some (.bcastAns cid dst (some (g.next % 2 ^ 32))) ∧
      mget u.learn (lg % 4096) = some { g with next := g.next + 1 }) :
      (u.fly c).cargoOf id = some (.bcastAns cid dst (some (g.next % 2 ^ 32))) ∧
        mget (u.fly c).learn (lg % 4096) = some { g with next := g.next + 1 } := ⟨State.cargoOf_fly hu.1 c, hu.2⟩
  exact State.mcastAway_ind hfly (State.sendBcast_ind hfly _ _ _ _ ⟨hans, hnext⟩) _ _ _

theorem bcastRequestArrival_assigns {s : State} {id cid lg dst r : Nat} {g : LearnGroup}
    (hf : s.flight id = some (.bcastReq lg cid dst r)) (hg : s.lgroup lg = some g) (hlive : s.liveMember g.group g.root = true)
    (hopen : s.windowOpen g = true) (hfar : s.farWindow lg = true) :
    execBcastRequestArrival id s = .next (s.rootSends id lg cid dst r g) := by
  rw [execBcastRequestArrival, hf]
  dsimp only
  rw [hg]
  dsimp only
  rw [if_neg (by simp [hlive, hopen, hfar])]
  rfl

theorem bcastRequestArrival_refuses {s : State} {id cid lg dst r : Nat} {g : LearnGroup}
    (hf : s.flight id = some (.bcastReq lg cid dst r)) (hg : s.lgroup lg = some g) (hopen : s.windowOpen g = false) :
    execBcastRequestArrival id s =
      .next { s.reflyFrom ((s.rootCore lg).getD 6144) id (.bcastAns cid dst none) with uid := s.uid + 1 } := by
  rw [execBcastRequestArrival, hf]
  dsimp only
  rw [hg]
  dsimp only
  rw [if_pos (.inr (.inl (by simp [hopen])))]

/-! ## Members -/

/-- The context of a member after it has received a broadcast. -/
def Ctx.receives (c : Ctx) (b : Bcast) : Ctx :=
  let c := { c with pend := c.pend ++ [b] }
  c.setFld 0x044 8 3 c.pend.length

theorem Ctx.receives_leaves {c : Ctx} (b : Bcast) (h : c.pend.length < 4) :
    (c.receives b).pend = c.pend ++ [b] ∧ (c.receives b).fld 0x044 8 3 = c.pend.length + 1 := by
  have hlen : (c.pend ++ [b]).length = c.pend.length + 1 := List.length_append
  refine ⟨rfl, (Ctx.fld_setFld_self _ (by omega)).trans ?_⟩
  rw [hlen, Nat.mod_eq_of_lt (by omega)]

theorem broadcastReceive_due {s : State} {id cid lg h v num r : Nat} {g : Group} (hf : s.flight id = some (.bcast lg h v num r))
    (hg : s.grp h = some g) (hstate : g.state ≠ .saved) (hlive : s.liveMember h v = true) (hleft : (s.member h v).retired ≠ leftWindow)
    (hcid : s.lgCid lg h v = some cid) (hlog : (s.core (coreOfCid cid)).log.on = false)
    (hdue : num % 256 = ((s.ctx cid).fld 0x044 0 8 + (s.ctx cid).pend.length + 1) % 256)
    (hroom : (s.ctx cid).pend.length + (s.ctx cid).held.length < 4) :
    execBroadcastReceive id s = .next ((s.land id).setCtx cid ((s.ctx cid).receives ⟨num, r, 0, false⟩)) := by
  rw [execBroadcastReceive, hf]
  dsimp only
  rw [hg]
  dsimp only
  rw [if_neg (by simp [hlive, hleft]), if_neg hstate, hcid]
  dsimp only
  rw [if_neg (by omega), State.logRx_off (by exact hlog)]
  rfl

/-! ## The sweep and the reports -/

/-- What retires and what stays are together as many as were held. -/
theorem length_retiring (stays : Bcast → Bool) (l : List Bcast) :
    (retiring stays l).1.length + (retiring stays l).2.length = l.length := by
  induction l with
  | nil => rfl
  | cons b l ih =>
    rw [retiring]
    split
    · exact Nat.zero_add _
    · rw [List.length_cons, List.length_cons]
      dsimp only
      omega

/-- The reports of some broadcasts. -/
def State.reportAll (s : State) (lg v : Nat) (bs : List Bcast) : State := bs.foldl (fun s b => s.reportRetired lg v b.num) s

/-- Reports to a root of this device are as many items, and keep the contexts. -/
theorem State.reportAll_leaves (lg v : Nat) (bs : List Bcast) : ∀ {s : State}, (s.lgroup lg).isSome = true →
    (s.reportAll lg v bs).flights.length = s.flights.length + bs.length ∧ (s.reportAll lg v bs).ctxs = s.ctxs := by
  induction bs with
  | nil => exact fun _ => ⟨rfl, rfl⟩
  | cons b bs ih =>
    intro s h
    have hone : s.reportRetired lg v b.num = s.fly (.retire lg v b.num) :=
      if_neg fun hno => by rw [Option.isNone_iff_eq_none.1 hno.1] at h; cases h
    have hfly : (s.fly (.retire lg v b.num)).flights.length = s.flights.length + 1 := List.length_append
    obtain ⟨hlen, hctxs⟩ := ih (s := s.fly (.retire lg v b.num)) h
    rw [State.reportAll, List.foldl_cons, hone]
    exact ⟨by rw [List.length_cons]; exact hlen.trans (by omega), hctxs⟩

/-- The state after a sweep over an empty directory. -/
def State.swept (s : State) (cid : Nat) : State :=
  let c := s.ctx cid
  let x := retiring (fun b => c.fld 0x047 0 1 == 1 && b.cu) c.held
  let d := { c with held := x.2 }
  (s.setCtx cid (d.setFld 0x044 16 3 d.held.length)).reportAll (d.get 0x043).toNat d.vcore x.1

theorem sweepWalk_empty {s : State} {cid : Nat} (hheld : (s.ctx cid).held ≠ []) (hdir : (s.ctx cid).fld 0x042 32 16 = 0) :
    execSweepWalk cid s = .next (s.swept cid) := by
  rw [execSweepWalk]
  dsimp only
  rw [if_neg (fun h => hheld (List.isEmpty_iff.1 h)), hdir]
  rfl

theorem State.swept_leaves {s : State} {cid : Nat} (hlen : (s.ctx cid).held.length < 8)
    (hroot : (s.lgroup ((s.ctx cid).get 0x043).toNat).isSome = true) :
    let x := retiring (fun b => (s.ctx cid).fld 0x047 0 1 == 1 && b.cu) (s.ctx cid).held
    ((s.swept cid).ctx cid).held = x.2 ∧ ((s.swept cid).ctx cid).fld 0x044 16 3 = x.2.length ∧
      (s.swept cid).flights.length = s.flights.length + x.1.length := by
  intro x
  have hx : x.1.length + x.2.length = (s.ctx cid).held.length := length_retiring _ _
  obtain ⟨hflights, hctxs⟩ := State.reportAll_leaves ((s.ctx cid).get 0x043).toNat (s.ctx cid).vcore x.1
    (s := s.setCtx cid (({ s.ctx cid with held := x.2 } : Ctx).setFld 0x044 16 3 x.2.length)) hroot
  have hctx : (s.swept cid).ctx cid = ({ s.ctx cid with held := x.2 } : Ctx).setFld 0x044 16 3 x.2.length := by
    have := congrArg (fun m => mgetD m cid Ctx.blank) hctxs
    exact this.trans (s.ctx_setCtx_self cid _)
  rw [hctx]
  refine ⟨rfl, ?_, hflights⟩
  rw [Ctx.fld_setFld_self _ (by omega), Nat.mod_eq_of_lt (by omega)]

/-- Settles O39: the instructions by their definitions' cases; the steps by what an item put in flight and a context's write leave. -/
theorem learningResult : Obligations.LearningResult := by
  unfold Obligations.LearningResult
  refine ⟨fun s a b c imm hs => learning_instructions hs a b c imm, fun s id cid => ?_⟩
  refine ⟨fun lg dst r g hf hg hlive hid => ⟨fun hopen hfar => ?_, fun hopen => ?_⟩, fun dst n hf hno hfar hn hdst hlog => ?_,
    fun lg h v num r g hf hg hstate hlive hleft hcid hlog => ?_, fun hsome haccepts hstate => ?_, fun hheld => ?_,
    fun hheld hlen hdir hroot => ?_, fun lg v num g hf hg => ?_⟩
  · rw [exec_bcastRequestArrival, bcastRequestArrival_assigns hf hg hlive hopen hfar]
    exact ⟨_, rfl, State.rootSends_leaves (State.cargoOf_flight hf)⟩
  · rw [exec_bcastRequestArrival, bcastRequestArrival_refuses hf hg hopen]
  · rw [exec_bcastAnswerArrival, execBcastAnswerArrival, hf]
    dsimp only
    rw [if_neg hno, if_neg hfar, State.logRx_off (by exact hlog)]
    refine ⟨_, rfl, s.flight_land id, ?_⟩
    rw [State.rdS_wrS_self, Nat.mod_eq_of_lt (by omega)]
  · intro c hdue hroom
    rw [exec_broadcastReceive, broadcastReceive_due hf hg hstate hlive hleft hcid hlog hdue hroom]
    obtain ⟨hpend, hbpn⟩ := Ctx.receives_leaves (c := s.ctx cid) ⟨num, r, 0, false⟩
      (Nat.lt_of_le_of_lt (Nat.le_add_right _ _) hroom)
    exact ⟨_, rfl, s.flight_land id, by rw [State.ctx_setCtx_self]; exact hpend, by rw [State.ctx_setCtx_self]; exact hbpn⟩
  · rw [exec_broadcastAccept, execBroadcastAccept, if_pos ⟨hsome, haccepts, hstate⟩]
  · rw [exec_sweepWalk, execSweepWalk, hheld]
    rfl
  · intro x
    rw [exec_sweepWalk, sweepWalk_empty hheld hdir]
    exact ⟨_, rfl, State.swept_leaves hlen hroot⟩
  · rw [exec_retirementReportArrival, execRetirementReportArrival, hf]
    dsimp only
    rw [hg]

end Sys2Proof.Machine

/-! PROOFS. The memory system's steps: walks, the withy's token, requests, answers and landings (06 R121, 08 R158 to R167, 09 R179, 15 R279 to R281, 24 R354). -/

namespace Sys2Proof.Machine

section
variable (s : State) (id plane chan : Nat)

theorem exec_pageWalkComplete : exec (.pageWalkComplete id) s = execPageWalkComplete id s := by rfl
theorem exec_withyPass : exec (.withyPass plane chan) s = execWithyPass plane chan s := by rfl
theorem exec_requestPerform : exec (.requestPerform id) s = execRequestPerform id s := by rfl
theorem exec_requestRedirect : exec (.requestRedirect id) s = execRequestRedirect id s := by rfl
theorem exec_responseArrival : exec (.responseArrival id) s = execResponseArrival id s := by rfl
theorem exec_resultLands : exec (.resultLands id) s = execResultLands id s := by rfl

end

/-! ## Page walks (08 R158 to R163) -/

theorem leafSize_pos {level e n : Nat} (h : leafSize level e = some n) : 0 < n := by
  unfold leafSize at h
  dsimp only at h
  split at h
  next n' hn =>
    have hpos : 0 < n' := by
      split at hn
      case h_1 | h_2 => cases hn; decide
      case h_3 =>
        split at hn
        case isTrue | isFalse => cases hn; decide
      case h_4 => cases hn
    split at h
    · cases h
    split at h
    · cases h
    split at h
    · cases h
    · cases h
      exact hpos
  next => cases h

/-- A walk that succeeds found a page whose permissions allow the access. -/
theorem walkFrom_ok {s : State} {va : Nat} {acc : Acc} {sup : Bool} {pa size perm leaf : Nat} {d : Bool} :
    ∀ {level table : Nat}, walkFrom s va acc sup level table = .ok pa size perm d leaf → permOk perm acc sup = true ∧ 0 < size := by
  intro level
  induction level with
  | zero => exact fun h => nomatch h
  | succ level ih =>
    intro table h
    rw [walkFrom] at h
    split at h
    · cases h
    split at h
    · cases h
    split at h
    · cases h
    split at h
    · split at h
      · cases h
      next n hn =>
      split at h
      next hperm =>
        cases h
        exact ⟨hperm, leafSize_pos hn⟩
      next => cases h
    split at h
    · cases h
    split at h
    · cases h
    split at h
    · cases h
    · exact ih h

/-- The state but for its cores, clusters and contexts as a walk sees it. -/
theorem State.walk_congr {s t : State} (hhbm : t.hbm = s.hbm) (hbad : t.badHbm = s.badHbm) (hroot : t.superRoot = s.superRoot)
    (hgroups : t.groups = s.groups) (h va : Nat) (acc : Acc) (sup : Bool) : t.walk h va acc sup = s.walk h va acc sup := by
  rw [State.walk, State.walk, walkFrom_congr hhbm hbad, State.rootOf, State.rootOf, hroot, State.grp, State.grp, hgroups]

/-- A translation that a walk found is the one at hand. -/
theorem State.xlate_tlbFill {t : State} {core h va pa size perm leaf : Nat} {acc : Acc} {sup d : Bool} (hperm : permOk perm acc sup = true)
    (hsize : 0 < size) :
    (t.tlbFill core ⟨h, va / size * size, size, pa, perm, leaf, false, d⟩).xlate core h va acc sup = .hit (pa + va % size) := by
  have hdiv := Nat.div_add_mod' va size
  have hmod := Nat.mod_lt va hsize
  have hhit : tlbHit h va ⟨h, va / size * size, size, pa, perm, leaf, false, d⟩ = true := by
    simp only [tlbHit, beq_self_eq_true, Bool.true_and, decide_eq_true_eq]
    omega
  have hfind : (t.tlbFill core ⟨h, va / size * size, size, pa, perm, leaf, false, d⟩).tlbFind core h va =
      some ⟨h, va / size * size, size, pa, perm, leaf, false, d⟩ := by
    have hcore : ((t.tlbFill core ⟨h, va / size * size, size, pa, perm, leaf, false, d⟩).core core).tlb =
        tlbPut (t.core core).tlb ⟨h, va / size * size, size, pa, perm, leaf, false, d⟩ :=
      congrArg Core.tlb (State.core_setCore_self ..)
    rw [State.tlbFind, hcore, tlbPut, List.take_succ_cons, pick, if_pos hhit]
  rw [State.xlate, hfind]
  dsimp only
  rw [if_pos hperm]
  congr 2
  omega

/-! ### Cores without copy commands -/

/-- No core has a copy command. -/
def State.copyless (s : State) : Prop := ∀ x ∈ s.cores, x.2.copies = []

theorem mem_mput {α : Type} {i : Nat} {v : α} {x : Nat × α} : ∀ {m : Map α}, x ∈ mput m i v → x = (i, v) ∨ x ∈ m := by
  intro m
  induction m with
  | nil => exact fun h => .inl (List.mem_singleton.1 h)
  | cons y r ih =>
    obtain ⟨k, w⟩ := y
    intro h
    rw [mput] at h
    split at h
    · exact (List.mem_cons.1 h).imp_right id
    split at h
    · exact (List.mem_cons.1 h).imp_right (List.mem_cons_of_mem _)
    · obtain h | h := List.mem_cons.1 h
      · exact .inr (h ▸ List.mem_cons_self)
      · exact (ih h).imp_right (List.mem_cons_of_mem _)

theorem mem_of_mget {α : Type} {i : Nat} {v : α} : ∀ {m : Map α}, mget m i = some v → (i, v) ∈ m := by
  intro m
  induction m with
  | nil => exact fun h => nomatch h
  | cons y r ih =>
    obtain ⟨k, w⟩ := y
    intro h
    rw [mget] at h
    split at h
    next hk =>
      cases h
      rw [hk]
      exact List.mem_cons_self
    next => exact List.mem_cons_of_mem _ (ih h)

theorem State.copyless.core {s : State} (h : s.copyless) (n : Nat) : (s.core n).copies = [] := by
  rw [State.core, mgetD]
  cases hn : mget s.cores n with
  | none => rfl
  | some k => exact h _ (mem_of_mget hn)

theorem State.copyless.setCore {s : State} (h : s.copyless) {n : Nat} {k : Core} (hk : k.copies = []) : (s.setCore n k).copyless := by
  intro x hx
  obtain rfl | hx := mem_mput hx
  · exact hk
  · exact h x hx

theorem State.copyless.softRead {s : State} (h : s.copyless) (core : Nat) (l : Loc) (n : Nat) : (s.softRead core l n).copyless := by
  unfold State.softRead State.addCerrOn
  split
  · exact h
  · exact h.setCore (h.core _)

theorem State.copyless.tlbFill {s : State} (h : s.copyless) (core : Nat) (t : Tlb) : (s.tlbFill core t).copyless :=
  h.setCore (h.core core)

/-- No copy engine waits for a page. -/
theorem State.copyless.walkCopies {s : State} (h : s.copyless) (cl group page : Nat) : s.walkCopies cl group page = s := by
  have hfold : ∀ (l : Map Core), (∀ x ∈ l, x.2.copies = []) → ∀ t : State, l.foldl (fun s k =>
      if clusterOf k.1 = cl then (k.2.copies.filter (fun c => c.group == group)).foldl (fun s c => s.walkCopy k.1 page c) s else s) t = t := by
    intro l
    induction l with
    | nil => exact fun _ _ => rfl
    | cons x r ih =>
      intro hl t
      rw [List.foldl_cons, hl x List.mem_cons_self]
      simp only [List.filter_nil, List.foldl_nil, ite_self]
      exact ih (fun y hy => hl y (List.mem_cons_of_mem _ hy)) t
  exact hfold s.cores h s

/-! ### The end of a walk -/

/-- The state in which the walker has read the entries of a page's walk. -/
def State.pathRead (s : State) (r : Req) (ps : List Nat) : State := ps.foldl (fun s pe => s.softRead r.core (.hbm pe) 8) s

theorem State.pathRead_keeps {α : Type} {p : State → α} (hset : ∀ (t : State) (n : Nat) (k : Core), p (t.setCore n k) = p t) (s : State)
    (r : Req) (ps : List Nat) : p (s.pathRead r ps) = p s :=
  foldl_keeps (f := fun s pe => State.softRead s r.core (.hbm pe) 8) (p := p)
    (fun t _ => State.addCerrOn_keeps p hset t _ _) ps s

/-- The state in which a walk's request is over. -/
def State.walkRead (s : State) (r : Req) : State :=
  { s.pathRead r (s.walkPath r) with reqs := s.reqs.filter (fun x => x.id != r.id) }

theorem State.walkRead_keeps {α : Type} {p : State → α} (hset : ∀ (t : State) (n : Nat) (k : Core), p (t.setCore n k) = p t)
    (hreqs : ∀ (t : State) (q : List Req), p { t with reqs := q } = p t) (s : State) (r : Req) : p (s.walkRead r) = p s :=
  (hreqs _ _).trans (State.pathRead_keeps hset s r _)

theorem State.copyless.pathRead {s : State} (h : s.copyless) (r : Req) (ps : List Nat) : (s.pathRead r ps).copyless := by
  unfold State.pathRead
  induction ps generalizing s with
  | nil => exact h
  | cons p ps ih => exact ih (h.softRead r.core (.hbm p) 8)

/-- What the end of a walk leaves for a context that waited for one page. -/
def State.walked (s : State) (cid va : Nat) (acc : Acc) : State :=
  let c := s.ctx cid
  match s.walk c.group va acc c.sup with
  | .ok pa size perm d leaf =>
    (s.tlbFill (coreOfCid cid) ⟨c.group, va / size * size, size, pa, perm, leaf, false, d⟩).setCtx cid { c with walk := [] }
  | .fault k => s.setCtx cid { c with walk := [], walkFault := c.walkFault ++ [(va, acc, k)] }

theorem State.setCtx_setCtx (s : State) (cid : Nat) (c d : Ctx) : (s.setCtx cid c).setCtx cid d = s.setCtx cid d := by
  simp [State.setCtx]

theorem State.updCtx_some {s : State} {cid : Nat} {c : Ctx} (h : mget s.ctxs cid = some c) (f : Ctx → Ctx) :
    s.updCtx cid f = s.setCtx cid (f c) := by rw [State.updCtx, h]

theorem State.ctx_some {s : State} {cid : Nat} {c : Ctx} (h : mget s.ctxs cid = some c) : s.ctx cid = c := by
  rw [State.ctx, mgetD, h]
  rfl

theorem State.walkEnds_one {s : State} {cid va page : Nat} {acc : Acc} {c : Ctx} (hc : mget s.ctxs cid = some c)
    (hwalk : c.walk = [(va, acc)]) (hpage : va / 4096 * 4096 = page) : s.walkEnds cid page = s.walked cid va acc := by
  have hctx := State.ctx_some hc
  have hmine : c.walk.filter (fun x => x.1 / 4096 * 4096 == page) = [(va, acc)] := by simp [hwalk, hpage]
  have hrest : c.walk.filter (fun x => x.1 / 4096 * 4096 != page) = [] := by simp [hwalk, hpage]
  unfold State.walkEnds State.walked
  dsimp only
  rw [hctx, hmine, List.foldl_cons, List.foldl_nil]
  dsimp only
  cases s.walk c.group va acc c.sup with
  | ok pa size perm d leaf =>
    dsimp only
    rw [State.updCtx_some (s := s.tlbFill _ _) hc, hrest]
  | fault k =>
    dsimp only
    rw [State.updCtx_some hc, State.updCtx_some (mget_mput_self _ _ _)]
    dsimp only
    rw [hrest, State.setCtx_setCtx]

/-- The end of a walk changes no request and no byte; the wait ends, with the translation at hand or the fault. -/
theorem State.walked_leaves (s : State) (cid va : Nat) (acc : Acc) :
    (s.walked cid va acc).reqs = s.reqs ∧ (s.walked cid va acc).hbm = s.hbm ∧ ((s.walked cid va acc).ctx cid).walk = [] ∧
    (∀ pa size perm leaf d, s.walk (s.ctx cid).group va acc (s.ctx cid).sup = .ok pa size perm d leaf →
      (s.walked cid va acc).xlate (coreOfCid cid) (s.ctx cid).group va acc (s.ctx cid).sup = .hit (pa + va % size)) ∧
    (∀ k, s.walk (s.ctx cid).group va acc (s.ctx cid).sup = .fault k →
      ((s.walked cid va acc).ctx cid).walkFault = (s.ctx cid).walkFault ++ [(va, acc, k)]) := by
  unfold State.walked
  dsimp only
  cases hw : s.walk (s.ctx cid).group va acc (s.ctx cid).sup with
  | ok pa size perm d leaf =>
    obtain ⟨hperm, hsize⟩ := walkFrom_ok hw
    refine ⟨rfl, rfl, by rw [State.ctx_setCtx_self], fun pa' size' perm' leaf' d' h => ?_, fun k h => Walk.noConfusion h⟩
    cases h
    exact State.xlate_tlbFill hperm hsize
  | fault k =>
    refine ⟨rfl, rfl, by rw [State.ctx_setCtx_self], fun pa' size' perm' leaf' d' h => Walk.noConfusion h,
      fun k' h => ?_⟩
    cases h
    rw [State.ctx_setCtx_self]

theorem State.copyless.walked {s : State} (h : s.copyless) (cid va : Nat) (acc : Acc) : (s.walked cid va acc).copyless := by
  unfold State.walked
  dsimp only
  split
  · exact h.tlbFill _ _
  · exact h

/-- A walk's turn, the only context of its page waiting for it. -/
theorem pageWalkComplete_one {s : State} {id cid va : Nat} {acc : Acc} {c : Ctx} {r : Req} (hr : pick (fun r => r.id == id) s.reqs = some r)
    (hturn : s.walkTurn r = true) (hsleep : s.walkSleeps r = false) (hcopy : s.copyless) (hctxs : s.ctxs = [(cid, c)])
    (hgroup : c.group = r.group) (hcl : clusterOf (coreOfCid cid) = clusterOf r.core) (hwalk : c.walk = [(va, acc)])
    (hpage : va / 4096 * 4096 = r.va.toNat) :
    execPageWalkComplete id s = .next ((s.walkRead r).walked cid va acc) := by
  have hid : r.id = id := by simpa using (pick_some hr).1
  have hreads : (s.pathRead r (s.walkPath r)).reqs = s.reqs := State.pathRead_keeps (p := State.reqs) (fun _ _ _ => rfl) s r _
  have hctx : (s.pathRead r (s.walkPath r)).ctxs = [(cid, c)] :=
    (State.pathRead_keeps (p := State.ctxs) (fun _ _ _ => rfl) s r _).trans hctxs
  have hcopy' := hcopy.pathRead r (s.walkPath r)
  have hexec : execPageWalkComplete id s =
      .next (((([(cid, c)].filter (fun p => clusterOf (coreOfCid p.1) == clusterOf r.core && p.2.group == r.group &&
        p.2.walk.any (fun x => x.1 / 4096 * 4096 == r.va.toNat))).map (fun p => p.1)).foldl (fun s cid => s.walkEnds cid r.va.toNat)
        (s.walkRead r)).walkCopies (clusterOf r.core) r.group r.va.toNat) := by
    rw [execPageWalkComplete, hr]
    dsimp only
    rw [if_neg (by simp [hturn]), if_neg (by simp [hsleep]), ← hctx, State.walkRead, ← hreads, hid]
    rfl
  have hmget : mget (s.walkRead r).ctxs cid = some c := by
    rw [State.walkRead_keeps (p := State.ctxs) (fun _ _ _ => rfl) (fun _ _ => rfl), hctxs]
    simp [mget]
  have hcopyu : (s.walkRead r).copyless := hcopy'
  generalize s.walkRead r = u at *
  rw [hexec]
  simp only [hcl, hgroup, hwalk, hpage, List.filter_cons, List.any_cons, List.any_nil, beq_self_eq_true, Bool.or_false, Bool.and_self,
    if_true, List.filter_nil, List.map_cons, List.map_nil, List.foldl_cons, List.foldl_nil]
  rw [State.walkEnds_one hmget hwalk hpage, (hcopyu.walked cid va acc).walkCopies]

/-- What the end of the walk leaves, in terms of the state before the entries were read. -/
theorem pageWalkComplete_leaves {s : State} {id cid va : Nat} {acc : Acc} {c : Ctx} {r : Req}
    (hr : pick (fun r => r.id == id) s.reqs = some r) (hturn : s.walkTurn r = true) (hsleep : s.walkSleeps r = false)
    (hcopy : s.copyless) (hctxs : s.ctxs = [(cid, c)]) (hgroup : c.group = r.group)
    (hcl : clusterOf (coreOfCid cid) = clusterOf r.core) (hwalk : c.walk = [(va, acc)]) (hpage : va / 4096 * 4096 = r.va.toNat) :
    ∃ t, execPageWalkComplete id s = .next t ∧ t.req id = none ∧ (t.ctx cid).walk = [] ∧ t.hbm = s.hbm ∧
      (∀ pa size perm leaf d, s.walk c.group va acc c.sup = .ok pa size perm d leaf →
        t.xlate (coreOfCid cid) c.group va acc c.sup = .hit (pa + va % size)) ∧
      (∀ k, s.walk c.group va acc c.sup = .fault k → (t.ctx cid).walkFault = c.walkFault ++ [(va, acc, k)]) := by
  have hid : r.id = id := by simpa using (pick_some hr).1
  have hread {α : Type} (p : State → α) (hset : ∀ (t : State) (n : Nat) (k : Core), p (t.setCore n k) = p t)
      (hreqs : ∀ (t : State) (q : List Req), p { t with reqs := q } = p t) : p (s.walkRead r) = p s := s.walkRead_keeps hset hreqs r
  have hhbm : (s.walkRead r).hbm = s.hbm := hread State.hbm (fun _ _ _ => rfl) fun _ _ => rfl
  have hwalk' := State.walk_congr (t := s.walkRead r) hhbm (hread State.badHbm (fun _ _ _ => rfl) fun _ _ => rfl)
    (hread State.superRoot (fun _ _ _ => rfl) fun _ _ => rfl) (hread State.groups (fun _ _ _ => rfl) fun _ _ => rfl) c.group va acc c.sup
  have hctx : (s.walkRead r).ctx cid = c := by
    rw [State.ctx, hread State.ctxs (fun _ _ _ => rfl) fun _ _ => rfl, hctxs]
    simp [mgetD, mget]
  have hgone : (s.walkRead r).reqs = s.reqs.filter (fun x => x.id != id) := by rw [← hid]; rfl
  refine ⟨_, pageWalkComplete_one hr hturn hsleep hcopy hctxs hgroup hcl hwalk hpage, ?_⟩
  generalize s.walkRead r = u at *
  obtain ⟨hreqs, hmem, hnone, hok, hfault⟩ := u.walked_leaves cid va acc
  rw [hctx, hwalk'] at hok hfault
  refine ⟨?_, hnone, hmem.trans hhbm, hok, hfault⟩
  rw [State.req, hreqs, hgone]
  exact pick_none.2 fun x hx => by simpa using (List.mem_filter.1 hx).2

/-! ## Requests that set out or go on (15 R279 to R281) -/

theorem pick_setReq (q : Req) : ∀ {l : List Req} {r : Req}, pick (fun x => x.id == q.id) l = some r →
    pick (fun x => x.id == q.id) (l.map fun x => if x.id = q.id then q else x) = some q := by
  intro l
  induction l with
  | nil => exact fun h => nomatch h
  | cons x l ih =>
    intro r h
    rw [List.map_cons, pick]
    rw [pick] at h
    by_cases hx : x.id = q.id
    · simp [hx]
    · simp only [if_neg hx, beq_iff_eq] at h ⊢
      exact ih h

/-- A request that is there is replaced. -/
theorem State.req_setReq {s : State} {id : Nat} {r q : Req} (h : s.req id = some r) (hq : q.id = id) : (s.setReq q).req id = some q := by
  subst hq
  exact pick_setReq q h

theorem State.id_of_req {s : State} {id : Nat} {r : Req} (h : s.req id = some r) : r.id = id := by
  simpa using (pick_some h).1

/-- A request on its way from its core to another. -/
def Req.onWay (q : Req) (core plane : Nat) : Req :=
  { q with chan := clusterOf core, sent := clusterOf core == clusterOf q.core, waited := 0, plane := plane }

/-- A request that takes a way has it as its own, waiting for a permit or not. -/
theorem State.setWay_req {s : State} {id : Nat} {r q : Req} (h : s.req id = some r) (hq : q.id = id) (core : Nat) :
    ∃ w, (s.setWay q core).req id = some w ∧ w.chan = clusterOf core ∧ w.ni = q.ni ∧ w.loc = q.loc ∧ w.op = q.op ∧ w.size = q.size := by
  have hset := State.req_setReq (q := q.onWay core (s.planeFor (clusterOf q.core) (clusterOf core))) h hq
  refine ⟨q.onWay core (s.planeFor (clusterOf q.core) (clusterOf core)), ?_, rfl, rfl, rfl, rfl, rfl⟩
  · unfold State.setWay
    dsimp only
    split
    · exact hset
    · exact (State.updCtx_keeps (p := fun t => t.req id) (fun _ _ _ => rfl) _ _ _).trans hset

/-! ## Answers (06 R121, 08 R171) -/

section
variable {s : State} {r : Req}

/-- A batch of one request, its answer in: it lands, or has nothing to land. -/
theorem State.landBatch_one (hreqs : s.reqs = [r]) (hphase : r.phase = .answered) :
    (s.landBatch r.batch).reqs = [] ∧ (s.landBatch r.batch).landings = s.landings ++ (if r.dsize = 0 then []
      else [⟨s.uid, r.cid, r.core, [(r.dst, r.dsize, extendTo r.sx r.size r.dsize r.val)]⟩]) := by
  unfold State.landBatch
  by_cases hd : r.dsize = 0
  · simp [hreqs, hphase, hd]
  · simp [hreqs, hphase, hd]

/-- No request is left to land. -/
theorem State.landBatch_nil (hreqs : s.reqs = []) (b : Nat) : s.landBatch b = s := by
  unfold State.landBatch
  simp only [hreqs, List.filter_nil, List.any_nil, Bool.false_eq_true, if_false, List.map_nil, List.head?_nil]
  rw [← hreqs]

theorem State.logAnswer_off (h : (s.core r.core).log.on = false) (val : Nat) : s.logAnswer r val = s := by
  unfold State.logAnswer
  split
  · exact State.logRx_off h ..
  · rfl

theorem State.logAnswer_aside {α : Type} {p : State → α} (hp : Aside p) (s : State) (r : Req) (val : Nat) :
    p (s.logAnswer r val) = p s := by
  unfold State.logAnswer
  split
  · exact hp.logRx _ _ _ _ _ _
  · rfl

/-- The cause of a failed load is its own address, but for a lane's doubleword in error. -/
theorem State.failCause_scalar (h : r.ofVec = false) : s.failCause r = (xRemote, r.va.toNat) := by
  unfold State.failCause
  rw [h]
  split
  · rfl
  · rfl

theorem State.failCause_badSpad {t : State} (h : t.badSpad = s.badSpad) : t.failCause r = s.failCause r := by
  have hbad (core off n : Nat) : t.badS core off n = s.badS core off n := by rw [State.badS, State.badS, h]
  unfold State.failCause
  simp only [hbad]

/-- The only request has failed: it is gone, a load's trap is pending, a store's failure too. -/
theorem State.failReq_one (hreqs : s.reqs = [r]) (hphase : r.phase = .failed) {c : Ctx} (hc : mget s.ctxs r.cid = some c) :
    (s.failReq r).reqs = [] ∧ (s.failReq r).landings = s.landings ∧
      (r.reads = true → ((s.failReq r).ctx r.cid).pendLoad = c.pendLoad ++ [((s.failCause r).1, (s.failCause r).2, r.tpc)]) ∧
      (r.reads = false → ((s.failReq r).ctx r.cid).failures = c.failures ++ [r.va]) := by
  have hbad : [r].filter (fun x => x.batch == r.batch && x.phase == Phase.failed) = [r] := by simp [hphase]
  have hleft : [r].filter (fun x => x.batch != r.batch || x.phase != Phase.failed) = [] := by simp [hphase]
  have hgone : [r].filter (fun x => x.id != r.id) = [] := by simp
  have hc' : mget ({ s with reqs := [] } : State).ctxs r.cid = some c := hc
  unfold State.failReq
  dsimp only
  rw [hreqs, hbad, hleft, hgone, List.map_nil, State.updCtx_some hc', State.updCtx_some hc']
  by_cases hreads : r.reads = true
  · rw [if_pos hreads]
    exact ⟨rfl, rfl, fun _ => by rw [State.ctx_setCtx_self]; rfl, fun h => absurd (hreads.symm.trans h) (by decide)⟩
  · rw [if_neg hreads]
    exact ⟨rfl, rfl, fun h => absurd h hreads, fun _ => by rw [State.ctx_setCtx_self]⟩

end

theorem aside_badSpad : Aside State.badSpad := by constructor <;> intros <;> rfl

theorem State.req_one {s : State} {id : Nat} {r : Req} (hreqs : s.reqs = [r]) (hid : r.id = id) : s.req id = some r := by
  simp [State.req, hreqs, pick, hid]

/-- The answer of the only request has come back. -/
theorem responseArrival_performed {s : State} {id : Nat} {r : Req} (hreqs : s.reqs = [r]) (hid : r.id = id)
    (hback : r.crosses = true → r.back = true) (hphase : r.phase = .performed) (hlog : (s.core r.core).log.on = false) :
    execResponseArrival id s = .next (({ s with reqs := [{ r with phase := .answered }] } : State).landBatch r.batch) := by
  have hset : s.setReq { r with phase := .answered } = { s with reqs := [{ r with phase := .answered }] } := by
    simp [State.setReq, hreqs]
  rw [execResponseArrival, State.req_one hreqs hid]
  dsimp only
  rw [if_neg (fun h => h.2 (hback h.1)), hphase]
  dsimp only
  rw [hset, State.logAnswer_off (by exact hlog)]

/-- The failure of the only request has come back. -/
theorem responseArrival_failed {s : State} {id : Nat} {r : Req} (hreqs : s.reqs = [r]) (hid : r.id = id)
    (hback : r.crosses = true → r.back = true) (hphase : r.phase = .failed)
    (hnil : ((s.logAnswer r r.va.toNat).failReq r).reqs = []) :
    execResponseArrival id s = .next ((s.logAnswer r r.va.toNat).failReq r) := by
  rw [execResponseArrival, State.req_one hreqs hid]
  dsimp only
  rw [if_neg (fun h => h.2 (hback h.1)), hphase]
  dsimp only
  rw [if_neg (by simp [hreqs, Req.unperformed, hphase]), State.landBatch_nil hnil]

/-- A request that its place sends on. -/
def State.onward (s : State) (r : Req) (core off : Nat) : Req :=
  { r with
    loc := .spad core off
    vc := s.vcoreOn r.group core
    scope := max r.scope (if core = r.core then 0 else if clusterOf core = clusterOf r.core then 1 else 2)
    redir := true
    phase := .issued }

/-- Settles O40: each step by its definition's own case, with what it leaves of the request, the context and the batch. -/
theorem memorySteps : Obligations.MemorySteps := by
  unfold Obligations.MemorySteps
  intro s id
  refine ⟨fun r hr => ⟨fun hturn => ?_, fun hturn hsleep hcopy cid va acc c hctxs hgroup hcl hwalk hpage => ?_⟩, fun plane chan w hw => ?_,
    fun r hr hripe => ⟨fun hserve => ?_, fun hserve => ?_⟩, fun r v core hr hun hwalk hni hvc hplace => ?_,
    fun r core off hr hun hwalk hni hsent hfirst hlink hserve => ?_, fun r hreqs hid hback => ⟨fun hphase hlog => ?_, fun hphase hc => ?_⟩,
    fun l hl => ?_⟩
  · rw [exec_pageWalkComplete, execPageWalkComplete, hr]
    exact if_pos (by simp [hturn])
  · rw [exec_pageWalkComplete]
    refine pageWalkComplete_leaves hr hturn hsleep (fun x hx => ?_) hctxs hgroup hcl hwalk hpage
    exact List.isEmpty_iff.1 (List.all_eq_true.1 hcopy x hx)
  · rw [exec_withyPass, execWithyPass, hw]
    exact ⟨_, rfl, mget_mput_self _ _ _⟩
  · rw [exec_requestPerform, execRequestPerform, hr]
    dsimp only
    rw [if_neg (by simp [hripe]), hserve]
  · rw [exec_requestPerform, execRequestPerform, hr]
    dsimp only
    rw [if_neg (by simp [hripe]), hserve]
  · rw [exec_requestRedirect, execRequestRedirect, hr]
    dsimp only
    rw [if_neg (by simp [hun, hwalk]), if_pos hni, State.leaveNi, hvc]
    dsimp only
    rw [hplace]
    have hid := State.id_of_req hr
    obtain ⟨q, hq, hchan, hqni, -, hop, -⟩ := State.setWay_req (q := { r with
      loc := (match r.loc with
        | .spad _ off => .spad core off
        | l => l)
      ni := false }) hr hid core
    exact ⟨_, q, rfl, hq, hqni, hchan, hop⟩
  · rw [exec_requestRedirect, execRequestRedirect, hr]
    dsimp only
    rw [if_neg (by simp [hun, hwalk]), if_neg (by simp [hni]), if_neg (by simp [hsent, hfirst, hlink]), hserve]
    dsimp only
    have hid := State.id_of_req hr
    split
    · obtain ⟨q, hq, -, -, hloc, hop, hsize⟩ := State.setWay_req (q := s.onward r core off) hr hid core
      exact ⟨_, q, rfl, hq, hloc, hop, hsize⟩
    · exact ⟨_, s.onward r core off, rfl, State.req_setReq hr hid, rfl, rfl, rfl⟩
  · rw [exec_responseArrival, responseArrival_performed hreqs hid hback hphase hlog]
    exact ⟨_, rfl, State.landBatch_one (r := { r with phase := .answered }) rfl rfl⟩
  · rw [exec_responseArrival]
    obtain ⟨c, hc⟩ := Option.isSome_iff_exists.1 hc
    have hctx := State.ctx_some hc
    obtain ⟨hnil, hland, hload, hstore⟩ := State.failReq_one (s := s.logAnswer r r.va.toNat)
      ((State.logAnswer_aside aside_reqs s r _).trans hreqs) hphase
      ((congrArg (fun m => mget m r.cid) (State.logAnswer_aside aside_ctxs s r _)).trans hc)
    rw [responseArrival_failed hreqs hid hback hphase hnil]
    rw [State.failCause_badSpad (State.logAnswer_aside aside_badSpad s r _), State.logAnswer_aside aside_landings] at *
    rw [hctx]
    exact ⟨_, rfl, hnil, hland, hload, fun _ hvec => State.failCause_scalar hvec, hstore⟩
  · rw [exec_resultLands, execResultLands, hl]

end Sys2Proof.Machine

/-! PROOFS. LAUNCH, EXIT, KILL, GSTAT (14 R271 to R274) and CONVEY (21 R343). -/

namespace Sys2Proof.Machine

section
variable (s : State) (a b c : BitVec 4) (imm : BitVec 6)

theorem exec_launch : exec (.launch a b c imm) s = execLaunch a b c imm s := by rfl
theorem exec_exit : exec (.exit a b c imm) s = execExit a b c imm s := by rfl
theorem exec_kill : exec (.kill a b c imm) s = execKill a b c imm s := by rfl
theorem exec_gstat : exec (.gstat a b c imm) s = execGstat a b c imm s := by rfl
theorem exec_convey : exec (.convey a b c imm) s = execConvey a b c imm s := by rfl

end

/-! ## A group whose watchdog restarts -/

/-- Restarting a watchdog leaves every group's identity and state. -/
theorem State.grp_progress {s : State} {h : Nat} {g : Group} (hg : s.grp h = some g) (k : Nat) :
    ∃ q, (s.progress k).grp h = some q ∧ q.state = g.state ∧ q.parent = g.parent ∧ q.part = g.part := by
  unfold State.progress
  split
  next g' hg' =>
    have hhandle : g'.handle = k := s.grp_handle hg'
    by_cases hk : h = k
    · subst hk
      cases hg.symm.trans hg'
      have hself : (s.setGrp { g with wdCount := 0 }).grp h = some { g with wdCount := 0 } :=
        (congrArg (State.grp _) hhandle.symm).trans (s.grp_setGrp_self { g with wdCount := 0 })
      exact ⟨_, hself, rfl, rfl, rfl⟩
    · rw [State.grp_setGrp_ne (g := g') (g' := { g' with wdCount := 0 }) (by rw [hhandle]; exact hg') rfl (by rw [hhandle]; exact hk)]
      exact ⟨g, hg, rfl, rfl, rfl⟩
  next => exact ⟨g, hg, rfl, rfl, rfl⟩

/-! ## LAUNCH (14 R271) -/

/-- The header of a new group: the launching group's root, and DONE in the group window. -/
def State.launchHeader (u : State) (d : List Nat) : Header :=
  let h := parseHeader d
  { h with
    uroot := match u.grp u.cx.group with
      | some g => g.hdr.uroot
      | none => 0
    done := if (match rngOf h.done.toNat with
        | .loc _ => decide (h.done ≠ 0)
        | _ => false) then toWord (0x400000000000 + u.cx.vcore * 131072 + h.done.toNat) else h.done }

/-- The state in which a group has been launched. -/
def State.launches (u : State) (d : List Nat) (a : BitVec 4) : State :=
  let p := (u.endFwd u.cur).submit (u.launchHeader d) u.cx.group (u.partOf u.cx.group) false
  (p.1.progress u.cx.group).setW a (toWord p.2)

theorem launch_creates {s u : State} (hs : s.calm = true) {a b c : BitVec 4} {imm : BitVec 6} {d : List Nat}
    (halign : (s.w b).toNat % 64 = 0) (hread : s.readsDws (s.w b).toNat 16 d u)
    (hcode : u.launchCode d (u.partOf u.cx.group) u.cx.sup (some u.cx.group) = 0) :
    execLaunch a b c imm s = done (u.launches d a) := by
  have hused : Used s u := State.readsAt.used hread
  obtain ⟨hr, -, hf, -⟩ := s.calm_parts hs
  have hdrained : u.drained u.cur = true :=
    State.drained_idle ((hused.aside State.reqs aside_reqs fun _ _ => rfl).trans hr) (hused.flights.trans hf) _ _
  rw [execLaunch, reading_calm s hs]
  dsimp only
  rw [if_neg (not_not.2 halign), loading_ok s hread, hcode]
  rw [if_neg (not_not.2 hdrained)]
  rfl

theorem launch_refused {s u : State} (hs : s.calm = true) {a b c : BitVec 4} {imm : BitVec 6} {d : List Nat}
    (halign : (s.w b).toNat % 64 = 0) (hread : s.readsDws (s.w b).toNat 16 d u)
    (hcode : u.launchCode d (u.partOf u.cx.group) u.cx.sup (some u.cx.group) ≠ 0) :
    execLaunch a b c imm s = done ((u.progress u.cx.group).setW a (toWord (2 ^ 63 +
      u.launchCode d (u.partOf u.cx.group) u.cx.sup (some u.cx.group)))) := by
  rw [execLaunch, reading_calm s hs]
  dsimp only
  rw [if_neg (not_not.2 halign), loading_ok s hread]
  split
  · next h => exact absurd h hcode
  · rfl

/-- The new group is SUBMITTED, the caller's child, in its partition; its handle is in wA, and the focus stands where it stood. -/
theorem State.launches_leaves (u : State) (d : List Nat) (a : BitVec 4) (hrep : u.cx.rep = none) :
    (u.launches d a).advance.w a = toWord u.newHandle ∧ SamePoint u (u.launches d a) ∧
    ∃ g, (u.launches d a).advance.grp u.newHandle = some g ∧ g.state = .submitted ∧ g.parent = u.cx.group ∧
      g.part = u.partOf u.cx.group := by
  let g : Group :=
    { handle := u.newHandle, seq := u.uid, pre := [], parent := u.cx.group, part := u.partOf u.cx.group, state := .submitted,
      cause := 0, hdr := u.launchHeader d,
      members := (upTo ((u.launchHeader d).wx * (u.launchHeader d).hy)).map (fun _ => Member.blank), wdCount := 0, wdDue := false,
      unplaced := [], images := [], overflow := [], overflowFills := [], overflowBcasts := [], lgrp := 0, walkKind := 0,
      fromHost := false }
  have hlaunch : u.launches d a = (({ (u.endFwd u.cur).setGrp g with uid := u.uid + 1 } : State).progress u.cx.group).setW a
      (toWord u.newHandle) := rfl
  have hgrp : ({ (u.endFwd u.cur).setGrp g with uid := u.uid + 1 } : State).grp u.newHandle = some g :=
    (u.endFwd u.cur).grp_setGrp_self g
  have hpoint : SamePoint u ({ (u.endFwd u.cur).setGrp g with uid := u.uid + 1 } : State) := .of_ctxs rfl rfl
  rw [hlaunch]
  generalize ({ (u.endFwd u.cur).setGrp g with uid := u.uid + 1 } : State) = t at *
  have hpoint' : SamePoint u ((t.progress u.cx.group).setW a (toWord u.newHandle)) :=
    (hpoint.trans (t.samePoint_progress _)).trans (.of_ctxs rfl rfl)
  have hrep' := hpoint'.rep.trans hrep
  obtain ⟨q, hq, hstate, hparent, hpart⟩ := State.grp_progress hgrp u.cx.group
  refine ⟨?_, hpoint', q, ?_, hstate, hparent, hpart⟩
  · rw [State.advance_w _ hrep', State.w_setW_self]
  · rw [State.advance_keeps (fun t => t.grp u.newHandle) (fun _ _ => rfl) hrep']
    exact hq

/-! ## EXIT -/

theorem exit_calm {s : State} (hs : s.calm = true) (a b c : BitVec 4) (imm : BitVec 6) : execExit a b c imm s =
    .next (((s.progress s.cx.group).endCtx s.cur).afterExit s.cx.group s.cx.vcore (s.cx.get 0x013).toNat) := by
  obtain ⟨-, -, -, -, -, -, hm, hc, hfail, -⟩ := s.calm_parts hs
  have hmet : s.waitcMet 0 0 0 0 = true := by
    have hcopies : s.classC s.cur = 0 := by
      rw [State.classC]
      exact congrArg (fun l : List Copy => (l.filter (fun c => c.cid == s.cur)).length) hc
    have htiles : s.classM s.cur = 0 := by
      rw [State.classM]
      exact congrArg (fun l : List TileOp => (l.filter (fun o => o.cid == s.cur)).length) hm
    rw [State.waitcMet, s.calm_classL hs, s.calm_classS hs, hcopies, htiles]
    rfl
  rw [execExit, if_neg (not_not.2 hmet), remoteOr_none hfail, s.calm_unlanded hs]
  rfl

/-! ## CONVEY (21 R343) -/

theorem convey_far {s : State} (hs : s.calm = true) (x : Instr) (i : Nat) (e : Holding) : conveyFar x i e s =
    if e.kind = 5 ∨ s.canConvey e.heir (s.partOf s.cx.group) = false then operandTrap s x
    else done (((s.endFwd s.cur).namedEntry e).convey i e false) := by
  unfold conveyFar
  rw [if_neg (c := ¬ s.drained s.cur true = true) (not_not.2 (s.calm_drained hs s.cur true))]
  simp only [Bool.not_eq_true]

/-- At the object's place, an entry whose heir can take it is conveyed. -/
theorem conveyAt_conveys {u : State} {x : Instr} {addr : Word} {l : Loc} {i : Nat} {e : Holding} (hentry : u.entryAt l = some (i, e))
    (hkind : e.kind ≠ 5) (hheir : u.canConvey e.heir (u.partOf u.cx.group) = true) (hdrained : u.drained u.cur = true) :
    conveyAt x addr l u = done (((u.endFwd u.cur).named l addr).convey i e false) := by
  unfold conveyAt
  rw [hentry]
  dsimp only
  rw [if_neg (fun h => h.elim hkind fun h => h hheir), if_neg (not_not.2 hdrained)]

/-- Settles O41: each instruction by its definition's own case, the checks of a calm focus passed. -/
theorem groupResult : Obligations.GroupResult := by
  unfold Obligations.GroupResult
  intro s a b c imm hs own h
  obtain ⟨hr, -, hf, -⟩ := s.calm_parts hs
  have hdrained {u : State} (hused : Used s u) : u.drained u.cur = true :=
    State.drained_idle ((hused.aside State.reqs aside_reqs fun _ _ => rfl).trans hr) (hused.flights.trans hf) _ _
  refine ⟨fun d u halign hread => ?_, ?_, fun hnone => ?_, fun g hg => ?_, fun i e hentry => ?_, fun l u hplain hword => ?_⟩
  · have hused : Used s u := State.readsAt.used hread
    have hown : u.cx.group = own := by rw [hused.cx]; rfl
    have hpart : u.partOf own = s.partOf own := State.partOf_congr (hused.aside State.groups aside_groups fun _ _ => rfl) own
    have hrep : u.cx.rep = none := by rw [hused.cx]; exact s.calm_rep hs
    intro k
    refine ⟨fun hk => ?_, fun hk => ?_⟩
    · obtain ⟨hw, hpoint, g, hg, hstate, hparent, hgpart⟩ := u.launches_leaves d a hrep
      obtain ⟨-, hpc⟩ := (hused.samePoint.trans hpoint).advance_pc (s.calm_rep hs)
      rw [hown] at hparent hgpart
      rw [exec_launch, launch_creates hs halign hread (by rw [hown]; exact hk)]
      exact ⟨_, g, rfl, hw, hg, hstate, hparent, hgpart.trans hpart, hpc⟩
    · rw [exec_launch, launch_refused hs halign hread (by rw [hown]; exact hk), hown]
      rfl
  · rw [exec_exit, exit_calm hs]
  · rw [exec_kill, exec_gstat, execKill, execGstat, reading_calm s hs, reading_calm s hs]
    dsimp only
    rw [hnone]
    exact ⟨rfl, rfl⟩
  · rw [exec_kill, exec_gstat, execKill, execGstat, reading_calm s hs, reading_calm s hs]
    dsimp only
    rw [hg]
    dsimp only
    refine ⟨rfl, fun hown => if_pos hown, fun hown hok => ?_, fun hown hno hpart => ?_⟩
    · rw [if_neg hown, if_pos hok]
      rfl
    · have hno' : ¬ (s.descends h own 4096 = true ∨ s.cx.sup = true ∧ g.part = s.partOf own) := by
        rintro (hd | ⟨hsup, hp⟩)
        · exact absurd (hno.symm.trans hd) (by decide)
        · exact hpart.elim (fun hu => absurd (hu.symm.trans hsup) (by decide)) fun hne => hne hp
      rw [if_neg hown, if_neg hno']
      rfl
  · rw [exec_convey, execConvey, reading_calm s hs, withObject_far hentry, convey_far hs]
    refine ⟨fun hkind hheir => ?_, fun hno => ?_⟩
    · rw [if_neg (fun h => h.elim hkind fun h => absurd (h.symm.trans hheir) (by decide))]
      rfl
    · rw [if_pos hno]
      rfl
  · have hused : Used s u := hword.used
    rw [exec_convey, execConvey, reading_calm s hs, withObject_near hplain hword]
    refine ⟨fun i e hentry hkind hheir => ?_, fun hnone => ?_⟩
    · rw [conveyAt_conveys hentry hkind (by rw [hused.cx]; exact hheir) (hdrained hused)]
      rfl
    · rw [conveyAt, hnone]
      rfl

end Sys2Proof.Machine

/-! PROOFS. Placement, the estate walk, the watchdog and the end of a group (14 R265, R268, 15 R283, 21 R345, R346). -/

namespace Sys2Proof.Machine

section
variable (s : State) (h : Nat)

theorem exec_groupPlacement : exec (.groupPlacement h) s = execGroupPlacement h s := by rfl
theorem exec_estateWalkStart : exec (.estateWalkStart h) s = execEstateWalkStart h s := by rfl
theorem exec_estateWalkHolding : exec .estateWalkHolding s = execEstateWalkHolding s := by rfl
theorem exec_watchdogCheck : exec (.watchdogCheck h) s = execWatchdogCheck h s := by rfl

end

/-! ## Names of groups -/

/-- The handle of the group with an index. -/
def State.nameAt (s : State) (i : Nat) : Option Nat := (mget s.groups i).map Group.handle

/-- A handle names a group where the group with its index has it. -/
theorem State.grp_isSome (s : State) (h : Nat) : (s.grp h).isSome = true ↔ s.nameAt (h % 4096) = some h := by
  unfold State.grp State.nameAt
  cases mget s.groups (h % 4096) with
  | none => exact ⟨fun hf => absurd hf Bool.false_ne_true, fun hf => nomatch hf⟩
  | some g =>
    dsimp only
    by_cases hg : g.handle = h
    · rw [if_pos hg]
      exact ⟨fun _ => congrArg some hg, fun _ => rfl⟩
    · rw [if_neg hg]
      exact ⟨fun hf => absurd hf Bool.false_ne_true, fun hf => absurd (Option.some.inj hf) hg⟩

theorem aside_nameAt (i : Nat) : Aside (fun t => t.nameAt i) := by constructor <;> intros <;> rfl

/-- A group written in the place of itself changes no name. -/
theorem State.nameAt_setGrp {s : State} {g g' : Group} (hg : s.grp g.handle = some g) (hh : g'.handle = g.handle) (i : Nat) :
    (s.setGrp g').nameAt i = s.nameAt i := by
  have hname := (s.grp_isSome g.handle).1 (by rw [hg]; rfl)
  unfold State.nameAt State.setGrp at *
  dsimp only
  rw [hh]
  by_cases hi : g.handle % 4096 = i
  · rw [← hi, mget_mput_self, hname, ← hh]
    rfl
  · rw [mget_mput_ne _ _ hi]

theorem State.nameAt_updMember (s : State) (h v : Nat) (f : Member → Member) (i : Nat) : (s.updMember h v f).nameAt i = s.nameAt i := by
  unfold State.updMember
  split
  next g hg =>
    have hhandle : g.handle = h := s.grp_handle hg
    exact State.nameAt_setGrp (g := g) (g' := { g with members := modAt f g.members v }) (by rw [hhandle]; exact hg) rfl i
  next => rfl

theorem State.nameAt_progress (s : State) (h i : Nat) : (s.progress h).nameAt i = s.nameAt i := by
  unfold State.progress
  split
  next g hg =>
    have hhandle : g.handle = h := s.grp_handle hg
    exact State.nameAt_setGrp (g := g) (g' := { g with wdCount := 0 }) (by rw [hhandle]; exact hg) rfl i
  next => rfl

/-! ## The end of a context changes no group's name -/

section
variable (s : State) (i : Nat)

theorem State.nameAt_endServing (cid : Nat) : (s.endServing cid).nameAt i = s.nameAt i := by
  unfold State.endServing
  dsimp only
  split
  · rfl
  split
  · exact (aside_nameAt i).slotEmptied (fun _ _ _ _ _ => rfl) _ _ _
  · rfl

theorem State.nameAt_depositW (o : Origin) (core off v : Nat) : (s.depositW o core off v).nameAt i = s.nameAt i := by
  unfold State.depositW
  split
  · rfl
  · exact ((aside_nameAt i).logWrite _ _ _ _ _ _ _).trans ((aside_nameAt i).endBereaved _ _ _)

theorem State.nameAt_evqWrite {core : Nat} {q : Word} {r : Nat × Nat} {p : State × Word} (h : s.evqWrite core q r = some p) :
    p.1.nameAt i = s.nameAt i := by
  unfold State.evqWrite at h
  dsimp only at h
  split at h
  · cases h
    rfl
  split at h
  · cases h
  · cases h
    exact (State.nameAt_depositW _ i _ _ _ _).trans (State.nameAt_depositW _ i _ _ _ _)

theorem State.nameAt_report {core : Nat} {c : Copy} {o : Nat × Nat} {t : State} (h : s.report core c o = some t) :
    t.nameAt i = s.nameAt i := by
  unfold State.report at h
  split at h
  · unfold State.evqPut at h
    split at h
    · split at h
      · cases h
      · cases h
        rfl
    · obtain ⟨p, hp, rfl⟩ := Option.map_eq_some_iff.1 h
      exact State.nameAt_evqWrite s i hp
  · split at h
    next p hp =>
      cases h
      exact State.nameAt_evqWrite s i hp
    next =>
      cases h
      rfl

theorem State.nameAt_dropUnstarted (core : Nat) : (s.dropUnstarted core).nameAt i = s.nameAt i := by
  unfold State.dropUnstarted
  refine foldl_keeps (p := fun t => t.nameAt i) (fun t c => ?_) _ s
  split
  next u hu =>
    have hreport := State.nameAt_report t i hu
    exact (State.nameAt_progress _ _ i).trans hreport
  next => rfl

theorem State.nameAt_endSeq (cid : Nat) : (s.endSeq cid).nameAt i = s.nameAt i := by
  unfold State.endSeq
  dsimp only
  split
  · rfl
  · exact s.nameAt_dropUnstarted i _

theorem State.nameAt_boxEvq (cid : Nat) : (s.boxEvq cid).nameAt i = s.nameAt i := by
  unfold State.boxEvq
  dsimp only
  split <;> rfl

theorem State.nameAt_leaveLearning (c : Ctx) : (s.leaveLearning c).nameAt i = s.nameAt i := by
  unfold State.leaveLearning
  split
  · rfl
  · exact s.nameAt_updMember _ _ _ i

theorem State.nameAt_unrun (cid : Nat) : (s.unrun cid).nameAt i = s.nameAt i := by
  obtain h | ⟨k, h⟩ := s.unrun_cases cid <;> rw [h]
  rfl

theorem State.nameAt_fillBar (h v b : Nat) : (s.fillBar h v b).nameAt i = s.nameAt i := by
  unfold State.fillBar
  dsimp only
  split
  · exact (State.nameAt_updMember _ _ _ _ i).trans (State.nameAt_updMember _ _ _ _ i)
  · rfl

theorem State.nameAt_exitBars (h v : Nat) : (s.exitBars h v).nameAt i = s.nameAt i := by
  refine foldl_keeps (f := fun s b => (State.fillBar s h v b).tryPass h v b) (p := fun t => t.nameAt i) (fun t b => ?_) _ s
  exact (State.tryPass_keeps (fun t => t.nameAt i) (fun t h v f _ => t.nameAt_updMember h v f i) (fun _ _ _ _ => rfl) _ h v b).trans
    (t.nameAt_fillBar i h v b)

theorem State.nameAt_dropTiles (cid : Nat) : (s.dropTiles cid).nameAt i = s.nameAt i := (aside_nameAt i).setCore s _ _

theorem State.nameAt_orphan (cid : Nat) : (s.orphan cid).nameAt i = s.nameAt i := rfl

/-- What an ending context leaves before its slot is free. -/
def State.ctxEnds (cid : Nat) : State :=
  (((((((s.endServing cid).endSeq cid).boxEvq cid).dropTiles cid).endFwd cid).orphan cid).leaveLearning (s.ctx cid)).unrun cid

theorem State.nameAt_ctxEnds (cid : Nat) : (s.ctxEnds cid).nameAt i = s.nameAt i := by
  unfold State.ctxEnds
  rw [State.nameAt_unrun, State.nameAt_leaveLearning, State.nameAt_orphan, (aside_nameAt i).endFwd, State.nameAt_dropTiles,
    State.nameAt_boxEvq, State.nameAt_endSeq, State.nameAt_endServing]

theorem State.endCtx_eq (cid : Nat) : s.endCtx cid =
    ({ s.ctxEnds cid with ctxs := mdel (s.ctxEnds cid).ctxs cid }).exitBars (s.ctx cid).group (s.ctx cid).vcore := rfl

theorem State.nameAt_endCtx (cid : Nat) : (s.endCtx cid).nameAt i = s.nameAt i := by
  rw [State.endCtx_eq, State.nameAt_exitBars]
  exact s.nameAt_ctxEnds i cid

end

/-! ## The end of a group (14 R268) -/

theorem State.groups_placesChanged (s : State) (h : Nat) (vs : List Nat) : (s.placesChanged h vs).groups = s.groups := by
  refine foldl_keeps (f := fun s v => State.placeChanged s h v) (p := State.groups) (fun t v => ?_) vs s
  exact foldl_keeps (f := fun s (k : Nat × Core) => s.fly (.placeUpd h v k.1 (t.member h v).pst (t.member h v).pcore))
    (p := State.groups) (fun _ _ => rfl) _ t

/-- A group as it leaves execution. -/
def Group.exits (g : Group) (cause : Nat) : Group :=
  let moving := g.members.any (fun m => m.pst == 1)
  { g with
    state := .exiting
    cause := cause
    members := g.members.map (fun m => if m.pst = 1 then m else { m with pst := 3 })
    pre := if moving then g.pre.take 1 else []
    images := []
    overflow := []
    overflowFills := []
    overflowBcasts := []
    unplaced := [] }

/-- A group exits: its members' places change, what it had not placed is sent again, its commands are answered. -/
def State.exitMoves (t : State) (g : Group) (h cause : Nat) : State :=
  let moving := g.members.any (fun m => m.pst == 1)
  let out := (upTo g.members.length).filter (fun v => let p := (g.members.getD v Member.blank).pst; p != 1 && p != 3)
  (if moving then g.pre.drop 1 else g.pre).foldl (fun s _ => s.tell [0, 1])
    (((t.setGrp (g.exits cause)).placesChanged h out).flyAgain (g.unplaced ++ g.overflow))

/-- The state after a group's contexts have ended and it has exited. -/
def State.exitQueued (t : State) (g : Group) (h cause : Nat) : State :=
  match t.grp h with
  | none => t
  | some g' =>
    let s := t.exitMoves g' h cause
    if g.state = .submitted then s.retire h else { s with walkQueue := s.walkQueue ++ [h] }

/-- The contexts of a group end. -/
def State.ctxsEnd (s : State) (h : Nat) : State := ((s.groupCids h).filter (fun c => !isCopy c)).foldl (fun s c => s.endCtx c) s

theorem State.endGroup_eq {s : State} {h : Nat} {g : Group} (hg : s.grp h = some g) (cause : Nat) : s.endGroup h cause =
    if g.state = .exiting ∨ g.state = .retired then s else (s.ctxsEnd h).exitQueued g h cause := by
  unfold State.endGroup
  rw [hg]
  rfl

theorem State.groups_exitMoves (t : State) (g : Group) (h cause : Nat) :
    (t.exitMoves g h cause).groups = (t.setGrp (g.exits cause)).groups :=
  (foldl_keeps (p := State.groups) (f := fun s (_ : Nat) => State.tell s [0, 1]) (fun _ _ => rfl) _ _).trans
    (State.groups_placesChanged (t.setGrp (g.exits cause)) h _)

/-- A running group that ends is EXITING with its cause. -/
theorem State.endGroup_exiting {s : State} {h : Nat} {g : Group} (hg : s.grp h = some g) (hrun : g.state = .running) (cause : Nat) :
    ∃ q, (s.endGroup h cause).grp h = some q ∧ q.state = .exiting ∧ q.cause = cause := by
  rw [State.endGroup_eq hg, if_neg (by rw [hrun]; decide)]
  have hnames : (s.ctxsEnd h).nameAt (h % 4096) = s.nameAt (h % 4096) :=
    foldl_keeps (f := fun s c => State.endCtx s c) (p := fun t => t.nameAt (h % 4096)) (fun t c => t.nameAt_endCtx _ c) _ s
  generalize s.ctxsEnd h = t at *
  obtain ⟨g', hg'⟩ := Option.isSome_iff_exists.1 ((t.grp_isSome h).2 (hnames.trans ((s.grp_isSome h).1 (by rw [hg]; rfl))))
  have hhandle : g'.handle = h := t.grp_handle hg'
  have hset : (t.setGrp (g'.exits cause)).grp h = some (g'.exits cause) :=
    (congrArg (State.grp _) hhandle.symm).trans (t.grp_setGrp_self (g'.exits cause))
  have hgrp : (t.exitMoves g' h cause).grp h = some (g'.exits cause) := by
    rw [State.grp, State.groups_exitMoves]
    exact hset
  unfold State.exitQueued
  rw [hg']
  dsimp only
  rw [if_neg (by rw [hrun]; decide)]
  exact ⟨_, hgrp, rfl, rfl⟩

/-! ## Placement (14 R265, R268) -/

theorem State.groups_launchStrand (s : State) (g : Group) (core slot v i lgrp : Nat) :
    (s.launchStrand g core slot v i lgrp).groups = s.groups := by
  unfold State.launchStrand State.putHeader
  exact State.wrDws_groups ..

theorem State.groups_launchMember (s : State) (g : Group) (core v lgrp : Nat) (img : List Byte) :
    (s.launchMember g core v lgrp img).groups = s.groups := by
  unfold State.launchMember
  exact foldl_keeps (p := State.groups) (fun _ _ => State.groups_launchStrand ..) _ _

/-- A group as it is placed at an origin. -/
def Group.placedAt (g : Group) (o lgrp : Nat) : Group :=
  let cores := g.hdr.coresAt o
  { g with
    state := .running
    members := (cores.zip (upTo cores.length)).map fun x =>
      { Member.blank with pst := 0, pcore := x.1, parties := (g.members.getD x.2 Member.blank).parties }
    lgrp := lgrp }

/-- Its members stand on the rectangle's cores in the order of VCORE. -/
theorem Group.placedAt_members (g : Group) (o lgrp : Nat) :
    (g.placedAt o lgrp).members.map (fun m => (m.pst, m.pcore)) = (g.hdr.coresAt o).map (fun c => (0, c)) := by
  have hzip : ((g.hdr.coresAt o).zip (upTo (g.hdr.coresAt o).length)).map Prod.fst = g.hdr.coresAt o :=
    List.map_fst_zip (Nat.le_of_eq List.length_range.symm)
  calc (g.placedAt o lgrp).members.map (fun m => (m.pst, m.pcore))
      = ((g.hdr.coresAt o).zip (upTo (g.hdr.coresAt o).length)).map (fun x => (0, x.1)) := List.map_map
    _ = (((g.hdr.coresAt o).zip (upTo (g.hdr.coresAt o).length)).map Prod.fst).map (fun c => (0, c)) := List.map_map.symm
    _ = (g.hdr.coresAt o).map (fun c => (0, c)) := by rw [hzip]

/-- A group's wait at a stack is over. -/
def State.unslept (s : State) (g : Group) : State := { s with slept := s.slept.filter (fun x => x != g.seq) }

/-- The state before the members of a placed group are prepared. -/
def State.placeStart (s : State) (g : Group) (o : Nat) : State :=
  let s := s.unslept g
  let lgrp := if g.hdr.lg then s.newLearn else 0
  let s := (s.markImage g).setGrp (g.placedAt o lgrp)
  if g.hdr.lg then
    { s with
      learn := mput s.learn (lgrp % 4096) ⟨lgrp, g.handle, g.hdr.lroot, 1⟩
      uid := s.uid + 1 }
  else s

/-- A group without a data image is placed and its members are prepared. -/
theorem State.placeGroup_eq {g : Group} (himg : g.hdr.dlen = 0) (s : State) (o : Nat) :
    ∃ (xs : List (Nat × Nat)) (lgrp : Nat) (img : List Byte),
      s.placeGroup g o = xs.foldl (fun s x => s.launchMember g x.1 x.2 lgrp img) (s.placeStart g o) := by
  have hbad (t : State) : t.imageBad g = none := by
    rw [State.imageBad, imageAddrs, himg]
    rfl
  refine ⟨(g.hdr.coresAt o).zip (upTo (g.hdr.coresAt o).length), if g.hdr.lg then (s.unslept g).newLearn else 0,
    (imageAddrs g.hdr).filterMap (fun va => ((s.unslept g).imageAt g va).map (fun pa => byteAt s.hbm pa)), ?_⟩
  unfold State.placeGroup
  dsimp only
  rw [hbad]
  rfl

theorem State.placeStart_groups (s : State) (g : Group) (o : Nat) : ∃ (t : State) (lgrp : Nat),
    (s.placeStart g o).groups = (t.setGrp (g.placedAt o lgrp)).groups := by
  unfold State.placeStart
  dsimp only
  split
  · exact ⟨_, _, rfl⟩
  · exact ⟨_, _, rfl⟩

theorem State.placeGroup_grp {s : State} {h : Nat} {g : Group} (hg : s.grp h = some g) (himg : g.hdr.dlen = 0) (o : Nat) :
    ∃ lgrp, (s.placeGroup g o).grp h = some (g.placedAt o lgrp) := by
  have hhandle : g.handle = h := s.grp_handle hg
  obtain ⟨xs, lgrp, img, heq⟩ := State.placeGroup_eq himg s o
  obtain ⟨t, l, hgroups⟩ := s.placeStart_groups g o
  have hmembers : (s.placeGroup g o).groups = (s.placeStart g o).groups := by
    rw [heq]
    exact foldl_keeps (p := State.groups) (fun _ _ => State.groups_launchMember ..) _ _
  refine ⟨l, ?_⟩
  rw [State.grp, hmembers, hgroups]
  exact (congrArg (State.grp _) hhandle.symm).trans (t.grp_setGrp_self (g.placedAt o l))

/-- What a group without a data image reads waits for nothing. -/
theorem State.imageStall_none {g : Group} (himg : g.hdr.dlen = 0) (s : State) (o : Nat) : s.imageStall g o = none := by
  have hplaces : s.imagePlaces g = [] := by
    rw [State.imagePlaces, imageAddrs, himg]
    rfl
  rw [State.imageStall, hplaces]
  rfl

/-! ## The estate walk (21 R345, R346) -/

/-- A conveyed entry names its heir as the holder, the former holder and the mark; the rest stays. -/
theorem State.convey_entry (s : State) (i : Nat) (e : Holding) (brv : Bool) : ∃ q, mget (s.convey i e brv).estate i = some q ∧
    q.holder = e.heir ∧ q.heir = 0 ∧ q.former = e.holder ∧ q.brv = brv ∧ q.kind = e.kind ∧ q.loc = e.loc := by
  have hentry (m : Map Holding) (n : Nat) : ∃ q,
      mget (mput m i { e with holder := e.heir, heir := 0, former := e.holder, brv := brv, stamp := n }) i = some q ∧
      q.holder = e.heir ∧ q.heir = 0 ∧ q.former = e.holder ∧ q.brv = brv ∧ q.kind = e.kind ∧ q.loc = e.loc :=
    ⟨_, mget_mput_self _ _ _, rfl, rfl, rfl, rfl, rfl, rfl⟩
  unfold State.convey
  dsimp only
  split
  · split
    · exact hentry _ _
    · exact hentry _ _
  · exact hentry _ _
  · exact hentry _ _
  · exact hentry _ _
  · exact hentry _ _

/-- The walker's next holding, and the end of its walk. -/
theorem estateWalk_next {s : State} {h i : Nat} {g : Group} {e : Holding} (hg : s.grp h = some g) (hqueue : s.walkQueue.head? = some h)
    (hkind : g.walkKind ≠ 0) (hnext : nextHolding (s.holdings h) = some (i, e))
    (hwait : s.walkWaits e (s.canConvey e.heir g.part) = false) :
    execEstateWalkHolding s = .next (s.walkOne i e g.part) := by
  have hbind : s.walkQueue.head?.bind (fun h => s.grp h) = some g := by rw [hqueue]; exact hg
  have hhandle : g.handle = h := s.grp_handle hg
  rw [execEstateWalkHolding, hbind]
  dsimp only
  rw [if_neg hkind, hhandle, hnext]
  dsimp only
  rw [hwait]
  rfl

theorem estateWalk_end {s : State} {h : Nat} {g : Group} (hg : s.grp h = some g) (hqueue : s.walkQueue.head? = some h)
    (hkind : g.walkKind ≠ 0) (hnext : nextHolding (s.holdings h) = none) (hdeliver : (s.awaiting g).all (fun r => s.canDeliver r) = true) :
    execEstateWalkHolding s = .next (s.walkEnd g) := by
  have hbind : s.walkQueue.head?.bind (fun h => s.grp h) = some g := by rw [hqueue]; exact hg
  have hhandle : g.handle = h := s.grp_handle hg
  rw [execEstateWalkHolding, hbind]
  dsimp only
  rw [if_neg hkind, hhandle, hnext]
  exact if_pos hdeliver

/-- Settles O42: placement and the walk by their definitions' cases; a group's name survives the end of its contexts. -/
theorem groupSteps : Obligations.GroupSteps := by
  unfold Obligations.GroupSteps
  intro s h g hg
  refine ⟨fun o hboot hsub himg ho hfirst => ?_, fun hqueue hstate hkind hquiet => ?_,
    fun hqueue hkind => ⟨fun i e hnext hwait => ?_, fun hnext hdeliver => ?_⟩,
    fun hwdog hrun => ⟨fun hdue => ?_, fun hdue => ?_⟩, fun hrun cause => State.endGroup_exiting hg hrun cause⟩
  · obtain ⟨lgrp, hplaced⟩ := State.placeGroup_grp hg himg o
    rw [exec_groupPlacement, execGroupPlacement, hg]
    dsimp only
    rw [if_neg (by simp [hboot, hsub]; simpa using hfirst), ho]
    dsimp only
    rw [State.imageStall_none himg]
    exact ⟨_, _, rfl, hplaced, rfl, g.placedAt_members o lgrp⟩
  · rw [exec_estateWalkStart, execEstateWalkStart, hqueue, hg]
    exact if_pos ⟨rfl, hstate, hkind, hquiet⟩
  · rw [exec_estateWalkHolding, estateWalk_next hg hqueue hkind hnext hwait]
    refine ⟨_, rfl, fun hk hheir => ?_⟩
    rw [State.walkOne, if_neg hk, if_pos hheir]
    exact s.convey_entry i e true
  · rw [exec_estateWalkHolding, estateWalk_end hg hqueue hkind hnext hdeliver]
  · rw [exec_watchdogCheck, execWatchdogCheck, hg]
    exact if_pos (.inr (.inr (by simp [hdue])))
  · rw [exec_watchdogCheck, execWatchdogCheck, hg]
    exact if_neg (by simp [hwdog, hrun, hdue])

end Sys2Proof.Machine

/-! PROOFS. LDD, STD and FILLD (24 R362 to R367), and the outcomes and timeouts of remote accesses. -/

namespace Sys2Proof.Machine

section
variable (s : State) (a b c : BitVec 4) (imm : BitVec 6) (id : Nat)

theorem exec_ldd : exec (.ldd a b c imm) s = execLdd a b c imm s := by rfl
theorem exec_std : exec (.std a b c imm) s = execStd a b c imm s := by rfl
theorem exec_filld : exec (.filld a b c imm) s = execFilld a b c imm s := by rfl
theorem exec_remoteAccessPerform : exec (.remoteAccessPerform id) s = execRemoteAccessPerform id s := by rfl
theorem exec_lddAnswer : exec (.lddAnswer id) s = execLddAnswer id s := by rfl
theorem exec_lddTimeout : exec (.lddTimeout id) s = execLddTimeout id s := by rfl
theorem exec_remoteStoreTimeout : exec (.remoteStoreTimeout id) s = execRemoteStoreTimeout id s := by rfl
theorem exec_multicastForward : exec (.multicastForward id) s = execMulticastForward id s := by rfl

end

/-! ## The checks of a remote access (24 R367) -/

section
variable {s : State} {x : Nat × Nat} {b c : BitVec 4} {size : Nat} {fill : Bool} {k : Nat → Word → Out}
variable (hbits : bitsOf (s.w c).toNat 16 48 = 0)
include hbits

/-- A handle that is not valid. -/
theorem remoteChecked_handle (hne : bitsOf (s.w c).toNat 0 16 ≠ 0) (hnone : s.handleOf (bitsOf (s.w c).toNat 0 16) = none) :
    remoteChecked x b c size fill s k = .next (s.takeTrap 0x08 (toWord (bitsOf (s.w c).toNat 0 16)) s.cx.pc) := by
  unfold remoteChecked
  dsimp only
  rw [if_neg (not_not.2 hbits), if_pos ⟨hne, by rw [hnone]; rfl⟩]
  rfl

variable (hhandle : bitsOf (s.w c).toNat 0 16 = 0 ∨ (s.handleOf (bitsOf (s.w c).toNat 0 16)).isSome = true)
include hhandle

/-- An address that is not a multiple of the size. -/
theorem remoteChecked_misaligned (hal : (s.w b).toNat % size ≠ 0) :
    remoteChecked x b c size fill s k = .next (s.takeTrap 0x06 (s.w b) s.cx.pc) := by
  have hok : ¬ (bitsOf (s.w c).toNat 0 16 ≠ 0 ∧ (s.handleOf (bitsOf (s.w c).toNat 0 16)).isNone = true) := by
    rintro ⟨hne, hnone⟩
    rw [Option.isNone_iff_eq_none.1 hnone] at hhandle
    exact hhandle.elim hne (fun h => absurd h (by decide))
  unfold remoteChecked
  dsimp only
  rw [if_neg (not_not.2 hbits), if_neg hok, if_pos hal]
  rfl

/-- An access whose checks pass. -/
theorem remoteChecked_ok (hal : (s.w b).toNat % size = 0) (hva : (s.w b).toNat < 2 ^ 48)
    (hwin : fill = true → isWin (rngOf (s.w b).toNat) = true) :
    remoteChecked x b c size fill s k = k (bitsOf (s.w c).toNat 0 16) (s.w b) := by
  have hok : ¬ (bitsOf (s.w c).toNat 0 16 ≠ 0 ∧ (s.handleOf (bitsOf (s.w c).toNat 0 16)).isNone = true) := by
    rintro ⟨hne, hnone⟩
    rw [Option.isNone_iff_eq_none.1 hnone] at hhandle
    exact hhandle.elim hne (fun h => absurd h (by decide))
  unfold remoteChecked
  dsimp only
  rw [if_neg (not_not.2 hbits), if_neg hok, if_neg (not_not.2 hal), if_neg (Nat.not_le.2 hva), if_neg (fun h => h.2 (hwin h.1))]

end

/-! ## LDD, STD and FILLD -/

/-- STD and FILLD of a calm strand whose checks pass. -/
theorem remoteStore_checked {s : State} (hs : s.calm = true) {x : Nat × Nat} {a b c : BitVec 4} {size : Nat} {fill : Bool}
    (hbits : bitsOf (s.w c).toNat 16 48 = 0)
    (hhandle : bitsOf (s.w c).toNat 0 16 = 0 ∨ (s.handleOf (bitsOf (s.w c).toNat 0 16)).isSome = true)
    (hal : (s.w b).toNat % size = 0) (hva : (s.w b).toNat < 2 ^ 48) (hwin : fill = true → isWin (rngOf (s.w b).toNat) = true) :
    remoteStore x a b c size fill s =
      let h := bitsOf (s.w c).toNat 0 16
      let v := (s.w a).toNat % 256 ^ size
      let t := if fill then s.endFwd s.cur else s
      done ((t.flyRemote h [if fill then 2 else 1, h, (s.w b).toNat, size, v]
        (.std t.cur h s.cx.group s.cx.sup (s.w b) size v fill t.remoteDue none)).progress s.cx.group) := by
  have hgo : ¬ (¬ (s.gates s.cur false true).isEmpty = true ∨ 64 ≤ s.classS s.cur ∨ (fill = true ∧ ¬ s.drained s.cur true = true)) := by
    rw [s.calm_gates hs, s.calm_classS hs, s.calm_drained hs]
    simp
  rw [remoteStore, reading_calm s hs, remoteChecked_ok hbits hhandle hal hva hwin, if_neg hgo,
    watched_unwatched s (s.calm_unwatched hs)]

theorem ldd_checked {s : State} (hs : s.calm = true) {a b c : BitVec 4} {imm : BitVec 6} (hnone : s.cx.lddRes = none)
    (hbits : bitsOf (s.w c).toNat 16 48 = 0)
    (hhandle : bitsOf (s.w c).toNat 0 16 = 0 ∨ (s.handleOf (bitsOf (s.w c).toNat 0 16)).isSome = true)
    (hal : (s.w b).toNat % (if bitAt imm.toNat 3 then 4 else 8) = 0) (hva : (s.w b).toNat < 2 ^ 48) :
    execLdd a b c imm s =
      let h := bitsOf (s.w c).toNat 0 16
      let n := if bitAt imm.toNat 3 then 4 else 8
      .next ((s.flyRemote h [0, h, (s.w b).toNat, n] (.ldd s.cur h s.cx.group s.cx.sup (s.w b) n s.remoteDue none)).block
        (.ldd s.uid)) := by
  have hgo : ¬ (¬ (s.gates s.cur true false).isEmpty = true ∨ 64 ≤ s.classL s.cur) := by
    rw [s.calm_gates hs, s.calm_classL hs]
    simp
  rw [execLdd, hnone]
  dsimp only
  rw [reading_calm s hs, remoteChecked_ok hbits hhandle hal hva (fun h => absurd h (by decide)), if_neg hgo,
    watched_unwatched s (s.calm_unwatched hs)]
  rfl

theorem whenLanded_none {s : State} (h : s.trapWait = none) (k : Out) : whenLanded s k = k := by
  unfold whenLanded
  rw [h]

/-- Settles O43: the outcome at hand completes or traps; else the checks in their order, and the access sets out. -/
theorem remoteResult : Obligations.RemoteResult := by
  unfold Obligations.RemoteResult
  intro s a b c imm hs own h va n clear checked
  rw [exec_ldd, exec_std, exec_filld]
  refine ⟨fun x hx => ?_, fun x hx hwait => ?_, fun x hx hwait => ?_, ?_, ?_, fun hbits hne hnone => ?_, fun hbits hhandle => ?_⟩
  · rw [execLdd, hx]
    rfl
  · have hrun : execLdd a b c imm s = whenLanded s (trap clear xLinkTimeout (toWord x)) := by
      rw [execLdd, hx]
      rfl
    rw [hrun, whenLanded_none hwait, trap_eq, State.cx_setCx]
    rfl
  · have hrun : execLdd a b c imm s = whenLanded s (trap clear xRemote (toWord x)) := by
      rw [execLdd, hx]
      rfl
    rw [hrun, whenLanded_none hwait, trap_eq, State.cx_setCx]
    rfl
  · rintro ⟨hbits, hhandle, hal, hva⟩
    refine ⟨fun hnone => ldd_checked hs hnone hbits hhandle hal hva, ?_⟩
    rw [execStd, remoteStore_checked hs hbits hhandle hal hva (fun h => absurd h (by decide))]
    rfl
  · rintro ⟨hbits, hhandle, hal, hva⟩ hwin
    rw [execFilld, remoteStore_checked hs hbits hhandle hal hva (fun _ => hwin)]
    have hmod : (s.w a).toNat % 256 ^ 8 = (s.w a).toNat := Nat.mod_eq_of_lt (s.w a).isLt
    dsimp only
    rw [hmod]
    rfl
  · refine ⟨?_, ?_, fun hres => ?_⟩
    · rw [execFilld, remoteStore, reading_calm s hs, remoteChecked_handle hbits hne hnone]
    · rw [execStd, remoteStore, reading_calm s hs, remoteChecked_handle hbits hne hnone]
    · rw [execLdd, hres]
      dsimp only
      rw [reading_calm s hs, remoteChecked_handle hbits hne hnone]
  · refine ⟨fun hal => ?_, fun hal => ⟨?_, fun hres => ?_⟩⟩
    · rw [execFilld, remoteStore, reading_calm s hs, remoteChecked_misaligned hbits hhandle hal]
    · rw [execStd, remoteStore, reading_calm s hs, remoteChecked_misaligned hbits hhandle hal]
    · rw [execLdd, hres]
      dsimp only
      rw [reading_calm s hs, remoteChecked_misaligned hbits hhandle hal]

/-! ## The outcomes of accesses (24 R363) -/

/-- An item that may arrive has the cargo that takes its place. -/
theorem State.flight_refly {s : State} {id : Nat} {x : Cargo} (h : s.flight id = some x) (y : Cargo) : (s.refly id y).flight id = some y := by
  have hcargo := State.cargoOf_refly (State.cargoOf_flight h) y
  rw [State.flight] at h
  split at h
  · cases h
  next hhop => exact (if_neg (c := (s.refly id y).hopping id = true) hhop).trans hcargo

/-- The word of an access of this device that succeeds meets no error, so the black box has none. -/
theorem State.remoteBox_none {s : State} {l : Loc} {n : Nat} (h : s.badAt l n = false) (part group : Nat) (sup : Bool) (va : Nat) (acc : Acc) :
    s.remoteBox part group sup va acc (.to l) n = s := by
  cases l with
  | spad core off =>
    have hbad : s.badS core off n = none := by simpa [State.badAt] using h
    unfold State.remoteBox
    dsimp only
    rw [hbad, ite_self]
  | hbm pa =>
    have hbad : s.badH pa n = none := by simpa [State.badAt] using h
    unfold State.remoteBox
    dsimp only
    rw [hbad]

/-- A load at this device whose place answers and is sound. -/
theorem State.remoteHere_load {s : State} {asker : Option Nat} {o : Origin} {part group n v : Nat} {sup : Bool} {va : Word} {l : Loc}
    (hl : s.farLoc part group sup va.toNat n .load = .to l) (hawake : s.awake l = true)
    (hbad : (s.remoteMark part group sup va.toNat .load).badAt l n = false) :
    s.remoteHere asker o part group sup 0 n va v =
      let u := s.remoteMark part group sup va.toNat .load
      some (u.remoteSoft asker (.to l) n, some (u.rd l n)) := by
  unfold State.remoteHere
  dsimp only
  rw [if_pos rfl, hl]
  dsimp only
  rw [State.remoteBox_none hbad, State.remoteLoad, hbad]
  simp [hawake]

theorem State.flight_remoteSoft (s : State) (asker : Option Nat) (l : Far) (n id : Nat) :
    (s.remoteSoft asker l n).flight id = s.flight id := by
  unfold State.remoteSoft
  split
  · exact (aside_flight id).softRead _ _ _ _
  · exact (aside_flight id).softRead _ _ _ _
  · rfl

theorem State.flight_remoteMark (s : State) (part group : Nat) (sup : Bool) (va : Nat) (acc : Acc) (id : Nat) :
    (s.remoteMark part group sup va acc).flight id = s.flight id := by
  unfold State.remoteMark
  split
  · rfl
  · dsimp only
    split
    · exact (aside_flight id).wrH _ _ _ _
    · rfl

section
variable {s : State} {id cid h g n due : Nat} {sup : Bool} {va : Word}
variable (hn : n ≠ 0) (hsent : s.unsent id = false) (hdev : (s.handleTarget (s.partOf g) g h).1 = s.devNum)
variable (hripe : s.linkRipe id cid = true) (hkey : s.wrongKey (s.partOf g) (s.handleTarget (s.partOf g) g h).2 = false)
include hn hsent hdev hripe hkey

theorem remoteAccess_ldd {t : State} {r : Option Nat} (hf : s.flight id = some (.ldd cid h g sup va n due none))
    (hhere : s.remoteHere (some (coreOfCid cid)) (s.byCore (coreOfCid cid) g) (s.partOf g) (s.handleTarget (s.partOf g) g h).2
      (sup && h == 0) 0 n va 0 = some (t, r)) :
    execRemoteAccessPerform id s = .next (t.refly id (.ldd cid h g sup va n due (some r))) := by
  rw [execRemoteAccessPerform, hf]
  dsimp only
  rw [if_neg (by simp [hn, hsent]), if_neg (not_not.2 hdev), if_neg (by simp [hripe]), if_neg (by simp [hkey]), hhere]

theorem remoteAccess_std {t : State} {r : Option Nat} {v : Nat} {fill : Bool}
    (hf : s.flight id = some (.std cid h g sup va n v fill due none))
    (hhere : s.remoteHere (some (coreOfCid cid)) (s.byCore (coreOfCid cid) g) (s.partOf g) (s.handleTarget (s.partOf g) g h).2
      (sup && h == 0) (if fill then 2 else 1) n va v = some (t, r)) :
    execRemoteAccessPerform id s = .next (t.refly id (.std cid h g sup va n v fill due (some r.isSome))) := by
  rw [execRemoteAccessPerform, hf]
  dsimp only
  rw [if_neg (by simp [hn, hsent]), if_neg (not_not.2 hdev), if_neg (by simp [hripe]), if_neg (by simp [hkey]), hhere]

end

/-! ## A store at its place (24 R367) -/

section
variable {s : State} {core off n : Nat}

/-- The state in which a remote store of a scratchpad is performed. -/
def State.remoteStored (s : State) (core off n v : Nat) : State := s.engineBytes core off (s.keepHw core off (leBytes n v))

theorem State.remoteStored_leaves {v : Nat} (hn : n ≠ 0) (hv : v < 256 ^ n) (hhw : ∀ j, j < n → s.ringHw core (off + j) = false) :
    (s.remoteStored core off n v).rdS core off n = v ∧ (s.remoteStored core off n v).full core (off / 8 * 8) = true := by
  have hne : s.keepHw core off (leBytes n v) ≠ [] := by
    refine List.ne_nil_of_length_pos ?_
    rw [State.length_keepHw, length_leBytes]
    omega
  refine ⟨?_, s.full_engineBytes core off hne⟩
  have hst := State.rdS_storeS_plain (v := v) (Nat.pos_of_ne_zero hn) hhw
  rw [Nat.mod_eq_of_lt hv] at hst
  rw [State.remoteStored, State.rdS, State.engineBytes_spad]
  exact hst

theorem State.wrBytesS_flight (s : State) (core off : Nat) (bs : List Byte) (id : Nat) : (s.wrBytesS core off bs).flight id = s.flight id := by
  unfold State.wrBytesS
  split <;> rfl

theorem State.wrBytesS_core (s : State) (core off : Nat) (bs : List Byte) (k : Nat) : (s.wrBytesS core off bs).core k = s.core k := by
  unfold State.wrBytesS
  split <;> rfl

/-- Words that an engine fills keep what stands aside of tags and lists. -/
theorem State.engineBytes_keeps {γ : Type} {p : State → γ} (hwr : ∀ (t : State) (bs : List Byte), p (t.wrBytesS core off bs) = p t)
    (htag : ∀ (t : State) (o : Nat), p (t.setTag core o true) = p t) (hend : ∀ (t : State) (o : Nat), p (t.endBereaved core o) = p t)
    (s : State) (bs : List Byte) : p (s.engineBytes core off bs) = p s := by
  unfold State.engineBytes
  dsimp only
  split
  · exact hwr _ _
  · refine (foldl_keeps (f := fun (s : State) i =>
      (s.setTag core ((off / 8 + i) * 8) true).endBereaved core ((off / 8 + i) * 8)) (p := p) (fun t i => ?_) _ _).trans (hwr _ _)
    rw [hend, htag]

theorem State.remoteStored_flight (v id : Nat) : (s.remoteStored core off n v).flight id = s.flight id :=
  s.engineBytes_keeps (p := fun t => t.flight id) (fun _ _ => State.wrBytesS_flight ..) (fun _ _ => rfl) (fun _ _ => rfl) _

theorem State.remoteStored_log (v : Nat) : ((s.remoteStored core off n v).core core).log = (s.core core).log := by
  refine s.engineBytes_keeps (p := fun t => (t.core core).log) (fun _ _ => by rw [State.wrBytesS_core]) (fun _ _ => rfl) (fun t o => ?_) _
  unfold State.endBereaved
  simp

variable {part group v : Nat} {asker : Option Nat} {o : Origin} {sup fill : Bool} {va : Word}
variable (hrng : rngOf va.toNat ≠ .user) (hl : s.farLoc part group sup va.toNat n .store = .to (.spad core off))
variable (hbad : s.badS core off n = none)
include hrng hl hbad

/-- An access that stores at a sound place of a scratchpad, none of it a queue area. -/
theorem State.remoteHere_store : s.remoteHere asker o part group sup (if fill then 2 else 1) n va v =
    some ((s.remoteWrite o (.to (.spad core off)) n v fill).1,
      if (s.remoteWrite o (.to (.spad core off)) n v fill).2 then some 0 else none) := by
  have hmark : s.remoteMark part group sup va.toNat .store = s := by rw [State.remoteMark, if_pos hrng]
  have hbox : s.remoteBox part group sup va.toNat .store (.to (.spad core off)) n = s :=
    State.remoteBox_none (by simpa [State.badAt] using hbad) ..
  have hop : ¬ (if fill then 2 else 1) = 0 := by split <;> decide
  have hfill : ((if fill then 2 else 1) == 2) = fill := by cases fill <;> rfl
  unfold State.remoteHere
  dsimp only
  rw [if_neg hop, hl]
  dsimp only
  rw [hmark, hbox, if_neg hop, hfill, if_neg (by simp [State.awake])]

end

/-- A store of a place with no queue area: it fails where a fill meets a full or bereaved word. -/
theorem State.remoteWrite_refused {s : State} {o : Origin} {core off n v : Nat}
    (h : s.full core off = true ∨ s.bereavedAt core off = true) :
    s.remoteWrite o (.to (.spad core off)) n v true = (s, false) := by
  unfold State.remoteWrite
  exact if_pos (.inr (.inr ⟨rfl, h⟩))

/-- Otherwise its bytes are in memory, with the tag full. -/
theorem State.remoteWrite_stored {s : State} {o : Origin} {core off n v : Nat} {fill : Bool} (harea : s.areaAt core off n = false)
    (hbad : s.badS core off n = none) (hfree : fill = false ∨ (s.full core off = false ∧ s.bereavedAt core off = false))
    (hlog : (s.core core).log.on = false) :
    s.remoteWrite o (.to (.spad core off)) n v fill = (s.remoteStored core off n v, true) := by
  have hgo : ¬ (s.areaAt core off n = true ∨ (s.badS core off n).isSome = true ∨
      (fill = true ∧ (s.full core off = true ∨ s.bereavedAt core off = true))) := by
    rw [harea, hbad]
    rcases hfree with h | ⟨h, h'⟩
    · simp [h]
    · simp [h, h']
  have hoff : ((s.remoteStored core off n v).core core).log.on = false := by rw [State.remoteStored_log, hlog]
  unfold State.remoteWrite
  dsimp only
  rw [if_neg hgo]
  exact congrArg (·, true) (State.logRx_off hoff ..)

/-! ## Answers, timeouts and other devices' accesses (24 R363 to R367) -/

/-- An access of another device that need not wait is performed here. -/
theorem State.remoteHere_performed {s : State} {asker : Option Nat} {o : Origin} {part group op n v : Nat} {sup : Bool} {va : Word}
    (hop : 0 < op) (hwait : s.farLoc part group sup va.toNat n .store ≠ .wait)
    (hawake : ∀ l, s.farLoc part group sup va.toNat n .store = .to l → s.awake l = true) :
    ∃ t r, s.remoteHere asker o part group sup op n va v = some (t, r) := by
  unfold State.remoteHere
  dsimp only
  rw [if_neg (Nat.ne_of_gt hop)]
  generalize hl : s.farLoc part group sup va.toNat n .store = l at hwait hawake
  obtain l | _ | _ := l
  · dsimp only
    rw [if_neg (by simp [hawake l rfl]), if_neg (Nat.ne_of_gt hop)]
    exact ⟨_, _, rfl⟩
  · exact absurd rfl hwait
  · rw [if_neg Bool.false_ne_true, if_neg (Nat.ne_of_gt hop)]
    exact ⟨_, _, rfl⟩

/-- The outcome of a blocked LDD is with its context, which is READY. -/
theorem State.lddEnd_leaves {s : State} {cid : Nat} {r : Nat × Nat} {w : Wait} (hc : (mget s.ctxs cid).isSome = true)
    (hstate : (s.ctx cid).state = .blocked w) (hcopy : isCopy cid = false) :
    ((s.lddEnd cid r).ctx cid).lddRes = some r ∧ ((s.lddEnd cid r).ctx cid).state = .ready ∧
      (∀ id, (s.lddEnd cid r).flight id = s.flight id) ∧ (∀ k, (s.lddEnd cid r).core k = s.core k) := by
  obtain ⟨c, hc⟩ := Option.isSome_iff_exists.1 hc
  have hblocked : c.state = .blocked w := (congrArg Ctx.state (State.ctx_some hc)).symm.trans hstate
  rw [State.lddEnd, State.updCtx_some hc]
  unfold State.wake
  simp only [State.ctx_setCtx_self, hblocked, hcopy, Bool.false_eq_true, if_false]
  exact ⟨trivial, trivial, fun _ => rfl, fun _ => rfl⟩

/-- Settles O44: an access that has its turn is performed at its place; its answer or its timeout reaches the strand. -/
theorem remoteSteps : Obligations.RemoteSteps := by
  unfold Obligations.RemoteSteps
  intro s id cid h g sup va n due
  rw [exec_remoteAccessPerform, exec_lddAnswer, exec_lddTimeout, exec_remoteStoreTimeout, exec_multicastForward]
  refine ⟨?_, ?_, ?_, ?_, ?_, ?_, ?_, ?_⟩
  · intro l hf hn hsent hdev hripe tg u hkey hl hawake hbad
    refine ⟨_, remoteAccess_ldd hn hsent hdev hripe hkey hf (State.remoteHere_load hl hawake hbad), ?_⟩
    refine State.flight_refly (x := .ldd cid h g sup va n due none) ?_ _
    rw [State.flight_remoteSoft, State.flight_remoteMark, hf]
  · intro core off v fill hf hn hsent hdev hripe tg hkey hrng hl harea hbad hhw
    have hhere := State.remoteHere_store (v := v) (fill := fill) (asker := some (coreOfCid cid)) (o := s.byCore (coreOfCid cid) g) hrng hl hbad
    refine ⟨fun hfree hlog hv => ?_, fun hfill hfull => ?_⟩
    · rw [State.remoteWrite_stored harea hbad hfree hlog] at hhere
      obtain ⟨hrd, htag⟩ := State.remoteStored_leaves (s := s) hn hv hhw
      refine ⟨_, remoteAccess_std hn hsent hdev hripe hkey hf hhere, hrd, htag, ?_⟩
      exact State.flight_refly ((State.remoteStored_flight v id).trans hf) _
    · subst hfill
      rw [State.remoteWrite_refused hfull] at hhere
      exact remoteAccess_std hn hsent hdev hripe hkey hf hhere
  · intro hf hsent
    rw [execRemoteAccessPerform, hf]
    exact if_pos (.inr hsent)
  · intro v w hf hc hstate hcopy hlog hdue
    have hnone : ¬ (mget s.ctxs cid).isNone = true := by simpa [Option.isSome_iff_ne_none] using hc
    obtain ⟨hres, hready, hflight, hcore⟩ := State.lddEnd_leaves (s := s.land id) (r := (0, v)) hc hstate hcopy
    have hoff : ((((s.land id).lddEnd cid (0, v)).core (coreOfCid cid)).log.on) = false := by rw [hcore]; exact hlog
    rw [execLddAnswer, hf]
    dsimp only
    rw [if_neg hnone, if_neg (Nat.not_le.2 hdue), State.logLink, State.logRx_off hoff]
    exact ⟨_, rfl, by rw [hflight, State.flight_land], hres, hready⟩
  · intro r hf
    rw [execLddTimeout, hf]
    exact ⟨fun hdue => if_pos hdue, fun hdue => if_neg (Nat.not_lt.2 hdue)⟩
  · intro v fill r hf
    rw [execRemoteStoreTimeout, hf]
    refine ⟨fun hdue => if_pos hdue, fun hdue hc => ?_⟩
    obtain ⟨c, hc⟩ := Option.isSome_iff_exists.1 hc
    have hctx : (s.land id).ctx cid = c := State.ctx_some (s := s) hc
    refine ⟨_, if_neg (Nat.not_lt.2 hdue), ?_, ?_⟩
    · rw [State.updCtx_some (s := s.land id) hc]
      exact s.flight_land id
    · rw [State.updCtx_some (s := s.land id) hc, State.ctx_setCtx_self, show s.ctx cid = c from hctx]
  · intro part op v hf hkey hop hwait hawake
    obtain ⟨t, r, hhere⟩ := State.remoteHere_performed (asker := none) (o := byFar id) (v := v) hop hwait hawake
    rw [execRemoteAccessPerform, hf]
    dsimp only
    rw [if_neg (by simp [hkey]), hhere]
    exact ⟨_, rfl, t.flight_land id⟩
  · intro tree data hf hfirst hopen
    obtain ⟨f, hpick, hid⟩ := Option.map_eq_some_iff.1 hfirst
    have hhead : ¬ ((some f).any (fun g => g.id != id) = true ∨ ¬ s.treeOpen tree = true) := by simp [hid, hopen]
    rw [← hpick] at hhead
    rw [execMulticastForward, hf]
    exact if_neg hhead

end Sys2Proof.Machine

/-! PROOFS. Wavelengths, flits and link control (24 R356 to R369): what sending leaves alone, wavelength states, LNKCTL, LNKSTAT. -/

namespace Sys2Proof.Machine

/-! ## The state of a wavelength (24 R360) -/

@[simp] theorem State.link_setLink (s : State) (l : Nat) (x : Link) : (s.setLink l x).link l = x := by
  simp [State.link, State.setLink, mgetD]

theorem State.link_setLink_ne (s : State) {l k : Nat} (h : k ≠ l) (x : Link) : (s.setLink l x).link k = s.link k := by
  simp only [State.link, State.setLink, mgetD, mget_mput_ne _ _ h.symm]

@[simp] theorem Link.st_setSt_self (x : Link) (i : Nat) (w : Wl) : (x.setSt i w).st i = w := by
  unfold Link.setSt Link.st
  by_cases h : w = .parked
  · simp [h, mgetD]
  · simp [h, mgetD]

theorem Link.st_setSt_ne (x : Link) {i k : Nat} (h : k ≠ i) (w : Wl) : (x.setSt i w).st k = x.st k := by
  unfold Link.setSt Link.st
  dsimp only
  split
  · simp only [mgetD, mget_mdel_ne _ h.symm]
  · simp only [mgetD, mget_mput_ne _ _ h.symm]

@[simp] theorem Link.st_retrain_self (x : Link) (i : Nat) (n : Bool) : (x.retrain i n).st i = .retraining :=
  x.st_setSt_self i .retraining

theorem Link.st_retrain_ne (x : Link) {i k : Nat} (h : k ≠ i) (n : Bool) : (x.retrain i n).st k = x.st k :=
  x.st_setSt_ne h .retraining

/-! ## What sending leaves alone (24 R359, R361) -/

/-- What of a link its outbound side leaves alone: the wavelengths and the inbound side. -/
structure Link.Sent (x y : Link) : Prop where
  wl : y.wl = x.wl
  maskIn : y.maskIn = x.maskIn
  seqIn : y.seqIn = x.seqIn
  flitsIn : y.flitsIn = x.flitsIn

theorem Link.Sent.refl (x : Link) : x.Sent x := ⟨rfl, rfl, rfl, rfl⟩

theorem Link.Sent.trans {x y z : Link} (h : x.Sent y) (g : y.Sent z) : x.Sent z :=
  ⟨g.wl.trans h.wl, g.maskIn.trans h.maskIn, g.seqIn.trans h.seqIn, g.flitsIn.trans h.flitsIn⟩

theorem Link.Sent.st {x y : Link} (h : x.Sent y) (i : Nat) : y.st i = x.st i := by rw [Link.st, h.wl]; rfl

theorem Link.Sent.lit {x y : Link} (h : x.Sent y) (b : Bool) : y.lit b = x.lit b := by
  simp only [Link.lit, h.st]

/-- Beats count on their wavelengths and nowhere else. -/
theorem Link.countBeats_eq (x : Link) (mask : List Nat) (base : Nat) :
    ∃ e b, x.countBeats mask base = { x with errs := e, beats := b } := by
  unfold Link.countBeats
  generalize upTo 9 = js
  induction js generalizing x with
  | nil => exact ⟨_, _, rfl⟩
  | cons j r ih =>
    obtain ⟨e, b, h⟩ := ih (x.countBeat (base + beatOn mask j))
    refine ⟨e, b, ?_⟩
    rw [List.foldl_cons, h]
    unfold Link.countBeat
    dsimp only
    split <;> rfl

theorem Link.countIn_eq (x : Link) : ∃ e b, x.countIn = { x with errs := e, beats := b } := x.countBeats_eq _ _

theorem Link.sent_countIn (x : Link) : x.Sent x.countIn := by
  obtain ⟨e, b, h⟩ := x.countIn_eq
  rw [h]
  exact ⟨rfl, rfl, rfl, rfl⟩

/-- A flit that is carried joins what has gone out. -/
theorem Link.carry_eq (x : Link) (mask : List Nat) (f : Flit) :
    ∃ n e b, x.carry mask f = { x with out := x.out ++ [⟨mask, f.beats⟩], flitsOut := n, errs := e, beats := b } := by
  obtain ⟨e, b, h⟩ := x.countBeats_eq mask 0
  refine ⟨(x.carry mask f).flitsOut, e, b, ?_⟩
  unfold Link.carry
  rw [h]

theorem Link.sent_carry (x : Link) (mask : List Nat) (f : Flit) : x.Sent (x.carry mask f) := by
  obtain ⟨n, e, b, h⟩ := x.carry_eq mask f
  rw [h]
  exact ⟨rfl, rfl, rfl, rfl⟩

theorem Link.sent_ctl (x : Link) (r : List Flit) : x.Sent { x with ctl := r } := ⟨rfl, rfl, rfl, rfl⟩

/-- A link whose next data has been made a flit, kept for replay. -/
def Link.taken (x : Link) (b : List Nat) (r : List (List Nat)) : Link :=
  { x with
    waiting := r
    replay := x.replay ++ [⟨0, x.seqOut, b⟩]
    seqOut := (x.seqOut + 1) % 2 ^ 32 }

theorem Link.sent_taken (x : Link) (b : List Nat) (r : List (List Nat)) : x.Sent (x.taken b r) := ⟨rfl, rfl, rfl, rfl⟩

theorem Link.pump_down {x : Link} (n : Nat) (h : (x.lit false).isEmpty = true) : x.pump (n + 1) = x := by
  unfold Link.pump
  exact if_pos h

section
variable {x : Link} (n : Nat) (hup : ¬ (x.lit false).isEmpty = true)
include hup

theorem Link.pump_again {f : Flit} {r : List Flit} (h : x.ctl = f :: r) :
    x.pump (n + 1) = (({ x with ctl := r } : Link).carry (x.lit false) f).pump n := by
  rw [Link.pump]
  dsimp only
  rw [if_neg hup, h]

theorem Link.pump_data {b : List Nat} {r : List (List Nat)} (h : x.ctl = []) (hw : x.waiting = b :: r) :
    x.pump (n + 1) = if 256 ≤ x.replay.length then x else ((x.taken b r).carry (x.lit false) ⟨0, x.seqOut, b⟩).pump n := by
  rw [Link.pump]
  simp only [hup, h, hw, Link.taken, Bool.false_eq_true, if_false]

theorem Link.pump_idle (h : x.ctl = []) (hw : x.waiting = []) : x.pump (n + 1) = x := by
  rw [Link.pump]
  dsimp only
  rw [if_neg hup, h, hw]

end

theorem Link.sent_pump (n : Nat) (x : Link) : x.Sent (x.pump n) := by
  induction n generalizing x with
  | zero => exact .refl x
  | succ n ih =>
    by_cases hup : (x.lit false).isEmpty = true
    · rw [x.pump_down n hup]
      exact .refl x
    · match hctl : x.ctl, hw : x.waiting with
      | f :: r, _ =>
        rw [Link.pump_again n hup hctl]
        exact ((x.sent_ctl r).trans (Link.sent_carry ..)).trans (ih _)
      | [], b :: r =>
        rw [Link.pump_data n hup hctl hw]
        split
        · exact .refl x
        · exact ((x.sent_taken b r).trans (Link.sent_carry ..)).trans (ih _)
      | [], [] =>
        rw [Link.pump_idle n hup hctl hw]
        exact .refl x

theorem Link.sent_go (x : Link) : x.Sent x.go := Link.sent_pump _ x

/-- The other end is told of a new outbound mask on the old one (24 R358). -/
def Link.telling (x y : Link) : Link :=
  if y.lit false = x.lit false ∨ x.lit false = [] then y else y.carry (x.lit false) ⟨3, 0, [maskBits (y.lit false)]⟩

theorem Link.change_eq (x : Link) (f : Link → Link) : x.change f = (x.telling (x.takeMask (f x))).go := rfl

theorem Link.sent_telling (x y : Link) : y.Sent (x.telling y) := by
  unfold Link.telling
  split
  · exact .refl y
  · exact y.sent_carry _ _

theorem Link.takeMask_wl (x y : Link) : (x.takeMask y).wl = y.wl := by
  unfold Link.takeMask
  split <;> rfl

/-- A change of states leaves the states that it gives. -/
theorem Link.st_change (x : Link) (f : Link → Link) (i : Nat) : (x.change f).st i = (f x).st i := by
  rw [x.change_eq, (Link.sent_go _).st, (x.sent_telling _).st, Link.st, x.takeMask_wl]
  rfl

/-! ## A link with no new data to send (24 R359) -/

/-- With no new data waiting, sending leaves the replay buffer alone. -/
theorem Link.pump_calm (n : Nat) {x : Link} (hwait : x.waiting = []) :
    (x.pump n).replay = x.replay ∧ (x.pump n).waiting = [] := by
  induction n generalizing x with
  | zero => exact ⟨rfl, hwait⟩
  | succ n ih =>
    by_cases hup : (x.lit false).isEmpty = true
    · rw [Link.pump_down n hup]
      exact ⟨rfl, hwait⟩
    · cases hctl : x.ctl with
      | cons f r =>
        rw [Link.pump_again n hup hctl]
        obtain ⟨m, e, b, h⟩ := ({ x with ctl := r } : Link).carry_eq (x.lit false) f
        rw [h]
        exact ih hwait
      | nil =>
        rw [Link.pump_idle n hup hctl hwait]
        exact ⟨rfl, hwait⟩

/-- What waits to be sent again goes out on the mask in force, in order. -/
theorem Link.pump_ctl (n : Nat) {x : Link} (hwait : x.waiting = []) (hup : x.lit false ≠ []) (hn : x.ctl.length ≤ n) :
    (x.pump n).ctl = [] ∧ (x.pump n).out = x.out ++ x.ctl.map (fun f => ⟨x.lit false, f.beats⟩) := by
  have hmask : ¬ (x.lit false).isEmpty = true := by simpa using hup
  induction n generalizing x with
  | zero =>
    have hctl : x.ctl = [] := List.eq_nil_of_length_eq_zero (Nat.le_zero.1 hn)
    exact ⟨hctl, by rw [hctl]; simp [Link.pump]⟩
  | succ n ih =>
    cases hctl : x.ctl with
    | cons f r =>
      have hlit := ((x.sent_ctl r).trans (Link.sent_carry _ (x.lit false) f)).lit false
      rw [Link.pump_again n hmask hctl]
      obtain ⟨m, e, b, h⟩ := ({ x with ctl := r } : Link).carry_eq (x.lit false) f
      generalize ({ x with ctl := r } : Link).carry (x.lit false) f = y at hlit h
      rw [hctl, List.length_cons] at hn
      obtain ⟨hc, ho⟩ := ih (x := y) (by rw [h]; exact hwait) (by rwa [hlit])
        (by rw [h]; exact Nat.le_of_succ_le_succ hn) (by rwa [hlit])
      refine ⟨hc, ?_⟩
      rw [ho, hlit, h]
      simp
    | nil =>
      rw [Link.pump_idle n hmask hctl hwait]
      exact ⟨hctl, by simp⟩

theorem Link.go_calm {x : Link} (hwait : x.waiting = []) : x.go.replay = x.replay ∧ x.go.waiting = [] := Link.pump_calm _ hwait

theorem Link.go_ctl {x : Link} (hwait : x.waiting = []) (hup : x.lit false ≠ []) :
    x.go.ctl = [] ∧ x.go.out = x.out ++ x.ctl.map (fun f => ⟨x.lit false, f.beats⟩) :=
  Link.pump_ctl _ hwait hup (Nat.le_add_right ..)

/-- A change of states of a link with no new data: the replay buffer stays, and nothing waits where the hank is up. -/
theorem Link.change_calm {x : Link} {f : Link → Link} (hwait : (f x).waiting = []) :
    (x.change f).replay = (f x).replay ∧ (x.change f).waiting = [] ∧ ((x.change f).lit false ≠ [] → (x.change f).ctl = []) := by
  have htake : (x.takeMask (f x)).waiting = [] ∧ (x.takeMask (f x)).replay = (f x).replay := by
    unfold Link.takeMask
    split <;> exact ⟨hwait, rfl⟩
  rw [x.change_eq]
  generalize x.takeMask (f x) = y at htake
  obtain ⟨hw, hrep⟩ := htake
  obtain ⟨hw, hrep⟩ : (x.telling y).waiting = [] ∧ (x.telling y).replay = (f x).replay := by
    unfold Link.telling
    split
    · exact ⟨hw, hrep⟩
    · obtain ⟨n, e, b, h⟩ := y.carry_eq (x.lit false) ⟨3, 0, [maskBits (y.lit false)]⟩
      rw [h]
      exact ⟨hw, hrep⟩
  obtain ⟨hrep', hw'⟩ := Link.go_calm hw
  exact ⟨hrep'.trans hrep, hw', fun hup => (Link.go_ctl hw (by rwa [(Link.sent_go _).lit] at hup)).1⟩

/-! ## Commands on wavelengths (24 R360, R368) -/

/-- The state in which a command leaves a wavelength. -/
def WlCmd.gives : WlCmd → Wl
  | .park => .parked
  | .light => .waking
  | .retrain => .retraining
  | .reset => .waking

theorem WlCmd.act_self (c : WlCmd) (i : Nat) (x : Link) : (c.act i x).st i = c.gives := by
  cases c
  case retrain => exact x.st_retrain_self i true
  all_goals exact x.st_setSt_self i _

theorem WlCmd.act_ne (c : WlCmd) {i k : Nat} (h : k ≠ i) (x : Link) : (c.act i x).st k = x.st k := by
  cases c
  case retrain => exact x.st_retrain_ne h true
  all_goals exact x.st_setSt_ne h _

/-- Commanded wavelengths are where the command leaves them, the others where they were. -/
theorem WlCmd.acts_st (c : WlCmd) (is : List Nat) (k : Nat) (x : Link) :
    (is.foldl (fun x i => c.act i x) x).st k = if k ∈ is then c.gives else x.st k := by
  induction is generalizing x with
  | nil => simp
  | cons i r ih =>
    rw [List.foldl_cons, ih]
    by_cases hr : k ∈ r
    · simp [hr]
    · by_cases hi : k = i
      · subst hi
        simp [hr, c.act_self]
      · simp [hr, hi, c.act_ne hi]

/-- A command on one wavelength or on its hank reaches a wavelength that is in the state for it. -/
theorem State.wlCommand_does {s : State} {c : WlCmd} {l i : Nat} (hl : l < 128) (hi : i < 8) (hst : (s.link l).st i = c.wants)
    (hank : Bool) : ∃ y : Link, s.wlCommand c l i hank = (s.setLink l y, 0) ∧ y.st i = c.gives := by
  unfold State.wlCommand
  dsimp only
  have hmem : i ∈ (if hank then (upTo 8).map (fun k => i / 8 * 8 + k) else [i]).filter (fun k => (s.link l).st k == c.wants) := by
    refine List.mem_filter.2 ⟨?_, by simp [hst]⟩
    cases hank with
    | false => simp
    | true => exact List.mem_map.2 ⟨i, List.mem_range.2 hi, by omega⟩
  generalize (if hank then (upTo 8).map (fun k => i / 8 * 8 + k) else [i]).filter (fun k => (s.link l).st k == c.wants) = ks at hmem
  rw [if_neg (by
    rintro (h | h | h)
    · rw [List.isEmpty_iff.1 h] at hmem
      cases hmem
    · exact absurd h (Nat.not_le.2 hl)
    · omega)]
  exact ⟨_, rfl, by rw [Link.st_change, c.acts_st, if_pos hmem]⟩

/-- A command on one wavelength in another state is refused. -/
theorem State.wlCommand_refused {s : State} {c : WlCmd} {l i : Nat} (hst : (s.link l).st i ≠ c.wants) :
    s.wlCommand c l i false = (s, 2) := by
  unfold State.wlCommand
  refine if_pos (.inl ?_)
  simp [hst]

/-! ## Flits that come in (24 R359) -/

/-- Errors of a wavelength leave the inbound side's order alone. -/
theorem Link.error_order (x : Link) (errt i : Nat) : (x.error errt i).seqIn = x.seqIn ∧ (x.error errt i).flitsIn = x.flitsIn := by
  have hset (y : Link) (w : Wl) : (y.setSt i w).seqIn = y.seqIn ∧ (y.setSt i w).flitsIn = y.flitsIn := ⟨rfl, rfl⟩
  unfold Link.error
  split
  · exact ⟨rfl, rfl⟩
  · split
    · exact hset x .retraining
    · exact ⟨rfl, rfl⟩

theorem Link.errors_order (errt : Nat) (fs : List Nat) (x : Link) :
    (fs.foldl (fun x i => x.error errt (8 + i)) x).seqIn = x.seqIn ∧ (fs.foldl (fun x i => x.error errt (8 + i)) x).flitsIn = x.flitsIn :=
  ⟨foldl_keeps (p := Link.seqIn) (fun y i => (y.error_order errt (8 + i)).1) fs x,
    foldl_keeps (p := Link.flitsIn) (fun y i => (y.error_order errt (8 + i)).2) fs x⟩

/-- No beat marked as failing fails no wavelength. -/
theorem failing_none (mask : List Nat) : failing mask 0 = [] := by
  have hzero : (upTo 9).filter (fun j => bitAt 0 j) = [] := by decide
  rw [failing, hzero]
  rfl

/-- A marked beat fails the wavelength that carries it. -/
theorem failing_some (mask : List Nat) {m : Nat} (h : m ≠ 0) (hm : m < 2 ^ 9) : failing mask m ≠ [] := by
  obtain ⟨j, hj⟩ := Nat.exists_testBit_of_ne_zero h
  have hlt : j < 9 := by
    by_contra hj9
    have := (Nat.ge_two_pow_of_testBit hj).trans' (Nat.pow_le_pow_right (by decide : 0 < 2) (Nat.not_lt.1 hj9))
    omega
  have hbit : bitAt m j = true := by
    rw [Nat.testBit_eq_decide_div_mod_eq] at hj
    simpa [bitAt] using hj
  have hmem : beatOn mask j ∈ failing mask m :=
    List.mem_eraseDups.2 (List.mem_map.2 ⟨j, List.mem_filter.2 ⟨List.mem_range.2 hlt, hbit⟩, rfl⟩)
  exact List.ne_nil_of_mem hmem

/-- Data for any link leaves a link's inbound side alone. -/
theorem State.link_sendFlits (s : State) (k id : Nat) (ws : List Nat) (l : Nat) : (s.link l).Sent ((s.sendFlits k id ws).link l) := by
  unfold State.sendFlits
  dsimp only
  by_cases h : l = k
  · subst h
    rw [State.link_setLink]
    exact Link.Sent.trans (y := { s.link l with waiting := (s.link l).waiting ++ (sevens ws.length ws).map (fun b => id :: b) })
      ⟨rfl, rfl, rfl, rfl⟩ (Link.sent_go _)
  · rw [State.link_setLink_ne _ h]
    exact .refl _

/-- What an accepted flit brings leaves a link's inbound side alone. -/
theorem State.link_accept (s : State) (l : Nat) : (s.link l).Sent (s.accept.link l) := by
  unfold State.accept
  dsimp only
  split
  · exact s.link_sendFlits _ _ _ l
  · exact .refl _

/-! ## LNKCTL and LNKSTAT (24 R368, R369) -/

theorem exec_lnkctlPark {s : State} (a b c : BitVec 4) : exec (.lnkctlPark a b c) s = lnkctlWl .park 2 a b c s := by rfl

theorem exec_lnkctlLight {s : State} (a b c : BitVec 4) : exec (.lnkctlLight a b c) s = lnkctlWl .light 3 a b c s := by rfl

theorem exec_lnkctlRetrain {s : State} (a b c : BitVec 4) : exec (.lnkctlRetrain a b c) s = lnkctlWl .retrain 4 a b c s := by rfl

theorem exec_lnkstat {s : State} (a b c : BitVec 4) (imm : BitVec 6) : exec (.lnkstat a b c imm) s = execLnkstat a b c imm s := by rfl

section
variable {s : State} (hs : s.calm = true) (cmd : WlCmd) (op : Nat) (a b c : BitVec 4)
include hs

theorem lnkctl_privilege (h : s.cx.sup = false ∨ s.granted (s.partOf s.cx.group) (bitsOf (s.w b).toNat 0 7) = false) :
    lnkctlWl cmd op a b c s = .next (s.takeTrap 0x03 (s.w b) s.cx.pc) := by
  rw [lnkctlWl, reading_calm s hs]
  exact if_pos (h.imp (by simp [·]) (by simp [·]))

variable (hsup : s.cx.sup = true) (hgrant : s.granted (s.partOf s.cx.group) (bitsOf (s.w b).toNat 0 7) = true)
variable (h7 : bitAt (s.w b).toNat 7 = false) (h11 : bitsOf (s.w b).toNat 11 4 = 0) (h16 : bitsOf (s.w b).toNat 16 48 = 0)
include hsup hgrant h7 h11 h16

/-- A supervisor's command with a grant completes with the outcome of the command. -/
theorem lnkctl_commands : lnkctlWl cmd op a b c s =
    let r := s.wlCommand cmd (bitsOf (s.w b).toNat 0 7) (bitsOf (s.w b).toNat 8 3) (bitAt (s.w b).toNat 15)
    .next (r.1.setW a (toWord (if r.2 = 0 then 0 else 2 ^ 63 + r.2))).advance := by
  have hpriv : ¬ (¬ s.cx.sup = true ∨ ¬ s.granted (s.partOf s.cx.group) (bitsOf (s.w b).toNat 0 7) = true) := by
    rw [hsup, hgrant]
    simp
  have hbits : ¬ (bitAt (s.w b).toNat 7 = true ∨ bitsOf (s.w b).toNat 11 4 ≠ 0 ∨ bitsOf (s.w b).toNat 16 48 ≠ 0) := by
    rw [h7, h11, h16]
    simp
  rw [lnkctlWl, reading_calm s hs]
  dsimp only
  rw [if_neg hpriv, if_neg hbits]
  rfl

/-- A command on a wavelength that is in the state for it. -/
theorem lnkctl_does (hst : (s.link (bitsOf (s.w b).toNat 0 7)).st (bitsOf (s.w b).toNat 8 3) = cmd.wants) :
    ∃ t, lnkctlWl cmd op a b c s = .next t ∧ (t.link (bitsOf (s.w b).toNat 0 7)).st (bitsOf (s.w b).toNat 8 3) = cmd.gives ∧
      t.w a = 0 ∧ t.cx.pc = succPc s.cx.line s.cx.pc := by
  have hrep : s.cx.rep = none := s.calm_rep hs
  obtain ⟨y, hdoes, hy⟩ := State.wlCommand_does (c := cmd) (s := s) (bitsOf_lt _ 0 7) (bitsOf_lt _ 8 3) hst (bitAt (s.w b).toNat 15)
  rw [lnkctl_commands hs cmd op a b c hsup hgrant h7 h11 h16, hdoes]
  let u := (s.setLink (bitsOf (s.w b).toNat 0 7) y).setW a (toWord 0)
  have hrep' : u.cx.rep = none := hrep
  refine ⟨u.advance, rfl, ?_, ?_, State.advance_pc _ hrep'⟩
  · rw [State.advance_keeps (fun t => t.link (bitsOf (s.w b).toNat 0 7)) (fun _ _ => rfl) hrep']
    exact (congrArg (fun x : Link => x.st _) (s.link_setLink _ y)).trans hy
  · rw [State.advance_w _ hrep', State.w_setW_self]
    rfl

/-- A command on one wavelength in another state returns code 2. -/
theorem lnkctl_refused (hst : (s.link (bitsOf (s.w b).toNat 0 7)).st (bitsOf (s.w b).toNat 8 3) ≠ cmd.wants)
    (h15 : bitAt (s.w b).toNat 15 = false) : lnkctlWl cmd op a b c s = .next (s.setW a (toWord (2 ^ 63 + 2))).advance := by
  rw [lnkctl_commands hs cmd op a b c hsup hgrant h7 h11 h16, h15, State.wlCommand_refused hst]
  rfl

end

/-- LNKSTAT with no bit set that must be 0 returns what its selector names. -/
theorem lnkstat_gives {s : State} (hs : s.calm = true) (a b c : BitVec 4) (imm : BitVec 6) (h7 : bitAt (s.w b).toNat 7 = false)
    (h11 : bitsOf (s.w b).toNat 11 53 = 0) :
    let x := s.link (bitsOf (s.w b).toNat 0 7)
    let part := s.partOf s.cx.group
    let give (v : Nat) : Out := .next (s.setW a (toWord v)).advance
    (bitsOf imm.toNat 0 2 = 0 → 2 ≤ s.gran part 0 → execLnkstat a b c imm s = give (s.shown part x.rcnt * 2 ^ 56 + x.states)) ∧
      (bitsOf imm.toNat 0 2 = 1 →
        execLnkstat a b c imm s = give (s.shown part (mgetD x.errs (8 + bitsOf (s.w b).toNat 8 3) 0))) ∧
      (bitsOf imm.toNat 0 2 = 2 → execLnkstat a b c imm s = give (s.shown part x.flitsOut)) ∧
      (bitsOf imm.toNat 0 2 = 3 → execLnkstat a b c imm s = give (s.shown part x.flitsIn)) := by
  have hbits : ¬ (bitAt (s.w b).toNat 7 = true ∨ bitsOf (s.w b).toNat 11 53 ≠ 0) := by
    rw [h7, h11]
    simp
  intro x part give
  rw [execLnkstat, reading_calm s hs]
  dsimp only
  rw [if_neg hbits]
  refine ⟨fun hsel hgran => ?_, fun hsel => ?_, fun hsel => ?_, fun hsel => ?_⟩
  · rw [hsel]
    show done (s.setW a (toWord (match s.gran part 0 with
      | 0 => 0
      | 1 => s.shown part (x.rcnt * 2 ^ 56 + x.states)
      | _ => s.shown part x.rcnt * 2 ^ 56 + x.states))) = _
    generalize s.gran part 0 = g at hgran
    match g, hgran with
    | g + 2, _ => rfl
  · rw [hsel]
    rfl
  · rw [hsel]
    rfl
  · rw [hsel]
    rfl

/-! ## Events of wavelengths (24 R360) -/

section
variable {s : State} {l i : Nat} (hl : l < 128) (hi : i < 16)
include hl hi

theorem onLink_some (t : State) : onLink l i s t = .next t := by
  rw [onLink, if_pos ⟨hl, hi⟩]

/-- A wavelength in the state that an event asks for takes its change. -/
theorem wlStep_takes {w z : Wl} {f : Link → Link} (hst : (s.link l).st i = w) (hz : ∀ x : Link, (f x).st i = z) :
    ∃ t, onLink l i s (wlStep l i w f s) = .next t ∧ (t.link l).st i = z := by
  refine ⟨_, onLink_some hl hi _, ?_⟩
  rw [wlStep, if_pos hst, State.link_setLink, Link.st_change, hz]

omit hl hi in
theorem State.link_wlFail : ((s.wlFail l i).link l).st i = .failed := by
  have hbox : (s.wlFail l i).link l = (s.link l).change (fun x => x.setSt i .failed) := by
    rw [State.wlFail, State.link, show Aside State.links by constructor <;> intros <;> rfl |>.bbox]
    exact s.link_setLink l _
  rw [hbox, Link.st_change, Link.st_setSt_self]

end

/-! ## Width control (24 R358) -/

/-- The change that a width-control flit makes in one inbound wavelength. -/
def Link.joinStep (uid mask : Nat) (x : Link) (i : Nat) : Link :=
  let w := x.st (8 + i)
  if bitAt mask i then (if w = .waking ∨ w = .retraining then x.setSt (8 + i) .lit else x)
  else if w = .lit then
    (if Config.freeChoice (uid + i) % 2 = 0 then x.setSt (8 + i) .parked else x.retrain (8 + i) true)
  else x

theorem Link.joinStep_ne (uid mask : Nat) (x : Link) {i k : Nat} (h : k ≠ i) : (x.joinStep uid mask i).st (8 + k) = x.st (8 + k) := by
  have hne : 8 + k ≠ 8 + i := by omega
  unfold Link.joinStep
  dsimp only
  split
  · split
    · exact x.st_setSt_ne hne _
    · rfl
  · split
    · split
      · exact x.st_setSt_ne hne _
      · exact x.st_retrain_ne hne _
    · rfl

/-- Each wavelength is treated once, as it stood. -/
theorem Link.joins_st (uid mask : Nat) {k : Nat} {is : List Nat} (hk : k ∈ is) (hnd : is.Nodup) (x : Link) :
    ∃ y : Link, y.st (8 + k) = x.st (8 + k) ∧
      (is.foldl (fun x i => x.joinStep uid mask i) x).st (8 + k) = (y.joinStep uid mask k).st (8 + k) := by
  induction is generalizing x with
  | nil => cases hk
  | cons i r ih =>
    obtain ⟨hi, hr⟩ := List.nodup_cons.1 hnd
    rw [List.foldl_cons]
    by_cases h : k = i
    · subst h
      refine ⟨x, rfl, ?_⟩
      generalize x.joinStep uid mask k = z
      clear ih hk hnd hr
      induction r generalizing z with
      | nil => rfl
      | cons j r ih =>
        rw [List.foldl_cons, ih (fun h => hi (.tail _ h))]
        exact z.joinStep_ne uid mask (fun h => hi (h ▸ .head _))
    · obtain ⟨y, hy, hfold⟩ := ih ((List.mem_cons.1 hk).resolve_left h) hr (x.joinStep uid mask i)
      exact ⟨y, hy.trans (x.joinStep_ne uid mask h), hfold⟩

/-- What a width-control flit leaves in a wavelength: one of its mask is LIT, one that leaves it is not, a parked or failed one stays. -/
theorem Link.joinStep_leaves (uid mask k : Nat) (x : Link) :
    let w := x.st (8 + k)
    let z := (x.joinStep uid mask k).st (8 + k)
    (bitAt mask k = true → (w = .waking ∨ w = .retraining ∨ w = .lit) → z = .lit) ∧
      (bitAt mask k = false → w = .lit → z ≠ .lit) ∧ ((w = .parked ∨ w = .failed) → z = w) := by
  refine ⟨fun hbit hw => ?_, fun hbit hw => ?_, fun hw => ?_⟩
  · unfold Link.joinStep
    dsimp only
    rw [if_pos hbit]
    rcases hw with hw | hw | hw
    · rw [if_pos (.inl hw), Link.st_setSt_self]
    · rw [if_pos (.inr hw), Link.st_setSt_self]
    · rw [if_neg (by simp [hw]), hw]
  · unfold Link.joinStep
    dsimp only
    rw [if_neg (by simp [hbit]), if_pos hw]
    split
    · simp
    · simp
  · unfold Link.joinStep
    dsimp only
    have hjoin : ¬ (x.st (8 + k) = .waking ∨ x.st (8 + k) = .retraining) := by rcases hw with hw | hw <;> simp [hw]
    have hlit : ¬ x.st (8 + k) = .lit := by rcases hw with hw | hw <;> simp [hw]
    rw [if_neg hjoin, if_neg hlit, ite_self]

theorem execWidthControlReceive_eq {s : State} {l : Nat} (hl : l < 128) (hup : (s.link l).maskIn ≠ []) (mask : Nat) :
    execWidthControlReceive l mask s = .next
      { s.setLink l { (upTo 8).foldl (fun x i => x.joinStep s.uid mask i) (s.link l).countIn with
          maskIn := (upTo 8).filter (fun i => bitAt mask i) } with uid := s.uid + 8 } := by
  refine congrArg Host.Outcome.next (if_pos ⟨hl, ?_⟩)
  simpa using hup

/-! ## Data flits, acknowledgements and negative ones (24 R359) -/

/-- The retraining that a negative acknowledgement brings; which wavelengths retrain is free. -/
def Link.nacked (uid : Nat) (x : Link) : Link :=
  (x.lit false).foldl (fun x i => if Config.freeChoice (uid + i) % 2 == 1 then x.retrain i true else x) x

theorem Link.nacked_keeps {γ : Type} {p : Link → γ} (hp : ∀ (x : Link) (i : Nat), p (x.retrain i true) = p x) (uid : Nat) (x : Link) :
    p (x.nacked uid) = p x := by
  refine foldl_keeps (p := p) (fun y i => ?_) _ _
  split
  · exact hp y i
  · rfl

/-- Flits from a SEQ on are sent again. -/
def Link.resend (x : Link) (q : Nat) : Link := { x with ctl := x.ctl ++ fromSeq q x.replay }.go

theorem Link.resend_leaves {x : Link} {q : Nat} (hwait : x.waiting = []) (hctl : x.lit false ≠ [] → x.ctl = []) :
    (x.resend q).replay = x.replay ∧ ((x.resend q).width ≠ 0 → ∃ k, (x.resend q).out.drop k =
      (fromSeq q x.replay).map (fun f => ⟨(x.resend q).lit false, f.beats⟩)) := by
  have hlit : (x.resend q).lit false = x.lit false :=
    (Link.sent_go _).lit false |>.trans ((x.sent_ctl (x.ctl ++ fromSeq q x.replay)).lit false)
  refine ⟨(Link.go_calm (by exact hwait)).1, fun hwidth => ⟨x.out.length, ?_⟩⟩
  have hup : x.lit false ≠ [] := by
    intro h
    rw [Link.width, hlit, h] at hwidth
    exact hwidth rfl
  have hout := (Link.go_ctl (x := { x with ctl := x.ctl ++ fromSeq q x.replay }) hwait hup).2
  rw [hlit, Link.resend, hout, hctl hup, List.nil_append, List.drop_left]
  rfl

theorem execNackReceive_eq {s : State} {l : Nat} (h : ¬ (linkCount ≤ l ∨ (s.link l).maskIn.isEmpty = true)) (q : Nat) :
    execNackReceive l q s =
      .next { s.setLink l (((s.link l).countIn.change (Link.nacked s.uid)).resend q) with uid := s.uid + 8 } :=
  if_neg h

section
variable {s : State} {l : Nat} (hl : l < 128) (hup : (s.link l).maskIn ≠ [])
include hl hup

theorem linkDown_not : ¬ (linkCount ≤ l ∨ (s.link l).maskIn.isEmpty = true) := by
  rintro (h | h)
  · exact absurd h (Nat.not_le.2 hl)
  · exact hup (List.isEmpty_iff.1 h)

/-- A flit that passes its checks and is the next is accepted. -/
theorem dataFlit_accepted {q bad : Nat} (hq : q = (s.link l).seqIn) (hbad : bitsOf bad 0 8 = 0) :
    ∃ t, execDataFlitReceive l q true bad s = .next t ∧ (t.link l).seqIn = (q + 1) % 2 ^ 32 ∧
      (t.link l).flitsIn = ((s.link l).flitsIn + 1) % 2 ^ 64 := by
  obtain ⟨e, b, hcount⟩ := (s.link l).countIn_eq
  unfold execDataFlitReceive
  dsimp only
  rw [if_neg (linkDown_not hl hup), hbad, show (if true = true then 0 else 1) + 2 * 0 = 0 from rfl, failing_none, if_neg (by simp), hcount,
    if_neg (by simpa using hq)]
  refine ⟨_, rfl, ?_, ?_⟩
  · rw [(State.link_accept _ l).seqIn, State.link_setLink, (Link.sent_go _).seqIn, hq]
    rfl
  · rw [(State.link_accept _ l).flitsIn, State.link_setLink, (Link.sent_go _).flitsIn]
    rfl

/-- Another flit brings nothing. -/
theorem dataFlit_refused {q bad : Nat} {ok : Bool} (h : q ≠ (s.link l).seqIn ∨ ok = false ∨ bitsOf bad 0 8 ≠ 0) :
    ∃ t, execDataFlitReceive l q ok bad s = .next t ∧ (t.link l).seqIn = (s.link l).seqIn ∧
      (t.link l).flitsIn = (s.link l).flitsIn ∧ t.flights = s.flights := by
  have hcount := (s.link l).sent_countIn
  unfold execDataFlitReceive
  dsimp only
  rw [if_neg (linkDown_not hl hup)]
  generalize hm : (if ok = true then 0 else 1) + 2 * bitsOf bad 0 8 = m
  by_cases hnone : (failing (s.link l).maskIn m).isEmpty = true
  · have hzero : m = 0 := by
      by_contra hne
      have hlt := bitsOf_lt bad 0 8
      refine failing_some (s.link l).maskIn hne ?_ (List.isEmpty_iff.1 hnone)
      split at hm <;> omega
    have hq : q ≠ (s.link l).countIn.seqIn := by
      rw [hcount.seqIn]
      rcases h with h | h | h
      · exact h
      · simp [h, hzero] at hm
      · omega
    rw [if_neg (not_not.2 hnone), if_pos hq]
    exact ⟨_, rfl, by rw [State.link_setLink, hcount.seqIn], by rw [State.link_setLink, hcount.flitsIn], rfl⟩
  · obtain ⟨hseq, hin⟩ := Link.errors_order s.errt (failing (s.link l).maskIn m) (s.link l).countIn
    rw [if_pos hnone]
    refine ⟨_, rfl, ?_, ?_, rfl⟩
    · rw [State.link_setLink, (Link.sent_go _).seqIn]
      exact hseq.trans hcount.seqIn
    · rw [State.link_setLink, (Link.sent_go _).flitsIn]
      exact hin.trans hcount.flitsIn

variable (hwait : (s.link l).waiting = [])
include hwait

/-- An acknowledgement takes what it covers from the replay buffer. -/
theorem ack_takes {q : Nat} {f : Flit} {r : List Flit} (hfrom : fromSeq q (s.link l).replay = f :: r) :
    ∃ t, execAckReceive l q s = .next t ∧ (t.link l).replay = r := by
  obtain ⟨e, b, hcount⟩ := (s.link l).countIn_eq
  unfold execAckReceive
  dsimp only
  rw [if_neg (linkDown_not hl hup), hcount]
  dsimp only
  rw [hfrom]
  refine ⟨_, rfl, ?_⟩
  rw [State.link_setLink]
  exact (Link.go_calm (by exact hwait)).1

/-- A negative acknowledgement leaves the replay buffer and sends again what it holds from that flit on. -/
theorem nack_resends (q : Nat) : ∃ t, execNackReceive l q s = .next t ∧ (t.link l).replay = (s.link l).replay ∧
    ((t.link l).width ≠ 0 → ∃ k, (t.link l).out.drop k =
      (fromSeq q (s.link l).replay).map (fun f => ⟨(t.link l).lit false, f.beats⟩)) := by
  obtain ⟨e, b, hcount⟩ := (s.link l).countIn_eq
  have hw : ((s.link l).countIn.nacked s.uid).waiting = [] := by
    rw [Link.nacked_keeps (p := Link.waiting) (fun _ _ => rfl), hcount]
    exact hwait
  have hr : ((s.link l).countIn.nacked s.uid).replay = (s.link l).replay := by
    rw [Link.nacked_keeps (p := Link.replay) (fun _ _ => rfl), hcount]
  obtain ⟨hrep, hwait', hctl⟩ := Link.change_calm (x := (s.link l).countIn) (f := Link.nacked s.uid) hw
  rw [execNackReceive_eq (linkDown_not hl hup)]
  refine ⟨_, rfl, ?_⟩
  generalize (s.link l).countIn.change (Link.nacked s.uid) = z at hrep hwait' hctl
  obtain ⟨hz, hout⟩ := Link.resend_leaves (q := q) hwait' hctl
  have hlink : State.link { s.setLink l (z.resend q) with uid := s.uid + 8 } l = z.resend q := s.link_setLink l _
  rw [hlink, hz, hrep, hr]
  refine ⟨rfl, fun hwidth => ?_⟩
  rw [← hr, ← hrep]
  exact hout hwidth

end

theorem exec_lockReached {s : State} (l i : Nat) : exec (.lockReached l i) s = execLockReached l i s := by rfl

theorem exec_wakeTimeout {s : State} (l i : Nat) : exec (.wakeTimeout l i) s = execWakeTimeout l i s := by rfl

theorem exec_trainingPass {s : State} (l i : Nat) : exec (.trainingPass l i) s = execTrainingPass l i s := by rfl

theorem exec_retrainTimeout {s : State} (l i : Nat) : exec (.retrainTimeout l i) s = execRetrainTimeout l i s := by rfl

theorem exec_lossOfLight {s : State} (l i : Nat) : exec (.lossOfLight l i) s = execLossOfLight l i s := by rfl

theorem exec_errorWindowEnd {s : State} (l i : Nat) : exec (.errorWindowEnd l i) s = execErrorWindowEnd l i s := by rfl

theorem exec_dataFlitReceive {s : State} (l q : Nat) (ok : Bool) (bad : Nat) :
    exec (.dataFlitReceive l q ok bad) s = execDataFlitReceive l q ok bad s := by rfl

theorem exec_ackReceive {s : State} (l q : Nat) : exec (.ackReceive l q) s = execAckReceive l q s := by rfl

theorem exec_nackReceive {s : State} (l q : Nat) : exec (.nackReceive l q) s = execNackReceive l q s := by rfl

theorem exec_widthControlReceive {s : State} (l m : Nat) : exec (.widthControlReceive l m) s = execWidthControlReceive l m s := by rfl

/-- Settles O45: commands, readouts, the events of wavelengths, and what comes in on a fibre. -/
theorem linkControl : Obligations.LinkControl := by
  unfold Obligations.LinkControl
  refine ⟨?_, ?_⟩
  · intro s a b c imm hs w l i part st ok no
    rw [exec_lnkctlPark, exec_lnkctlLight, exec_lnkctlRetrain, exec_lnkstat]
    refine ⟨fun h => ?_, fun hsup hgrant h7 h11 h16 => ?_, fun h7 h11 => lnkstat_gives hs a b c imm h7 h11⟩
    · exact ⟨lnkctl_privilege hs .park 2 a b c h, lnkctl_privilege hs .light 3 a b c h, lnkctl_privilege hs .retrain 4 a b c h⟩
    · have hdoes (cmd : WlCmd) (op : Nat) := lnkctl_does hs cmd op a b c hsup hgrant h7 h11 h16
      have hrefused (cmd : WlCmd) (op : Nat) := lnkctl_refused hs cmd op a b c hsup hgrant h7 h11 h16
      exact ⟨hdoes .park 2, hdoes .light 3, hdoes .retrain 4, fun h15 hst => ⟨hrefused .park 2 hst h15, hrefused .retrain 4 hst h15⟩,
        fun h15 hst => hrefused .light 3 hst h15⟩
  · intro s l i hl hi st goes
    refine ⟨fun hst => ?_, fun hst => ?_, fun hst => ?_, fun hfull => ?_, fun hpart => ?_, fun hup => ⟨fun q ok bad => ?_, ?_, ?_, ?_⟩⟩
    · exact ⟨wlStep_takes hl hi hst fun x => x.st_setSt_self i _, wlStep_takes hl hi hst fun x => x.st_retrain_self i _⟩
    · refine ⟨wlStep_takes hl hi hst fun x => x.st_setSt_self i _, (s.wlFail l i).tell [4, l, i], ?_, State.link_wlFail (s := s)⟩
      exact (onLink_some hl hi _).trans (congrArg Host.Outcome.next (if_pos hst))
    · refine ⟨_, ?_, State.link_wlFail (s := s)⟩
      exact (onLink_some hl hi _).trans (congrArg Host.Outcome.next (if_pos hst))
    · rw [exec_errorWindowEnd, execErrorWindowEnd, onLink_some hl hi, windowBeats, if_pos hfull]
      refine ⟨_, rfl, ?_⟩
      rw [State.link_setLink, Link.endWindow]
      simp [mgetD]
    · rw [exec_errorWindowEnd, execErrorWindowEnd, onLink_some hl hi, windowBeats, if_neg (Nat.not_le.2 hpart)]
    · rw [exec_dataFlitReceive]
      refine ⟨fun hq hok hbad => ?_, dataFlit_refused hl hup⟩
      rw [hok]
      exact dataFlit_accepted hl hup hq hbad
    · intro q f r hfrom hwait
      rw [exec_ackReceive]
      exact ack_takes hl hup hwait hfrom
    · intro q hwait
      rw [exec_nackReceive]
      exact nack_resends hl hup hwait q
    · intro m k hk
      rw [exec_widthControlReceive, execWidthControlReceive_eq hl hup]
      obtain ⟨y, hy, hfold⟩ := Link.joins_st s.uid m (List.mem_range.2 hk) List.nodup_range (s.link l).countIn
      have hlink (z : Link) : State.link { s.setLink l z with uid := s.uid + 8 } l = z := s.link_setLink l z
      refine ⟨_, rfl, by rw [hlink], ?_⟩
      rw [hlink]
      have hst := hy.trans ((s.link l).sent_countIn.st (8 + k))
      have hleaves := Link.joinStep_leaves s.uid m k y
      rw [← hfold, hst] at hleaves
      exact hleaves

end Sys2Proof.Machine

/-! PROOFS. In-network reductions (24 R370 to R373): RNEW, REDX and RFREE, contributions and the timeout. -/

namespace Sys2Proof.Machine

@[simp] theorem State.reduction_setReduction (s : State) (r : Reduction) : (s.setReduction r).reduction r.handle = some r := by
  simp [State.reduction, State.setReduction]

theorem exec_lnkctlRnew {s : State} (a b c : BitVec 4) : exec (.lnkctlRnew a b c) s = execLnkctlRnew a b c s := by rfl

theorem exec_lnkctlRfree {s : State} (a b c : BitVec 4) : exec (.lnkctlRfree a b c) s = execLnkctlRfree a b c s := by rfl

theorem exec_redx {s : State} (a b c : BitVec 4) (imm : BitVec 6) : exec (.redx a b c imm) s = execRedx a b c imm s := by rfl

theorem exec_reductionContribution {s : State} (id : Nat) : exec (.reductionContribution id) s = execReductionContribution id s := by rfl

theorem exec_reductionTimeout {s : State} (h : Nat) : exec (.reductionTimeout h) s = execReductionTimeout h s := by rfl

/-! ## RNEW (24 R368, R370) -/

/-- A reduction that opens, with a handle of its own. -/
def State.newReduction (s : State) (d t : List Nat) (i : Nat) : Reduction :=
  { handle := s.devNum % 2 ^ 18 * 2 ^ 32 + ((Config.freeChoice 0 + s.uid) % (2 ^ 22 - 1) + 1) * 1024 + i
    part := s.partOf s.cx.group, group := s.cx.group, desc := d, state := .opened, merged := [],
    slots := t.map slotEntry, brv := false, ran := 0 }

/-- The state in which a reduction has been opened. -/
def State.opensReduction (s : State) (a : BitVec 4) (r : Reduction) : State :=
  { s.setReduction r with uid := s.uid + 1 }.setW a (toWord r.handle)

theorem State.newReduction_fields (s : State) (d t : List Nat) (i : Nat) :
    (s.newReduction d t i).desc = d ∧ (s.newReduction d t i).slots = t.map slotEntry ∧ (s.newReduction d t i).merged = [] ∧
      (s.newReduction d t i).ran = 0 ∧ (s.newReduction d t i).state = .opened ∧
      (s.newReduction d t i).part = s.partOf s.cx.group ∧ (s.newReduction d t i).group = s.cx.group :=
  ⟨rfl, rfl, rfl, rfl, rfl, rfl, rfl⟩

theorem State.opensReduction_leaves (s : State) (a : BitVec 4) (r : Reduction) (hrep : s.cx.rep = none) :
    (s.opensReduction a r).advance.w a = toWord r.handle ∧ (s.opensReduction a r).advance.reduction r.handle = some r ∧
      (s.opensReduction a r).advance.cx.pc = succPc s.cx.line s.cx.pc := by
  have hrep' : (s.opensReduction a r).cx.rep = none := hrep
  refine ⟨?_, ?_, State.advance_pc _ hrep'⟩
  · rw [State.advance_w _ hrep']
    exact State.w_setW_self ..
  · rw [State.advance_keeps (fun t => t.reduction r.handle) (fun _ _ => rfl) hrep']
    exact s.reduction_setReduction r

section
variable {s u₁ u₂ : State} (hs : s.calm = true) {a b c : BitVec 4} {d t : List Nat} {i : Nat}
variable (hal : (s.w b).toNat % 64 = 0) (hplain : plainAddr (s.w b).toNat) (hread : s.readsDws (s.w b).toNat 8 d u₁)
variable (hdesc : badDesc d = false) (hslots : d.getD 2 0 % 8 = 0) (huser : rngOf (d.getD 2 0) = .user)
variable (htable : u₁.readsDws (d.getD 2 0) (bitsOf (d.getD 0 0) 16 12) t u₂) (hzero : t.any (fun x => bitAt x 31) = false)
variable (hpick : pick (fun i => (mget u₂.reductions i).isNone) (upTo 1024) = some i)
include hs hal hplain hread hdesc hslots huser htable hzero hpick

theorem rnew_opens : execLnkctlRnew a b c s = done (u₂.opensReduction a (u₂.newReduction d t i)) := by
  rw [execLnkctlRnew, reading_calm s hs]
  dsimp only
  rw [if_neg (not_not.2 hal), loading_ok s hread]
  rw [if_neg (by
    rcases hplain with ⟨off, h⟩ | h <;>
      simp only [h, hdesc, hslots, huser, ne_eq, not_true, Bool.false_eq_true, or_self, not_false_eq_true]), loading_ok u₁ htable]
  rw [if_neg (by simp [hzero]), hpick]
  rfl

theorem rnew_leaves : ∃ u h r, execLnkctlRnew a b c s = .next u ∧ u.w a = toWord h ∧ u.reduction h = some r ∧ r.state = .opened ∧
    r.desc = d ∧ r.slots = t.map slotEntry ∧ r.merged = [] ∧ r.part = s.partOf s.cx.group ∧ r.group = s.cx.group ∧
    r.ran = 0 ∧ u.cx.pc = succPc s.cx.line s.cx.pc := by
  have hused₁ := State.readsAt.used hread
  have hused₂ := State.readsAt.used htable
  have hcx : u₂.cx = { s.cx with walkFault := [] } := by rw [hused₂.cx, hused₁.cx]
  have hgroups : u₂.groups = s.groups :=
    (hused₂.aside State.groups aside_groups fun _ _ => rfl).trans (hused₁.aside State.groups aside_groups fun _ _ => rfl)
  obtain ⟨hdesc', hslots', hmerged, hran, hstate, hpart, hgroup⟩ := u₂.newReduction_fields d t i
  rw [rnew_opens hs hal hplain hread hdesc hslots huser htable hzero hpick]
  generalize u₂.newReduction d t i = r at *
  obtain ⟨hw, hred, hpc⟩ := u₂.opensReduction_leaves a r (by rw [hcx]; exact s.calm_rep hs)
  refine ⟨_, r.handle, r, rfl, hw, hred, hstate, hdesc', hslots', hmerged, ?_, ?_, hran, ?_⟩
  · rw [hpart, hcx]
    exact State.partOf_congr hgroups s.cx.group
  · rw [hgroup, hcx]
    rfl
  · rw [hpc, hcx]

end

/-! ## The owner engine's judgement (24 R372) -/

section
variable {s : State} {h slot upto : Nat} {c : Contrib} {r : Reduction}

theorem State.redxCode_stale (hr : s.reduction h = none) : s.redxCode h slot upto c = 1 := by
  rw [State.redxCode, hr]

variable (hr : s.reduction h = some r)
include hr

theorem State.redxCode_closed (hstate : r.state ≠ .opened) : s.redxCode h slot upto c ≠ 0 := by
  rw [State.redxCode, hr]
  dsimp only
  split
  · decide
  · decide

variable (hpart : r.part = c.part)
include hpart

theorem State.redxCode_shut (hstate : r.state ≠ .opened) : s.redxCode h slot upto c = 2 := by
  rw [State.redxCode, hr]
  dsimp only
  rw [if_neg (not_not.2 hpart), if_pos hstate]

variable (hstate : r.state = .opened)
include hstate

theorem State.redxCode_slot (hslot : r.slots[slot]? ≠ some (c.group, c.dev, c.vc)) : s.redxCode h slot upto c = 3 := by
  rw [State.redxCode, hr]
  dsimp only
  rw [if_neg (not_not.2 hpart), if_neg (not_not.2 hstate), if_pos hslot]

theorem State.redxCode_own (hslot : r.slots[slot]? = some (c.group, c.dev, c.vc)) :
    s.redxCode h slot upto c = if s.contributed r slot upto then 4 else 0 := by
  rw [State.redxCode, hr]
  dsimp only
  rw [if_neg (not_not.2 hpart), if_neg (not_not.2 hstate), if_neg (not_not.2 hslot)]

end

/-! ## REDX (24 R372) -/

/-- The contribution that a REDX record describes. -/
def State.redxContrib (s : State) (p count size : Nat) : Contrib :=
  { data := (upTo count).map (fun i => s.rdS s.here (bitsOf (s.rdS s.here (p + 8) 8) 0 17 + size * i) size)
    group := s.cx.group, vc := s.cx.vcore, dst := bitsOf (s.rdS s.here (p + 8) 8) 32 17
    tag := bitsOf (s.rdS s.here (p + 24) 8) 0 32, cid := s.cur, accepted := false, part := s.partOf s.cx.group, dev := s.devNum }

/-- What REDX does with the owner engine's judgement. -/
def redxEnds (a : BitVec 4) (h slot : Nat) (k : Contrib) (s : State) : Nat → Out
  | 0 => done ((s.contribute h slot k).setW a 0)
  | q => refusal a q s

section
variable {s : State} (hs : s.calm = true) {a b c : BitVec 4} {imm : BitVec 6}
variable (hal : (s.w b).toNat % 32 = 0) (hlow : (s.w b).toNat < 0x20000)
variable (hbits : bitsOf (s.rdS s.here ((s.w b).toNat + 16) 8) 12 52 = 0)
variable (hsrc : bitsOf (s.rdS s.here ((s.w b).toNat + 8) 8) 0 17 % 8 = 0)
variable (hdst : bitsOf (s.rdS s.here ((s.w b).toNat + 8) 8) 32 17 % 8 = 0)
variable (howner : 2 ^ 50 ≤ s.rdS s.here (s.w b).toNat 8 ∨ s.rdS s.here (s.w b).toNat 8 / 2 ^ 32 = s.devNum)
variable {count size : Nat} (hshape : s.shape (s.rdS s.here (s.w b).toNat 8) false = (count, size))
variable (hfits : bitsOf (s.rdS s.here ((s.w b).toNat + 8) 8) 0 17 + count * size ≤ 0x20000)
variable (hfitd : bitsOf (s.rdS s.here ((s.w b).toNat + 8) 8) 32 17 + count * size ≤ 0x20000)
include hs hal hlow hbits hsrc hdst howner hshape hfits hfitd

/-- A legal record of a reduction of this device: its DST lies in the queue area, or the owner engine judges it. -/
theorem redx_judged : execRedx a b c imm s =
    match inArea s.mem.qbase (bitsOf (s.rdS s.here ((s.w b).toNat + 8) 8) 32 17) (count * size) with
    | some x => trap s xAccess (toWord x)
    | none =>
      let k := s.redxContrib (s.w b).toNat count size
      let h := s.rdS s.here (s.w b).toNat 8
      let slot := bitsOf (s.rdS s.here ((s.w b).toNat + 16) 8) 0 12
      redxEnds a h slot k s (s.redxCode h slot s.uid k) := by
  have haway : decide (s.rdS s.here (s.w b).toNat 8 < 2 ^ 50 ∧ s.rdS s.here (s.w b).toNat 8 / 2 ^ 32 ≠ s.devNum) = false := by
    refine decide_eq_false fun h => ?_
    rcases howner with ho | ho
    · exact absurd h.1 (Nat.not_lt.2 ho)
    · exact h.2 ho
  have hsound := s.calm_sound hs
  rw [execRedx, reading_calm s hs]
  dsimp only
  rw [if_neg (not_not.2 hal), if_neg (Nat.not_le.2 hlow), State.localHeld_calm hs, s.calm_drained hs, if_neg (by simp),
    s.badS_sound hsound]
  dsimp only
  rw [haway, hshape]
  dsimp only
  rw [if_neg (not_not.2 hbits), if_neg (not_not.2 hsrc), if_neg (not_not.2 hdst), if_neg (Nat.not_lt.2 hfits),
    if_neg (Nat.not_lt.2 hfitd)]
  cases hin : inArea s.mem.qbase (bitsOf (s.rdS s.here ((s.w b).toNat + 8) 8) 32 17) (count * size) with
  | some x => rfl
  | none =>
    rw [if_neg (by simp), s.badS_sound hsound, ite_self]
    dsimp only
    rw [State.localHeld_calm hs, s.calm_classS hs, if_neg (by simp), watched_unwatched s (s.calm_unwatched hs), s.softRead_sound hsound,
      s.softRead_sound hsound, ite_self, if_neg Bool.false_ne_true]
    rfl

end

theorem redxEnds_refuses (a : BitVec 4) (h slot : Nat) (k : Contrib) (s : State) {q : Nat} (hq : q ≠ 0) :
    redxEnds a h slot k s q = .next (s.setW a (toWord (2 ^ 63 + q))).advance := by
  match q, hq with
  | q + 1, _ => rfl

/-! ## RFREE (24 R368) -/

/-- What RFREE does with what the owner engine has done. -/
def rfreeEnds (a : BitVec 4) (s : State) : Option (State × Nat) → Out
  | none => stall s
  | some (t, 0) => done (t.setW a 0)
  | some (_, k) => refusal a k s

section
variable {s : State} (hs : s.calm = true) {a b c : BitVec 4}
include hs

theorem rfree_operand (hw : 2 ^ 50 ≤ (s.w b).toNat) : execLnkctlRfree a b c s = operandTrapOf s (encS 0x3E 3 a b c 1) := by
  have hbits : bitsOf (s.w b).toNat 50 14 ≠ 0 := by
    have := (s.w b).isLt
    unfold bitsOf
    omega
  rw [execLnkctlRfree, s.calm_call hs]
  dsimp only
  rw [reading_calm s hs, if_pos hbits]

variable (hw : (s.w b).toNat < 2 ^ 50)
include hw

theorem rfree_away (hdev : (s.w b).toNat / 2 ^ 32 ≠ s.devNum) : execLnkctlRfree a b c s =
    .next ((s.setCx { s.cx with call := some ⟨s.uid, [(0, none)], false, 0⟩ }).flyTo (s.devCode ((s.w b).toNat / 2 ^ 32))
      [13, (s.w b).toNat, s.partOf s.cx.group] (.rfree (s.w b).toNat (s.partOf s.cx.group) s.cx.group s.cur s.uid none)) := by
  have hbits : bitsOf (s.w b).toNat 50 14 = 0 := by
    unfold bitsOf
    omega
  rw [execLnkctlRfree, s.calm_call hs]
  dsimp only
  rw [reading_calm s hs, if_neg (not_not.2 hbits), if_pos hdev]

theorem rfree_here (hdev : (s.w b).toNat / 2 ^ 32 = s.devNum) : execLnkctlRfree a b c s =
    rfreeEnds a s ((s.noteBrv (some (2, (s.w b).toNat)) (s.w b)).rfreeAt (s.partOf s.cx.group) (s.w b).toNat) := by
  have hbits : bitsOf (s.w b).toNat 50 14 = 0 := by
    unfold bitsOf
    omega
  have hword : toWord (s.w b).toNat = s.w b := toWord_toNat _
  rw [execLnkctlRfree, s.calm_call hs]
  dsimp only
  rw [reading_calm s hs, if_neg (not_not.2 hbits), if_neg (not_not.2 hdev), hword]
  rfl

end

theorem State.reduction_noteBrv (s : State) (o : Option (Nat × Nat)) (x : Word) (h : Nat) : (s.noteBrv o x).reduction h = s.reduction h :=
  State.noteBrv_keeps (fun t => t.reduction h) (fun _ _ => rfl) s o x

section
variable {s : State} {part h : Nat} {r : Reduction}

theorem State.rfreeAt_stale (hr : s.reduction h = none) : s.rfreeAt part h = some (s, 1) := by
  rw [State.rfreeAt, hr]

variable (hr : s.reduction h = some r)
include hr

theorem State.rfreeAt_foreign (hpart : r.part ≠ part) : s.rfreeAt part h = some (s, 1) := by
  rw [State.rfreeAt, hr]
  exact if_pos hpart

variable (hpart : r.part = part)
include hpart

theorem State.rfreeAt_opened (hstate : r.state = .opened) (hcan : s.canDeliver r = true) : s.rfreeAt part h = some (s.abandon r, 0) := by
  rw [State.rfreeAt, hr]
  dsimp only
  rw [if_neg (not_not.2 hpart), if_pos hstate, if_pos hcan]

theorem State.rfreeAt_ended (hstate : r.state ≠ .opened) : s.rfreeAt part h = some (s.freeReduction r, 0) := by
  rw [State.rfreeAt, hr]
  dsimp only
  rw [if_neg (not_not.2 hpart), if_neg hstate]

end

/-! ## Contributions (24 R372, R373) -/

/-- A reduction with a contribution merged. -/
def Reduction.merge (r : Reduction) (slot : Nat) (k : Contrib) : Reduction :=
  { r with merged := mput r.merged slot { k with data := k.data.take r.count } }

section
variable {s : State} {id h slot : Nat} {k : Contrib} (hf : s.flight id = some (.contrib h slot k)) (hdev : h / 2 ^ 32 = s.devNum)
include hf hdev

theorem contribution_refused (hcode : s.redxCode h slot id k ≠ 0) :
    execReductionContribution id s = .next ((s.land id).redAnswer k (s.redxCode h slot id k)) := by
  rw [execReductionContribution, hf]
  dsimp only
  rw [if_neg (not_not.2 hdev)]
  generalize s.redxCode h slot id k = q at hcode
  match q, hcode with
  | q + 1, _ => rfl

variable {r : Reduction} (hr : s.reduction h = some r) (hcode : s.redxCode h slot id k = 0)
include hr hcode

theorem contribution_judged : execReductionContribution id s =
    if (r.merge slot k).merged.length < r.n then .next (((s.land id).redAnswer k 0).setReduction (r.merge slot k))
    else if ¬ s.canDeliver (r.merge slot k) then .next s
    else .next (((s.land id).redAnswer k 0).finishReduction (r.merge slot k)) := by
  rw [execReductionContribution, hf]
  dsimp only
  rw [if_neg (not_not.2 hdev), hcode, hr]
  rfl

end

/-! ## The timeout (24 R373) -/

section
variable {s : State} {h : Nat} {r : Reduction} (hr : s.reduction h = some r)
include hr

theorem timeout_ended (hstate : r.state ≠ .opened) : execReductionTimeout h s = .next s := by
  rw [execReductionTimeout, hr]
  exact if_pos hstate

variable (hstate : r.state = .opened)
include hstate

theorem timeout_passes (hlate : ¬ (r.merged ≠ [] ∧ r.rtmo ≠ 0 ∧ r.rtmo ≤ r.ran)) (hfail : s.deviceFailed r = false) :
    execReductionTimeout h s = .next (s.passFar r) := by
  rw [execReductionTimeout, hr]
  dsimp only
  rw [if_neg (not_not.2 hstate), if_pos]
  rintro (h | h)
  · exact hlate (of_decide_eq_true h)
  · rw [hfail] at h
    cases h

theorem timeout_abandons (hdue : (r.merged ≠ [] ∧ r.rtmo ≠ 0 ∧ r.rtmo ≤ r.ran) ∨ s.deviceFailed r = true) (hcan : s.canDeliver r = true) :
    execReductionTimeout h s = .next (s.abandon r) := by
  rw [execReductionTimeout, hr]
  dsimp only
  rw [if_neg (not_not.2 hstate), if_neg (not_not.2 (hdue.imp_left decide_eq_true)), if_neg (not_not.2 hcan)]

end

theorem State.calm_contributed {s : State} (hs : s.calm = true) (r : Reduction) (slot upto : Nat) :
    s.contributed r slot upto = (mget r.merged slot).isSome := by
  obtain ⟨-, -, hf, -⟩ := s.calm_parts hs
  simp [State.contributed, hf]

/-- Settles O46: RNEW opens; REDX and a contribution follow the owner engine's judgement; RFREE and the timeout end a reduction. -/
theorem reductionResult : Obligations.ReductionResult := by
  unfold Obligations.ReductionResult
  intro s a b c imm hs own w code
  rw [exec_lnkctlRnew, exec_lnkctlRfree, exec_redx]
  refine ⟨fun u₁ u₂ d t i hal hplain hread hdesc hslots huser htable hzero hpick =>
    rnew_leaves hs hal hplain hread hdesc hslots huser htable hzero hpick, ?_, rfree_operand hs, ?_, ?_, ?_, ?_⟩
  · intro h src dst slot hal hlow hbits hsrc hdst howner
    refine ⟨fun hnone harea => ?_, fun r hr hfits hfitd => ?_⟩
    · have hshape : s.shape h false = (0, 8) := by rw [State.shape, hnone]; rfl
      have hlt (n : Nat) : bitsOf (s.rdS s.here (w + 8) 8) n 17 + 0 * 8 ≤ 0x20000 := Nat.le_of_lt (bitsOf_lt _ _ 17)
      rw [redx_judged hs hal hlow hbits hsrc hdst howner hshape (hlt 0) (hlt 32), harea]
      dsimp only
      rw [State.redxCode_stale hnone, redxEnds_refuses _ _ _ _ _ Nat.one_ne_zero]
    · have hshape : s.shape h false = (r.count, opBytes r.op) := by rw [State.shape, hr]
      rw [redx_judged hs hal hlow hbits hsrc hdst howner hshape hfits hfitd]
      refine ⟨fun x hx => by rw [hx]; rfl, fun harea hpart => ?_⟩
      rw [harea]
      dsimp only
      let k := s.redxContrib w r.count (opBytes r.op)
      have hpart' : r.part = k.part := hpart
      refine ⟨fun hstate => ?_, fun hstate hslot => ?_, fun hstate hslot => ⟨fun hmerged => ?_, fun hmerged => ?_⟩⟩
      · rw [State.redxCode_shut hr hpart' hstate, redxEnds_refuses _ _ _ _ _ (by decide)]
      · rw [State.redxCode_slot hr hpart' hstate hslot, redxEnds_refuses _ _ _ _ _ (by decide)]
      · rw [State.redxCode_own hr hpart' hstate hslot, State.calm_contributed hs, hmerged, if_pos rfl,
          redxEnds_refuses _ _ _ _ _ (by decide)]
      · rw [State.redxCode_own hr hpart' hstate hslot, State.calm_contributed hs, Option.isNone_iff_eq_none.1 hmerged]
        rfl
  · intro hw hdev
    rw [rfree_here hs hw hdev]
    refine ⟨fun hnone => ?_, fun r hr => ⟨fun hpart => ?_, fun hpart => ?_⟩⟩
    · rw [State.rfreeAt_stale ((State.reduction_noteBrv ..).trans hnone)]
      rfl
    · rw [State.rfreeAt_foreign ((State.reduction_noteBrv ..).trans hr) hpart]
      rfl
    · intro u
      have hword : toWord w = s.w b := toWord_toNat _
      have hu : u.reduction w = some r := (State.reduction_noteBrv ..).trans hr
      have hnote : s.noteBrv (some (2, w)) (s.w b) = u := congrArg (s.noteBrv (some (2, w))) hword.symm
      rw [hnote]
      refine ⟨fun hstate hcan => ?_, fun hstate => ?_⟩
      · rw [State.rfreeAt_opened hu hpart hstate hcan]
        rfl
      · rw [State.rfreeAt_ended hu hpart hstate]
        rfl
  · intro hw hdev _
    have hcx (t : State) (code : Nat) (ws : List Nat) (x : Cargo) : (t.flyTo code ws x).cx = t.cx := by
      cases code <;> rfl
    rw [rfree_away hs hw hdev]
    exact ⟨_, rfl, by rw [hcx, State.cx_setCx], by rw [hcx, State.cx_setCx]⟩
  · intro u id h slot k hf hdev
    rw [exec_reductionContribution]
    refine ⟨contribution_refused hf hdev, fun r hr => ⟨fun hstate hfar => ?_, fun hcode => ?_⟩⟩
    · rw [contribution_refused hf hdev (State.redxCode_closed hr hstate), State.redAnswer, if_pos hfar]
    · intro q
      rw [contribution_judged hf hdev hr hcode]
      refine ⟨fun hmore => if_pos hmore, fun hall hcan => ?_⟩
      exact (if_neg (Nat.not_lt.2 hall)).trans (if_neg (not_not.2 hcan))
  · intro h r hr
    rw [exec_reductionTimeout]
    refine ⟨fun hstate hm hz hran hcan => timeout_abandons hr hstate (.inl ⟨hm, hz, hran⟩) hcan,
      fun hstate hfail hcan => timeout_abandons hr hstate (.inr hfail) hcan,
      fun hearly hfail => ⟨fun hstate => timeout_passes hr hstate ?_ hfail, timeout_ended hr⟩⟩
    rintro ⟨hm, hz, hran⟩
    rcases hearly with h | h | h
    · exact hz h
    · exact absurd hran (Nat.not_le.2 h)
    · exact hm h

end Sys2Proof.Machine

/-! PROOFS. Pipelines (25 R374 to R382): PBIND, PUNBIND and PSTAT, relays and sources. -/

namespace Sys2Proof.Machine

theorem exec_pbind {s : State} (a b c : BitVec 4) (imm : BitVec 6) : exec (.pbind a b c imm) s = execPbind a b c imm s := by rfl

theorem exec_punbind {s : State} (a b c : BitVec 4) (imm : BitVec 6) : exec (.punbind a b c imm) s = execPunbind a b c imm s := by rfl

theorem exec_pstat {s : State} (a b c : BitVec 4) (imm : BitVec 6) : exec (.pstat a b c imm) s = execPstat a b c imm s := by rfl

theorem exec_relayForward {s : State} (h i : Nat) : exec (.relayForward h i) s = execRelayForward h i s := by rfl

theorem exec_sourceItem {s : State} (h : Nat) (item : List Byte) : exec (.sourceItem h item) s = execSourceItem h item s := by rfl

/-! ## The pipeline table -/

@[simp] theorem State.pipe_setPipe (s : State) (p : Pipeline) : (s.setPipe p).pipe p.handle = some p := by
  simp [State.pipe, State.setPipe]

section
variable {α : Type} {p : State → α} (hp : ∀ (t : State) (x : Map Pipeline), p { t with pipelines := x } = p t)
include hp

theorem State.updPipe_keeps (s : State) (h : Nat) (f : Pipeline → Pipeline) : p (s.updPipe h f) = p s := by
  unfold State.updPipe
  split
  · exact hp _ _
  · rfl

theorem State.updStage_keeps (s : State) (h i : Nat) (f : Stage → Stage) : p (s.updStage h i f) = p s := State.updPipe_keeps hp s h _

theorem State.countSinks_keeps (s : State) (g : Stage) (i : Nat) (there : List (Nat × Nat × Nat)) (n : Nat) :
    p (s.countSinks g i there n) = p s :=
  foldl_keeps (fun t h => State.updPipe_keeps hp t h _) _ s

end

/-! ## PBIND (25 R378, R381) -/

/-- A new pipeline shares its first stages with another. -/
def State.shareStages (s : State) (p : Pipeline) : State :=
  match s.bestPrefix p with
  | none => s
  | some (q, n) => (upTo n).foldl (fun s i =>
    match s.holderPipe q.handle i with
    | some x => s.updStage x.handle i (fun g => { g with attached := g.attached ++ [p.handle] })
    | none => s) s

/-- The stages that a pipeline does not share are its group's holdings. -/
def State.holdStages (s : State) (p : Pipeline) (n len : Nat) : State :=
  (upTo len).foldl (fun s i => if i < n then s else (s.register p.group 5 0 (3, p.handle * 256 + i)).1) s

/-- How many stages a new pipeline shares. -/
def State.shared (s : State) (p : Pipeline) : Nat := ((s.bestPrefix p).map (fun b => b.2)).getD 0

theorem State.attach_eq (s : State) (p : Pipeline) :
    (s.attach p).1 = (((s.shareStages p).setPipe (s.attach p).2).holdStages (s.attach p).2 (s.shared p) (s.attach p).2.stages.length) := rfl

theorem State.attach_pipe (s : State) (p : Pipeline) : (s.attach p).2.handle = p.handle ∧ (s.attach p).2.group = p.group ∧
    (s.attach p).2.stages.length = p.stages.length := by
  refine ⟨rfl, rfl, ?_⟩
  unfold State.attach
  dsimp only
  rw [List.length_map, List.length_zip, upTo, List.length_range, Nat.min_self]

section
variable {α : Type} {f : State → α} (hest : ∀ (t : State) (e : Map Holding), f { t with estate := e } = f t)
include hest

theorem State.holdStages_keeps (s : State) (p : Pipeline) (n len : Nat) : f (s.holdStages p n len) = f s := by
  refine foldl_keeps (p := f) (fun t i => ?_) _ _
  split
  · rfl
  · exact State.register_keeps f hest t _ _ _ _

theorem State.attach_keeps (hpipe : ∀ (t : State) (x : Map Pipeline), f { t with pipelines := x } = f t) (s : State) (p : Pipeline) :
    f (s.attach p).1 = f s := by
  have hshare : f (s.shareStages p) = f s := by
    unfold State.shareStages
    split
    · rfl
    · refine foldl_keeps (p := f) (fun t i => ?_) _ _
      split
      · exact State.updStage_keeps hpipe t _ _ _
      · rfl
  rw [s.attach_eq, State.holdStages_keeps hest]
  exact (hpipe _ _).trans hshare

end

/-- The new pipeline is in the table. -/
theorem State.attach_holds (s : State) (p : Pipeline) : (s.attach p).1.pipe (s.attach p).2.handle = some (s.attach p).2 := by
  rw [s.attach_eq, State.holdStages_keeps (f := fun t => t.pipe (s.attach p).2.handle) (fun _ _ => rfl)]
  exact State.pipe_setPipe _ _

/-- The pipeline that a descriptor and its stage records describe. -/
def State.newPipe (s : State) (d recs : List Nat) (i : Nat) : Pipeline :=
  { handle := ((Config.freeChoice 0 + s.uid) % (2 ^ 22 - 1) + 1) * 1024 + i, seq := s.uid, part := s.partOf s.cx.group,
    group := s.cx.group, srck := bitsOf (d.getD 0 0) 4 2, srcid := d.getD 1 0, sring := bitsOf (d.getD 2 0) 16 4,
    svc := bitsOf (d.getD 2 0) 0 13,
    stages := (upTo (bitsOf (d.getD 0 0) 0 4)).map (fun i => (⟨(recs.drop (8 * i)).take 8, [], 0, [], false, [], []⟩ : Stage)),
    srcNext := 0, srcWait := none, join := 0, delivered := 0, repeated := 0 }

theorem State.newPipe_group (s : State) (d recs : List Nat) (i : Nat) : (s.newPipe d recs i).group = s.cx.group := by
  rw [State.newPipe]

theorem State.newPipe_stages (s : State) (d recs : List Nat) (i : Nat) :
    (s.newPipe d recs i).stages.length = bitsOf (d.getD 0 0) 0 4 := by
  unfold State.newPipe
  dsimp only
  rw [List.length_map, upTo, List.length_range]

/-- A handle's identifier is used, and a word goes to its register. -/
def State.handsOut (s : State) (a : BitVec 4) (v : Word) : State := { s with uid := s.uid + 1 }.setW a v

theorem State.handsOut_leaves (s : State) (a : BitVec 4) (v : Word) (hrep : s.cx.rep = none) :
    (∀ h, (s.handsOut a v).advance.pipe h = s.pipe h) ∧ (s.handsOut a v).advance.w a = v ∧
      (s.handsOut a v).advance.cx.pc = succPc s.cx.line s.cx.pc := by
  have hrep' : (s.handsOut a v).cx.rep = none := hrep
  refine ⟨fun h => ?_, ?_, State.advance_pc _ hrep'⟩
  · rw [State.advance_keeps (fun t => t.pipe h) (fun _ _ => rfl) hrep']
    rfl
  · rw [State.advance_w _ hrep']
    exact State.w_setW_self ..

/-- The state in which a pipeline is bound. -/
def State.bindsPipe (s : State) (a : BitVec 4) (p : Pipeline) : State :=
  (s.attach p).1.handsOut a (toWord ((s.attach p).2.handle * 2 ^ 32 + (s.attach p).2.join % 2 ^ 32))

theorem State.bindsPipe_leaves (s : State) (a : BitVec 4) (p : Pipeline) (hrep : s.cx.rep = none) :
    (s.bindsPipe a p).advance.pipe (s.attach p).2.handle = some (s.attach p).2 ∧
      (s.bindsPipe a p).advance.w a = toWord ((s.attach p).2.handle * 2 ^ 32 + (s.attach p).2.join % 2 ^ 32) ∧
      (s.bindsPipe a p).advance.cx.pc = succPc s.cx.line s.cx.pc := by
  have hcx : (s.attach p).1.cx = s.cx := s.attach_keeps (f := State.cx) (fun _ _ => rfl) (fun _ _ => rfl) p
  have hholds := s.attach_holds p
  unfold State.bindsPipe
  generalize s.attach p = r at *
  obtain ⟨hpipe, hw, hpc⟩ := r.1.handsOut_leaves a (toWord (r.2.handle * 2 ^ 32 + r.2.join % 2 ^ 32)) (by rw [hcx]; exact hrep)
  exact ⟨(hpipe _).trans hholds, hw, by rw [hpc, hcx]⟩

section
variable {s u : State} {a : BitVec 4} {d recs : List Nat}

/-- PBIND of a legal descriptor, all of it read. -/
theorem pbindWith_binds (hclass : s.classL s.cur = 0) (hn : 1 ≤ bitsOf (d.getD 0 0) 0 4) (hn8 : bitsOf (d.getD 0 0) 0 4 ≤ 8)
    (hhead : badHead d = false) (hsrc : bitsOf (d.getD 0 0) 4 2 = 1 ∨ bitsOf (d.getD 0 0) 4 2 = 2)
    (hsvc : bitsOf (d.getD 2 0) 0 13 < s.nMembers s.cx.group)
    (hstages : ((upTo (bitsOf (d.getD 0 0) 0 4)).map (fun i => (⟨(recs.drop (8 * i)).take 8, [], 0, [], false, [], []⟩ : Stage))).any
      (fun x => s.badStage s.cx.group x) = false)
    (hfree : (pick (fun i => (mget s.pipelines i).isNone) (upTo 1024)).isSome = true)
    (hstream : (mget s.parts (s.partOf s.cx.group)).map (fun x => (mget x.streams (d.getD 1 0)).isSome) = some true)
    (hshare : (s.holdings s.cx.group).length + bitsOf (d.getD 0 0) 0 4 ≤ 65536)
    (htable : s.estate.length + bitsOf (d.getD 0 0) 0 4 ≤ 1048576) :
    ∃ i, pbindWith a d recs s = done (s.bindsPipe a (s.newPipe d recs i)) := by
  obtain ⟨i, hi⟩ := Option.isSome_iff_exists.1 hfree
  refine ⟨i, ?_⟩
  unfold pbindWith
  dsimp only
  rw [hi, hclass, if_neg (by decide), if_neg (by
    rintro (h | h | h | h | h | h)
    · omega
    · omega
    · rw [hhead] at h
      cases h
    · exact hsrc.elim h.1 h.2
    · exact absurd h (Nat.not_le.2 hsvc)
    · rw [hstages] at h
      cases h), if_neg (by simp), if_neg (by rw [hstream]; simp), if_neg (by omega)]
  rfl

/-- PBIND with its descriptor and stage records read. -/
theorem pbind_reads {b c : BitVec 4} {imm : BitVec 6} {u₁ : State} (hs : s.calm = true) (hal : (s.w b).toNat % 64 = 0)
    (hplain : plainAddr (s.w b).toNat) (hread : s.readsDws (s.w b).toNat 8 d u₁) (hn : 1 ≤ bitsOf (d.getD 0 0) 0 4)
    (hrecs : u₁.readsDws ((s.w b).toNat + 64) (8 * bitsOf (d.getD 0 0) 0 4) recs u) :
    execPbind a b c imm s = pbindWith a d recs u := by
  rw [execPbind, reading_calm s hs]
  dsimp only
  rw [if_neg (not_not.2 hal), loading_ok s hread]
  rw [if_neg (by rcases hplain with ⟨off, h⟩ | h <;> simp only [h, not_true, not_false_eq_true]), if_neg (by omega),
    loading_ok u₁ hrecs]

end

/-! ## Handing copies on (25 R376, R377) -/

theorem State.member_setGrp {s : State} {k h v : Nat} {g g' : Group} (hg : s.grp k = some g) (hh : g'.handle = g.handle)
    (hm : g'.members = g.members) : (s.setGrp g').member h v = s.member h v := by
  have hk : g.handle = k := s.grp_handle hg
  have hg' : s.grp g.handle = some g := by rw [hk]; exact hg
  rw [State.member, State.member]
  by_cases hsame : h = g.handle
  · rw [hsame, ← hh, State.grp_setGrp_self, hh, hg']
    dsimp only
    rw [hm]
  · rw [State.grp_setGrp_ne hg' hh hsame]

theorem State.groups_freeze (s : State) (h v cause entry tval tpc vcore : Nat) :
    (s.freeze h v cause entry tval tpc vcore).groups = s.groups := by
  unfold State.freeze
  exact ite_keeps (p := State.groups) rfl (ite_keeps (p := State.groups) (aside_groups.niRead _ _ _ _) (aside_groups.niRead _ _ _ _))

theorem State.groups_lostPush (s : State) (h v entry tval tpc vcore : Nat) :
    (s.lostPush h v entry tval tpc vcore).groups = s.groups := by
  unfold State.lostPush
  exact ite_keeps (p := State.groups) (s.groups_freeze _ _ _ _ _ _ _) (aside_groups.bbox _ _ _ _ _ _ _)

theorem State.groups_pushAt {s t : State} {h v l entry : Nat} (ht : s.pushAt h v l entry = some t) : t.groups = s.groups := by
  unfold State.pushAt at ht
  dsimp only at ht
  split at ht
  · cases ht
  · rw [← Option.some.inj ht]
    exact aside_groups.niRead _ _ _ _

/-- A deposit leaves every group as it was. -/
theorem State.groups_deposit (s : State) (h v d f : Nat) (m : Msg) : (s.deposit h v d f m).groups = s.groups := by
  unfold State.deposit
  dsimp only
  generalize hb : State.logRx _ _ _ _ _ _ = b
  have hbase : b.groups = s.groups := by
    rw [← hb, aside_groups.logRx, aside_groups.noteDeposit]
    refine (State.engineBytes_keeps (p := State.groups) (fun t bs => ?_) (fun _ _ => rfl) (fun _ _ => rfl) _ _).trans ?_
    · unfold State.wrBytesS
      exact ite_keeps (p := State.groups) rfl rfl
    · rw [aside_groups.niRead, aside_groups.niRead]
  split
  · split
    next t ht => exact (State.groups_pushAt ht).trans hbase
    next => exact (State.groups_lostPush _ _ _ _ _ _ _).trans hbase
  · exact hbase

theorem State.groups_countRefusal (s : State) (m : Msg) : (s.countRefusal m).groups = s.groups := by
  unfold State.countRefusal
  dsimp only
  split
  · refine ite_keeps (p := State.groups) ?_ rfl
    refine (aside_groups.niRead _ _ _ _).trans ?_
    rw [aside_groups.niRead, aside_groups.niRead]
  · rfl

theorem State.groups_countBounce (s : State) (m : Msg) : (s.countBounce m).groups = s.groups := by
  unfold State.countBounce
  dsimp only
  split
  · exact ite_keeps (p := State.groups) (aside_groups.niRead _ _ _ _) rfl
  · rfl

theorem State.groups_toSupervisor (s : State) (part cause : Nat) (m : Msg) : (s.toSupervisor part cause m).groups = s.groups := by
  unfold State.toSupervisor
  refine (aside_groups.supRec _ _ _).trans ?_
  split
  · rfl
  · rfl

/-- Handing a copy on leaves every member as it was. -/
theorem State.member_handNow (n : Nat) (s : State) (m : Msg) (h v : Nat) : ((s.handNow m n).state).member h v = s.member h v := by
  have hgroups {t : State} (ht : t.groups = s.groups) : t.member h v = s.member h v := by
    rw [State.member, State.member, State.grp, State.grp, ht]
  induction n generalizing m with
  | zero => rfl
  | succ n ih =>
    unfold State.handNow
    split
    next => exact hgroups (s.groups_deposit _ _ _ _ _)
    next => exact hgroups (s.groups_toSupervisor _ _ _)
    next =>
      split
      next hg => exact State.member_setGrp hg rfl rfl
      next => rfl
    next =>
      split
      next hg => exact State.member_setGrp hg rfl rfl
      next => rfl
    next => exact hgroups (s.groups_countRefusal _)
    next => rfl
    next => exact ih _
    next =>
      exact hgroups ((State.sendTo_keeps State.groups (fun _ _ => rfl) _ _ _ _).trans (s.groups_countBounce _))

theorem State.member_handAll (s : State) (mk : Nat × Nat × Nat → Msg) (rs : List (Nat × Nat × Nat)) (h v : Nat) :
    ((s.handAll mk rs).1).member h v = s.member h v := by
  refine foldl_keeps (p := fun x : State × List (Nat × Nat × Nat) × List (Nat × Nat × Nat) => x.1.member h v) (fun x r => ?_) rs (s, [], [])
  unfold State.hand
  split
  · rfl
  · exact State.member_handNow _ _ _ _ _

/-! ## Relays and sources (25 R376) -/

/-- Every successor has the oldest slot of a relay: its ring's HEAD moves by one. -/
theorem State.relayDone_head {s : State} {p : Pipeline} {h i d f : Nat} {g : Stage} (hout : g.outWait = [])
    (hring : (s.member p.group g.vc).ring g.outRing = some (d, f)) :
    (s.relayDone p h i g).ringHead (s.member p.group g.vc).pcore d = (s.ringHead (s.member p.group g.vc).pcore d + 1) % 2 ^ 32 := by
  have hcore (c : Nat) := aside_rdS (s.member p.group g.vc).pcore (d + 8) c
  unfold State.relayDone
  dsimp only
  rw [hout, hring]
  dsimp only
  refine (State.updStage_keeps (p := fun t => t.ringHead (s.member p.group g.vc).pcore d) (fun _ _ => rfl) _ _ _ _).trans ?_
  refine (State.noteGiven_keeps (fun t => t.rdS (s.member p.group g.vc).pcore (d + 8) 4) (hcore 4).setCore (hcore 4).parts _ _ _).trans ?_
  rw [State.bumpQ, State.wrQ4, State.rdS_wrS_self, (hcore 4).niRead, (hcore 4).niRead]
  rfl

section
variable {s t : State} {h i d f : Nat} {p : Pipeline} {got there : List (Nat × Nat × Nat)} (hpipe : s.pipe h = some p)
include hpipe

/-- The oldest slot of a relay's ring, taken by every successor. -/
theorem relay_forwards (hring : (s.member p.group (p.stage i).vc).ring (p.stage i).outRing = some (d, f))
    (hattached : (p.stage i).attached ≠ []) (hended : (p.stage i).ended = false) (hpst : (s.member p.group (p.stage i).vc).pst = 0)
    (hbound : s.bound (s.member p.group (p.stage i).vc) (p.stage i).outRing = true)
    (hcount : s.ringCount (s.member p.group (p.stage i).vc).pcore d ≠ 0) (hsent : (p.stage i).sent = []) (hin : (p.stage i).inWait = [])
    (hout : (p.stage i).outWait = []) (hlives : (s.grp p.group).any ended = false)
    (hhand : s.handAll (fun r => (s.slotAt (s.member p.group (p.stage i).vc).pcore f
      (s.ringHead (s.member p.group (p.stage i).vc).pcore d) 0 0 0).copyTo h i r) (s.successors (p.stage i) i) = (t, got, there))
    (hall : (s.successors (p.stage i) i).all (fun r => got.contains r) = true) :
    execRelayForward h i s = .next ((t.countSinks (p.stage i) i there 1).relayDone p h i (p.stage i)) := by
  have hlast : ¬ p.stages.length ≤ i := by
    intro hle
    refine hattached ?_
    rw [Pipeline.stage, List.getD_eq_default _ _ hle]
    rfl
  have hitem : s.relayItem p (p.stage i) = some (s.slotAt (s.member p.group (p.stage i).vc).pcore f
      (s.ringHead (s.member p.group (p.stage i).vc).pcore d) 0 0 0) := by
    unfold State.relayItem
    dsimp only
    rw [hout]
    dsimp only
    rw [hring]
    dsimp only
    rw [hpst, hbound, if_neg (by simp [hcount])]
  have hinput : s.relayInput p h i (p.stage i) = s := by
    unfold State.relayInput
    rw [hin]
  unfold execRelayForward
  rw [hpipe]
  dsimp only
  rw [if_neg hlast, if_neg (by simp [hattached, hended, hlives]), hinput, hitem]
  dsimp only
  have hfilter : (s.successors (p.stage i) i).filter (fun r => !(p.stage i).sent.contains r) = s.successors (p.stage i) i := by
    rw [hsent]
    exact List.filter_eq_self.2 fun _ _ => rfl
  rw [hfilter, hhand, hsent]
  exact if_pos hall

/-- A stage number past the last names the source, whose item goes on to the first stages that lack it. -/
theorem relay_source {x : List Byte × List (Nat × Nat × Nat)} (hi : p.stages.length ≤ i) (hwait : p.srcWait = some x) :
    execRelayForward h i s = .next (s.sourceForward p x.1 x.2) := by
  unfold execRelayForward
  rw [hpipe]
  dsimp only
  rw [if_pos hi, hwait]

theorem sourceItem_held (item : List Byte) (hno : s.sourceUp p = false ∨ p.srcWait ≠ none) : execSourceItem h item s = .next s := by
  unfold execSourceItem
  rw [hpipe]
  refine congrArg Host.Outcome.next (if_neg ?_)
  rintro ⟨hup, hwait⟩
  rcases hno with hno | hno
  · rw [hup] at hno
    cases hno
  · exact hno (Option.isNone_iff_eq_none.1 hwait)

theorem sourceItem_forwards (item : List Byte) (hup : s.sourceUp p = true) (hwait : p.srcWait = none)
    (hhand : s.handAll (fun r => slotMsg r.1 r.2.1 r.2.2 (dwOf item 0) (dwOf item 1) (dwOf item 2) (dwOf item 3)
      ((item.drop 32).take 224)) (s.firstStages p) = (t, got, there)) :
    execSourceItem h item s = .next ((s.sharers p).foldl (fun v q => v.updPipe q.handle (fun x =>
      { x with
        srcWait := if (s.firstStages p).all (fun r => got.contains r) then none else some (item, got)
        srcNext := if (s.firstStages p).all (fun r => got.contains r) then (x.srcNext + 1) % 2 ^ 32 else x.srcNext })) t) := by
  have hfilter : (s.firstStages p).filter (fun r => !([] : List (Nat × Nat × Nat)).contains r) = s.firstStages p :=
    List.filter_eq_self.2 fun _ _ => rfl
  unfold execSourceItem
  rw [hpipe]
  dsimp only
  rw [if_pos ⟨hup, by rw [hwait]; rfl⟩]
  unfold State.sourceForward
  dsimp only
  rw [hfilter, hhand]
  rfl

end

/-! ## PUNBIND and PSTAT (25 R381, R382) -/

section
variable {s : State} (hs : s.calm = true) {a b c : BitVec 4} {imm : BitVec 6}
include hs

theorem punbind_stale (hpipe : s.pipe ((s.w b).toNat % 2 ^ 32) = none) :
    execPunbind a b c imm s = .next (s.setW a (toWord (2 ^ 63 + 1))).advance := by
  rw [execPunbind, reading_calm s hs, s.calm_classL hs, if_neg (by decide), hpipe]
  rfl

theorem pstat_stale (hpipe : s.pipe ((s.w b).toNat % 2 ^ 32) = none) :
    execPstat a b c imm s = .next (s.setW a (toWord (if bitsOf imm.toNat 0 2 ≠ 0 ∨ s.gran (s.partOf s.cx.group) 0 = 0 then 0 else
      if s.gran (s.partOf s.cx.group) 0 = 1 then 1 else 2 ^ 63))).advance := by
  have hshown (hone : s.gran (s.partOf s.cx.group) 0 = 1) : s.shown (s.partOf s.cx.group) (2 ^ 63) = 1 := by
    unfold State.shown
    rw [hone]
    exact if_neg (by decide)
  rw [execPstat, reading_calm s hs]
  dsimp only
  rw [s.calm_classL hs, if_neg (by decide), hpipe]
  dsimp only
  by_cases hone : s.gran (s.partOf s.cx.group) 0 = 1
  · rw [hshown hone, hone]
    rfl
  · rw [if_neg hone, if_neg hone]
    rfl

variable {p : Pipeline} (hpipe : s.pipe ((s.w b).toNat % 2 ^ 32) = some p) (hown : p.group = s.cx.group)
include hpipe hown

theorem punbind_own : execPunbind a b c imm s = .next ((s.unbind p).setW a 0).advance := by
  rw [execPunbind, reading_calm s hs, s.calm_classL hs, if_neg (by decide), hpipe]
  exact if_pos hown

theorem pstat_own : execPstat a b c imm s = .next (s.setW a (toWord (s.pstat p (bitsOf imm.toNat 0 2)))).advance := by
  rw [execPstat, reading_calm s hs]
  dsimp only
  rw [s.calm_classL hs, if_neg (by decide), hpipe]
  exact if_pos hown

end

/-- Settles O47: PBIND attaches, PUNBIND and PSTAT answer, and items go on from relays and sources. -/
theorem pipelineResult : Obligations.PipelineResult := by
  unfold Obligations.PipelineResult
  intro s a b c imm hs own w
  rw [exec_pbind, exec_punbind, exec_pstat]
  refine ⟨?_, fun hpipe => ⟨punbind_stale hs hpipe, pstat_stale hs hpipe⟩,
    fun p hpipe hown => ⟨punbind_own hs hpipe hown, pstat_own hs hpipe hown⟩, ?_, ?_, ?_⟩
  · intro u₁ u d recs n hal hplain hread hn hn8 hrecs hhead hsrc hsvc hstages hfree hstream hshare htable
    have hused₁ := State.readsAt.used hread
    have hused₂ := State.readsAt.used hrecs
    have haside {α : Type} (p : State → α) (hp : Aside p) (hset : ∀ (t : State) (c : Ctx), p (t.setCx c) = p t) : p u = p s :=
      (hused₂.aside p hp hset).trans (hused₁.aside p hp hset)
    have hcx : u.cx = { s.cx with walkFault := [] } := by rw [hused₂.cx, hused₁.cx]
    have hgroup : u.cx.group = own := by rw [hcx]; rfl
    have hestate : u.estate = s.estate := haside State.estate aside_estate fun _ _ => rfl
    have hclass : u.classL u.cur = 0 := by
      obtain ⟨hr, -, hf, -⟩ := s.calm_parts hs
      simp [State.classL, batches, (haside State.reqs aside_reqs fun _ _ => rfl).trans hr,
        (haside State.flights aside_flights fun _ _ => rfl).trans hf]
    rw [State.holdings, ← hestate, ← State.holdings] at hshare
    rw [← hestate] at htable
    rw [← hgroup] at hsvc hstages hstream hshare
    obtain ⟨i, hbind⟩ := pbindWith_binds (a := a) (recs := recs) hclass hn hn8 hhead hsrc hsvc hstages hfree hstream hshare htable
    have hrep : u.cx.rep = none := by rw [hcx]; exact s.calm_rep hs
    obtain ⟨hpipe, hw, hpc⟩ := u.bindsPipe_leaves a (u.newPipe d recs i) hrep
    obtain ⟨-, hg, hlen⟩ := u.attach_pipe (u.newPipe d recs i)
    rw [pbind_reads hs hal hplain hread hn hrecs, hbind]
    refine ⟨_, (u.attach (u.newPipe d recs i)).2, rfl, hpipe, ?_, ?_, hw, ?_⟩
    · rw [hg, u.newPipe_group, hgroup]
    · rw [hlen, u.newPipe_stages]
    · rw [hpc, hcx]
  · intro u t h i d f p got there hpipe g m x hring hattached hended hpst hbound hcount hsent hin hout hlives hhand hall
    have hmember : (t.countSinks g i there 1).member p.group g.vc = m := by
      refine (State.countSinks_keeps (p := fun t => t.member p.group g.vc) (fun _ _ => rfl) _ _ _ _ _).trans ?_
      have hkeep := u.member_handAll (fun r => (u.slotAt m.pcore f x 0 0 0).copyTo h i r) (u.successors g i) p.group g.vc
      rw [hhand] at hkeep
      exact hkeep
    have hhead : (t.countSinks g i there 1).ringHead m.pcore d = t.ringHead m.pcore d :=
      State.countSinks_keeps (p := fun t => t.ringHead m.pcore d) (fun _ _ => rfl) _ _ _ _ _
    rw [exec_relayForward]
    refine ⟨_, relay_forwards hpipe hring hattached hended hpst hbound hcount hsent hin hout hlives hhand hall, ?_⟩
    have hdone := State.relayDone_head (s := t.countSinks g i there 1) (p := p) (h := h) (i := i) (g := g) (d := d) (f := f) hout
      (by rw [hmember]; exact hring)
    rw [hmember, hhead] at hdone
    exact hdone
  · intro u t h item p got there hpipe hhand all
    rw [exec_sourceItem]
    exact ⟨sourceItem_held hpipe item, fun hup hwait => sourceItem_forwards hpipe item hup hwait hhand⟩
  · intro u h i p x hpipe hi hwait
    rw [exec_relayForward]
    exact relay_source hpipe hi hwait

end Sys2Proof.Machine

/-! PROOFS. Members that move (15 R275 to R282, 05 R113 to R117): MIGRATE and its arrival, placement, save, streamed move, resume. -/

namespace Sys2Proof.Machine

theorem exec_migrate {s : State} (a b c : BitVec 4) (imm : BitVec 6) : exec (.migrate a b c imm) s = execMigrate a b c imm s := by rfl

theorem exec_migrationArrival {s : State} (id : Nat) : exec (.migrationArrival id) s = execMigrationArrival id s := by rfl

theorem exec_placementUpdate {s : State} (id : Nat) : exec (.placementUpdate id) s = execPlacementUpdate id s := by rfl

theorem exec_placementUpdateAck {s : State} (id : Nat) : exec (.placementUpdateAck id) s = execPlacementUpdateAck id s := by rfl

theorem exec_save {s : State} (h : Nat) : exec (.save h) s = execSave h s := by rfl

theorem exec_move {s : State} (h o : Nat) : exec (.move h o) s = execMove h o s := by rfl

theorem exec_memberMoveInstall {s : State} (h v : Nat) : exec (.memberMoveInstall h v) s = execMemberMoveInstall h v s := by rfl

theorem exec_resume {s : State} (h o : Nat) : exec (.resume h o) s = execResume h o s := by rfl

/-! ## MIGRATE (15 R282) -/

section
variable {s : State} {a b c : BitVec 4} {imm : BitVec 6}

/-- A calm strand has nothing that its departure waits for. -/
theorem State.calm_settled {s : State} (hs : s.calm = true) : s.settled s.cur = true := by
  obtain ⟨hr, hl, hf, -, -, -, hm, hc, -⟩ := s.calm_parts hs
  have hhere : coreOfCid s.cur = s.here := rfl
  have hcall : (s.ctx s.cur).call = none := s.calm_call hs
  simp [State.settled, State.unlanded, State.copiesRan, State.classM, s.calm_classL hs, s.calm_classS hs, hr, hl, hf, hm, hc, hhere, hcall]

theorem migrateTo_own (addr : Word) : migrateTo a addr s.cx.vcore s = .next (s.setW a 0).advance := by
  rw [migrateTo]
  exact if_pos rfl

section
variable {addr : Word} {v : Nat} {g : Group} (hv : v ≠ s.cx.vcore) (hg : s.grp s.cx.group = some g)
include hv hg

theorem migrateTo_moving (hpst : (s.member s.cx.group v).pst = 1) : migrateTo a addr v s = .next (s.takeTrap 0x15 addr s.cx.pc) := by
  rw [migrateTo]
  dsimp only
  rw [if_neg hv, hg]
  exact if_pos hpst

variable (hpst : (s.member s.cx.group v).pst ≠ 1)
include hpst

theorem migrateTo_full (hslot : s.slotFor g (s.member s.cx.group v).qbase (s.member s.cx.group v).pcore s.cx.foot = none) :
    migrateTo a addr v s = .next (s.setW a (toWord (2 ^ 63 + 3))).advance := by
  rw [migrateTo]
  dsimp only
  rw [if_neg hv, hg]
  dsimp only
  rw [if_neg hpst, hslot]
  rfl

theorem migrateTo_leaves (hs : s.calm = true) {slot : Nat}
    (hslot : s.slotFor g (s.member s.cx.group v).qbase (s.member s.cx.group v).pcore s.cx.foot = some slot)
    (heng : s.enginesInto s.cx.group s.cx.vcore = false)
    (hroom : ((s.endFwd s.cur).core s.here).fwd.length + s.movingFrom s.here < 16) :
    migrateTo a addr v s = .next (s.emigrate a g v (s.member s.cx.group v).pcore slot) := by
  obtain ⟨-, -, -, -, -, -, -, hc, -⟩ := s.calm_parts hs
  have hbusy : s.strandBusy s.here = false := by simp [State.strandBusy, hc]
  rw [migrateTo]
  dsimp only
  rw [if_neg hv, hg]
  dsimp only
  rw [if_neg hpst, hslot]
  dsimp only
  rw [State.calm_settled hs, s.calm_drained hs, heng, hbusy, if_neg (by simp; omega)]

end

variable (hs : s.calm = true)
include hs

theorem migrate_operand (h : s.cx.depth ≠ 0 ∨ s.cx.get 0x043 ≠ 0 ∨ s.cx.fld 0x042 32 16 ≠ 0 ∨ s.cx.fld 0x038 0 4 ≠ 0) :
    execMigrate a b c imm s = operandTrapOf s (encS 0x3F 6 a b c imm) := by
  rw [execMigrate, reading_calm s hs]
  exact if_pos h

variable (h0 : s.cx.depth = 0) (h1 : s.cx.get 0x043 = 0) (h2 : s.cx.fld 0x042 32 16 = 0) (h3 : s.cx.fld 0x038 0 4 = 0)
include h0 h1 h2 h3

/-- MIGRATE of a strand that may move goes by what its address names. -/
theorem migrate_own {off : Nat} (hrng : rngOf (s.w b).toNat = .loc off) : execMigrate a b c imm s = .next (s.setW a 0).advance := by
  rw [execMigrate, reading_calm s hs]
  dsimp only
  rw [if_neg (by simp [h0, h1, h2, h3]), hrng]
  exact migrateTo_own _

theorem migrate_member {v off : Nat} (hrng : rngOf (s.w b).toNat = .win v off) : execMigrate a b c imm s =
    if s.nMembers s.cx.group ≤ v then trap s xAccess (s.w b) else migrateTo a (s.w b) v s := by
  rw [execMigrate, reading_calm s hs]
  dsimp only
  rw [if_neg (by simp [h0, h1, h2, h3]), hrng]

theorem migrate_page {pa : Nat} (hrng : rngOf (s.w b).toNat = .user)
    (hloc : s.locateAll 2 [⟨(s.w b).toNat, 1, .load, 0, 0, false⟩] = .ok [.hbm pa])
    (hnone : (s.grp s.cx.group).bind (fun g => memberOnDie g (sliceOf pa / 24)) = none) : execMigrate a b c imm s =
      .next ((((s.setCx { s.cx with walkFault := [] }).useXl s.here s.cx.group (s.w b).toNat .load).setW a
        (toWord (2 ^ 63 + 2))).advance) := by
  have hgrp : ((s.setCx { s.cx with walkFault := [] }).useXl s.here s.cx.group (s.w b).toNat .load).groups = s.groups :=
    aside_groups.useXl _ _ _ _ _
  rw [execMigrate, reading_calm s hs]
  dsimp only
  rw [if_neg (by simp [h0, h1, h2, h3]), hrng]
  dsimp only
  rw [hloc]
  dsimp only
  rw [State.grp, hgrp, ← State.grp, hnone]
  rfl

end

/-- The registers of a strand that arrives: READY, or STOPPED on a stopped core and where its MIGRATE was a step. -/
def Ctx.arrived (x : Ctx) (stop : Bool) : Ctx :=
  { x with
    state := if stop ∨ x.stepping then .stopped none false else .ready
    stepping := false }

/-! ## What a move leaves of the groups -/

theorem State.groups_parkSeq (s : State) (cid : Nat) : (s.parkSeq cid).groups = s.groups := by
  unfold State.parkSeq
  exact ite_keeps (p := State.groups) rfl (State.wrDws_groups _ _ _ _)

theorem State.groups_dropBereaved (s : State) (h core lo hi : Nat) : (s.dropBereaved h core lo hi).groups = s.groups :=
  foldl_keeps (p := State.groups) (fun _ _ => aside_groups.bbox _ _ _ _ _ _ _) _ _

theorem State.groups_carryRange (s : State) (old new lo hi : Nat) : (s.carryRange old new lo hi).groups = s.groups := rfl

theorem State.groups_holdingsOn (s : State) (h v core : Nat) : (s.holdingsOn h v core).groups = s.groups := rfl

theorem State.groups_endMigrationFwd (s : State) (h : Nat) : (s.endMigrationFwd h).groups = s.groups := rfl

theorem State.groups_endMemberFwd (s : State) : s.endMemberFwd.groups = s.groups := rfl

theorem State.groups_vacate (s : State) (cid : Nat) : (s.vacate cid).groups = s.groups := by
  have hunrun (t : State) : (t.unrun cid).groups = t.groups := by
    unfold State.unrun
    exact ite_keeps (p := State.groups) rfl (ite_keeps (p := State.groups) rfl rfl)
  unfold State.vacate
  refine (hunrun _).trans ?_
  exact ite_keeps (p := State.groups) (c := (s.core (coreOfCid cid)).seq.state ≠ .idle ∧ (s.core (coreOfCid cid)).seq.holder = cid) rfl rfl

theorem State.groups_repark (s : State) (cid : Nat) : (s.repark cid).groups = s.groups := by
  unfold State.repark
  refine ite_keeps (p := State.groups) rfl ?_
  exact ite_keeps (p := State.groups) (c := decide (256 ≤ State.parked _ _) = true) rfl rfl

theorem State.groups_carryCtx (s : State) (cid new : Nat) : (s.carryCtx cid new).groups = s.groups := by
  unfold State.carryCtx
  have hvacate (t : State) : ((t.parkSeq cid).vacate cid).groups = t.groups := (State.groups_vacate _ _).trans (t.groups_parkSeq cid)
  have htiles (t : State) (ts : List (Nat × Tile)) : (ts.foldl (fun s x => s.setTile new x.1 x.2) t).groups = t.groups :=
    foldl_keeps (p := State.groups) (f := fun (s : State) (x : Nat × Tile) => s.setTile new x.1 x.2) (fun _ _ => rfl) _ _
  refine ite_keeps (p := State.groups) ?_ ?_
  · exact (htiles _ _).trans ((State.groups_repark _ _).trans (hvacate _))
  · exact (htiles _ _).trans ((State.groups_repark _ _).trans (hvacate _))

theorem State.groups_placeChanged (s : State) (h v : Nat) : (s.placeChanged h v).groups = s.groups := s.groups_placesChanged h [v]

theorem State.groups_depositW (s : State) (o : Origin) (core off v : Nat) : (s.depositW o core off v).groups = s.groups := by
  unfold State.depositW
  exact ite_keeps (p := State.groups) rfl (aside_groups.logWrite _ _ _ _ _ _ _)

theorem State.grp_congr {s t : State} (h : t.groups = s.groups) (k : Nat) : t.grp k = s.grp k := by rw [State.grp, State.grp, h]

theorem State.member_congr {s t : State} (h : t.groups = s.groups) (k v : Nat) : t.member k v = s.member k v := by
  rw [State.member, State.member, State.grp_congr h]

/-- Fills that are performed leave every member as it was. -/
theorem State.member_performFills (s : State) (h k v : Nat) : (s.performFills h).member k v = s.member k v := by
  unfold State.performFills
  split
  next => rfl
  next g hg =>
    refine (State.member_congr ?_ k v).trans (State.member_setGrp hg (g' := { g with
      overflowFills := g.overflowFills.filter fun f => s.niPlace h f.1 f.2.1 8 == .wait }) rfl rfl)
    refine foldl_keeps (p := State.groups) (fun t f => ?_) _ _
    split
    · exact State.groups_depositW _ _ _ _ _
    · rfl

/-! ## A member's entry -/

theorem length_modAt {α : Type} (f : α → α) (l : List α) (v : Nat) : (modAt f l v).length = l.length := by
  induction l generalizing v with
  | nil => rfl
  | cons x r ih =>
    cases v with
    | zero => rfl
    | succ v => exact congrArg (· + 1) (ih v)

theorem getD_modAt_self {α : Type} (f : α → α) (d : α) : ∀ (l : List α) (v : Nat), v < l.length →
    (modAt f l v).getD v d = f (l.getD v d)
  | _ :: _, 0, _ => rfl
  | _ :: r, v + 1, h => getD_modAt_self f d r v (Nat.lt_of_succ_lt_succ h)

theorem getD_modAt_ne {α : Type} (f : α → α) (d : α) : ∀ (l : List α) (v w : Nat), w ≠ v → (modAt f l v).getD w d = l.getD w d
  | [], _, _, _ => rfl
  | _ :: _, 0, 0, h => absurd rfl h
  | _ :: _, 0, _ + 1, _ => rfl
  | _ :: _, _ + 1, 0, _ => rfl
  | _ :: r, v + 1, w + 1, h => getD_modAt_ne f d r v w (fun e => h (congrArg (· + 1) e))

theorem State.member_of_grp {s : State} {h : Nat} {g : Group} (hg : s.grp h = some g) (v : Nat) :
    s.member h v = g.members.getD v Member.blank := by rw [State.member, hg]

theorem State.grp_updMember {s : State} {h : Nat} {g : Group} (hg : s.grp h = some g) (v : Nat) (f : Member → Member) :
    (s.updMember h v f).grp h = some { g with members := modAt f g.members v } := by
  rw [State.updMember, hg]
  exact (congrArg (State.grp _) (s.grp_handle hg).symm).trans (s.grp_setGrp_self { g with members := modAt f g.members v })

/-- A change of a member's entry. -/
theorem State.member_updMember_self {s : State} {h v : Nat} {g : Group} (hg : s.grp h = some g) (hv : v < g.members.length)
    (f : Member → Member) : (s.updMember h v f).member h v = f (s.member h v) := by
  rw [State.member_of_grp (State.grp_updMember hg v f), State.member_of_grp hg]
  exact getD_modAt_self f Member.blank g.members v hv

/-! ## Streamed move (15 R278) -/

/-- A member's contexts, range and tiles stand on its new core; its entry still names the old one. -/
def State.carryMember (s : State) (g : Group) (v new : Nat) : State :=
  let lo := g.hdr.slo
  let hi := g.hdr.slim
  let old := (s.member g.handle v).pcore
  let cids := s.cidsAt g.handle v
  let s := cids.foldl (fun s i => s.parkSeq i) s
  let s := (s.dropBereaved g.handle old lo hi).carryRange old new lo hi
  let s := cids.foldl (fun s i => s.carryCtx i new) s
  { s with ctxs := s.ctxs.map (fun (x : Nat × Ctx) =>
    if x.2.group = g.handle then (x.1, { x.2 with state := x.2.state.moved old new lo hi }) else x) }

theorem State.groups_carryMember (s : State) (g : Group) (v new : Nat) : (s.carryMember g v new).groups = s.groups := by
  have hpark (is : List Nat) (t : State) : (is.foldl (fun s i => s.parkSeq i) t).groups = t.groups :=
    foldl_keeps (p := State.groups) (fun t i => t.groups_parkSeq i) _ _
  have hcarry (is : List Nat) (t : State) : (is.foldl (fun s i => s.carryCtx i new) t).groups = t.groups :=
    foldl_keeps (p := State.groups) (fun t i => t.groups_carryCtx i new) _ _
  unfold State.carryMember
  dsimp only
  rw [hcarry, State.groups_carryRange, State.groups_dropBereaved, hpark]

/-- The core that a member has left keeps a forwarding entry to its new place. -/
def State.leaveEntry (s : State) (g : Group) (old new : Nat) : State :=
  let k := s.core old
  (s.setCore old { k with fwd := k.fwd ++ [⟨g.handle, g.hdr.slo, g.hdr.slim, new, g.hdr.slo, none⟩] }).tlbDrop (fun t => t.group == g.handle)

/-- A member's entry as a move leaves it. -/
def Member.placed (m : Member) (core : Nat) : Member :=
  { m with
    pst := 0
    pcore := core }

theorem State.groups_leaveEntry (s : State) (g : Group) (old new : Nat) : (s.leaveEntry g old new).groups = s.groups := rfl

theorem State.installMember_eq (s : State) (g : Group) (v new : Nat) : s.installMember g v new =
    (((((((s.carryMember g v new).updMember g.handle v (fun m => m.placed new)).leaveEntry g (s.member g.handle v).pcore
      new).endMigrationFwd g.handle).holdingsOn g.handle v new).performFills g.handle).placeChanged g.handle v).endMemberFwd := rfl

/-- The installed member stands at its new core. -/
theorem State.installMember_stands {s : State} {g : Group} {v new : Nat} (hg : s.grp g.handle = some g) (hv : v < g.members.length) :
    ((s.installMember g v new).member g.handle v).pst = 0 ∧ ((s.installMember g v new).member g.handle v).pcore = new := by
  have hgrp : (s.carryMember g v new).grp g.handle = some g := (State.grp_congr (s.groups_carryMember g v new) _).trans hg
  have hmember : (s.installMember g v new).member g.handle v = ((s.member g.handle v).placed new) := by
    rw [s.installMember_eq g v new]
    rw [State.member_congr (State.groups_endMemberFwd _), State.member_congr (State.groups_placeChanged _ _ _), State.member_performFills,
      State.member_congr (State.groups_holdingsOn _ _ _ _), State.member_congr (State.groups_endMigrationFwd _ _),
      State.member_congr (State.groups_leaveEntry _ _ _ _), State.member_updMember_self hgrp hv,
      State.member_congr (s.groups_carryMember g v new)]
  rw [hmember]
  exact ⟨rfl, rfl⟩

/-! ## Arrival (15 R282, 05 R113) -/

theorem State.performFills_calm {s : State} {h : Nat} {g : Group} (hg : s.grp h = some g) (hfills : g.overflowFills = []) :
    s.performFills h = s.setGrp { g with overflowFills := [] } := by
  rw [State.performFills, hg]
  dsimp only
  rw [hfills]
  rfl

/-- The footprint and the registers of a strand that arrives are installed on its core. -/
def State.installStrand (s : State) (core slot : Nat) (x : Ctx) (foot : List Byte) : State :=
  ((s.setCore core { (s.core core) with tlb := (s.core core).tlb.filter (fun t => t.group != x.group) }).setCtx (core * 8 + slot)
    (x.arrived (s.core core).stop)).wrBytesS core (x.wp - 64) foot

theorem State.installStrand_leaves (s : State) (core slot : Nat) (x : Ctx) (foot : List Byte) :
    (s.installStrand core slot x foot).groups = s.groups ∧
      (s.installStrand core slot x foot).ctx (core * 8 + slot) = x.arrived (s.core core).stop ∧
      (s.installStrand core slot x foot).flights = s.flights ∧ (s.installStrand core slot x foot).hops = s.hops ∧
      readBytes (s.installStrand core slot x foot).spad (spadKey core (x.wp - 64)) foot.length = foot := by
  have hctx (t : State) (bs : List Byte) (cid : Nat) : (t.wrBytesS core (x.wp - 64) bs).ctx cid = t.ctx cid := by
    unfold State.wrBytesS
    split <;> rfl
  refine ⟨?_, ?_, ?_, ?_, ?_⟩
  · unfold State.installStrand State.wrBytesS
    split <;> rfl
  · rw [State.installStrand, hctx, State.ctx_setCtx_self]
  · unfold State.installStrand State.wrBytesS
    split <;> rfl
  · unfold State.installStrand State.wrBytesS
    split <;> rfl
  · unfold State.installStrand State.wrBytesS
    split
    next h =>
      rw [List.isEmpty_iff.1 h]
      rfl
    next => exact readBytes_writeBytes_self foot _ _

theorem migrationArrival_installs {s : State} {id core slot from_ : Nat} {x : Ctx} {foot : List Byte} {g : Group}
    (hf : s.flight id = some (.migrate core slot x foot from_)) (hg : s.grp x.group = some g) (hlives : ended g = false) :
    execMigrationArrival id s = .next (((s.land id).installStrand core slot x foot).performFills x.group) := by
  have hg' : (s.land id).grp x.group = some g := hg
  rw [execMigrationArrival, hf]
  dsimp only
  rw [hg']
  dsimp only
  rw [if_neg (by simp [hlives])]
  rfl

theorem migrationArrival_leaves {s : State} {id core slot from_ : Nat} {x : Ctx} {foot : List Byte} {g : Group}
    (hf : s.flight id = some (.migrate core slot x foot from_)) (hg : s.grp x.group = some g) (hlives : ended g = false)
    (hfills : g.overflowFills = []) : ∃ t, execMigrationArrival id s = .next t ∧ t.flight id = none ∧
      t.ctx (core * 8 + slot) = x.arrived (s.core core).stop ∧
      readBytes t.spad (spadKey core (x.wp - 64)) foot.length = foot := by
  obtain ⟨hgroups, hctx, hflights, hhops, hfoot⟩ := (s.land id).installStrand_leaves core slot x foot
  refine ⟨_, migrationArrival_installs hf hg hlives, ?_⟩
  rw [State.performFills_calm (by rw [State.grp_congr hgroups]; exact hg) hfills]
  refine ⟨?_, hctx, hfoot⟩
  refine Eq.trans ?_ (s.flight_land id)
  unfold State.flight State.hopping
  rw [State.setGrp_flights, hflights, State.setGrp_hops, hhops]

/-! ## Placement (15 R276) -/

/-- The state in which a core's copy has the home's entry, and the core acknowledges. -/
theorem placementUpdate_leaves {s : State} {id h v core x y : Nat} (hf : s.flight id = some (.placeUpd h v core x y)) :
    ∃ t, execPlacementUpdate id s = .next t ∧
      (pick (fun f => f.id == id) t.flights).map (fun f => f.cargo) = some (.placeAck h v core) ∧
      (∀ e ∈ (t.core core).pcache, e.1 = h * 8192 + v → e.2 = ((s.member h v).pst, (s.member h v).pcore)) := by
  rw [execPlacementUpdate, hf]
  dsimp only
  refine ⟨_, rfl, State.cargoOf_refly (State.cargoOf_flight (s := s) hf) (.placeAck h v core), fun e he hkey => ?_⟩
  have hcore (t : State) (k : Core) : (State.reflyFrom (t.setCore core k) core id (.placeAck h v core)).core core = k :=
    State.core_setCore_self t core k
  rw [hcore] at he
  obtain ⟨z, -, rfl⟩ := List.mem_map.1 he
  split at hkey
  next hz => rw [if_pos hz]
  next hz => exact absurd hkey hz

/-! ## Save (15 R278) -/

/-- A group with a member's part in its image. -/
def Group.withImage (g : Group) (x : Saved) : Group := { g with images := g.images ++ [x] }

/-- A member's entry once it is SAVED. -/
def Member.saved (m : Member) : Member :=
  { m with
    pst := 2
    pcore := 6144 }

/-- A member's contexts have left its core, with their contributions and messages. -/
def State.vacateMember (s : State) (h v core lo hi : Nat) (cids : List Nat) (copies : List Copy) : State :=
  let k := s.core core
  let s := s.setCore core { k with copies := k.copies.filter (fun c => !copies.any (fun y => y.id == c.id)) }
  let s := cids.foldl (fun s i => (s.renameContribs i (savedCid h v (slotOfCid i))).renameSends i noCid) s
  (cids.foldl (fun s i => s.vacate i) s).dropBereaved h core lo hi

theorem State.groups_vacateMember (s : State) (h v core lo hi : Nat) (cids : List Nat) (copies : List Copy) :
    (s.vacateMember h v core lo hi cids copies).groups = s.groups := by
  unfold State.vacateMember
  dsimp only
  rw [State.groups_dropBereaved, foldl_keeps (p := State.groups) (f := fun s i => s.vacate i) (fun t i => t.groups_vacate i),
    foldl_keeps (p := State.groups)
      (f := fun s i => (s.renameContribs i (savedCid h v (slotOfCid i))).renameSends i noCid) (fun _ _ => rfl),
    State.setCore_groups]

/-- A member's contexts have stopped where they stand, their copy strands with their headers written. -/
def State.parkMember (s : State) (h v : Nat) : State :=
  (s.cidsAt h v).foldl (fun s i => (s.setCtx i ((s.ctx i).interrupted s.time)).parkSeq i) s

/-- A member's part of the image. -/
def State.imagePart (s : State) (g : Group) (h v core : Nat) (cids : List Nat) : Saved :=
  { vcore := v, core := core, image := s.memberImage g v, extra := s.kept h v, copies := cids.flatMap s.unreported,
    clean := s.cleanBytes core g.hdr.slo g.hdr.slim }

/-- A member's part is in the image, and the member stands nowhere. -/
def State.putPart (s : State) (g : Group) (h v core : Nat) (cids : List Nat) (x : Saved) : State :=
  ((((s.setGrp (g.withImage x)).vacateMember h v core g.hdr.slo g.hdr.slim cids x.copies).updMember h v Member.saved).placeChanged
    h v).holdingsOn h v 6144

theorem State.saveMember_eq (s : State) (h v : Nat) : s.saveMember h v =
    match (s.parkMember h v).grp h with
    | none => s.parkMember h v
    | some g => (s.parkMember h v).putPart g h v (s.member h v).pcore (s.cidsAt h v)
      ((s.parkMember h v).imagePart g h v (s.member h v).pcore (s.cidsAt h v)) := rfl

theorem State.groups_parkMember (s : State) (h v : Nat) : (s.parkMember h v).groups = s.groups :=
  foldl_keeps (p := State.groups) (f := fun (s : State) i => (s.setCtx i ((s.ctx i).interrupted s.time)).parkSeq i)
    (fun _ i => State.groups_parkSeq _ i) _ _

theorem State.putPart_grp {s : State} {h : Nat} {g : Group} (hg : s.grp h = some g) (v core : Nat) (cids : List Nat) (x : Saved) :
    (s.putPart g h v core cids x).grp h = some { g.withImage x with members := modAt Member.saved g.members v } := by
  have hset : (s.setGrp (g.withImage x)).grp h = some (g.withImage x) :=
    (congrArg (State.grp _) (s.grp_handle hg).symm).trans (s.grp_setGrp_self (g.withImage x))
  rw [State.putPart, State.grp_congr (State.groups_holdingsOn _ _ _ _), State.grp_congr (State.groups_placeChanged _ _ _)]
  exact State.grp_updMember ((State.grp_congr (State.groups_vacateMember _ _ _ _ _ _ _ _) h).trans hset) v Member.saved

/-- A member's part of the image is written, and the member stands nowhere. -/
theorem State.saveMember_saves {s : State} {h : Nat} {g : Group} (hg : s.grp h = some g) (v : Nat) :
    ∃ x, (s.saveMember h v).grp h = some { g.withImage x with members := modAt Member.saved g.members v } := by
  have hpark : (s.parkMember h v).grp h = some g := (State.grp_congr (s.groups_parkMember h v) h).trans hg
  rw [State.saveMember_eq, hpark]
  exact ⟨_, State.putPart_grp hpark _ _ _ _⟩

theorem State.preDone_eq {s : State} {h : Nat} {g : Group} (hg : s.grp h = some g) :
    s.preDone h = (s.setGrp { g with pre := g.pre.drop 1 }).tell [0, 0] := by
  rw [State.preDone, hg]

/-- The one placed member of a group is ready, and the SAVE heads the group's commands: the group is SAVED. -/
theorem save_saves {s : State} {h v : Nat} {g : Group} (hg : s.grp h = some g) (hstate : g.state = .running) (hpre : g.pre.head? = some 0)
    (hplaced : placedMembers g = [v]) (hready : s.memberReady h v = true) :
    ∃ t q, execSave h s = .next t ∧ t.grp h = some q ∧ q.state = .saved ∧ (t.member h v).pst = 2 ∧
      q.images.length = g.images.length + 1 := by
  have hv : v < g.members.length := by
    have hmem : v ∈ placedMembers g := by rw [hplaced]; exact List.mem_singleton.2 rfl
    exact List.mem_range.1 (List.mem_filter.1 hmem).1
  have hend : (s.endMigrationFwd h).grp h = some g := (State.grp_congr (s.groups_endMigrationFwd h) h).trans hg
  obtain ⟨x, hx⟩ := State.saveMember_saves hend v
  rw [execSave, hg]
  dsimp only
  rw [if_neg (by simp [hstate]), if_pos hpre, if_neg (by simp [hplaced, hready]), hplaced, List.foldl_cons, List.foldl_nil]
  generalize (s.endMigrationFwd h).saveMember h v = u at hx
  generalize hq : ({ g.withImage x with members := modAt Member.saved g.members v } : Group) = q at hx
  rw [hx]
  dsimp only
  have hhandle : q.handle = h := u.grp_handle hx
  have hset : ((u.setGrp { q with state := .saved }).tlbDrop (fun t => t.group == h)).grp h = some { q with state := .saved } :=
    (congrArg (State.grp _) hhandle.symm).trans (u.grp_setGrp_self { q with state := .saved })
  have hdone := State.preDone_eq hset
  generalize (u.setGrp { q with state := .saved }).tlbDrop (fun t => t.group == h) = w at hset hdone
  have hfinal : (w.preDone h).grp h = some { q with state := .saved, pre := q.pre.drop 1 } := by
    rw [hdone]
    exact (congrArg (State.grp _) hhandle.symm).trans (w.grp_setGrp_self { q with state := .saved, pre := q.pre.drop 1 })
  refine ⟨w.preDone h, _, rfl, hfinal, rfl, ?_, ?_⟩
  · rw [State.member_of_grp hfinal, ← hq]
    exact (congrArg Member.pst (getD_modAt_self Member.saved Member.blank g.members v hv)).trans rfl
  · rw [← hq]
    exact List.length_append

/-! ## Resume (05 R117, 15 R278) -/

theorem State.groups_putDws (core : Nat) (ds : List Nat) : ∀ (s : State) (off : Nat), (s.putDws core off ds).groups = s.groups := by
  induction ds with
  | nil => exact fun _ _ => rfl
  | cons d r ih => exact fun s off => (ih _ _).trans rfl

theorem State.groups_putRegion (s : State) (core : Nat) (x : Nat × Nat × List Nat) : (s.putRegion core x).groups = s.groups := by
  unfold State.putRegion State.putTags
  refine (foldl_keeps (p := State.groups)
    (f := fun (s : State) i => s.setTag core (512 * x.1 + 8 * i) (bitAt x.2.1 i)) (fun _ _ => rfl) _ _).trans ?_
  exact State.groups_putDws _ _ _ _

theorem State.groups_putCtx (s : State) (core h v : Nat) (kept : List (Nat × Ctx)) (r : CtxRec) :
    (s.putCtx core h v kept r).groups = s.groups := by
  unfold State.putCtx State.getHeader
  dsimp only
  rw [State.setCtx_groups, aside_groups.softRead, State.setCtx_groups]
  exact State.groups_putDws _ _ _ _

theorem State.groups_putSeq (s : State) (core : Nat) (kept : List (Nat × Ctx)) (r : CtxRec) : (s.putSeq core kept r).groups = s.groups := by
  unfold State.putSeq
  dsimp only
  split <;> rfl

/-- The words of a saved member's range are back on a core. -/
def State.putRange (s : State) (g : Group) (core : Nat) (x : Saved) (rs : List (Nat × Nat × List Nat)) : State :=
  let s := s.zeroRange core g.hdr.slo g.hdr.slim
  let s := { s with spad := x.clean.foldl (fun (m : List Host.Cell) (b : Host.Cell) => putByte m (spadKey core b.1) b.2) s.spad }
  rs.foldl (fun s r => s.putRegion core r) s

/-- A saved member's entry on a core. -/
def Saved.entry (x : Saved) (core : Nat) (m : Member) : Member :=
  { m with
    pst := 0
    pcore := core
    qbase := toWord (x.image.getD 5 0)
    portb := toWord (x.image.getD 6 0)
    bars := (upTo 8).foldl (fun b i => mput b i (toWord (x.image.getD (7 + i) 0))) m.bars }

/-- The tiles, contexts and commands of a saved member are back on a core. -/
def State.putStrands (s : State) (g : Group) (core : Nat) (x : Saved) (ts : List (Nat × Tile)) (cs : List CtxRec) : State :=
  let s := ts.foldl (fun s t => s.setTile core t.1 t.2) s
  let s := cs.foldl (fun s r => (s.putCtx core g.handle x.vcore x.extra r).putSeq core x.extra r) s
  let k := s.core core
  let s := s.setCore core { k with copies := k.copies ++ x.copies.map (fun (c : Copy) =>
    { c with
      core := core
      cid := if c.cid = noCid then noCid else if c.strand then copyBase + core else core * 8 + c.slot }) }
  s.holdingsOn g.handle x.vcore core

theorem State.groups_putRange (s : State) (g : Group) (core : Nat) (x : Saved) (rs : List (Nat × Nat × List Nat)) :
    (s.putRange g core x rs).groups = s.groups :=
  foldl_keeps (p := State.groups) (f := fun (s : State) r => s.putRegion core r) (fun t r => t.groups_putRegion core r) _ _

theorem State.groups_putStrands (s : State) (g : Group) (core : Nat) (x : Saved) (ts : List (Nat × Tile)) (cs : List CtxRec) :
    (s.putStrands g core x ts cs).groups = s.groups := by
  have hcs (t : State) : (cs.foldl (fun s r => (s.putCtx core g.handle x.vcore x.extra r).putSeq core x.extra r) t).groups = t.groups :=
    foldl_keeps (p := State.groups) (f := fun (s : State) r => (s.putCtx core g.handle x.vcore x.extra r).putSeq core x.extra r)
      (fun t r => (State.groups_putSeq _ _ _ _).trans (t.groups_putCtx _ _ _ _ _)) _ _
  have hts (t : State) : (ts.foldl (fun s x => s.setTile core x.1 x.2) t).groups = t.groups :=
    foldl_keeps (p := State.groups) (f := fun (s : State) (x : Nat × Tile) => s.setTile core x.1 x.2) (fun _ _ => rfl) _ _
  unfold State.putStrands
  dsimp only
  rw [State.groups_holdingsOn, State.setCore_groups, hcs, hts]

theorem State.putMember_eq (s : State) (g : Group) (core : Nat) (x : Saved) : ∃ rs ts cs,
    (s.putMember g core x).groups = ((((s.putRange g core x rs).updMember g.handle x.vcore (x.entry core)).putStrands g core x ts cs)).groups :=
  ⟨_, _, _, rfl⟩

/-- A restored member has its entry in its group. -/
theorem State.putMember_grp {s : State} {g q : Group} (hq : s.grp g.handle = some q) (core : Nat) (x : Saved) :
    (s.putMember g core x).grp g.handle = some { q with members := modAt (x.entry core) q.members x.vcore } := by
  obtain ⟨rs, ts, cs, hgroups⟩ := s.putMember_eq g core x
  rw [State.grp_congr hgroups, State.grp_congr (State.groups_putStrands _ _ _ _ _ _)]
  exact State.grp_updMember ((State.grp_congr (s.groups_putRange g core x rs) _).trans hq) _ _

/-- A group that resumes with some members of its image restored at an origin. -/
structure Group.Restored (g : Group) (o : Nat) (xs : List Saved) (q : Group) : Prop where
  state : q.state = .running
  size : q.members.length = g.members.length
  fills : q.overflowFills = []
  placed : ∀ z ∈ xs, z.vcore < g.members.length → (q.members.getD z.vcore Member.blank).pst = 0 ∧
    (q.members.getD z.vcore Member.blank).pcore = (g.hdr.coresAt o).getD z.vcore 6144

theorem Group.Restored.cons {g q : Group} {o : Nat} {xs : List Saved} (h : g.Restored o xs q) (x : Saved) :
    g.Restored o (x :: xs) { q with
      members := modAt (x.entry ((g.hdr.coresAt o).getD x.vcore 6144)) q.members x.vcore } where
  state := h.state
  size := (length_modAt _ _ _).trans h.size
  fills := h.fills
  placed z hz hv := by
    dsimp only
    by_cases hsame : z.vcore = x.vcore
    · rw [hsame, getD_modAt_self _ _ _ _ (by rw [h.size, ← hsame]; exact hv)]
      exact ⟨rfl, rfl⟩
    · rw [getD_modAt_ne _ _ _ _ _ hsame]
      refine h.placed z ((List.mem_cons.1 hz).resolve_left fun e => hsame (by rw [e])) hv

/-- Restoring members one after another. -/
theorem State.putMembers_restores {g : Group} {o : Nat} (xs done : List Saved) {s : State} {q : Group}
    (hq : s.grp g.handle = some q) (hdone : g.Restored o done q) :
    ∃ q', (xs.foldl (fun s x => (s.putMember g ((g.hdr.coresAt o).getD x.vcore 6144) x).placeChanged g.handle x.vcore) s).grp g.handle = some q' ∧
      g.Restored o (xs.reverse ++ done) q' := by
  induction xs generalizing done s q with
  | nil => exact ⟨q, hq, hdone⟩
  | cons x r ih =>
    have hput := State.putMember_grp hq ((g.hdr.coresAt o).getD x.vcore 6144) x
    obtain ⟨q', hq', hr⟩ := ih (x :: done) ((State.grp_congr (State.groups_placeChanged _ g.handle x.vcore) _).trans hput) (hdone.cons x)
    refine ⟨q', hq', ?_⟩
    rw [List.reverse_cons, List.append_assoc]
    exact hr

/-- What waits for a SAVED group has been delivered, where nothing waits. -/
theorem State.deliverOverflow_grp {s : State} {g q : Group} (hq : s.grp g.handle = some q) (hfills : q.overflowFills = [])
    (hmsgs : g.overflow = []) : (s.deliverOverflow g).grp g.handle = some { q with overflowFills := [] } := by
  have hset : (s.performFills g.handle).grp g.handle = some { q with overflowFills := [] } := by
    rw [State.performFills_calm hq hfills]
    exact (congrArg (State.grp _) (s.grp_handle hq).symm).trans (s.grp_setGrp_self { q with overflowFills := [] })
  have hkept (t : State) : (t.receiveKept g).groups = t.groups := by
    unfold State.receiveKept
    refine foldl_keeps (p := State.groups) (fun u b => ?_) _ _
    split
    · rfl
    · rfl
  unfold State.deliverOverflow
  rw [hmsgs]
  exact (State.grp_congr (hkept _) _).trans hset

/-- RESUME of a saved group on a rectangle with room. -/
theorem resume_restores {s : State} {h o : Nat} {g : Group} (hg : s.grp h = some g) (hstate : g.state = .saved)
    (hrect : s.rectIn g.part g.hdr o = true)
    (hroom : g.images.all (fun z => s.canRestore g ((g.hdr.coresAt o).getD z.vcore 6144) z) = true)
    (hmsgs : g.overflow = []) (hfills : g.overflowFills = []) :
    ∃ t q, execResume h o s = .next t ∧ t.grp h = some q ∧ q.state = .running ∧
      (∀ z ∈ g.images, z.vcore < g.members.length →
        (t.member h z.vcore).pst = 0 ∧ (t.member h z.vcore).pcore = (g.hdr.coresAt o).getD z.vcore 6144) := by
  have hhandle : g.handle = h := s.grp_handle hg
  subst hhandle
  let g₁ : Group := { g with
    state := .running
    images := []
    overflow := []
    overflowBcasts := [] }
  have hset : (s.setGrp g₁).grp g.handle = some g₁ := s.grp_setGrp_self g₁
  obtain ⟨q, hq, hr⟩ := State.putMembers_restores (o := o) g.images [] hset ⟨rfl, rfl, hfills, fun z hz => nomatch hz⟩
  have hexec : execResume g.handle o s = .next (((g.images.foldl (fun s x =>
      (s.putMember g ((g.hdr.coresAt o).getD x.vcore 6144) x).placeChanged g.handle x.vcore) (s.setGrp g₁)).deliverOverflow g).tell [0, 0]) := by
    rw [execResume, hg]
    dsimp only
    exact if_neg (by rw [hstate, hrect, hroom]; simp)
  generalize g.images.foldl (fun s x => (s.putMember g ((g.hdr.coresAt o).getD x.vcore 6144) x).placeChanged g.handle x.vcore) (s.setGrp g₁) = u
    at hq hexec
  have hfinal := State.deliverOverflow_grp hq hr.fills hmsgs
  have htell : ((u.deliverOverflow g).tell [0, 0]).grp g.handle = some { q with overflowFills := [] } := hfinal
  refine ⟨_, _, hexec, htell, hr.state, fun z hz hv => ?_⟩
  rw [State.member_of_grp htell]
  exact hr.placed z (List.mem_append_left _ (List.mem_reverse.2 hz)) hv

/-- A streamed move: the next member leaves, a ready one is installed, and the move ends with its last. -/
theorem moveInstall_goes {s : State} {h v new : Nat} {g : Group} (hg : s.grp h = some g) (hlives : ended g = false)
    (htarget : moveTarget g v = some new) : execMemberMoveInstall h v s =
      if moveDone g then .next (s.preDone h)
      else if (s.member h v).pst = 0 ∧ (s.member h v).pcore ≠ new then
        if g.members.any (fun m => m.pst == 1) ∨ ¬ s.canReceive g v new then .next s
        else .next ((s.updMember h v (fun m => { m with pst := 1 })).placeChanged h v)
      else if (s.member h v).pst = 1 ∧ s.memberReady h v then .next ((s.installMember g v new).tryExitMember h v)
      else .next s := by
  rw [execMemberMoveInstall, hg]
  dsimp only
  rw [hlives, if_neg Bool.false_ne_true, htarget]

/-- Settles O48: MIGRATE and its arrival, placement, SAVE, MOVE and its installs, RESUME. -/
theorem moveResult : Obligations.MoveResult := by
  unfold Obligations.MoveResult
  refine ⟨?_, ?_⟩
  · intro s a b c imm hs
    rw [exec_migrate]
    refine ⟨migrate_operand hs, fun h0 h1 h2 h3 => ⟨?_, ?_, ?_, ?_⟩, ?_⟩
    · rintro ⟨off, hrng⟩
      exact migrate_own hs h0 h1 h2 h3 hrng
    · intro v off slot g hrng hv hg
      rw [migrate_member hs h0 h1 h2 h3 hrng, if_neg (Nat.not_le.2 hv)]
      refine ⟨fun hown => ?_, fun hne => ?_⟩
      · rw [hown]
        exact migrateTo_own _
      · exact ⟨migrateTo_moving hne hg, migrateTo_full hne hg, fun hpst => migrateTo_leaves hne hg hpst hs⟩
    · intro v off hrng hv
      rw [migrate_member hs h0 h1 h2 h3 hrng, if_pos hv]
      rfl
    · intro pa hrng hloc hnone
      exact migrate_page hs h0 h1 h2 h3 hrng hloc hnone
    · intro u id core slot from_ x foot g hf hg hlives hfills
      rw [exec_migrationArrival]
      exact migrationArrival_leaves hf hg hlives hfills
  · intro s id h v core x y
    refine ⟨fun hf => ?_, fun hf => ?_, fun g o hg => ?_⟩
    · rw [exec_placementUpdate]
      exact placementUpdate_leaves hf
    · rw [exec_placementUpdateAck, execPlacementUpdateAck, hf]
    · rw [exec_save, exec_move, exec_memberMoveInstall, exec_resume]
      refine ⟨fun hstate hpre => ?_, save_saves hg, fun hstate hrect => ?_, fun hno => ?_, fun hstate => ?_, ?_, fun hstate => ?_,
        fun hstate hrect hroom hmsgs hfills _ => resume_restores hg hstate hrect hroom hmsgs hfills⟩
      · rw [execSave, hg]
        dsimp only
        rw [if_neg (not_not.2 hstate), if_neg hpre]
      · rw [execMove, hg]
        exact if_neg (by simp [hstate, hrect])
      · rw [execMove, hg]
        exact if_pos (hno.imp_right (by simp [·]))
      · rw [execSave, hg]
        exact if_pos hstate
      · intro new hlives htarget
        rw [moveInstall_goes hg hlives htarget]
        refine ⟨fun hdone => if_pos hdone, fun hdone hpst hne hnone hroom => ?_, fun hdone hpst hready hv hhandle => ⟨?_, ?_⟩⟩
        · rw [if_neg (by simp [hdone]), if_pos ⟨hpst, hne⟩, if_neg (by simp [hnone, hroom])]
        · rw [if_neg (by simp [hdone]), if_neg (by simp [hpst]), if_pos ⟨hpst, hready⟩]
        · subst hhandle
          exact State.installMember_stands hg hv
      · rw [execResume, hg]
        exact if_pos (.inl hstate)

end Sys2Proof.Machine

/-! PROOFS. The probe (28 R402 to R410): PROBE, the recorder, the host's probe, replay and readout. -/

namespace Sys2Proof.Machine

/-! ## A core stop (28 R402) -/

/-- A core stop stops a READY context where it stands. -/
theorem State.stops_ready {i : Nat} (is : List Nat) {s : State} (hc : (mget s.ctxs i).isSome = true)
    (hstate : (s.ctx i).state = .stopped none false ∨ (i ∈ is ∧ (s.ctx i).state = .ready)) :
    ((is.foldl (fun s i => s.updCtx i Ctx.stopHere) s).ctx i).state = .stopped none false := by
  induction is generalizing s with
  | nil => exact hstate.resolve_right fun h => nomatch h.1
  | cons j r ih =>
    rw [List.foldl_cons]
    by_cases hj : j = i
    · subst hj
      obtain ⟨c, hc⟩ := Option.isSome_iff_exists.1 hc
      rw [State.updCtx_some hc]
      refine ih (by simp [State.setCtx]) (.inl ?_)
      rw [State.ctx_setCtx_self, Ctx.stopHere]
      rw [State.ctx_some hc] at hstate
      rcases hstate with h | ⟨-, h⟩
      · rw [h]
        exact h
      · rw [h]
    · have hkeep : (s.updCtx j Ctx.stopHere).ctx i = s.ctx i ∧ mget (s.updCtx j Ctx.stopHere).ctxs i = mget s.ctxs i := by
        unfold State.updCtx
        split
        · exact ⟨s.ctx_setCtx_ne _ hj, mget_mput_ne _ _ hj⟩
        · exact ⟨rfl, rfl⟩
      refine ih (by rw [hkeep.2]; exact hc) ?_
      rw [hkeep.1]
      exact hstate.imp_right fun h => ⟨(List.mem_cons.1 h.1).resolve_left (fun e => hj e.symm), h.2⟩

theorem State.mapCtxs_keeps {α : Type} {p : State → α} (hctx : ∀ (t : State) (cid : Nat) (c : Ctx), p (t.setCtx cid c) = p t)
    (s : State) (core : Nat) (f : Ctx → Ctx) : p (s.mapCtxs core f) = p s :=
  foldl_keeps (p := p) (f := fun (s : State) i => s.updCtx i f) (fun t i => State.updCtx_keeps hctx t i f) (s.cidsOn core) s

theorem Ctx.stopHere_rep (c : Ctx) : c.stopHere.rep = c.rep := by
  unfold Ctx.stopHere
  split <;> rfl

/-- What a core stop leaves of the core and of the focus. -/
theorem State.stopCore_leaves (s : State) (core : Nat) :
    ((s.stopCore core).core core).stop = true ∧ (s.stopCore core).cx.rep = s.cx.rep ∧ (s.stopCore core).cur = s.cur := by
  refine ⟨?_, ?_, ?_⟩
  · rw [State.stopCore, State.mapCtxs_keeps (p := fun t => t.core core) (fun _ _ _ => rfl), State.core_setCore_self]
  · unfold State.stopCore State.mapCtxs
    have hcur (is : List Nat) (t : State) : (is.foldl (fun s i => s.updCtx i Ctx.stopHere) t).cur = t.cur :=
      foldl_keeps (p := State.cur) (f := fun s i => s.updCtx i Ctx.stopHere)
        (fun u i => State.updCtx_keeps (p := State.cur) (fun _ _ _ => rfl) u i _) _ _
    rw [State.cx, hcur]
    exact foldl_keeps (p := fun t : State => (t.ctx s.cur).rep) (f := fun s i => s.updCtx i Ctx.stopHere)
      (fun u i => u.ctx_updCtx_keeps (q := Ctx.rep) Ctx.stopHere_rep i s.cur) _ _
  · rw [State.stopCore, State.mapCtxs_keeps (p := State.cur) (fun _ _ _ => rfl)]
    rfl

theorem State.mem_cidsOn {s : State} {core i : Nat} (h : i ∈ s.cidsOn core) : (mget s.ctxs i).isSome = true := by
  obtain ⟨k, -, hk⟩ := List.mem_filterMap.1 h
  split at hk
  next hsome =>
    rw [← Option.some.inj hk]
    exact hsome
  next => cases hk

/-! ## PROBE (28 R404) -/

theorem exec_probeStop {s : State} (a b c : BitVec 4) : exec (.probeStop a b c) s = execProbeStop a b c s := by rfl

theorem exec_probeResume {s : State} (a b c : BitVec 4) : exec (.probeResume a b c) s = execProbeResume a b c s := by rfl

theorem exec_probeStep {s : State} (a b c : BitVec 4) : exec (.probeStep a b c) s = execProbeStep a b c s := by rfl

theorem exec_probeCkpt {s : State} (a b c : BitVec 4) : exec (.probeCkpt a b c) s = execProbeCkpt a b c s := by rfl

theorem exec_probeRarm {s : State} (a b c : BitVec 4) : exec (.probeRarm a b c) s = execProbeRarm a b c s := by rfl

theorem exec_probeRtrig {s : State} (a b c : BitVec 4) : exec (.probeRtrig a b c) s = execProbeRtrig a b c s := by rfl

section
variable {s : State} (hs : s.calm = true) (op : Nat) (a b c : BitVec 4) (k : Nat → Nat → State → Out)
include hs

theorem probing_operand (h : bitsOf (s.w b).toNat 13 2 ≠ 0 ∨ bitsOf (s.w b).toNat 19 45 ≠ 0) :
    probing op a b c s k = operandTrapOf s (encS 0x3F 7 a b c (BitVec.ofNat 6 op)) := by
  rw [probing, reading_calm s hs]
  exact if_pos h

variable (h13 : bitsOf (s.w b).toNat 13 2 = 0) (h19 : bitsOf (s.w b).toNat 19 45 = 0)
include h13 h19

theorem probing_user (hsup : s.cx.sup = false) : probing 5 a b c s k = .next (s.setW a (toWord (2 ^ 63 + 1))).advance := by
  rw [probing, reading_calm s hs]
  dsimp only
  rw [if_neg (by simp [h13, h19]), if_pos ⟨rfl, by simp [hsup]⟩]
  rfl

variable (hmay : op = 5 → s.cx.sup = true)
include hmay

theorem probing_core {core : Nat} (ht : s.probeTarget (s.w b).toNat = .inr core) :
    probing op a b c s k = k core (bitsOf (s.w b).toNat 16 3) s := by
  rw [probing, reading_calm s hs]
  dsimp only
  rw [if_neg (by simp [h13, h19]), if_neg (fun h => h.2 (hmay h.1)), ht]

theorem probing_refused {code : Nat} (ht : s.probeTarget (s.w b).toNat = .inl code) :
    probing op a b c s k = .next (s.setW a (toWord (2 ^ 63 + code))).advance := by
  rw [probing, reading_calm s hs]
  dsimp only
  rw [if_neg (by simp [h13, h19]), if_neg (fun h => h.2 (hmay h.1)), ht]
  rfl

end

/-- STOP of a target core. -/
theorem probeStop_leaves {s : State} (hs : s.calm = true) (a : BitVec 4) (core : Nat) :
    (((s.stopCore core).setW a 0).advance.core core).stop = true ∧
      (∀ i ∈ s.cidsOn core, i ≠ s.cur → (s.ctx i).state = .ready →
        (((s.stopCore core).setW a 0).advance.ctx i).state = .stopped none false) := by
  obtain ⟨hstop, hrep, hcur⟩ := s.stopCore_leaves core
  have hrep' : ((s.stopCore core).setW a 0).cx.rep = none := hrep.trans (s.calm_rep hs)
  refine ⟨?_, fun i hi hne hready => ?_⟩
  · rw [State.advance_keeps (fun t => t.core core) (fun _ _ => rfl) hrep']
    exact hstop
  · rw [State.advance_eq _ hrep', State.ctx_setCx_ne _ _ (by rw [State.setW_cur, hcur]; exact hne.symm)]
    exact State.stops_ready (s := s.setCore core { (s.core core) with stop := true }) (s.cidsOn core) (State.mem_cidsOn hi) (.inr ⟨hi, hready⟩)

/-- Settles O49: the target and the bits that must be 0 are checked first; each operation then acts on its core, context or recorder. -/
theorem probeResult : Obligations.ProbeResult := by
  unfold Obligations.ProbeResult
  intro s a b c hs w code slot part
  rw [exec_probeStop, exec_probeResume, exec_probeStep, exec_probeCkpt, exec_probeRarm, exec_probeRtrig]
  refine ⟨fun h => ⟨probing_operand hs 0 a b c _ h, probing_operand hs 1 a b c _ h, probing_operand hs 2 a b c _ h,
    probing_operand hs 5 a b c _ h⟩, fun h13 h19 => ⟨probing_user hs a b c _ h13 h19, fun core ht => ?_, fun k ht => ?_⟩, ?_, ?_⟩
  · have hcore (op : Nat) (hop : op ≠ 5) (k : Nat → Nat → State → Out) :=
      probing_core hs op a b c k h13 h19 (fun h => absurd h hop) ht
    rw [execProbeStop, execProbeResume, execProbeStep, hcore 0 (by decide), hcore 1 (by decide), hcore 2 (by decide)]
    refine ⟨⟨_, rfl, probeStop_leaves hs a core⟩, fun hstop => if_neg (not_not.2 hstop), fun hstop => if_pos (by simp [hstop]), fun hnone => ?_,
      fun hsome hno => ?_, fun hsome hyes => ?_, fun hsup hoff => ?_, fun hsup hon hcalls => ?_⟩
    · exact if_pos (Option.isNone_iff_eq_none.2 hnone)
    · refine (if_neg ?_).trans (if_pos (Bool.eq_false_iff.1 hno))
      simpa [Option.isSome_iff_ne_none] using hsome
    · refine (if_neg ?_).trans (if_neg (not_not.2 hyes))
      simpa [Option.isSome_iff_ne_none] using hsome
    · rw [execProbeCkpt, probing_core hs 5 a b c _ h13 h19 (fun _ => hsup) ht]
      exact if_pos (by simp [hoff])
    · rw [execProbeCkpt, probing_core hs 5 a b c _ h13 h19 (fun _ => hsup) ht]
      exact (if_neg (not_not.2 hon)).trans (if_neg (by simp [hcalls]))
  · have hrefused (op : Nat) (hop : op ≠ 5) (f : Nat → Nat → State → Out) :=
      probing_refused hs op a b c f h13 h19 (fun h => absurd h hop) ht
    exact ⟨hrefused 0 (by decide) _, hrefused 1 (by decide) _, hrefused 2 (by decide) _,
      fun hsup => probing_refused hs 5 a b c _ h13 h19 (fun _ => hsup) ht⟩
  · intro cl h9 h32
    rw [execProbeRarm, reading_calm s hs]
    dsimp only
    rw [if_neg (fun h => h.elim (fun h => h h9) (fun h => h h32))]
    refine ⟨fun hsup => if_pos (by simp [hsup]), fun hsup hcl hdie hmem => ?_⟩
    rw [if_neg (not_not.2 hsup), if_neg (by
      rintro (h | h)
      · exact absurd hcl (Nat.not_lt.2 h)
      · exact h hdie), if_neg (by rw [hmem]; simp)]
    exact ⟨fun hunread => if_pos hunread, fun hread => if_neg (Bool.eq_false_iff.1 hread)⟩
  · intro h2 hsup hdie
    rw [execProbeRtrig, reading_calm s hs]
    dsimp only
    exact (if_neg (not_not.2 h2)).trans (if_neg (by
      rintro (h | h)
      · exact h hsup
      · exact h hdie))

/-! ## The recorder, the host's probe, replay and readout (28 R396 to R410) -/

theorem exec_recorderFreeze {s : State} (die : Nat) : exec (.recorderFreeze die) s = execRecorderFreeze die s := by rfl

theorem exec_record {s : State} (die op arg : Nat) : exec (.record die op arg) s = execRecord die op arg s := by rfl

theorem exec_hostProbe {s : State} (cid op i : Nat) (v : Word) : exec (.hostProbe cid op i v) s = execHostProbe cid op i v s := by rfl

theorem exec_replayInject {s : State} (core : Nat) : exec (.replayInject core) s = execReplayInject core s := by rfl

theorem exec_readout {s : State} (part sel i : Nat) : exec (.readout part sel i) s = execReadout part sel i s := by rfl

theorem exec_blackBoxRead {s : State} : exec .blackBoxRead s = execBlackBoxRead s := by rfl

theorem exec_estateRead {s : State} (first count : Nat) : exec (.estateRead first count) s = execEstateRead first count s := by rfl

section
variable {s : State} {cid : Nat} (hcore : coreOfCid cid < Config.cores)
include hcore

/-- The host's write of a breakpoint or a watchpoint of a resident context. -/
theorem hostProbe_pokes {i : Nat} {v : Word} (hi : i < 8) (hc : (mget s.ctxs cid).isSome = true) :
    ∃ t, execHostProbe cid 3 i v s = .next t ∧ (t.ctx cid).get (0x028 + i) = v &&& toWord (crMask (0x028 + i)) := by
  obtain ⟨c, hc'⟩ := Option.isSome_iff_exists.1 hc
  unfold execHostProbe State.pokeCtx
  rw [if_neg (Nat.not_le.2 hcore), if_pos hc, State.updCtx_some hc', State.poked]
  dsimp only
  rw [if_neg (Nat.not_le.2 hi)]
  refine ⟨_, rfl, ?_⟩
  exact (congrArg (fun c : Ctx => c.get (0x028 + i)) (s.ctx_setCtx_self cid (pokeReg i v c))).trans (Ctx.get_set_self ..)

theorem hostProbe_log {n : Nat} {v : Word} (hfit : v.toNat + n ≤ Config.hbmBytes) :
    ∃ t, execHostProbe cid 4 n v s = .next t ∧ (t.core (coreOfCid cid)).log = ⟨true, v.toNat, n, 0, 0, 0, false⟩ := by
  unfold execHostProbe
  dsimp only
  rw [if_neg (Nat.not_le.2 hcore), if_neg (Nat.not_lt.2 hfit)]
  exact ⟨_, rfl, congrArg Core.log (State.core_setCore_self s _ _)⟩

theorem hostProbe_replays (v : Word) :
    (∃ t, execHostProbe cid 5 0 v s = .next t ∧ (t.core (coreOfCid cid)).replay = some 0) ∧
      (∃ t, execHostProbe cid 6 0 v s = .next t ∧ (t.core (coreOfCid cid)).replay = none) := by
  have hset (k : Core) : ((s.setCore (coreOfCid cid) k).tell [0, 0]).core (coreOfCid cid) = k := State.core_setCore_self s _ k
  refine ⟨⟨_, ?_, congrArg Core.replay (hset { s.core (coreOfCid cid) with
    log := { (s.core (coreOfCid cid)).log with on := false, cyc := 0 }, replay := some 0 })⟩,
    ⟨_, ?_, congrArg Core.replay (hset { s.core (coreOfCid cid) with replay := none })⟩⟩
  all_goals
    unfold execHostProbe
    exact if_neg (Nat.not_le.2 hcore)

end

/-- The next logged event takes effect once the core has reached its CYC. -/
theorem replayInject_goes {s : State} {core i : Nat} (hreplay : (s.core core).replay = some i)
    (hfit : 32 * (i + 1) ≤ (s.core core).log.size) (hkind : s.rdH ((s.core core).log.base + 32 * i + 15) 1 ≠ 0)
    (hdue : s.rdH ((s.core core).log.base + 32 * i) 8 ≤ (s.core core).log.cyc) :
    ∃ t, execReplayInject core s = .next t ∧ (t.core core).replay =
      some (i + 1 + (bitsOf (s.rdH ((s.core core).log.base + 32 * i + 8) 8) 32 24 + 31) / 32) := by
  unfold execReplayInject
  dsimp only
  rw [hreplay]
  dsimp only
  rw [if_neg (by omega)]
  exact ⟨_, rfl, congrArg Core.replay (State.core_setCore_self _ core _)⟩

/-- Settles O50: the recorder's life, the host's probe, a replay's next event, and what each readout returns. -/
theorem recorderAndReadout : Obligations.RecorderAndReadout := by
  unfold Obligations.RecorderAndReadout
  intro s die core cid v
  refine ⟨fun r hr => ⟨fun htrig hleft hfroz => ?_, fun hfroz => ?_⟩, fun arg hcl hdie hread => ?_, fun arg => ?_, fun op i hno => ?_,
    fun hcore => ⟨?_, fun hstop => ?_, fun i hi hc => ?_, fun n hfit => ?_, ?_⟩, fun hnone => ?_, fun i hreplay => ?_, fun hcore => ?_,
    fun hno => ?_, fun i hi => ?_, ?_, fun first count hfit => ?_⟩
  · rw [exec_recorderFreeze, execRecorderFreeze, hr]
    exact if_pos ⟨htrig, hleft, Bool.eq_false_iff.1 hfroz⟩
  · rw [exec_record, execRecord, hr]
    exact if_neg (not_not.2 hfroz)
  · rw [exec_record, execRecord]
    rw [if_neg (fun h => h.elim (fun h => absurd hcl (Nat.not_lt.2 h)) (fun h => h hdie)), if_neg (Bool.eq_false_iff.1 hread)]
  · rw [exec_record, execRecord]
  · rw [exec_hostProbe]
    unfold execHostProbe
    exact if_pos hno
  · rw [exec_hostProbe, execHostProbe]
    exact if_neg (Nat.not_le.2 hcore)
  · rw [exec_hostProbe, execHostProbe]
    exact (if_neg (Nat.not_le.2 hcore)).trans (if_pos hstop)
  · rw [exec_hostProbe]
    exact hostProbe_pokes hcore hi hc
  · rw [exec_hostProbe]
    exact hostProbe_log hcore hfit
  · rw [exec_hostProbe, exec_hostProbe]
    exact hostProbe_replays hcore v
  · rw [exec_replayInject, execReplayInject, hnone]
  · intro a kind n hfit hkind hdue
    rw [exec_replayInject]
    exact replayInject_goes hreplay hfit hkind hdue
  · rw [exec_readout, execReadout]
    exact if_neg (by simp [State.readable, hcore])
  · rw [exec_readout, execReadout]
    exact if_pos (by simp [State.readable, hno])
  · rw [exec_readout, execReadout]
    exact ⟨_, _, if_neg (by simp [State.readable, hi])⟩
  · rw [exec_blackBoxRead]
    exact ⟨_, rfl, rfl, rfl⟩
  · rw [exec_estateRead, execEstateRead]
    exact if_neg (Nat.not_lt.2 hfit)

end Sys2Proof.Machine

/-! PROOFS. The host's commands on the device, its partitions and its groups, and a refutation: a command on a wavelength that no fibre carries is refused. -/

namespace Sys2Proof.Machine

/-! ## The host's commands (27 R386 to R392, 29 R411 to R419) -/

section
variable (s : State) (part : Nat) (body sig : List Byte)

theorem exec_image : exec (.image body sig) s = execImage body sig s := by rfl
theorem exec_root (pa : Nat) : exec (.root pa) s = execRoot pa s := by rfl
theorem exec_handle (i v : Nat) : exec (.handle part i v) s = execHandle part i v s := by rfl
theorem exec_stream (port n : Nat) : exec (.stream part port n) s = execStream part port n s := by rfl
theorem exec_partitionCreate (clus : List Nat) (root : Nat × List (Nat × Nat)) :
    exec (.partitionCreate part body clus root) s = execPartitionCreate part body clus root s := by rfl
theorem exec_partitionDestroy : exec (.partitionDestroy part) s = execPartitionDestroy part s := by rfl
theorem exec_policy : exec (.policy part body sig) s = execPolicy part body sig s := by rfl
theorem exec_hostLaunch : exec (.hostLaunch part body) s = execHostLaunch part body s := by rfl
theorem exec_hostKill (h : Nat) : exec (.hostKill h) s = execHostKill h s := by rfl
theorem exec_invalidate (h va n : Nat) : exec (.invalidate h va n) s = execInvalidate h va n s := by rfl
theorem exec_quote : exec (.quote part body) s = execQuote part body s := by rfl
theorem exec_bulkWrite (pa : Nat) : exec (.bulkWrite pa body) s = execBulkWrite pa body s := by rfl
theorem exec_bulkRead (pa n : Nat) : exec (.bulkRead pa n) s = execBulkRead pa n s := by rfl
theorem exec_wavelengthLight (l i : Nat) (hank : Bool) : exec (.wavelengthLight l i hank) s = execWavelengthLight l i hank s := by rfl

end

section
variable {s : State} {part : Nat} {p : Part} {body sig : List Byte}

/-- IMAGE with a good signature brings the device up; one with a bad signature is answered 4. -/
theorem image_gives (hboot : s.boot = .waiting) :
    (Config.lmsVerify Config.romKey (leBytes 32 (Config.sha256 body).toNat) sig = true →
      ∃ t, execImage body sig s = .next t ∧ t.boot = .up ∧ t.fwDigest = Config.sha256 body) ∧
    (Config.lmsVerify Config.romKey (leBytes 32 (Config.sha256 body).toNat) sig = false →
      execImage body sig s = .next (s.tell [0, 4])) := by
  have hdown : ¬ s.boot = .up := by rw [hboot]; decide
  unfold execImage
  dsimp only
  rw [if_neg hdown]
  exact ⟨fun hgood => ⟨_, if_neg (not_not.2 hgood), rfl, rfl⟩, fun hbad => if_pos (Bool.eq_false_iff.1 hbad)⟩

/-- PARTITION_CREATE of a free key with one free cluster makes a LIVE partition. -/
theorem partitionCreate_makes {key cl : Nat} {root : Nat × List (Nat × Nat)} (hkey : key ≠ 0) (hwide : key < 2 ^ 16)
    (hnew : mget s.parts key = none) (hroom : s.parts.length < 256) (hcl : cl < Config.clusters)
    (hfree : s.parts.any (fun q => q.2.clus.contains cl) = false) (hroot : ∀ x ∈ root.2, x.1 < 4096) :
    ∃ t q, execPartitionCreate key body [cl] root s = .next t ∧ mget t.parts key = some q ∧ q.state = .live ∧ q.clus = [cl] ∧
      q.root = root.1 ∧ q.handles = root.2.foldl (fun m x => mput m x.1 (x.2 % 2 ^ 64)) [] ∧ q.policy = none := by
  have hentries : root.2.any (fun x => decide (4096 ≤ x.1)) = false :=
    List.any_eq_false.2 fun x hx => by simpa using hroot x hx
  have hclus : [cl].any (fun c => decide (Config.clusters ≤ c) || s.parts.any (fun q => q.2.clus.contains c)) = false := by
    rw [List.any_cons, List.any_nil, hfree, decide_eq_false (Nat.not_le.2 hcl)]
    rfl
  unfold execPartitionCreate
  refine ⟨_, _, if_neg ?_, mget_mput_self _ _ _, rfl, rfl, rfl, rfl, rfl⟩
  rintro (h | h | h | h | h | h | h)
  · exact hkey h
  · omega
  · rw [hnew] at h
    cases h
  · omega
  · cases h
  · exact Bool.eq_false_iff.1 hentries h
  · exact Bool.eq_false_iff.1 hclus h

/-- A partition that is CLOSING and has no group left is gone. -/
theorem State.tryClose_removes (hp : mget s.parts part = some p) (hclosing : p.state = .closing) (hno : s.groups = []) :
    mget (s.tryClose part).parts part = none := by
  unfold State.tryClose
  rw [hp]
  dsimp only
  rw [if_neg (by rw [hclosing, hno]; simp)]
  exact mget_mdel_self _ _

/-- PARTITION_DESTROY of a partition where no group is left removes it. -/
theorem partitionDestroy_removes (hp : mget s.parts part = some p) (hlive : p.state = .live) (hno : s.groups = []) :
    ∃ t, execPartitionDestroy part s = .next t ∧ mget t.parts part = none := by
  let u : State := { s with parts := mput s.parts part { p with state := .closing } }
  have hnone : (s.groups.filter (fun g => g.2.part == part)).map (fun g => g.2.handle) = [] := by rw [hno]; rfl
  refine ⟨(u.tryClose part).tell [0, 0], ?_, State.tryClose_removes (s := u) (mget_mput_self _ _ _) rfl hno⟩
  unfold execPartitionDestroy
  rw [hp]
  dsimp only
  rw [if_neg (by rw [hlive]; decide), hnone]
  rfl

/-- POLICY installs a body that passes its checks, and answers another with the check it fails. -/
theorem policy_gives (hp : mget s.parts part = some p) (hlive : p.state = .live) :
    (policyCheck part p body sig = 0 → ∃ t q, execPolicy part body sig s = .next t ∧ mget t.parts part = some q ∧ q.policy = some body) ∧
      (policyCheck part p body sig ≠ 0 → execPolicy part body sig s = .next (s.tell [0, policyCheck part p body sig])) := by
  unfold execPolicy
  rw [hp]
  dsimp only
  rw [if_neg (by rw [hlive]; decide)]
  generalize policyCheck part p body sig = k
  cases k with
  | zero => exact ⟨fun _ => ⟨_, _, rfl, mget_mput_self _ _ _, rfl⟩, fun h => absurd rfl h⟩
  | succ k => exact ⟨fun h => (Nat.succ_ne_zero k h).elim, fun _ => rfl⟩

/-- A group submitted by the host is SUBMITTED under the new handle. -/
theorem State.submit_leaves (s : State) (hdr : Header) (part : Nat) :
    ∃ g, (s.submit hdr 0 part true).1.grp s.newHandle = some g ∧ g.state = .submitted ∧ g.fromHost = true := by
  let g : Group :=
    { handle := s.newHandle, seq := s.uid, pre := [], parent := 0, part := part, state := .submitted, cause := 0, hdr := hdr,
      members := (upTo (hdr.wx * hdr.hy)).map (fun _ => Member.blank), wdCount := 0, wdDue := false, unplaced := [], images := [],
      overflow := [], overflowFills := [], overflowBcasts := [], lgrp := 0, walkKind := 0, fromHost := true }
  exact ⟨g, s.grp_setGrp_self g, rfl, rfl⟩

theorem State.submit_hostOut (s : State) (hdr : Header) (part : Nat) : (s.submit hdr 0 part true).1.hostOut = s.hostOut := rfl

/-- HOST_LAUNCH submits a group whose header passes, as the host's. -/
theorem hostLaunch_submits (hp : mget s.parts part = some p) (hlive : p.state = .live) (hup : s.boot = .up)
    (hcode : s.launchCode ((upTo 16).map (dwOf body)) part true none = 0) : execHostLaunch part body s =
      .next ((s.submit (parseHeader ((upTo 16).map (dwOf body))) 0 part true).1.tell [0, 0, s.newHandle]) := by
  simp only [execHostLaunch, hup, hp, hlive, hcode, State.submit, ne_eq, not_true_eq_false, if_false, reduceCtorEq]

/-- HOST_LAUNCH answers a header that fails with the code of its check. -/
theorem hostLaunch_refused (hp : mget s.parts part = some p) (hlive : p.state = .live) (hup : s.boot = .up)
    (hcode : s.launchCode ((upTo 16).map (dwOf body)) part true none ≠ 0) : execHostLaunch part body s =
      .next (s.tell [0, s.launchCode ((upTo 16).map (dwOf body)) part true none]) := by
  simp only [execHostLaunch, hup, hp, hlive, ne_eq, not_true_eq_false, if_false, reduceCtorEq]

/-- QUOTE of a nonce of 32 bytes uses one signature. -/
theorem quote_uses (hp : (mget s.parts part).isSome = true) (hleft : s.sigsLeft ≠ 0) (hlen : body.length = 32) :
    ∃ t, execQuote part body s = .next t ∧ t.sigsLeft + 1 = s.sigsLeft := by
  unfold execQuote
  rw [if_neg hleft, if_neg (by rw [hlen, Option.isNone_eq_false_iff.2 hp]; simp)]
  exact ⟨_, rfl, Nat.succ_pred_eq_of_ne_zero hleft⟩

/-- BULK_WRITE stores its bytes and no others. -/
theorem bulkWrite_stores {pa : Nat} (hfit : pa + body.length ≤ Config.hbmBytes) :
    ∃ t, execBulkWrite pa body s = .next t ∧ readBytes t.hbm pa body.length = body ∧
      (∀ x, x < pa ∨ pa + body.length ≤ x → byteAt t.hbm x = byteAt s.hbm x) :=
  ⟨_, if_neg (Nat.not_lt.2 hfit), readBytes_writeBytes_self body s.hbm pa, fun x hx => byteAt_writeBytes_ne body s.hbm pa x hx⟩

end

/-- Settles O51: each command of the host on the device, a partition or a group, by its own lemma. -/
theorem hostCommands : Obligations.HostCommands := by
  unfold Obligations.HostCommands
  intro s part body sig ok
  refine ⟨fun hboot => ?_, fun pa halign hfit => ?_, fun p i v hp hi => ?_, fun p port n hp hport => ?_, fun v => rfl,
    fun i v => ⟨rfl, rfl⟩, fun d => rfl, fun key cl root hkey hwide hnew hroom hcl hfree hroot => ?_, fun p hp hlive hno => ?_,
    fun p hp hlive => ?_, fun p hp hlive hup => ?_, fun h g hg => ?_, fun h va n => ?_, fun hp hleft hlen => ?_, fun pa hfit => ?_,
    fun pa n hfit => ?_⟩
  · rw [exec_image]
    exact image_gives hboot
  · rw [exec_root]
    exact if_neg fun h => h.elim (fun h => h halign) (Nat.not_le.2 hfit)
  · rw [exec_handle, execHandle, hp]
    exact if_neg (Nat.not_le.2 hi)
  · rw [exec_stream, execStream, hp]
    exact if_neg (Nat.not_le.2 hport)
  · rw [exec_partitionCreate]
    exact partitionCreate_makes hkey hwide hnew hroom hcl hfree hroot
  · rw [exec_partitionDestroy]
    exact partitionDestroy_removes hp hlive hno
  · rw [exec_policy]
    exact policy_gives hp hlive
  · rw [exec_hostLaunch]
    refine ⟨fun hcode => ?_, hostLaunch_refused hp hlive hup⟩
    obtain ⟨g, hg, hstate, hhost⟩ := s.submit_leaves (parseHeader ((upTo 16).map (dwOf body))) part
    exact ⟨_, g, hostLaunch_submits hp hlive hup hcode, hg, hstate, hhost, congrArg (· ++ [[0, 0, s.newHandle]]) (s.submit_hostOut ..)⟩
  · rw [exec_hostKill, execHostKill, hg]
  · intro hit t ranges used
    rw [exec_invalidate]
    exact ⟨fun hnone => if_pos (List.isEmpty_iff.2 hnone), fun hsome => if_neg fun h => hsome (List.isEmpty_iff.1 h)⟩
  · rw [exec_quote]
    exact quote_uses hp hleft hlen
  · rw [exec_bulkWrite]
    exact bulkWrite_stores hfit
  · rw [exec_bulkRead]
    exact if_neg (Nat.not_lt.2 hfit)

/-! ## Wavelengths that no fibre carries (24 R356, R360) -/

/-- A command on a wavelength of a fibre beyond the last one is refused, whatever that wavelength's entry reads as. -/
theorem State.wlCommand_noFibre (s : State) (c : WlCmd) {l : Nat} (i : Nat) (hank : Bool) (hl : linkCount ≤ l) :
    s.wlCommand c l i hank = (s, 2) := by
  unfold State.wlCommand
  exact if_pos (.inr (.inl hl))

/-- Refutes O52: at reset fibre 128, which does not exist, has no entry, so that its wavelength 0 reads as parked; WAVELENGTH_LIGHT
of it is refused with code 2 and leaves it parked, where the statement, made for every fibre number, has it waking. -/
theorem not_powerAndReset : ¬ Obligations.PowerAndReset := by
  unfold Obligations.PowerAndReset
  intro h
  obtain ⟨-, -, -, -, -, -, -, -, -, -, ⟨-, hlight, -⟩, -⟩ := h State.reset 0 128 0
  obtain ⟨t, hstep, hwaking⟩ := hlight rfl
  rw [exec_wavelengthLight, execWavelengthLight, hostWl, State.wlCommand_noFibre _ _ _ _ (Nat.le_refl 128)] at hstep
  have ht : State.reset.tell [0, 2] = t := Host.Outcome.next.inj hstep
  subst ht
  exact absurd hwaking (by decide)

end Sys2Proof.Machine

/-! PROOFS. The canonical form of both memories (01, 08) under the shared operations of the state, from a single write up to a trap's entry.
Each rule says that an operation keeps the form; `simp` chains them through a composition, so that a function's rule follows from its cases. -/

namespace Sys2Proof.Machine

/-! ## The predicate on states written out, on folds and on outcomes -/

/-- Of a state written out field by field only the memories count. -/
@[simp] theorem State.mk_memOk {spad hbm}
    {c1 c2 c3 c4 c5 c6 c7 c8 c9 c10 c11 c12 c13 c14 c15 c16 c17 c18 c19 c20 c21 c22 c23 c24 c25 c26 c27 c28 c29 c30
     c31 c32 c33 c34 c35 c36 c37 c38 c39 c40 c41 c42 c43 c44 c45 c46 c47 c48 c49 c50 c51 c52 c53 c54 c55 c56 c57 c58} :
    (State.mk spad hbm c1 c2 c3 c4 c5 c6 c7 c8 c9 c10 c11 c12 c13 c14 c15 c16 c17 c18 c19 c20 c21 c22 c23 c24 c25 c26 c27 c28
      c29 c30 c31 c32 c33 c34 c35 c36 c37 c38 c39 c40 c41 c42 c43 c44 c45 c46 c47 c48 c49 c50 c51 c52 c53 c54 c55 c56 c57
      c58).memOk = (Memory.wf spad && Memory.wf hbm) := rfl

@[simp] theorem State.memOk_fold (s : State) : (Memory.wf s.spad && Memory.wf s.hbm) = s.memOk := rfl

/-- A fold whose every step leaves the predicate alone leaves it alone. -/
@[simp] theorem foldl_memOk_eq {β : Type} {f : State → β → State} (hf : ∀ s b, (f s b).memOk = s.memOk) (l : List β) (s : State) :
    (l.foldl f s).memOk = s.memOk :=
  foldl_keeps (p := State.memOk) hf l s

/-- A fold whose every step keeps the form keeps it. -/
theorem foldl_memOk {β : Type} {f : State → β → State} {s : State} (hm : s.memOk = true)
    (hf : ∀ s b, s.memOk = true → (f s b).memOk = true) (l : List β) : (l.foldl f s).memOk = true := by
  induction l generalizing s with
  | nil => exact hm
  | cons b l ih => exact ih (hf s b hm)

@[simp] theorem ite_memOk {c : Prop} [Decidable c] (s t : State) : (if c then s else t).memOk = if c then s.memOk else t.memOk :=
  apply_ite State.memOk c s t

/-- An outcome whose next state, if there is one, has both memories in canonical form. -/
def outOk : Out → Bool
  | .next t => t.memOk
  | _ => true

@[simp] theorem outOk_next (t : State) : outOk (.next t) = t.memOk := rfl
@[simp] theorem outOk_fault (r : Fault) : outOk (.fault r) = true := rfl
@[simp] theorem outOk_refused (r : Refusal) : outOk (.refused r) = true := rfl

@[simp] theorem ite_outOk {c : Prop} [Decidable c] (o p : Out) : outOk (if c then o else p) = if c then outOk o else outOk p :=
  apply_ite outOk c o p

section
variable {s : State}

/-! ## Bytes, contexts, cores, clusters and groups -/

@[simp] theorem State.wrS_memOk (hm : s.memOk = true) (core off n v : Nat) : (s.wrS core off n v).memOk = true :=
  s.memOk_wrS hm ..

@[simp] theorem State.wrBytesS_memOk (hm : s.memOk = true) (core off : Nat) (bs : List Byte) : (s.wrBytesS core off bs).memOk = true :=
  s.memOk_wrBytesS hm ..

@[simp] theorem State.setTag_memOk (core off : Nat) (f : Bool) : (s.setTag core off f).memOk = s.memOk := by
  simp [State.setTag]

@[simp] theorem State.wrH_memOk (hm : s.memOk = true) (pa n v : Nat) : (s.wrH pa n v).memOk = true :=
  s.memOk_wrH hm ..

@[simp] theorem State.setCtx_memOk (cid : Nat) (c : Ctx) : (s.setCtx cid c).memOk = s.memOk := by
  simp [State.setCtx]

@[simp] theorem State.updCtx_memOk (cid : Nat) (f : Ctx → Ctx) : (s.updCtx cid f).memOk = s.memOk := by
  unfold State.updCtx
  split <;> simp

@[simp] theorem State.setCx_memOk (c : Ctx) : (s.setCx c).memOk = s.memOk := by
  simp [State.setCx]

@[simp] theorem State.setCore_memOk (n : Nat) (c : Core) : (s.setCore n c).memOk = s.memOk := by
  simp [State.setCore]

@[simp] theorem State.setCluster_memOk (n : Nat) (c : Cluster) : (s.setCluster n c).memOk = s.memOk := by
  simp [State.setCluster]

@[simp] theorem State.setGrp_memOk (g : Group) : (s.setGrp g).memOk = s.memOk := by
  simp [State.setGrp]

@[simp] theorem State.updMember_memOk (h v : Nat) (f : Member → Member) : (s.updMember h v f).memOk = s.memOk := by
  unfold State.updMember
  split <;> simp

@[simp] theorem State.updMem_memOk (f : Member → Member) : (s.updMem f).memOk = s.memOk := by
  simp [State.updMem]

@[simp] theorem State.setW_memOk (hm : s.memOk = true) (i : BitVec 4) (v : Word) : (s.setW i v).memOk = true := by
  simp [State.setW, hm]

@[simp] theorem State.fresh_memOk : (s.fresh).memOk = s.memOk := by
  simp [State.fresh]

@[simp] theorem State.placeFill_memOk (core h v : Nat) : (s.placeFill core h v).memOk = s.memOk := by
  simp [State.placeFill]

@[simp] theorem State.flyFrom_memOk (core : Option Nat) (c : Cargo) : (s.flyFrom core c).memOk = s.memOk := by
  simp [State.flyFrom]

@[simp] theorem State.fly_memOk (c : Cargo) : (s.fly c).memOk = s.memOk := by
  simp [State.fly]

@[simp] theorem State.land_memOk (id : Nat) : (s.land id).memOk = s.memOk := by
  simp [State.land]

@[simp] theorem State.refly_memOk (id : Nat) (c : Cargo) : (s.refly id c).memOk = s.memOk := by
  simp [State.refly]

@[simp] theorem State.reflyFrom_memOk (core id : Nat) (c : Cargo) : (s.reflyFrom core id c).memOk = s.memOk := by
  simp [State.reflyFrom]

@[simp] theorem State.addCerrOn_memOk (core n : Nat) : (s.addCerrOn core n).memOk = s.memOk := by
  simp [State.addCerrOn]

@[simp] theorem State.softRead_memOk (core : Nat) (l : Loc) (n : Nat) : (s.softRead core l n).memOk = s.memOk := by
  simp [State.softRead]

@[simp] theorem State.niRead_memOk (core off n : Nat) : (s.niRead core off n).memOk = s.memOk := by
  simp [State.niRead]

/-! ## Translations (08 R163) -/

@[simp] theorem State.setAD_memOk (hm : s.memOk = true) (leaf : Nat) (acc : Acc) : (s.setAD leaf acc).memOk = true := by
  simp [State.setAD, hm]

@[simp] theorem State.tlbFill_memOk (core : Nat) (t : Tlb) : (s.tlbFill core t).memOk = s.memOk := by
  simp [State.tlbFill]

@[simp] theorem State.useXl_memOk (hm : s.memOk = true) (core h va : Nat) (acc : Acc) : (s.useXl core h va acc).memOk = true := by
  unfold State.useXl
  split <;> simp [hm]

@[simp] theorem State.tlbDrop_memOk (p : Tlb → Bool) : (s.tlbDrop p).memOk = s.memOk := by
  simp [State.tlbDrop]

/-! ## Accesses on their way -/

@[simp] theorem State.remoteMark_memOk (hm : s.memOk = true) (part group : Nat) (sup : Bool) (va : Nat) (acc : Acc) :
    (s.remoteMark part group sup va acc).memOk = true := by
  simp only [State.remoteMark]
  repeat' split
  all_goals simp [hm]

@[simp] theorem State.endMemberFwd_memOk : (s.endMemberFwd).memOk = s.memOk := by
  simp [State.endMemberFwd]

@[simp] theorem State.markRel_memOk (cid scope : Nat) : (s.markRel cid scope).memOk = s.memOk := by
  simp [State.markRel]

@[simp] theorem State.countPermitStall_memOk (cl plane : Nat) : (s.countPermitStall cl plane).memOk = s.memOk := by
  simp [State.countPermitStall]

@[simp] theorem State.noteHeld_memOk (id core : Nat) (l : Loc) : (s.noteHeld id core l).memOk = s.memOk := by
  simp [State.noteHeld]

@[simp] theorem State.noteSlept_memOk (id core : Nat) (l : Loc) : (s.noteSlept id core l).memOk = s.memOk := by
  simp [State.noteSlept]

@[simp] theorem State.noteStall_memOk (cid : Nat) (l : Loc) : (s.noteStall cid l).memOk = s.memOk := by
  simp [State.noteStall]

/-! ## Records, walks, departures, traps, and the ends of an instruction -/

@[simp] theorem State.markPresent_memOk (part cat : Nat) : (s.markPresent part cat).memOk = s.memOk := by
  unfold State.markPresent
  split <;> simp

@[simp] theorem State.bbPut_memOk (t kind cause key mid val aux : Nat) : (s.bbPut t kind cause key mid val aux).memOk = s.memOk := by
  simp [State.bbPut]

@[simp] theorem State.bbox_memOk (kind cause key mid val aux : Nat) : (s.bbox kind cause key mid val aux).memOk = s.memOk := by
  simp only [State.bbox]
  repeat' split
  all_goals simp

@[simp] theorem State.supRec_memOk (part : Nat) (r : Rec) : (s.supRec part r).memOk = s.memOk := by
  simp only [State.supRec]
  repeat' split
  all_goals simp

@[simp] theorem State.tell_memOk (v : List Nat) : (s.tell v).memOk = s.memOk := by
  simp [State.tell]

@[simp] theorem State.progress_memOk (h : Nat) : (s.progress h).memOk = s.memOk := by
  unfold State.progress
  split <;> simp

@[simp] theorem State.countEv_memOk (code n : Nat) : (s.countEv code n).memOk = s.memOk := by
  simp [State.countEv]

@[simp] theorem State.putReq_memOk (r : Req) : (s.putReq r).memOk = s.memOk := by
  simp [State.putReq]

@[simp] theorem State.startWalk_memOk (core h va : Nat) : (s.startWalk core h va).memOk = s.memOk := by
  simp [State.startWalk]

@[simp] theorem State.startWalks_memOk (ps : List (Nat × Acc)) : (s.startWalks ps).memOk = s.memOk := by
  simp [State.startWalks]

@[simp] theorem State.wrQ_memOk (hm : s.memOk = true) (core off v : Nat) : (s.wrQ core off v).memOk = true := by
  simp [State.wrQ, hm]

@[simp] theorem State.freeze_memOk (hm : s.memOk = true) (h v cause entry tval tpc vcore : Nat) :
    (s.freeze h v cause entry tval tpc vcore).memOk = true := by
  unfold State.freeze
  dsimp only
  split
  · exact hm
  · split
    · simp [hm]
    · exact State.wrQ_memOk (State.wrQ_memOk (State.wrQ_memOk (State.wrQ_memOk (by simp [hm]) ..) ..) ..) ..

@[simp] theorem State.wrDws_memOk (hm : s.memOk = true) (core off : Nat) (ds : List Word) : (s.wrDws core off ds).memOk = true :=
  s.memOk_wrDws core ds off hm

@[simp] theorem State.wrOwn_memOk (hm : s.memOk = true) (cid off v : Nat) : (s.wrOwn cid off v).memOk = true :=
  s.memOk_wrOwn hm ..

@[simp] theorem State.putHeader_memOk (hm : s.memOk = true) (cid : Nat) (pc : Word) : (s.putHeader cid pc).memOk = true :=
  s.memOk_putHeader hm ..

@[simp] theorem State.putRecord_memOk (hm : s.memOk = true) (cid : Nat) (pc : Word) : (s.putRecord cid pc).memOk = true := by
  exact foldl_memOk hm (fun s x hs => State.wrOwn_memOk hs ..) _

@[simp] theorem State.getHeader_memOk (cid : Nat) : (s.getHeader cid).memOk = s.memOk := by
  simp [State.getHeader]

@[simp] theorem State.leaveRep_memOk (hm : s.memOk = true) (cid : Nat) : (s.leaveRep cid).memOk = true :=
  s.memOk_leaveRep hm ..

@[simp] theorem State.unrun_memOk (cid : Nat) : (s.unrun cid).memOk = s.memOk := by
  simp [State.unrun]

@[simp] theorem State.depart_memOk (hm : s.memOk = true) (cid : Nat) (pc : Word) (st : CtxState) : (s.depart cid pc st).memOk = true :=
  s.memOk_depart hm ..

@[simp] theorem State.setSeq_memOk (core : Nat) (f : Seq → Seq) : (s.setSeq core f).memOk = s.memOk := by
  simp [State.setSeq]

@[simp] theorem State.block_memOk (hm : s.memOk = true) (w : Wait) : (s.block w).memOk = true := by
  simp [State.block, hm]

@[simp] theorem State.entryFailure_memOk (hm : s.memOk = true) (cause : Nat) (tval tpc : Word) :
    (s.entryFailure cause tval tpc).memOk = true := by
  simp [State.entryFailure, hm]

@[simp] theorem State.copyFault_memOk (hm : s.memOk = true) (cause : Nat) (tval tpc : Word) :
    (s.copyFault cause tval tpc).memOk = true := by
  simp [State.copyFault, hm]

@[simp] theorem State.boxEcc_memOk (cause : Nat) (tval : Word) : (s.boxEcc cause tval).memOk = s.memOk := by
  simp [State.boxEcc]

/-- A line fetched leaves at most accessed bits of its page behind. -/
theorem State.fetch_ok_memOk (hm : s.memOk = true) {cid pc : Nat} {l : Line} {u : State} (hu : s.fetch cid pc = .ok l u) :
    u.memOk = true := by
  unfold State.fetch at hu
  dsimp only at hu
  split at hu
  · cases hu
  · repeat' split at hu
    all_goals cases hu
    all_goals simp [hm]

theorem State.fetch_wait_memOk {cid pc : Nat} {u : State} (hu : s.fetch cid pc = .wait u) : u.memOk = s.memOk := by
  unfold State.fetch at hu
  dsimp only at hu
  repeat' split at hu
  all_goals cases hu
  all_goals simp

theorem State.trapWait_memOk {t : State} (ht : s.trapWait = some t) : t.memOk = s.memOk := by
  unfold State.trapWait at ht
  dsimp only at ht
  split at ht
  · cases ht
  · split at ht
    · cases ht
    · cases ht
      simp
    · next hu =>
      cases ht
      exact State.fetch_wait_memOk hu
    · split at ht
      · cases ht
        rfl
      · cases ht

@[simp] theorem State.freezeFor_memOk (hm : s.memOk = true) (cause : Nat) (tval tpc : Word) :
    (s.freezeFor cause tval tpc).memOk = true := by
  simp [State.freezeFor, hm]

@[simp] theorem State.takeTrap_memOk (hm : s.memOk = true) (cause : Nat) (tval tpc : Word) : (s.takeTrap cause tval tpc).memOk = true := by
  unfold State.takeTrap
  split
  · simp [hm]
  · split
    · next t ht => rw [State.trapWait_memOk ht, hm]
    · dsimp only
      have hfroze : ((s.freezeFor cause tval tpc).boxEcc cause tval).memOk = true := by simp [hm]
      split
      · simp [hfroze]
      · split
        · next l u hu =>
          have hu' : u.memOk = true := State.fetch_ok_memOk hfroze hu
          simp (disch := simp [hu'])
        · simp [hfroze]

@[simp] theorem trap_outOk (hm : s.memOk = true) (cause : Nat) (tval : Word) : outOk (trap s cause tval) = true := by
  simp [trap, hm]

@[simp] theorem operandTrap_outOk (hm : s.memOk = true) (i : Instr) : outOk (operandTrap s i) = true := by
  simp [operandTrap, hm]

@[simp] theorem operandTrapOf_outOk (hm : s.memOk = true) (x : Nat × Nat) : outOk (operandTrapOf s x) = true := by
  simp [operandTrapOf, hm]

@[simp] theorem State.advance_memOk (hm : s.memOk = true) : (s.advance).memOk = true :=
  s.memOk_advance hm ..

@[simp] theorem done_outOk (hm : s.memOk = true) : outOk (done s) = true := by
  simp [done, hm]

@[simp] theorem stall_outOk (hm : s.memOk = true) : outOk (stall s) = true := by
  simp [stall, hm]

@[simp] theorem blocked_outOk (hm : s.memOk = true) (w : Wait) : outOk (blocked s w) = true := by
  simp [blocked, hm]

@[simp] theorem enterAndLink_outOk (hm : s.memOk = true) (t : Word) (link : Bool) : outOk (enterAndLink s t link) = true := by
  unfold enterAndLink
  split
  · simp [hm]
  · simp [hm]
  · next u hu => simp [State.fetch_wait_memOk hu, hm]
  · next l u hu =>
    have hu' : u.memOk = true := State.fetch_ok_memOk hm hu
    dsimp only
    split <;> simp [hu']

@[simp] theorem trapReturn_outOk (hm : s.memOk = true) : outOk (trapReturn s) = true := by
  simp [trapReturn, hm]

@[simp] theorem State.countSatOf_memOk (cid idx n : Nat) (op : Option Nat) : (s.countSatOf cid idx n op).memOk = s.memOk := by
  simp [State.countSatOf]

@[simp] theorem State.countSat_memOk (cid idx n : Nat) : (s.countSat cid idx n).memOk = s.memOk := by
  simp [State.countSat]

@[simp] theorem counting_outOk (n : Nat) {o : Out} (ho : outOk o = true) : outOk (counting n s o) = true := by
  unfold counting
  split
  · exact ho
  · split
    · next t => simpa using ho
    · exact ho

@[simp] theorem reading_outOk (hm : s.memOk = true) (rs : List (BitVec 4)) {k : State → Out} (hk : outOk (k s) = true) :
    outOk (reading rs s k) = true := by
  unfold reading
  split
  · simp [hm]
  · exact counting_outOk _ hk

end

end Sys2Proof.Machine

/-! PROOFS. Both memories stay in canonical form under the log of what a core receives, the reading of operands, scalar instructions, breakpoints and deferred traps, and holdings. -/

namespace Sys2Proof.Machine

section
variable {s : State}

/-! ## What a core receives, logged (28 R407) -/

theorem State.writeBytes_memOk (hm : s.memOk = true) (a : Nat) (bs : List Byte) :
    ({ s with hbm := writeBytes s.hbm a bs } : State).memOk = true := by
  simp only [State.memOk, Bool.and_eq_true] at hm ⊢
  exact ⟨hm.1, Memory.wf_writeBytes bs hm.2 a⟩

@[simp] theorem State.logRx_memOk (hm : s.memOk = true) (core kind : Nat) (o : Origin) (val : Nat) (ext : List Byte) :
    (s.logRx core kind o val ext).memOk = true := by
  unfold State.logRx
  extract_lets k l part g ext n
  split
  · exact hm
  · split
    · simp [hm]
    · split
      · simp [hm]
      · rw [State.setCore_memOk]
        exact State.writeBytes_memOk (State.wrH_memOk (State.wrH_memOk (State.wrH_memOk (State.wrH_memOk hm ..) ..) ..) ..) ..

@[simp] theorem State.logWrite_memOk (hm : s.memOk = true) (core kind : Nat) (o : Origin) (off : Nat) (full : Bool) (bs : List Byte) :
    (s.logWrite core kind o off full bs).memOk = true := by
  simp [State.logWrite, hm]

@[simp] theorem State.logDiff_memOk {t : State} (ht : t.memOk = true) (s : State) (core kind : Nat) (o : Origin) :
    (s.logDiff t core kind o).memOk = true := by
  unfold State.logDiff
  split
  · exact ht
  · exact foldl_memOk ht (fun u off hu => State.logRx_memOk hu ..) _

@[simp] theorem State.openAccount_memOk (core sender : Nat) : (s.openAccount core sender).memOk = s.memOk := by
  simp [State.openAccount]

@[simp] theorem State.noteDeposit_memOk (core slot sender sts : Nat) : (s.noteDeposit core slot sender sts).memOk = s.memOk := by
  simp [State.noteDeposit]

@[simp] theorem State.noteTaken_memOk (core slot : Nat) : (s.noteTaken core slot).memOk = s.memOk := by
  simp only [State.noteTaken]
  repeat' split
  all_goals simp

@[simp] theorem State.noteGiven_memOk (core slot : Nat) : (s.noteGiven core slot).memOk = s.memOk := by
  unfold State.noteGiven
  extract_lets k
  split
  · extract_lets
    split
    · exact State.setCore_memOk ..
    · exact (State.markPresent_memOk ..).trans (State.setCore_memOk ..)
    · exact (State.setCore_memOk ..).trans (State.setCore_memOk ..)
    · exact (State.setCore_memOk ..).trans (State.setCore_memOk ..)
  · rfl

/-! ## Operands and vector registers -/

@[simp] theorem checked_outOk (hm : s.memOk = true) (i : Instr) (k : Out) (hk : outOk k = true) : outOk (checked i s k) = true := by
  unfold checked
  repeat' split
  all_goals simp [hm, hk]

@[simp] theorem State.setV_memOk (hm : s.memOk = true) (r : Nat) (vals : List (Option Nat)) : (s.setV r vals).memOk = true := by
  refine foldl_memOk hm (fun t x ht => ?_) _
  split <;> simp [ht]

@[simp] theorem State.setK_memOk (hm : s.memOk = true) (r v : Nat) : (s.setK r v).memOk = true := by
  simp [State.setK, hm]

theorem readingV_outOk (hm : s.memOk = true) (offs : List (Nat × Nat)) {k : State → Out} (hk : outOk (k s) = true) :
    outOk (readingV offs s k) = true := by
  unfold readingV
  split
  · simp [hm]
  · exact counting_outOk _ hk

/-! ## Scalar instructions and transfers (06) -/

@[simp] theorem alu2_outOk (hm : s.memOk = true) (f : Word → Word → Word) (a b c : BitVec 4) : outOk (alu2 f a b c s) = true := by
  unfold alu2
  exact reading_outOk hm _ (by simp [hm])

@[simp] theorem alu1_outOk (hm : s.memOk = true) (f : Word → Word) (a b : BitVec 4) : outOk (alu1 f a b s) = true := by
  unfold alu1
  exact reading_outOk hm _ (by simp [hm])

@[simp] theorem aluI_outOk (hm : s.memOk = true) (f : Word → Word → Word) (a b : BitVec 4) (imm : BitVec 22) :
    outOk (aluI f a b imm s) = true := by
  unfold aluI
  exact reading_outOk hm _ (by simp [hm])

@[simp] theorem State.setPair_memOk (hm : s.memOk = true) (a : BitVec 4) (v : Nat) : (s.setPair a v).memOk = true := by
  simp [State.setPair, hm]

@[simp] theorem aluPair_outOk (hm : s.memOk = true) (f : Nat → Nat → Nat) (a b c : BitVec 4) : outOk (aluPair f a b c s) = true := by
  unfold aluPair
  exact reading_outOk hm _ (by simp [hm])

@[simp] theorem execNop_outOk (hm : s.memOk = true) (_a _b : BitVec 4) : outOk (execNop _a _b s) = true := by
  simp [execNop, hm]

@[simp] theorem execLi_outOk (hm : s.memOk = true) (a _b _c : BitVec 4) (imm : BitVec 32) : outOk (execLi a _b _c imm s) = true := by
  simp [execLi, hm]

@[simp] theorem execLih_outOk (hm : s.memOk = true) (a _b _c : BitVec 4) (imm : BitVec 32) : outOk (execLih a _b _c imm s) = true := by
  unfold execLih
  exact reading_outOk hm _ (by simp [hm])

@[simp] theorem execLiz_outOk (hm : s.memOk = true) (a _b _c : BitVec 4) (imm : BitVec 32) : outOk (execLiz a _b _c imm s) = true := by
  simp [execLiz, hm]

@[simp] theorem execLa_outOk (hm : s.memOk = true) (a _b _c : BitVec 4) (imm : BitVec 32) : outOk (execLa a _b _c imm s) = true := by
  simp [execLa, hm]

@[simp] theorem execMov_outOk (hm : s.memOk = true) (a b : BitVec 4) : outOk (execMov a b s) = true := by
  unfold execMov
  exact reading_outOk hm _ (by simp [hm])

@[simp] theorem execSel_outOk (hm : s.memOk = true) (a b c : BitVec 4) (imm : BitVec 6) : outOk (execSel a b c imm s) = true := by
  unfold execSel
  dsimp only
  exact reading_outOk hm _ (by simp [hm])

@[simp] theorem execSelz_outOk (hm : s.memOk = true) (a b c : BitVec 4) (imm : BitVec 6) : outOk (execSelz a b c imm s) = true := by
  unfold execSelz
  dsimp only
  exact reading_outOk hm _ (by simp [hm])

@[simp] theorem execJr_outOk (hm : s.memOk = true) (a _b _c : BitVec 4) (_imm : BitVec 6) : outOk (execJr a _b _c _imm s) = true := by
  unfold execJr
  exact reading_outOk hm _ (by simp [hm])

@[simp] theorem execCallr_outOk (hm : s.memOk = true) (a _b _c : BitVec 4) (_imm : BitVec 6) : outOk (execCallr a _b _c _imm s) = true := by
  unfold execCallr
  exact reading_outOk hm _ (by simp [hm])

@[simp] theorem branch_outOk (hm : s.memOk = true) (p : Word → Word → Bool) (rs : List (BitVec 4)) (a b : BitVec 4) (disp : BitVec 27) (slot : BitVec 5) :
    outOk (branch p rs a b disp slot s) = true := by
  unfold branch
  exact reading_outOk hm _ (by simp [hm])

/-! ## Breakpoints, watchpoints and deferred traps (11, 28) -/

@[simp] theorem State.trigger_memOk (die : Nat) (cl : Option Nat) : (s.trigger die cl).memOk = s.memOk := by
  unfold State.trigger
  split <;> simp

@[simp] theorem State.debugStop_memOk (hm : s.memOk = true) (tell : Bool) : (s.debugStop tell).memOk = true := by
  simp [State.debugStop, hm]

@[simp] theorem State.act_memOk (hm : s.memOk = true) (a cause tval : Nat) : (s.act a cause tval).1.memOk = true := by
  unfold State.act
  split <;> simp [hm]

@[simp] theorem State.backTo_memOk (hm : s.memOk = true) (pc : Nat) : (s.backTo pc).memOk = true := by
  unfold State.backTo
  split <;> simp [hm]

theorem State.dueTrap_memOk (hm : s.memOk = true) {t : State} (ht : s.dueTrap = some t) : t.memOk = true := by
  unfold State.dueTrap at ht
  dsimp only at ht
  split at ht
  · cases ht
  · split at ht
    · next hw =>
      cases ht
      exact (State.trapWait_memOk hw).trans hm
    · split at ht <;> cases ht <;> simp [hm]

theorem State.boundary_memOk (hm : s.memOk = true) {t : State} (ht : s.boundary = some t) : t.memOk = true := by
  unfold State.boundary at ht
  dsimp only at ht
  repeat' split at ht
  all_goals cases ht
  · simp [hm]
  · next hdue => exact State.dueTrap_memOk hm hdue
  · simp [hm]

/-! ## Holdings and the notice of bereavement (21) -/

@[simp] theorem State.storeS_memOk (hm : s.memOk = true) (core off : Nat) (bs : List Byte) : (s.storeS core off bs).memOk = true := by
  simp [State.storeS, hm]

@[simp] theorem State.holdingsOn_memOk (h v core : Nat) : (s.holdingsOn h v core).memOk = s.memOk := by
  simp [State.holdingsOn]

@[simp] theorem State.register_memOk (h kind heir : Nat) (o : Nat × Nat) : (s.register h kind heir o).1.memOk = s.memOk := by
  unfold State.register
  split <;> simp

@[simp] theorem State.unregister_memOk (i : Nat) : (s.unregister i).memOk = s.memOk := by
  simp [State.unregister]

@[simp] theorem State.noteBrv_memOk (o : Option (Nat × Nat)) (a : Word) : (s.noteBrv o a).memOk = s.memOk := by
  unfold State.noteBrv
  split <;> simp

@[simp] theorem State.noteBrvAt_memOk (l : Loc) (a : Word) : (s.noteBrvAt l a).memOk = s.memOk := by
  simp [State.noteBrvAt]

end

end Sys2Proof.Machine

/-! PROOFS. Both memories stay in canonical form under accesses and under writes of control registers. -/

namespace Sys2Proof.Machine

section
variable {s : State}

/-! ## Accesses that are performed or sent out (08, 09) -/

@[simp] theorem State.wr_memOk (hm : s.memOk = true) (l : Loc) (n v : Nat) : (s.wr l n v).memOk = true := by
  unfold State.wr
  split <;> simp [hm]

@[simp] theorem State.store_memOk (hm : s.memOk = true) (l : Loc) (n v : Nat) : (s.store l n v).memOk = true :=
  s.memOk_store hm ..

@[simp] theorem State.performAt_memOk (hm : s.memOk = true) (op : ReqOp) (l : Loc) (size origin : Nat) :
    (s.performAt op l size origin).1.memOk = true :=
  s.memOk_performAt hm ..

@[simp] theorem State.opRead_memOk (op : ReqOp) (core : Nat) (l : Loc) (n : Nat) : (s.opRead op core l n).memOk = s.memOk := by
  simp [State.opRead]

@[simp] theorem watched_outOk (hm : s.memOk = true) (rd wr : Bool) (bs : List (Nat × Nat)) (k : State → Out) (hk : ∀ u, u.memOk = true → outOk (k u) = true) :
    outOk (watched rd wr bs s k) = true := by
  unfold watched
  dsimp only
  split
  · exact hk s hm
  · split
    · exact hk s hm
    · next n _ =>
      have hact := s.act_memOk hm (s.cx.fld (0x02C + n) 61 2) xWatch ((s.cx.watchByte n rd wr bs).getD 0)
      split
      · next t ht => exact (congrArg (fun p : State × Bool => p.1.memOk) ht).symm.trans hact
      · next t ht => exact hk t ((congrArg (fun p : State × Bool => p.1.memOk) ht).symm.trans hact)

@[simp] theorem State.boxFar_memOk (vec : Bool) (k t : Nat) (xs : List (Elem × At)) : (s.boxFar vec k t xs).memOk = s.memOk := by
  unfold State.boxFar
  repeat' split
  all_goals simp

@[simp] theorem State.usePlace_memOk (a : At) : (s.usePlace a).memOk = s.memOk := by
  unfold State.usePlace
  split <;> simp

@[simp] theorem State.useTlb_memOk (hm : s.memOk = true) (e : Elem) (a : At) : (s.useTlb e a).memOk = true := by
  unfold State.useTlb
  split <;> simp [hm]

@[simp] theorem State.sendElem_memOk (hm : s.memOk = true) (batch scope : Nat) (after : List Nat) (x : Elem × At) :
    (s.sendElem batch scope after x).memOk = true := by
  simp [State.sendElem, hm]

@[simp] theorem State.sendAll_memOk (hm : s.memOk = true) (scope : Nat) (after : List Nat) (xs : List (Elem × At)) :
    (s.sendAll scope after xs).memOk = true := by
  simp +contextual [State.sendAll, hm, foldl_memOk]

@[simp] theorem State.landAll_memOk (hm : s.memOk = true) (core : Nat) (ws : List (Nat × Nat × Nat)) :
    (s.landAll core ws).memOk = true := by
  simp +contextual [State.landAll, hm, foldl_memOk]

/-- A fold over a state and what it collects, whose every step keeps the form, keeps it. -/
theorem foldl_fst_memOk {α β : Type} {f : State × α → β → State × α} (hm : s.memOk = true)
    (hf : ∀ p b, p.1.memOk = true → (f p b).1.memOk = true) (l : List β) (a : α) : (l.foldl f (s, a)).1.memOk = true := by
  induction l generalizing s a with
  | nil => exact hm
  | cons b l ih => exact ih (hf (s, a) b hm) _

@[simp] theorem State.nearAll_memOk (hm : s.memOk = true) (scope : Nat) (xs : List (Elem × At)) : (s.nearAll scope xs).memOk = true := by
  unfold State.nearAll
  refine State.landAll_memOk ?_ ..
  exact foldl_fst_memOk hm (fun p x hp => by
    dsimp only
    exact State.performAt_memOk (by simp [hp]) ..) _ _

@[simp] theorem State.endFwd_memOk (cid : Nat) : (s.endFwd cid).memOk = s.memOk := by
  simp [State.endFwd]

@[simp] theorem State.releaseAt_memOk (scope : Nat) : (s.releaseAt scope).memOk = s.memOk := by
  simp [State.releaseAt]

@[simp] theorem State.namesWords_memOk (xs : List (Elem × At)) : (s.namesWords xs).memOk = s.memOk := by
  simp [State.namesWords]

@[simp] theorem State.commit_memOk (hm : s.memOk = true) (scope : Nat) (acq rel : Bool) (xs : List (Elem × At)) :
    (s.commit scope acq rel xs).memOk = true := by
  simp [State.commit, hm]

/-! ## Control registers (05 R103) -/

@[simp] theorem State.writeSatcnt_memOk (v : Word) : (s.writeSatcnt v).memOk = s.memOk := by
  simp [State.writeSatcnt]

@[simp] theorem State.writeBmode_memOk (v : Word) : (s.writeBmode v).memOk = s.memOk := by
  simp [State.writeBmode]

@[simp] theorem State.abandonFstep_memOk : (s.abandonFstep).memOk = s.memOk := by
  simp [State.abandonFstep]

/-- A register write that is accepted leaves both memories in canonical form. -/
def crOk : CrOut → Bool
  | .ok t => t.memOk
  | _ => true

@[simp] theorem crOk_ok (t : State) : crOk (.ok t) = t.memOk := rfl
@[simp] theorem crOk_bad : crOk .bad = true := rfl
@[simp] theorem crOk_wait : crOk .wait = true := rfl

@[simp] theorem ite_crOk {c : Prop} [Decidable c] (o p : CrOut) : crOk (if c then o else p) = if c then crOk o else crOk p :=
  apply_ite crOk c o p

theorem crOk_ite {c : Prop} [Decidable c] {o p : CrOut} (ho : crOk o = true) (hp : crOk p = true) :
    crOk (if c then o else p) = true := by
  split <;> assumption

theorem State.writeQbase_crOk (hm : s.memOk = true) (v : Word) : crOk (s.writeQbase v) = true := by
  unfold State.writeQbase
  extract_lets c m core a old drop
  have hdrop (t : State) (ht : t.memOk = true) : (drop t).memOk = true := by
    unfold drop
    repeat' split
    all_goals simp [ht]
  have hclear := foldl_memOk (f := fun (s : State) i => s.setTag core (a + 8 * i) false)
    (State.wrBytesS_memOk (hdrop s hm) core a (List.replicate 2176 0)) (fun t i ht => by simp [ht]) (upTo 272)
  refine crOk_ite rfl (crOk_ite (by simp [hdrop s hm]) (crOk_ite rfl (crOk_ite rfl (crOk_ite rfl ?_))))
  exact (State.register_memOk ..).trans ((State.updMem_memOk ..).trans hclear)

theorem State.writePortb_crOk (hm : s.memOk = true) (v : Word) : crOk (s.writePortb v) = true := by
  unfold State.writePortb
  split <;> simp [hm]

theorem State.writeBar_crOk (hm : s.memOk = true) (n : Nat) (v : Word) : crOk (s.writeBar n v) = true := by
  unfold State.writeBar
  split <;> simp [hm]

theorem State.writeRate_crOk (hm : s.memOk = true) (n : Nat) (v : Word) : crOk (s.writeRate n v) = true := by
  simp [State.writeRate, hm]

theorem State.writeCr_crOk (hm : s.memOk = true) (n : Nat) (v : Word) : crOk (s.writeCr n v) = true := by
  simp [State.writeCr, hm, State.writeQbase_crOk hm, State.writePortb_crOk hm, State.writeBar_crOk hm, State.writeRate_crOk hm]

theorem crWrite_outOk (hm : s.memOk = true) (i : Instr) (n : Nat) (new : Word) {after : State → State}
    (hafter : ∀ t, t.memOk = true → (after t).memOk = true) : outOk (crWrite i n new after s) = true := by
  unfold crWrite
  split
  · simp [hm]
  · have hwrite := State.writeCr_crOk hm n new
    split
    · next t ht =>
      rw [ht] at hwrite
      simp [hafter t hwrite]
    · simp [hm]
    · simp [hm]

@[simp] theorem execCrr_outOk (hm : s.memOk = true) (a b c : BitVec 4) (imm : BitVec 22) : outOk (execCrr a b c imm s) = true :=
  checked_outOk hm _ _ (by simp [hm])

@[simp] theorem execCrw_outOk (hm : s.memOk = true) (a b c : BitVec 4) (imm : BitVec 22) : outOk (execCrw a b c imm s) = true :=
  checked_outOk hm _ _ (reading_outOk hm _ (crWrite_outOk hm _ _ _ fun _ ht => ht))

@[simp] theorem execCrs_outOk (hm : s.memOk = true) (a b c : BitVec 4) (imm : BitVec 22) : outOk (execCrs a b c imm s) = true :=
  checked_outOk hm _ _ (reading_outOk hm _ (crWrite_outOk hm _ _ _ fun _ ht => State.setW_memOk ht ..))

@[simp] theorem execCrc_outOk (hm : s.memOk = true) (a b c : BitVec 4) (imm : BitVec 22) : outOk (execCrc a b c imm s) = true :=
  checked_outOk hm _ _ (reading_outOk hm _ (crWrite_outOk hm _ _ _ fun _ ht => State.setW_memOk ht ..))


@[simp] theorem State.asCid_memOk (cid : Nat) : (s.asCid cid).memOk = s.memOk := by
  simp [State.asCid]

theorem CrOut.orElse_memOk (hm : s.memOk = true) {o : CrOut} (ho : crOk o = true) : (o.orElse s).memOk = true := by
  cases o with
  | ok t => exact ho
  | bad => exact hm
  | wait => exact hm

theorem forCid_outOk (hm : s.memOk = true) (cid : Nat) {f : State → State} (hf : ∀ t, t.memOk = true → (f t).memOk = true) :
    outOk (forCid cid s f) = true := by
  unfold forCid
  split
  · simp [hf (s.asCid cid) (by simp [hm])]
  · simp [hm]

theorem execQbaseWrite_outOk (hm : s.memOk = true) (cid : Nat) (v : Word) : outOk (execQbaseWrite cid v s) = true :=
  forCid_outOk hm _ fun _ ht => CrOut.orElse_memOk ht (State.writeCr_crOk ht ..)

theorem execPortbWrite_outOk (hm : s.memOk = true) (cid : Nat) (v : Word) : outOk (execPortbWrite cid v s) = true :=
  forCid_outOk hm _ fun _ ht => CrOut.orElse_memOk ht (State.writeCr_crOk ht ..)

theorem execBarrierRegisterWrite_outOk (hm : s.memOk = true) (cid n : Nat) (v : Word) :
    outOk (execBarrierRegisterWrite cid n v s) = true :=
  forCid_outOk hm _ fun _ ht => CrOut.orElse_memOk ht (State.writeCr_crOk ht ..)

theorem execSatcntWrite_outOk (hm : s.memOk = true) (cid : Nat) (v : Word) : outOk (execSatcntWrite cid v s) = true :=
  forCid_outOk hm _ fun t ht => (t.writeSatcnt_memOk _).trans ht

theorem execFadeEtaWrite_outOk (hm : s.memOk = true) (cid n : Nat) (v : Word) : outOk (execFadeEtaWrite cid n v s) = true :=
  forCid_outOk hm _ fun _ ht => CrOut.orElse_memOk ht (State.writeRate_crOk ht ..)

theorem execBmodeWrite_outOk (hm : s.memOk = true) (cid : Nat) (v : Word) : outOk (execBmodeWrite cid v s) = true :=
  forCid_outOk hm _ fun t ht => (t.writeBmode_memOk _).trans ht

theorem execPctlWrite_outOk (hm : s.memOk = true) (cid : Nat) (v : Word) : outOk (execPctlWrite cid v s) = true :=
  forCid_outOk hm _ fun t ht => (t.setCx_memOk _).trans ht

theorem execFprogvAbandon_outOk (hm : s.memOk = true) (cid : Nat) : outOk (execFprogvAbandon cid s) = true :=
  forCid_outOk hm _ fun t ht => t.abandonFstep_memOk.trans ht

end

end Sys2Proof.Machine

/-! PROOFS. Both memories stay in canonical form under the steps of the memory system, the fences and WAITC, and what synchronisation shares. -/

namespace Sys2Proof.Machine

section
variable {s : State}

/-! ## Walks, requests, answers and landings -/

@[simp] theorem State.sleepReq_memOk (r : Req) : (s.sleepReq r).memOk = s.memOk := by
  simp [State.sleepReq]

/-- A fold over a state and what it collects, whose every step leaves the predicate alone, leaves it alone. -/
theorem foldl_fst_memOk_eq {α β : Type} {f : State × α → β → State × α} (hf : ∀ p b, (f p b).1.memOk = p.1.memOk) (l : List β)
    (p : State × α) : (l.foldl f p).1.memOk = p.1.memOk :=
  foldl_keeps (p := fun p : State × α => p.1.memOk) hf l p

@[simp] theorem State.walkEnds_memOk (cid page : Nat) : (s.walkEnds cid page).memOk = s.memOk := by
  unfold State.walkEnds
  dsimp only
  rw [State.updCtx_memOk]
  refine foldl_memOk_eq (fun t x => ?_) _ _
  split <;> simp

@[simp] theorem State.setCopy_memOk (core : Nat) (c : Copy) : (s.setCopy core c).memOk = s.memOk := by
  simp [State.setCopy]

@[simp] theorem State.walkCopy_memOk (core page : Nat) (c : Copy) : (s.walkCopy core page c).memOk = s.memOk := by
  unfold State.walkCopy
  dsimp only
  split
  · rfl
  · rw [State.setCopy_memOk]
    refine foldl_fst_memOk_eq (fun p x => ?_) _ _
    split <;> simp

@[simp] theorem State.walkCopies_memOk (cl group page : Nat) : (s.walkCopies cl group page).memOk = s.memOk := by
  simp [State.walkCopies]

@[simp] theorem execPageWalkComplete_outOk (hm : s.memOk = true) (id : Nat) : outOk (execPageWalkComplete id s) = true := by
  unfold execPageWalkComplete
  split <;> simp [hm]

@[simp] theorem State.setReq_memOk (r : Req) : (s.setReq r).memOk = s.memOk := by
  simp [State.setReq]

@[simp] theorem execWithyPass_outOk (hm : s.memOk = true) (plane chan : Nat) : outOk (execWithyPass plane chan s) = true := by
  unfold execWithyPass
  split <;> simp [hm]

@[simp] theorem State.logServed_memOk (hm : s.memOk = true) (r : Req) : (s.logServed r).memOk = true := by
  unfold State.logServed
  split <;> simp [hm]

@[simp] theorem State.overtake_memOk (t : State) (r : Req) : (s.overtake t r).memOk = t.memOk := by
  simp [State.overtake]

@[simp] theorem State.perform_memOk (hm : s.memOk = true) (r : Req) : (s.perform r).memOk = true := by
  unfold State.perform
  dsimp only
  repeat' split
  all_goals simp (disch := simp [hm]) [hm]

@[simp] theorem State.noteEcc_memOk (r : Req) : (s.noteEcc r).memOk = s.memOk := by
  unfold State.noteEcc
  repeat' split
  all_goals simp

@[simp] theorem execRequestPerform_outOk (hm : s.memOk = true) (id : Nat) : outOk (execRequestPerform id s) = true := by
  unfold execRequestPerform
  repeat' split
  all_goals simp [hm]

@[simp] theorem State.setWay_memOk (r : Req) (core : Nat) : (s.setWay r core).memOk = s.memOk := by
  simp [State.setWay]

@[simp] theorem State.setOut_memOk (r : Req) (core : Nat) : (s.setOut r core).memOk = s.memOk := by
  simp [State.setOut]

@[simp] theorem State.leaveNi_memOk (r : Req) : (s.leaveNi r).memOk = s.memOk := by
  unfold State.leaveNi
  repeat' split
  all_goals simp

@[simp] theorem execRequestRedirect_outOk (hm : s.memOk = true) (id : Nat) : outOk (execRequestRedirect id s) = true := by
  unfold execRequestRedirect
  dsimp only
  repeat' split
  all_goals simp [hm]

@[simp] theorem State.landBatch_memOk (b : Nat) : (s.landBatch b).memOk = s.memOk := by
  unfold State.landBatch
  dsimp only
  repeat' split
  all_goals simp

@[simp] theorem State.failReq_memOk (r : Req) : (s.failReq r).memOk = s.memOk := by
  simp [State.failReq]

@[simp] theorem State.logLink_memOk (hm : s.memOk = true) (cid group h va val : Nat) : (s.logLink cid group h va val).memOk = true := by
  simp [State.logLink, hm]

@[simp] theorem State.stdAnswer_memOk (hm : s.memOk = true) (id : Nat) : (s.stdAnswer id).memOk = true := by
  unfold State.stdAnswer
  split <;> simp [hm]

@[simp] theorem State.logAnswer_memOk (hm : s.memOk = true) (r : Req) (val : Nat) : (s.logAnswer r val).memOk = true := by
  simp [State.logAnswer, hm]

@[simp] theorem execResponseArrival_outOk (hm : s.memOk = true) (id : Nat) : outOk (execResponseArrival id s) = true := by
  unfold execResponseArrival
  dsimp only
  repeat' split
  all_goals simp [hm]

@[simp] theorem execResultLands_outOk (hm : s.memOk = true) (id : Nat) : outOk (execResultLands id s) = true := by
  unfold execResultLands
  split <;> simp [hm]

/-! ## Fences and WAITC (09) -/

@[simp] theorem State.fenceAt_memOk (acq rel full : Bool) (scope : Nat) : (s.fenceAt acq rel full scope).memOk = s.memOk := by
  simp [State.fenceAt]

@[simp] theorem execFence_outOk (hm : s.memOk = true) (_a _b _c : BitVec 4) (imm : BitVec 6) : outOk (execFence _a _b _c imm s) = true := by
  simp [execFence, hm]

@[simp] theorem execFenceAcq_outOk (hm : s.memOk = true) (_a _b _c : BitVec 4) (imm : BitVec 6) :
    outOk (execFenceAcq _a _b _c imm s) = true := by
  simp [execFenceAcq, hm]

@[simp] theorem execFenceRel_outOk (hm : s.memOk = true) (_a _b _c : BitVec 4) (imm : BitVec 6) :
    outOk (execFenceRel _a _b _c imm s) = true := by
  simp [execFenceRel, hm]

@[simp] theorem remoteOr_outOk (hm : s.memOk = true) (tpc : Word) (k : Out) (hk : outOk k = true) : outOk (remoteOr tpc s k) = true := by
  unfold remoteOr
  split
  · split
    · next ht => simp [State.trapWait_memOk ht, hm]
    · simp [hm]
  · exact hk

@[simp] theorem execWaitc_outOk (hm : s.memOk = true) (_a _b wl ws wc wm : BitVec 4) : outOk (execWaitc _a _b wl ws wc wm s) = true := by
  unfold execWaitc
  split
  · simp [hm]
  · split
    · split
      · next ht => simp [State.trapWait_memOk ht, hm]
      · simp [hm]
    · simp [hm]

/-! ## A word at its place, and loads that an instruction waits for -/

@[simp] theorem State.useNow_memOk (hm : s.memOk = true) (e : Elem) (a : At) : (s.useNow e a).memOk = true := by
  unfold State.useNow
  split <;> simp [hm]

@[simp] theorem State.atUse_memOk (hm : s.memOk = true) (e : Elem) (a : At) : (s.atUse e a).memOk = true := by
  simp [State.atUse, hm]

@[simp] theorem atWord_outOk (hm : s.memOk = true) (scope n : Nat) (counts wr rel : Bool) (watch : Bool × Bool) (addr : Nat) (k : Loc → State → Out) (hk : ∀ x0 u, u.memOk = true → outOk (k x0 u) = true) :
    outOk (atWord scope n counts wr rel watch addr s k) = true := by
  unfold atWord
  extract_lets e
  repeat' split
  any_goals simp [hm]
  exact watched_outOk hm _ _ _ _ fun u hu => hk _ _ (by simp [hu])

@[simp] theorem windowOnly_outOk (hm : s.memOk = true) (addr : Nat) (k : Out) (hk : outOk k = true) :
    outOk (windowOnly addr s k) = true := by
  unfold windowOnly
  split <;> simp [hm, hk]

@[simp] theorem loadingAt_outOk (hm : s.memOk = true) (es : List Elem) (k : List Nat → State → Out) (hk : ∀ x0 u, u.memOk = true → outOk (k x0 u) = true) :
    outOk (loadingAt es s k) = true := by
  unfold loadingAt
  dsimp only
  repeat' split
  any_goals simp [hm]
  exact watched_outOk hm _ _ _ _ fun u hu => hk _ _ (by simp +contextual [hu, foldl_memOk])

@[simp] theorem loading_outOk (hm : s.memOk = true) (addr n : Nat) (k : List Nat → State → Out) (hk : ∀ x0 u, u.memOk = true → outOk (k x0 u) = true) :
    outOk (loading addr n s k) = true := by
  simp +contextual [loading, hm, hk]

@[simp] theorem whenLanded_outOk (hm : s.memOk = true) (k : Out) (hk : outOk k = true) : outOk (whenLanded s k) = true := by
  unfold whenLanded
  split
  · next ht => simp [State.trapWait_memOk ht, hm]
  · exact hk

@[simp] theorem State.answer_memOk (cid call idx v : Nat) : (s.answer cid call idx v).memOk = s.memOk := by
  unfold State.answer
  dsimp only
  split <;> simp

end

end Sys2Proof.Machine

/-! PROOFS. Both memories stay in canonical form under the queues, the sending side of a link, futures and ports. -/

namespace Sys2Proof.Machine

section
variable {s : State}

/-! ## Queues, rings and deposits (16) -/

@[simp] theorem State.endBereaved_memOk (core off : Nat) : (s.endBereaved core off).memOk = s.memOk := by
  simp [State.endBereaved]

@[simp] theorem State.engineW_memOk (hm : s.memOk = true) (core off v : Nat) : (s.engineW core off v).memOk = true := by
  simp [State.engineW, hm]

@[simp] theorem State.engineBytes_memOk (hm : s.memOk = true) (core off : Nat) (bs : List Byte) :
    (s.engineBytes core off bs).memOk = true := by
  simp [State.engineBytes, hm]

@[simp] theorem State.depositW_memOk (hm : s.memOk = true) (o : Origin) (core off v : Nat) : (s.depositW o core off v).memOk = true := by
  simp [State.depositW, hm]

@[simp] theorem State.setLvl_memOk (hm : s.memOk = true) (core a l head count : Nat) : (s.setLvl core a l head count).memOk = true := by
  simp [State.setLvl, hm]

@[simp] theorem State.wakePops_memOk (h v : Nat) (stl : Bool) : (s.wakePops h v stl).memOk = s.memOk := by
  simp [State.wakePops]

theorem State.pushAt_memOk (hm : s.memOk = true) {h v l entry : Nat} {t : State} (ht : s.pushAt h v l entry = some t) : t.memOk = true := by
  unfold State.pushAt at ht
  dsimp only at ht
  repeat' split at ht
  all_goals cases ht
  simp (disch := simp [hm])

@[simp] theorem State.lostPush_memOk (hm : s.memOk = true) (h v entry tval tpc vcore : Nat) :
    (s.lostPush h v entry tval tpc vcore).memOk = true := by
  simp [State.lostPush, hm]

@[simp] theorem State.pushBlock_memOk (hm : s.memOk = true) (h v off tval tpc vcore : Nat) :
    (s.pushBlock h v off tval tpc vcore).memOk = true := by
  unfold State.pushBlock
  dsimp only
  split
  · next ht => simp [State.pushAt_memOk hm ht]
  · simp [hm]

@[simp] theorem State.decAt_memOk (hm : s.memOk = true) (h v off tval tpc issuer : Nat) :
    (s.decAt h v off tval tpc issuer).1.memOk = true := by
  unfold State.decAt
  dsimp only
  repeat' split
  all_goals simp [hm]

@[simp] theorem State.unqueue_memOk (hm : s.memOk = true) (core entry : Nat) : (s.unqueue core entry).memOk = true := by
  simp [State.unqueue, hm]

theorem State.popOwn_memOk (hm : s.memOk = true) {h v : Nat} {t : State × Nat} (ht : s.popOwn h v = some t) : t.1.memOk = true := by
  unfold State.popOwn at ht
  dsimp only at ht
  repeat' split at ht
  all_goals cases ht
  simp (disch := simp [hm])

@[simp] theorem State.takeAt_memOk (hm : s.memOk = true) (core a l j : Nat) : (s.takeAt core a l j).memOk = true := by
  unfold State.takeAt
  exact State.setLvl_memOk (foldl_memOk hm (fun t i ht => by simp [ht]) _) ..

@[simp] theorem State.hubReads_memOk (h : Nat) (vs : List Nat) : (s.hubReads h vs).memOk = s.memOk := by
  simp [State.hubReads]

theorem State.stealFrom_memOk (hm : s.memOk = true) {h v : Nat} {t : State × Nat} (ht : s.stealFrom h v = some t) : t.1.memOk = true := by
  unfold State.stealFrom at ht
  dsimp only at ht
  repeat' split at ht
  all_goals cases ht
  simp (disch := simp [hm])

@[simp] theorem State.wrQ4_memOk (hm : s.memOk = true) (core off v : Nat) : (s.wrQ4 core off v).memOk = true := by
  simp [State.wrQ4, hm]

@[simp] theorem State.bumpQ_memOk (hm : s.memOk = true) (core off : Nat) : (s.bumpQ core off).memOk = true := by
  simp [State.bumpQ, hm]

@[simp] theorem State.giveBack_memOk (hm : s.memOk = true) (core d f n : Nat) : (s.giveBack core d f n).memOk = true := by
  induction n generalizing s with
  | zero => exact hm
  | succ n ih =>
    unfold State.giveBack
    split
    · exact hm
    · exact ih (by simp [hm])

@[simp] theorem State.slotEmptied_memOk (hm : s.memOk = true) (core off : Nat) : (s.slotEmptied core off).memOk = true := by
  unfold State.slotEmptied
  split
  · exact hm
  · refine foldl_memOk hm (fun t r ht => ?_) _
    split <;> simp [ht]

@[simp] theorem State.emptyTag_memOk (hm : s.memOk = true) (core off : Nat) : (s.emptyTag core off).memOk = true := by
  simp [State.emptyTag, hm]

@[simp] theorem State.endServing_memOk (hm : s.memOk = true) (cid : Nat) : (s.endServing cid).memOk = true := by
  simp [State.endServing, hm]

@[simp] theorem State.deposit_memOk (hm : s.memOk = true) (h v d f : Nat) (m : Msg) : (s.deposit h v d f m).memOk = true := by
  unfold State.deposit
  extract_lets core s₁ slot s₂ s₃ s₄ s₅
  have h₅ : s₅.memOk = true := State.logRx_memOk (by simp [s₄, s₃, s₂, s₁, hm]) ..
  split
  · split
    · next ht => exact State.pushAt_memOk h₅ ht
    · simp [h₅]
  · exact h₅

/-! ## What is put on a fibre (24) -/

@[simp] theorem State.setLink_memOk (l : Nat) (x : Link) : (s.setLink l x).memOk = s.memOk := by
  simp [State.setLink]

@[simp] theorem State.sendFlits_memOk (l id : Nat) (ws : List Nat) : (s.sendFlits l id ws).memOk = s.memOk := by
  simp [State.sendFlits]

@[simp] theorem State.sendTo_memOk (code id : Nat) (ws : List Nat) : (s.sendTo code id ws).memOk = s.memOk := by
  unfold State.sendTo
  split <;> simp

@[simp] theorem State.flyTo_memOk (code : Nat) (ws : List Nat) (c : Cargo) : (s.flyTo code ws c).memOk = s.memOk := by
  simp [State.flyTo]

@[simp] theorem State.answerAway_memOk (ws : List Nat) : (s.answerAway ws).memOk = s.memOk := by
  simp [State.answerAway]

@[simp] theorem State.flyAgain_memOk (ms : List Msg) : (s.flyAgain ms).memOk = s.memOk := by
  simp [State.flyAgain]

/-! ## Futures and ports (18) -/

theorem fe_outOk (hm : s.memOk = true) (wr rel : Bool) (watch : Bool × Bool) (b : BitVec 4) (imm : BitVec 22)
    {act : Nat → Nat → Word → State → Out} (hact : ∀ core off addr u, u.memOk = true → outOk (act core off addr u) = true) :
    outOk (fe wr rel watch b imm s act) = true := by
  unfold fe
  refine windowOnly_outOk hm _ _ (atWord_outOk hm _ _ _ _ _ _ _ _ fun l u hu => ?_)
  cases l with
  | spad core off => exact hact core off _ u hu
  | hbm pa => simp [hu]

@[simp] theorem State.dropFuture_memOk (core off : Nat) : (s.dropFuture core off).memOk = s.memOk := by
  unfold State.dropFuture
  split <;> simp

@[simp] theorem State.named_memOk (l : Loc) (a : Word) : (s.named l a).memOk = s.memOk := by
  simp [State.named]

@[simp] theorem execLdf_outOk (hm : s.memOk = true) (a b _c : BitVec 4) (imm : BitVec 22) : outOk (execLdf a b _c imm s) = true := by
  refine reading_outOk hm _ (fe_outOk hm _ _ _ _ _ fun core off addr u hu => ?_)
  repeat' split
  all_goals simp [hu]

@[simp] theorem execLdfe_outOk (hm : s.memOk = true) (a b _c : BitVec 4) (imm : BitVec 22) : outOk (execLdfe a b _c imm s) = true := by
  refine reading_outOk hm _ (fe_outOk hm _ _ _ _ _ fun core off addr u hu => ?_)
  dsimp only
  repeat' split
  all_goals simp (disch := simp [hu])

@[simp] theorem execFill_outOk (hm : s.memOk = true) (a b _c : BitVec 4) (imm : BitVec 22) : outOk (execFill a b _c imm s) = true := by
  refine reading_outOk hm _ (fe_outOk hm _ _ _ _ _ fun core off addr u hu => ?_)
  repeat' split
  all_goals simp (disch := simp [hu])

@[simp] theorem execFillX_outOk (hm : s.memOk = true) (a b _c : BitVec 4) (imm : BitVec 22) : outOk (execFillX a b _c imm s) = true := by
  refine reading_outOk hm _ (fe_outOk hm _ _ _ _ _ fun core off addr u hu => ?_)
  dsimp only
  simp (disch := simp [hu])

@[simp] theorem execEmpty_outOk (hm : s.memOk = true) (_a b _c : BitVec 4) (imm : BitVec 22) : outOk (execEmpty _a b _c imm s) = true := by
  refine reading_outOk hm _ (fe_outOk hm _ _ _ _ _ fun core off addr u hu => ?_)
  dsimp only
  simp (disch := simp [hu])

@[simp] theorem execFeq_outOk (hm : s.memOk = true) (a b _c : BitVec 4) (imm : BitVec 22) : outOk (execFeq a b _c imm s) = true := by
  refine reading_outOk hm _ (fe_outOk hm _ _ _ _ _ fun core off addr u hu => ?_)
  dsimp only
  simp (disch := simp [hu])

@[simp] theorem withPort_outOk (hm : s.memOk = true) (d : Nat) (k : Nat → Out) (hk : ∀ x0, outOk (k x0) = true) :
    outOk (withPort d s k) = true := by
  unfold withPort
  split <;> simp [hm, hk]

@[simp] theorem execPass_outOk (hm : s.memOk = true) (a _b _c : BitVec 4) (imm : BitVec 6) : outOk (execPass a _b _c imm s) = true := by
  unfold execPass
  dsimp only
  repeat' split
  all_goals simp (disch := simp [hm]) [hm]

@[simp] theorem ownCell_outOk (hm : s.memOk = true) (d : Nat) (wr : Bool) (k : Nat → Out) (hk : ∀ x0, outOk (k x0) = true) :
    outOk (ownCell d wr s k) = true := by
  simp [ownCell, hm, hk]

@[simp] theorem execTake_outOk (hm : s.memOk = true) (a _b _c : BitVec 4) (imm : BitVec 6) : outOk (execTake a _b _c imm s) = true := by
  refine ownCell_outOk hm _ _ _ fun off => ?_
  split <;> simp (disch := simp [hm])

@[simp] theorem execPeek_outOk (hm : s.memOk = true) (a b _c : BitVec 4) (imm : BitVec 6) : outOk (execPeek a b _c imm s) = true := by
  refine ownCell_outOk hm _ _ _ fun off => ?_
  split <;> simp (disch := simp [hm])

@[simp] theorem execPortDeposit_outOk (hm : s.memOk = true) (id : Nat) : outOk (execPortDeposit id s) = true := by
  unfold execPortDeposit
  split <;> simp [hm]

@[simp] theorem execPortAck_outOk (hm : s.memOk = true) (id : Nat) : outOk (execPortAck id s) = true := by
  unfold execPortAck
  split <;> simp [hm]

end

end Sys2Proof.Machine

/-! PROOFS. Both memories stay in canonical form under barriers, codelets, and the instructions on the workspace and the core. -/

namespace Sys2Proof.Machine

section
variable {s : State}

/-! ## Barriers (19) -/

@[simp] theorem State.setBarFld_memOk (h v b lo w x : Nat) : (s.setBarFld h v b lo w x).memOk = s.memOk := by
  simp [State.setBarFld]

@[simp] theorem State.passOn_memOk (g : Group) (v b : Nat) : (s.passOn g v b).memOk = s.memOk := by
  simp [State.passOn]

@[simp] theorem State.tryPass_memOk (h v b : Nat) : (s.tryPass h v b).memOk = s.memOk := by
  unfold State.tryPass
  split <;> simp

@[simp] theorem State.fillBar_memOk (h v b : Nat) : (s.fillBar h v b).memOk = s.memOk := by
  simp [State.fillBar]

@[simp] theorem State.exitBars_memOk (h v : Nat) : (s.exitBars h v).memOk = s.memOk := by
  simp [State.exitBars]

@[simp] theorem execBarrierArrivalHop_outOk (hm : s.memOk = true) (id : Nat) : outOk (execBarrierArrivalHop id s) = true := by
  unfold execBarrierArrivalHop
  split <;> simp [hm]

@[simp] theorem State.release_memOk (g : Group) (v b : Nat) (brv : Bool) : (s.release g v b brv).memOk = s.memOk := by
  simp [State.release]

@[simp] theorem execBarrierReleaseHop_outOk (hm : s.memOk = true) (id : Nat) : outOk (execBarrierReleaseHop id s) = true := by
  unfold execBarrierReleaseHop
  repeat' split
  all_goals simp [hm]

@[simp] theorem State.setParty_memOk (h v d : Nat) (p : Party) : (s.setParty h v d p).memOk = s.memOk := by
  simp [State.setParty]

@[simp] theorem State.sendToken_memOk (h w d : Nat) (p : Party) : (s.sendToken h w d p).memOk = s.memOk := by
  unfold State.sendToken
  split <;> simp

@[simp] theorem State.dRelease_memOk (hm : s.memOk = true) (h v d : Nat) (p : Party) : (s.dRelease h v d p).memOk = true := by
  simp [State.dRelease, hm]

@[simp] theorem State.runParty_memOk (hm : s.memOk = true) (h v d n : Nat) : (s.runParty h v d n).memOk = true := by
  induction n generalizing s with
  | zero => exact hm
  | succ n ih =>
    unfold State.runParty
    split
    · exact hm
    · dsimp only
      split
      · exact ih (by simp [hm])
      · split
        · exact hm
        · split
          · exact ih (by simp [hm])
          · split
            · exact ih (by simp [hm])
            · simp [hm]

@[simp] theorem State.dArrive_memOk (hm : s.memOk = true) (h v d : Nat) (p : Party) : (s.dArrive h v d p).memOk = true := by
  simp [State.dArrive, hm]

@[simp] theorem State.takeToken_memOk (hm : s.memOk = true) (h v d k e : Nat) (brv : Bool) : (s.takeToken h v d k e brv).memOk = true := by
  unfold State.takeToken
  dsimp only
  split <;> simp [hm]

@[simp] theorem State.lostToken_memOk (id part h v : Nat) : (s.lostToken id part h v).memOk = s.memOk := by
  simp [State.lostToken]

@[simp] theorem execDbarTokenArrival_outOk (hm : s.memOk = true) (id : Nat) : outOk (execDbarTokenArrival id s) = true := by
  unfold execDbarTokenArrival
  dsimp only
  repeat' split
  all_goals simp [hm]

@[simp] theorem arriving_outOk (hm : s.memOk = true) (sys : Bool) (k : State → Out) (hk : ∀ u, u.memOk = true → outOk (k u) = true) :
    outOk (arriving sys s k) = true := by
  unfold arriving
  split <;> simp [hm, hk]

@[simp] theorem State.arrived_memOk : (s.arrived).memOk = s.memOk := by
  simp [State.arrived]

@[simp] theorem waited_outOk (hm : s.memOk = true) (a : BitVec 4) (brv : Bool) (e : Nat) : outOk (waited a brv e s) = true := by
  simp [waited, hm]

@[simp] theorem barWaitFor_outOk (hm : s.memOk = true) (a : BitVec 4) (b e : Nat) : outOk (barWaitFor a b e s) = true := by
  simp [barWaitFor, hm]

@[simp] theorem barArriveAt_outOk (hm : s.memOk = true) (b : Nat) (k : Nat → State → Out)
    (hk : ∀ x0 u, u.memOk = true → outOk (k x0 u) = true) :
    outOk (barArriveAt b s k) = true := by
  unfold barArriveAt
  dsimp only
  simp +contextual [hm, hk]

@[simp] theorem withBar_outOk (hm : s.memOk = true) (i : Instr) (b : Nat) (k : Out) (hk : outOk k = true) :
    outOk (withBar i b s k) = true := by
  unfold withBar
  split <;> simp [hm, hk]

@[simp] theorem execBarSync_outOk (hm : s.memOk = true) (a b c : BitVec 4) (imm : BitVec 6) : outOk (execBarSync a b c imm s) = true := by
  refine withBar_outOk hm _ _ _ ?_
  split
  · simp [hm]
  · exact barArriveAt_outOk hm _ _ fun e u hu => by simp [hu]

@[simp] theorem execBarArrive_outOk (hm : s.memOk = true) (a b c : BitVec 4) (imm : BitVec 6) :
    outOk (execBarArrive a b c imm s) = true := by
  exact withBar_outOk hm _ _ _ (barArriveAt_outOk hm _ _ fun e u hu => by simp [hu])

@[simp] theorem execBarWait_outOk (hm : s.memOk = true) (a b c : BitVec 4) (imm : BitVec 6) : outOk (execBarWait a b c imm s) = true := by
  simp (disch := simp [hm]) [execBarWait]

@[simp] theorem withDesc_outOk (hm : s.memOk = true) (i : Instr) (b : BitVec 4) (k : Nat → State → Out)
    (hk : ∀ x0 u, u.memOk = true → outOk (k x0 u) = true) :
    outOk (withDesc i b s k) = true := by
  unfold withDesc
  refine reading_outOk hm _ ?_
  dsimp only
  split
  · simp [hm]
  · split
    · simp [hm]
    · split
      · simp [hm]
      · split
        · simp [hm]
        · refine counting_outOk _ ?_
          split
          · simp [hm]
          · exact watched_outOk hm _ _ _ _ fun u hu => hk _ u hu

@[simp] theorem dbarWaitFor_outOk (hm : s.memOk = true) (a : BitVec 4) (d e : Nat) : outOk (dbarWaitFor a d e s) = true := by
  simp [dbarWaitFor, hm]

@[simp] theorem withPartners_outOk (hm : s.memOk = true) (i : Instr) (d : Nat) (k : List (Nat × Nat × Nat) → State → Out)
    (hk : ∀ x0 u, u.memOk = true → outOk (k x0 u) = true) :
    outOk (withPartners i d s k) = true := by
  unfold withPartners
  dsimp only
  repeat' split
  all_goals simp +contextual [hm, hk]

@[simp] theorem dbarArriveAt_outOk (hm : s.memOk = true) (d : Nat) (partners : List (Nat × Nat × Nat)) (k : Nat → State → Out)
    (hk : ∀ x0 u, u.memOk = true → outOk (k x0 u) = true) :
    outOk (dbarArriveAt d partners s k) = true := by
  refine arriving_outOk hm _ _ fun u hu => ?_
  dsimp only
  split
  · simp [hu]
  · exact hk _ _ (State.dArrive_memOk (by split <;> simp [hu]) ..)

@[simp] theorem execDbarSync_outOk (hm : s.memOk = true) (a b c : BitVec 4) (imm : BitVec 6) : outOk (execDbarSync a b c imm s) = true := by
  refine withDesc_outOk hm _ _ _ fun d u hu => withPartners_outOk hu _ _ _ fun ps t ht => ?_
  split
  · simp [ht]
  · exact dbarArriveAt_outOk ht _ _ _ fun e v hv => by simp [hv]

@[simp] theorem execDbarArrive_outOk (hm : s.memOk = true) (a b c : BitVec 4) (imm : BitVec 6) :
    outOk (execDbarArrive a b c imm s) = true := by
  exact withDesc_outOk hm _ _ _ fun d u hu => withPartners_outOk hu _ _ _ fun ps t ht =>
    dbarArriveAt_outOk ht _ _ _ fun e v hv => by simp [hv]

@[simp] theorem execDbarWait_outOk (hm : s.memOk = true) (a b c : BitVec 4) (imm : BitVec 6) : outOk (execDbarWait a b c imm s) = true := by
  exact reading_outOk hm _ (withDesc_outOk hm _ _ _ fun d u hu => withPartners_outOk hu _ _ _ fun ps t ht => by simp [ht])

/-! ## Codelets (16) -/

@[simp] theorem execCarm_outOk (hm : s.memOk = true) (a b c : BitVec 4) (imm : BitVec 6) : outOk (execCarm a b c imm s) = true := by
  unfold execCarm
  refine reading_outOk hm _ ?_
  dsimp only
  repeat' split
  any_goals simp [hm]
  refine atWord_outOk hm _ _ _ _ _ _ _ _ fun l u hu => ?_
  cases l with
  | spad core off => simp (disch := simp [hu])
  | hbm pa => simp [hu]

@[simp] theorem cdecAnswer_outOk (hm : s.memOk = true) (a b : BitVec 4) (r : Nat) : outOk (cdecAnswer a b r s) = true := by
  unfold cdecAnswer
  split <;> simp [hm]

@[simp] theorem execCdec_outOk (hm : s.memOk = true) (a b _c : BitVec 4) (_imm : BitVec 6) : outOk (execCdec a b _c _imm s) = true := by
  unfold execCdec
  split
  · split <;> simp [hm]
  · refine reading_outOk hm _ ?_
    dsimp only
    split
    · simp [hm]
    · refine windowOnly_outOk hm _ _ (atWord_outOk hm _ _ _ _ _ _ _ _ fun l u hu => ?_)
      cases l with
      | hbm pa => simp [hu]
      | spad core off =>
        dsimp only
        split
        · have hdec := State.decAt_memOk (s := u.endFwd u.cur) (by simp [hu]) (u.endFwd u.cur).cx.group
            ((u.endFwd u.cur).vcoreAt core) off (s.w b).toNat (u.endFwd u.cur).cx.pc.toNat (u.endFwd u.cur).cx.vcore
          split
          · next t n ht => exact cdecAnswer_outOk ((congrArg (fun p : State × Option Nat => p.1.memOk) ht).symm.trans hdec) ..
          · next t ht =>
            have ht' := (congrArg (fun p : State × Option Nat => p.1.memOk) ht).symm.trans hdec
            exact whenLanded_outOk (by simp [hu]) _ (cdecAnswer_outOk ht' ..)
        · simp [hu]

@[simp] theorem execCready_outOk (hm : s.memOk = true) (a b _c : BitVec 4) (_imm : BitVec 6) : outOk (execCready a b _c _imm s) = true := by
  unfold execCready
  refine reading_outOk hm _ ?_
  dsimp only
  split
  · simp [hm]
  · refine windowOnly_outOk hm _ _ (atWord_outOk hm _ _ _ _ _ _ _ _ fun l u hu => ?_)
    cases l with
    | hbm pa => simp [hu]
    | spad core off =>
      dsimp only
      split
      · simp (disch := simp [hu])
      · simp (disch := simp (disch := simp [hu]))

@[simp] theorem State.serveEntry_memOk (hm : s.memOk = true) (a b : BitVec 4) (v e : Nat) : (s.serveEntry a b v e).memOk = true := by
  simp [State.serveEntry, hm]

@[simp] theorem cpopNone_outOk (hm : s.memOk = true) (a b : BitVec 4) (imm : BitVec 6) : outOk (cpopNone a b imm s) = true := by
  simp (disch := simp [hm]) [cpopNone]

@[simp] theorem execCpop_outOk (hm : s.memOk = true) (a b c : BitVec 4) (imm : BitVec 6) : outOk (execCpop a b c imm s) = true := by
  unfold execCpop
  split
  · split
    · split <;> simp [hm]
    · simp [hm]
  · dsimp only
    split
    · simp [hm]
    · split
      · exact counting_outOk _ (by simp [hm])
      · split
        · simp [hm]
        · have hu : ((s.niRead s.here (qbaseAddr s.mem.qbase + 32) 8).endServing s.cur).memOk = true := by simp [hm]
          split
          · next ht => simp [State.popOwn_memOk hu ht]
          · split <;> simp [hu]

@[simp] theorem execStealRound_outOk (hm : s.memOk = true) (cid : Nat) : outOk (execStealRound cid s) = true := by
  unfold execStealRound
  split
  · exact hm
  · split
    · split
      · extract_lets cls cl u
        have hu : u.memOk = true := (s.hubReads_memOk ..).trans hm
        split
        · next v t e ht =>
          obtain ⟨w, -, hw⟩ := Option.bind_eq_some_iff.1 ht
          obtain ⟨x, hx, hpair⟩ := Option.map_eq_some_iff.1 hw
          cases hpair
          have ht' : t.memOk = true := State.stealFrom_memOk hu hx
          simp [ht']
        · split <;> simp [hu]
      · exact hm
    · exact hm

@[simp] theorem State.counterRead_memOk (addr : Nat) : (s.counterRead addr).memOk = s.memOk := by
  unfold State.counterRead
  dsimp only
  repeat' split
  all_goals simp

@[simp] theorem State.sendDecs_memOk (call : Nat) (as : List Nat) (rs : List (Nat × Option Nat)) :
    (s.sendDecs call as rs).memOk = s.memOk := by
  simp [State.sendDecs]

@[simp] theorem cdoneEnd_outOk (hm : s.memOk = true) (as : List Nat) (rs : List (Nat × Option Nat)) : outOk (cdoneEnd as rs s) = true := by
  unfold cdoneEnd
  repeat' split
  all_goals simp (disch := simp [hm])

@[simp] theorem execCdone_outOk (hm : s.memOk = true) (a _b _c : BitVec 4) (_imm : BitVec 6) : outOk (execCdone a _b _c _imm s) = true := by
  unfold execCdone
  refine reading_outOk hm _ ?_
  dsimp only
  split <;> simp [hm]

@[simp] theorem State.decAnswer_memOk (hm : s.memOk = true) (id cid call idx v : Nat) : (s.decAnswer id cid call idx v).memOk = true := by
  simp [State.decAnswer, hm]

@[simp] theorem execCounterDecrement_outOk (hm : s.memOk = true) (id : Nat) : outOk (execCounterDecrement id s) = true := by
  unfold execCounterDecrement
  dsimp only
  repeat' split
  all_goals simp (disch := simp [hm]) [hm]

/-! ## Workspace and core (05) -/

@[simp] theorem execWpget_outOk (hm : s.memOk = true) (a _b _c : BitVec 4) (_imm : BitVec 6) : outOk (execWpget a _b _c _imm s) = true := by
  simp [execWpget, hm]

@[simp] theorem execWpset_outOk (hm : s.memOk = true) (a _b _c : BitVec 4) (_imm : BitVec 6) : outOk (execWpset a _b _c _imm s) = true := by
  unfold execWpset
  refine reading_outOk hm _ ?_
  dsimp only
  repeat' split
  all_goals simp [hm]

@[simp] theorem execYield_outOk (hm : s.memOk = true) (_a _b _c : BitVec 4) (_imm : BitVec 6) :
    outOk (execYield _a _b _c _imm s) = true := by
  simp [execYield, hm]

@[simp] theorem execWfld_outOk (hm : s.memOk = true) (a b _c : BitVec 4) (imm : BitVec 6) : outOk (execWfld a b _c imm s) = true := by
  unfold execWfld
  exact reading_outOk hm _ (by simp [hm])

end

end Sys2Proof.Machine

/-! PROOFS. Both memories stay in canonical form under messages, rings, the copy strand and copy commands. -/

namespace Sys2Proof.Machine

/-- A choice between two outcomes that keep the form keeps it. -/
theorem outOk_ite {c : Prop} [Decidable c] {o p : Out} (ho : outOk o = true) (hp : outOk p = true) :
    outOk (if c then o else p) = true := by
  split <;> assumption

section
variable {s : State}

/-! ## Messages and rings (16) -/

@[simp] theorem State.setPipe_memOk (p : Pipeline) : (s.setPipe p).memOk = s.memOk := by
  simp [State.setPipe]

@[simp] theorem State.updPipe_memOk (h : Nat) (f : Pipeline → Pipeline) : (s.updPipe h f).memOk = s.memOk := by
  unfold State.updPipe
  split <;> simp

@[simp] theorem State.updStage_memOk (h i : Nat) (f : Stage → Stage) : (s.updStage h i f).memOk = s.memOk := by
  simp [State.updStage]

@[simp] theorem State.countSinks_memOk (g : Stage) (i : Nat) (there : List (Nat × Nat × Nat)) (n : Nat) :
    (s.countSinks g i there n).memOk = s.memOk := by
  simp [State.countSinks]

@[simp] theorem State.copyArrived_memOk (m : Msg) : (s.copyArrived m).memOk = s.memOk := by
  unfold State.copyArrived
  dsimp only
  repeat' split
  all_goals simp

@[simp] theorem State.countBounce_memOk (hm : s.memOk = true) (m : Msg) : (s.countBounce m).memOk = true := by
  unfold State.countBounce
  dsimp only
  split <;> simp [hm]

@[simp] theorem State.countRefusal_memOk (hm : s.memOk = true) (m : Msg) : (s.countRefusal m).memOk = true := by
  unfold State.countRefusal
  dsimp only
  split <;> simp [hm]

@[simp] theorem State.toSupervisor_memOk (part cause : Nat) (m : Msg) : (s.toSupervisor part cause m).memOk = s.memOk := by
  unfold State.toSupervisor
  split <;> simp

@[simp] theorem State.bounceBack_memOk (hm : s.memOk = true) (id : Nat) (m : Msg) (stat : Nat) : (s.bounceBack id m stat).memOk = true := by
  simp [State.bounceBack, hm]

@[simp] theorem State.arrive_memOk (hm : s.memOk = true) (id : Nat) (m : Msg) : (s.arrive id m).memOk = true := by
  unfold State.arrive
  dsimp only
  repeat' split
  all_goals simp [hm]

@[simp] theorem State.arriveAway_memOk (id : Nat) (m : Msg) : (s.arriveAway id m).memOk = s.memOk := by
  unfold State.arriveAway
  dsimp only
  repeat' split
  all_goals simp

@[simp] theorem State.atNi_memOk (hm : s.memOk = true) (id : Nat) (m : Msg) : (s.atNi id m).memOk = true := by
  simp [State.atNi, hm]

@[simp] theorem execMessageArrival_outOk (hm : s.memOk = true) (id : Nat) : outOk (execMessageArrival id s) = true := by
  unfold execMessageArrival
  split <;> simp [hm]

@[simp] theorem execRingRefusalRetry_outOk (hm : s.memOk = true) (id : Nat) : outOk (execRingRefusalRetry id s) = true := by
  unfold execRingRefusalRetry
  split <;> simp [hm]

@[simp] theorem execBounceArrival_outOk (hm : s.memOk = true) (id : Nat) : outOk (execBounceArrival id s) = true := by
  unfold execBounceArrival
  split <;> simp [hm]

@[simp] theorem State.namedRing_memOk (h v d : Nat) : (s.namedRing h v d).memOk = s.memOk := by
  simp [State.namedRing]

@[simp] theorem State.namedMsg_memOk (m : Msg) : (s.namedMsg m).memOk = s.memOk := by
  unfold State.namedMsg
  repeat' split
  all_goals simp

@[simp] theorem execSend_outOk (hm : s.memOk = true) (a b c : BitVec 4) (imm : BitVec 6) : outOk (execSend a b c imm s) = true := by
  unfold execSend
  refine reading_outOk hm _ ?_
  extract_lets buf wc dev len n
  iterate 5 refine outOk_ite (by simp [hm]) ?_
  split
  · simp [hm]
  · iterate 5 refine outOk_ite (by simp [hm]) ?_
    refine watched_outOk hm _ _ _ _ fun u hu => counting_outOk _ ?_
    split <;> simp [hu]

@[simp] theorem withRing_outOk (hm : s.memOk = true) (i : Instr) (n : Nat) (k : Nat → Nat → Out) (hk : ∀ x0 x1, outOk (k x0 x1) = true) :
    outOk (withRing i n s k) = true := by
  unfold withRing
  split <;> simp [hm, hk]

@[simp] theorem execRpoll_outOk (hm : s.memOk = true) (a b c : BitVec 4) (imm : BitVec 6) : outOk (execRpoll a b c imm s) = true := by
  simp (disch := simp [hm]) [execRpoll]

@[simp] theorem execRwait_outOk (hm : s.memOk = true) (a b c : BitVec 4) (imm : BitVec 6) : outOk (execRwait a b c imm s) = true := by
  simp (disch := simp [hm]) [execRwait]

@[simp] theorem State.giveSlots_memOk (core f head : Nat) (n : Nat) : (s.giveSlots core f head n).memOk = s.memOk := by
  simp [State.giveSlots]

@[simp] theorem execRadv_outOk (hm : s.memOk = true) (a b c : BitVec 4) (imm : BitVec 6) : outOk (execRadv a b c imm s) = true := by
  unfold execRadv
  refine reading_outOk hm _ ?_
  simp (disch := simp [hm])

@[simp] theorem State.sendUnplaced_memOk (h v n : Nat) : (s.sendUnplaced h v n).memOk = s.memOk := by
  unfold State.sendUnplaced
  split <;> simp

@[simp] theorem execRbind_outOk (hm : s.memOk = true) (a b c : BitVec 4) (imm : BitVec 6) : outOk (execRbind a b c imm s) = true := by
  unfold execRbind
  refine reading_outOk hm _ ?_
  dsimp only
  repeat' split
  any_goals simp [hm]
  refine watched_outOk hm _ _ _ _ fun u hu => done_outOk ?_
  rw [State.namedRing_memOk, State.sendUnplaced_memOk, State.register_memOk, State.updMem_memOk]
  exact State.wrQ4_memOk (State.wrQ_memOk (by simp [hu]) ..) ..

@[simp] theorem execRclose_outOk (hm : s.memOk = true) (a b c : BitVec 4) (imm : BitVec 6) : outOk (execRclose a b c imm s) = true := by
  refine withRing_outOk hm _ _ _ fun d _ => done_outOk ?_
  split <;> simp [hm]

@[simp] theorem withArea_outOk (hm : s.memOk = true) (i : Instr) (k : Nat → Out) (hk : ∀ x0, outOk (k x0) = true) :
    outOk (withArea i s k) = true := by
  unfold withArea
  split <;> simp [hm, hk]

@[simp] theorem execQrec_outOk (hm : s.memOk = true) (a b c : BitVec 4) (imm : BitVec 6) : outOk (execQrec a b c imm s) = true := by
  simp (disch := simp [hm]) [execQrec]

@[simp] theorem execQthaw_outOk (hm : s.memOk = true) (a b c : BitVec 4) (imm : BitVec 6) : outOk (execQthaw a b c imm s) = true := by
  refine withArea_outOk hm _ _ fun area => done_outOk ?_
  exact State.wrQ_memOk (State.wrQ_memOk (State.wrQ_memOk (State.wrQ_memOk hm ..) ..) ..) ..

@[simp] theorem execQfreeze_outOk (hm : s.memOk = true) (a b c : BitVec 4) (imm : BitVec 6) : outOk (execQfreeze a b c imm s) = true := by
  unfold execQfreeze
  refine reading_outOk hm _ ?_
  simp (disch := simp [hm])

@[simp] theorem execWfm_outOk (hm : s.memOk = true) (a b _c : BitVec 4) (_imm : BitVec 6) : outOk (execWfm a b _c _imm s) = true := by
  unfold execWfm
  refine reading_outOk hm _ ?_
  simp (disch := simp [hm])

/-! ## Copies (20) -/

@[simp] theorem State.engMark_memOk (hm : s.memOk = true) (c : Copy) (va : Nat) (acc : Acc) : (s.engMark c va acc).memOk = true := by
  unfold State.engMark
  repeat' split
  all_goals simp [hm]

@[simp] theorem State.engPut_memOk (hm : s.memOk = true) (o : Origin) (l : Loc) (v : Nat) : (s.engPut o l v).memOk = true := by
  unfold State.engPut
  split <;> simp [hm]

@[simp] theorem State.moveDw_memOk (hm : s.memOk = true) (c : Copy) (i : Nat) : (s.moveDw c i).memOk = true := by
  unfold State.moveDw
  extract_lets v u
  have hu : u.memOk = true := foldl_memOk hm (fun t p ht => by split <;> simp [ht]) _
  split
  · simp (disch := simp [hu])
  · simp [hu]
  · exact hu

@[simp] theorem State.engSeek_memOk (c : Copy) : (s.engSeek c).1.memOk = s.memOk := by
  unfold State.engSeek
  dsimp only
  split <;> simp

@[simp] theorem State.engMove_memOk (hm : s.memOk = true) (c : Copy) (p : Nat → Bool) : (s.engMove c p).1.memOk = true := by
  simp +contextual [State.engMove, hm, foldl_memOk]

@[simp] theorem State.engOut_memOk (c : Copy) : (s.engOut c).memOk = s.memOk := by
  unfold State.engOut
  split <;> simp

@[simp] theorem State.copyOut_memOk (core : Nat) (c : Copy) (o : Nat × Nat) : (s.copyOut core c o).1.memOk = s.memOk := by
  simp [State.copyOut]

@[simp] theorem execCopyCommandStart_outOk (hm : s.memOk = true) (core : Nat) : outOk (execCopyCommandStart core s) = true := by
  unfold execCopyCommandStart
  split <;> simp [hm]

theorem State.evqWrite_memOk (hm : s.memOk = true) {core : Nat} {q : Word} {r : Nat × Nat} {p : State × Word}
    (hp : s.evqWrite core q r = some p) : p.1.memOk = true := by
  unfold State.evqWrite at hp
  dsimp only at hp
  repeat' split at hp
  all_goals cases hp
  · exact hm
  · simp [hm]

theorem State.evqPut_memOk (hm : s.memOk = true) {h : Nat} {r : Nat × Nat} {t : State} (ht : s.evqPut h r = some t) :
    t.memOk = true := by
  unfold State.evqPut at ht
  split at ht
  · split at ht
    · cases ht
    · cases ht
      exact hm
  · obtain ⟨p, hp, hput⟩ := Option.map_eq_some_iff.1 ht
    cases hput
    simp [State.evqWrite_memOk hm hp]

theorem State.report_memOk (hm : s.memOk = true) {core : Nat} {c : Copy} {o : Nat × Nat} {t : State}
    (ht : s.report core c o = some t) : t.memOk = true := by
  unfold State.report at ht
  split at ht
  · exact State.evqPut_memOk hm ht
  · split at ht
    · next hp =>
      cases ht
      simp [State.evqWrite_memOk hm hp]
    · cases ht
      exact hm

@[simp] theorem State.endCopy_memOk (core : Nat) (c : Copy) : (s.endCopy core c).memOk = s.memOk := by
  simp [State.endCopy]

@[simp] theorem execCopyCommandComplete_outOk (hm : s.memOk = true) (core id : Nat) : outOk (execCopyCommandComplete core id s) = true := by
  unfold execCopyCommandComplete
  extract_lets tell
  have htell (t : State) (ht : t.memOk = true) (c : Copy) (o : Nat × Nat) : outOk (tell t c o) = true := by
    unfold tell
    split
    · next hr => simp [State.report_memOk ht hr]
    · simp [ht]
  split
  · exact hm
  · split
    · exact htell s hm ..
    · split
      · exact hm
      · split
        · exact htell _ ((State.copyOut_memOk ..).trans hm) ..
        · dsimp only
          split
          · exact htell _ (by simp [hm]) ..
          · simp [hm]

@[simp] theorem State.carryCopies_memOk (old new strand : Nat) : (s.carryCopies old new strand).memOk = s.memOk := by
  simp [State.carryCopies]

@[simp] theorem execFork_outOk (hm : s.memOk = true) (a b c : BitVec 4) (imm : BitVec 6) : outOk (execFork a b c imm s) = true := by
  unfold execFork
  refine reading_outOk hm _ ?_
  dsimp only
  repeat' split
  all_goals simp [hm]

@[simp] theorem rdvCopy_outOk (hm : s.memOk = true) (a : BitVec 4) : outOk (rdvCopy a s) = true := by
  simp [rdvCopy, hm]

@[simp] theorem State.orphan_memOk (cid : Nat) : (s.orphan cid).memOk = s.memOk := by
  simp [State.orphan]

@[simp] theorem State.boxEvq_memOk (cid : Nat) : (s.boxEvq cid).memOk = s.memOk := by
  simp [State.boxEvq]

@[simp] theorem State.freeSeq_memOk (core : Nat) : (s.freeSeq core).memOk = s.memOk := by
  simp [State.freeSeq]

@[simp] theorem rdvHolder_outOk (hm : s.memOk = true) (a : BitVec 4) : outOk (rdvHolder a s) = true := by
  unfold rdvHolder
  dsimp only
  repeat' split
  all_goals simp [hm]

@[simp] theorem execRdv_outOk (hm : s.memOk = true) (a _b _c : BitVec 4) (_imm : BitVec 6) : outOk (execRdv a _b _c _imm s) = true := by
  simp [execRdv, hm]

@[simp] theorem copyIssue_outOk (hm : s.memOk = true) (i : Instr) (transpose : Bool) (a b : BitVec 4) :
    outOk (copyIssue i transpose a b s) = true := by
  unfold copyIssue
  refine reading_outOk hm _ ?_
  dsimp only
  split
  · simp [hm]
  · refine loading_outOk hm _ _ _ fun r u hu => ?_
    repeat' split
    all_goals simp [hu]

@[simp] theorem execCevq_outOk (hm : s.memOk = true) (a b c : BitVec 4) (imm : BitVec 6) : outOk (execCevq a b c imm s) = true := by
  unfold execCevq
  dsimp only
  repeat' split
  all_goals simp (disch := simp (disch := simp [hm]) [hm])

end

end Sys2Proof.Machine

/-! PROOFS. Both memories stay in canonical form under locks and the estate, loads, stores and atomics, and vector instructions. -/

namespace Sys2Proof.Machine

section
variable {s : State}

/-! ## Locks and the estate instructions (21) -/

@[simp] theorem State.wakeLock_memOk (l : Loc) (p : Ctx → Bool) : (s.wakeLock l p).memOk = s.memOk := by
  simp [State.wakeLock]

/-- An access whose continuation keeps the form keeps it, performed at issue or sent out. -/
theorem access_outOk (hm : s.memOk = true) (scope : Nat) (acq rel : Bool) (es : List Elem) {fin : State → State}
    (hfin : ∀ t, t.memOk = true → (fin t).memOk = true) (vec : Bool) : outOk (access scope acq rel es fin s vec) = true := by
  unfold access
  split
  · simp [hm]
  · simp [hm]
  · dsimp only
    split
    · split
      · next ht => simp [State.trapWait_memOk ht, hm]
      · simp [hm]
    · refine outOk_ite (by simp [hm]) (outOk_ite (by simp [hm]) ?_)
      exact watched_outOk hm _ _ _ _ fun u hu => done_outOk (hfin _ (State.commit_memOk hu ..))

@[simp] theorem takeLock_outOk (hm : s.memOk = true) (try_ : Bool) (a : BitVec 4) (addr : Word) (l : Loc) :
    outOk (takeLock try_ a addr l s) = true := by
  unfold takeLock
  dsimp only
  split
  · split <;> simp [hm]
  · split
    · simp (disch := simp [hm])
    · split
      · simp [hm]
      · next o _ =>
        have hreg := (s.register_memOk s.cx.group 0 0 o).trans hm
        split
        · next t ht =>
          have ht' : t.memOk = true := (congrArg (fun p : State × Nat => p.1.memOk) ht).symm.trans hreg
          simp (disch := simp [ht'])
        · simp [hm]

@[simp] theorem execLock_outOk (hm : s.memOk = true) (a b _c : BitVec 4) (imm : BitVec 6) : outOk (execLock a b _c imm s) = true := by
  exact reading_outOk hm _ (atWord_outOk hm _ _ _ _ _ _ _ _ fun l u hu => takeLock_outOk hu ..)

@[simp] theorem execTrylock_outOk (hm : s.memOk = true) (a b _c : BitVec 4) (imm : BitVec 6) : outOk (execTrylock a b _c imm s) = true := by
  exact reading_outOk hm _ (atWord_outOk hm _ _ _ _ _ _ _ _ fun l u hu => takeLock_outOk hu ..)

@[simp] theorem State.dropLock_memOk (l : Loc) : (s.dropLock l).memOk = s.memOk := by
  unfold State.dropLock
  split <;> simp

@[simp] theorem execUnlock_outOk (hm : s.memOk = true) (_a b _c : BitVec 4) (imm : BitVec 6) : outOk (execUnlock _a b _c imm s) = true := by
  refine reading_outOk hm _ (atWord_outOk hm _ _ _ _ _ _ _ _ fun l u hu => ?_)
  dsimp only
  split <;> simp [hu]

@[simp] theorem State.namedEntry_memOk (e : Holding) : (s.namedEntry e).memOk = s.memOk := by
  simp [State.namedEntry]

theorem withObject_outOk (hm : s.memOk = true) (a : Word) {far : Nat → Holding → Out} (hfar : ∀ i e, outOk (far i e) = true)
    {near : Loc → State → Out} (hnear : ∀ l u, u.memOk = true → outOk (near l u) = true) :
    outOk (withObject a s far near) = true := by
  unfold withObject
  split
  · exact hfar ..
  · exact atWord_outOk hm _ _ _ _ _ _ _ _ hnear

@[simp] theorem heirAt_outOk (hm : s.memOk = true) (a : BitVec 4) (k h : Nat) (addr : Word) (l : Loc) :
    outOk (heirAt a k h addr l s) = true := by
  unfold heirAt
  dsimp only
  refine outOk_ite (by simp [hm]) (outOk_ite (by simp [hm]) ?_)
  split
  · refine outOk_ite (by simp [hm]) (outOk_ite (by simp [hm]) ?_)
    split
    · simp [hm]
    · next o _ =>
      have hreg := (s.register_memOk s.cx.group 2 h o).trans hm
      split
      · next t ht =>
        have ht' : t.memOk = true := (congrArg (fun p : State × Nat => p.1.memOk) ht).symm.trans hreg
        simp [ht']
      · simp [hm]
  · split <;> simp [hm]

@[simp] theorem State.updHandle_memOk (e : Holding) (f : Holding → Holding) : (s.updHandle e f).memOk = s.memOk := by
  simp [State.updHandle]

@[simp] theorem heirFar_outOk (hm : s.memOk = true) (a : BitVec 4) (k h : Nat) (e : Holding) : outOk (heirFar a k h e s) = true := by
  simp [heirFar, hm]

@[simp] theorem execHeir_outOk (hm : s.memOk = true) (a b c : BitVec 4) (imm : BitVec 6) : outOk (execHeir a b c imm s) = true := by
  unfold execHeir
  refine reading_outOk hm _ (outOk_ite (by simp [hm]) ?_)
  exact withObject_outOk hm _ (fun _ e => heirFar_outOk hm ..) fun l u hu => heirAt_outOk hu ..

@[simp] theorem execDisown_outOk (hm : s.memOk = true) (a b c : BitVec 4) (imm : BitVec 6) : outOk (execDisown a b c imm s) = true := by
  refine reading_outOk hm _ (withObject_outOk hm _ (fun _ _ => by simp [hm]) fun l u hu => ?_)
  repeat' split
  all_goals simp [hu]

@[simp] theorem execEstq_outOk (hm : s.memOk = true) (a b _c : BitVec 4) (_imm : BitVec 6) : outOk (execEstq a b _c _imm s) = true := by
  exact reading_outOk hm _ (withObject_outOk hm _ (fun _ _ => by simp [hm]) fun l u hu => by simp [hu])

@[simp] theorem State.ackEntry_memOk (i : Nat) (e : Holding) : (s.ackEntry i e).memOk = s.memOk := by
  simp [State.ackEntry]

@[simp] theorem execAck_outOk (hm : s.memOk = true) (_a b _c : BitVec 4) (_imm : BitVec 6) : outOk (execAck _a b _c _imm s) = true := by
  refine reading_outOk hm _ (withObject_outOk hm _ (fun _ _ => by simp [hm]) fun l u hu => ?_)
  split <;> simp [hu]

/-! ## Loads, stores, atomics and reductions (08) -/

@[simp] theorem aligned_outOk (hm : s.memOk = true) (n addr : Nat) (k : Out) (hk : outOk k = true) : outOk (aligned n addr s k) = true := by
  unfold aligned
  split <;> simp [hm, hk]

@[simp] theorem load_outOk (hm : s.memOk = true) (n : Nat) (sx : Bool) (a : BitVec 4) (addr : Word) :
    outOk (load n sx a addr s) = true := by
  exact aligned_outOk hm _ _ _ (access_outOk hm _ _ _ _ (fun _ ht => ht) _)

@[simp] theorem store_outOk (hm : s.memOk = true) (n : Nat) (a : BitVec 4) (addr : Word) : outOk (store n a addr s) = true := by
  exact aligned_outOk hm _ _ _ (access_outOk hm _ _ _ _ (fun _ ht => ht) _)

@[simp] theorem ldM_outOk (hm : s.memOk = true) (n : Nat) (sx : Bool) (a b : BitVec 4) (imm : BitVec 22) :
    outOk (ldM n sx a b imm s) = true := by
  unfold ldM
  exact reading_outOk hm _ (by simp [hm])

@[simp] theorem stM_outOk (hm : s.memOk = true) (n : Nat) (a b : BitVec 4) (imm : BitVec 22) : outOk (stM n a b imm s) = true := by
  unfold stM
  exact reading_outOk hm _ (by simp [hm])

@[simp] theorem ldS_outOk (hm : s.memOk = true) (n : Nat) (sx : Bool) (a b c : BitVec 4) : outOk (ldS n sx a b c s) = true := by
  unfold ldS
  exact reading_outOk hm _ (by simp [hm])

@[simp] theorem stS_outOk (hm : s.memOk = true) (n : Nat) (a b c : BitVec 4) : outOk (stS n a b c s) = true := by
  unfold stS
  exact reading_outOk hm _ (by simp [hm])

@[simp] theorem execLdQ_outOk (hm : s.memOk = true) (a b c : BitVec 4) (imm : BitVec 22) : outOk (execLdQ a b c imm s) = true := by
  simp [execLdQ, hm]

@[simp] theorem execStQ_outOk (hm : s.memOk = true) (a b c : BitVec 4) (imm : BitVec 22) : outOk (execStQ a b c imm s) = true := by
  simp [execStQ, hm]

@[simp] theorem execLdxQ_outOk (hm : s.memOk = true) (a b c : BitVec 4) (imm : BitVec 6) : outOk (execLdxQ a b c imm s) = true := by
  simp [execLdxQ, hm]

@[simp] theorem execStxQ_outOk (hm : s.memOk = true) (a b c : BitVec 4) (imm : BitVec 6) : outOk (execStxQ a b c imm s) = true := by
  simp [execStxQ, hm]

@[simp] theorem amo_outOk (hm : s.memOk = true) (op : Nat) (a b c : BitVec 4) (imm : BitVec 6) : outOk (amo op a b c imm s) = true := by
  unfold amo
  refine reading_outOk hm _ ?_
  dsimp only
  exact outOk_ite (by simp [hm]) (access_outOk hm _ _ _ _ (fun _ ht => ht) _)

@[simp] theorem red_outOk (hm : s.memOk = true) (op : Nat) (b c : BitVec 4) (imm : BitVec 6) : outOk (red op b c imm s) = true := by
  unfold red
  refine reading_outOk hm _ ?_
  dsimp only
  exact outOk_ite (by simp [hm]) (access_outOk hm _ _ _ _ (fun _ ht => ht) _)

/-! ## Vector instructions (07) -/

theorem vreading_outOk (hm : s.memOk = true) (k : BitVec 3) (srcs : List (BitVec 5)) {f : State → Out} (hf : outOk (f s) = true) :
    outOk (vreading k srcs s f) = true :=
  readingV_outOk hm _ hf

@[simp] theorem State.setLanes_memOk (hm : s.memOk = true) (k : BitVec 3) (vd : BitVec 5) (f : Nat → Nat × Nat) :
    (s.setLanes k vd f).memOk = true := by
  simp [State.setLanes, hm]

@[simp] theorem lanewise_outOk (hm : s.memOk = true) (i : Instr) (k : BitVec 3) (vd : BitVec 5) (srcs : List (BitVec 5))
    (f : State → Nat → List Nat → Nat × Nat) :
    outOk (lanewise i k vd srcs f s) = true := by
  exact checked_outOk hm _ _ (vreading_outOk hm _ _ (by simp [hm]))

@[simp] theorem vint_outOk (hm : s.memOk = true) (i : Instr) (k : BitVec 3) (vd : BitVec 5) (srcs : List (BitVec 5)) (md : BitVec 8)
    (f : Bool → Nat → Nat → Nat → Nat) :
    outOk (vint i k vd srcs md f s) = true := by
  simp [vint, hm]

@[simp] theorem vfp_outOk (hm : s.memOk = true) (i : Instr) (k : BitVec 3) (vd : BitVec 5) (srcs : List (BitVec 5)) (md : BitVec 8)
    (f : Rm → Nat → List FVal → FVal) :
    outOk (vfp i k vd srcs md f s) = true := by
  simp [vfp, hm]

@[simp] theorem vfsign_outOk (hm : s.memOk = true) (i : Instr) (k : BitVec 3) (vd va : BitVec 5) (md : BitVec 8) (f : Bool → Bool) :
    outOk (vfsign i k vd va md f s) = true := by
  simp [vfsign, hm]

@[simp] theorem execVfsub_outOk (hm : s.memOk = true) (a b : BitVec 4) (vd va vb : BitVec 5) (k : BitVec 3) (md : BitVec 8) :
    outOk (execVfsub a b vd va vb k md s) = true := by
  simp [execVfsub, hm]

@[simp] theorem vcmp_outOk (hm : s.memOk = true) (i : Instr) (k : BitVec 3) (kd va vb : BitVec 5) (f : Nat → Nat → Bool) :
    outOk (vcmp i k kd va vb f s) = true := by
  exact checked_outOk hm _ _ (vreading_outOk hm _ _ (by simp [hm]))

@[simp] theorem kop_outOk (hm : s.memOk = true) (i : Instr) (kd : BitVec 5) (ks : List (BitVec 5)) (f : Nat → Nat → Nat) :
    outOk (kop i kd ks f s) = true := by
  exact checked_outOk hm _ _ (readingV_outOk hm _ (by simp [hm]))

@[simp] theorem execVblend_outOk (hm : s.memOk = true) (a b : BitVec 4) (vd va vb : BitVec 5) (k : BitVec 3) (md : BitVec 8) :
    outOk (execVblend a b vd va vb k md s) = true := by
  exact checked_outOk hm _ _ (vreading_outOk hm _ _ (by simp [hm]))

@[simp] theorem execKpop_outOk (hm : s.memOk = true) (a b : BitVec 4) (vd va vb : BitVec 5) (k : BitVec 3) (md : BitVec 8) :
    outOk (execKpop a b vd va vb k md s) = true := by
  exact checked_outOk hm _ _ (readingV_outOk hm _ (by simp [hm]))

@[simp] theorem State.setGroup_memOk (hm : s.memOk = true) (r : BitVec 5) (n : Nat) (xs : List Nat) : (s.setGroup r n xs).memOk = true := by
  simp +contextual [State.setGroup, hm, foldl_memOk]

@[simp] theorem execVpack_outOk (hm : s.memOk = true) (a b : BitVec 4) (vd va vb : BitVec 5) (k : BitVec 3) (md : BitVec 8) :
    outOk (execVpack a b vd va vb k md s) = true := by
  refine checked_outOk hm _ _ (outOk_ite (readingV_outOk hm _ (by simp [hm])) (outOk_ite (readingV_outOk hm _ (by simp [hm])) ?_))
  exact reading_outOk hm _ (readingV_outOk hm _ (by simp [hm]))

@[simp] theorem execVunpk_outOk (hm : s.memOk = true) (a b : BitVec 4) (vd va vb : BitVec 5) (k : BitVec 3) (md : BitVec 8) :
    outOk (execVunpk a b vd va vb k md s) = true := by
  refine checked_outOk hm _ _ (outOk_ite (reading_outOk hm _ (readingV_outOk hm _ (by simp [hm]))) ?_)
  exact readingV_outOk hm _ (by simp [hm])

@[simp] theorem execVrnd_outOk (hm : s.memOk = true) (a b : BitVec 4) (vd va vb : BitVec 5) (k : BitVec 3) (md : BitVec 8) :
    outOk (execVrnd a b vd va vb k md s) = true := by
  refine checked_outOk hm _ _ (reading_outOk hm _ (outOk_ite (vreading_outOk hm _ _ ?_) (vreading_outOk hm _ _ (by simp [hm]))))
  exact readingV_outOk hm _ (by simp [hm])

@[simp] theorem vaccess_outOk (hm : s.memOk = true) (n : Nat) (es : List Elem) : outOk (vaccess n es s) = true := by
  unfold vaccess
  split
  · simp [hm]
  · exact access_outOk hm _ _ _ _ (fun _ ht => ht) _

@[simp] theorem vmem_outOk (hm : s.memOk = true) (i : Instr) (rs : List (BitVec 4)) (k : BitVec 3) (vd : BitVec 5)
    (idx : List (BitVec 5)) (ld : Bool) (addr : State → Nat → Word) :
    outOk (vmem i rs k vd idx ld addr s) = true := by
  exact checked_outOk hm _ _ (reading_outOk hm _ (vreading_outOk hm _ _ (vaccess_outOk hm ..)))

@[simp] theorem execVstk_outOk (hm : s.memOk = true) (a b : BitVec 4) (vd va vb : BitVec 5) (k : BitVec 3) (md : BitVec 8) :
    outOk (execVstk a b vd va vb k md s) = true := by
  exact checked_outOk hm _ _ (reading_outOk hm _ (readingV_outOk hm _ (vaccess_outOk hm ..)))

@[simp] theorem execVldb_outOk (hm : s.memOk = true) (a b : BitVec 4) (vd va vb : BitVec 5) (k : BitVec 3) (md : BitVec 8) :
    outOk (execVldb a b vd va vb k md s) = true := by
  simp (disch := simp [hm]) [execVldb]

@[simp] theorem vperm_outOk (hm : s.memOk = true) (i : Instr) (k : BitVec 3) (vd : BitVec 5) (srcs : List (BitVec 5))
    (f : Nat → List Nat → List Nat → Nat) :
    outOk (vperm i k vd srcs f s) = true := by
  exact checked_outOk hm _ _ (vreading_outOk hm _ _ (by simp [hm]))

@[simp] theorem execVbcast_outOk (hm : s.memOk = true) (a b : BitVec 4) (vd va vb : BitVec 5) (k : BitVec 3) (md : BitVec 8) :
    outOk (execVbcast a b vd va vb k md s) = true := by
  exact checked_outOk hm _ _ (reading_outOk hm _ (vreading_outOk hm _ _ (by simp [hm])))

@[simp] theorem execVext_outOk (hm : s.memOk = true) (a b : BitVec 4) (vd va vb : BitVec 5) (k : BitVec 3) (md : BitVec 8) :
    outOk (execVext a b vd va vb k md s) = true := by
  exact checked_outOk hm _ _ (vreading_outOk hm _ _ (by simp [hm]))

@[simp] theorem execVins_outOk (hm : s.memOk = true) (a b : BitVec 4) (vd va vb : BitVec 5) (k : BitVec 3) (md : BitVec 8) :
    outOk (execVins a b vd va vb k md s) = true := by
  exact checked_outOk hm _ _ (reading_outOk hm _ (by simp [hm]))

theorem vscan_outOk (hm : s.memOk = true) (i : Instr) (k : BitVec 3) (va : BitVec 5) (f : State → Nat → Nat → Nat → Nat) (e : Nat)
    {fin : State → List Nat → State} (hfin : ∀ xs, (fin s xs).memOk = true) : outOk (vscan i k va f e fin s) = true :=
  checked_outOk hm _ _ (vreading_outOk hm _ _ (done_outOk (hfin _)))

@[simp] theorem execVscanAdd_outOk (hm : s.memOk = true) (a b : BitVec 4) (vd va vb : BitVec 5) (k : BitVec 3) (md : BitVec 8) :
    outOk (execVscanAdd a b vd va vb k md s) = true := by
  exact vscan_outOk hm _ _ _ _ _ fun xs => by simp [hm]

@[simp] theorem execVscanMax_outOk (hm : s.memOk = true) (a b : BitVec 4) (vd va vb : BitVec 5) (k : BitVec 3) (md : BitVec 8) :
    outOk (execVscanMax a b vd va vb k md s) = true := by
  exact vscan_outOk hm _ _ _ _ _ fun xs => by simp [hm]

@[simp] theorem execVscanLin_outOk (hm : s.memOk = true) (a b : BitVec 4) (vd va vb : BitVec 5) (k : BitVec 3) (md : BitVec 8) :
    outOk (execVscanLin a b vd va vb k md s) = true := by
  exact checked_outOk hm _ _ (readingV_outOk hm _ (by simp [hm]))

@[simp] theorem execVredAdd_outOk (hm : s.memOk = true) (a b : BitVec 4) (vd va vb : BitVec 5) (k : BitVec 3) (md : BitVec 8) :
    outOk (execVredAdd a b vd va vb k md s) = true := by
  exact vscan_outOk hm _ _ _ _ _ fun xs => by simp [hm]

@[simp] theorem execVredMax_outOk (hm : s.memOk = true) (a b : BitVec 4) (vd va vb : BitVec 5) (k : BitVec 3) (md : BitVec 8) :
    outOk (execVredMax a b vd va vb k md s) = true := by
  exact vscan_outOk hm _ _ _ _ _ fun xs => by simp [hm]

@[simp] theorem execVcarry_outOk (hm : s.memOk = true) (a b : BitVec 4) (vd va vb : BitVec 5) (k : BitVec 3) (md : BitVec 8) :
    outOk (execVcarry a b vd va vb k md s) = true := by
  exact checked_outOk hm _ _ (reading_outOk hm _ (readingV_outOk hm _ (by simp [hm])))

end

end Sys2Proof.Machine

/-! PROOFS. Both memories stay in canonical form under tile operations, rows and learning, and wakes. -/

namespace Sys2Proof.Machine

section
variable {s : State}

/-! ## Tiles (10) -/

@[simp] theorem State.setTile_memOk (core t : Nat) (x : Tile) : (s.setTile core t x).memOk = s.memOk := by
  simp [State.setTile]

@[simp] theorem State.dropOp_memOk (core id : Nat) : (s.dropOp core id).memOk = s.memOk := by
  simp [State.dropOp]

@[simp] theorem placed_outOk (hm : s.memOk = true) (k : Out) (hk : outOk k = true) : outOk (placed s k) = true := by
  unfold placed
  split <;> simp [hm, hk]

@[simp] theorem unpoisoned_outOk (hm : s.memOk = true) (t : Nat) (k : Out) (hk : outOk k = true) : outOk (unpoisoned t s k) = true := by
  unfold unpoisoned
  split <;> simp [hm, hk]

@[simp] theorem State.queueOp_memOk (t : Nat) (w : TileWork) : (s.queueOp t w).memOk = s.memOk := by
  simp [State.queueOp]

@[simp] theorem mmaForm_outOk (hm : s.memOk = true) (i : Instr) (minor : Nat) (vd va vb : BitVec 5) :
    outOk (mmaForm i minor vd va vb s) = true := by
  refine checked_outOk hm _ _ (unpoisoned_outOk hm _ _ (placed_outOk hm _ ?_))
  dsimp only
  refine outOk_ite (by simp [hm]) (outOk_ite (by simp [hm]) ?_)
  split
  · simp [hm]
  · refine outOk_ite (by simp [hm]) (watched_outOk hm _ _ _ _ fun u hu => done_outOk ?_)
    rw [State.addCerrOn_memOk, State.queueOp_memOk, State.setCx_memOk, hu]

@[simp] theorem State.unpoison_memOk (t : Nat) : (s.unpoison t).memOk = s.memOk := by
  simp [State.unpoison]

@[simp] theorem execMzero_outOk (hm : s.memOk = true) (a b : BitVec 4) (vd va vb : BitVec 5) (k : BitVec 3) (md : BitVec 8) :
    outOk (execMzero a b vd va vb k md s) = true := by
  simp (disch := simp [hm]) [execMzero]

@[simp] theorem execMlda_outOk (hm : s.memOk = true) (a b : BitVec 4) (vd va vb : BitVec 5) (k : BitVec 3) (md : BitVec 8) :
    outOk (execMlda a b vd va vb k md s) = true := by
  refine checked_outOk hm _ _ (reading_outOk hm _ (placed_outOk hm _ ?_))
  dsimp only
  split
  · simp [hm]
  · split
    · simp [hm]
    · refine outOk_ite (by simp [hm]) (watched_outOk hm _ _ _ _ fun u hu => done_outOk ?_)
      rw [State.addCerrOn_memOk, State.queueOp_memOk, State.unpoison_memOk, hu]

@[simp] theorem tileStore_outOk (hm : s.memOk = true) (i : Instr) (a : BitVec 4) (b : Option (BitVec 4)) (vd : BitVec 5) (md : BitVec 8) :
    outOk (tileStore i a b vd md s) = true := by
  refine checked_outOk hm _ _ (reading_outOk hm _ (unpoisoned_outOk hm _ _ (placed_outOk hm _ ?_)))
  dsimp only
  split
  · simp [hm]
  · refine outOk_ite (by simp [hm]) (watched_outOk hm _ _ _ _ fun u hu => done_outOk ?_)
    split <;> simp [hu]

@[simp] theorem execMdrain_outOk (hm : s.memOk = true) (a b : BitVec 4) (vd va vb : BitVec 5) (k : BitVec 3) (md : BitVec 8) :
    outOk (execMdrain a b vd va vb k md s) = true := by
  unfold execMdrain
  dsimp only
  split <;> simp [hm]

@[simp] theorem State.poison_memOk (core t addr : Nat) : (s.poison core t addr).memOk = s.memOk := by
  simp [State.poison]

@[simp] theorem State.putSome_memOk (hm : s.memOk = true) (core : Nat) (rs : List (Nat × Nat)) (left : List (Nat × List Byte)) (n : Nat) :
    (s.putSome core rs left n).1.memOk = true := by
  simp +contextual [State.putSome, hm, foldl_memOk]

@[simp] theorem execTileOpTaken_outOk (hm : s.memOk = true) (core : Nat) : outOk (execTileOpTaken core s) = true := by
  unfold execTileOpTaken
  dsimp only
  repeat' split
  all_goals simp [hm]

@[simp] theorem execTileOpComplete_outOk (hm : s.memOk = true) (core id : Nat) : outOk (execTileOpComplete core id s) = true := by
  unfold execTileOpComplete
  repeat' split
  all_goals simp +contextual [hm, foldl_memOk]

/-! ## Rows and learning groups (12) -/

@[simp] theorem State.stampRow_memOk (hm : s.memOk = true) (core : Nat) (c : Ctx) (r : Row) (stamp : Nat) :
    (s.stampRow core c r stamp).memOk = true := by
  simp [State.stampRow, hm]

@[simp] theorem State.fstepFrom_memOk (hm : s.memOk = true) (core : Nat) (c : Ctx) (r : Row) (x old tick j0 : Nat) (bs : List Bcast) :
    (s.fstepFrom core c r x old tick j0 bs).1.memOk = true := by
  refine foldl_fst_memOk (α := Nat × Option (Nat × Nat)) hm (fun p j hp => ?_) _ _
  dsimp only
  split
  · exact hp
  · split
    · exact hp
    · simp [hp]

@[simp] theorem fstepRun_outOk (hm : s.memOk = true) (r : Row) (x old tick j0 : Nat) (bs : List Bcast) :
    outOk (fstepRun r x old tick j0 bs s) = true := by
  unfold fstepRun
  dsimp only
  split <;> simp [hm]

@[simp] theorem execFstep_outOk (hm : s.memOk = true) (a b c : BitVec 4) (imm : BitVec 6) : outOk (execFstep a b c imm s) = true := by
  unfold execFstep
  refine reading_outOk hm _ ?_
  dsimp only
  split
  · refine outOk_ite (by simp [hm]) (outOk_ite (by simp [hm]) ?_)
    split
    · simp [hm]
    · exact outOk_ite (by simp [hm]) (watched_outOk hm _ _ _ _ fun u hu => fstepRun_outOk hu ..)
  · refine outOk_ite (by simp [hm]) ?_
    split
    · simp [hm]
    · exact outOk_ite (by simp [hm]) (watched_outOk hm _ _ _ _ fun u hu => fstepRun_outOk (by simp [hu]) ..)

@[simp] theorem execTick_outOk (hm : s.memOk = true) (a _b _c : BitVec 4) (imm : BitVec 6) : outOk (execTick a _b _c imm s) = true := by
  simp [execTick, hm]

@[simp] theorem State.fadeRow_memOk (hm : s.memOk = true) (core : Nat) (c : Ctx) (r : Row) : (s.fadeRow core c r).memOk = true := by
  exact State.stampRow_memOk (foldl_memOk hm (fun t j ht => State.wrS_memOk ht ..) _) ..

theorem rowFade_outOk (hm : s.memOk = true) (row idx : Nat) {fin : Row → State → State}
    (hfin : ∀ r t, t.memOk = true → (fin r t).memOk = true) : outOk (rowFade row idx fin s) = true := by
  unfold rowFade
  refine outOk_ite (by simp [hm]) ?_
  split
  · simp [hm]
  · refine outOk_ite (by simp [hm]) ?_
    split
    · simp [hm]
    · refine watched_outOk hm _ _ _ _ fun u hu => done_outOk ?_
      rw [State.addCerrOn_memOk]
      exact hfin _ _ (State.fadeRow_memOk hu ..)

@[simp] theorem execRfade_outOk (hm : s.memOk = true) (_a b _c : BitVec 4) (_imm : BitVec 6) : outOk (execRfade _a b _c _imm s) = true := by
  exact reading_outOk hm _ (rowFade_outOk hm _ _ fun r t ht => ht)

@[simp] theorem execRinit_outOk (hm : s.memOk = true) (a b _c : BitVec 4) (_imm : BitVec 6) : outOk (execRinit a b _c _imm s) = true := by
  unfold execRinit
  refine reading_outOk hm _ ?_
  dsimp only
  refine outOk_ite (by simp [hm]) (outOk_ite (by simp [hm]) ?_)
  split
  · simp [hm]
  · refine outOk_ite (by simp [hm]) ?_
    split
    · simp [hm]
    · refine outOk_ite (by simp [hm]) (watched_outOk hm _ _ _ _ fun u hu => done_outOk ?_)
      have hrow (t : State) (ht : t.memOk = true) (n row : Nat) :
          ((upTo n).foldl (fun s j => s.wrS s.here (row + 16 + 8 * j) 3 0) t).memOk = true :=
        foldl_memOk ht (fun t j ht => State.wrS_memOk ht ..) _
      split
      · exact (State.setCx_memOk ..).trans (hrow _ (State.wrS_memOk (State.wrS_memOk hu ..) ..) ..)
      · exact hrow _ (State.wrS_memOk (State.wrS_memOk hu ..) ..) ..

@[simp] theorem execRwgt_outOk (hm : s.memOk = true) (a b c : BitVec 4) (_imm : BitVec 6) : outOk (execRwgt a b c _imm s) = true := by
  exact reading_outOk hm _ (rowFade_outOk hm _ _ fun r t ht => State.setW_memOk ht ..)

@[simp] theorem learning_outOk (hm : s.memOk = true) (i : Instr) (k : Out) (hk : outOk k = true) : outOk (learning i s k) = true := by
  unfold learning
  split <;> simp [hm, hk]

@[simp] theorem execBcast_outOk (hm : s.memOk = true) (a b c : BitVec 4) (imm : BitVec 6) : outOk (execBcast a b c imm s) = true := by
  unfold execBcast
  dsimp only
  simp (disch := simp (disch := simp [hm]) [hm])

@[simp] theorem execBacc_outOk (hm : s.memOk = true) (a b c : BitVec 4) (imm : BitVec 6) : outOk (execBacc a b c imm s) = true := by
  simp (disch := simp [hm]) [execBacc]

@[simp] theorem execBwait_outOk (hm : s.memOk = true) (a b c : BitVec 4) (imm : BitVec 6) : outOk (execBwait a b c imm s) = true := by
  simp [execBwait, hm]

@[simp] theorem execBseq_outOk (hm : s.memOk = true) (a _b _c : BitVec 4) (_imm : BitVec 6) : outOk (execBseq a _b _c _imm s) = true := by
  simp [execBseq, hm]

@[simp] theorem State.mcastAway_memOk (lg num r : Nat) : (s.mcastAway lg num r).memOk = s.memOk := by
  simp [State.mcastAway]

@[simp] theorem execBcastRequestArrival_outOk (hm : s.memOk = true) (id : Nat) : outOk (execBcastRequestArrival id s) = true := by
  unfold execBcastRequestArrival
  dsimp only
  repeat' split
  all_goals simp [hm]

@[simp] theorem execBcastAnswerArrival_outOk (hm : s.memOk = true) (id : Nat) : outOk (execBcastAnswerArrival id s) = true := by
  unfold execBcastAnswerArrival
  split <;> simp [hm]

@[simp] theorem execBroadcastReceive_outOk (hm : s.memOk = true) (id : Nat) : outOk (execBroadcastReceive id s) = true := by
  unfold execBroadcastReceive
  dsimp only
  repeat' split
  all_goals simp [hm]

@[simp] theorem execBroadcastAccept_outOk (hm : s.memOk = true) (cid : Nat) : outOk (execBroadcastAccept cid s) = true := by
  simp [execBroadcastAccept, hm]

@[simp] theorem State.lagRow_memOk (hm : s.memOk = true) (core : Nat) (c : Ctx) (r : Row) : (s.lagRow core c r).memOk = true := by
  simp [State.lagRow, hm]

@[simp] theorem State.catchUp_memOk (hm : s.memOk = true) (core : Nat) (c : Ctx) (r : Row) (n : Nat) :
    (s.catchUp core c r n).memOk = true := by
  simp +contextual [State.catchUp, hm, foldl_memOk]

@[simp] theorem State.sweepRow_memOk (hm : s.memOk = true) (cid a : Nat) : (s.sweepRow cid a).memOk = true := by
  unfold State.sweepRow
  dsimp only
  repeat' split
  all_goals simp [hm]

@[simp] theorem State.reportRetired_memOk (lg v num : Nat) : (s.reportRetired lg v num).memOk = s.memOk := by
  simp [State.reportRetired]

@[simp] theorem execSweepWalk_outOk (hm : s.memOk = true) (cid : Nat) : outOk (execSweepWalk cid s) = true := by
  simp +contextual [execSweepWalk, hm, foldl_memOk]

@[simp] theorem execRetirementReportArrival_outOk (hm : s.memOk = true) (id : Nat) : outOk (execRetirementReportArrival id s) = true := by
  unfold execRetirementReportArrival
  repeat' split
  all_goals simp [hm]

/-! ## Wakes (05, 11) -/

@[simp] theorem State.latch_memOk : (s.latch).memOk = s.memOk := by
  simp [State.latch]

@[simp] theorem State.wake_memOk (cid : Nat) : (s.wake cid).memOk = s.memOk := by
  unfold State.wake
  dsimp only
  split <;> simp

@[simp] theorem execWakeArrival_outOk (hm : s.memOk = true) (cid : Nat) : outOk (execWakeArrival cid s) = true := by
  simp [execWakeArrival, hm]

@[simp] theorem execLongWaitExpiry_outOk (hm : s.memOk = true) (cid : Nat) : outOk (execLongWaitExpiry cid s) = true := by
  simp [execLongWaitExpiry, hm]

@[simp] theorem execCpopParkExpiry_outOk (hm : s.memOk = true) (cid : Nat) : outOk (execCpopParkExpiry cid s) = true := by
  unfold execCpopParkExpiry
  split <;> simp [hm]

end

end Sys2Proof.Machine

/-! PROOFS. Both memories stay in canonical form under the operations of groups and kernels. -/

namespace Sys2Proof.Machine

section
variable {s : State}

/-! ## Groups and their strands -/

theorem State.spad_wf (hm : s.memOk = true) : Memory.wf s.spad = true := (Bool.and_eq_true_iff.1 hm).1

/-- An update of the scratchpads that keeps their form keeps both forms. -/
theorem State.memOk_of_spad {t : State} (hm : s.memOk = true) (hs : Memory.wf t.spad = true) (hh : t.hbm = s.hbm) :
    t.memOk = true := by
  unfold State.memOk at hm ⊢
  rw [hs, hh]
  exact (Bool.and_eq_true_iff.1 hm).2

@[simp] theorem State.dropUnstarted_memOk (hm : s.memOk = true) (core : Nat) : (s.dropUnstarted core).memOk = true := by
  refine foldl_memOk hm (fun t c ht => ?_) _
  split
  · next hr => simp [State.report_memOk ht hr]
  · simp [ht]

@[simp] theorem State.endSeq_memOk (hm : s.memOk = true) (cid : Nat) : (s.endSeq cid).memOk = true := by
  simp [State.endSeq, hm]

@[simp] theorem State.dropTiles_memOk (cid : Nat) : (s.dropTiles cid).memOk = s.memOk := by
  simp [State.dropTiles]

@[simp] theorem State.leaveLearning_memOk (c : Ctx) : (s.leaveLearning c).memOk = s.memOk := by
  simp [State.leaveLearning]

@[simp] theorem State.endCtx_memOk (hm : s.memOk = true) (cid : Nat) : (s.endCtx cid).memOk = true := by
  simp [State.endCtx, hm]

@[simp] theorem State.placeChanged_memOk (h v : Nat) : (s.placeChanged h v).memOk = s.memOk := by
  simp [State.placeChanged]

@[simp] theorem State.placesChanged_memOk (h : Nat) (vs : List Nat) : (s.placesChanged h vs).memOk = s.memOk := by
  simp [State.placesChanged]

@[simp] theorem State.wakePassers_memOk (core : Nat) : (s.wakePassers core).memOk = s.memOk := by
  simp [State.wakePassers]

@[simp] theorem State.tryExitMember_memOk (h v : Nat) : (s.tryExitMember h v).memOk = s.memOk := by
  unfold State.tryExitMember
  split <;> simp

@[simp] theorem State.fillDone_memOk (hm : s.memOk = true) (g : Group) : (s.fillDone g).memOk = true := by
  unfold State.fillDone
  dsimp only
  repeat' split
  all_goals simp [hm]

@[simp] theorem State.performFills_memOk (hm : s.memOk = true) (h : Nat) : (s.performFills h).memOk = true := by
  unfold State.performFills
  split
  · exact hm
  · refine foldl_memOk (by simp [hm]) (fun t x ht => ?_) _
    split <;> simp [ht]

@[simp] theorem State.tryClose_memOk (hm : s.memOk = true) (part : Nat) : (s.tryClose part).memOk = true := by
  unfold State.tryClose
  split
  · exact hm
  · split
    · exact hm
    · exact State.memOk_of_spad hm (Memory.wf_filter (State.spad_wf hm) _) rfl

@[simp] theorem State.retire_memOk (hm : s.memOk = true) (h : Nat) : (s.retire h).memOk = true := by
  unfold State.retire
  split <;> simp [hm]

@[simp] theorem State.endGroup_memOk (hm : s.memOk = true) (h cause : Nat) : (s.endGroup h cause).memOk = true := by
  unfold State.endGroup
  split
  · exact hm
  · split
    · exact hm
    · dsimp only
      have hends := foldl_memOk hm (f := fun (s : State) c => s.endCtx c) (fun t c ht => State.endCtx_memOk ht ..)
        ((s.groupCids h).filter (fun c => !isCopy c))
      split
      · exact hends
      · split <;> simp [hends]

@[simp] theorem State.afterExit_memOk (hm : s.memOk = true) (h v wid : Nat) : (s.afterExit h v wid).memOk = true := by
  unfold State.afterExit
  split <;> simp [hm]

/-! ## LAUNCH, EXIT, KILL, GSTAT and the host's launch -/

@[simp] theorem State.submit_memOk (hdr : Header) (parent part : Nat) (fromHost : Bool) :
    (s.submit hdr parent part fromHost).1.memOk = s.memOk := by
  simp [State.submit]

@[simp] theorem execLaunch_outOk (hm : s.memOk = true) (a b _c : BitVec 4) (_imm : BitVec 6) : outOk (execLaunch a b _c _imm s) = true := by
  unfold execLaunch
  refine reading_outOk hm _ ?_
  dsimp only
  refine outOk_ite (by simp [hm]) (loading_outOk hm _ _ _ fun d u hu => ?_)
  split
  · exact outOk_ite (by simp [hu]) (by simp [hu])
  · simp [hu]

@[simp] theorem execExit_outOk (hm : s.memOk = true) (_a _b _c : BitVec 4) (_imm : BitVec 6) : outOk (execExit _a _b _c _imm s) = true := by
  simp (disch := simp [hm]) [execExit]

@[simp] theorem execKill_outOk (hm : s.memOk = true) (a b _c : BitVec 4) (_imm : BitVec 6) : outOk (execKill a b _c _imm s) = true := by
  unfold execKill
  refine reading_outOk hm _ ?_
  dsimp only
  split <;> simp [hm]

@[simp] theorem execGstat_outOk (hm : s.memOk = true) (a b _c : BitVec 4) (_imm : BitVec 6) : outOk (execGstat a b _c _imm s) = true := by
  unfold execGstat
  exact reading_outOk hm _ (by simp [hm])

@[simp] theorem State.markImage_memOk (hm : s.memOk = true) (g : Group) : (s.markImage g).memOk = true := by
  refine foldl_memOk hm (fun t va ht => ?_) _
  split <;> simp [ht]

@[simp] theorem State.zeroRange_memOk (hm : s.memOk = true) (core lo hi : Nat) : (s.zeroRange core lo hi).memOk = true := by
  exact State.memOk_of_spad hm (Memory.wf_filter (State.spad_wf hm) _) rfl

@[simp] theorem State.cleanRange_memOk (core lo hi : Nat) : (s.cleanRange core lo hi).memOk = s.memOk := by
  simp [State.cleanRange]

@[simp] theorem State.launchRange_memOk (hm : s.memOk = true) (g : Group) (core : Nat) (img : List Byte) :
    (s.launchRange g core img).memOk = true := by
  have hzero : (s.zeroRange core g.hdr.slo g.hdr.slim).memOk = true := State.zeroRange_memOk hm ..
  exact State.memOk_of_spad hzero (Memory.wf_writeBytes img (State.spad_wf hzero) _) rfl

@[simp] theorem State.zeroRegs_memOk (hm : s.memOk = true) (core : Nat) (c : Ctx) : (s.zeroRegs core c).memOk = true := by
  exact State.memOk_of_spad hm (Memory.wf_filter (State.spad_wf hm) _) rfl

@[simp] theorem State.launchStrand_memOk (hm : s.memOk = true) (g : Group) (core slot v i lgrp : Nat) :
    (s.launchStrand g core slot v i lgrp).memOk = true := by
  simp (disch := simp [hm]) [State.launchStrand]

@[simp] theorem State.launchMember_memOk (hm : s.memOk = true) (g : Group) (core v lgrp : Nat) (img : List Byte) :
    (s.launchMember g core v lgrp img).memOk = true := by
  unfold State.launchMember
  simp +contextual [hm, foldl_memOk]

@[simp] theorem State.boxImage_memOk (g : Group) (va core : Nat) : (s.boxImage g va core).memOk = s.memOk := by
  unfold State.boxImage
  split <;> simp

@[simp] theorem State.placeGroup_memOk (hm : s.memOk = true) (g : Group) (o : Nat) : (s.placeGroup g o).memOk = true := by
  unfold State.placeGroup
  dsimp only
  split
  · have hzero := foldl_memOk (s := { s with slept := s.slept.filter (fun x => x != g.seq) })
      (f := fun (s : State) c => s.zeroRange c g.hdr.slo g.hdr.slim) (by simp [hm]) (fun t c ht => State.zeroRange_memOk ht ..)
      (g.hdr.coresAt o)
    simp [hzero]
  · refine foldl_memOk ?_ (fun t x ht => State.launchMember_memOk ht ..) _
    split <;> simp [hm]

@[simp] theorem execGroupPlacement_outOk (hm : s.memOk = true) (h : Nat) : outOk (execGroupPlacement h s) = true := by
  unfold execGroupPlacement
  repeat' split
  all_goals simp [hm]

@[simp] theorem execHostLaunch_outOk (hm : s.memOk = true) (part : Nat) (hdr : List Byte) : outOk (execHostLaunch part hdr s) = true := by
  by_cases hup : s.boot = .up
  · cases hp : mget s.parts part with
    | none => simp [execHostLaunch, hup, hp, hm]
    | some p =>
      cases hstate : p.state with
      | closing => simp [execHostLaunch, hup, hp, hstate, hm]
      | live =>
        by_cases hcode : s.launchCode ((upTo 16).map (dwOf hdr)) part true none = 0
        · rw [hostLaunch_submits hp hstate hup hcode]
          simp [hm]
        · rw [hostLaunch_refused hp hstate hup hcode]
          simp [hm]
  · simp [execHostLaunch, hup, hm]

@[simp] theorem execHostKill_outOk (hm : s.memOk = true) (h : Nat) : outOk (execHostKill h s) = true := by
  unfold execHostKill
  split <;> simp [hm]

end

end Sys2Proof.Machine

/-! PROOFS. Both memories stay in canonical form under links, remote accesses and reductions in the network. -/

namespace Sys2Proof.Machine

section
variable {s : State}

/-! ## Links and remote accesses (24) -/

theorem State.memOk_ite {c : Prop} [Decidable c] {t u : State} (ht : t.memOk = true) (hu : u.memOk = true) :
    (if c then t else u).memOk = true := by
  split
  · exact ht
  · exact hu

@[simp] theorem onLink_outOk (hm : s.memOk = true) {t : State} (ht : t.memOk = true) (l i : Nat) : outOk (onLink l i s t) = true := by
  unfold onLink
  split
  · exact ht
  · exact hm

@[simp] theorem State.wlFail_memOk (l i : Nat) : (s.wlFail l i).memOk = s.memOk := by
  simp [State.wlFail]

@[simp] theorem wlStep_memOk (l i : Nat) (from_ : Wl) (f : Link → Link) : (wlStep l i from_ f s).memOk = s.memOk := by
  simp [wlStep]

@[simp] theorem execLossOfLight_outOk (hm : s.memOk = true) (l i : Nat) : outOk (execLossOfLight l i s) = true := by
  simp [execLossOfLight, hm]

@[simp] theorem execLockReached_outOk (hm : s.memOk = true) (l i : Nat) : outOk (execLockReached l i s) = true := by
  simp [execLockReached, hm]

@[simp] theorem execWakeTimeout_outOk (hm : s.memOk = true) (l i : Nat) : outOk (execWakeTimeout l i s) = true := by
  simp [execWakeTimeout, hm]

@[simp] theorem execTrainingPass_outOk (hm : s.memOk = true) (l i : Nat) : outOk (execTrainingPass l i s) = true := by
  simp [execTrainingPass, hm]

@[simp] theorem execRetrainTimeout_outOk (hm : s.memOk = true) (l i : Nat) : outOk (execRetrainTimeout l i s) = true := by
  simp [execRetrainTimeout, hm]

@[simp] theorem execErrorWindowEnd_outOk (hm : s.memOk = true) (l i : Nat) : outOk (execErrorWindowEnd l i s) = true := by
  simp [execErrorWindowEnd, hm]

@[simp] theorem State.wlCommand_memOk (hm : s.memOk = true) (c : WlCmd) (l i : Nat) (hank : Bool) :
    (s.wlCommand c l i hank).1.memOk = true := by
  unfold State.wlCommand
  dsimp only
  repeat' split
  all_goals simp [hm]

@[simp] theorem hostWl_outOk (hm : s.memOk = true) (c : WlCmd) (l i : Nat) (hank : Bool) : outOk (hostWl c l i hank s) = true := by
  simp [hostWl, hm]

@[simp] theorem execLinkErrt_outOk (hm : s.memOk = true) (v : Nat) : outOk (execLinkErrt v s) = true := by
  simp [execLinkErrt, hm]

@[simp] theorem execRouting_outOk (hm : s.memOk = true) (table idx v : Nat) : outOk (execRouting table idx v s) = true := by
  simp [execRouting, hm]

@[simp] theorem lnkctlWl_outOk (hm : s.memOk = true) (cmd : WlCmd) (op : Nat) (a b c : BitVec 4) :
    outOk (lnkctlWl cmd op a b c s) = true := by
  unfold lnkctlWl
  refine reading_outOk hm _ ?_
  simp (disch := simp [hm])

@[simp] theorem execLnkstat_outOk (hm : s.memOk = true) (a b c : BitVec 4) (imm : BitVec 6) : outOk (execLnkstat a b c imm s) = true := by
  unfold execLnkstat
  exact reading_outOk hm _ (by simp [hm])

@[simp] theorem remoteChecked_outOk (hm : s.memOk = true) (x : Nat × Nat) (b c : BitVec 4) (size : Nat) (fill : Bool)
    (k : Nat → Word → Out) (hk : ∀ x0 x1, outOk (k x0 x1) = true) :
    outOk (remoteChecked x b c size fill s k) = true := by
  unfold remoteChecked
  split <;> simp [hm, hk]

@[simp] theorem State.flyRemote_memOk (h : Nat) (ws : List Nat) (c : Cargo) : (s.flyRemote h ws c).memOk = s.memOk := by
  simp [State.flyRemote]

@[simp] theorem execLdd_outOk (hm : s.memOk = true) (a b c : BitVec 4) (imm : BitVec 6) : outOk (execLdd a b c imm s) = true := by
  unfold execLdd
  dsimp only
  split
  · simp [hm]
  · exact whenLanded_outOk hm _ (by simp [hm])
  · exact whenLanded_outOk hm _ (by simp [hm])
  · refine reading_outOk hm _ (remoteChecked_outOk hm _ _ _ _ _ _ fun h va => outOk_ite (stall_outOk hm) ?_)
    exact watched_outOk hm _ _ _ _ fun u hu => by simp [hu]

@[simp] theorem remoteStore_outOk (hm : s.memOk = true) (x : Nat × Nat) (a b c : BitVec 4) (size : Nat) (fill : Bool) :
    outOk (remoteStore x a b c size fill s) = true := by
  unfold remoteStore
  refine reading_outOk hm _ (remoteChecked_outOk hm _ _ _ _ _ _ fun h va => outOk_ite (stall_outOk hm) ?_)
  refine watched_outOk hm _ _ _ _ fun u hu => ?_
  dsimp only
  split <;> simp [hu]

@[simp] theorem State.remoteSoft_memOk (asker : Option Nat) (l : Far) (size : Nat) : (s.remoteSoft asker l size).memOk = s.memOk := by
  unfold State.remoteSoft
  split <;> simp

@[simp] theorem State.remoteWrite_memOk (hm : s.memOk = true) (o : Origin) (l : Far) (size v : Nat) (fill : Bool) :
    (s.remoteWrite o l size v fill).1.memOk = true := by
  unfold State.remoteWrite
  dsimp only
  repeat' split
  all_goals simp [hm]

@[simp] theorem State.containRemote_memOk (group : Nat) (id : Nat) (c : Cargo) : (s.containRemote group id c).memOk = s.memOk := by
  simp [State.containRemote]

@[simp] theorem State.remoteBox_memOk (part group : Nat) (sup : Bool) (va : Nat) (acc : Acc) (l : Far) (size : Nat) :
    (s.remoteBox part group sup va acc l size).memOk = s.memOk := by
  unfold State.remoteBox
  repeat' split
  all_goals simp

theorem State.remoteHere_memOk (hm : s.memOk = true) {asker : Option Nat} {o : Origin} {part group : Nat} {sup : Bool}
    {op size : Nat} {va : Word} {v : Nat} {p : State × Option Nat}
    (hp : s.remoteHere asker o part group sup op size va v = some p) : p.1.memOk = true := by
  unfold State.remoteHere at hp
  extract_lets acc l shut at hp
  split at hp
  · cases hp
  · split at hp
    · cases hp
      exact (State.remoteSoft_memOk ..).trans ((State.remoteBox_memOk ..).trans (State.remoteMark_memOk hm ..))
    · cases hp
      exact State.remoteWrite_memOk ((State.remoteBox_memOk ..).trans (State.remoteMark_memOk hm ..)) ..

@[simp] theorem State.remoteWaits_memOk (id core : Nat) (l : Far) : (s.remoteWaits id core l).memOk = s.memOk := by
  unfold State.remoteWaits
  split <;> simp

@[simp] theorem execRemoteAccessPerform_outOk (hm : s.memOk = true) (id : Nat) : outOk (execRemoteAccessPerform id s) = true := by
  unfold execRemoteAccessPerform
  split
  · extract_lets part put
    split
    have hput (r) {u : State} (hu : u.memOk = true) : outOk (put r u) = true := by simp [put, hu]
    refine outOk_ite (by simp [hm]) (outOk_ite (hput _ hm) (outOk_ite (by simp [hm]) (outOk_ite (by simp [hm]) ?_)))
    split
    · next hp => exact hput _ (State.remoteHere_memOk hm hp)
    · simp [hm]
  · extract_lets part put
    split
    have hput (r) {u : State} (hu : u.memOk = true) : outOk (put r u) = true := by simp [put, hu]
    refine outOk_ite (by simp [hm]) (outOk_ite (hput _ hm) (outOk_ite (by simp [hm]) (outOk_ite (by simp [hm]) ?_)))
    split
    · next hp => exact hput _ (State.remoteHere_memOk hm hp)
    · simp [hm]
  · refine outOk_ite (by simp [hm]) ?_
    split
    · next hp =>
      have ht := State.remoteHere_memOk hm hp
      simp [ht]
    · exact hm
  · exact hm

@[simp] theorem State.lddEnd_memOk (cid : Nat) (r : Nat × Nat) : (s.lddEnd cid r).memOk = s.memOk := by
  simp [State.lddEnd]

@[simp] theorem execLddAnswer_outOk (hm : s.memOk = true) (id : Nat) : outOk (execLddAnswer id s) = true := by
  unfold execLddAnswer
  split <;> simp [hm]

@[simp] theorem execLddTimeout_outOk (hm : s.memOk = true) (id : Nat) : outOk (execLddTimeout id s) = true := by
  unfold execLddTimeout
  split <;> simp [hm]

@[simp] theorem execRemoteStoreTimeout_outOk (hm : s.memOk = true) (id : Nat) : outOk (execRemoteStoreTimeout id s) = true := by
  unfold execRemoteStoreTimeout
  split <;> simp [hm]

@[simp] theorem State.accept_memOk : (s.accept).memOk = s.memOk := by
  simp [State.accept]

@[simp] theorem execDataFlitReceive_outOk (hm : s.memOk = true) (l seq : Nat) (headOk : Bool) (bad : Nat) :
    outOk (execDataFlitReceive l seq headOk bad s) = true := by
  simp [execDataFlitReceive, hm]

@[simp] theorem execNackReceive_outOk (hm : s.memOk = true) (l seq : Nat) : outOk (execNackReceive l seq s) = true := by
  simp [execNackReceive, hm]

@[simp] theorem execAckReceive_outOk (hm : s.memOk = true) (l seq : Nat) : outOk (execAckReceive l seq s) = true := by
  unfold execAckReceive
  dsimp only
  repeat' split
  all_goals simp [hm]

@[simp] theorem execWidthControlReceive_outOk (hm : s.memOk = true) (l mask : Nat) : outOk (execWidthControlReceive l mask s) = true := by
  simp [execWidthControlReceive, hm]

/-! ## Reductions in the network (24) -/

@[simp] theorem State.setReduction_memOk (r : Reduction) : (s.setReduction r).memOk = s.memOk := by
  simp [State.setReduction]

@[simp] theorem State.dropSlots_memOk (h : Nat) : (s.dropSlots h).memOk = s.memOk := by
  simp [State.dropSlots]

@[simp] theorem State.tellContrib_memOk (hm : s.memOk = true) (c : Contrib) (status n : Nat) : (s.tellContrib c status n).memOk = true := by
  unfold State.tellContrib
  split
  · split
    · cases h : s.evqPut c.cid (c.record status n) with
      | none => exact hm
      | some t => exact State.evqPut_memOk hm h
    · exact hm
  · exact hm

@[simp] theorem State.putResult_memOk (hm : s.memOk = true) (c : Contrib) (bs : List Byte) : (s.putResult c bs).memOk = true := by
  unfold State.putResult
  refine State.memOk_ite hm (foldl_memOk hm (fun t x ht => ?_) _)
  split <;> simp [ht]

@[simp] theorem State.finishReduction_memOk (hm : s.memOk = true) (r : Reduction) : (s.finishReduction r).memOk = true := by
  unfold State.finishReduction
  extract_lets bs st t body u
  have ht : t.memOk = true := foldl_memOk hm (fun u c hu => State.tellContrib_memOk (State.putResult_memOk hu c bs) c st _) _
  have hu : u.memOk = true := State.memOk_ite (by simp [ht]) (by simp [ht])
  simp [hu]

@[simp] theorem State.abandon_memOk (hm : s.memOk = true) (r : Reduction) : (s.abandon r).memOk = true := by
  unfold State.abandon
  extract_lets t u v
  have ht : t.memOk = true := foldl_memOk hm (fun u c hu => State.tellContrib_memOk hu c 9 _) _
  have hu : u.memOk = true := ht
  have hv : v.memOk = true := by simp [v, hu]
  simp [hv]

@[simp] theorem refusal_outOk (hm : s.memOk = true) (a : BitVec 4) (k : Nat) : outOk (refusal a k s) = true := by
  simp [refusal, hm]

@[simp] theorem execLnkctlRnew_outOk (hm : s.memOk = true) (a b _c : BitVec 4) : outOk (execLnkctlRnew a b _c s) = true := by
  unfold execLnkctlRnew
  refine reading_outOk hm _ (outOk_ite (by simp [hm]) (loading_outOk hm _ _ _ fun d u hu => ?_))
  refine outOk_ite (refusal_outOk hu ..) (loading_outOk hu _ _ _ fun e v hv => outOk_ite (refusal_outOk hv ..) ?_)
  split <;> simp [hv]

@[simp] theorem State.freeReduction_memOk (r : Reduction) : (s.freeReduction r).memOk = s.memOk := by
  simp [State.freeReduction]

theorem State.rfreeAt_memOk (hm : s.memOk = true) {part h : Nat} {p : State × Nat} (hp : s.rfreeAt part h = some p) :
    p.1.memOk = true := by
  unfold State.rfreeAt at hp
  split at hp
  · cases hp
    exact hm
  · split at hp
    · cases hp
      exact hm
    · split at hp
      · split at hp
        · cases hp
          exact State.abandon_memOk hm _
        · cases hp
      · cases hp
        simp [hm]

@[simp] theorem execLnkctlRfree_outOk (hm : s.memOk = true) (a b c : BitVec 4) : outOk (execLnkctlRfree a b c s) = true := by
  unfold execLnkctlRfree
  split
  · dsimp only
    split <;> simp [hm]
  · refine reading_outOk hm _ (outOk_ite (by simp [hm]) (outOk_ite (by simp [hm]) ?_))
    split
    · simp [hm]
    · next hp => 
      have ht := State.rfreeAt_memOk (by simpa using hm) hp
      simp [ht]
    · simp [hm]

@[simp] theorem State.contribute_memOk (h slot : Nat) (c : Contrib) : (s.contribute h slot c).memOk = s.memOk := by
  simp [State.contribute]

@[simp] theorem execRedx_outOk (hm : s.memOk = true) (a b c : BitVec 4) (imm : BitVec 6) : outOk (execRedx a b c imm s) = true := by
  unfold execRedx
  refine reading_outOk hm _ (outOk_ite (by simp [hm]) (outOk_ite (by simp [hm]) (outOk_ite (by simp [hm]) ?_)))
  split
  · simp [hm]
  · extract_lets h src dst slot away
    split
    extract_lets n
    refine outOk_ite (by simp [hm]) (outOk_ite (by simp [hm]) (outOk_ite (by simp [hm]) (outOk_ite (by simp [hm])
      (outOk_ite (by simp [hm]) (outOk_ite (by simp [hm]) ?_)))))
    split
    · simp [hm]
    · refine outOk_ite (by simp [hm]) (watched_outOk hm _ _ _ _ fun u hu => ?_)
      extract_lets v w x tag data k q t
      have hw : w.memOk = true := State.memOk_ite (by simp [v, hu]) (by simp [v, hu])
      have ht : t.memOk = true := hw
      refine outOk_ite (outOk_ite ?_ ?_) ?_
      · simp [ht]
      · simp [ht]
      · split <;> simp [hw]

@[simp] theorem State.contribAway_memOk (hm : s.memOk = true) (id h slot : Nat) (c : Contrib) :
    (s.contribAway id h slot c).memOk = true := by
  simp [State.contribAway, hm]

@[simp] theorem State.redAnswer_memOk (c : Contrib) (code : Nat) : (s.redAnswer c code).memOk = s.memOk := by
  simp [State.redAnswer]

@[simp] theorem State.rfreeGoes_memOk (hm : s.memOk = true) (id h part group cid call : Nat) (answer : Option Nat) :
    (s.rfreeGoes id h part group cid call answer).memOk = true := by
  unfold State.rfreeGoes
  split
  · simp [hm]
  · refine State.memOk_ite ?_ (State.memOk_ite (by simp [hm]) (State.memOk_ite hm ?_))
    · split
      · next hp =>
        have ht := State.rfreeAt_memOk hm hp
        simp [ht]
      · exact hm
    · extract_lets q t u
      have ht : t.memOk = true := State.memOk_ite (by simp [hm]) hm
      have hu : u.memOk = true := by simp [u, ht]
      exact hu

@[simp] theorem execReductionContribution_outOk (hm : s.memOk = true) (id : Nat) : outOk (execReductionContribution id s) = true := by
  unfold execReductionContribution
  dsimp only
  repeat' split
  all_goals simp [hm]

@[simp] theorem State.passFar_memOk (r : Reduction) : (s.passFar r).memOk = s.memOk := by
  unfold State.passFar
  dsimp only
  split <;> simp

@[simp] theorem execReductionTimeout_outOk (hm : s.memOk = true) (h : Nat) : outOk (execReductionTimeout h s) = true := by
  unfold execReductionTimeout
  split <;> simp [hm]

@[simp] theorem State.mapContribs_memOk (f : Nat → Contrib → Contrib) : (s.mapContribs f).memOk = s.memOk := by
  simp [State.mapContribs]

@[simp] theorem State.renameContribs_memOk (old new : Nat) : (s.renameContribs old new).memOk = s.memOk := by
  simp [State.renameContribs]

@[simp] theorem State.passSlots_memOk (h old heir : Nat) (brv : Bool) : (s.passSlots h old heir brv).memOk = s.memOk := by
  unfold State.passSlots
  dsimp only
  split <;> simp

end

end Sys2Proof.Machine

/-! PROOFS. Both memories stay in canonical form under pipelines, the estate walk, images and traps. -/

namespace Sys2Proof.Machine

section
variable {s : State}

/-! ## Pipelines (25) -/

theorem State.handNow_memOk (n : Nat) : ∀ {s : State}, s.memOk = true → ∀ m, (s.handNow m n).state.memOk = true := by
  induction n with
  | zero => intro s hm m; exact hm
  | succ n ih =>
    intro s hm m
    unfold State.handNow
    split
    case h_7 => exact ih hm _
    case h_3 | h_4 => split <;> simp [hm]
    all_goals simp [hm]

@[simp] theorem State.hand_memOk (hm : s.memOk = true) (m : Msg) (n : Nat) : (s.hand m n).state.memOk = true := by
  unfold State.hand
  split
  · exact hm
  · exact State.handNow_memOk n hm m

@[simp] theorem State.handAll_memOk (hm : s.memOk = true) (mk : Nat × Nat × Nat → Msg) (rs : List (Nat × Nat × Nat)) :
    (s.handAll mk rs).1.memOk = true :=
  foldl_fst_memOk hm (fun _ _ hp => State.hand_memOk hp ..) _ _

@[simp] theorem State.sourceForward_memOk (hm : s.memOk = true) (p : Pipeline) (item : List Byte) (has : List (Nat × Nat × Nat)) :
    (s.sourceForward p item has).memOk = true := by
  simp [State.sourceForward, hm]

@[simp] theorem State.relayDone_memOk (hm : s.memOk = true) (p : Pipeline) (h i : Nat) (g : Stage) :
    (s.relayDone p h i g).memOk = true := by
  unfold State.relayDone
  dsimp only
  split <;> simp [hm]

@[simp] theorem State.relayInput_memOk (hm : s.memOk = true) (p : Pipeline) (h i : Nat) (g : Stage) :
    (s.relayInput p h i g).memOk = true := by
  unfold State.relayInput
  split
  · exact hm
  · dsimp only
    split <;> simp [State.handNow_memOk, hm]

@[simp] theorem execRelayForward_outOk (hm : s.memOk = true) (h i : Nat) : outOk (execRelayForward h i s) = true := by
  unfold execRelayForward
  split
  · exact hm
  · refine outOk_ite ?_ (outOk_ite hm ?_)
    · split <;> simp [hm]
    · dsimp only
      split
      · simp [hm]
      · refine outOk_ite ?_ ?_ <;> simp (disch := simp [hm])

@[simp] theorem execSourceItem_outOk (hm : s.memOk = true) (h : Nat) (item : List Byte) : outOk (execSourceItem h item s) = true := by
  unfold execSourceItem
  split <;> simp [hm]

@[simp] theorem State.mcastHere_memOk (hm : s.memOk = true) (tree : Nat) (data : List Nat) : (s.mcastHere tree data).memOk = true := by
  simp +contextual [State.mcastHere, hm, foldl_memOk]

@[simp] theorem execMulticastForward_outOk (hm : s.memOk = true) (id : Nat) : outOk (execMulticastForward id s) = true := by
  unfold execMulticastForward
  split <;> simp [hm]

@[simp] theorem State.emptyRing_memOk (hm : s.memOk = true) (core d : Nat) : (s.emptyRing core d).memOk = true := by
  simp [State.emptyRing, hm]

@[simp] theorem State.emptyRingOf_memOk (hm : s.memOk = true) (h v n : Nat) : (s.emptyRingOf h v n).memOk = true := by
  unfold State.emptyRingOf
  split <;> simp [hm]

@[simp] theorem State.redirectSent_memOk (old new : Nat × Nat × Nat) : (s.redirectSent old new).memOk = s.memOk := by
  simp [State.redirectSent]

@[simp] theorem State.passStage_memOk (hm : s.memOk = true) (p q : Pipeline) (i : Nat) (entry : Nat × Holding) :
    (s.passStage p q i entry).memOk = true := by
  simp [State.passStage, hm]

@[simp] theorem State.stopStage_memOk (h i : Nat) : (s.stopStage h i).memOk = s.memOk := by
  simp [State.stopStage]

@[simp] theorem State.dropStage_memOk (hm : s.memOk = true) (p : Pipeline) (i : Nat) : (s.dropStage p i).memOk = true := by
  unfold State.dropStage
  repeat' split
  all_goals simp [hm]

@[simp] theorem State.detach_memOk (h : Nat) : (s.detach h).memOk = s.memOk := by
  simp [State.detach]

@[simp] theorem State.unbind_memOk (hm : s.memOk = true) (p : Pipeline) : (s.unbind p).memOk = true := by
  unfold State.unbind
  extract_lets t u
  have ht : t.memOk = true := by
    refine foldl_memOk hm (fun v i hv => ?_) _
    split
    · split <;> simp [hv]
    · exact hv
  have hu : u.memOk = true := by simp [u, ht]
  exact hu

@[simp] theorem State.attach_memOk (p : Pipeline) : (s.attach p).1.memOk = s.memOk := by
  unfold State.attach
  extract_lets best n j src wait stages p' t u
  have ht : t.memOk = s.memOk := by
    cases hb : best with
    | none => simp only [t, hb]
    | some q =>
      simp only [t, hb]
      refine foldl_memOk_eq (fun v i => ?_) _ _
      split <;> simp
  refine (foldl_memOk_eq (fun v i => ?_) _ _).trans ((State.setPipe_memOk _).trans ht)
  split <;> simp

@[simp] theorem pbindWith_outOk (hm : s.memOk = true) (a : BitVec 4) (d recs : List Nat) : outOk (pbindWith a d recs s) = true := by
  simp [pbindWith, hm]

@[simp] theorem execPbind_outOk (hm : s.memOk = true) (a b _c : BitVec 4) (_imm : BitVec 6) : outOk (execPbind a b _c _imm s) = true := by
  unfold execPbind
  refine reading_outOk hm _ (outOk_ite (by simp [hm]) (loading_outOk hm _ _ _ fun d u hu => ?_))
  refine outOk_ite (refusal_outOk hu ..) (outOk_ite (pbindWith_outOk hu ..) ?_)
  exact loading_outOk hu _ _ _ fun recs v hv => pbindWith_outOk hv ..

@[simp] theorem execPunbind_outOk (hm : s.memOk = true) (a b _c : BitVec 4) (_imm : BitVec 6) :
    outOk (execPunbind a b _c _imm s) = true := by
  unfold execPunbind
  refine reading_outOk hm _ (outOk_ite (by simp [hm]) ?_)
  split
  · exact refusal_outOk hm ..
  · exact outOk_ite (by simp (disch := simp [hm])) (refusal_outOk hm ..)

@[simp] theorem execPstat_outOk (hm : s.memOk = true) (a b _c : BitVec 4) (imm : BitVec 6) : outOk (execPstat a b _c imm s) = true := by
  unfold execPstat
  refine reading_outOk hm _ ?_
  dsimp only
  repeat' split
  all_goals simp [hm]

/-! ## The estate walk and CONVEY (21) -/

@[simp] theorem State.conveyParty_memOk (hm : s.memOk = true) (e : Holding) (heir : Nat) (brv : Bool) :
    (s.conveyParty e heir brv).memOk = true := by
  unfold State.conveyParty
  dsimp only
  repeat' split
  all_goals simp [hm]

@[simp] theorem State.ghostParty_memOk (hm : s.memOk = true) (e : Holding) : (s.ghostParty e).memOk = true := by
  unfold State.ghostParty
  dsimp only
  split <;> simp [hm]

@[simp] theorem State.keepEntries_memOk (hm : s.memOk = true) (core a l : Nat) (p : Nat → Bool) :
    (s.keepEntries core a l p).memOk = true := by
  unfold State.keepEntries
  extract_lets es hd
  exact State.setLvl_memOk (foldl_memOk hm (fun t x ht => State.wrQ_memOk ht ..) _) ..

@[simp] theorem State.clearDispatch_memOk (hm : s.memOk = true) (h v f : Nat) : (s.clearDispatch h v f).memOk = true := by
  simp +contextual [State.clearDispatch, hm, foldl_memOk]

@[simp] theorem State.conveyRing_memOk (hm : s.memOk = true) (e : Holding) (heir : Nat) : (s.conveyRing e heir).memOk = true := by
  unfold State.conveyRing
  dsimp only
  repeat' split
  all_goals simp [hm]

@[simp] theorem State.deadRing_memOk (e : Holding) : (s.deadRing e).memOk = s.memOk := by
  unfold State.deadRing
  dsimp only
  split <;> simp

@[simp] theorem State.clearQueue_memOk (hm : s.memOk = true) (core a : Nat) : (s.clearQueue core a).memOk = true := by
  simp +contextual [State.clearQueue, hm, foldl_memOk]

@[simp] theorem State.endStage_memOk (hm : s.memOk = true) (h i : Nat) : (s.endStage h i).memOk = true := by
  unfold State.endStage
  split <;> simp [hm]

@[simp] theorem State.bereave_memOk (hm : s.memOk = true) (core off former : Nat) : (s.bereave core off former).memOk = true := by
  simp [State.bereave, hm]

@[simp] theorem State.convey_memOk (hm : s.memOk = true) (i : Nat) (e : Holding) (brv : Bool) : (s.convey i e brv).memOk = true := by
  unfold State.convey
  dsimp only
  repeat' split
  all_goals simp [hm]

@[simp] theorem State.resolve_memOk (hm : s.memOk = true) (i : Nat) (e : Holding) : (s.resolve i e).memOk = true := by
  unfold State.resolve
  dsimp only
  repeat' split
  all_goals simp [hm]

@[simp] theorem State.walkStage_memOk (hm : s.memOk = true) (i : Nat) (e : Holding) : (s.walkStage i e).memOk = true := by
  unfold State.walkStage
  repeat' split
  all_goals simp [hm]

@[simp] theorem State.walkOne_memOk (hm : s.memOk = true) (i : Nat) (e : Holding) (part : Nat) : (s.walkOne i e part).memOk = true := by
  simp [State.walkOne, hm]

@[simp] theorem execEstateWalkStart_outOk (hm : s.memOk = true) (h : Nat) : outOk (execEstateWalkStart h s) = true := by
  unfold execEstateWalkStart
  split <;> simp [hm]

@[simp] theorem State.walkEnd_memOk (hm : s.memOk = true) (g : Group) : (s.walkEnd g).memOk = true := by
  unfold State.walkEnd
  extract_lets t mine u v
  have ht : t.memOk = true := foldl_memOk hm (fun _ r hw => State.abandon_memOk hw r) _
  have hu : u.memOk = true := foldl_memOk ht (fun _ h hw => (State.detach_memOk h).trans hw) _
  exact State.retire_memOk (s := v) hu _

@[simp] theorem execEstateWalkHolding_outOk (hm : s.memOk = true) : outOk (execEstateWalkHolding s) = true := by
  unfold execEstateWalkHolding
  repeat' split
  all_goals simp [hm]

@[simp] theorem conveyAt_outOk (hm : s.memOk = true) (x : Instr) (addr : Word) (l : Loc) : outOk (conveyAt x addr l s) = true := by
  unfold conveyAt
  split <;> simp [hm]

@[simp] theorem conveyFar_outOk (hm : s.memOk = true) (x : Instr) (i : Nat) (e : Holding) : outOk (conveyFar x i e s) = true := by
  simp [conveyFar, hm]

@[simp] theorem execConvey_outOk (hm : s.memOk = true) (a b c : BitVec 4) (imm : BitVec 6) : outOk (execConvey a b c imm s) = true := by
  unfold execConvey
  refine reading_outOk hm _ (withObject_outOk hm _ (fun i e => conveyFar_outOk hm ..) fun l u hu => conveyAt_outOk hu ..)

/-! ## Images of members (15) -/

@[simp] theorem State.putDws_memOk (hm : s.memOk = true) (core off : Nat) (l : List Nat) : (s.putDws core off l).memOk = true := by
  induction l generalizing s off with
  | nil => exact hm
  | cons x r ih => exact ih (State.wrS_memOk hm ..) _

@[simp] theorem State.putTags_memOk (core r d : Nat) : (s.putTags core r d).memOk = s.memOk := by
  simp [State.putTags]

@[simp] theorem State.putRegion_memOk (hm : s.memOk = true) (core : Nat) (x : Nat × Nat × List Nat) :
    (s.putRegion core x).memOk = true := by
  simp [State.putRegion, hm]

@[simp] theorem State.putCtx_memOk (hm : s.memOk = true) (core h v : Nat) (kept : List (Nat × Ctx)) (r : CtxRec) :
    (s.putCtx core h v kept r).memOk = true := by
  simp [State.putCtx, hm]

@[simp] theorem State.putSeq_memOk (hm : s.memOk = true) (core : Nat) (kept : List (Nat × Ctx)) (r : CtxRec) :
    (s.putSeq core kept r).memOk = true := by
  unfold State.putSeq
  dsimp only
  split <;> simp [hm]

@[simp] theorem State.putMember_memOk (hm : s.memOk = true) (g : Group) (core : Nat) (x : Saved) : (s.putMember g core x).memOk = true := by
  unfold State.putMember
  extract_lets d t u
  split
  extract_lets towns
  split
  extract_lets rs v dirty w y z k p q
  have ht : t.memOk = true := State.zeroRange_memOk hm ..
  have hu : u.memOk = true := State.memOk_of_spad ht (Memory.wf_putAll _ _ _ (State.spad_wf ht)) rfl
  have hv : v.memOk = true := foldl_memOk hu (fun _ r hx => State.putRegion_memOk hx ..) _
  have hw : w.memOk = true := by simp [w, hv]
  have hy : y.memOk = true := foldl_memOk hw (fun _ x hx => (State.setTile_memOk ..).trans hx) _
  have hz : z.memOk = true := foldl_memOk hy (fun _ r hx => State.putSeq_memOk (State.putCtx_memOk hx ..) ..) _
  have hq : q.memOk = true := by simp [q, p, hz]
  exact hq

/-! ## TRAP, HALT, TIME, CAPR and deferred traps (11) -/

@[simp] theorem execTrap_outOk (hm : s.memOk = true) (a _b _c : BitVec 4) (imm : BitVec 6) : outOk (execTrap a _b _c imm s) = true := by
  unfold execTrap
  refine reading_outOk hm _ ?_
  split
  · next ht => exact (State.trapWait_memOk ht).trans hm
  · simp [hm]

@[simp] theorem execBreak_outOk (hm : s.memOk = true) (_a _b _c : BitVec 4) (imm : BitVec 6) : outOk (execBreak _a _b _c imm s) = true := by
  simp [execBreak, hm]

@[simp] theorem execHalt_outOk (hm : s.memOk = true) (_a _b _c : BitVec 4) (_imm : BitVec 6) : outOk (execHalt _a _b _c _imm s) = true := by
  simp [execHalt, hm]

@[simp] theorem execTime_outOk (hm : s.memOk = true) (a _b _c : BitVec 4) (imm : BitVec 6) : outOk (execTime a _b _c imm s) = true := by
  simp [execTime, hm]

@[simp] theorem execCapr_outOk (hm : s.memOk = true) (a b _c : BitVec 4) (_imm : BitVec 6) : outOk (execCapr a b _c _imm s) = true := by
  unfold execCapr
  exact reading_outOk hm _ (by simp [hm])

@[simp] theorem execDeferredTrap_outOk (hm : s.memOk = true) (cid : Nat) : outOk (execDeferredTrap cid s) = true := by
  unfold execDeferredTrap
  refine forCid_outOk hm _ fun u hu => ?_
  dsimp only
  split
  · exact hu
  · cases ht : u.dueTrap with
    | none => exact hu
    | some t => exact State.dueTrap_memOk hu ht

end

end Sys2Proof.Machine

/-! PROOFS. Both memories stay in canonical form under moves and probes. -/

namespace Sys2Proof.Machine

section
variable {s : State}

/-! ## Save, move, resume and migration (15) -/

@[simp] theorem execPlacementUpdate_outOk (hm : s.memOk = true) (id : Nat) : outOk (execPlacementUpdate id s) = true := by
  unfold execPlacementUpdate
  split <;> simp [hm]

@[simp] theorem execPlacementUpdateAck_outOk (hm : s.memOk = true) (id : Nat) : outOk (execPlacementUpdateAck id s) = true := by
  unfold execPlacementUpdateAck
  split <;> simp [hm]

@[simp] theorem State.endMigrationFwd_memOk (h : Nat) : (s.endMigrationFwd h).memOk = s.memOk := by
  simp [State.endMigrationFwd]

@[simp] theorem State.renameSends_memOk (old new : Nat) : (s.renameSends old new).memOk = s.memOk := by
  simp [State.renameSends]

@[simp] theorem State.dropBereaved_memOk (h core lo hi : Nat) : (s.dropBereaved h core lo hi).memOk = s.memOk := by
  simp [State.dropBereaved]

@[simp] theorem State.parkSeq_memOk (hm : s.memOk = true) (cid : Nat) : (s.parkSeq cid).memOk = true := by
  simp [State.parkSeq, hm]

@[simp] theorem State.vacate_memOk (cid : Nat) : (s.vacate cid).memOk = s.memOk := by
  simp [State.vacate]

@[simp] theorem State.saveMember_memOk (hm : s.memOk = true) (h v : Nat) : (s.saveMember h v).memOk = true := by
  unfold State.saveMember
  extract_lets cids core t
  have ht : t.memOk = true := foldl_memOk hm (fun _ i hu => State.parkSeq_memOk ((State.setCtx_memOk ..).trans hu) _) _
  split
  · exact ht
  · simp +contextual [ht]

@[simp] theorem State.preDone_memOk (h : Nat) : (s.preDone h).memOk = s.memOk := by
  unfold State.preDone
  split <;> simp

@[simp] theorem execSave_outOk (hm : s.memOk = true) (h : Nat) : outOk (execSave h s) = true := by
  unfold execSave
  split
  · simp [hm]
  · refine outOk_ite (by simp [hm]) (outOk_ite (outOk_ite hm ?_) (by simp [hm]))
    extract_lets t
    have ht : t.memOk = true :=
      foldl_memOk ((State.endMigrationFwd_memOk _).trans hm) (fun _ v hu => State.saveMember_memOk hu _ _) _
    split
    · simp [ht]
    · exact ht

@[simp] theorem execMove_outOk (hm : s.memOk = true) (h o : Nat) : outOk (execMove h o s) = true := by
  unfold execMove
  split <;> simp [hm]

@[simp] theorem State.carryRange_memOk (hm : s.memOk = true) (old new lo hi : Nat) : (s.carryRange old new lo hi).memOk = true := by
  unfold State.carryRange
  extract_lets bytes tags dirty t
  have ht : t.memOk = true := State.zeroRange_memOk hm ..
  exact State.memOk_of_spad ht (Memory.wf_putAll _ _ _ (State.spad_wf ht)) rfl

@[simp] theorem State.repark_memOk (cid : Nat) : (s.repark cid).memOk = s.memOk := by
  simp [State.repark]

@[simp] theorem State.carryCtx_memOk (hm : s.memOk = true) (cid new : Nat) : (s.carryCtx cid new).memOk = true := by
  simp [State.carryCtx, hm]

@[simp] theorem State.installMember_memOk (hm : s.memOk = true) (g : Group) (v new : Nat) : (s.installMember g v new).memOk = true := by
  unfold State.installMember
  extract_lets h lo hi old cids t u v' w x k y
  have ht : t.memOk = true := foldl_memOk hm (fun _ i hx => State.parkSeq_memOk hx _) _
  have hu : u.memOk = true := by simp [u, ht]
  have hv : v'.memOk = true := foldl_memOk hu (fun _ i hx => State.carryCtx_memOk hx ..) _
  have hw : w.memOk = true := hv
  have hy : y.memOk = true := by simp [y, x, hw]
  simp (disch := simp (disch := simp [hy]) [hy])

@[simp] theorem execMemberMoveInstall_outOk (hm : s.memOk = true) (h v : Nat) : outOk (execMemberMoveInstall h v s) = true := by
  unfold execMemberMoveInstall
  dsimp only
  repeat' split
  all_goals simp [hm]

@[simp] theorem State.receiveKept_memOk (g : Group) : (s.receiveKept g).memOk = s.memOk := by
  unfold State.receiveKept
  dsimp only
  refine (foldl_memOk_eq (fun t b => ?_) _ _).trans rfl
  split <;> simp

@[simp] theorem State.deliverOverflow_memOk (hm : s.memOk = true) (g : Group) : (s.deliverOverflow g).memOk = true := by
  simp +contextual [State.deliverOverflow, hm, foldl_memOk]

@[simp] theorem execResume_outOk (hm : s.memOk = true) (h o : Nat) : outOk (execResume h o s) = true := by
  unfold execResume
  split
  · simp [hm]
  · refine outOk_ite (by simp [hm]) ?_
    extract_lets t u
    have ht : t.memOk = true := by simp [t, hm]
    have hu : u.memOk = true := foldl_memOk ht (fun _ x hx => (State.placeChanged_memOk ..).trans (State.putMember_memOk hx ..)) _
    simp [hu]

@[simp] theorem State.emigrate_memOk (hm : s.memOk = true) (a : BitVec 4) (g : Group) (v core slot : Nat) :
    (s.emigrate a g v core slot).memOk = true := by
  unfold State.emigrate
  dsimp only
  simp (disch := simp (disch := simp [hm]) [hm])

@[simp] theorem migrateTo_outOk (hm : s.memOk = true) (a : BitVec 4) (addr : Word) (v : Nat) : outOk (migrateTo a addr v s) = true := by
  unfold migrateTo
  dsimp only
  repeat' split
  all_goals simp [hm]

@[simp] theorem execMigrate_outOk (hm : s.memOk = true) (a b c : BitVec 4) (imm : BitVec 6) : outOk (execMigrate a b c imm s) = true := by
  unfold execMigrate
  refine reading_outOk hm _ ?_
  dsimp only
  repeat' split
  all_goals simp (disch := simp [hm]) [hm]

@[simp] theorem execMigrationArrival_outOk (hm : s.memOk = true) (id : Nat) : outOk (execMigrationArrival id s) = true := by
  unfold execMigrationArrival
  dsimp only
  repeat' split
  all_goals simp [hm]

@[simp] theorem execWatchdogCheck_outOk (hm : s.memOk = true) (h : Nat) : outOk (execWatchdogCheck h s) = true := by
  unfold execWatchdogCheck
  split <;> simp [hm]

/-! ## Probes, the recorder and replay (28) -/

@[simp] theorem State.mapCtxs_memOk (core : Nat) (f : Ctx → Ctx) : (s.mapCtxs core f).memOk = s.memOk := by
  simp [State.mapCtxs]

@[simp] theorem State.stopCore_memOk (core : Nat) : (s.stopCore core).memOk = s.memOk := by
  simp [State.stopCore]

@[simp] theorem State.resumeCore_memOk (core : Nat) : (s.resumeCore core).memOk = s.memOk := by
  simp [State.resumeCore]

@[simp] theorem State.stepCtx_memOk (cid : Nat) : (s.stepCtx cid).memOk = s.memOk := by
  simp [State.stepCtx]

@[simp] theorem probing_outOk (hm : s.memOk = true) (op : Nat) (a b c : BitVec 4) (k : Nat → Nat → State → Out)
    (hk : ∀ x0 x1 u, u.memOk = true → outOk (k x0 x1 u) = true) :
    outOk (probing op a b c s k) = true := by
  unfold probing
  refine reading_outOk hm _ (outOk_ite (by simp [hm]) (outOk_ite (by simp [hm]) ?_))
  split
  · simp [hm]
  · exact hk _ _ s hm

@[simp] theorem execProbeStop_outOk (hm : s.memOk = true) (a b c : BitVec 4) : outOk (execProbeStop a b c s) = true := by
  exact probing_outOk hm _ _ _ _ _ fun core _ u hu => by simp [hu]

@[simp] theorem execProbeResume_outOk (hm : s.memOk = true) (a b c : BitVec 4) : outOk (execProbeResume a b c s) = true := by
  refine probing_outOk hm _ _ _ _ _ fun core _ u hu => ?_
  split <;> simp [hu]

@[simp] theorem execProbeStep_outOk (hm : s.memOk = true) (a b c : BitVec 4) : outOk (execProbeStep a b c s) = true := by
  refine probing_outOk hm _ _ _ _ _ fun core slot u hu => ?_
  dsimp only
  exact outOk_ite (by simp [hu]) (outOk_ite (by simp [hu]) (by simp [hu]))

@[simp] theorem State.arm_memOk (cl delay : Nat) : (s.arm cl delay).memOk = s.memOk := by
  simp [State.arm]

@[simp] theorem execProbeRarm_outOk (hm : s.memOk = true) (a b c : BitVec 4) : outOk (execProbeRarm a b c s) = true := by
  unfold execProbeRarm
  exact reading_outOk hm _ (by simp [hm])

@[simp] theorem execProbeRtrig_outOk (hm : s.memOk = true) (a b c : BitVec 4) : outOk (execProbeRtrig a b c s) = true := by
  unfold execProbeRtrig
  exact reading_outOk hm _ (by simp [hm])

@[simp] theorem State.checkpoint_memOk (hm : s.memOk = true) (core : Nat) : (s.checkpoint core).memOk = true := by
  unfold State.checkpoint
  split <;> simp [hm]

@[simp] theorem execProbeCkpt_outOk (hm : s.memOk = true) (a b c : BitVec 4) : outOk (execProbeCkpt a b c s) = true := by
  refine probing_outOk hm _ _ _ _ _ fun core _ u hu => ?_
  exact outOk_ite (by simp [hu]) (outOk_ite (by simp [hu]) (State.checkpoint_memOk (by simp [hu]) _))

@[simp] theorem execRecorderFreeze_outOk (hm : s.memOk = true) (die : Nat) : outOk (execRecorderFreeze die s) = true := by
  unfold execRecorderFreeze
  split <;> simp [hm]

@[simp] theorem execRecord_outOk (hm : s.memOk = true) (die op arg : Nat) : outOk (execRecord die op arg s) = true := by
  unfold execRecord
  dsimp only
  repeat' split
  all_goals simp [hm]

theorem State.pokeSaved_memOk {h cid : Nat} {f : Ctx → Ctx} {t : State} (ht : s.pokeSaved h cid f = some t) : t.memOk = s.memOk := by
  unfold State.pokeSaved at ht
  split at ht
  · cases ht
  · dsimp only at ht
    split at ht <;> cases ht
    simp

theorem State.pokeCtx_memOk {cid : Nat} {f : Ctx → Ctx} {t : State} (ht : s.pokeCtx cid f = some t) : t.memOk = s.memOk := by
  unfold State.pokeCtx at ht
  split at ht
  · cases ht
    simp
  · split at ht
    · cases ht
      simp
    · obtain ⟨g, -, hg⟩ := List.exists_of_findSome?_eq_some ht
      exact State.pokeSaved_memOk hg

@[simp] theorem State.installPart_memOk (hm : s.memOk = true) (core : Nat) (g : Group) (v : Nat) (l : List Nat) :
    (s.installPart core g v l).memOk = true := by
  simp [State.installPart, hm]

@[simp] theorem State.installAll_memOk (hm : s.memOk = true) (core : Nat) (gs : List (Group × Nat)) (l : List Nat) :
    (s.installAll core gs l).memOk = true := by
  induction gs generalizing s l with
  | nil => exact hm
  | cons x r ih =>
    unfold State.installAll
    split
    · exact hm
    · exact ih (State.installPart_memOk hm ..) _

theorem State.poked_outOk (hm : s.memOk = true) (idx : Nat) {t : Option State} (ht : ∀ u, t = some u → u.memOk = s.memOk) :
    outOk (s.poked idx t) = true := by
  unfold State.poked
  split
  · next u => split <;> simp [hm, ht u rfl]
  · simp [hm]

@[simp] theorem execHostProbe_outOk (hm : s.memOk = true) (cid op idx : Nat) (v : Word) : outOk (execHostProbe cid op idx v s) = true := by
  unfold execHostProbe
  extract_lets core k
  refine outOk_ite (by simp [hm]) ?_
  split
  case h_4 => exact State.poked_outOk hm _ fun u hu => State.pokeCtx_memOk hu
  case h_9 => exact State.poked_outOk hm _ fun u hu => State.pokeSaved_memOk hu
  case h_2 | h_3 | h_5 | h_8 => split <;> simp [hm]
  all_goals simp [hm]

@[simp] theorem State.redeposit_memOk (hm : s.memOk = true) (core slot : Nat) (bs : List Byte) :
    (s.redeposit core slot bs).memOk = true := by
  unfold State.redeposit
  extract_lets t
  have ht : t.memOk = true := by simp [t, hm]
  split
  · exact ht
  · split
    · exact ht
    · next h v _ _ _ d f _ =>
      extract_lets u e
      have hu : u.memOk = true := by simp [u, ht]
      split
      · cases hp : u.pushAt h v (ringPrio f) e with
        | none => exact hu
        | some w => exact State.pushAt_memOk hu hp
      · exact hu

@[simp] theorem State.asLogged_memOk (hm : s.memOk = true) : (s.asLogged).memOk = true := by
  simp [State.asLogged, hm]

@[simp] theorem State.answerOne_memOk (hm : s.memOk = true) (core v : Nat) : (s.answerOne core v).memOk = true := by
  unfold State.answerOne
  split
  · exact hm
  · extract_lets u
    have hu : u.memOk = true := hm
    split
    · next r _ =>
      have hr : (r.elim u fun a => u.setW a (toWord v)).memOk = true := by cases r <;> simp [hu]
      simp [hr]
    · exact hm

@[simp] theorem State.reanswer_memOk (hm : s.memOk = true) (core v : Nat) : (s.reanswer core v).memOk = true := by
  unfold State.reanswer
  repeat' split
  all_goals simp [hm]

@[simp] theorem State.reinject_memOk (hm : s.memOk = true) (core kind v : Nat) (bs : List Byte) :
    (s.reinject core kind v bs).memOk = true := by
  unfold State.reinject
  dsimp only
  repeat' split
  all_goals simp [hm]

@[simp] theorem execReplayInject_outOk (hm : s.memOk = true) (core : Nat) : outOk (execReplayInject core s) = true := by
  unfold execReplayInject
  dsimp only
  split <;> simp [hm]

@[simp] theorem State.tellSensors_memOk (vs : List Nat) : (s.tellSensors vs).memOk = s.memOk := by
  simp [State.tellSensors]

@[simp] theorem execReadout_outOk (hm : s.memOk = true) (part sel idx : Nat) : outOk (execReadout part sel idx s) = true := by
  unfold execReadout
  dsimp only
  repeat' split
  all_goals simp [hm]

@[simp] theorem execBlackBoxRead_outOk (hm : s.memOk = true) : outOk (execBlackBoxRead s) = true := by
  simp [execBlackBoxRead, hm]

@[simp] theorem execEstateRead_outOk (hm : s.memOk = true) (first count : Nat) : outOk (execEstateRead first count s) = true := by
  simp [execEstateRead, hm]

end

end Sys2Proof.Machine

/-! PROOFS. Both memories stay in canonical form under the host's commands and REP. -/

namespace Sys2Proof.Machine

section
variable {s : State}

/-! ## Host commands, power and resets (27, 29) -/

@[simp] theorem answered_outOk (hm : s.memOk = true) (k : Nat) : outOk (answered s k) = true := by
  simp [answered, hm]

@[simp] theorem execImage_outOk (hm : s.memOk = true) (body sig : List Byte) : outOk (execImage body sig s) = true := by
  simp [execImage, hm]

@[simp] theorem execRoot_outOk (hm : s.memOk = true) (pa : Nat) : outOk (execRoot pa s) = true := by
  simp [execRoot, hm]

@[simp] theorem execQuote_outOk (hm : s.memOk = true) (part : Nat) (nonce : List Byte) : outOk (execQuote part nonce s) = true := by
  simp [execQuote, hm]

@[simp] theorem execInvalidate_outOk (hm : s.memOk = true) (h va len : Nat) : outOk (execInvalidate h va len s) = true := by
  simp [execInvalidate, hm]

@[simp] theorem State.endInvals_memOk : (s.endInvals).memOk = s.memOk := by
  simp [State.endInvals]

@[simp] theorem execHandle_outOk (hm : s.memOk = true) (part idx v : Nat) : outOk (execHandle part idx v s) = true := by
  unfold execHandle
  split <;> simp [hm]

@[simp] theorem execStream_outOk (hm : s.memOk = true) (part port id : Nat) : outOk (execStream part port id s) = true := by
  unfold execStream
  split <;> simp [hm]

@[simp] theorem execPartitionCreate_outOk (hm : s.memOk = true) (key : Nat) (pub : List Byte) (clus : List Nat)
    (root : Nat × List (Nat × Nat)) :
    outOk (execPartitionCreate key pub clus root s) = true := by
  simp [execPartitionCreate, hm]

@[simp] theorem execPartitionDestroy_outOk (hm : s.memOk = true) (part : Nat) : outOk (execPartitionDestroy part s) = true := by
  unfold execPartitionDestroy
  split
  · simp [hm]
  · refine outOk_ite (by simp [hm]) ?_
    extract_lets t hs
    have ht : t.memOk = true := hm
    have hend : (hs.foldl (fun u h => u.endGroup h 2) t).memOk = true := foldl_memOk ht (fun _ h hu => State.endGroup_memOk hu ..) _
    simp [hend]

@[simp] theorem execPolicy_outOk (hm : s.memOk = true) (part : Nat) (body sig : List Byte) : outOk (execPolicy part body sig s) = true := by
  unfold execPolicy
  dsimp only
  repeat' split
  all_goals simp [hm]

@[simp] theorem execPowerCluster_outOk (hm : s.memOk = true) (clus st : Nat) : outOk (execPowerCluster clus st s) = true := by
  simp [execPowerCluster, hm]

@[simp] theorem execPlaneLight_outOk (hm : s.memOk = true) (plane : Nat) : outOk (execPlaneLight plane s) = true := by
  simp [execPlaneLight, hm]

@[simp] theorem execPlaneDarken_outOk (hm : s.memOk = true) (plane : Nat) : outOk (execPlaneDarken plane s) = true := by
  simp [execPlaneDarken, hm]

@[simp] theorem execPlaneDarkEffect_outOk (hm : s.memOk = true) (plane : Nat) : outOk (execPlaneDarkEffect plane s) = true := by
  simp [execPlaneDarkEffect, hm]

@[simp] theorem execPowerStack_outOk (hm : s.memOk = true) (stack st : Nat) : outOk (execPowerStack stack st s) = true := by
  simp [execPowerStack, hm]

@[simp] theorem execPowerPort_outOk (hm : s.memOk = true) (port : Nat) (up : Bool) (via : Nat) :
    outOk (execPowerPort port up via s) = true := by
  simp [execPowerPort, hm]

@[simp] theorem execPowerTransitionComplete_outOk (hm : s.memOk = true) (unit idx : Nat) :
    outOk (execPowerTransitionComplete unit idx s) = true := by
  unfold execPowerTransitionComplete
  dsimp only
  repeat' split
  all_goals simp [hm]

@[simp] theorem execGrantIssue_outOk (hm : s.memOk = true) (part : Nat) (links : List Nat) (expiry : Nat) :
    outOk (execGrantIssue part links expiry s) = true := by
  simp [execGrantIssue, hm]

@[simp] theorem execGrantRevoke_outOk (hm : s.memOk = true) (id : Nat) : outOk (execGrantRevoke id s) = true := by
  simp [execGrantRevoke, hm]

@[simp] theorem execGrantExpiry_outOk (hm : s.memOk = true) (id : Nat) : outOk (execGrantExpiry id s) = true := by
  simp [execGrantExpiry, hm]

@[simp] theorem execTimeAdjust_outOk (hm : s.memOk = true) (d : Word) : outOk (execTimeAdjust d s) = true := by
  simp [execTimeAdjust, hm]

@[simp] theorem execBulkWrite_outOk (hm : s.memOk = true) (pa : Nat) (data : List Byte) : outOk (execBulkWrite pa data s) = true := by
  unfold execBulkWrite
  refine outOk_ite (by simp [hm]) (answered_outOk ?_ 0)
  have hwf := Bool.and_eq_true_iff.1 hm
  exact Bool.and_eq_true_iff.2 ⟨hwf.1, Memory.wf_writeBytes _ hwf.2 _⟩

@[simp] theorem execBulkRead_outOk (hm : s.memOk = true) (pa len : Nat) : outOk (execBulkRead pa len s) = true := by
  simp [execBulkRead, hm]

@[simp] theorem execUnsupportedPacket_outOk (hm : s.memOk = true) (port : Nat) : outOk (execUnsupportedPacket port s) = true := by
  simp [execUnsupportedPacket, hm]

@[simp] theorem State.fatal_memOk : (s.fatal).memOk = s.memOk := by
  simp [State.fatal]

@[simp] theorem State.resetAgain_memOk (hm : s.memOk = true) : (s.resetAgain).memOk = true := by
  simp [State.resetAgain, hm]

@[simp] theorem execThermalTrip_outOk (hm : s.memOk = true) (_die : Nat) : outOk (execThermalTrip _die s) = true := by
  simp [execThermalTrip, hm]

@[simp] theorem execSupplyLoss_outOk (hm : s.memOk = true) : outOk (execSupplyLoss s) = true := by
  simp [execSupplyLoss, hm]

@[simp] theorem execDeviceReset_outOk (hm : s.memOk = true) : outOk (execDeviceReset s) = true := by
  simp [execDeviceReset, hm]

/-! ## REP (07) -/

/-- What filling the repetition buffer leaves, whether it fills or waits, has both memories in canonical form. -/
theorem State.gather_memOk (n : Nat) : ∀ {s : State}, s.memOk = true → ∀ pc l acc,
    match s.gather pc l acc n with
    | .ok _ _ t | .wait t => t.memOk = true
    | .bad _ _ | .miss _ => True := by
  induction n with
  | zero => intro s hm pc l acc; exact hm
  | succ n ih =>
    intro s hm pc l acc
    unfold State.gather
    split_ifs
    · exact ih hm ..
    · cases hf : s.fetch s.cur pc.toNat with
      | bad k v => trivial
      | miss va => trivial
      | wait u => exact (State.fetch_wait_memOk hf).trans hm
      | ok l' u => exact ih (State.fetch_ok_memOk hm hf) ..

@[simp] theorem execRep_outOk (hm : s.memOk = true) (a b c : BitVec 4) (imm : BitVec 22) : outOk (execRep a b c imm s) = true := by
  unfold execRep
  refine checked_outOk hm _ _ (reading_outOk hm _ ?_)
  extract_lets w stride body count p i
  refine outOk_ite (by simp [hm]) ?_
  split
  · simp [hm]
  · next l _ =>
    have hg := State.gather_memOk (body + 1) hm (succPc (some l) s.cx.pc) l []
    split
    · next h => rw [h] at hg; exact stall_outOk hg
    · simp [hm]
    · simp [hm]
    · next t h =>
      rw [h] at hg
      dsimp only
      split
      · simp [hm]
      · simp [hm]
      · refine outOk_ite (by simp [hm]) ?_
        simp [show t.memOk = true from hg]

end

end Sys2Proof.Machine

/-! PROOFS. Every step keeps both memories in canonical form. -/

namespace Sys2Proof.Machine

/-! ## Splicing the memories of a replayed core (28 R408) -/

theorem Memory.wfFrom_append {m n : List Host.Cell} {hi : Nat} (hn : Memory.wfFrom hi n = true) :
    ∀ {lo : Nat}, Memory.wfFrom lo m = true → lo ≤ hi → (∀ c ∈ m, c.1 < hi) → Memory.wfFrom lo (m ++ n) = true := by
  induction m with
  | nil => intro lo _ hlo _; exact Memory.wfFrom_mono hn hlo
  | cons c r ih =>
    obtain ⟨a, v⟩ := c
    intro lo hm hlo hb
    simp only [List.cons_append, Memory.wfFrom, Bool.and_eq_true] at hm ⊢
    exact ⟨hm.1, ih hm.2 (hb (a, v) (List.mem_cons_self ..)) fun c hc => hb c (List.mem_cons_of_mem _ hc)⟩

theorem Memory.wfFrom_of_le {m : List Host.Cell} {lo hi : Nat} (hm : Memory.wfFrom lo m = true) (hb : ∀ c ∈ m, hi ≤ c.1) :
    Memory.wfFrom hi m = true := by
  cases m with
  | nil => rfl
  | cons c r =>
    obtain ⟨a, v⟩ := c
    simp only [Memory.wfFrom, Bool.and_eq_true, decide_eq_true_eq] at hm ⊢
    exact ⟨⟨hb (a, v) (List.mem_cons_self ..), hm.1.2⟩, hm.2⟩

/-- The bytes of one core from one memory, between the lower and the higher cores' from another. -/
theorem Memory.wf_splice {m n : List Host.Cell} (hm : Memory.wf m = true) (hn : Memory.wf n = true) {size : Nat} (hsize : 0 < size)
    (core : Nat) : Memory.wf (splice (fun c => c.1) size core m n) = true := by
  unfold splice
  have hhigh : Memory.wfFrom ((core + 1) * size) (m.filter fun c => decide (core < c.1 / size)) = true := by
    refine Memory.wfFrom_of_le (Memory.wf_filter hm _) fun c hc => ?_
    have hc' : core < c.1 / size := by simpa using (List.mem_filter.1 hc).2
    exact (Nat.le_div_iff_mul_le hsize).1 hc'
  have hown : Memory.wfFrom (core * size) (n.filter fun c => c.1 / size == core) = true := by
    refine Memory.wfFrom_of_le (Memory.wf_filter hn _) fun c hc => ?_
    have hc' : c.1 / size = core := by simpa using (List.mem_filter.1 hc).2
    exact (Nat.le_div_iff_mul_le hsize).1 hc'.ge
  have hlow : Memory.wfFrom 0 (m.filter fun c => decide (c.1 / size < core)) = true := Memory.wf_filter hm _
  rw [List.append_assoc]
  refine Memory.wfFrom_append (hi := core * size) (Memory.wfFrom_append hhigh hown ?_ fun c hc => ?_) hlow (Nat.zero_le _) fun c hc => ?_
  · exact Nat.mul_le_mul_right _ (Nat.le_succ _)
  · have hc' : c.1 / size = core := by simpa using (List.mem_filter.1 hc).2
    exact (Nat.div_lt_iff_lt_mul hsize).1 (by omega)
  · have hc' : c.1 / size < core := by simpa using (List.mem_filter.1 hc).2
    exact (Nat.div_lt_iff_lt_mul hsize).1 hc'

section
variable {s : State}

/-! ## Issue and execution -/

/-- The state that a turn of a strand issues from, or halts in. -/
def Prep.state : Prep → State
  | .go _ t => t
  | .halt t => t

theorem State.issueAt_memOk (hm : s.memOk = true) : s.issueAt.state.memOk = true := by
  unfold State.issueAt
  split
  · exact hm
  · split
    · exact State.takeTrap_memOk hm ..
    · split
      · exact State.takeTrap_memOk hm ..
      · next h t _ _ i _ _ =>
        have hgo {u : State} (hu : u.memOk = true) : (if u.held h t then Prep.halt u else Prep.go i u).state.memOk = true := by
          split <;> exact hu
        dsimp only
        split
        · next n _ =>
          have hact := State.act_memOk hm (s.cx.fld (0x028 + n) 61 2) xBreak (0x100 + n)
          split
          · next ha => rw [ha] at hact; exact hact
          · next ha => rw [ha] at hact; exact hgo ((State.setCx_memOk _).trans hact)
        · exact hgo hm

theorem State.issue_memOk (hm : s.memOk = true) : s.issue.state.memOk = true := by
  unfold State.issue
  split
  · exact hm
  · split
    · next ht => exact State.boundary_memOk hm ht
    · split
      · exact hm
      · split
        · exact State.issueAt_memOk hm
        · split
          · exact State.takeTrap_memOk hm ..
          · exact (State.startWalks_memOk ..).trans hm
          · next hf => exact (State.fetch_wait_memOk hf).trans hm
          · next hf => exact State.issueAt_memOk ((State.setCx_memOk _).trans (State.fetch_ok_memOk hm hf))

/-- Every instruction and every step that has no instruction keeps the form: the rule of each, by the instruction. -/
theorem exec_outOk (hm : s.memOk = true) (i : Instr) : outOk (exec i s) = true := by
  unfold exec
  cases i with
  | add | sub | and | or | xor | andn | shl | shr | sar | rol | min | max | minN | maxN | slt | sltN | seq | mul | mulh | mulhN
  | div | divN | rem | remN | adds | subs => exact alu2_outOk hm ..
  | addw | subw => exact checked_outOk hm _ _ (aluPair_outOk hm ..)
  | mulw => exact checked_outOk hm _ _ (reading_outOk hm _ (by simp [hm]))
  | clz | ctz | popc | brev | bswap => exact alu1_outOk hm ..
  | addi | andi | ori | xori | shli | shri | sari | roli | muli | slti | sltiN | seqi => exact aluI_outOk hm ..
  | b | call => exact enterAndLink_outOk hm ..
  | bz | bnz | blt | bge | bltN | bgeN => exact branch_outOk hm ..
  | ldB | ldBn | ldH | ldHn | ldW | ldWn | ldD => exact ldM_outOk hm ..
  | stB | stH | stW | stD => exact stM_outOk hm ..
  | ldxB | ldxBn | ldxH | ldxHn | ldxW | ldxWn | ldxD => exact ldS_outOk hm ..
  | stxB | stxH | stxW | stxD => exact stS_outOk hm ..
  | amoSwap | amoAdd | amoAnd | amoOr | amoXor | amoMin | amoMax | amoMinN | amoMaxN | amoCas | amoFadd => exact amo_outOk hm ..
  | redAdd | redAnd | redOr | redXor | redMin | redMax | redFadd => exact red_outOk hm ..
  | cpy | cpyt => exact copyIssue_outOk hm ..
  | vadd | vsub | vmul | vmin | vmax | vand | vor | vxor | vshl | vshr | vsar | vadds | vsubs | vabs => exact vint_outOk hm ..
  | vfadd | vfmul | vfma | vfmin | vfmax | vrcp | vrsq | vexp2 | vlog2 => exact vfp_outOk hm ..
  | vfneg | vfabs => exact vfsign_outOk hm ..
  | vcmpEq | vcmpLt | vcmpLe | vcmpNe => exact vcmp_outOk hm ..
  | kand | kor | kxor | knot => exact kop_outOk hm ..
  | vcvt => exact lanewise_outOk hm ..
  | vld | vst | vlds | vsts | vgath | vscat => exact vmem_outOk hm ..
  | vshuf | vrot => exact vperm_outOk hm ..
  | mma | mmau | mmas | mmaus => exact mmaForm_outOk hm ..
  | msta | mstm => exact tileStore_outOk hm ..
  | std | filld => exact remoteStore_outOk hm ..
  | lnkctlPark | lnkctlLight | lnkctlRetrain => exact lnkctlWl_outOk hm ..
  | tret => exact trapReturn_outOk hm ..
  | wavelengthReset | wavelengthPark | wavelengthLight | wavelengthRetrain => exact hostWl_outOk hm ..
  | qbaseWrite => exact execQbaseWrite_outOk hm ..
  | portbWrite => exact execPortbWrite_outOk hm ..
  | barrierRegisterWrite => exact execBarrierRegisterWrite_outOk hm ..
  | satcntWrite => exact execSatcntWrite_outOk hm ..
  | fadeEtaWrite => exact execFadeEtaWrite_outOk hm ..
  | bmodeWrite => exact execBmodeWrite_outOk hm ..
  | pctlWrite => exact execPctlWrite_outOk hm ..
  | fprogvAbandon => exact execFprogvAbandon_outOk hm ..
  | _ => simp [hm]

/-! ## The turns of the strands and of the engines -/

@[simp] theorem State.select_memOk (core slot : Nat) : (s.select core slot).memOk = s.memOk := by
  simp [State.select]

@[simp] theorem State.preempt_memOk (hm : s.memOk = true) (cid : Nat) : (s.preempt cid).memOk = true := by
  simp [State.preempt, hm]

@[simp] theorem State.endStep_memOk (hm : s.memOk = true) (cid : Nat) (old : Ctx) : (s.endStep cid old).memOk = true := by
  unfold State.endStep
  split
  · exact hm
  · dsimp only
    split
    · exact hm
    · split
      case h_3 | h_4 => split <;> simp [hm]
      all_goals simp [hm]

theorem State.mute_memOk {t : State} (ht : t.memOk = true) (hm : s.memOk = true) (core : Nat) : (t.mute s core).memOk = true := by
  unfold State.mute
  split
  · exact ht
  · exact State.memOk_of_spad hm (Memory.wf_splice (State.spad_wf hm) (State.spad_wf ht) (by decide) core) rfl

theorem State.logTurn_memOk {t : State} (ht : t.memOk = true) (i : Instr) : (t.logTurn s i).memOk = true := by
  unfold State.logTurn
  extract_lets u
  have hu : u.memOk = true := foldl_memOk ht (fun _ k hv => State.logDiff_memOk hv ..) _
  split
  · split
    · exact State.logRx_memOk hu ..
    · exact hu
  · exact hu

theorem onNext_outOk {o : Out} (ho : outOk o = true) {f : State → State} (hf : ∀ u, u.memOk = true → (f u).memOk = true) :
    outOk (onNext o f) = true := by
  cases o with
  | next u => exact hf u ho
  | fault r => rfl
  | refused r => rfl

@[simp] theorem State.setStall_memOk (cid : Nat) (w : Option Nat) : (s.setStall cid w).memOk = s.memOk := by
  simp [State.setStall]

theorem State.strandTurn_outOk (hm : s.memOk = true) (cid : Nat) : outOk (s.strandTurn cid).2 = true := by
  unfold State.strandTurn
  extract_lets u t
  have hissue := State.issue_memOk (s := u) hm
  split
  · next i v hi =>
    have hv : v.memOk = true := by rw [hi] at hissue; exact hissue
    split
    · simp [hv]
    · refine onNext_outOk (exec_outOk hv i) fun w hw => State.endStep_memOk ?_ ..
      exact (State.setStall_memOk ..).trans (State.logTurn_memOk (State.mute_memOk hw hv _) i)
  · next v hi =>
    have hv : v.memOk = true := by rw [hi] at hissue; exact hissue
    exact State.endStep_memOk ((State.setStall_memOk ..).trans hv) ..

theorem State.coreTurn_outOk (hm : s.memOk = true) (core : Nat) : outOk (s.coreTurn core).2 = true := by
  unfold State.coreTurn
  split
  · dsimp only
    split
    · exact State.preempt_memOk hm _
    · exact State.strandTurn_outOk hm _
  · split
    · exact (State.select_memOk ..).trans hm
    · exact hm

theorem State.takeTurn_outOk (hm : s.memOk = true) : outOk s.takeTurn.2 = true := by
  unfold State.takeTurn
  extract_lets ts u
  have hu : u.memOk = true := hm
  split
  · exact State.coreTurn_outOk hu _
  · exact State.strandTurn_outOk hu _
  · exact hu

theorem State.engineTurn_outOk (hm : s.memOk = true) : outOk s.engineTurn.2 = true := by
  unfold State.engineTurn
  extract_lets ds u
  have hu : u.memOk = true := hm
  split
  · next i _ =>
    refine onNext_outOk (exec_outOk hu i) fun t ht => ?_
    cases ownEngine i with
    | none => exact ht
    | some core => exact State.mute_memOk ht hu core
  · exact hu

theorem State.choose_outOk (hm : s.memOk = true) : outOk s.choose.2 = true := by
  unfold State.choose
  split
  · next i _ =>
    extract_lets t
    have ht : t.memOk = true := hm
    exact outOk_ite ht (exec_outOk ht i)
  · split
    · exact State.engineTurn_outOk hm
    · exact State.takeTurn_outOk hm

/-! ## A step -/

@[simp] theorem State.issueBit_memOk (t : Turn) : (s.issueBit t).memOk = s.memOk := by
  unfold State.issueBit
  dsimp only
  split <;> simp

@[simp] theorem State.tick_memOk (t : Turn) : (s.tick t).memOk = s.memOk := by
  simp [State.tick]

theorem State.run_outOk (hm : s.memOk = true) : outOk s.run = true := by
  unfold State.run
  split
  · rfl
  · exact onNext_outOk (State.choose_outOk hm) fun u hu => by simp [hu]

end

/-- Settles O6: each instruction, each step of the device's own and each command of the host keeps the form, and so do the
schedule, the splicing of a replayed core's memory and the passing of time. -/
theorem stepKeepsMemory : Obligations.StepKeepsMemory := by
  unfold Obligations.StepKeepsMemory
  intro s t hm hstep
  have hrun := State.run_outOk hm
  rw [show s.run = .next t from hstep] at hrun
  exact hrun

end Sys2Proof.Machine
